-- ==== Sys2Proof/Word.lean ====
section
/-!
DEFINITION. The word types of the device: bytes, 32-bit register words, and sparse maps in one canonical form.
-/
namespace Sys2Proof

/-- One byte of any memory. -/
abbrev Byte := BitVec 8

/-- One 32-bit word: scalar registers, vector lanes and every control and status register (R112, R400). -/
abbrev Word := BitVec 32

/-- A sparse map from keys to values: keys strictly rising, no entry equal to what an unlisted key reads as
(the default is named by each reader). Memories are `SMap Byte`, that is lists of `Host.Cell`. -/
abbrev SMap (α : Type) := List (Nat × α)

end Sys2Proof
end

