-- ==== Sys2Proof/Syntax.lean ====
section
/-!
DEFINITION. The commands of the device: one constructor of `Instr` for each row of spec/opcode_table.json.
Slot operations carry the header operands of their long word (R108); event rows name the unit in which the event happens.
-/
namespace Sys2Proof

/-- What the header of a long word gives an operation of the word (R108), the table that issues it and the
granule address of the word (R109). `first` marks the first operation of a word: the dealer moves to its next
issue cycle before it (R111); the other operations of the word issue in the same cycle. `core` is the logical core
that issues the word in Folmir Taper mode (R136), and is not looked at otherwise. `table` is a physical table. -/
structure Hdr where
  table : Nat
  core  : Nat
  pc    : BitVec 17
  grd   : BitVec 3
  gneg  : Bool
  idle  : BitVec 4
  first : Bool
  deriving DecidableEq, Repr

/-- The fields of MDOT (R54). -/
structure MdotOp where
  mode  : BitVec 3
  hfmt  : BitVec 4
  wfmt  : BitVec 4
  hsel  : Bool
  src   : Bool
  wrep  : Bool
  aset  : BitVec 3
  entry : BitVec 6
  zero  : Bool
  msk   : BitVec 2
  hscl  : Bool
  wscl  : Bool
  part  : Bool
  klen  : BitVec 7
  deriving DecidableEq, Repr

/-- The two external tiers (R209). -/
inductive Tier where
  | hbm | ddr
  deriving DecidableEq, Repr

/-- A shaper (R215): a table's for one tier, or one DMA channel's. DMA blocks 0 to 7 are the compute dies', 8 and 9 the IO dies'. -/
inductive ShaperId where
  | table (t : Nat) (tier : Tier)
  | dma (blk ch : Nat)
  deriving DecidableEq, Repr

/-- What the check bits of a tier granule show when it is served (R225). -/
inductive GranuleErr where
  | clean
  | corrected (device : BitVec 5)
  | uncorrectable
  deriving DecidableEq, Repr

/-- A frame of the host message protocol (R270) as it arrives on queue pair `qpn`; the TYPE byte is the row's.
`body` is every byte after the 16-byte header (for QUERY and SIGNAL the row fixes body byte 0, which is left out). -/
structure HostFrame where
  qpn    : BitVec 24
  ver    : BitVec 8
  len    : BitVec 16
  tag    : BitVec 32
  job    : BitVec 8
  status : BitVec 16
  rsv    : BitVec 40
  body   : List Byte
  deriving DecidableEq, Repr

/-- What the RDMA READ of the image brings (R272): the bytes, or nothing when the read failed, and, for a
submission that resumes a context record, that record (R254). -/
structure AdmissionInput where
  image   : Option (List Byte)
  context : Option (List Byte)
  deriving DecidableEq, Repr

/-- A cell of Benrax Link (R288): flit data, flit tag and the link header. -/
structure Cell where
  data  : List Byte
  tag   : BitVec 64
  ckind : BitVec 2
  lseq  : BitVec 16
  lack  : BitVec 16
  nak   : Bool
  hold  : Bool
  ddev  : BitVec 12
  sdev  : BitVec 12
  nmask : BitVec 32
  crc   : BitVec 32
  deriving DecidableEq, Repr

/-- What a training run of a fabric port finds (R303, R304): the neighbour's address and port, the measured
latency, and the healthy lanes. -/
structure TrainingResult where
  naddr : BitVec 12
  nport : BitVec 4
  plat  : BitVec 16
  lanes : BitVec 9
  deriving DecidableEq, Repr

/-- What the boot ROMs meet outside the configuration memory (R338): whether the power-on count entry could be
written and read back, whether the HBM stacks trained, the DDR5 channels found present with their capacity in
GiB and organisation (R211), and the physical cores that fail the self test (R369). -/
structure BootInput where
  ponOk    : Bool
  hbmOk    : Bool
  ddrFound : List (Nat × Nat)
  ddrDiffer : Bool
  coresBad : List (Nat × Nat)
  hostLanes : BitVec 8
  deriving DecidableEq, Repr

/-- An SPDM request message (R350) and its path: MCTP on I3C, or an ATTEST frame of the host, whose body it is. -/
inductive SpdmReq where
  | mctp (msg : List Byte)
  | host (f : HostFrame)
  deriving DecidableEq, Repr

/-- The commands: one constructor for each row of spec/opcode_table.json, in the table's order. -/
inductive Instr where
  /-- ADD (R116): S-slot operation that writes sa + sb modulo 2^32 to sd. -/
  | add (h : Hdr) (sd : BitVec 5) (sa : BitVec 5) (sb : BitVec 5)
  /-- SUB (R116): S-slot operation that writes sa - sb to sd. -/
  | sub (h : Hdr) (sd : BitVec 5) (sa : BitVec 5) (sb : BitVec 5)
  /-- AND (R116): S-slot operation that writes the bitwise and of sa and sb to sd. -/
  | and (h : Hdr) (sd : BitVec 5) (sa : BitVec 5) (sb : BitVec 5)
  /-- OR (R116): S-slot operation that writes the bitwise or of sa and sb to sd. -/
  | or (h : Hdr) (sd : BitVec 5) (sa : BitVec 5) (sb : BitVec 5)
  /-- XOR (R116): S-slot operation that writes the bitwise xor of sa and sb to sd. -/
  | xor (h : Hdr) (sd : BitVec 5) (sa : BitVec 5) (sb : BitVec 5)
  /-- SHL (R116): S-slot operation that shifts sa left by sb modulo 32. -/
  | shl (h : Hdr) (sd : BitVec 5) (sa : BitVec 5) (sb : BitVec 5)
  /-- SHR (R116): S-slot operation that shifts sa logically right by sb modulo 32. -/
  | shr (h : Hdr) (sd : BitVec 5) (sa : BitVec 5) (sb : BitVec 5)
  /-- SAR (R116): S-slot operation that shifts sa arithmetically right by sb modulo 32. -/
  | sar (h : Hdr) (sd : BitVec 5) (sa : BitVec 5) (sb : BitVec 5)
  /-- MUL (R116): S-slot operation that writes the low 32 bits of sa times sb. -/
  | mul (h : Hdr) (sd : BitVec 5) (sa : BitVec 5) (sb : BitVec 5)
  /-- MIN (R116): S-slot operation that writes the signed minimum of sa and sb. -/
  | min (h : Hdr) (sd : BitVec 5) (sa : BitVec 5) (sb : BitVec 5)
  /-- MAX (R116): S-slot operation that writes the signed maximum of sa and sb. -/
  | max (h : Hdr) (sd : BitVec 5) (sa : BitVec 5) (sb : BitVec 5)
  /-- ADDI (R116): S-slot operation that adds a sign-extended immediate to sa. -/
  | addi (h : Hdr) (sd : BitVec 5) (sa : BitVec 5) (imm : BitVec 16)
  /-- ANDI (R116): S-slot operation that ands sa with a zero-extended immediate. -/
  | andi (h : Hdr) (sd : BitVec 5) (sa : BitVec 5) (imm : BitVec 16)
  /-- ORI (R116): S-slot operation that ors sa with a zero-extended immediate. -/
  | ori (h : Hdr) (sd : BitVec 5) (sa : BitVec 5) (imm : BitVec 16)
  /-- XORI (R116): S-slot operation that xors sa with a zero-extended immediate. -/
  | xori (h : Hdr) (sd : BitVec 5) (sa : BitVec 5) (imm : BitVec 16)
  /-- SHLI (R116): S-slot operation that shifts sa left by IMM[4:0]. -/
  | shli (h : Hdr) (sd : BitVec 5) (sa : BitVec 5) (imm : BitVec 16)
  /-- SHRI (R116): S-slot operation that shifts sa logically right by IMM[4:0]. -/
  | shri (h : Hdr) (sd : BitVec 5) (sa : BitVec 5) (imm : BitVec 16)
  /-- SARI (R116): S-slot operation that shifts sa arithmetically right by IMM[4:0]. -/
  | sari (h : Hdr) (sd : BitVec 5) (sa : BitVec 5) (imm : BitVec 16)
  /-- LUI (R116): S-slot operation that writes IMM shifted left by 16 to sd. -/
  | lui (h : Hdr) (sd : BitVec 5) (imm : BitVec 16)
  /-- CMP (R116): S-slot operation that sets a predicate from a condition on two scalar registers. -/
  | cmp (h : Hdr) (pd : BitVec 3) (cond : BitVec 3) (sa : BitVec 5) (sb : BitVec 5)
  /-- CMPI (R116): S-slot operation that sets a predicate from a condition on a register and a sign-extended immediate. -/
  | cmpi (h : Hdr) (pd : BitVec 3) (cond : BitVec 3) (sa : BitVec 5) (imm : BitVec 15)
  /-- PLOG (R116): S-slot operation that combines two predicates with AND, OR, XOR or AND NOT. -/
  | plog (h : Hdr) (pd : BitVec 3) (pa : BitVec 3) (pb : BitVec 3) (op : BitVec 2)
  /-- MFR (R117): S-slot move from a task-reachable core, accumulator or dealer register into a scalar register. -/
  | mfr (h : Hdr) (sr : BitVec 5) (blk : BitVec 2) (off : BitVec 12)
  /-- MTR (R117): S-slot move of a scalar register into a task-writable register, with dealer registers written once from logical core 0. -/
  | mtr (h : Hdr) (sr : BitVec 5) (blk : BitVec 2) (off : BitVec 12)
  /-- SQPOP (R116): S-slot pop of the head of the scalar operand queue into sd. -/
  | sqpop (h : Hdr) (sd : BitVec 5)
  /-- VADDF (R119): Vector binary32 addition per unmasked lane with one RNE rounding. -/
  | vaddf (h : Hdr) (msk : BitVec 2) (vd : BitVec 5) (va : BitVec 5) (vb : BitVec 5)
  /-- VSUBF (R119): Vector binary32 subtraction per unmasked lane. -/
  | vsubf (h : Hdr) (msk : BitVec 2) (vd : BitVec 5) (va : BitVec 5) (vb : BitVec 5)
  /-- VMULF (R119): Vector binary32 multiplication per unmasked lane. -/
  | vmulf (h : Hdr) (msk : BitVec 2) (vd : BitVec 5) (va : BitVec 5) (vb : BitVec 5)
  /-- VFMAF (R119): Vector fused multiply-add va x vb + vc with one rounding. -/
  | vfmaf (h : Hdr) (msk : BitVec 2) (vd : BitVec 5) (va : BitVec 5) (vb : BitVec 5) (vc : BitVec 5)
  /-- VMINF (R119): Vector binary32 minimum with -0 ordered below +0. -/
  | vminf (h : Hdr) (msk : BitVec 2) (vd : BitVec 5) (va : BitVec 5) (vb : BitVec 5)
  /-- VMAXF (R119): Vector binary32 maximum with -0 ordered below +0. -/
  | vmaxf (h : Hdr) (msk : BitVec 2) (vd : BitVec 5) (va : BitVec 5) (vb : BitVec 5)
  /-- VABSF (R118): Vector binary32 absolute value. -/
  | vabsf (h : Hdr) (msk : BitVec 2) (vd : BitVec 5) (va : BitVec 5)
  /-- VNEGF (R118): Vector binary32 negation. -/
  | vnegf (h : Hdr) (msk : BitVec 2) (vd : BitVec 5) (va : BitVec 5)
  /-- VCMPF (R119): Vector binary32 comparison writing all-ones or zero per lane. -/
  | vcmpf (h : Hdr) (msk : BitVec 2) (vd : BitVec 5) (va : BitVec 5) (vb : BitVec 5) (cond : BitVec 3)
  /-- VADDI (R118): Vector integer addition modulo 2^32. -/
  | vaddi (h : Hdr) (msk : BitVec 2) (vd : BitVec 5) (va : BitVec 5) (vb : BitVec 5)
  /-- VSUBI (R118): Vector integer subtraction. -/
  | vsubi (h : Hdr) (msk : BitVec 2) (vd : BitVec 5) (va : BitVec 5) (vb : BitVec 5)
  /-- VMULI (R118): Vector integer multiplication, low 32 bits. -/
  | vmuli (h : Hdr) (msk : BitVec 2) (vd : BitVec 5) (va : BitVec 5) (vb : BitVec 5)
  /-- VMINI (R118): Vector signed integer minimum. -/
  | vmini (h : Hdr) (msk : BitVec 2) (vd : BitVec 5) (va : BitVec 5) (vb : BitVec 5)
  /-- VMAXI (R118): Vector signed integer maximum. -/
  | vmaxi (h : Hdr) (msk : BitVec 2) (vd : BitVec 5) (va : BitVec 5) (vb : BitVec 5)
  /-- VAND (R118): Vector bitwise and. -/
  | vand (h : Hdr) (msk : BitVec 2) (vd : BitVec 5) (va : BitVec 5) (vb : BitVec 5)
  /-- VOR (R118): Vector bitwise or. -/
  | vor (h : Hdr) (msk : BitVec 2) (vd : BitVec 5) (va : BitVec 5) (vb : BitVec 5)
  /-- VXOR (R118): Vector bitwise xor. -/
  | vxor (h : Hdr) (msk : BitVec 2) (vd : BitVec 5) (va : BitVec 5) (vb : BitVec 5)
  /-- VSHL (R118): Vector left shift by vb modulo 32. -/
  | vshl (h : Hdr) (msk : BitVec 2) (vd : BitVec 5) (va : BitVec 5) (vb : BitVec 5)
  /-- VSHR (R118): Vector logical right shift. -/
  | vshr (h : Hdr) (msk : BitVec 2) (vd : BitVec 5) (va : BitVec 5) (vb : BitVec 5)
  /-- VSAR (R118): Vector arithmetic right shift. -/
  | vsar (h : Hdr) (msk : BitVec 2) (vd : BitVec 5) (va : BitVec 5) (vb : BitVec 5)
  /-- VCMPI (R118): Vector integer comparison writing all-ones or zero per lane. -/
  | vcmpi (h : Hdr) (msk : BitVec 2) (vd : BitVec 5) (va : BitVec 5) (vb : BitVec 5) (cond : BitVec 3)
  /-- VSEL (R118): Vector select of va or vb by vc per lane. -/
  | vsel (h : Hdr) (msk : BitVec 2) (vd : BitVec 5) (va : BitVec 5) (vb : BitVec 5) (vc : BitVec 5)
  /-- VMOV (R118): Vector register move. -/
  | vmov (h : Hdr) (msk : BitVec 2) (vd : BitVec 5) (va : BitVec 5) (vb : BitVec 5)
  /-- VBCST (R118): Broadcast of a scalar register into every unmasked lane. -/
  | vbcst (h : Hdr) (msk : BitVec 2) (vd : BitVec 5) (sb : BitVec 5)
  /-- VROT (R118): Rotation of a vector register across lanes by a scalar amount. -/
  | vrot (h : Hdr) (msk : BitVec 2) (vd : BitVec 5) (va : BitVec 5) (sb : BitVec 5)
  /-- VTOM (R118): Write of a lane mask register from bit 0 of every lane. -/
  | vtom (h : Hdr) (sel : Bool) (va : BitVec 5)
  /-- VTOP (R118): Predicate set to the OR over unmasked lanes of bit 0. -/
  | vtop (h : Hdr) (msk : BitVec 2) (pd : BitVec 3) (va : BitVec 5)
  /-- VIDX (R118): Write of each lane's own index into the destination. -/
  | vidx (h : Hdr) (msk : BitVec 2) (vd : BitVec 5)
  /-- VGET (R118): Extraction of one lane's word into a scalar register. -/
  | vget (h : Hdr) (sd : BitVec 5) (va : BitVec 5) (sb : BitVec 5)
  /-- VREDMAXF (R119): Binary32 maximum over unmasked lanes written to every unmasked lane. -/
  | vredmaxf (h : Hdr) (msk : BitVec 2) (vd : BitVec 5) (va : BitVec 5) (vb : BitVec 5)
  /-- VREDMINF (R119): Binary32 minimum over unmasked lanes written to every unmasked lane. -/
  | vredminf (h : Hdr) (msk : BitVec 2) (vd : BitVec 5) (va : BitVec 5) (vb : BitVec 5)
  /-- VREDI (R119): Integer sum over unmasked lanes modulo 2^32. -/
  | vredi (h : Hdr) (msk : BitVec 2) (vd : BitVec 5) (va : BitVec 5) (vb : BitVec 5)
  /-- VQPOP (R118): Pop of the head entry of the vector operand queue into a vector register. -/
  | vqpop (h : Hdr) (vd : BitVec 5)
  /-- CVT (R79): Per-lane format conversion with rounding, saturation and sticky NV and OF flags. -/
  | cvt (h : Hdr) (msk : BitVec 2) (vd : BitVec 5) (vs : BitVec 5) (sfmt : BitVec 5) (dfmt : BitVec 5) (rm : BitVec 3) (sat : Bool) (cb : Bool)
  /-- CVMX (R84): Formation of two Microscaling blocks with shared E8M0 scales from binary32 lanes. -/
  | cvmx (h : Hdr) (vd : BitVec 5) (vs : BitVec 5) (vsc : BitVec 5) (dfmt : BitVec 5) (rm : BitVec 3)
  /-- ARD (R96): Read-out of one accumulator entry of every lane, rounded once into a vector register. -/
  | ard (h : Hdr) (vd : BitVec 5) (aset : BitVec 3) (entry : BitVec 6) (ofmt : BitVec 5) (rm : BitVec 3) (spec : Bool) (j : BitVec 4) (rv : BitVec 5)
  /-- ARDR (R59): Raw read-out of one accumulator entry's fixed-point bits into 4 or 8 vector registers. -/
  | ardr (h : Hdr) (vd : BitVec 5) (aset : BitVec 3) (entry : BitVec 6)
  /-- GMX (R102): One glowmix call per unmasked lane, writing 64 random bits to a register pair. -/
  | gmx (h : Hdr) (msk : BitVec 2) (vd : BitVec 5) (vx : BitVec 5) (seed : BitVec 4) (sstr : BitVec 5) (seb : BitVec 5) (suse : BitVec 5)
  /-- CURV (R120): Curve-table evaluation of a cubic segment per unmasked lane. -/
  | curv (h : Hdr) (msk : BitVec 2) (vd : BitVec 5) (va : BitVec 5) (tab : BitVec 3)
  /-- TKCFG (R63): Configuration and emptying of the top-k trackers of all lanes. -/
  | tkcfg (h : Hdr) (two : Bool) (depth : BitVec 5) (desc : Bool) (int32 : Bool)
  /-- TKINS (R64): Offer of a score and common index to each unmasked lane's top-k list. -/
  | tkins (h : Hdr) (msk : BitVec 2) (list : Bool) (vs : BitVec 5) (sidx : BitVec 5)
  /-- TKRD (R65): Read of the score and index held at one rank of a top-k list. -/
  | tkrd (h : Hdr) (list : Bool) (rank : BitVec 4) (vds : BitVec 5) (vdi : BitVec 5)
  /-- MDOT (R56): Dot-product or distance step of held and weight elements into one accumulator entry of every unmasked lane. -/
  | mdot (h : Hdr) (op : MdotOp)
  /-- MCLR (R57): Sets a range of entries of unmasked lanes to zero, +MAX or -MAX. -/
  | mclr (h : Hdr) (val : BitVec 2) (aset : BitVec 3) (first : BitVec 6) (last : BitVec 6) (msk : BitVec 2)
  /-- MSETW (R57): Sets a set's width and anchor, clears all its entries and its sticky flags. -/
  | msetw (h : Hdr) (aset : BitVec 3) (wide : Bool) (anchor : BitVec 10)
  /-- MRED (R58): Exact reduction of one entry across contributing lanes into the lowest lane, ORing flags. -/
  | mred (h : Hdr) (aset : BitVec 3) (entry : BitVec 6) (dentry : BitVec 6) (msk : BitVec 2) (keep : Bool) (rop : BitVec 2)
  /-- MINJ (R59): Adds a raw fixed-point value from vector registers into an entry of unmasked lanes. -/
  | minj (h : Hdr) (aset : BitVec 3) (entry : BitVec 6) (vsrc : BitVec 5) (msk : BitVec 2)
  /-- WARM (R49): Arms the weight streamer with a descriptor and reads vectors 0 to 7, or disarms it. -/
  | warm (h : Hdr) (desc : BitVec 2) (off : Bool)
  /-- HLOAD (R42): Hold-loader fill of one lane pair's hold half and scale fields through read port 0. -/
  | hload (h : Hdr) (desc : BitVec 2) (half : Bool) (adv : Bool)
  /-- CBLOAD (R76): Loads one quarter of a codebook's shadow copy, optionally committing it to the active copy. -/
  | cbload (h : Hdr) (book : Bool) (q : BitVec 2) (commit : Bool) (sa : BitVec 5) (off : BitVec 19)
  /-- CTLOAD (R120): Loads 128 B of curve-table segments or header. -/
  | ctload (h : Hdr) (tab : BitVec 3) (grp : BitVec 6) (sa : BitVec 5) (off : BitVec 19)
  /-- LDV (R121): Load of a vector register from scratchpad, contiguous, strided or transposing. -/
  | ldv (h : Hdr) (vd : BitVec 5) (w : BitVec 3) (mode : BitVec 2) (sa : BitVec 5) (sb : BitVec 5) (off : BitVec 19)
  /-- LDS (R121): Load of a scalar register from scratchpad. -/
  | lds (h : Hdr) (sd : BitVec 5) (sa : BitVec 5) (off : BitVec 19)
  /-- GTH (R145): Gather of one element per unmasked lane at per-lane offsets, fixed 16 cc. -/
  | gth (h : Hdr) (vd : BitVec 5) (vo : BitVec 5) (sa : BitVec 5) (w : BitVec 2) (msk : BitVec 2)
  /-- SHLD (R151): Moves 32 B from the table's shelf share into scratchpad through the shelf path. -/
  | shld (h : Hdr) (ssh : BitVec 5) (sa : BitVec 5) (off : BitVec 19)
  /-- STV (R122): Store of a vector register to scratchpad in packed layout, honouring the lane mask. -/
  | stv (h : Hdr) (msk : BitVec 2) (vs : BitVec 5) (w : BitVec 3) (mode : BitVec 2) (sa : BitVec 5) (sb : BitVec 5) (off : BitVec 19)
  /-- STS (R122): Store of a scalar register to scratchpad. -/
  | sts (h : Hdr) (ss : BitVec 5) (sa : BitVec 5) (off : BitVec 19)
  /-- SHST (R151): Moves 32 B from scratchpad to the table's shelf share. -/
  | shst (h : Hdr) (ssh : BitVec 5) (sa : BitVec 5) (off : BitVec 19)
  /-- QREQ (R219): Requests entries of a decoupling queue: inbound FREE to PEND with a tier read, outbound HELD to PEND. -/
  | qreq (h : Hdr) (q : BitVec 4) (sp : BitVec 5) (n1 : BitVec 4)
  /-- QREL (R219): Releases the oldest held entries of an inbound queue to FREE. -/
  | qrel (h : Hdr) (q : BitVec 4) (n : BitVec 6)
  /-- SEND (R196): Sends a message of 1 to 16 flits per guarded core on a channel, waiting on credit. -/
  | send (h : Hdr) (chn : BitVec 6) (hidx : BitVec 6) (sa : BitVec 5) (off : BitVec 19) (f1 : BitVec 4)
  /-- NOP (R123): Y-slot operation that does nothing. -/
  | nop (h : Hdr)
  /-- END (R132): Ends issue for the task. -/
  | endTask (h : Hdr)
  /-- LOOP (R126): Latches a loop level's pending count and enters or skips a hardware loop body. -/
  | loop (h : Hdr) (lvl : BitVec 2) (addr : BitVec 17)
  /-- SETLC (R127): Sets the pending count of a loop level. -/
  | setlc (h : Hdr) (lvl : BitVec 2) (src : Bool) (val : BitVec 23)
  /-- BR (R125): Branch on a predicate combined across cores, issuing the target three cycles later. -/
  | br (h : Hdr) (cmode : BitVec 2) (pred : BitVec 3) (neg : Bool) (addr : BitVec 17)
  /-- WAIT (R164): Waits on a table or host counter for an amount, consuming it when met. -/
  | wait (h : Hdr) (dst : BitVec 2) (ctr : BitVec 8) (amt : BitVec 8) (tsel : BitVec 4)
  /-- SIG (R161): Signals a table counter, a remote table counter over a channel or an outbound host counter. -/
  | sig (h : Hdr) (dst : BitVec 2) (ctr : BitVec 8) (amt : BitVec 8) (chn : BitVec 6)
  /-- QWAIT (R219): Waits for data or space in a decoupling queue. -/
  | qwait (h : Hdr) (q : BitVec 4) (space : Bool) (n : BitVec 6)
  /-- DWAIT (R234): Waits for a completion of a DMA channel and consumes it. -/
  | dwait (h : Hdr) (ch : BitVec 7)
  /-- HWIN (R129): Opens a handler window of fixed length for CNT messages on a channel. -/
  | hwin (h : Hdr) (chn : BitVec 6) (cnt : BitVec 6) (wlen : BitVec 12)
  /-- HRET (R205): Last word of a handler; discards unpopped entries and frees the record. -/
  | hret (h : Hdr)
  /-- TRICK (R131): Records a trick boundary and pauses the task when it is the armed target and the table is quiet. -/
  | trick (h : Hdr) (id : BitVec 12) (repart : Bool)
  /-- WAIT_MET (R164): A late WAIT is met when the counter reaches its amount, and issue resumes. -/
  | waitMet (t : Nat)
  /-- SYN_TIMEOUT (R167): A timed WAIT not met by its timeout expires and aborts the job. -/
  | synTimeout (t : Nat)
  /-- QWAIT_MET (R219): A late QWAIT is met when enough entries are FULL or FREE, which become HELD. -/
  | qwaitMet (t : Nat)
  /-- DWAIT_MET (R234): A late DWAIT is met when a completion arrives. -/
  | dwaitMet (t : Nat)
  /-- SEND_CREDIT_MET (R196): A SEND's credit condition holds and each core begins reading its payload. -/
  | sendCreditMet (t : Nat)
  /-- CHN_STALL (R203): A SEND's credit stays unmet for CHN_STALLTO cc and the job is aborted. -/
  | chnStall (t : Nat)
  /-- HWIN_OPEN (R129): A late handler window opens once its messages are present and runs their handlers. -/
  | hwinOpen (t : Nat)
  /-- TAPER_LINE_FILL (R136): An instruction-cache line arrives after a Taper-mode miss and the core resumes issue. -/
  | taperLineFill (t : Nat) (c : Nat)
  /-- TASK_RELEASE (R27): A dealer issues a task's first word at its region's first cycle reaching the release tick. -/
  | taskRelease (t : Nat)
  /-- TASK_END (R132): A task ends once every operation issued before its END has reached its contract latency. -/
  | taskEnd (t : Nat)
  /-- SIGNAL_APPLY (R169): A signal reaching a table counter is applied once every earlier write of its channel has retired. -/
  | signalApply (t : Nat) (rchn : Nat)
  /-- SYN_RESIDUE (R175): When all tasks have ended and no signal is in flight, the counter-residue report is taken. -/
  | synResidue (j : Nat)
  /-- DECOUPLED_FILL (R146): A fill from DMA, a queue or a ring landing writes a bank in a cycle in which the bank is free. -/
  | decoupledFill (t : Nat) (c : Nat)
  /-- FLIT_DEPART (R187): A router output sends the oldest flit of the input or channel its slot-table entry names. -/
  | flitDepart (router : Nat) (out : Nat)
  /-- FLIT_ARRIVE (R191): A flit reaches a router input or crossing buffer, counted late if after its planned slot. -/
  | flitArrive (router : Nat) (inp : Nat)
  /-- PART_RETIRE (R199): A part's record is written into the receiving ring, possibly after a pad record, and the message becomes present. -/
  | partRetire (t : Nat) (rchn : Nat) (c : Nat)
  /-- CREDIT_RETURN (R206): The receiver sends a credit flit in the first reverse slot after a record is freed or moved. -/
  | creditReturn (t : Nat) (rchn : Nat)
  /-- SPILL_MOVE (R202): A spilled record is moved from the shelf spill region into the ring as space frees. -/
  | spillMove (t : Nat) (rchn : Nat) (c : Nat)
  /-- SHAPER_FORWARD (R215): A shaper forwards a 64 B granule when its credit holds 64 B. -/
  | shaperForward (sh : ShaperId)
  /-- GRANULE_RETIRE (R213): A memory granule retires at its destination, corrected or delivered as zeros on uncorrectable error. -/
  | granuleRetire (k : Nat) (err : GranuleErr) (data : List Byte)
  /-- QUEUE_ENTRY_FULL (R219): An inbound queue entry becomes FULL when its bytes and all earlier PEND entries have retired. -/
  | queueEntryFull (t : Nat) (c : Nat) (q : Nat)
  /-- QUEUE_ENTRY_FREE (R220): An outbound entry becomes FREE when its bytes have retired, signalling the queue counter after a whole QREQ. -/
  | queueEntryFree (t : Nat) (c : Nat) (q : Nat)
  /-- REFRESH (R26): A memory controller issues refresh at its pinned beacon multiple or by temperature in adaptive mode. -/
  | refresh (tier : Tier) (ctl : Nat)
  /-- HBM_SPARE (R226): A sparing copy ends and the channel map switches to the spare channel. -/
  | hbmSpare (stack : Nat) (chan : Nat)
  /-- HBM_LOST (R372): An HBM channel stops responding; a spare is mapped in with zero contents or capacity is lost. -/
  | hbmLost (stack : Nat) (chan : Nat)
  /-- DDR_LOST (R212): A DDR5 channel fails after training, its granules become holes and affected jobs are aborted. -/
  | ddrLost (chan : Nat)
  /-- DMA_TIMER (R233): A pacing timer fires at its beacon period and phase. -/
  | dmaTimer (die : Nat) (tmr : Nat)
  /-- DMA_REPETITION_START (R232): A descriptor repetition starts when its start event has occurred and its queue condition holds. -/
  | dmaRepetitionStart (blk : Nat) (ch : Nat)
  /-- DMA_REPETITION_COMPLETE (R234): A repetition completes, updating queue entries, signalling its counter and counting the completion. -/
  | dmaRepetitionComplete (blk : Nat) (ch : Nat)
  /-- STOP (R235): Write of STOP in DMA_CHn_CTL stops the channel at its next repetition boundary. -/
  | stop (blk : Nat) (ch : Nat)
  /-- SUBMIT (R272): Host frame submitting a job; the device fetches the image by RDMA READ when admission is free. -/
  | submit (f : HostFrame)
  /-- ADMISSION (R246): With the image fetched, admission checks in order, reserves resources, stamps and loads the job. -/
  | admission (inp : AdmissionInput)
  /-- ADMISSION_REPLY (R248): When loading has ended the admission reply with bound, job number and release tick is sent. -/
  | admissionReply
  /-- QUERY_DEVICE (R273): Host frame asking for device identity, tables, beacon and port mode. -/
  | queryDevice (f : HostFrame)
  /-- QUERY_JOB (R273): Host frame asking for a job's state, beacon and completion record. -/
  | queryJob (f : HostFrame)
  /-- PAUSE (R251): Host frame arming every dealer of a job to pause at a trick occurrence. -/
  | pause (f : HostFrame)
  /-- JOB_PAUSED (R253): When every task has paused, the sealed context record is written and the pause reply sent. -/
  | jobPaused (j : Nat)
  /-- RESUME (R253): Host frame resuming a paused job at a resume tick. -/
  | resume (f : HostFrame)
  /-- TASK_RESUME (R253): A task issues its next word at its resume point, the resume tick plus its pause phase. -/
  | taskResume (t : Nat)
  /-- DETACH (R253): Host frame ending a paused job after its context is read out, freeing its reservations. -/
  | detach (f : HostFrame)
  /-- ABORT (R259): Host frame aborting a job: issue stops, DMA stops, traffic is discarded and requests drain. -/
  | abort (f : HostFrame)
  /-- COMPLETION_RECORD (R275): At job end or after an abort has drained, the completion record is written in two RDMA WRITEs and a COMPLETION frame may follow. -/
  | completionRecord (j : Nat)
  /-- SIGNAL_INCREMENT (R172): Host frame adding an amount to an inbound host counter after earlier writes on the queue pair retire. -/
  | signalIncrement (f : HostFrame)
  /-- SIGNAL_CONSUME (R173): Host frame subtracting an amount from an outbound host counter. -/
  | signalConsume (f : HostFrame)
  /-- COUNTER_SLOT_WRITE (R276): The host port writes an outbound counter's value into its host slot behind earlier data writes. -/
  | counterSlotWrite (j : Nat) (n : Nat)
  /-- TASK_MSG (R273): Host frame sending message parts into a channel from the north IO die. -/
  | taskMsg (f : HostFrame)
  /-- REBIND (R283): Host frame reconnecting an errored job queue pair and resending kept operations. -/
  | rebind (f : HostFrame)
  /-- HOST_RDMA_WRITE (R268): Host RDMA WRITE into a job's host region, checked against rkey and length. -/
  | hostRdmaWrite (qpn : BitVec 24) (rkey : BitVec 32) (va : BitVec 64) (data : List Byte)
  /-- HOST_RDMA_READ (R268): Host RDMA READ from a job's host region, checked against rkey and length. -/
  | hostRdmaRead (qpn : BitVec 24) (rkey : BitVec 32) (va : BitVec 64) (len : BitVec 32)
  /-- INVALID_REQUEST_NAK (R264): A refused operation on an open RC queue pair is answered with NAK Invalid Request. -/
  | invalidRequestNak (qpn : BitVec 24)
  /-- HST_DROP (R264): A UD, UC, QP1, unknown-QP or foreign-source packet is dropped and counted. -/
  | hstDrop
  /-- CNP_SEND (R265): An ECN-marked packet received makes the port send one CNP, at most one per 50 us per queue pair. -/
  | cnpSend (qpn : BitVec 24)
  /-- CNP_RECEIVE (R265): A received CNP halves the queue pair's send rate. -/
  | cnpReceive (qpn : BitVec 24)
  /-- RATE_RECOVERY (R265): Every 55 us a reduced send rate rises by 1/16 of the share. -/
  | rateRecovery (qpn : BitVec 24)
  /-- HST_LINK_DOWN (R282): The host port loses link and host traffic waits. -/
  | hstLinkDown
  /-- HST_LINK_UP (R282): The host port retrains and traffic resumes. -/
  | hstLinkUp
  /-- HST_LANE_LOST (R262): A host-port lane is lost and the port retrains as 800GBASE-DR4 with shares halved. -/
  | hstLaneLost (lane : BitVec 3) (cause : BitVec 2)
  /-- HST_QP_ERROR (R283): A job queue pair enters the error state and the host-loss timer starts. -/
  | hstQpError (j : Nat)
  /-- HOST_LOST (R283): The host-loss timer expires and the job is aborted. -/
  | hostLost (j : Nat)
  /-- CONTROL_QP_RECOVERY (R284): One second after the control queue pair errors it returns to ready with its initial PSNs. -/
  | controlQpRecovery
  /-- CELL_TRANSMIT (R294): A fabric port sends one cell in a cell position by entry kind: data, replay, alignment or idle. -/
  | cellTransmit (port : Nat)
  /-- CELL_RECEIVE (R300): A fabric port receives a cell, checks FEC and CRC, delivers in LSEQ order and sets NAK, LACK and HOLD. -/
  | cellReceive (port : Nat) (c : Cell) (fecOk : Bool)
  /-- REPLAY (R301): After a NAK applies, the sender replays named cells under their original LSEQ. -/
  | replay (port : Nat)
  /-- REPLAY_TIMEOUT (R301): A cell unacknowledged for 2 x DPLAT + 64 nc is replayed as if named. -/
  | replayTimeout (port : Nat) (lseq : BitVec 16)
  /-- PORT_TRAINING (R303): Training of a fabric port corrects lane order and polarity and checks neighbour and latency. -/
  | portTraining (port : Nat) (tr : TrainingResult)
  /-- BXL_LANE_LOST (R304): A fabric lane is lost; the spare lane is taken, or the port degrades or goes down. -/
  | bxlLaneLost (port : Nat) (lane : BitVec 4) (cause : BitVec 2)
  /-- BXL_PORT_UP (R304): Lost lanes healthy for 100 ms; the port retrains to its configured lanes. -/
  | bxlPortUp (port : Nat)
  /-- BXL_DISCARD (R305): The port-down timeout expires and queued and later cells for the port are discarded. -/
  | bxlDiscard (port : Nat)
  /-- ALIGNMENT_CELL_SEND (R306): After each beacon pulse each enabled port sends an alignment cell with its stamps. -/
  | alignmentCellSend (port : Nat)
  /-- ALIGNMENT_CELL_RECEIVE (R307): A received alignment cell updates PLAT, fabric time and the leader epoch. -/
  | alignmentCellReceive (port : Nat) (c : Cell)
  /-- BEACON_PULSE (R325): Every 100 ticks the master counter sends a pulse that resets every region's beacon estimate. -/
  | beaconPulse
  /-- STEP_CHANGE (R318): Firmware write of TGT in CLK_RGNr_CTL starts a dimmer step change with a STEP stop. -/
  | stepChange (r : Nat) (tgt : BitVec 3)
  /-- DIMMER_STEP (R318): 150 ticks after the STEP stop the snuffer clears STEP and the region runs at the new step. -/
  | dimmerStep (r : Nat)
  /-- THERMAL_HOLD (R321): Firmware write to SNF_RGNr_HREQ stops the region with cause HOLD for a length. -/
  | thermalHold (r : Nat) (us : BitVec 16)
  /-- HOLD_END (R321): A thermal hold's length elapses and HOLD clears. -/
  | holdEnd (r : Nat)
  /-- HOLD_BUDGET (R322): The hold budget of the 1 ms window is spent; a hold is cut short. -/
  | holdBudget (r : Nat)
  /-- TEMPERATURE_SAMPLE (R320): Every 1,000 ticks each region's junction sensor is sampled and TEMPC updated. -/
  | temperatureSample (temps : List (BitVec 8))
  /-- REGION_RESTART (R314): A region restarts in its first cycle after its last stop cause clears, realigning its slot count in pinned scopes. -/
  | regionRestart (r : Nat)
  /-- REFCLK_LOST (R329): No reference edge for 100 ns; synthesisers hold frequency and HOLDOVER is set. -/
  | refclkLost
  /-- REFCLK_BACK (R329): Reference stable for 100 us; synthesisers relock while running and HOLDOVER clears. -/
  | refclkBack
  /-- RESET_RELEASE (R385): Reset is released at the latest of power good plus 1 ms, NRST high and 100 us of reference. -/
  | resetRelease
  /-- BOOT (R338): The boot ROMs run the ten boot steps from directory read to ready. -/
  | boot (b : BootInput)
  /-- NRST (R386): A low level of 10 us or more on NRST resets the device and ends the power period. -/
  | nrst (lowNs : Nat)
  /-- MGT_RESET (R345): A write of RESET_CODE by the lease holder resets the device as NRST would. -/
  | mgtReset (half : Bool) (val : BitVec 32)
  /-- POWER_LOSS (R381): Input below 38 V, above 63 V or over 80 A for its filter time switches the regulators off. -/
  | powerLoss (mv : Nat) (ma : Nat) (us : Nat)
  /-- PWR_RANGE (R373): Input between 38 and 40 V or 60 and 63 V after the 10 us filter raises a rating excursion. -/
  | pwrRange (mv : Nat) (us : Nat)
  /-- PWR_OVERLIMIT (R384): The 1 ms input power average exceeds PLIM. -/
  | pwrOverlimit (mv : BitVec 16) (ma : BitVec 16) (w : BitVec 16)
  /-- FLICKER_HEALTH (R105): A flicker health test fails and the source is marked unhealthy for the power period. -/
  | flickerHealth (die : Bool) (test : Bool)
  /-- LIFE_CYCLE_COMMAND (R344): A life-cycle command received over MCTP is written to the command area before a reset. -/
  | lifeCycleCommand (cmd : List Byte)
  /-- RECORD_STAGING (R340): Firmware writes and verifies a record set in the copy not in use and points the directory at it. -/
  | recordStaging (img : List Byte)
  /-- FIRMWARE_UPDATE (R357): Live firmware update: halves reload in turn with handover, then the directory is rewritten. -/
  | firmwareUpdate (img : List Byte)
  /-- UPDATE_FAILED (R358): A reloading half sets no HEALTH within 2 s and the update is abandoned or retried. -/
  | updateFailed (img : List Byte) (second : Bool)
  /-- LEASE_HANDOVER (R354): A write of MGT_LEASE HOLDER by the holder passes the lease between submissions. -/
  | leaseHandover (holder : Bool) (target : Bool)
  /-- LEASE_CLAIM (R354): A healthy half not reloading claims an expired lease. -/
  | leaseClaim (north : Bool) (south : Bool)
  /-- HALF_UNHEALTHY (R353): A half's HEALTH bit clears by firmware or by the 200 us heartbeat watchdog. -/
  | halfUnhealthy (half : Bool) (watchdog : Bool)
  /-- LEASE_DISPUTE (R355): A lease expires or two halves claim to lead; an arbitration hold begins. -/
  | leaseDispute (both : Bool)
  /-- LEADER_CHANGE (R355): At the end of an arbitration hold the lease is granted to a healthy half. -/
  | leaderChange
  /-- NO_LEADER (R355): Arbitration holds have lasted more than 10 ms. -/
  | noLeader
  /-- GET_VERSION (R350): SPDM request answered with version 1.3. -/
  | getVersion (q : SpdmReq)
  /-- GET_CAPABILITIES (R350): SPDM request for the responder's capabilities. -/
  | getCapabilities (q : SpdmReq)
  /-- NEGOTIATE_ALGORITHMS (R350): SPDM request negotiating P-521 and SHA-512. -/
  | negotiateAlgorithms (q : SpdmReq)
  /-- GET_DIGESTS (R350): SPDM request for the digests of certificate slot 0. -/
  | getDigests (q : SpdmReq)
  /-- GET_CERTIFICATE (R350): SPDM request for the slot-0 certificate chain. -/
  | getCertificate (q : SpdmReq)
  /-- CHALLENGE (R350): SPDM challenge answered with a signature by the identity key. -/
  | challenge (q : SpdmReq)
  /-- GET_MEASUREMENTS (R351): SPDM request answered with signed measurement blocks 1 to 11. -/
  | getMeasurements (q : SpdmReq)
  /-- GET_CSR (R349): SPDM request in PROVISIONED over MCTP for a signing request of the identity key. -/
  | getCsr (q : SpdmReq)
  /-- SET_CERTIFICATE (R349): SPDM request in PROVISIONED writing the slot-0 chain to the certificate area. -/
  | setCertificate (q : SpdmReq)
  /-- UNSUPPORTED_REQUEST (R350): Any other SPDM request is answered with ERROR UnsupportedRequest. -/
  | unsupportedRequest (q : SpdmReq)
  /-- ENTDAA (R389): I3C command assigning the dynamic address. -/
  | entdaa (addr : BitVec 7)
  /-- SETDASA (R389): I3C command assigning the dynamic address from static address 0x3A. -/
  | setdasa (statAddr : BitVec 7) (addr : BitVec 7)
  /-- I3C_FAULT (R373): An I3C line held against its driven level for 1 ms; bus released and retried every 100 ms. -/
  | i3cFault (line : Bool) (high : Bool)
  /-- XSPI_FAULT (R373): An XSPI read or write check fails; boot stops or the write is abandoned. -/
  | xspiFault (line : BitVec 4) (high : Bool)
  /-- ALERT_FAULT (R373): ALERT_N held against its driven level for 1 ms; driver current-limited. -/
  | alertFault (high : Bool)
  /-- BYPASS (R391): JTAG instruction selecting the bypass register. -/
  | bypass
  /-- IDCODE (R391): JTAG instruction returning the IDCODE value. -/
  | idcode
  /-- SAMPLE_PRELOAD (R391): JTAG instruction sampling and preloading the boundary-scan chain. -/
  | samplePreload (pins : List Bool) (load : List Bool)
  /-- EXTEST (R391): JTAG instruction driving balls from the boundary-scan chain. -/
  | extest
  /-- TRST_N (R391): TRST_N low holds the TAP in reset without affecting the device. -/
  | trstN (low : Bool)
  /-- CORE_FAILED (R366): A core self-check fails; FAULT is set for the table region and its job is aborted. -/
  | coreFailed (t : Nat) (c : Nat) (chk : BitVec 2)
  /-- DLR_FAILED (R367): A dealer parity or lock check fails and the table goes out of service. -/
  | dlrFailed (t : Nat) (chk : BitVec 2)
  /-- SPARE_SUBSTITUTION (R370): After the aborted job's completion record, a spare is tested and fused in place of the failed core. -/
  | spareSubstitution (t : Nat) (lc : Nat) (failed : List Nat)
  /-- READMISSION (R260): A job submitted with READMIT is admitted again after substitution, from its context or the start. -/
  | readmission (j : Nat) (inp : AdmissionInput)
  /-- BOUND_VIOLATION (R374): The beacon passes a job's bound plus excluded intervals before its completion record; NOTICE sent. -/
  | boundViolation (j : Nat)
  /-- EVT_TAIL_WRITE (R364): Firmware advances EVT_TAIL, consuming event records and possibly releasing ALERT_N. -/
  | evtTailWrite (v : BitVec 32)
  /-- LATCHING_READ (R400): A read of a _LO register latches the upper half into its _HI partner. -/
  | latchingRead (addr : BitVec 52)
  /-- REGISTER_WRITE (R401): A firmware or debugger write to a register with no row of its own, subject to access limits. -/
  | registerWrite (addr : BitVec 52) (v : BitVec 32)
  /-- LOCAL_ACK_TIMEOUT (R267): The 67.1 ms local ACK timeout of a device queue pair expires. The device retransmits, and after 7 retries the queue pair enters the error state, the control queue pair included. -/
  | localAckTimeout (qpn : BitVec 24)
  /-- RNR_NAK (R278): The host answers a device SEND with RNR NAK because no receive buffer is posted, and the device retries without limit. -/
  | rnrNak (qpn : BitVec 24)
  /-- UNKNOWN_TYPE (R271): A host frame whose TYPE is unlisted, is a device type, or has bit 7 set is refused with UNKNOWN_TYPE. -/
  | unknownType (typ : BitVec 8) (f : HostFrame)
  /-- PHYSICAL_ADDRESS_WRITE (R139): A firmware or debugger write to a memory range of the device physical address map is performed, or is ignored when the core's table runs a task or the address is absent. -/
  | physicalAddressWrite (addr : BitVec 52) (data : List Byte)
  /-- I3C_BUS_RETRY (R373): Every 100 ms after an I3C line fault, the device retries the released bus and resumes service once the short has gone. -/
  | i3cBusRetry (cleared : Bool)
  deriving DecidableEq, Repr

end Sys2Proof
end

