-- ==== Sys2Proof/Decode.lean ====
section
/-!
DEFINITION. Commands from words. No row of spec/opcode_table.json gives bits: the device's commands are events and operations
of a word, and the words of a long word's slots are decoded by the loader (Machine/Words.lean). No table word spells a command.
-/
namespace Sys2Proof

/-- The command that a table word spells: none, as the table gives no row any bits. -/
def decodeTableWord (_nbits _w : Nat) : Option Instr := none

end Sys2Proof
end

