-- ==== Sys2Proof/Config.lean ====
section
/-!
DEFINITION. What the specification leaves open: free values, as constants without a body. A statement about one holds whatever it is.
-/
namespace Sys2Proof.Config

/-- A free value of 64 bits, one for each number taken from `State.free`: outputs of the flicker sources (R105, R106) and
every other value that the specification leaves open where a command goes on. -/
opaque freeValue : Nat → BitVec 64

/-- Ring size, in granules, of a receive channel on another device (R296): destination address, logical table, channel. -/
opaque remoteRingSize : Nat → Nat → Nat → Nat

/-- The salt and the info of the key derivation (R254). -/
opaque hkdfSalt : List Byte
opaque hkdfInfo : List Byte

/-- The scalar that the attestation engine of a part without an identity key uses (R348, R350). -/
opaque noIdentity : Nat

/-- The subject name and the attributes of a certificate signing request, in DER (R349). -/
opaque csrSubject : List Byte
opaque csrAttributes : List Byte

/-- The version of the boot ROM, measurement block 1 (R351). -/
opaque romVersion : BitVec 32

/-- CTExponent, DataTransferSize and MaxSPDMmsgSize of CAPABILITIES, as they lie in the message (R350). -/
opaque spdmSizes : BitVec 72

end Sys2Proof.Config
end

