-- ==== Sys2Proof/Machine/Bits.lean ====
section
/-!
DEFINITION. Bit fields, byte order and sign extension. Every multi-byte value lies with its least significant byte at the
lower address (R67).
-/
namespace Sys2Proof.Machine

/-- Bits `hi` down to `lo` of a number. -/
def fieldN (v hi lo : Nat) : Nat := (v >>> lo) % 2 ^ (hi + 1 - lo)

/-- Bits `hi` down to `lo` of a word, as a number. -/
def field {n : Nat} (v : BitVec n) (hi lo : Nat) : Nat := fieldN v.toNat hi lo

/-- The number that the bytes of `bs` spell, least significant first. -/
def leNat (bs : List Byte) : Nat :=
  match bs with
  | [] => 0
  | b :: rest => b.toNat + 256 * leNat rest

/-- The `n` least significant bytes of `v`, least significant first. -/
def natLe (n v : Nat) : List Byte :=
  (List.range n).map (fun i => BitVec.ofNat 8 (v >>> (8 * i)))

/-- A 32-bit word as four bytes. -/
def wordLe (w : Word) : List Byte := natLe 4 w.toNat

/-- `n` bytes of `bs` from offset `o`, as a number; bytes past the end are zero. -/
def rdLe (bs : List Byte) (o n : Nat) : Nat := leNat ((bs.drop o).take n)

/-- Byte `o` of `bs`, zero past the end. -/
def byteAt (bs : List Byte) (o : Nat) : Byte := (bs.drop o).headD 0

/-- The two's complement value of the low `w` bits of `v`. -/
def signedN (w v : Nat) : Int :=
  let u := v % 2 ^ w
  if 2 * u < 2 ^ w then (u : Int) else (u : Int) - (2 ^ w : Nat)

/-- The low `w` bits of an integer, as a number. -/
def wrapN (w : Nat) (x : Int) : Nat := (x % ((2 ^ w : Nat) : Int)).toNat

/-- The two's complement value, in `w` bits, of an integer kept modulo 2^w. -/
def wrapS (w : Nat) (x : Int) : Int := signedN w (wrapN w x)

/-- 1 for true and 0 for false. -/
def b2n (b : Bool) : Nat := if b then 1 else 0

/-- An integer clamped to 0 and `n`. -/
def clampNat (n : Nat) (x : Int) : Nat := if x < 0 then 0 else min n x.toNat

/-- `v + 1`, saturating at 2^32 - 1. -/
def satIncr (v : Word) : Word := if v = 0xFFFFFFFF then v else v + 1

/-- `v + n`, saturating at 2^32 - 1. -/
def satAdd (v : Word) (n : Nat) : Word := BitVec.ofNat 32 (min (v.toNat + n) 0xFFFFFFFF)

/-- `v` with its low `k` bits zero. -/
def alignDown (k v : Nat) : Nat := (v >>> k) <<< k

/-- The positions of the 1 bits of a number below `n`, in rising order. -/
def bitsOf (n v : Nat) : List Nat := (List.range n).filter (fun i => v.testBit i)

/-- The number of 1 bits of a number below position `n`. -/
def popCount (n v : Nat) : Nat := (bitsOf n v).length

/-- Numbers packed one after another, each given with its width in bits, the first in the least significant bits. -/
def packBits (fs : List (Nat × Nat)) : Nat :=
  match fs with
  | [] => 0
  | (w, v) :: rest => v % 2 ^ w + (packBits rest) <<< w

/-- The quotient rounded up. -/
def ceilDiv (a b : Nat) : Nat := (a + b - 1) / b

end Sys2Proof.Machine
end

