-- ==== Sys2Proof/Machine/Crypto.lean ====
section
/-!
DEFINITION. The cryptographic functions that the specification names and takes from standards outside it: SHA-512, ECDSA and key agreement
over P-521, HKDF, AES-256-GCM, and the subject key of a certificate. PRESUMED (assumption 35): their constants and steps are those of FIPS
180-4, FIPS 186-5 with SP 800-186, RFC 5869, FIPS 197, SP 800-38D and X.509. They are irreducible: no proof unfolds one unless it says so.
-/
namespace Sys2Proof.Machine

/-- The `n` least significant bytes of `v`, most significant first. -/
def natBe (n v : Nat) : List Byte := (natLe n v).reverse

/-- A number spelled most significant byte first. -/
def beNat (bs : List Byte) : Nat := leNat bs.reverse

/-- The bytes of a 512-bit digest in their order. -/
def digestBytes (d : BitVec 512) : List Byte := natLe 64 d.toNat

/-! ### SHA-512 -/

/-- The working variables. -/
structure ShaVars where
  a : BitVec 64
  b : BitVec 64
  c : BitVec 64
  d : BitVec 64
  e : BitVec 64
  f : BitVec 64
  g : BitVec 64
  h : BitVec 64
  deriving DecidableEq, Repr

/-- The round constants. -/
def shaK : List (BitVec 64) :=
  [0x428A2F98D728AE22, 0x7137449123EF65CD, 0xB5C0FBCFEC4D3B2F, 0xE9B5DBA58189DBBC, 0x3956C25BF348B538,
   0x59F111F1B605D019, 0x923F82A4AF194F9B, 0xAB1C5ED5DA6D8118, 0xD807AA98A3030242, 0x12835B0145706FBE,
   0x243185BE4EE4B28C, 0x550C7DC3D5FFB4E2, 0x72BE5D74F27B896F, 0x80DEB1FE3B1696B1, 0x9BDC06A725C71235,
   0xC19BF174CF692694, 0xE49B69C19EF14AD2, 0xEFBE4786384F25E3, 0x0FC19DC68B8CD5B5, 0x240CA1CC77AC9C65,
   0x2DE92C6F592B0275, 0x4A7484AA6EA6E483, 0x5CB0A9DCBD41FBD4, 0x76F988DA831153B5, 0x983E5152EE66DFAB,
   0xA831C66D2DB43210, 0xB00327C898FB213F, 0xBF597FC7BEEF0EE4, 0xC6E00BF33DA88FC2, 0xD5A79147930AA725,
   0x06CA6351E003826F, 0x142929670A0E6E70, 0x27B70A8546D22FFC, 0x2E1B21385C26C926, 0x4D2C6DFC5AC42AED,
   0x53380D139D95B3DF, 0x650A73548BAF63DE, 0x766A0ABB3C77B2A8, 0x81C2C92E47EDAEE6, 0x92722C851482353B] ++
  [0xA2BFE8A14CF10364, 0xA81A664BBC423001, 0xC24B8B70D0F89791, 0xC76C51A30654BE30, 0xD192E819D6EF5218,
   0xD69906245565A910, 0xF40E35855771202A, 0x106AA07032BBD1B8, 0x19A4C116B8D2D0C8, 0x1E376C085141AB53,
   0x2748774CDF8EEB99, 0x34B0BCB5E19B48A8, 0x391C0CB3C5C95A63, 0x4ED8AA4AE3418ACB, 0x5B9CCA4F7763E373,
   0x682E6FF3D6B2B8A3, 0x748F82EE5DEFB2FC, 0x78A5636F43172F60, 0x84C87814A1F0AB72, 0x8CC702081A6439EC,
   0x90BEFFFA23631E28, 0xA4506CEBDE82BDE9, 0xBEF9A3F7B2C67915, 0xC67178F2E372532B, 0xCA273ECEEA26619C,
   0xD186B8C721C0C207, 0xEADA7DD6CDE0EB1E, 0xF57D4F7FEE6ED178, 0x06F067AA72176FBA, 0x0A637DC5A2C898A6,
   0x113F9804BEF90DAE, 0x1B710B35131C471B, 0x28DB77F523047D84, 0x32CAAB7B40C72493, 0x3C9EBE0A15C9BEBC,
   0x431D67C49C100D4C, 0x4CC5D4BECB3E42B6, 0x597F299CFC657E2A, 0x5FCB6FAB3AD6FAEC, 0x6C44198C4A475817]

/-- The initial hash value. -/
def shaInit : ShaVars :=
  ⟨0x6A09E667F3BCC908, 0xBB67AE8584CAA73B, 0x3C6EF372FE94F82B, 0xA54FF53A5F1D36F1,
   0x510E527FADE682D1, 0x9B05688C2B3E6C1F, 0x1F83D9ABFB41BD6B, 0x5BE0CD19137E2179⟩

/-- The round with constant `k` and schedule word `w`. -/
def shaRound (s : ShaVars) (k w : BitVec 64) : ShaVars :=
  let t1 := s.h + (s.e.rotateRight 14 ^^^ s.e.rotateRight 18 ^^^ s.e.rotateRight 41) + ((s.e &&& s.f) ^^^ (~~~s.e &&& s.g)) + k + w
  let t2 := (s.a.rotateRight 28 ^^^ s.a.rotateRight 34 ^^^ s.a.rotateRight 39) + ((s.a &&& s.b) ^^^ (s.a &&& s.c) ^^^ (s.b &&& s.c))
  ⟨t1 + t2, s.a, s.b, s.c, s.d + t1, s.e, s.f, s.g⟩

/-- The schedule word that follows a window of 16. -/
def shaNext (ws : List (BitVec 64)) : BitVec 64 :=
  let x := ws.getD 1 0
  let y := ws.getD 14 0
  (y.rotateRight 19 ^^^ y.rotateRight 61 ^^^ y >>> 6) + ws.getD 9 0 + (x.rotateRight 1 ^^^ x.rotateRight 8 ^^^ x >>> 7) + ws.getD 0 0

/-- The rounds of one block, for the constants left and the window of 16 schedule words. -/
def shaRounds (ks ws : List (BitVec 64)) (s : ShaVars) : ShaVars :=
  match ks with
  | [] => s
  | k :: rest => shaRounds rest (ws.drop 1 ++ [shaNext ws]) (shaRound s k (ws.getD 0 0))

/-- The hash value after one block of 128 bytes. -/
def shaBlock (s : ShaVars) (block : List Byte) : ShaVars :=
  let ws := (List.range 16).map (fun i => BitVec.ofNat 64 (beNat ((block.drop (8 * i)).take 8)))
  let t := shaRounds shaK ws s
  ⟨s.a + t.a, s.b + t.b, s.c + t.c, s.d + t.d, s.e + t.e, s.f + t.f, s.g + t.g, s.h + t.h⟩

/-- The hash value after `n` blocks. -/
def shaBlocks (n : Nat) (s : ShaVars) (bs : List Byte) : ShaVars :=
  match n with
  | 0 => s
  | n + 1 => shaBlocks n (shaBlock s (bs.take 128)) (bs.drop 128)

/-- SHA-512 of a byte sequence (R22, R246, R332, R333); the first byte of the digest is the least significant. -/
@[irreducible] def sha512 (bs : List Byte) : BitVec 512 :=
  let n := bs.length
  let blocks := n / 128 + (if n % 128 < 112 then 1 else 2)
  let t := shaBlocks blocks shaInit (bs ++ [0x80] ++ List.replicate (128 * blocks - n - 17) 0 ++ natBe 16 (8 * n))
  BitVec.ofNat 512 (leNat ([t.a, t.b, t.c, t.d, t.e, t.f, t.g, t.h].flatMap (fun w => natBe 8 w.toNat)))

/-- HMAC with SHA-512. -/
def hmac (key msg : List Byte) : List Byte :=
  let k := (if 128 < key.length then digestBytes (sha512 key) else key) ++ List.replicate 128 0
  let pad (v : Byte) : List Byte := (k.take 128).map (· ^^^ v)
  digestBytes (sha512 (pad 0x5C ++ digestBytes (sha512 (pad 0x36 ++ msg))))

/-- HKDF with SHA-512, of 32 bytes. -/
@[irreducible] def hkdf (salt info input : List Byte) : List Byte := (hmac (hmac salt input) (info ++ [1])).take 32

/-! ### P-521 -/

/-- The field prime, the coefficient b, the order of the group, and the generator. -/
def p521 : Nat := 2 ^ 521 - 1
def p521b : Nat :=
  0x0051953EB9618E1C9A1F929A21A0B68540EEA2DA725B99B315F3B8B489918EF109E156193951EC7E937B1652C0BD3BB1BF073573DF883D2C34F1EF451FD46B503F00
def p521n : Nat :=
  0x1fffffffffffffffffffffffffffffffffffffffffffffffffffffffffffffffffa51868783bf2f966b7fcc0148f709a5d03bb5c9b8899c47aebb6fb71e91386409
def p521x : Nat :=
  0x00c6858e06b70404e9cd9e3ecb662395b4429c648139053fb521f828af606b4d3dbaa14b5e77efe75928fe1dc127a2ffa8de3348b3c1856a429bf97e7e31c2e5bd66
def p521y : Nat :=
  0x011839296a789a3bc0045c8a5fb42c7d1bd998f54449579b446817afbd17273e662c97ee72995ef42640c550b9013fad0761353c7086a272c24088be94769fd16650

/-- The bits of a number below 2^521, the most significant first. -/
def bits521 (k : Nat) : List Bool := (List.range 521).reverse.map (fun i => k.testBit i)

/-- `b ^ e` modulo `m`, by the bits of `e`. -/
def powBits (m b : Nat) (e : List Bool) (acc : Nat) : Nat :=
  match e with
  | [] => acc
  | x :: rest => powBits m b rest (if x then acc * acc % m * b % m else acc * acc % m)

/-- The inverse modulo a prime below 2^521. -/
def invMod (m a : Nat) : Nat := powBits m a (bits521 (m - 2)) 1

/-- A point of the curve: x / z², y / z³; z is 0 at infinity. -/
structure Point where
  x : Nat
  y : Nat
  z : Nat
  deriving DecidableEq, Repr

/-- `a - b` in the field. -/
def subP (a b : Nat) : Nat := (a + p521 - b) % p521

/-- Twice a point. -/
def Point.double (p : Point) : Point :=
  if p.z = 0 then p else
  let y2 := p.y * p.y % p521
  let z2 := p.z * p.z % p521
  let s := 4 * p.x * y2 % p521
  let m := 3 * subP p.x z2 * (p.x + z2) % p521
  let x := subP (m * m) (2 * s % p521)
  ⟨x, subP (m * subP s x) (8 * y2 * y2 % p521), 2 * p.y * p.z % p521⟩

/-- The sum of two points. -/
def Point.add (p q : Point) : Point :=
  if p.z = 0 then q else if q.z = 0 then p else
  let zp := p.z * p.z % p521
  let zq := q.z * q.z % p521
  let u := p.x * zq % p521
  let s := p.y * q.z * zq % p521
  let h := subP (q.x * zp % p521) u
  let r := subP (q.y * p.z * zp % p521) s
  if h = 0 then (if r = 0 then p.double else ⟨1, 1, 0⟩) else
  let h2 := h * h % p521
  let h3 := h * h2 % p521
  let v := u * h2 % p521
  let x := subP (subP (r * r % p521) h3) (2 * v % p521)
  ⟨x, subP (r * subP v x % p521) (s * h3 % p521), h * p.z * q.z % p521⟩

/-- A multiple of a point by the bits of its factor. -/
def Point.mulBits (p : Point) (bits : List Bool) (acc : Point) : Point :=
  match bits, acc with
  | [], acc => acc
  | b :: rest, ⟨x, y, z⟩ => p.mulBits rest (if b then (Point.double ⟨x, y, z⟩).add p else Point.double ⟨x, y, z⟩)

/-- A multiple of a point. -/
def Point.mul (p : Point) (k : Nat) : Point := p.mulBits (bits521 (k % p521n)) ⟨1, 1, 0⟩

/-- The coordinates of a point that is not at infinity. -/
def Point.affine (p : Point) : Nat × Nat :=
  let i := invMod p521 p.z
  (p.x * i * i % p521, p.y * i * i * i % p521)

/-- The generator. -/
def genP : Point := ⟨p521x, p521y, 1⟩

/-- The point that 133 bytes spell, uncompressed. -/
def readPoint (bs : List Byte) : Point := ⟨beNat ((bs.drop 1).take 66), beNat ((bs.drop 67).take 66), 1⟩

/-- An uncompressed point of 133 bytes lies on the curve (R352). -/
def onCurve (bs : List Byte) : Bool :=
  let p := readPoint bs
  byteAt bs 0 == 4 && decide (p.x < p521) && decide (p.y < p521) &&
    (p.y * p.y) % p521 == (p.x * p.x * p.x + (p521 - 3) * p.x + p521b) % p521

/-- The public key of a private key (R348): the point, uncompressed. No key has the scalar 0. -/
@[irreducible] def publicKeyOf (d : Nat) : List Byte :=
  let a := (genP.mul d).affine
  4 :: natBe 66 a.1 ++ natBe 66 a.2

/-- The x coordinate that both sides of a key agreement share (R254): private key `d` and an uncompressed point. -/
@[irreducible] def agree (d : Nat) (point : List Byte) : List Byte := natBe 66 ((readPoint point).mul d).affine.1

/-- An ECDSA signature, r and s in 66 bytes each, of a SHA-512 digest by private key `d` and secret number `k`. -/
@[irreducible] def ecdsaSign (d k : Nat) (digest : BitVec 512) : List Byte :=
  let r := (genP.mul k).affine.1 % p521n
  natBe 66 r ++ natBe 66 (invMod p521n k * (beNat (digestBytes digest) + r * d) % p521n)

/-- The check of a signature of a SHA-512 digest under a public key (R333). -/
@[irreducible] def ecdsaVerify (key : List Byte) (digest : BitVec 512) (sig : List Byte) : Bool :=
  let r := beNat (sig.take 66)
  let s := beNat ((sig.drop 66).take 66)
  let w := invMod p521n s
  let p := (genP.mul (beNat (digestBytes digest) * w)).add ((readPoint key).mul (r * w))
  onCurve key && decide (0 < r) && decide (r < p521n) && decide (0 < s) && decide (s < p521n) && p.z != 0 && p.affine.1 % p521n == r

/-- A number from 1 to the order less 1 of 640 random bits, with the extra bits of FIPS 186-5 (R348). -/
def scalarOf (c : Nat) : Nat := c % (p521n - 1) + 1

/-! ### AES-256 -/

/-- The substitution box, its first byte the least significant. -/
def aesBox : Nat :=
  0x16BB54B00F2D99416842E6BF0D89A18CDF2855CEE9871E9B948ED9691198F8E19E1DC186B95735610EF6034866B53E708A8BBD4B1F74DDE8C6B4A61C2E2578BA08AE7A65EAF4566CA94ED58D6D37C8E779E4959162ACD3C25C2406490A3A32E0DB0B5EDE14B8EE4688902A22DC4F816073195D643D7EA7C41744975FEC130CCDD2F3FF1021DAB6BCF5389D928F40A351A89F3C507F02F94585334D43FBAAEFD0CF584C4A39BECB6A5BB1FC20ED00D153842FE329B3D63B52A05A6E1B1A2C830975B227EBE28012079A059618C323C7041531D871F1E5A534CCF73F362693FDB7C072A49CAFA2D4ADF04759FA7DC982CA76ABD7FE2B670130C56F6BF27B777C63

/-- One byte substituted. -/
def aesSub (b : Byte) : Byte := BitVec.ofNat 8 (aesBox >>> (8 * b.toNat))

/-- Twice a byte in the field of 256 elements. -/
def aesTwice (b : Byte) : Byte := (b <<< 1) ^^^ (if b.getLsbD 7 then 0x1B else 0)

/-- Byte strings exclusive-ored. -/
def xorBytes (a b : List Byte) : List Byte := List.zipWith (· ^^^ ·) a b

/-- `n` more words of the key schedule behind the words `ws`, the newest first; `i` words are there. -/
def aesWords (n i : Nat) (ws : List (List Byte)) : List (List Byte) :=
  match n with
  | 0 => ws
  | n + 1 =>
    let t := ws.getD 0 []
    let t := if i % 8 = 0 then xorBytes ((t.drop 1 ++ t.take 1).map aesSub) [BitVec.ofNat 8 (2 ^ (i / 8 - 1)), 0, 0, 0]
      else if i % 8 = 4 then t.map aesSub else t
    aesWords n (i + 1) (xorBytes (ws.getD 7 []) t :: ws)

/-- The round keys of a 32-byte key, in order. -/
def aesKeys (key : List Byte) : List (List Byte) :=
  let words := (List.range 8).map (fun i => (key.drop (4 * i)).take 4)
  let bytes := (aesWords 52 8 words.reverse).reverse.flatten
  (List.range 15).map (fun i => (bytes.drop (16 * i)).take 16)

/-- The bytes substituted and the rows shifted. -/
def aesShift (s : List Byte) : List Byte := (List.range 16).map (fun i => aesSub (s.getD ((i + 4 * (i % 4)) % 16) 0))

/-- The columns mixed. -/
def aesMix (s : List Byte) : List Byte :=
  (List.range 16).map (fun i =>
    let b (k : Nat) : Byte := s.getD (i / 4 * 4 + (i + k) % 4) 0
    aesTwice (b 0) ^^^ aesTwice (b 1) ^^^ b 1 ^^^ b 2 ^^^ b 3)

/-- The rounds that are left, the last without mixing. -/
def aesRounds (ks : List (List Byte)) (s : List Byte) : List Byte :=
  match ks with
  | [] => s
  | [k] => xorBytes (aesShift s) k
  | k :: rest => aesRounds rest (xorBytes (aesMix (aesShift s)) k)

/-- One block encrypted under the round keys. -/
def aesBlock (ks : List (List Byte)) (b : List Byte) : List Byte := aesRounds (ks.drop 1) (xorBytes b (ks.getD 0 []))

/-! ### GCM -/

/-- The product in the field of 2^128 elements, its first bit the most significant: `x` times `v`, by the bits of `x` that are left. -/
def gfMul (bits : List Bool) (v z : BitVec 128) : BitVec 128 :=
  match bits with
  | [] => z
  | b :: rest => gfMul rest ((v >>> 1) ^^^ (if v.getLsbD 0 then 0xE1#128 <<< 120 else 0)) (if b then z ^^^ v else z)

/-- A string padded with zeros to whole blocks, as blocks. -/
def gcmBlocks (bs : List Byte) : List (BitVec 128) :=
  (List.range (ceilDiv bs.length 16)).map (fun i => BitVec.ofNat 128 (beNat ((bs.drop (16 * i) ++ List.replicate 16 0).take 16)))

/-- GHASH under the key `h`. -/
def ghash (h : BitVec 128) (bs : List (BitVec 128)) : BitVec 128 :=
  bs.foldl (fun y x => gfMul ((List.range 128).reverse.map (fun i => (y ^^^ x).getLsbD i)) h 0) 0

/-- A text under the counter blocks from 2 on. -/
def gcmCrypt (ks : List (List Byte)) (iv bs : List Byte) : List Byte :=
  xorBytes bs ((List.range (ceilDiv bs.length 16)).flatMap (fun i => aesBlock ks (iv ++ natBe 4 (i + 2))))

/-- The tag of a ciphertext and additional data. -/
def gcmTag (ks : List (List Byte)) (iv aad text : List Byte) : List Byte :=
  let h := BitVec.ofNat 128 (beNat (aesBlock ks (List.replicate 16 0)))
  let y := ghash h (gcmBlocks aad ++ gcmBlocks text ++ [BitVec.ofNat 128 ((8 * aad.length) <<< 64 + 8 * text.length)])
  xorBytes (natBe 16 y.toNat) (aesBlock ks (iv ++ natBe 4 1))

/-- AES-256-GCM with an initial vector of 12 bytes: the ciphertext and its tag (R254). -/
@[irreducible] def gcmSeal (key iv aad text : List Byte) : List Byte :=
  let ks := aesKeys key
  let c := gcmCrypt ks iv text
  c ++ gcmTag ks iv aad c

/-- AES-256-GCM: the plaintext of a sealed text, if its tag checks. -/
@[irreducible] def gcmOpen (key iv aad box : List Byte) : Option (List Byte) :=
  let ks := aesKeys key
  let c := box.take (box.length - 16)
  if gcmTag ks iv aad c = box.drop (box.length - 16) then some (gcmCrypt ks iv c) else none

/-! ### Certificates (R349) -/

/-- The first item of a DER sequence: its tag, its content, and the bytes behind it. -/
def derItem (bs : List Byte) : Option (Byte × List Byte × List Byte) :=
  let l := (byteAt bs 1).toNat
  let k := if l < 128 then 0 else l - 128
  let n := if l < 128 then l else beNat ((bs.drop 2).take k)
  if bs.length < 2 + k + n ∨ l = 128 then none else some (byteAt bs 0, (bs.drop (2 + k)).take n, bs.drop (2 + k + n))

/-- The items of a DER sequence, each with its tag. -/
def derItems (fuel : Nat) (bs : List Byte) : List (Byte × List Byte) :=
  match fuel with
  | 0 => []
  | fuel + 1 => match derItem bs with
    | none => []
    | some (t, c, rest) => (t, c) :: derItems fuel rest

/-- The subject key of one certificate: the bit string of its subjectPublicKeyInfo. -/
def subjectKey (cert : List Byte) : Option (List Byte) :=
  (derItems 3 cert).head?.bind (fun tbs =>
    let fields := (derItems 16 tbs.2).filter (fun x => x.1 != 0xA0)
    (fields.drop 5).head?.bind (fun spki => ((derItems 2 spki.2).drop 1).head?.map (fun key => key.2.drop 1)))

/-- The length octets of DER. -/
def derLength (n : Nat) : List Byte :=
  if n < 128 then [BitVec.ofNat 8 n] else if n < 256 then [0x81, BitVec.ofNat 8 n] else [0x82, BitVec.ofNat 8 (n / 256), BitVec.ofNat 8 n]

/-- One DER item. -/
def derEnc (tag : Byte) (body : List Byte) : List Byte := tag :: derLength body.length ++ body

/-- A DER INTEGER of a number in big-endian octets. -/
def derNumber (bs : List Byte) : List Byte :=
  let b := bs.dropWhile (· == 0)
  derEnc 2 (if b.head?.all (fun x => x.msb) then 0 :: b else b)

/-- A certificate signing request in the form of PKCS #10 for private key `d`, signed by it with secret number `k` (R349, assumption
43). -/
@[irreducible] def signedRequest (d k : Nat) (subject attributes : List Byte) : List Byte :=
  let ecKey : List Byte := [0x06, 0x07, 0x2A, 0x86, 0x48, 0xCE, 0x3D, 0x02, 0x01]
  let p521Curve : List Byte := [0x06, 0x05, 0x2B, 0x81, 0x04, 0x00, 0x23]
  let ecSha512 : List Byte := [0x06, 0x08, 0x2A, 0x86, 0x48, 0xCE, 0x3D, 0x04, 0x03, 0x04]
  let info := derEnc 0x30 (derEnc 2 [0] ++ subject ++
    derEnc 0x30 (derEnc 0x30 (ecKey ++ p521Curve) ++ derEnc 3 (0 :: publicKeyOf d)) ++ derEnc 0xA0 attributes)
  let sig := ecdsaSign d k (sha512 info)
  derEnc 0x30 (info ++ derEnc 0x30 ecSha512 ++ derEnc 3 (0 :: derEnc 0x30 (derNumber (sig.take 66) ++ derNumber (sig.drop 66))))

/-- The subject key of the leaf of a certificate chain in SPDM's form: a length, the root's digest and the certificates, the leaf last. -/
@[irreducible] def leafKey (chain : List Byte) : Option (List Byte) :=
  (derItems 64 (chain.drop 68)).getLast?.bind (fun cert => subjectKey cert.2)

end Sys2Proof.Machine
end

