-- ==== Sys2Proof/Machine/Formats.lean ====
section
/-!
DEFINITION. The number formats (chapter 03), conversions and their flags (R79 to R84), binary32 arithmetic (R119) and the
read-out roundings (R97 to R99), over exact values.
-/
namespace Sys2Proof.Machine

/-- The storage formats (R40) and INT32 (R79). -/
inductive Fmt where
  | f32 | f16 | bf16 | e4m3 | e5m2 | e3m2 | e2m3 | e2m1 | i8 | i4 | c8 | i32
  deriving DecidableEq, Repr

/-- The format of a 5-bit code (R79); `none` where the loader refuses the code. -/
def Fmt.ofCode (c : Nat) : Option Fmt :=
  match c with
  | 0 => some .f32 | 1 => some .f16 | 2 => some .bf16 | 3 => some .e4m3 | 4 => some .e5m2 | 5 => some .e3m2
  | 6 => some .e2m3 | 7 => some .e2m1 | 8 => some .i8 | 9 => some .i4 | 10 => some .c8 | 16 => some .i32
  | _ => none

/-- Element width in bits (R69). -/
def Fmt.bits : Fmt → Nat
  | .f32 => 32 | .f16 => 16 | .bf16 => 16 | .e4m3 => 8 | .e5m2 => 8 | .e3m2 => 6 | .e2m3 => 6 | .e2m1 => 4
  | .i8 => 8 | .i4 => 4 | .c8 => 8 | .i32 => 32

/-- A floating-point layout (R69): fraction bits, exponent bits, bias, the magnitude encoding of the largest finite value,
and the magnitude encodings of infinity and of the canonical NaN (R71) where the format has them. -/
structure FloatFmt where
  frac : Nat
  exp  : Nat
  bias : Int
  maxEnc : Nat
  inf  : Option Nat
  nan  : Option Nat
  deriving DecidableEq, Repr

/-- The layout of a floating-point format; `none` for integers and code8. -/
def Fmt.float : Fmt → Option FloatFmt
  | .f32  => some ⟨23, 8, 127, 0x7F7FFFFF, some 0x7F800000, some 0x7FC00000⟩
  | .f16  => some ⟨10, 5, 15, 0x7BFF, some 0x7C00, some 0x7E00⟩
  | .bf16 => some ⟨7, 8, 127, 0x7F7F, some 0x7F80, some 0x7FC0⟩
  | .e4m3 => some ⟨3, 4, 7, 0x7E, none, some 0x7F⟩
  | .e5m2 => some ⟨2, 5, 15, 0x7B, some 0x7C, some 0x7E⟩
  | .e3m2 => some ⟨2, 3, 3, 0x1F, none, none⟩
  | .e2m3 => some ⟨3, 2, 1, 0x1F, none, none⟩
  | .e2m1 => some ⟨1, 2, 1, 0x7, none, none⟩
  | .i8 | .i4 | .c8 | .i32 => none

/-- The exact value of an encoding: a NaN, an infinity, or (-1)^neg × m × 2^e. -/
inductive Val where
  | nan
  | inf (neg : Bool)
  | fin (neg : Bool) (m : Nat) (e : Int)
  deriving DecidableEq, Repr

/-- The value of an encoding of a floating-point format (R69). -/
def FloatFmt.decode (f : FloatFmt) (x : Nat) : Val :=
  let neg := x.testBit (f.frac + f.exp)
  let mag := x % 2 ^ (f.frac + f.exp)
  if mag ≤ f.maxEnc then
    let ex := mag >>> f.frac
    let fr := mag % 2 ^ f.frac
    if ex = 0 then .fin neg fr (1 - f.bias - f.frac)
    else .fin neg (2 ^ f.frac + fr) ((ex : Int) - f.bias - f.frac)
  else if f.inf = some mag then .inf neg
  else .nan

/-- The value of an element whose low bits hold the encoding `x` (R68, R69, R72). code8 takes its codebook entry instead
(R75) and is decoded here as an unsigned index. -/
def Fmt.decode (f : Fmt) (x : Nat) : Val :=
  match f.float with
  | some ff => ff.decode (x % 2 ^ f.bits)
  | none =>
    match f with
    | .c8 => .fin false (x % 256) 0
    | _ => let v := signedN f.bits x; .fin (decide (v < 0)) v.natAbs 0

/-- Rounding modes (R80, R97). `sr` carries its random nibble. -/
inductive RMode where
  | rne | rz | rup | rdn
  | sr (u : Nat)
  deriving DecidableEq, Repr

/-- The rounding mode of a code legal in CVT and CVMX (R97). -/
def RMode.ofCode (c : Nat) : Option RMode :=
  match c with
  | 0 => some .rne | 1 => some .rz | 2 => some .rup | 3 => some .rdn | _ => none

/-- The magnitude m / 2^k rounded to an integer (R80, R99). -/
def roundMag (rm : RMode) (neg : Bool) (m k : Nat) : Nat :=
  let q := m >>> k
  let r := m % 2 ^ k
  if r = 0 then q else
  match rm with
  | .rne => if 2 * r > 2 ^ k ∨ (2 * r = 2 ^ k ∧ q % 2 = 1) then q + 1 else q
  | .rz => q
  | .rup => if neg then q else q + 1
  | .rdn => if neg then q + 1 else q
  | .sr u =>
    -- f is the distance from the lower neighbour, t = floor(16 f + 1/2)
    let up := if neg then 2 ^ k - r else r
    let t := (32 * up + 2 ^ k) / 2 ^ (k + 1)
    if neg then (if u < t then q else q + 1) else (if u < t then q + 1 else q)

/-- The magnitude m × 2^e as a multiple of 2^q, rounded. -/
def roundTo (rm : RMode) (neg : Bool) (m : Nat) (e q : Int) : Nat :=
  if q ≤ e then m <<< (e - q).toNat else roundMag rm neg m (q - e).toNat

/-- floor(log2(m × 2^e)) for m ≠ 0. -/
def log2Val (m : Nat) (e : Int) : Int := (Nat.log2 m : Int) + e

/-- What a conversion gives: the result bits and the flags NV and OF it sets (R83). -/
structure Conv where
  bits : Nat
  nv   : Bool
  ovf  : Bool
  deriving DecidableEq, Repr

/-- The magnitude encoding of m × 2^e rounded to the destination with an unbounded exponent. Encodings of one format
follow one another in steps of one unit in the last place, so the encoding is the scale index shifted past the fraction
plus the rounded multiple. -/
def FloatFmt.roundEnc (f : FloatFmt) (rm : RMode) (neg : Bool) (m : Nat) (e : Int) : Nat :=
  if m = 0 then 0 else
  let qmin : Int := 1 - f.bias - f.frac
  let q := max qmin (log2Val m e - f.frac)
  ((q - qmin).toNat <<< f.frac) + roundTo rm neg m e q

/-- The magnitude that an overflow, or with `isInf` an infinite source, gives (R81). -/
def FloatFmt.overflowEnc (f : FloatFmt) (rm : RMode) (sat neg isInf : Bool) : Nat :=
  match f.nan with
  | none => f.maxEnc
  | some nan =>
    if sat then f.maxEnc else
    let top := f.inf.getD nan
    if isInf then top else
    match rm with
    | .rz => f.maxEnc
    | .rup => if neg then f.maxEnc else top
    | .rdn => if neg then top else f.maxEnc
    | _ => top

/-- The bits of a sign and a magnitude encoding; an E4M3 overflow NaN is written 0x7F whatever its sign (R81). -/
def FloatFmt.signed (f : FloatFmt) (neg : Bool) (mag : Nat) : Nat :=
  if f.nan = some mag then mag else mag + (if neg then 2 ^ (f.frac + f.exp) else 0)

/-- A value converted to a floating-point format (R80 to R82). -/
def FloatFmt.convert (f : FloatFmt) (rm : RMode) (sat : Bool) (v : Val) : Conv :=
  match v with
  | .nan => match f.nan with
    | some n => ⟨n, false, false⟩
    | none => ⟨0, true, false⟩
  | .inf neg =>
    ⟨f.signed neg (f.overflowEnc rm sat neg true), false, sat || f.inf.isNone⟩
  | .fin neg m e =>
    let mag := f.roundEnc rm neg m e
    if mag ≤ f.maxEnc then ⟨f.signed neg mag, false, false⟩
    else ⟨f.signed neg (f.overflowEnc rm sat neg false), false, true⟩

/-- The largest positive value and the largest negative magnitude of an integer destination (R81). -/
def Fmt.intMax : Fmt → Nat × Nat
  | .i8 => (127, 127)
  | .i4 => (7, 7)
  | _ => (2 ^ 31 - 1, 2 ^ 31)

/-- A value converted to an integer of `f`'s width, counted in units of 2^unit (R80 to R82). -/
def Fmt.convertInt (f : Fmt) (rm : RMode) (unit : Int) (v : Val) : Conv :=
  let lim := f.intMax
  let put (neg : Bool) (mag : Nat) : Nat := if neg then (2 ^ f.bits - mag) % 2 ^ f.bits else mag
  match v with
  | .nan => ⟨0, true, false⟩
  | .inf neg => ⟨put neg (if neg then lim.2 else lim.1), false, true⟩
  | .fin neg m e =>
    let n := roundTo rm neg m e unit
    let top := if neg then lim.2 else lim.1
    if n ≤ top then ⟨put neg n, false, false⟩ else ⟨put neg top, false, true⟩

/-- A value converted to a format, unscaled (R79 to R82). -/
def Fmt.convert (f : Fmt) (rm : RMode) (sat : Bool) (v : Val) : Conv :=
  match f.float with
  | some ff => ff.convert rm sat v
  | none => f.convertInt rm 0 v

/-- CVT of one lane (R79): equal formats return the input, but for a NaN. `entry` is the codebook entry of a code8
source. DEDUCED (assumption 68): with equal formats R79 decides INT8 0x80, INT4 0x8 and an infinity with SAT = 1 too, for which R72
and R81 read alone give another result. -/
def cvtLane (sf df : Fmt) (rm : RMode) (sat : Bool) (entry : Nat → BitVec 16) (x : Nat) : Conv :=
  let src := x % 2 ^ sf.bits
  let v := if sf = .c8 then Fmt.f16.decode (entry src).toNat else sf.decode src
  if sf = df ∧ v ≠ .nan then ⟨src, false, false⟩ else df.convert rm sat v

/-! ### binary32 arithmetic (R119) -/

/-- The value of a binary32 word. -/
def f32Val (w : Word) : Val := Fmt.f32.decode w.toNat

/-- One rounding to binary32 with RNE. -/
def rne32 (v : Val) : Word := BitVec.ofNat 32 (Fmt.f32.convert .rne false v).bits

/-- The negative of a value. -/
def Val.neg : Val → Val
  | .nan => .nan
  | .inf n => .inf (!n)
  | .fin n m e => .fin (!n) m e

/-- The signed integer multiple of 2^q that the finite value is, for q at most its exponent. -/
def finInt (neg : Bool) (m : Nat) (e q : Int) : Int :=
  let a : Int := (m <<< (e - q).toNat : Nat)
  if neg then -a else a

/-- The exact sum. A zero sum of values of opposite sign is +0, as IEEE 754 gives under RNE. -/
def Val.add (a b : Val) : Val :=
  match a, b with
  | .nan, _ | _, .nan => .nan
  | .inf x, .inf y => if x = y then .inf x else .nan
  | .inf x, .fin .. => .inf x
  | .fin .., .inf y => .inf y
  | .fin n1 m1 e1, .fin n2 m2 e2 =>
    let q := min e1 e2
    let s := finInt n1 m1 e1 q + finInt n2 m2 e2 q
    if s = 0 then .fin (n1 && n2) 0 0 else .fin (decide (s < 0)) s.natAbs q

/-- The exact product. -/
def Val.mul (a b : Val) : Val :=
  match a, b with
  | .nan, _ | _, .nan => .nan
  | .inf x, .inf y => .inf (x != y)
  | .inf x, .fin n m _ => if m = 0 then .nan else .inf (x != n)
  | .fin n m _, .inf y => if m = 0 then .nan else .inf (n != y)
  | .fin n1 m1 e1, .fin n2 m2 e2 => .fin (n1 != n2) (m1 * m2) (e1 + e2)

/-- A value scaled by 2^k. -/
def Val.scale (v : Val) (k : Int) : Val :=
  match v with
  | .fin n m e => .fin n m (e + k)
  | w => w

/-- The value is zero, of either sign. -/
def Val.isZero : Val → Bool
  | .fin _ m _ => decide (m = 0)
  | _ => false

/-- Order of two values that are not NaN; zeros of either sign are equal (R70). -/
def Val.lt (a b : Val) : Bool :=
  match a, b with
  | .nan, _ | _, .nan => false
  | .inf x, .inf y => x && !y
  | .inf x, .fin .. => x
  | .fin .., .inf y => !y
  | .fin n1 m1 e1, .fin n2 m2 e2 =>
    let q := min e1 e2
    decide (finInt n1 m1 e1 q < finInt n2 m2 e2 q)

/-- Equality of two values; a NaN equals nothing and zeros of either sign are equal. -/
def Val.eqv (a b : Val) : Bool :=
  match a, b with
  | .nan, _ | _, .nan => false
  | _, _ => !Val.lt a b && !Val.lt b a

/-- A key that orders all binary32 words but NaNs, with -0 below +0. -/
def f32Key (w : Word) : Int := if w.msb then -(w.toNat - 2 ^ 31 : Int) - 1 else w.toNat

/-- The canonical NaN of binary32 (R71). -/
def nan32 : Word := 0x7FC00000

/-- A binary32 word that is a NaN. -/
def isNan32 (w : Word) : Bool := decide (f32Val w = .nan)

/-- Minimum and maximum of binary32 words, -0 below +0, any NaN giving the canonical NaN (R119). -/
def minF (a b : Word) : Word :=
  if isNan32 a || isNan32 b then nan32 else if f32Key a ≤ f32Key b then a else b

/-- See `minF`. -/
def maxF (a b : Word) : Word :=
  if isNan32 a || isNan32 b then nan32 else if f32Key a ≤ f32Key b then b else a

/-- The condition of a VCMPF (R119): a NaN makes every condition false but NE. LTU and GEU are refused at load. -/
def condF (c : BitVec 3) (a b : Word) : Bool :=
  let x := f32Val a
  let y := f32Val b
  if x = .nan ∨ y = .nan then decide (c = 1) else
  match c.toNat with
  | 0 => x.eqv y
  | 1 => !x.eqv y
  | 2 => x.lt y
  | 3 => !y.lt x
  | 4 => y.lt x
  | _ => !x.lt y

/-- The condition codes on integers (R116). -/
def condI (c : BitVec 3) (a b : Word) : Bool :=
  match c.toNat with
  | 0 => decide (a = b)
  | 1 => decide (a ≠ b)
  | 2 => a.slt b
  | 3 => a.sle b
  | 4 => b.slt a
  | 5 => b.sle a
  | 6 => a.ult b
  | _ => b.ule a

/-! ### Curve tables (R120) -/

/-- CURV of one lane: `x0`, `e` the header, `seg` the four coefficients of a segment. -/
def curvLane (x0 : Word) (e : Byte) (seg : Nat → Nat → Word) (x : Word) : Word :=
  let xv := f32Val x
  let x0v := f32Val x0
  match x0v with
  | .fin .. =>
    if xv = .nan then nan32 else
    let ee := signedN 8 e.toNat
    let d := xv.add x0v.neg
    let i : Nat := match d with
      | .inf n => if n then 0 else 255
      | .nan => 0
      | .fin n m q =>
        let k := q - ee
        let v : Int := if 0 ≤ k then (m <<< k.toNat : Nat) else
          if n then (roundMag .rup false m (-k).toNat : Nat) else (m >>> (-k).toNat : Nat)
        clampNat 255 (if n then -v else v)
    let u := f32Val (rne32 (xv.add (x0v.add (.fin false i ee)).neg))
    let step (acc : Word) (c : Word) : Word := rne32 (((f32Val acc).mul u).add (f32Val c))
    step (step (step (seg i 3) (seg i 2)) (seg i 1)) (seg i 0)
  | _ => nan32

/-! ### glowmix (R100) -/

/-- One round of glowmix, followed by the word rotation. -/
def glowRound (k0 k1 : Word) (r : Nat) (st : Word × Word × Word × Word) : Word × Word × Word × Word :=
  let (a, b, c, d) := st
  let a := a + b + (if r % 2 = 0 then k0 else k1) + BitVec.ofNat 32 r
  let d := (d ^^^ a).rotateLeft 16
  let c := c + d
  let b := (b ^^^ c).rotateLeft 12
  (b, c, d, a)

/-- glowmix (R100): key, stream and 96-bit position give 64 bits. -/
def glowmix (key : BitVec 64) (stream : Word) (pos : BitVec 96) : BitVec 64 :=
  let k0 := key.extractLsb' 0 32
  let k1 := key.extractLsb' 32 32
  let st := (List.range 10).foldl (fun st r => glowRound k0 k1 r st)
    (pos.extractLsb' 0 32, pos.extractLsb' 32 32, pos.extractLsb' 64 32, stream)
  (st.2.2.1 + k1) ++ (st.1 + k0)

/-! ### Microscaling blocks (R84) -/

/-- emax of an element format (R84). -/
def Fmt.emax : Fmt → Int
  | .e4m3 => 8 | .e5m2 => 15 | .e3m2 => 4 | .e2m3 => 2 | .e2m1 => 2 | _ => 0

/-- One block of CVMX: the scale byte, the elements and the flags. -/
def cvmxBlock (df : Fmt) (rm : RMode) (xs : List Word) : Nat × List Conv :=
  let vs := xs.map f32Val
  let bad := vs.any (fun v => match v with | .fin .. => false | _ => true)
  if bad then (0xFF, xs.map (fun _ => ⟨0, true, false⟩)) else
  let top := vs.foldl (fun (acc : Int) v => match v with
    | .fin _ m e => if m = 0 then acc else max acc (log2Val m e)
    | _ => acc) (-1000)
  let sx : Int := if top = -1000 then -127 else max (-127) (top - df.emax)
  let conv (v : Val) : Conv :=
    if df = .i8 then df.convertInt rm (-6) (v.scale (-sx)) else df.convert rm true (v.scale (-sx))
  ((sx + 127).toNat, vs.map conv)

end Sys2Proof.Machine
end

