-- ==== Sys2Proof/Machine/SMap.lean ====
section
/-!
DEFINITION. Sparse maps in canonical form: keys strictly rising and no entry equal to the default. Every memory and every
register file of the state is one, and is read and written only through the operations of this file.
-/
namespace Sys2Proof.SMap

/-- The value at key `k`; an unlisted key reads as `d`. -/
def get {α : Type} (d : α) (m : SMap α) (k : Nat) : α :=
  match m with
  | [] => d
  | (j, v) :: rest => if k = j then v else if k < j then d else SMap.get d rest k

/-- The map with key `k` at `v`. Writing the default removes the entry, so that equal contents are equal data. -/
def set {α : Type} [DecidableEq α] (d : α) (m : SMap α) (k : Nat) (v : α) : SMap α :=
  match m with
  | [] => if v = d then [] else [(k, v)]
  | (j, w) :: rest =>
    if k = j then (if v = d then rest else (k, v) :: rest)
    else if k < j then (if v = d then (j, w) :: rest else (k, v) :: (j, w) :: rest)
    else (j, w) :: SMap.set d rest k v

/-- The map with key `k` changed by `f`. -/
def modify {α : Type} [DecidableEq α] (d : α) (m : SMap α) (k : Nat) (f : α → α) : SMap α :=
  SMap.set d m k (f (SMap.get d m k))

/-- The map with every pair of `kvs` written in turn. -/
def setAll {α : Type} [DecidableEq α] (d : α) (m : SMap α) (kvs : List (Nat × α)) : SMap α :=
  kvs.foldl (fun acc kv => SMap.set d acc kv.1 kv.2) m

/-- Every entry changed by `f`. -/
def mapAll {α : Type} [DecidableEq α] (d : α) (m : SMap α) (f : Nat → α → α) : SMap α :=
  (m.map (fun kv => (kv.1, f kv.1 kv.2))).filter (fun kv => decide (kv.2 ≠ d))

/-- The map with every key from `lo` up to, but not including, `hi` at the default. -/
def clearRange {α : Type} (m : SMap α) (lo hi : Nat) : SMap α :=
  m.filter (fun kv => !(decide (lo ≤ kv.1) && decide (kv.1 < hi)))

/-- The entries of the keys from `lo` up to, but not including, `hi`. -/
def range {α : Type} (m : SMap α) (lo hi : Nat) : SMap α :=
  m.filter (fun kv => decide (lo ≤ kv.1) && decide (kv.1 < hi))

/-- The canonical form: keys strictly rising, no entry equal to the default. -/
def wf {α : Type} [DecidableEq α] (d : α) : SMap α → Bool
  | [] => true
  | (k, v) :: rest =>
    decide (v ≠ d) && (match rest with | [] => true | (j, _) :: _ => decide (k < j)) && SMap.wf d rest

/-- `n` bytes from address `a` upward. -/
def bytes (m : SMap Byte) (a n : Nat) : List Byte :=
  (List.range n).map (fun i => SMap.get 0 m (a + i))

/-- The bytes `bs` stored from address `a` upward. -/
def store (m : SMap Byte) (a : Nat) (bs : List Byte) : SMap Byte :=
  match bs with
  | [] => m
  | b :: rest => SMap.store (SMap.set 0 m a b) (a + 1) rest

end Sys2Proof.SMap
end

