-- ==== Sys2Proof/Machine/State.lean ====
section
/-!
DEFINITION. The state of a Xolin package, as plain data: every register, memory, queue, buffer, counter, mode and pin the
specification gives it, the commands that wait, and the state right after reset.
Registers that software reads as words and that nothing else in the state determines are held in `csr`, keyed by their
address in the control and status range (R403); the others are held under names of their own and read through a view
(Machine/Regs.lean). Sparse maps are in canonical form (Machine/SMap.lean).
-/
namespace Sys2Proof.Machine

/-- Why the machine can stop with a fault. No command of this device stops it: an access outside every range reads zero
(R7), and every error is an event (R361). -/
inductive Fault where
  /-- The one reason of the type. Raised by nobody; safe. -/
  | stuck
  deriving DecidableEq, Repr

/-- Why a command has no meaning. -/
inductive Refusal where
  /-- The command has no meaning in this model yet. Raised by arms of `exec` only; safe. -/
  | notModelled (mnemonic : String)
  /-- The operation's encoding is one that the loader refuses with ILLEGAL_WORD (R246), so no dealer ever issues it
  and the specification gives it no effect. Raised by the slot operations of chapters 02 to 05; safe. -/
  | illegalWord
  deriving DecidableEq, Repr

/-! ### Dealers and cores -/

/-- What a wait waits for (R18, R124). -/
inductive WaitFor where
  | counter (ctr amt : Nat) (tsel : Nat)
  | host (ctr amt : Nat) (tsel : Nat)
  | queue (q n : Nat) (space : Bool)
  | dma (ch : Nat)
  | credit (chn hidx seq flits : Nat) (parts : List (Nat × Nat))
  | window (chn cnt wlen idle : Nat)
  | absent
  deriving DecidableEq, Repr

/-- A wait in progress: its resolve cycle (in cycles of the table's region) and whether it has been found late. -/
structure Wait where
  what    : WaitFor
  resolve : Nat
  late    : Bool
  deriving DecidableEq, Repr

/-- One loop level of a sequencer (R126): `start` is the granule address of the word after the LOOP word and `last` that of the body's
last word. -/
structure Loop where
  active    : Bool
  pending   : Word
  remaining : Word
  start     : BitVec 17
  last      : BitVec 17
  deriving DecidableEq, Repr

/-- A handler window (R129): the channel, the messages whose handlers have not begun, whether a handler runs, the
window's first cycle, the cycle after it, the word after the HWIN, the IDLE field of the HWIN word, and the HWIN word itself where
it ends loop bodies (R126). -/
structure Window where
  chn     : Nat
  left    : Nat
  running : Bool
  openCyc : Nat
  endCyc  : Nat
  retPc   : BitVec 17
  idle    : Nat
  due     : Option (BitVec 17)
  deriving DecidableEq, Repr

/-- A sequencer of long words: the dealer of a table, or one core in Taper mode (R136, R137). `hold` counts the cycles
after the current one in which no word issues; `slots` marks the slots already issued in the current cycle; `loopDue` is the last
word of loop bodies whose levels are to turn (R126); `ended` is set by END. -/
structure Seq where
  pc       : BitVec 17
  nextPc   : BitVec 17
  hold     : Nat
  slots    : BitVec 6
  loopDue  : Option (BitVec 17)
  loops    : List Loop
  waits    : List Wait
  window   : Option Window
  ended    : Bool
  deriving DecidableEq, Repr

/-- A location the hazard detector tracks in one table (R376). -/
inductive Loc where
  | spdWord (core word : Nat)
  | shelfGran (core g : Nat)
  | sreg (core r : Nat)
  | vreg (core r : Nat)
  | pred (core p : Nat)
  | acc (core e : Nat)
  | hold (core pair half : Nat)
  deriving DecidableEq, Repr

/-- A scratchpad write of one core (R146): its core and logical core, the bytes with the bits of each that are written,
the banks the access spans, and whether it is an SHLD landing. -/
structure SpdWrite where
  core    : Nat
  lcore   : Nat
  bits    : List (Nat × Byte × Byte)
  banks   : BitVec 16
  landing : Bool
  deriving DecidableEq, Repr

/-- A place that bytes are moved from or to (R216, R230). `spd` cores are physical, host windows belong to a job, `msg` is a
byte of the host-bound message that a DMA channel forms (R277). -/
inductive Place where
  | hbm (a : Nat)
  | ddr (a : Nat)
  | shelf (a : Nat)
  | spd (core a : Nat)
  | host (job win off : Nat)
  | msg (off : Nat)
  | bytes (bs : List Byte)
  deriving DecidableEq, Repr

/-- Who requested a granule: a queue entry of a core, or a DMA channel. -/
inductive Requester where
  | queue (table core q entry : Nat)
  | dma (blk ch : Nat)
  deriving DecidableEq, Repr

/-- One granule of a request (R215): who requested it and when (the region cycle, for a queue), where its bytes come from and
go to, and whether its shaper has forwarded it. -/
structure Granule where
  owner     : Requester
  req       : Nat
  tier      : Option Tier
  src       : Place
  dst       : Place
  len       : Nat
  forwarded : Bool
  deriving DecidableEq, Repr

/-- An effect that an issued operation has on its core or table once its contract latency has elapsed (R28). Cores are
physical (34 × table + core). -/
inductive Eff where
  | sreg (core r : Nat) (v : Word)
  | pred (core p : Nat) (v : Bool)
  | lanes (core r : Nat) (vs : List (Nat × Word))
  | lmask (core n : Nat) (v : BitVec 64)
  | regWrite (addr : Nat) (v : Word)
  | cvtFlags (core : Nat) (nv ovf : Bool)
  | setBits (core off : Nat) (v : Word)
  | clearBits (core off : Nat) (v : Word)
  | accFlagReg (core aset flag hi : Nat) (v : Word)
  | acc (core : Nat) (es : List (Nat × Int))
  | accFlags (core : Nat) (fs : List (Nat × BitVec 5))
  | accClear (core aset : Nat) (cfg : Word)
  | hold (core : Nat) (bytes : List (Nat × Byte)) (scales : List (Nat × Byte))
  | codebook (core : Nat) (book : Bool) (q : Nat) (vals : List (BitVec 16)) (commit : Bool)
  | curve (core : Nat) (words : List (Nat × Word))
  | tkcfg (core : Nat) (cfg : BitVec 8)
  | tkins (core : Nat) (list : Nat) (cands : List (Nat × Word)) (idx : Word)
  | spdTouch (ws : List SpdWrite)
  | spdWrite (ws : List SpdWrite)
  | shelf (ws : List (Nat × Nat × List Byte))
  | counterAdd (ctr amt : Nat)
  | hostAdd (ctr amt : Nat)
  | loopPending (core : Option Nat) (lvl : Nat) (v : Word)
  | qmove (core q : Nat) (free pend full held : Int) (next old : Nat)
  | request (core q n : Nat) (gs : List Granule)
  | zeroFill (core : Nat) (as : List Nat)
  deriving DecidableEq, Repr

/-- A pending effect: the region cycle in which it becomes visible, and, for the hazard detector, the task cycle count,
the word and the slot of its issue, the locations it writes, and those it marks as drained (R376). -/
structure Pend where
  due    : Nat
  eff    : Eff
  tcc    : Word
  pc     : BitVec 17
  slot   : Nat
  locs   : List Loc
  drains : List Loc
  deriving DecidableEq, Repr

/-- A weight vector with its scales, as a FIFO slot or the weight operand register holds it (R48, R49). `code8`
marks bytes already expanded to binary16 (R77). -/
structure WVec where
  bytes  : List (Nat × Byte)
  scales : List (Nat × Byte)
  deriving DecidableEq, Repr

/-- The weight streamer of a core (R49): the descriptor it was armed with, the number of the next vector to read, the
FIFO slots and its head, and, from a WARM until its vectors are visible, the cycle of the WARM and the vectors read so
far (R146). -/
structure Streamer where
  armed   : Bool
  desc    : BitVec 128
  nextN   : Nat
  head    : Nat
  fifo    : SMap WVec
  warming : Bool
  warmCyc : Nat
  land    : List WVec
  operand : WVec
  deriving DecidableEq, Repr

/-- Where a decoupled fill comes from (R146): a granule of a request, or a part landing in a ring: its payload, or the first granule
of its record or a pad record. -/
inductive FillFrom where
  | queue (q entry : Nat)
  | dma (blk ch : Nat)
  | ring (chn : Nat)
  | head (chn : Nat)
  deriving DecidableEq, Repr

/-- A decoupled fill that waits at the fill port of a core: the bytes still to write from address `addr` on. -/
structure Fill where
  src  : FillFrom
  addr : Nat
  data : List Byte
  deriving DecidableEq, Repr

/-- One line of a Taper instruction cache (R136): the line number, the fill order, and its 64 granules. -/
structure CacheLine where
  line : Nat
  age  : Nat
  code : List (BitVec 16)
  deriving DecidableEq, Repr

/-- One core: registers of the chapters 02 to 06. `accM` is the accumulator file as M-slot operations see it and `accV`
as the other slots see it (R51), both keyed 512 × lane + 64 × set + entry; `cfgM` and ACC_SETCFG stand in the same
relation. `vreg` is keyed 64 × register + lane, `hold` 4096 × half + 64 × lane + byte,
`scale` 256 × half + 4 × lane + byte, `codebook` 256 × copy + entry with copies 0 held active, 1 weight active,
2 held shadow, 3 weight shadow, `curve` 1024 × table + 4 × segment + coefficient, `curveHdr` 2 × table for X0 and
2 × table + 1 for E, `outReg` 512 × port + 32 × bank + position. `touched` marks the banks that reads have touched in cycle
`touchCyc`; `fillReq` says that the fill port serves decoupled fills in the cycle in progress. `portOwed`, `shelfIn` and `shelfOut`
are the bytes that decoupled transfers still owe port 1's other share and the two directions of the shelf path (R141, R152);
`shstCyc` is the cycle of the last SHST. `spdErr` is keyed by word: true marks an uncorrectable error and
false a corrected one. -/
structure Core where
  sreg     : SMap Word
  pred     : BitVec 8
  vreg     : SMap Word
  accM     : SMap Int
  accV     : SMap Int
  cfgM     : SMap Word
  hold     : SMap Byte
  scale    : SMap Byte
  streamer : Streamer
  tkCfg    : BitVec 8
  tk       : SMap (List (Word × Word))
  codebook : SMap (BitVec 16)
  curve    : SMap Word
  curveHdr : SMap Word
  squeue   : List Word
  vqueue   : List (List Word)
  spd      : SMap Byte
  outReg   : SMap Word
  spdErr   : SMap (Option Bool)
  sendBuf  : Nat
  fills    : List Fill
  touchCyc : Nat
  touched  : BitVec 16
  fillReq  : Bool
  portOwed : Nat
  shelfIn  : Nat
  shelfOut : Nat
  shstCyc  : Option Nat
  taper    : Seq
  cache    : List CacheLine
  missLine : Option Nat
  reqs     : List (Nat × Nat)
  deriving DecidableEq, Repr

/-! ### The on-chip network and channels -/

/-- A flit in the network: its tag (R198), its data, the slot in which its plan lets it leave the output it is queued
for (R191), on a link, the region it left and that region's network cycle in which it can next leave (R183), its source
(128 × table + 2 × channel + reverse for the L input of a table, 0x4000 + device port for a fabric port, 0x5000 for the host,
0x10000 + 128 × table + channel for a DMA channel), the row of the IO die by which it leaves the mesh, if it does (R292), and for
a DMA transfer between job tables the granule whose bytes it carries (R188). -/
structure Flit where
  tag    : BitVec 64
  data   : List Byte
  slot   : Nat
  dueReg : Nat
  dueNet : Nat
  src    : Nat
  edge   : Option Nat
  gran   : Option Granule
  deriving DecidableEq, Repr

/-- A send channel of a table (R208): CHN_SNDn_CFG, SEQ, HELD, POOLD, UM, XADR, and the credit the sender knows
(R206): the read position of every target ring, the write position the sender has reached, and the spill region. -/
structure SndChan where
  cfg       : Word
  seq       : BitVec 21
  held      : Bool
  poolD     : BitVec 6
  um        : BitVec 64
  xadr      : Word
  readPos   : SMap Nat
  writePos  : SMap Nat
  spilling  : SMap Nat
  spillFree : Nat
  spillSize : Nat
  deriving DecidableEq, Repr

/-- A part of a message that its core reads from the scratchpad (R196): the core, the address of the next flit, the
flits in all, those read, the cycle in which the last was read, and whether the part goes to the spill region. -/
structure SendPart where
  core  : Nat
  addr  : Nat
  dcore : Nat
  total : Nat
  got   : List (List Byte)
  done  : Option Nat
  spill : Bool
  deriving DecidableEq, Repr

/-- A message or a signal on its way to a channel's queue at the L input (R196, R207): a message waits for credit until
`started`; a signal carries its tag and enters in cycle `ready` at the earliest. `pc` is the word that issued it. -/
structure SendItem where
  chn     : Nat
  seq     : Nat
  hidx    : Nat
  started : Bool
  parts   : List SendPart
  signal  : Option (BitVec 64)
  ready   : Nat
  pc      : BitVec 17
  deriving DecidableEq, Repr

/-- A part that is arriving at a receiver (R199): its header and the flits that have come. -/
structure Part where
  tag   : BitVec 64
  flits : List (List Byte)
  deriving DecidableEq, Repr

/-- A part in the spill region (R202): its header, and the granules of the region that its record occupies, in order. -/
structure Spilled where
  tag   : BitVec 64
  cells : List Nat
  deriving DecidableEq, Repr

/-- A record in a ring (R200): where it starts, its granules, and its tag (zero for a pad record). -/
structure Record where
  pos  : Nat
  len  : Nat
  tag  : BitVec 64
  deriving DecidableEq, Repr

/-- A receive channel of a table (R208): ring and spill registers, source check, the records held in every core's ring
in channel order, parts that have not yet retired, spilled parts, signals that wait for earlier parts, the parts
retired of messages not yet present, and PRESENT and SEQ. -/
structure RcvChan where
  ring     : Word
  spill    : Word
  xsrc     : Word
  readPos  : SMap Nat
  writePos : SMap Nat
  records  : SMap (List Record)
  arriving : List Part
  spilled  : SMap (List Spilled)
  signals  : List (BitVec 64)
  retired  : List (BitVec 21 × Nat × Nat)
  present  : Nat
  seq      : BitVec 21
  creditDue : Bool
  deriving DecidableEq, Repr

/-- One table: its dealer, its registers that other chapters compute with, its program store, counters and channels; `failed`
lists its failed logical cores that no spare has replaced yet (R366, R370). Its operations so far reach their contract latencies by
cycle `busyUntil`, and those before the word now issuing by `busyPrior`. `hostHeld` is host-attributed time in 1/7920 of an
eleventh of a tick (R33). -/
structure Table where
  run       : BitVec 2
  taper     : Bool
  job       : Option Nat
  jobTable  : Nat
  seq       : Seq
  tcc       : BitVec 64
  late      : Word
  lateCc    : Word
  trick     : BitVec 13
  trickN    : Word
  pause     : BitVec 13
  pauseN    : Word
  phase     : Nat
  release   : Option Nat
  ending    : Bool
  started   : Bool
  busyUntil : Nat
  busyPrior : Nat
  warmUntil : Nat
  sends     : List SendItem
  issueTcc  : Word
  prog      : SMap (BitVec 16)
  pend      : List Pend
  ctr       : SMap (BitVec 24)
  ctrInit   : SMap (BitVec 24)
  tout      : SMap Word
  htab      : SMap Word
  seeds     : SMap (BitVec 64)
  seedStat  : Word
  snd       : SMap SndChan
  rcv       : SMap RcvChan
  landing   : List Flit
  credit    : SMap Nat
  creditCyc : Nat
  undrained : SMap (Option Word)
  hostHeld  : Nat
  failed    : List Nat
  deriving DecidableEq, Repr

/-- The routers of the mesh and the fabric's I links. `slots` is keyed 6144 × (6 × router + output) + slot (R208);
`queues` 64 × router + 8 × input + output; `chanQ` 128 × router + 2 × channel + reverse for the L input;
`links` 8 × router + input: the flits on their way to that input; `sent` 8 × router + output: one more than the network
cycle in which that output last sent. -/
structure Noc where
  slots  : SMap (BitVec 16)
  queues : SMap (List Flit)
  chanQ  : SMap (List Flit)
  links  : SMap (List Flit)
  sent   : SMap Nat
  deriving DecidableEq, Repr

/-! ### Memory and DMA -/

/-- A DMA channel (R237): registers, its job, its task-relative number, one more than the network cycle in which its last repetition
started, the addresses of the repetition to come, and the completion counts. -/
structure DmaChan where
  ctl     : Word
  state   : BitVec 2
  repN    : BitVec 17
  miss    : BitVec 8
  cmpTask : BitVec 16
  cmpChan : BitVec 16
  rate    : BitVec 16
  job     : Option Nat
  rel     : Nat
  home    : Nat
  evSeen  : Bool
  startNet : Nat
  sAddr   : BitVec 64
  dAddr   : BitVec 64
  msgSeq  : Word
  msgBuf  : List Byte
  credit  : Nat
  creditNet : Nat
  deriving DecidableEq, Repr

/-- The external tiers: contents, granules in progress, the DDR5 population (R211), holes (R212), sparing (R226) with the
channels whose copy waits for another of their stack, one more than the beacon count of each controller's last refresh (16 × tier +
controller), and the granules known to hold an uncorrectable error (R225), keyed 2 × granule number for HBM and 2 × granule number + 1
for DDR5; `fired` and `firedNet` hold one more than the tick and the network cycle of each timer's last firing (R233), keyed 32 × block +
timer. -/
structure MemSys where
  hbm       : SMap Byte
  ddr       : SMap Byte
  shelf     : SMap Byte
  shelfErr  : SMap (Option Bool)
  granules  : List Granule
  population : List Nat
  msize     : Nat
  holes     : List Nat
  ceSeen    : SMap (List Nat)
  spares    : SMap Nat
  copying   : List (Nat × Nat)
  copyDue   : List (Nat × Nat)
  bad       : SMap Bool
  refreshed : SMap Nat
  lost      : List (Nat × Nat)
  fired     : SMap Nat
  firedNet  : SMap Nat
  deriving DecidableEq, Repr

/-! ### Jobs and the host port -/

/-- Body of a SUBMIT frame (R272). -/
structure SubmitBody where
  tag      : BitVec 32
  imgAddr  : BitVec 64
  imgRkey  : BitVec 32
  flags    : BitVec 32
  imgLen   : BitVec 64
  digest   : List Byte
  tReq     : Nat
  hqpn     : BitVec 24
  hpsn     : BitVec 24
  cmplAddr : BitVec 64
  cmplRkey : BitVec 32
  ctrRkey  : BitVec 32
  ctrAddr  : BitVec 64
  place    : List Nat
  hwin     : List (BitVec 64 × Nat × BitVec 32)
  seeds    : List (BitVec 64)
  param    : List Word
  deriving DecidableEq, Repr

/-- The states of a job that a QUERY reports (R273), with the abort and the wait for its completion record apart. -/
inductive JobState where
  | loading | admitted | running | pausing | paused | aborting | ended
  deriving DecidableEq, Repr

/-- A host region of a job (R268): the tier, the physical base and the length. -/
structure HostRegion where
  tier : Tier
  base : Nat
  len  : Nat
  deriving DecidableEq, Repr

/-- What a task leaves for the completion record (R275). -/
structure TaskRecord where
  tcc  : BitVec 64
  late : Word
  cc   : Word
  deriving DecidableEq, Repr

/-- A request of the host that is answered later (R271). -/
structure HeldReply where
  typ : Nat
  qpn : BitVec 24
  tag : BitVec 32
  deriving DecidableEq, Repr

/-- An admitted job (R246 to R260) and what its completion record needs (R275). `slotDirty` lists
the outbound counters whose host slots wait for a write, each with the host-memory writes that go before it. `opens` lists its static send channels until
they open (table, channel), `claims` and `cells` the keys of its slot-table and cell-position entries, `dmaSlots` the slot-table
entries at L inputs that serve its DMA transfers between job tables, each with the channel (R188), and `descMap` its descriptors as
(block, index in the image, store index). `context` is the record in its context area, and `readOut` the record of a paused job as the
host reads it out before a detach (R253, R254). -/
structure Job where
  state     : JobState
  body      : SubmitBody
  image     : List Byte
  variant   : Nat
  tables    : List Nat
  cores     : Nat
  taper     : Bool
  scope     : BitVec 2
  stamp     : Nat
  bound     : Nat
  release   : Nat
  replied   : Bool
  nonrepro  : Bool
  readmitted : Option Nat
  regions   : List HostRegion
  admCount  : Nat
  share     : Nat
  hbmBase   : Nat
  hbmSize   : Nat
  ddrBase   : Nat
  ddrSize   : Nat
  ctxBase   : Nat
  ctxSize   : Nat
  pool      : List Nat
  opens     : List (Nat × Nat)
  claims    : List Nat
  cells     : List Nat
  descMap   : List (Nat × Nat × Nat)
  ioFlows   : List (Nat × Nat × List Nat)
  dmaSlots  : List (Nat × Nat)
  ctrDir    : SMap (BitVec 2)
  power     : Nat
  bandHbm   : Nat
  bandDdr   : Nat
  firstEvent : BitVec 16
  excursion : Option (BitVec 16)
  violated  : Bool
  abortTick : Nat
  pauseTrick : Nat
  pauseFrom : Nat
  pauseTicks : Nat
  hostTicks : Nat
  pauseRepart : Bool
  recipient : List Byte
  context   : Option (List Byte)
  waiters   : List HeldReply
  tasks     : SMap TaskRecord
  summary   : BitVec 5
  residue   : List (BitVec 64)
  rcount    : Nat
  residueTaken : Bool
  undelivered : Nat
  slotWrites : SMap Word
  slotDirty : List (Nat × List Granule)
  detaching : Bool
  trapped   : Bool
  record    : List Byte
  readOut   : List Byte
  deriving DecidableEq, Repr

/-- The admission unit (R246): the submissions that wait, the one in progress, and its outcome when loading is done. -/
structure Admission where
  waiting  : List SubmitBody
  current  : Option SubmitBody
  loading  : Option (Nat × Nat)
  count    : Nat
  deriving DecidableEq, Repr

/-- What the host port sends (R274): frames, RDMA WRITEs, RDMA READs, read responses, NAKs and CNPs, in order. `retransmit`
stands for what the transport sends again because no acknowledgement has come. -/
inductive HostTx where
  | frame (qpn : BitVec 24) (typ : BitVec 8) (tag : BitVec 32) (job : BitVec 8) (status : BitVec 16) (body : List Byte)
  | write (qpn : BitVec 24) (rkey : BitVec 32) (va : BitVec 64) (data : List Byte)
  | read (qpn : BitVec 24) (rkey : BitVec 32) (va : BitVec 64) (len : BitVec 64)
  | response (qpn : BitVec 24) (data : List Byte)
  | nakAccess (qpn : BitVec 24)
  | nakInvalid (qpn : BitVec 24)
  | rnrNak (qpn : BitVec 24)
  | cnp (qpn : BitVec 24)
  | retransmit (qpn : BitVec 24)
  deriving DecidableEq, Repr

/-- A frame taken from the host whose reply has not gone out (R279): TYPE and TAG of the reply, and the reply once it is formed
(nothing for a frame that gets none). -/
structure Awaited where
  typ  : BitVec 8
  tag  : BitVec 32
  done : Bool
  tx   : Option HostTx
  deriving DecidableEq, Repr

/-- A queue pair of the device (R266): its state (0 closed, 1 ready, 2 error), the peer, the host's initial PSN, the
send rate in 2^-20 of the share and the tick of its last change, the retries used and the tick of the last, where the
operations sent since it was connected begin in `HostPort.tx`, the tick of its last CNP and of its error, what is kept while it is in
error or without link, and the frames whose replies are still to go out, in order. -/
structure QueuePair where
  state   : BitVec 2
  hqpn    : BitVec 24
  psn     : BitVec 24
  devPsn  : BitVec 24
  rate    : Nat
  rateTick : Nat
  retries : Nat
  retryTick : Nat
  txBase  : Nat
  cnpTick : Option Nat
  errTick : Nat
  kept    : List HostTx
  order   : List Awaited
  deriving DecidableEq, Repr

/-- A TASK_MSG whose parts wait on credit in the port (R273): its job, the receiving table and channel, the handler index,
and for each part its logical core and flits. -/
structure HostMsg where
  job   : Nat
  table : Nat
  rchn  : Nat
  hidx  : Nat
  parts : List (Nat × List (List Byte))
  deriving DecidableEq, Repr

/-- The host port (R261 to R285). `chans` holds what the port knows of the channels that the host feeds, keyed
64 × receiving table + receive channel; `heldFrames` the frames, each with the beacon count of its arrival, that wait for the end of
an arbitration hold (R356); `fresh` the last increments of host counters: key, amount and device time (R172). Queue pair 16 is the control queue pair, 256 + j that of job j. -/
structure HostPort where
  link  : Bool
  mode  : Bool
  lanes : BitVec 8
  drop  : Word
  qps   : SMap QueuePair
  tx    : List HostTx
  chans : SMap SndChan
  msgs  : List HostMsg
  heldFrames : List (Nat × Instr)
  fresh : List (Nat × Nat × Nat)
  deriving DecidableEq, Repr

/-! ### Fabric -/

/-- A fabric port (R310): its registers; the next cell position, counted from round 0; the cells queued for it, each with its
source and the network cycle from which it can leave (128 × table + 2 × channel + reverse for a flow of this device, 0x8000 +
device port for transit on one IO die and 0x8010 + device port over the transit link); both sides of the link sequence (R300,
R301): cells kept for replay with the cycle they were sent in and how often, the cells to replay with the position from which
their NAK applies, cells held after a gap, cells known lost, and whether a NAK is due; HOLD as received and as sent (R302);
alignment (R306); whether it trains because lost lanes are healthy again (R304); and the last cell sent. -/
structure Port where
  state    : BitVec 2
  lanes    : BitVec 9
  nact     : BitVec 4
  spared   : Bool
  degraded : Bool
  nbr      : BitVec 16
  plat     : BitVec 16
  retry    : Word
  kout     : Word
  late     : Word
  rej      : Word
  position : Nat
  outQ     : List (Nat × Nat × Cell)
  sendSeq  : BitVec 16
  replayBuf : List (Cell × Nat × Nat)
  replayDue : List (BitVec 16 × Nat)
  koutRound : Option Nat
  lateRound : Option Nat
  recvSeq  : BitVec 16
  ahead    : List Cell
  lost     : List (BitVec 16)
  nakDue   : Bool
  holdIn   : Bool
  holdOut  : Bool
  alignDue : Bool
  lastAlign : Nat
  alignTick : Nat
  downTick : Nat
  heldDown : Bool
  returning : Bool
  discard  : Bool
  sent     : Option Cell
  deriving DecidableEq, Repr

/-- Fabric time (R307): while it is valid, `time` is its lead over the beacon in 1/16 tick; `via` is the neighbour it comes
through. -/
structure FabricTime where
  time   : BitVec 64
  leader : BitVec 12
  hops   : BitVec 4
  valid  : Bool
  pon    : Word
  via    : BitVec 12
  deriving DecidableEq, Repr

/-! ### Clocks, management, configuration -/

/-- A clock region (R311, R330): step, target, stop causes, temperature and counts; `goal` is the step that a change in progress
moves to, `stepFrom` the device time at which its STEP stop takes effect, and `reached` says that a change has ended and the region has
not run since (R318). Its clock is kept lazily: at device
time `since`, in elevenths of a tick, it had run `cyc` core and `net` network cycles and the fractions `frac` and `nfrac`
of the next. `stopAt` is the device time at which a stop takes effect (R315), and `fullDie` the compute die whose full buffer asked
for it, until the stop is counted in NOC_XSTOP (R191). -/
structure Region where
  step     : BitVec 3
  tgt      : BitVec 3
  changing : Bool
  reached  : Bool
  goal     : BitVec 3
  cause    : BitVec 5
  fullDie  : Option Nat
  temp     : BitVec 8
  steps    : BitVec 16
  held     : Word
  heldFrom : Option Nat
  heldWin  : Nat
  total    : Word
  stopAt   : Option Nat
  stepFrom : Nat
  holdEnd  : Nat
  budgetWin : Option Nat
  cyc      : Nat
  frac     : Nat
  net      : Nat
  nfrac    : Nat
  since    : Nat
  timersHeld : List Nat
  deriving DecidableEq, Repr

/-- The fabric topology and addresses record (R407). `ports` is keyed by device port. -/
structure FabricRecord where
  addr   : BitVec 12
  kint   : BitVec 2
  hmode  : Bool
  mac    : List Byte
  ipv4   : List Byte
  ipv6   : List Byte
  hostIp : List Byte
  cqpn   : BitVec 24
  psnH   : BitVec 24
  psnD   : BitVec 24
  lead   : List (BitVec 16)
  ports  : SMap (Bool × BitVec 12 × BitVec 4 × BitVec 16)
  deriving DecidableEq, Repr

/-- The configuration records in force (R406). -/
structure Records where
  rlen64   : Nat
  permit   : BitVec 6
  floor    : BitVec 3
  scope    : BitVec 2
  pin      : BitVec 3
  pinned   : Bool
  debug    : Bool
  allow    : Nat
  ddrList  : BitVec 16
  warm     : Bool
  hbmOfs   : List Nat
  ddrOfs   : List Nat
  timers   : SMap (Nat × Nat)
  curve    : SMap Word
  curveHdr : SMap Word
  plim     : Nat
  thold    : Nat
  ttrip    : Nat
  boundAbort : Bool
  stallTo  : Nat
  hbmThr   : Nat
  hbmWin   : Nat
  hostLoss : Nat
  portDown : Nat
  fabric   : FabricRecord
  deriving DecidableEq, Repr

/-- What is fixed by fuses: identity, disabled-unit map and repairs, life cycle and keys (R6, R343, R360, R404).
`pcore` holds the low byte of MGT_PCOREt_c, keyed 34 × table + core, where it differs from the grade's own map. `svnDue` is the
SVN of a COMMIT_SVN slot that has run until ready (R334). -/
structure Fuses where
  grade    : BitVec 2
  stepping : BitVec 4
  cores    : Nat
  flicker  : Bool
  serial   : BitVec 64
  lmap     : SMap (BitVec 6)
  pcore    : SMap (BitVec 8)
  tblStat  : SMap (BitVec 9)
  life     : BitVec 3
  returns  : BitVec 2
  krev     : BitVec 4
  kset     : BitVec 4
  keyHash  : SMap (BitVec 512)
  svn      : Nat
  svnDue   : Nat
  seniorSouth : Bool
  identity : Option (BitVec 640)
  deriving DecidableEq, Repr

/-- One management half (R353): MGT_HALFn_STAT and MGT_HALFn_VER, DIGEST of the firmware it runs, the beacon count of its last
heartbeat, and whether it has posted its HEALTH bit in the arbitration hold. -/
structure Half where
  health : Bool
  role   : BitVec 2
  reload : Bool
  fwver  : Word
  digest : BitVec 512
  beat   : Nat
  posted : Bool
  deriving DecidableEq, Repr

/-- The SPDM connection of one path (R350): its state (0 none, 1 version negotiated, 2 algorithms negotiated), and the messages that
its next signatures cover: from GET_VERSION to ALGORITHMS, about digests and certificates, and about measurements. -/
structure SpdmCon where
  state : BitVec 2
  vca   : List Byte
  certs : List Byte
  meas  : List Byte
  deriving DecidableEq, Repr

/-- A live firmware update in progress (R357): its first or second half reloads, the version of the staged slot, the beacon count at which
the half entered RELOAD, and whether its retry has begun. -/
structure Update where
  second  : Bool
  version : Nat
  since   : Nat
  retried : Bool
  deriving DecidableEq, Repr

/-- The management plane (R331 to R360): MGT_BOOTSTAT, the lease with the beacon count of its last renewal and a handover that
waits, the arbitration hold and its beginning and that of the dispute, the halves, SPDM connections, the certificate, the
signature count, the digests of R351, what was answered over MCTP, and the flicker sources marked unhealthy. -/
structure Mgt where
  bootStat  : Word
  holder    : Bool
  leaseValid : Bool
  renewed   : Nat
  hold      : Bool
  holdFrom  : Nat
  disputeFrom : Nat
  told      : Bool
  handover  : Bool
  update    : Option Update
  north     : Half
  south     : Half
  mctpCon   : SpdmCon
  hostCon   : SpdmCon
  certOk    : Bool
  sigCount  : Word
  recDigest : BitVec 512
  timingDigest : BitVec 512
  spdmOut   : List (List Byte)
  flickerBad : Bool × Bool
  deriving DecidableEq, Repr

/-- The event log (R364). Records are keyed by their index. `stamp` is the device time of the last raising, in elevenths
of a tick; `cur` holds the records raised in that cycle of the north IO die region, in the order of R365, and `head0`,
`lost0` and `seq0` stand as they did when that cycle began. -/
structure EventLog where
  recs  : SMap (BitVec 256)
  head  : BitVec 10
  tail  : BitVec 10
  lost  : Word
  seq   : BitVec 16
  stamp : Nat
  cur   : List (BitVec 256)
  head0 : BitVec 10
  lost0 : Word
  seq0  : BitVec 16
  deriving DecidableEq, Repr

/-- The sideband pins and what stands behind them: power and reset, the reference, I3C with the beacon count of its fault or of its last
retry, ALERT_N and the test port (R380 to R391): its instruction (0 EXTEST, 1 IDCODE, 2 SAMPLE/PRELOAD, 15 BYPASS), the data register
that shifts out, the boundary-scan chain, and what EXTEST drives on the balls.
`inRange` is INRANGE of PWR_STAT; `outside` says that the input was last seen outside 40 to 60 V. -/
structure Pins where
  powered  : Bool
  inReset  : Bool
  warmNext : Bool
  warmBoot : Bool
  refPresent : Bool
  holdover : Bool
  ponSat   : Bool
  vin      : BitVec 16
  iin      : BitVec 16
  pin      : BitVec 16
  peak     : BitVec 16
  isOver     : Bool
  overTick : Option Nat
  inRange  : Bool
  outside  : Bool
  i3cAddr  : Option (BitVec 7)
  i3cFault : Bool
  i3cTick  : Nat
  alertFault : Bool
  xspiFault : Bool
  tapReset : Bool
  tapInstr : BitVec 4
  tapData  : List Bool
  boundary : List Bool
  driven   : List Bool
  deriving DecidableEq, Repr

/-- The whole device. `beacon` counts ticks of 10 ns and `sub` elevenths of a tick. `csr` is keyed by physical address and
holds each word exclusive-or its Reset column, so that a register at reset is not listed; `fuses.lmap`, `fuses.pcore` and
`fuses.tblStat` hold their differences from the identity map in the same way. `latch` is keyed by the address of
the _HI register that holds it; `marks` by the address of a register that hardware has counted up or set bits of, each with one more than
the cycle of its region and the amount or the bits (R402); `free` counts the free values taken; `pending` is the queue of commands. -/
structure State where
  beacon   : Nat
  sub      : Nat
  pon      : Word
  round0   : Nat
  ready    : Bool
  fuses    : Fuses
  recs     : Records
  csr      : SMap Word
  latch    : SMap (Option Word)
  marks    : SMap (Nat × Nat)
  fslots   : SMap (BitVec 16)
  routes   : SMap (BitVec 5)
  tables   : SMap Table
  cores    : SMap Core
  noc      : Noc
  mem      : MemSys
  dma      : SMap DmaChan
  descs    : SMap (BitVec 512)
  jobs     : SMap (Option Job)
  adm      : Admission
  host     : HostPort
  hctr     : SMap (BitVec 24)
  ports    : SMap Port
  ftime    : FabricTime
  regions  : SMap Region
  stepsRef : Word
  log      : EventLog
  nor      : SMap Byte
  mgt      : Mgt
  pins     : Pins
  free     : Nat
  pending  : List Instr
  deriving DecidableEq, Repr

/-! ### Reset
Every field at the value of its Reset column; where the specification gives none the value is named in the assumption
log (entries 1 to 4). -/

/-- A sequencer at task start: at granule 0, nothing issued (R109, R112). -/
def Seq.reset : Seq :=
  { pc := 0, nextPc := 0, hold := 0, slots := 0, loopDue := none,
    loops := List.replicate 4 ⟨false, 0, 0, 0, 0⟩, waits := [], window := none, ended := false }

/-- A weight streamer at task start: disarmed, every byte zero (R49). -/
def Streamer.reset : Streamer :=
  { armed := false, desc := 0, nextN := 0, head := 0, fifo := [], warming := false, warmCyc := 0, land := [], operand := ⟨[], []⟩ }

/-- A core at reset: registers, predicates p1 to p7, accumulators, hold halves and queues zero or empty (R50, R112).
Bit 0 of `pred` is p0. -/
def Core.reset : Core :=
  { sreg := [], pred := 1, vreg := [], accM := [], accV := [], cfgM := [], hold := [], scale := [],
    streamer := Streamer.reset, tkCfg := 0, tk := [], codebook := [], curve := [], curveHdr := [],
    squeue := [], vqueue := [], spd := [], outReg := [], spdErr := [], sendBuf := 0, fills := [], touchCyc := 0, touched := 0, fillReq := false,
    portOwed := 0, shelfIn := 0, shelfOut := 0, shstCyc := none,
    taper := Seq.reset, cache := [], missLine := none, reqs := [] }

/-- A send channel that no job has configured (R208). -/
def SndChan.reset : SndChan :=
  { cfg := 0, seq := 0, held := false, poolD := 0, um := 0, xadr := 0, readPos := [], writePos := [], spilling := [],
    spillFree := 0, spillSize := 0 }

/-- A receive channel that no job has configured (R208). -/
def RcvChan.reset : RcvChan :=
  { ring := 0, spill := 0, xsrc := 0, readPos := [], writePos := [], records := [], arriving := [], spilled := [],
    signals := [], retired := [], present := 0, seq := 0, creditDue := false }

/-- A table without a task (R20, R133, R181, R208). -/
def Table.reset : Table :=
  { run := 0, taper := false, job := none, jobTable := 0, seq := Seq.reset, tcc := 0, late := 0, lateCc := 0,
    trick := 0, trickN := 0, pause := 0, pauseN := 0, phase := 0, release := none, ending := false, started := false, busyUntil := 0, busyPrior := 0,
    warmUntil := 0, sends := [],
    issueTcc := 0, prog := [], pend := [], ctr := [], ctrInit := [], tout := [], htab := [], seeds := [],
    seedStat := 0, snd := [], rcv := [], landing := [], credit := [], creditCyc := 0, undrained := [], hostHeld := 0, failed := [] }

/-- A DMA channel that no job has configured (R237). -/
def DmaChan.reset : DmaChan :=
  { ctl := 0, state := 0, repN := 0, miss := 0, cmpTask := 0, cmpChan := 0, rate := 0, job := none, rel := 0, home := 0,
    evSeen := false, startNet := 0, sAddr := 0, dAddr := 0, msgSeq := 0, msgBuf := [], credit := 0, creditNet := 0 }

/-- A queue pair that is closed (R266). -/
def QueuePair.reset : QueuePair :=
  { state := 0, hqpn := 0, psn := 0, devPsn := 0, rate := 0x100000, rateTick := 0, retries := 0, retryTick := 0, txBase := 0, cnpTick := none, errTick := 0, kept := [], order := [] }

/-- A fabric port that is disabled (R310). -/
def Port.reset : Port :=
  { state := 0, lanes := 0, nact := 0, spared := false, degraded := false, nbr := 0, plat := 0, retry := 0, kout := 0,
    late := 0, rej := 0, position := 0, outQ := [], sendSeq := 0, replayBuf := [], replayDue := [], koutRound := none,
    lateRound := none, recvSeq := 0xFFFF, ahead := [], lost := [], nakDue := false, holdIn := false, holdOut := false,
    alignDue := false, lastAlign := 0, alignTick := 0, downTick := 0, heldDown := false, returning := false, discard := false, sent := none }

/-- A clock region at reset: step D0, no stop cause (R319, R330). -/
def Region.reset : Region :=
  { step := 0, tgt := 0, changing := false, reached := false, goal := 0, cause := 0, fullDie := none, temp := 0, steps := 0, held := 0,
    heldFrom := none, heldWin := 0, total := 0, stopAt := none, stepFrom := 0, holdEnd := 0, budgetWin := none, cyc := 0, frac := 0,
    net := 0, nfrac := 0, since := 0, timersHeld := [] }

/-- The fabric topology and addresses before its record is applied (R310). -/
def FabricRecord.reset : FabricRecord :=
  { addr := 0xFFF, kint := 1, hmode := false, mac := List.replicate 6 0, ipv4 := List.replicate 4 0,
    ipv6 := List.replicate 16 0, hostIp := List.replicate 16 0, cqpn := 0, psnH := 0, psnD := 0, lead := [], ports := [] }

/-- The defaults of every record type (R406). -/
def Records.reset : Records :=
  { rlen64 := 8, permit := 0x3F, floor := 5, scope := 0, pin := 0, pinned := false, debug := false, allow := 20,
    ddrList := 0, warm := false, hbmOfs := (List.range 16).map (12 * ·), ddrOfs := (List.range 16).map (12 * ·),
    timers := [], curve := [], curveHdr := [], plim := 2850, thold := 95, ttrip := 105, boundAbort := false,
    stallTo := 0x100000, hbmThr := 256, hbmWin := 1000000000, hostLoss := 60, portDown := 100,
    fabric := FabricRecord.reset }

/-- DESIGN CHOICE (assumption 2): the fused values of the part the model starts as: grade A, stepping B0, 32 enabled
cores in every table with physical cores 32 and 33 as tested spares, identity maps, DEPLOYED, key slots 0 and 1 fused. -/
def Fuses.reset : Fuses :=
  { grade := 0, stepping := 0, cores := 32, flicker := true, serial := 0, lmap := [], pcore := [], tblStat := [],
    life := 2, returns := 0, krev := 0, kset := 3, keyHash := [], svn := 0, svnDue := 0, seniorSouth := false, identity := some 1 }

/-- A management half before it reports (R360). -/
def Half.reset : Half :=
  { health := false, role := 0, reload := false, fwver := 0, digest := 0, beat := 0, posted := false }

/-- An SPDM connection before GET_VERSION. -/
def SpdmCon.reset : SpdmCon := { state := 0, vca := [], certs := [], meas := [] }

/-- The management plane at reset (R360, R405). -/
def Mgt.reset : Mgt :=
  { bootStat := 0, holder := false, leaseValid := false, renewed := 0, hold := false, holdFrom := 0, disputeFrom := 0, told := false, handover := false, update := none,
    north := Half.reset, south := Half.reset, mctpCon := SpdmCon.reset, hostCon := SpdmCon.reset, certOk := false, sigCount := 0,
    recDigest := 0, timingDigest := 0, spdmOut := [],
    flickerBad := (false, false) }

/-- The empty event log (R379). -/
def EventLog.reset : EventLog := { recs := [], head := 0, tail := 0, lost := 0, seq := 0, stamp := 0, cur := [], head0 := 0, lost0 := 0, seq0 := 0 }

/-- Cells of the boundary-scan chain (R391): one for each sideband and DDR5 ball but those of the test port itself (assumption 64): NRST,
ALERT_N, 12 of the configuration memory, 2 of I3C, and 176 for each of 16 DDR5 channels. -/
def chainLength : Nat := 1 + 1 + 12 + 2 + 176 * 16

/-- DESIGN CHOICE (assumption 3): power is good and the lines are healthy at reset release. -/
def Pins.reset : Pins :=
  { powered := true, inReset := false, warmNext := false, warmBoot := false, refPresent := false, holdover := false,
    ponSat := false, vin := 0, iin := 0, pin := 0, peak := 0, isOver := false, overTick := none, inRange := false, outside := false,
    i3cAddr := none, i3cFault := false, i3cTick := 0, alertFault := false, xspiFault := false, tapReset := false, tapInstr := 1,
    tapData := [], boundary := List.replicate chainLength false, driven := [] }

/-- The whole device at reset release: the beacon restarts at 0, every register holds its Reset column (an unlisted key
of `csr` reads as it), no memory byte is listed, no job is admitted, and no command waits. -/
def State.reset : State :=
  { beacon := 0, sub := 0, pon := 0, round0 := 0, ready := false, fuses := Fuses.reset, recs := Records.reset, csr := [],
    latch := [], marks := [], fslots := [], routes := [], tables := [], cores := [],
    noc := { slots := [], queues := [], chanQ := [], links := [], sent := [] },
    mem := { hbm := [], ddr := [], shelf := [], shelfErr := [], granules := [], population := [], msize := 0, holes := [],
             ceSeen := [], spares := [], copying := [], copyDue := [], bad := [], refreshed := [], lost := [], fired := [], firedNet := [] },
    dma := [], descs := [], jobs := [],
    adm := { waiting := [], current := none, loading := none, count := 0 },
    host := { link := false, mode := false, lanes := 0, drop := 0, qps := [], tx := [], chans := [], msgs := [], heldFrames := [], fresh := [] },
    hctr := [], ports := [], ftime := { time := 0, leader := 0xFFF, hops := 0xF, valid := false, pon := 0, via := 0xFFF },
    regions := [], stepsRef := 0, log := EventLog.reset, nor := [], mgt := Mgt.reset, pins := Pins.reset,
    free := 0, pending := [] }

end Sys2Proof.Machine
end

