-- ==== Sys2Proof/Machine/Ops.lean ====
section
/-!
DEFINITION. The named operations over the parts of the state: tables, cores, regions, jobs, registers held by address, the
fused maps, event records, and the abort of a job. Every command goes through them.
-/
namespace Sys2Proof.Machine

/-! ### Parts of the state -/

/-- Device time in elevenths of a beacon tick: one per core cycle at D0. -/
def State.now11 (s : State) : Nat := 11 * s.beacon + s.sub

/-- Table `t`, physical. -/
def State.table (s : State) (t : Nat) : Table := SMap.get Table.reset s.tables t

/-- The state with table `t` changed by `f`. -/
def State.modTable (s : State) (t : Nat) (f : Table → Table) : State :=
  { s with tables := SMap.modify Table.reset s.tables t f }

/-- Core `k` = 34 × physical table + physical core. -/
def State.core (s : State) (k : Nat) : Core := SMap.get Core.reset s.cores k

/-- The state with core `k` changed by `f`. -/
def State.modCore (s : State) (k : Nat) (f : Core → Core) : State :=
  { s with cores := SMap.modify Core.reset s.cores k f }

/-- Clock region `r` (R311). -/
def State.region (s : State) (r : Nat) : Region := SMap.get Region.reset s.regions r

/-- The state with region `r` changed by `f`. -/
def State.modRegion (s : State) (r : Nat) (f : Region → Region) : State :=
  { s with regions := SMap.modify Region.reset s.regions r f }

/-- Job `j`, if the number is in use. -/
def State.job (s : State) (j : Nat) : Option Job := SMap.get none s.jobs j

/-- The state with job `j`, if it exists, changed by `f`. -/
def State.modJob (s : State) (j : Nat) (f : Job → Job) : State :=
  { s with jobs := SMap.modify none s.jobs j (Option.map f) }

/-- The key of DMA channel `ch` of block `blk`: blocks 0 to 7 are compute dies, 8 and 9 IO dies (R228). -/
def dmaKey (blk ch : Nat) : Nat := 128 * blk + ch

/-- DMA channel of a key. -/
def State.dmaCh (s : State) (k : Nat) : DmaChan := SMap.get DmaChan.reset s.dma k

/-- The state with a DMA channel changed by `f`. -/
def State.modDma (s : State) (k : Nat) (f : DmaChan → DmaChan) : State :=
  { s with dma := SMap.modify DmaChan.reset s.dma k f }

/-- Fabric port `q`, a device port 0 to 15. -/
def State.port (s : State) (q : Nat) : Port := SMap.get Port.reset s.ports q

/-- The state with a fabric port changed by `f`. -/
def State.modPort (s : State) (q : Nat) (f : Port → Port) : State :=
  { s with ports := SMap.modify Port.reset s.ports q f }

/-- Device queue pair `n`: 16 is the control queue pair, 256 + j that of job j (R266, R267). -/
def State.qp (s : State) (n : Nat) : QueuePair := SMap.get QueuePair.reset s.host.qps n

/-- The state with a queue pair changed by `f`. -/
def State.modQp (s : State) (n : Nat) (f : QueuePair → QueuePair) : State :=
  { s with host := { s.host with qps := SMap.modify QueuePair.reset s.host.qps n f } }

/-- The queue pair that something is sent on. -/
def HostTx.qpn : HostTx → BitVec 24
  | .frame q _ _ _ _ _ => q
  | .write q _ _ _ => q
  | .read q _ _ _ => q
  | .response q _ => q
  | .nakAccess q => q
  | .nakInvalid q => q
  | .rnrNak q => q
  | .cnp q => q
  | .retransmit q => q

/-- Something sent by the host port; on a queue pair in error, and while the link is down, it is kept (R282, R283). -/
def State.send (s : State) (x : HostTx) : State :=
  if (s.qp x.qpn.toNat).state = 2 ∨ s.host.link = false then s.modQp x.qpn.toNat (fun q => { q with kept := q.kept ++ [x] })
  else { s with host := { s.host with tx := s.host.tx ++ [x] } }

/-! ### Replies in the order of their frames (R271, R279) -/

/-- A frame taken on queue pair `n`; its reply has TYPE `typ`. -/
def State.expect (s : State) (n : Nat) (typ : BitVec 8) (tag : BitVec 32) : State :=
  s.modQp n (fun q => { q with order := q.order ++ [⟨typ, tag, false, none⟩] })

/-- The first frame that awaits this reply, with the reply filled in. -/
def fillReply (typ : BitVec 8) (tag : BitVec 32) (x : Option HostTx) (l : List Awaited) : List Awaited :=
  match l with
  | [] => []
  | a :: rest => if ¬ a.done ∧ a.typ = typ ∧ a.tag = tag then { a with done := true, tx := x } :: rest
    else a :: fillReply typ tag x rest

/-- The reply to a frame of queue pair `n`, or none for one that gets none. It goes out once every earlier frame of the queue pair
has had its own. -/
def State.settle (s : State) (n : Nat) (typ : BitVec 8) (tag : BitVec 32) (x : Option HostTx) : State :=
  let l := fillReply typ tag x (s.qp n).order
  let s := s.modQp n (fun q => { q with order := l.dropWhile (·.done) })
  (l.takeWhile (·.done)).foldl (fun acc a => match a.tx with
    | some x => acc.send x
    | none => acc) s

/-- A reply frame. -/
def State.answer (s : State) (qpn : BitVec 24) (typ : BitVec 8) (tag : BitVec 32) (job : BitVec 8) (status : BitVec 16)
    (body : List Byte) : State :=
  s.settle qpn.toNat typ tag (some (.frame qpn typ tag job status body))

/-- Synthesiser multiple of a dimmer step, in thousandths (R316); 0.88 of it for the table and die network regions in
debug mode (R375). -/
def stepMultiple (debug : Bool) (step : BitVec 3) : Nat :=
  let m := match step.toNat with
    | 0 => 6600 | 1 => 6000 | 2 => 5400 | 3 => 4800 | 4 => 3960 | _ => 3300
  m * (if debug then 88 else 100)

/-- The multiple at which region `r` runs. A core cycle takes 660,000 units and a network cycle 440,000 (R312). -/
def State.multiple (s : State) (r : Nat) : Nat := stepMultiple (s.recs.debug && decide (r < 72)) (s.region r).step

/-- Core cycles that a region has run by device time `now` and the fraction of the next. -/
def Region.clock (g : Region) (mult now : Nat) : Nat × Nat :=
  if g.stopAt.isSome then (g.cyc, g.frac) else
  let u := g.frac + (now - g.since) * mult
  (g.cyc + u / 660000, u % 660000)

/-- Network cycles that a region has run by device time `now` and the fraction of the next. -/
def Region.netClock (g : Region) (mult now : Nat) : Nat × Nat :=
  if g.stopAt.isSome then (g.net, g.nfrac) else
  let u := g.nfrac + (now - g.since) * mult
  (g.net + u / 440000, u % 440000)

/-- The core cycle that region `r` is in. -/
def State.cyc (s : State) (r : Nat) : Nat := ((s.region r).clock (s.multiple r) s.now11).1

/-- The network cycle that region `r` is in. -/
def State.net (s : State) (r : Nat) : Nat := ((s.region r).netClock (s.multiple r) s.now11).1

/-- The network cycles of region `r` that begin in the current eleventh of a beacon tick, or else the one it is in (assumption 6). -/
def State.netWindow (s : State) (r : Nat) : List Nat :=
  let hi := s.net r
  let lo := min hi (((s.region r).netClock (s.multiple r) (s.now11 - 1)).1 + 1)
  (List.range (hi + 1 - lo)).map (lo + ·)

/-- The region's counts brought up to now, so that its step or its stop may change. -/
def State.syncRegion (s : State) (r : Nat) : State :=
  let g := s.region r
  let m := s.multiple r
  let c := g.clock m s.now11
  let n := g.netClock m s.now11
  if g.stopAt.isSome then s
  else s.modRegion r (fun g => { g with cyc := c.1, frac := c.2, net := n.1, nfrac := n.2, since := Nat.max g.since s.now11 })

/-- Region `r` has stopped (R314, R315). -/
def State.stopped (s : State) (r : Nat) : Bool := (s.region r).stopAt.any (fun b => decide (b ≤ s.now11))

/-! ### The fused maps (R4, R404) -/

/-- Physical table of logical table `n` (MGT_LMAPn). -/
def State.physTable (s : State) (n : Nat) : Nat := (SMap.get 0 s.fuses.lmap n ^^^ BitVec.ofNat 6 n).toNat

/-- Logical table of physical table `t`. -/
def State.logTable (s : State) (t : Nat) : Nat := ((List.range 64).find? (fun n => s.physTable n == t)).getD 0

/-- The low byte of MGT_PCOREt_c: STATE in bits 1:0, LCORE in bits 7:2. A core that no repair fuse concerns is enabled
under its own number or is a tested spare. -/
def State.pcore (s : State) (t c : Nat) : Byte :=
  SMap.get 0 s.fuses.pcore (34 * t + c) ^^^ (if c < s.fuses.cores then BitVec.ofNat 8 (4 * c) else 1)

/-- The state with MGT_PCOREt_c at `v`. -/
def State.setPcore (s : State) (t c : Nat) (v : Byte) : State :=
  let own : Byte := if c < s.fuses.cores then BitVec.ofNat 8 (4 * c) else 1
  { s with fuses := { s.fuses with pcore := SMap.set 0 s.fuses.pcore (34 * t + c) (v ^^^ own) } }

/-- Physical core of logical core `lc` of table `t`. -/
def State.physCore (s : State) (t lc : Nat) : Option Nat :=
  (List.range 34).find? (fun c => s.pcore t c == BitVec.ofNat 8 (4 * lc))

/-- Logical core of an enabled physical core. -/
def State.logCore (s : State) (t c : Nat) : Nat := field (s.pcore t c) 7 2

/-- The enabled cores of table `t` in rising logical order, each with its key. -/
def State.tableCores (s : State) (t : Nat) : List (Nat × Nat) :=
  (List.range s.fuses.cores).filterMap (fun lc => (s.physCore t lc).map (fun c => (lc, 34 * t + c)))

/-- MGT_TBLn_STAT of logical table `n`: a table no fuse concerns is in service with every spare left. -/
def State.tblStat (s : State) (n : Nat) : BitVec 9 :=
  SMap.get 0 s.fuses.tblStat n ^^^ BitVec.ofNat 9 (4 * (34 - s.fuses.cores))

/-- The state with MGT_TBLn_STAT at `v`. -/
def State.setTblStat (s : State) (n : Nat) (v : BitVec 9) : State :=
  let own : BitVec 9 := BitVec.ofNat 9 (4 * (34 - s.fuses.cores))
  { s with fuses := { s.fuses with tblStat := SMap.set 0 s.fuses.tblStat n (v ^^^ own) } }

/-- Physical table `t` is out of service (R367, R370). -/
def State.outOfService (s : State) (t : Nat) : Bool := field (s.tblStat (s.logTable t)) 1 0 == 2

/-! ### Registers held by address (R403) -/

/-- Bases of the register blocks (R403). -/
def mgtBase : Nat := 0x300000000000
def lcsBase : Nat := 0x300000010000
def attBase : Nat := 0x300000020000
def evtBase : Nat := 0x300000040000
def clkBase : Nat := 0x300000060000
def snfBase : Nat := 0x300000070000
def bcnBase : Nat := 0x300000080000
def pwrBase : Nat := 0x300000090000
def hstBase : Nat := 0x300000100000
def hbmBase : Nat := 0x300000200000
def ddrBase : Nat := 0x300000300000
def nocBase (d : Nat) : Nat := 0x300100000000 + 0x100000 * d
def dmaBase (blk : Nat) : Nat :=
  if blk < 8 then 0x300101000000 + 0x40000 * blk else 0x300102000000 + 0x40000 * (blk - 8)
def bxlBase (i : Nat) : Nat := 0x300103000000 + 0x100000 * i
def tblBase (t : Nat) : Nat := 0x300200000000 + 0x100000 * t
def coreBase (k : Nat) : Nat := 0x300300000000 + 0x1000000 * (k / 34) + 0x40000 * (k % 34)

/-- Register `off` of core `k`. -/
def coreReg (k off : Nat) : Nat := coreBase k + off
/-- Register `off` of the accumulator block of core `k`. -/
def accReg (k off : Nat) : Nat := coreBase k + 0x20000 + off
/-- Registers of the blocks of table `t`. -/
def tblReg (t off : Nat) : Nat := tblBase t + off
def dlrReg (t off : Nat) : Nat := tblBase t + 0x1000 + off
def synReg (t off : Nat) : Nat := tblBase t + 0x2000 + off
def chnReg (t off : Nat) : Nat := tblBase t + 0x3000 + off
def spdReg (t off : Nat) : Nat := tblBase t + 0x4000 + off
def shfReg (t off : Nat) : Nat := tblBase t + 0x4100 + off

/-- The Reset column of a core register (R45, R48, R61). Word 2 of a hold descriptor holds XSTR from bit 102 of the
descriptor on, word 3 its upper bits, word 4 XEXT and YEXT. -/
def coreReset (off : Nat) : Word :=
  if 0x100 ≤ off ∧ off < 0x110 then 0xFFFFFFFF
  else if 0x200 ≤ off ∧ off < 0x280 then
    match (off % 0x20) / 4 with
    | 1 => 0x00030000     -- HFMT 3
    | 3 => 0x00001000     -- XSTR 0x40 at bit 102
    | 4 => 0x00001040     -- XEXT 0x40, YEXT 1
    | 5 => 0x00400000     -- LX 0x40
    | 6 => 0x11001111     -- SX, SY, DX, DY, WX, WY 1
    | 7 => 0x00000001     -- CCNT 1
    | _ => 0
  else if 0x300 ≤ off ∧ off < 0x340 then
    match (off % 0x10) / 4 with
    | 0 => 0x02000000     -- ISTR 0x40 at bit 19
    | 2 => 0x00080000     -- OCNT 1 at bit 83
    | 3 => 0x000C0000     -- WFMT 3 at bit 114
    | _ => 0
  else 0

/-- The Reset column of a register held by address. -/
def csrReset (a : Nat) : Word :=
  if coreBase 0 ≤ a then coreReset ((a - coreBase 0) % 0x40000)
  else if tblBase 0 ≤ a ∧ (a - tblBase 0) % 0x100000 = 0x3900 then 0x00100000
  else 0

/-- The register at address `a`. -/
def State.csrAt (s : State) (a : Nat) : Word := SMap.get 0 s.csr a ^^^ csrReset a

/-- The state with the register at address `a` at `v`. -/
def State.setCsr (s : State) (a : Nat) (v : Word) : State :=
  { s with csr := SMap.set 0 s.csr a (v ^^^ csrReset a) }

/-- The state with the register at address `a` changed by `f`. -/
def State.modCsr (s : State) (a : Nat) (f : Word → Word) : State := s.setCsr a (f (s.csrAt a))

/-- Words written one after another from address `a`. -/
def State.setCsrs (s : State) (a : Nat) (ws : List Word) : State :=
  match ws with
  | [] => s
  | w :: rest => (s.setCsr a w).setCsrs (a + 4) rest

/-- `n` registers from address `a`, as one number, word 0 least significant. -/
def State.csrWide (s : State) (a n : Nat) : Nat :=
  ((List.range n).map (fun j => (s.csrAt (a + 4 * j)).toNat <<< (32 * j))).foldl (· + ·) 0

/-! ### Updates and writes of one cycle (R402) -/

/-- The clock region in whose cycles the register at address `a` is updated; none for a register of an IO die. -/
def regRegion (a : Nat) : Option Nat :=
  if coreBase 0 ≤ a then some ((a - coreBase 0) / 0x1000000)
  else if tblBase 0 ≤ a then some ((a - tblBase 0) / 0x100000)
  else if a < nocBase 0 ∨ dmaBase 8 ≤ a then none
  else if dmaBase 0 ≤ a then some (64 + (a - dmaBase 0) / 0x40000)
  else some (64 + (a - nocBase 0) / 0x100000)

/-- One more than the cycle in which the register at address `a` would be updated now; 0 where its region stands. -/
def State.stampOf (s : State) (a : Nat) : Nat :=
  match regRegion a with
  | none => s.now11 + 1
  | some r => if s.stopped r then 0 else (if r < 64 then s.cyc r else s.net r) + 1

/-- What hardware has added to the register at address `a`, or the bits it has set there, in the cycle in progress. -/
def State.marked (s : State) (a : Nat) : Nat :=
  let m := SMap.get (0, 0) s.marks a
  if m.1 ≠ 0 ∧ m.1 = s.stampOf a then m.2 else 0

/-- The state with the mark of the register at address `a` at `v` for the cycle in progress. -/
def State.mark (s : State) (a v : Nat) : State :=
  if s.stampOf a = 0 then s else { s with marks := SMap.set (0, 0) s.marks a (s.stampOf a, v) }

/-- Hardware adds `n` to a saturating count. -/
def State.countUp (s : State) (a n : Nat) : State := (s.modCsr a (fun v => satAdd v n)).mark a (s.marked a + n)

/-- Hardware sets bits of a register. -/
def State.setFlags (s : State) (a : Nat) (v : Word) : State := (s.modCsr a (fun w => w ||| v)).mark a (s.marked a ||| v.toNat)

/-- The registers of the counts that State holds under names of their own: HST_DROP, CLK_STEPS_REF, and register `i` of device
port `q`. -/
def dropReg : Nat := hstBase + 8
def stepsRefReg : Nat := clkBase + 8
def portReg (q i : Nat) : Nat := bxlBase (q / 8) + 0x100 + 0x40 * (q % 8) + 4 * i

/-- The counts of a fabric port by the index of their register (R310): 3 RETRY, 4 KOUT, 5 LATE, 6 REJ. -/
def Port.count (p : Port) (i : Nat) : Word := match i with | 3 => p.retry | 4 => p.kout | 5 => p.late | _ => p.rej

/-- A port with one of its counts at `v`. -/
def Port.setCount (p : Port) (i : Nat) (v : Word) : Port :=
  match i with
  | 3 => { p with retry := v }
  | 4 => { p with kout := v }
  | 5 => { p with late := v }
  | _ => { p with rej := v }

/-- Hardware adds `n` to a count of device port `q`. -/
def State.countPort (s : State) (q i n : Nat) : State :=
  (s.modPort q (fun p => p.setCount i (satAdd (p.count i) n))).mark (portReg q i) (s.marked (portReg q i) + n)

/-- A lane mask pair (R61) or a flag pair (R91) as 64 bits. -/
def State.csr64 (s : State) (a : Nat) : BitVec 64 := s.csrAt (a + 4) ++ s.csrAt a

/-- The state with a pair of registers at 64 bits. -/
def State.setCsr64 (s : State) (a : Nat) (v : BitVec 64) : State :=
  (s.setCsr a (v.extractLsb' 0 32)).setCsr (a + 4) (v.extractLsb' 32 32)

/-! ### Event records (R361 to R365) -/

/-- An event to raise. -/
structure Ev where
  code   : Nat
  cls    : Nat
  job    : Option Nat
  region : Option Nat
  ltable : Option Nat
  detail : Nat
  deriving DecidableEq, Repr

/-- Class codes (R361). -/
def clsNote : Nat := 0
def clsCorrected : Nat := 1
def clsContained : Nat := 2
def clsTable : Nat := 3
def clsDevice : Nat := 4

/-- Fabric time as it stands now (R307): while it is valid it runs with the beacon, and otherwise it stands. -/
def State.fabricTime (s : State) : Nat :=
  if s.ftime.valid then (s.ftime.time.toNat + 16 * s.now11 / 11) % 2 ^ 64 else s.ftime.time.toNat

/-- The 256-bit record of an event, without SEQ (R361). -/
def State.evRecord (s : State) (e : Ev) : BitVec 256 :=
  BitVec.ofNat 256 (packBits
    [(16, e.code), (3, e.cls), (1, b2n s.ftime.valid), (4, 0), (8, e.job.getD 0xFF), (7, e.region.getD 0x7F), (1, 0),
     (6, e.ltable.getD 0), (1, b2n e.ltable.isSome), (1, 0), (16, 0), (64, s.beacon), (64, s.fabricTime), (64, e.detail)])

/-- The order of records raised in one cycle: rising REGION, then rising CODE (R365). -/
def recordKey (r : BitVec 256) : Nat := 0x10000 * field r 38 32 + field r 15 0

/-- A record placed among the records of its cycle, after those of an equal key. -/
def insertRecord (r : BitVec 256) (rs : List (BitVec 256)) : List (BitVec 256) :=
  match rs with
  | [] => [r]
  | x :: rest => if recordKey r < recordKey x then r :: x :: rest else x :: insertRecord r rest

/-- One record written at EVT_HEAD, or counted in EVT_LOST when the log is full; SEQ counts it either way (R364). -/
def EventLog.write (l : EventLog) (r : BitVec 256) : EventLog :=
  let l' := { l with seq := l.seq + 1 }
  if l.head + 1 = l.tail then { l' with lost := satIncr l.lost }
  else { l' with recs := SMap.set 0 l.recs l.head.toNat (r ||| (l.seq.zeroExtend 256 <<< 48)), head := l.head + 1 }

/-- The log with a record raised at device time `now`. -/
def EventLog.raise (l : EventLog) (now : Nat) (r : BitVec 256) : EventLog :=
  let l := if l.stamp = now then l
    else { l with stamp := now, cur := [], head0 := l.head, lost0 := l.lost, seq0 := l.seq }
  let cur := insertRecord r l.cur
  cur.foldl EventLog.write { l with cur := cur, head := l.head0, lost := l.lost0, seq := l.seq0 }

/-- The log without the records of device time `now` that `p` selects. -/
def EventLog.unraise (l : EventLog) (now : Nat) (p : BitVec 256 → Bool) : EventLog :=
  if l.stamp ≠ now then l else
  let cur := l.cur.filter (fun r => !p r)
  cur.foldl EventLog.write { l with cur := cur, head := l.head0, lost := l.lost0, seq := l.seq0 }

/-- The state with an event raised. -/
def State.raise (s : State) (e : Ev) : State := { s with log := s.log.raise s.now11 (s.evRecord e) }

/-- An event of the table region of table `t`, naming its job. -/
def State.raiseTable (s : State) (t code cls detail : Nat) : State :=
  s.raise ⟨code, cls, (s.table t).job, some t, some (s.logTable t), detail⟩

/-- An event that names no job, region or table. -/
def State.raiseDev (s : State) (code cls detail : Nat) : State := s.raise ⟨code, cls, none, none, none, detail⟩

/-- EVT_STAT FULL (R364). -/
def EventLog.full (l : EventLog) : Bool := l.head + 1 == l.tail

/-- The unread records. -/
def EventLog.unread (l : EventLog) : List (BitVec 256) :=
  (List.range (l.head - l.tail).toNat).map (fun i => SMap.get 0 l.recs ((l.tail.toNat + i) % 1024))

/-- ALERT_N is driven low: an unread record of class TABLE or DEVICE or of code 0x4000 or above, or boot stopped (R364). -/
def State.alert (s : State) : Bool :=
  field s.mgt.bootStat 7 4 != 0 ||
  s.log.unread.any (fun r => decide (clsTable ≤ field r 18 16) || decide (0x4000 ≤ field r 15 0))

/-! ### Abort (R259) -/

/-- Flits of the tables `ts`: bound for one of them by the DPT field of the tag (R198), or sent by one of them to another
device. -/
def Flit.boundFor (ts : List Nat) (f : Flit) : Bool :=
  ts.contains (if f.edge.isSome then f.src / 128 else field f.tag 7 2)

/-- The network without the flits of the tables `ts`: their L-input queues, and every flit bound for them. Both ends of a
channel lie in one job (R193). -/
def Noc.discard (n : Noc) (ts : List Nat) : Noc :=
  let keep (q : List Flit) : List Flit := q.filter (fun f => !f.boundFor ts)
  { n with
    chanQ := n.chanQ.filter (fun kv => !ts.contains (kv.1 / 128 % 64))
    queues := (n.queues.map (fun kv => (kv.1, keep kv.2))).filter (fun kv => !kv.2.isEmpty)
    links := (n.links.map (fun kv => (kv.1, keep kv.2))).filter (fun kv => !kv.2.isEmpty) }

/-- The fabric ports without the cells of the tables `ts` that wait to leave. -/
def dropCells (ports : SMap Port) (ts : List Nat) : SMap Port :=
  SMap.mapAll Port.reset ports (fun _ p => { p with outQ := p.outQ.filter (fun c => !(decide (c.1 < 0x4000) && ts.contains (c.1 / 128))) })

/-- A receive channel without messages, parts and signals. -/
def RcvChan.discard (c : RcvChan) : RcvChan :=
  { c with records := [], arriving := [], spilled := [], signals := [], retired := [], present := 0 }

/-- SEQ of the next message of send channel `n`: that of its first SEND still waiting on credit, else the one the next SEND takes. -/
def Table.nextSeq (t : Table) (n : Nat) (seq : BitVec 21) : BitVec 21 :=
  match t.sends.find? (fun i => i.chn == n && !i.started && i.signal.isNone) with
  | some i => BitVec.ofNat 21 i.seq
  | none => seq

/-- A table whose dealer stops issue: waits, windows and held sends end; operations in flight complete (R259). -/
def Table.stop (t : Table) : Table :=
  { t with run := if t.run = 0 then 0 else 3, ending := true, release := none, landing := [],
           seq := { t.seq with waits := [], window := none, hold := 0 }
           sends := []
           snd := SMap.mapAll SndChan.reset t.snd (fun n c => { c with held := false, seq := t.nextSeq n c.seq })
           rcv := SMap.mapAll RcvChan.reset t.rcv (fun _ c => c.discard) }

/-- Setting STOP in a channel's DMA_CHn_CTL: it takes effect at the next repetition boundary, which is at once for a
channel that is not moving (R235). -/
def DmaChan.stop (c : DmaChan) : DmaChan :=
  { c with ctl := c.ctl ||| 0x800, state := if c.state = 2 then 2 else if c.job.isSome then 3 else c.state }

/-- Every DMA channel of job `j` told to stop (R235). -/
def stopDma (dma : SMap DmaChan) (j : Nat) : SMap DmaChan :=
  SMap.mapAll DmaChan.reset dma (fun _ c => if c.job = some j then c.stop else c)

/-- The refusal reasons that this file answers with (R246, R252). -/
def stPauseFailed : BitVec 16 := 0x0052

/-- The replies to a PAUSE that fails (R252, R368). -/
def State.failPause (s : State) (j : Nat) (b : Job) : State :=
  b.waiters.foldl (fun acc w => if w.typ = 0x03
    then acc.answer w.qpn 0x83 w.tag (BitVec.ofNat 8 j) stPauseFailed [] else acc) s

/-- Job numbers that a frame may name and no admitted job holds (R273). -/
def stNoJob : BitVec 16 := 0x0056

/-- What a job's abort answers to the frames that wait on it: a PAUSE has failed and a RESUME names no job any more; a DETACH
or an ABORT still waits for the completion record. -/
def State.endWaiters (s : State) (j : Nat) (b : Job) : State :=
  let s := s.failPause j b
  b.waiters.foldl (fun acc w => if w.typ = 0x04
    then acc.answer w.qpn 0x84 w.tag (BitVec.ofNat 8 j) stNoJob [] else acc) s

/-- The abort of job `j`, with the event that causes it, or 0 for a host frame. Steps 1 to 3 of R259 happen here; the
completion record is formed once the job's requests have retired. A later cause in the same cycle lowers FIRST_EVENT
(R365). -/
def State.abortJob (s : State) (j code : Nat) : State :=
  match s.job j with
  | none => s
  | some b =>
    match b.state with
    | .ended => s
    | .aborting =>
      if b.abortTick = s.now11 ∧ b.firstEvent ≠ 0 ∧ code ≠ 0 ∧ code < b.firstEvent.toNat
      then s.modJob j (fun b => { b with firstEvent := BitVec.ofNat 16 code }) else s
    | _ =>
      let s := s.endWaiters j b
      let s := b.tables.foldl (fun acc t => acc.modTable t Table.stop) s
      let s := { s with dma := stopDma s.dma j, noc := s.noc.discard b.tables, ports := dropCells s.ports b.tables }
      s.modJob j (fun b => { b with
        state := .aborting, abortTick := s.now11
        pauseTicks := b.pauseTicks + (if b.state = .pausing ∨ b.state = .paused then s.beacon - b.pauseFrom else 0)
        waiters := b.waiters.filter (fun w => decide (4 < w.typ)),
        firstEvent := if b.trapped then 0x1301 else BitVec.ofNat 16 code })

/-- An event of table `t` that aborts the job that runs there. -/
def State.faultTable (s : State) (t code detail : Nat) : State :=
  let s' := s.raiseTable t code clsContained detail
  match (s.table t).job with
  | some j => s'.abortJob j code
  | none => s'

/-- The rating excursion of R34 and R374 for job `j`, caused by event `code`, with its NOTICE frame (R278). -/
def State.excursion (s : State) (code j : Nat) : State :=
  match s.job j with
  | none => s
  | some b =>
    if b.state = .ended then s else
    let s := s.raise ⟨0x1202, clsContained, some j, none, none, code⟩
    let s := s.send (.frame (BitVec.ofNat 24 (256 + j)) 0xC3 0 (BitVec.ofNat 8 j) 0
      (natLe 8 0x1202 ++ natLe 8 s.beacon))
    s.modJob j (fun b => { b with excursion := some (b.excursion.getD (BitVec.ofNat 16 code)) })

/-- The rating excursion for every admitted job that `p` selects. -/
def State.excursions (s : State) (code : Nat) (p : Job → Bool) : State :=
  (List.range 64).foldl (fun acc j => match s.job j with
    | some b => if p b then acc.excursion code j else acc
    | none => acc) s

/-- A fresh free value's number: the counter as it stands, and the state with it advanced. -/
def State.takeFree (s : State) : Nat × State := (s.free, { s with free := s.free + 1 })

end Sys2Proof.Machine
end

