-- ==== Sys2Proof/Machine/Hazard.lean ====
section
/-!
DEFINITION. The hazard detector of debug mode (R375 to R377): locations, DRAINED bits, pending writes, and the record of
the first hazard of a task.
-/
namespace Sys2Proof.Machine

/-- LCLASS of DLR_HAZ_KIND (R379). -/
def Loc.cls : Loc → Nat
  | .spdWord .. => 0 | .shelfGran .. => 1 | .sreg .. => 2 | .vreg .. => 3 | .pred .. => 4 | .acc .. => 5 | .hold .. => 6

/-- The core that a location belongs to, or that accessed it. -/
def Loc.core : Loc → Nat
  | .spdWord k _ | .shelfGran k _ | .sreg k _ | .vreg k _ | .pred k _ | .acc k _ | .hold k _ _ => k

/-- DLR_HAZ_LOC (R379): byte address, shelf offset, register number, 64 × set + entry, or 2 × lane pair + half. -/
def Loc.value : Loc → Nat
  | .spdWord _ w => 4 * w
  | .shelfGran _ g => 32 * g
  | .sreg _ r | .vreg _ r | .pred _ r => r
  | .acc _ e => e
  | .hold _ p h => 2 * p + h

/-- The key of a location in `Table.undrained`. A shelf granule is the table's, whichever core accesses it. -/
def Loc.key (l : Loc) : Nat :=
  let k := if l.cls = 1 then 0 else l.core
  (l.cls * 4096 + k) * 2 ^ 28 + l.value

/-- One failed check: its kind, the offending operation's slot, word and issue count, the location, and the issue count of
the write involved. -/
structure Hazard where
  kind : Nat
  slot : Nat
  loc  : Loc
  pc   : BitVec 17
  tcc  : Word
  ptcc : Word
  deriving DecidableEq, Repr

/-- A hazard recorded in the DLR_HAZ registers of table `t`. Until the table traps, at the end of the cycle, a hazard of a
lower logical core, or of the same core and an earlier check, takes the place of the recorded one (R377). -/
def State.hazard (s : State) (t : Nat) (z : Hazard) : State :=
  let lc := s.logCore t (z.loc.core % 34)
  let old := s.csrAt (dlrReg t 0xC0)
  let sooner := decide (lc < field old 15 10) || (lc == field old 15 10 && decide (z.kind < field old 2 0))
  if (s.table t).run ≠ 1 ∨ (old.getLsbD 31 ∧ ¬ sooner) then s else
  (s.setCsrs (dlrReg t 0xC0)
    [BitVec.ofNat 32 (z.kind + z.slot <<< 3 + z.loc.cls <<< 6 + lc <<< 10 + 1 <<< 31), BitVec.ofNat 32 z.loc.value,
     z.pc.zeroExtend 32, z.tcc, z.ptcc]).mark (dlrReg t 0xC0) 0x80000000

/-- The first pending write of location `l`. -/
def Table.pendingWrite (b : Table) (l : Loc) : Option Pend := b.pend.find? (fun p => p.locs.any (fun x => x.key == l.key))

/-- Reads of tracked locations by an operation of `slot` (R376): check 2, and DRAINED set. -/
def State.noteReads (s : State) (t slot : Nat) (pc : BitVec 17) (ls : List Loc) : State :=
  if ¬ s.recs.debug then s else
  ls.foldl (fun acc l =>
    let b := acc.table t
    let drained := (SMap.get none b.undrained l.key).isNone
    let acc := match b.pendingWrite l with
      | some p => if drained then acc.hazard t ⟨2, slot, l, pc, b.tcc.truncate 32, p.tcc⟩ else acc
      | none => acc
    acc.modTable t (fun b => { b with undrained := SMap.set none b.undrained l.key none })) s

/-- Reads of accumulator entries by M-slot operations: they observe every earlier M-slot update (R51), so that none of them is early.
Where the operation rewrites the entries, its own update takes the place of those still pending. DEDUCED (assumption 20). -/
def State.noteMReads (s : State) (t : Nat) (rewrites : Bool) (ls : List Loc) : State :=
  if ¬ s.recs.debug then s else
  s.modTable t (fun b => { b with
    undrained := ls.foldl (fun m l => SMap.set none m l.key none) b.undrained
    pend := if rewrites then b.pend.map (fun p => { p with locs := p.locs.filter (fun x => !ls.any (fun l => l.key == x.key)) }) else b.pend })

/-- A write becoming visible (R376): check 3, and DRAINED cleared. -/
def State.noteVisible (s : State) (t : Nat) (p : Pend) : State :=
  if ¬ s.recs.debug then s else
  let s := p.drains.foldl (fun acc l =>
    acc.modTable t (fun b => { b with undrained := SMap.set none b.undrained l.key none })) s
  p.locs.foldl (fun acc l =>
    let acc := match SMap.get none (acc.table t).undrained l.key with
      | some w => acc.hazard t ⟨3, p.slot, l, p.pc, p.tcc, w⟩
      | none => acc
    acc.modTable t (fun b => { b with undrained := SMap.set none b.undrained l.key (some p.tcc) })) s

/-- A failed check 1: a read of `slot` and a scheduled write touch one bank in one cycle (R376). -/
def State.noteConflict (s : State) (t slot : Nat) (pc : BitVec 17) (k addr : Nat) (w : Pend) : State :=
  if ¬ s.recs.debug then s else
  s.hazard t ⟨1, slot, .spdWord k (addr / 4), pc, (s.table t).tcc.truncate 32, w.tcc⟩

end Sys2Proof.Machine
end

