-- ==== Sys2Proof/Machine/Scratch.lean ====
section
/-!
DEFINITION. Scratchpad and shelf (chapter 06): banks, output registers, windows, error correction, the check of queue
areas, and the fault registers.
-/
namespace Sys2Proof.Machine

/-- A scratchpad address, modulo 2^19 (R121, R143). -/
def spdAddr (a : Nat) : Nat := a % 0x80000

/-- The consecutive byte addresses of an access, each modulo 2^19 (R143). -/
def spdSpan (a n : Nat) : List Nat := (List.range n).map (fun i => spdAddr (a + i))

/-- Bank of a byte address (R139). -/
def bankOf (a : Nat) : Nat := a / 0x8000

/-- The banks that addresses span, as a bit mask. -/
def banksOf (as : List Nat) : BitVec 16 := as.foldl (fun m a => m ||| (1 <<< bankOf a)) 0

/-- SPD_BOUND in bytes (R153). -/
def State.spdBound (s : State) (t : Nat) : Nat := field (s.csrAt (spdReg t 4)) 19 12 * 4096

/-! ### Queue areas (R217, R222) -/

/-- CORE_QCFGq_A, CORE_QCFGq_B, CORE_QSTATq and CORE_QPTRq of a core (R224). -/
def qcfgA (k q : Nat) : Nat := coreReg k (0x600 + 0x10 * q)
def qcfgB (k q : Nat) : Nat := coreReg k (0x604 + 0x10 * q)
def qstat (k q : Nat) : Nat := coreReg k (0x608 + 0x10 * q)
def qptr (k q : Nat) : Nat := coreReg k (0x60C + 0x10 * q)

/-- What a core's queue is: source, direction, entry size, entries, base, DMA channel, counter. -/
structure QCfg where
  src   : Nat
  out   : Bool
  esize : Nat
  nent  : Nat
  base  : Nat
  dch   : Nat
  ctr   : Option Nat
  deriving DecidableEq, Repr

/-- The configuration of queue `q` of core `k` (R224). -/
def State.qcfg (s : State) (k q : Nat) : QCfg :=
  let a := s.csrAt (qcfgA k q)
  { src := field a 1 0, out := a.getLsbD 2, esize := 64 * 2 ^ field a 6 3, nent := field a 12 7 + 1,
    base := 64 * field (s.csrAt (qcfgB k q)) 12 0, dch := field a 19 13,
    ctr := if a.getLsbD 28 then some (field a 27 20) else none }

/-- Entry `e` is in state HELD: HELD entries lie in ring order from OLDH. -/
def State.entryHeld (s : State) (k q e : Nat) : Bool :=
  let n := (s.qcfg k q).nent
  decide ((e + n - field (s.csrAt (qptr k q)) 11 6 % n) % n < field (s.csrAt (qstat k q)) 27 21)

/-- The queue whose area holds address `a`, with the entry. -/
def State.queueAt (s : State) (k a : Nat) : Option (Nat × Nat) :=
  (List.range 16).findSome? (fun q =>
    let c := s.qcfg k q
    if c.src ≠ 0 ∧ c.base ≤ a ∧ a < c.base + c.nent * c.esize then some (q, (a - c.base) / c.esize) else none)

/-- The first address of an access that touches an entry not HELD, with its queue (R222). -/
def State.misuseOf (s : State) (k : Nat) (as : List Nat) : Option (Nat × Nat) :=
  as.findSome? (fun a => match s.queueAt k a with
    | some (q, e) => if s.entryHeld k q e then none else some (q, a)
    | none => none)

/-! ### Faults (R154, R155, R222) -/

/-- A fault of an access in one core. -/
inductive AccFault where
  | bound (lcore addr : Nat)
  | shelfBound (lcore off : Nat)
  | ue (lcore addr : Nat)
  | shelfUe (lcore off : Nat)
  | misuse (lcore q addr cause : Nat)
  deriving DecidableEq, Repr

/-- The class under which an operation raises a fault once. -/
def AccFault.kind : AccFault → Nat
  | .bound .. => 0 | .shelfBound .. => 1 | .ue .. => 2 | .shelfUe .. => 3 | .misuse .. => 4

/-- A fault register written unless it already holds a fault (R156). -/
def State.recordFault (s : State) (a : Nat) (v : Word) : State :=
  if (s.csrAt a).getLsbD 31 then s else (s.setCsr a (v ||| 0x80000000)).mark a 0x80000000

/-- One fault recorded, its event raised and the job aborted. `streamer` marks a weight-streamer read (R362). -/
def State.accFault (s : State) (t : Nat) (streamer : Bool) (f : AccFault) : State :=
  match f with
  | .bound lc a =>
    let v := BitVec.ofNat 32 (a + lc <<< 19 + 1 <<< 25)
    (s.recordFault (spdReg t 8) v).faultTable t 0x2201 ((v ||| 0x80000000).toNat + (b2n streamer) <<< 32)
  | .ue lc a =>
    let v := BitVec.ofNat 32 (alignDown 2 a + lc <<< 19 + 2 <<< 25)
    (s.recordFault (spdReg t 8) v).faultTable t 0x2203 ((v ||| 0x80000000).toNat + (b2n streamer) <<< 32)
  | .shelfBound lc o =>
    let v := BitVec.ofNat 32 (lc + 1 <<< 6)
    let s := if (s.csrAt (shfReg t 8)).getLsbD 31 then s else s.setCsr (shfReg t 0xC) (BitVec.ofNat 32 o)
    (s.recordFault (shfReg t 8) v).faultTable t 0x2202 ((v ||| 0x80000000).toNat + (o % 2 ^ 32) <<< 32)
  | .shelfUe lc o =>
    let v := BitVec.ofNat 32 (lc + 2 <<< 6)
    let s := if (s.csrAt (shfReg t 8)).getLsbD 31 then s else s.setCsr (shfReg t 0xC) (BitVec.ofNat 32 o)
    (s.recordFault (shfReg t 8) v).faultTable t 0x2204 ((v ||| 0x80000000).toNat + (o % 2 ^ 32) <<< 32)
  | .misuse lc q a cause =>
    let v := BitVec.ofNat 32 (q + lc <<< 4 + cause <<< 10)
    let s := if (s.csrAt (tblReg t 0x500)).getLsbD 31 then s else s.setCsr (tblReg t 0x504) (BitVec.ofNat 32 a)
    (s.recordFault (tblReg t 0x500) v).faultTable t 0x2401 ((v ||| 0x80000000).toNat + (a % 2 ^ 32) <<< 32)

/-- The faults of one operation over its cores in rising logical order: each kind is recorded and raised once, for the
lowest core (R154, R156). -/
def State.accFaults (s : State) (t : Nat) (streamer : Bool) (fs : List AccFault) : State :=
  [0, 1, 2, 3, 4].foldl (fun acc k => match fs.find? (fun f => f.kind == k) with
    | some f => acc.accFault t streamer f
    | none => acc) s

/-! ### Reading the scratchpad (R146, R147, R155) -/

/-- What a read of one core delivers: its bytes, the core with its output registers, and the errors met. -/
structure Fetch where
  bytes : List Byte
  core  : Core
  ue    : Option Nat
  ce    : Nat
  deriving DecidableEq, Repr

/-- The banks of core `k` that a scheduled write touches in the current cycle of table `t`: its data is visible in the
next cycle. -/
def State.writeBanks (s : State) (t k : Nat) : BitVec 16 :=
  let c := s.cyc t
  (s.table t).pend.foldl (fun m p => match p.eff with
    | .spdWrite ws => if p.due = c + 1 then ws.foldl (fun m w => if w.core = k then m ||| w.banks else m) m else m
    | _ => m) 0

/-- Word `w` (its word number) of a scratchpad. -/
def Core.word (c : Core) (w : Nat) : Word := BitVec.ofNat 32 (leNat (SMap.bytes c.spd (4 * w) 4))

/-- The index of the output-register word of a port for word number `w` (R147). -/
def outRegIx (port w : Nat) : Nat := 512 * port + 32 * (w / 0x2000) + w % 32

/-- A core after a read in cycle `cyc`: the banks touched. -/
def Core.touch (c : Core) (cyc : Nat) (banks : BitVec 16) : Core :=
  if c.touchCyc = cyc then { c with touched := c.touched ||| banks }
  else { c with touchCyc := cyc, touched := banks }

/-- The words of `as` read through `port`: a word in a bank that a scheduled write touches is taken from the output
register, a word with an uncorrectable error reads zero, and every word served is kept in the output register. -/
def fetch (c : Core) (cyc port : Nat) (busy : BitVec 16) (as : List Nat) : Fetch :=
  let conflicted (w : Nat) : Bool := busy.getLsbD (w / 0x2000)
  let val (w : Nat) : Word :=
    if conflicted w then SMap.get 0 c.outReg (outRegIx port w)
    else if SMap.get none c.spdErr w = some true then 0 else c.word w
  let ws := (as.map (· / 4)).eraseDups
  let served := ws.filter (fun w => !conflicted w)
  { bytes := as.map (fun a => BitVec.ofNat 8 ((val (a / 4)).toNat >>> (8 * (a % 4))))
    core := { c with outReg := served.foldl (fun m w => SMap.set 0 m (outRegIx port w) (val w)) c.outReg }.touch cyc
      (banksOf as)
    ue := (served.find? (fun w => SMap.get none c.spdErr w == some true)).map (4 * ·)
    ce := (served.filter (fun w => SMap.get none c.spdErr w == some false)).length }

/-- Corrected errors counted in SPD_CECNT or SHF_CECNT (R155). -/
def State.countCe (s : State) (a n : Nat) : State := if n = 0 then s else s.countUp a n

/-- The pending write that touches a bank of `banks` of core `k` in the current cycle. -/
def State.conflicting (s : State) (t k : Nat) (a : Nat) : Option Pend :=
  let c := s.cyc t
  (s.table t).pend.find? (fun p => match p.eff with
    | .spdWrite ws => decide (p.due = c + 1) && ws.any (fun w => decide (w.core = k) && w.banks.getLsbD (bankOf a))
    | _ => false)

/-- The tracked scratchpad words of an access: those of the task's window outside queue areas (R376). -/
def State.trackedWords (s : State) (t k : Nat) (as : List Nat) : List Loc :=
  if ¬ s.recs.debug then [] else
  ((as.filter (fun a => decide (a < s.spdBound t) && (s.queueAt k a).isNone)).map (· / 4)).eraseDups.map (.spdWord k ·)

/-- What the detector sees of a scratchpad read. -/
def State.noteSpdRead (s : State) (t slot : Nat) (pc : BitVec 17) (k : Nat) (as : List Nat) : State :=
  if ¬ s.recs.debug then s else
  let s := match as.findSome? (fun a => (s.conflicting t k a).map (fun p => (a, p))) with
    | some (a, p) => s.noteConflict t slot pc k a p
    | none => s
  s.noteReads t slot pc (s.trackedWords t k as)

/-- A read without checks: by the operations whose addresses have been checked, and by SEND payload and DMA source
reads. -/
def State.spdFetch (s : State) (t slot : Nat) (pc : BitVec 17) (lc k port : Nat) (as : List Nat) :
    List Byte × State × List AccFault :=
  let r := fetch (s.core k) (s.cyc t) port (s.writeBanks t k) as
  let s := ((s.noteSpdRead t slot pc k as).modCore k (fun _ => r.core)).countCe (spdReg t 0xC) r.ce
  (r.bytes, s, r.ue.toList.map (.ue lc ·))

/-- The check of an access against the task's window (R154). -/
def State.boundFault (s : State) (t lc : Nat) (as : List Nat) : Option AccFault :=
  (as.find? (fun a => decide (s.spdBound t ≤ a))).map (.bound lc)

/-- The check of an access against the queue areas (R222). -/
def State.misuseFault (s : State) (lc k : Nat) (as : List Nat) : Option AccFault :=
  (s.misuseOf k as).map (fun m => .misuse lc m.1 m.2 1)

/-- The check of an access of a task against its window and its queue areas (R154, R222). -/
def State.accessFault (s : State) (t lc k : Nat) (as : List Nat) : Option AccFault :=
  (s.boundFault t lc as).or (s.misuseFault lc k as)

/-- A read of one access of core `k` (logical `lc`) under the window and queue checks: zeros for the whole access where
they fail (R154, R222). -/
def State.spdRead (s : State) (t slot : Nat) (pc : BitVec 17) (lc k port : Nat) (as : List Nat) :
    List Byte × State × List AccFault :=
  match s.accessFault t lc k as with
  | some f => (as.map (fun _ => 0), s, [f])
  | none => s.spdFetch t slot pc lc k port as

/-! ### Writing the scratchpad (R146, R155) -/

/-- One byte of `c` written under a bit mask. -/
def Core.putBits (c : Core) (a : Nat) (m v : Byte) : Core :=
  { c with spd := SMap.set 0 c.spd a ((SMap.get 0 c.spd a &&& ~~~m) ||| (v &&& m)) }

/-- A word write: `bs` are the bytes of one word with their masks. A write of the whole word clears an error; a merge is
corrected and counted, or is impossible and changes nothing (R155). -/
def Core.putWord (c : Core) (w : Nat) (bs : List (Nat × Byte × Byte)) : Core × Option Nat × Nat :=
  let maskAt (a : Nat) : Byte := bs.foldl (fun m b => if b.1 = a then m ||| b.2.1 else m) 0
  let whole := (List.range 4).all (fun i => maskAt (4 * w + i) == 0xFF)
  let c' := bs.foldl (fun c b => c.putBits b.1 b.2.1 b.2.2) { c with spdErr := SMap.set none c.spdErr w none }
  match SMap.get none c.spdErr w with
  | none => (c', none, 0)
  | some uncorrectable =>
    if whole then (c', none, 0) else if uncorrectable then (c, some (4 * w), 0) else (c', none, 1)

/-- The bytes of a write performed word by word; a byte of which no bit is written is left out. -/
def Core.putAll (c : Core) (bs : List (Nat × Byte × Byte)) : Core × Option Nat × Nat :=
  let bs := bs.filter (fun b => b.2.1 != 0)
  let ws := (bs.map (·.1 / 4)).eraseDups
  ws.foldl (fun acc w =>
    let r := acc.1.putWord w (bs.filter (fun b => b.1 / 4 == w))
    (r.1, acc.2.1.or r.2.1, acc.2.2 + r.2.2)) (c, none, 0)

/-- The check of a store in the cycle in which it touches its banks (R154, R222). -/
def State.touchFault (s : State) (t : Nat) (w : SpdWrite) : Option AccFault :=
  s.accessFault t w.lcore w.core (w.bits.map (·.1))

/-- The data of scheduled writes performed in the cores. -/
def State.spdWrites (s : State) (t : Nat) (ws : List SpdWrite) : State :=
  let r := ws.foldl (fun (acc : State × List AccFault) w =>
    let p := (acc.1.core w.core).putAll w.bits
    ((acc.1.modCore w.core (fun _ => p.1)).countCe (spdReg t 0xC) p.2.2, acc.2 ++ p.2.1.toList.map (.ue w.lcore ·)))
    (s, [])
  r.1.accFaults t false r.2

/-! ### The shelf (R149 to R155) -/

/-- Base of table `t`'s share in `mem.shelf`. -/
def shareBase (t : Nat) : Nat := 0x0F000000 * t

/-- SHF_BASE and SHF_BOUND in bytes. -/
def State.shfBase (s : State) (t : Nat) : Nat := field (s.csrAt (shfReg t 0)) 27 12 * 4096
def State.shfBound (s : State) (t : Nat) : Nat := field (s.csrAt (shfReg t 4)) 27 12 * 4096

/-- The 8 B units that `n` bytes at shelf address `a` touch. -/
def units8 (a n : Nat) : List Nat := ((List.range n).map (fun i => (a + i) / 8)).eraseDups

/-- Bytes read from the shelf memory, zero where a unit has an uncorrectable error, with the first such unit and the
corrected errors. -/
def MemSys.shelfRead (m : MemSys) (a n : Nat) : List Byte × Option Nat × Nat :=
  let us := units8 a n
  ((List.range n).map (fun i =>
      if SMap.get none m.shelfErr ((a + i) / 8) = some true then 0 else SMap.get 0 m.shelf (a + i)),
   (us.find? (fun u => SMap.get none m.shelfErr u == some true)).map (8 * ·),
   (us.filter (fun u => SMap.get none m.shelfErr u == some false)).length)

/-- Bytes written to one 8 B unit of the shelf. -/
def MemSys.shelfPut (m : MemSys) (u : Nat) (bs : List (Nat × Byte)) : MemSys × Option Nat × Nat :=
  let whole := (List.range 8).all (fun i => bs.any (fun b => b.1 == 8 * u + i))
  let m' := { m with shelf := SMap.setAll 0 m.shelf bs, shelfErr := SMap.set none m.shelfErr u none }
  match SMap.get none m.shelfErr u with
  | none => (m', none, 0)
  | some uncorrectable =>
    if whole then (m', none, 0) else if uncorrectable then (m, some (8 * u), 0) else (m', none, 1)

/-- Bytes written to the shelf from address `a` on. -/
def MemSys.shelfWrite (m : MemSys) (a : Nat) (bs : List Byte) : MemSys × Option Nat × Nat :=
  let cells := bs.zipIdx.map (fun b => (a + b.2, b.1))
  (units8 a bs.length).foldl (fun acc u =>
    let r := acc.1.shelfPut u (cells.filter (fun c => c.1 / 8 == u))
    (r.1, acc.2.1.or r.2.1, acc.2.2 + r.2.2)) (m, none, 0)

/-- The shelf writes of SHSTs: each is (logical core, task-relative offset, bytes). -/
def State.shelfWrites (s : State) (t : Nat) (ws : List (Nat × Nat × List Byte)) : State :=
  let b := shareBase t + s.shfBase t
  let r := ws.foldl (fun (acc : State × List AccFault) w =>
    let p := acc.1.mem.shelfWrite (b + w.2.1) w.2.2
    (({ acc.1 with mem := p.1 }).countCe (shfReg t 0x10) p.2.2,
      acc.2 ++ p.2.1.toList.map (fun u => .shelfUe w.1 (u - b)))) (s, [])
  r.1.accFaults t false r.2

end Sys2Proof.Machine
end

