-- ==== Sys2Proof/Machine/Effects.lean ====
section
/-!
DEFINITION. What an issued operation does once its contract latency has elapsed (R28, R113, R115): each pending effect
applied to its core or table, and counters, queue states and trackers behind them.
-/
namespace Sys2Proof.Machine

/-! ### Sync counters (R158 to R163) -/

/-- The largest value of a counter (R163). -/
def ctrMax : Nat := 0xFFFFFF

/-- Table counter `n`. -/
def State.counter (s : State) (t n : Nat) : Nat := (SMap.get 0 (s.table t).ctr n).toNat

/-- The state with table counter `n` at `v`. -/
def State.setCounter (s : State) (t n v : Nat) : State :=
  s.modTable t (fun b => { b with ctr := SMap.set 0 b.ctr n (BitVec.ofNat 24 v) })

/-- SYN_FAULT written unless it holds a fault (R163, R167). -/
def State.synFault (s : State) (t n : Nat) (host : Bool) (cause : Nat) : State :=
  s.recordFault (synReg t 0x840) (BitVec.ofNat 32 (n + b2n host <<< 8 + cause <<< 9))

/-- A signal of amount `a` to table counter `n` (R161). One that would take it past 2^24 - 1 leaves it there, raises
SYN_OVF and aborts the job (R163). -/
def State.addCounter (s : State) (t n a : Nat) : State :=
  let v := s.counter t n + a
  if v ≤ ctrMax then s.setCounter t n v
  else ((s.setCounter t n ctrMax).synFault t n false 1).faultTable t 0x1101 n

/-- Host counter `n` of job `j` (R159). -/
def State.hostCounter (s : State) (j n : Nat) : Nat := (SMap.get 0 s.hctr (64 * j + n)).toNat

/-- The state with a host counter at `v`. -/
def State.setHostCounter (s : State) (j n v : Nat) : State :=
  { s with hctr := SMap.set 0 s.hctr (64 * j + n) (BitVec.ofNat 24 v) }

/-- The writes to host memory of job `j` that have been issued and have not gone out. -/
def State.hostWrites (s : State) (j : Nat) : List Granule :=
  s.mem.granules.filter (fun g => match g.dst with
    | .host k _ _ => k == j
    | _ => false)

/-- The host slot of an outbound counter waits for a write of its value, behind the host-memory writes issued so far. Changes
not yet written are merged (R173, R276). -/
def State.markSlot (s : State) (j n : Nat) : State :=
  let ws := s.hostWrites j
  s.modJob j (fun b => { b with slotDirty := b.slotDirty.filter (fun x => x.1 != n) ++ [(n, ws)] })

/-- A signal of table `t` to an outbound host counter of its job (R161, R163). -/
def State.addHost (s : State) (t n a : Nat) : State :=
  match (s.table t).job with
  | none => s
  | some j =>
    let v := s.hostCounter j n + a
    if v ≤ ctrMax then (s.setHostCounter j n v).markSlot j n
    else (((s.setHostCounter j n ctrMax).markSlot j n).synFault t n true 1).faultTable t 0x1101 (n + 1 <<< 8)

/-! ### Decoupling queues (R218 to R220) -/

/-- The entry counts and ring positions of a core's queue (R224). -/
structure QState where
  free : Nat
  pend : Nat
  full : Nat
  held : Nat
  next : Nat
  old  : Nat
  deriving DecidableEq, Repr

/-- CORE_QSTATq and CORE_QPTRq of core `k`. -/
def State.qst (s : State) (k q : Nat) : QState :=
  let a := s.csrAt (qstat k q)
  let p := s.csrAt (qptr k q)
  ⟨field a 6 0, field a 13 7, field a 20 14, field a 27 21, field p 5 0, field p 11 6⟩

/-- The state with CORE_QSTATq and CORE_QPTRq of core `k` at `v`. -/
def State.setQst (s : State) (k q : Nat) (v : QState) : State :=
  (s.setCsr (qstat k q) (BitVec.ofNat 32 (packBits [(7, v.free), (7, v.pend), (7, v.full), (7, v.held)]))).setCsr
    (qptr k q) (BitVec.ofNat 32 (packBits [(6, v.next), (6, v.old)]))

/-- Entries moved between states, the positions advanced around the ring. -/
def State.qmove (s : State) (k q : Nat) (free pend full held : Int) (next old : Nat) : State :=
  let v := s.qst k q
  let n := (s.qcfg k q).nent
  s.setQst k q
    { free := (v.free + free).toNat, pend := (v.pend + pend).toNat, full := (v.full + full).toNat,
      held := (v.held + held).toNat, next := (v.next + next) % n, old := (v.old + old) % n }

/-! ### Top-k trackers (R63 to R65) -/

/-- The tracker configuration of R63 as a byte: two lists, depth, descending, INT32. -/
def tkByte (two : Bool) (depth : Nat) (desc int32 : Bool) : BitVec 8 :=
  BitVec.ofNat 8 (packBits [(1, b2n two), (5, depth), (1, b2n desc), (1, b2n int32)])

def tkDepth (c : BitVec 8) : Nat := field c 5 1
def tkDesc (c : BitVec 8) : Bool := c.getLsbD 6
def tkInt (c : BitVec 8) : Bool := c.getLsbD 7

/-- What an empty position holds. -/
def tkEmpty (c : BitVec 8) : Word × Word :=
  let worst : Word := match tkInt c, tkDesc c with
    | false, false => 0x7F800000 | false, true => 0xFF800000 | true, false => 0x7FFFFFFF | true, true => 0x80000000
  (worst, 0xFFFFFFFF)

/-- Score `a` comes strictly before score `b` in the configured order. -/
def tkBefore (c : BitVec 8) (a b : Word) : Bool :=
  let (x, y) := if tkDesc c then (b, a) else (a, b)
  if tkInt c then decide (x.toInt < y.toInt) else (f32Val x).lt (f32Val y)

/-- Candidate `a` precedes candidate `b` (R64): by score, then by lower index. -/
def tkPrecedes (c : BitVec 8) (a b : Word × Word) : Bool :=
  tkBefore c a.1 b.1 || (!tkBefore c b.1 a.1 && decide (a.2.toNat < b.2.toNat))

/-- The list with candidate `x` placed before the first held candidate that it precedes. -/
def tkPlace (c : BitVec 8) (x : Word × Word) (l : List (Word × Word)) : List (Word × Word) :=
  match l with
  | [] => [x]
  | y :: rest => if tkPrecedes c x y then x :: y :: rest else y :: tkPlace c x rest

/-- A list after the offer of a candidate (R64). `l` lists the candidates held; the positions after them are empty. -/
def tkOffer (c : BitVec 8) (l : List (Word × Word)) (x : Word × Word) : List (Word × Word) :=
  let last := (l.drop (tkDepth c - 1)).headD (tkEmpty c)
  let equal (y : Word × Word) : Bool := !tkPrecedes c x y && !tkPrecedes c y x
  if tkDepth c = 0 || (!tkInt c && isNan32 x.1) || l.any equal || !tkPrecedes c x last then l
  else (tkPlace c x l).take (tkDepth c)

/-- Offers to the lanes of a core, applied to list `list`. The trackers are keyed 2 × lane + list. A list that the
configuration does not give holds nothing (assumption 24). -/
def Core.offer (c : Core) (list : Nat) (cands : List (Nat × Word)) (idx : Word) : Core :=
  if list = 1 ∧ ¬ c.tkCfg.getLsbD 0 then c else
  { c with tk := cands.foldl (fun m x => SMap.modify [] m (2 * x.1 + list) (fun l => tkOffer c.tkCfg l (x.2, idx))) c.tk }

/-! ### Accumulator flags (R91, R92) -/

/-- Offset of the pair of flag `f` of set `n` in the accumulator block; flags 0 OVF, 1 LOSS, 2 NAN, 3 PINF, 4 NINF. -/
def accFlagOff (n f : Nat) : Nat := 0x100 + 0x40 * n + 8 * f

/-- The flags of lane `l` of set `n` of core `k`, as the slots other than M see them. -/
def State.accFlags (s : State) (k n l : Nat) : BitVec 5 :=
  BitVec.ofNat 5 (packBits ((List.range 5).map (fun f =>
    (1, b2n ((s.csrAt (accReg k (accFlagOff n f + 4 * (l / 32)))).getLsbD (l % 32))))))

/-- Flags set for lanes of a core: keys are 64 × set + lane. The summary follows (R92). -/
def State.setAccFlags (s : State) (k : Nat) (fs : List (Nat × BitVec 5)) : State :=
  fs.foldl (fun acc x =>
    let n := x.1 / 64
    let l := x.1 % 64
    let acc := (bitsOf 5 x.2.toNat).foldl (fun acc f =>
      acc.setFlags (accReg k (accFlagOff n f + 4 * (l / 32))) (1 <<< (l % 32))) acc
    acc.modCsr (accReg k 0) (fun v => v ||| x.2.zeroExtend 32)) s

/-- The flags of lane `l` of set `n` as M-slot operations see them (R51): those already visible and those set by M-slot
operations still in flight, from the last MSETW of the set on. -/
def State.accFlagsM (s : State) (t k n l : Nat) : BitVec 5 :=
  (s.table t).pend.foldl (fun v p => match p.eff with
    | .accClear k' n' _ => if k' = k ∧ n' = n then 0 else v
    | .accFlags k' fs => if k' = k then (fs.filter (fun x => x.1 == 64 * n + l)).foldl (fun v x => v ||| x.2) v else v
    | _ => v) (s.accFlags k n l)

/-! ### Applying an effect -/

/-- A register of the core window written by a task. A write to bits 63:0 of a hold descriptor clears its state
(R46). -/
def State.taskRegWrite (s : State) (a : Nat) (v : Word) : State :=
  let off := (a - coreBase 0) % 0x40000
  let s := s.setCsr a v
  if 0x200 ≤ off ∧ off < 0x280 ∧ off % 0x20 < 8 then s.setCsr (a - off + 0x280 + 4 * ((off - 0x200) / 0x20)) 0 else s

/-- CBLOAD's data in a shadow copy, with the commit that goes with it (R76, R78). -/
def State.putCodebook (s : State) (k : Nat) (book : Bool) (q : Nat) (vals : List (BitVec 16)) (commit : Bool) : State :=
  let b := b2n book
  let s := s.modCore k (fun c =>
    let cb := SMap.setAll 0 c.codebook (vals.zipIdx.map (fun x => (256 * (2 + b) + 64 * q + x.2, x.1)))
    let cb := if commit
      then SMap.setAll 0 cb ((List.range 256).map (fun i => (256 * b + i, SMap.get 0 cb (256 * (2 + b) + i)))) else cb
    { c with codebook := cb })
  s.modCsr (coreReg k 0x404) (fun v =>
    let w := field v (4 * b + 3) (4 * b) ||| 1 <<< q
    let n := field v (8 * b + 15) (8 * b + 8)
    let keep := v.toNat - field v (4 * b + 3) (4 * b) <<< (4 * b) - n <<< (8 * b + 8)
    BitVec.ofNat 32 (keep + (if commit then 0 else w) <<< (4 * b) + ((n + b2n commit) % 256) <<< (8 * b + 8)))

/-- A pending effect applied. A store leaves its data to become visible in the cycle after it has touched its banks (R146); one that
fails its check there touches its banks all the same, and writes nothing (R154, R222). -/
def State.applyEff (s : State) (t : Nat) (p : Pend) : State :=
  match p.eff with
  | .sreg k r v => s.modCore k (fun c => if r = 0 then c else { c with sreg := SMap.set 0 c.sreg r v })
  | .pred k i v => s.modCore k (fun c => if i = 0 then c
      else { c with pred := if v then c.pred ||| BitVec.ofNat 8 (1 <<< i) else c.pred &&& ~~~(BitVec.ofNat 8 (1 <<< i)) })
  | .lanes k r vs => s.modCore k (fun c => { c with vreg := SMap.setAll 0 c.vreg (vs.map (fun x => (64 * r + x.1, x.2))) })
  | .lmask k n v => s.setCsr64 (coreReg k (0x100 + 8 * n)) v
  | .regWrite a v => s.taskRegWrite a v
  | .cvtFlags k nv ovf => if nv || ovf then s.setFlags (coreReg k 0x400) (BitVec.ofNat 32 (b2n nv + 2 * b2n ovf)) else s
  | .setBits k off v => s.modCsr (coreReg k off) (fun w => w ||| v)
  | .clearBits k off v => s.modCsr (coreReg k off) (fun w => w &&& ~~~v)
  | .accFlagReg k n f hi v =>
    let s := s.setCsr (accReg k (accFlagOff n f + 4 * hi)) v
    if v = 0 then s else s.modCsr (accReg k 0) (fun w => w ||| (1 <<< f))
  | .acc k es => s.modCore k (fun c => { c with accV := SMap.setAll 0 c.accV es })
  | .accFlags k fs => s.setAccFlags k fs
  | .accClear k n cfg =>
    let s := s.modCore k (fun c => { c with accV := c.accV.filter (fun kv => !(kv.1 / 64 % 8 == n)) })
    let s := (List.range 10).foldl (fun acc i => acc.setCsr (accReg k (accFlagOff n (i / 2) + 4 * (i % 2))) 0) s
    s.setCsr (accReg k (0x20 + 4 * n)) cfg
  | .hold k bytes scales => s.modCore k (fun c => { c with
      hold := SMap.setAll 0 c.hold bytes, scale := SMap.setAll 0x7F c.scale scales })
  | .codebook k book q vals commit => s.putCodebook k book q vals commit
  | .curve k words => s.modCore k (fun c => { c with
      curve := SMap.setAll 0 c.curve (words.filter (fun w => decide (w.1 < 0x10000)))
      curveHdr := SMap.setAll 0 c.curveHdr ((words.filter (fun w => decide (0x10000 ≤ w.1))).map (fun w => (w.1 - 0x10000, w.2))) })
  | .tkcfg k cfg => s.modCore k (fun c => { c with tkCfg := cfg, tk := [] })
  | .tkins k list cands idx => s.modCore k (fun c => c.offer list cands idx)
  | .spdTouch ws =>
    let ok := ws.map (fun w => if (s.touchFault t w).isNone then w else { w with bits := [] })
    let fs := ws.filterMap (s.touchFault t ·)
    let s := s.modTable t (fun b => { b with pend := b.pend ++ [{ p with due := p.due + 1, eff := .spdWrite ok }] })
    s.accFaults t false fs
  | .spdWrite ws => s.spdWrites t ws
  | .shelf ws => s.shelfWrites t ws
  | .counterAdd n a => s.addCounter t n a
  | .hostAdd n a => s.addHost t n a
  | .loopPending none n v => s.modTable t (fun b => { b with
      seq := { b.seq with loops := b.seq.loops.modify n (fun l => { l with pending := v }) } })
  | .loopPending (some k) n v => s.modCore k (fun c => { c with
      taper := { c.taper with loops := c.taper.loops.modify n (fun l => { l with pending := v }) } })
  | .qmove k q f p h l n o => s.qmove k q f p h l n o
  | .request k q n gs =>
    let s := { s with mem := { s.mem with granules := s.mem.granules ++ gs } }
    if n = 0 then s else s.modCore k (fun c => { c with reqs := c.reqs ++ [(q, n)] })
  | .zeroFill k as => s.modCore k (fun c => (c.putAll (as.map (fun a => (a, 0xFF, 0)))).1)

/-- A write to a flag register, which a setting of the same cycle outlives (R83, R91). -/
def Eff.flagWrite : Eff → Bool
  | .accFlagReg .. | .clearBits .. => true
  | _ => false

/-- The highest logical core of a shelf write; 0 for any other effect. -/
def Eff.shelfCore : Eff → Nat
  | .shelf ws => ws.foldl (fun m w => Nat.max m w.1) 0
  | _ => 0

/-- A pending effect placed before those whose shelf writes come from higher cores. -/
def insertShelf (p : Pend) (ps : List Pend) : List Pend :=
  match ps with
  | [] => [p]
  | q :: rest => if q.eff.shelfCore ≤ p.eff.shelfCore then q :: insertShelf p rest else p :: q :: rest

/-- The effects of table `t` that fall due in region cycle `c`, applied: writes of flag registers first, then the others
in the order of their issue, so that the later-issued of two writes of one cycle is kept (R113). Of shelf writes of one cycle, which
in Taper mode come from the cores' own SHSTs, the highest logical core's is kept (R151). DESIGN CHOICE (assumption 47): a write of a
flag register and an MSETW that become effective in one cycle leave the flag clear. -/
def State.applyDue (s : State) (t c : Nat) : State :=
  let due := (s.table t).pend.filter (fun p => decide (p.due ≤ c))
  let s := s.modTable t (fun b => { b with pend := b.pend.filter (fun p => !decide (p.due ≤ c)) })
  let rest := due.filter (!·.eff.flagWrite)
  let shelf (p : Pend) : Bool := match p.eff with | .shelf _ => true | _ => false
  (due.filter (·.eff.flagWrite) ++ rest.filter (!shelf ·) ++ (rest.filter (shelf ·)).foldl (fun l p => insertShelf p l) []).foldl (fun acc p =>
    let acc := acc.applyEff t p
    match p.eff with
    | .spdTouch _ => acc
    | _ => acc.noteVisible t p) s

/-! ### Posting effects -/

/-- A signal named by a DMA descriptor or a queue transfer: it is applied in the cycle after the last write of the transfer has
retired (R171). -/
def State.signalNext (s : State) (t n a : Nat) : State :=
  let c := s.cyc t
  s.modTable t (fun b => { b with pend := b.pend ++
    [{ due := c + 1, eff := .counterAdd n a, tcc := b.tcc.truncate 32, pc := b.seq.pc, slot := 5, locs := [], drains := [] }] })

/-- The locations that an effect writes, for the detector. -/
def State.effLocs (s : State) (t : Nat) (e : Eff) : List Loc :=
  match e with
  | .sreg k r _ => if r = 0 then [] else [.sreg k r]
  | .pred k i _ => if i = 0 then [] else [.pred k i]
  | .lanes k r _ => [.vreg k r]
  | .acc k es => ((es.map (·.1 % 512)).eraseDups).map (.acc k ·)
  | .hold k bytes scales =>
    let ps : List (Nat × Nat) := (bytes.map (fun b => (b.1 / 128 % 32, b.1 / 4096))) ++ scales.map (fun b => (b.1 / 8 % 32, b.1 / 256))
    ps.eraseDups.map (fun x => .hold k x.1 x.2)
  | .spdTouch ws => ws.flatMap (fun w => s.trackedWords t w.core (w.bits.map (·.1)))
  | .shelf ws => ws.map (fun w => .shelfGran (34 * t + (s.physCore t w.1).getD 0) (w.2.1 / 32))
  | .accClear k n _ => (List.range 64).map (fun e => .acc k (64 * n + e))
  | _ => []

/-- An M-slot update of entries leaves no earlier update of them to come after it: other slots see updates in M-slot
order (R51). DEDUCED (assumption 47): a flag that an MSETW clears before other slots have seen it set sets no bit of ACC_SUMMARY. -/
def supersede (e : Eff) (due : Nat) (p : Pend) : Pend :=
  if p.due < due then p else
  match e, p.eff with
  | .acc k es, .acc k' es' => if k = k' then { p with eff := .acc k' (es'.filter (fun x => !es.any (fun y => y.1 == x.1))) } else p
  | .accClear k n _, .acc k' es' => if k = k' then { p with eff := .acc k' (es'.filter (fun x => !(x.1 / 64 % 8 == n))) } else p
  | .accClear k n _, .accFlags k' fs => if k = k' then { p with eff := .accFlags k' (fs.filter (fun x => !(x.1 / 64 == n))) } else p
  | _, _ => p

/-- Cycles from an effect's due cycle to the contract latency: a store is visible in the cycle after its banks are
touched (R146). -/
def Eff.extra : Eff → Nat
  | .spdTouch _ => 1
  | _ => 0

/-- Effects posted by an operation of `slot` issued now in table `t`, each with its latency. `checked` is false for the
operations whose writes the detector never checks (R376). -/
def State.post (s : State) (t slot : Nat) (pc : BitVec 17) (checked : Bool) (es : List (Nat × Eff)) : State :=
  let c := s.cyc t
  s.modTable t (fun b => { b with
    pend := es.foldl (fun ps e =>
      let locs := if s.recs.debug then s.effLocs t e.2 else []
      ps.map (supersede e.2 (c + e.1)) ++
        [{ due := c + e.1, eff := e.2, tcc := b.tcc.truncate 32, pc := pc, slot := slot,
           locs := if checked then locs else [], drains := if checked then [] else locs }]) b.pend
    busyUntil := es.foldl (fun m e => Nat.max m (c + e.1 + e.2.extra)) b.busyUntil })

/-- An operation issued now keeps its table busy for `n` cycles: its contract latency (R132). -/
def State.busyFor (s : State) (t n : Nat) : State :=
  let c := s.cyc t
  s.modTable t (fun b => { b with busyUntil := Nat.max b.busyUntil (c + n) })

/-- The task is busy until the latencies of these effects have passed, whether or not a guard lets them happen (R114, R132). -/
def State.busyWith (s : State) (t : Nat) (es : List (Nat × Eff)) : State :=
  let c := s.cyc t
  s.modTable t (fun b => { b with busyUntil := es.foldl (fun m e => Nat.max m (c + e.1 + e.2.extra)) b.busyUntil })

end Sys2Proof.Machine
end

