-- ==== Sys2Proof/Machine/Stops.lean ====
section
/-!
DEFINITION. Stop causes of clock regions and when a stop takes effect (R314, R315), and the hold budget's count (R322).
-/
namespace Sys2Proof.Machine

/-- Stop causes, as bits of SNF_RGNr_CAUSE (R314). -/
def causeStep : Nat := 0
def causeHold : Nat := 1
def causeTrip : Nat := 2
def causeFull : Nat := 3
def causeFault : Nat := 4

/-- The die network region of a physical table's router (R311). -/
def dieRegion (t : Nat) : Nat := 64 + t / 8

/-- The device time at which the region's current cycle ends: core cycles in a table region, network cycles elsewhere. -/
def State.cycleEnd (s : State) (r : Nat) : Nat :=
  let m := s.multiple r
  let c := (s.region r).clock m s.now11
  let n := (s.region r).netClock m s.now11
  s.now11 + (if r < 64 then ceilDiv (660000 - c.2) m else ceilDiv (440000 - n.2) m)

/-- STEP or HOLD ticks of the budget window that holds tick `now`. -/
def Region.heldNow (g : Region) (now : Nat) : Nat :=
  let w := now / 100000
  (if g.heldWin = w then g.held.toNat else 0) + (match g.heldFrom with
    | some f => now - Nat.max f (w * 100000)
    | none => 0)

/-- The count of held ticks brought up to tick `now`, running on if `on`. -/
def Region.countHeld (g : Region) (now : Nat) (on : Bool) : Region :=
  { g with held := BitVec.ofNat 32 (g.heldNow now), heldWin := now / 100000, heldFrom := if on then some now else none }

/-- Stop cause `c` set for region `r`. Regions 72 to 81 take only FAULT (R314). -/
def State.setCause (s : State) (r c : Nat) : State :=
  if 72 ≤ r ∧ c ≠ causeFault then s else
  let g := s.region r
  let b := s.cycleEnd r
  let s := if g.stopAt.isSome then s else (s.syncRegion r).modRegion r (fun g => { g with stopAt := some b })
  s.modRegion r (fun g =>
    let g := { g with cause := g.cause ||| BitVec.ofNat 5 (1 <<< c) }
    g.countHeld s.beacon (decide (g.cause.toNat % 4 ≠ 0)))

/-- Stop cause `c` cleared. With no cause left before the stop has taken effect, the request is withdrawn (R315). -/
def State.clearCause (s : State) (r c : Nat) : State :=
  s.modRegion r (fun g =>
    let g := { g with cause := g.cause &&& ~~~(BitVec.ofNat 5 (1 <<< c)) }
    let g := g.countHeld s.beacon (decide (g.cause.toNat % 4 ≠ 0))
    if g.cause = 0 ∧ g.stopAt.any (fun b => decide (s.now11 < b)) then { g with stopAt := none } else g)

/-- Cause `c` set for region `r`. -/
def State.hasCause (s : State) (r c : Nat) : Bool := (s.region r).cause.getLsbD c

end Sys2Proof.Machine
end

