-- ==== Sys2Proof/Machine/Noc.lean ====
section
/-!
DEFINITION. The mesh: routers, routes, slots and claims, dynamic channels (R182 to R195), and the sender's side of a channel:
credit, the queue at the L input, flits and signals (R196, R198, R206, R207).
-/
namespace Sys2Proof.Machine

/-! ### Routers and routes (R182 to R184) -/

/-- Router ports, as numbered in the slot tables (R208). -/
def portN : Nat := 0
def portE : Nat := 1
def portS : Nat := 2
def portW : Nat := 3
def portL : Nat := 4
def portI : Nat := 5

/-- Row and column of the router of physical table `t` (R182). -/
def routerRow (t : Nat) : Nat := 2 * (t / 8 / 4) + t % 8 / 4
def routerCol (t : Nat) : Nat := 4 * (t / 8 % 4) + t % 8 % 4

/-- The physical table whose router stands at a row and column. -/
def routerOf (row col : Nat) : Nat := 8 * (4 * (row / 2) + col / 4) + 4 * (row % 2) + col % 4

/-- The router and the input that output `o` of router `t` leads to; none at the edge of the grid, for L and for I. -/
def neighbour (t o : Nat) : Option (Nat × Nat) :=
  let r := routerRow t
  let c := routerCol t
  if o = portN ∧ 0 < r then some (routerOf (r - 1) c, portS)
  else if o = portS ∧ r < 3 then some (routerOf (r + 1) c, portN)
  else if o = portE ∧ c < 15 then some (routerOf r (c + 1), portW)
  else if o = portW ∧ 0 < c then some (routerOf r (c - 1), portE)
  else none

/-- The link out of `t` by `o` is a bridge: it joins two compute dies (R182). -/
def isBridge (t o : Nat) : Bool := (neighbour t o).any (fun n => n.1 / 8 != t / 8)

/-- Hop latency in network cycles of the region the flit leaves (R183). -/
def hopLat (t o : Nat) : Nat := if o = portI ∨ isBridge t o then 16 else 4

/-- The output by which a flit at router `t` leaves for the table at router `dst`: along its row, then along its column,
then by L (R184). -/
def routeOut (t dst : Nat) : Nat :=
  if routerCol t < routerCol dst then portE else if routerCol dst < routerCol t then portW
  else if routerRow t < routerRow dst then portS else if routerRow dst < routerRow t then portN
  else portL

/-- The output by which a flit leaves for the IO die of row `edge` (0 north, 3 south), along its column (R292). -/
def routeOutIo (t edge : Nat) : Nat :=
  if routerRow t < edge then portS else if edge < routerRow t then portN else portI

/-- Where a flow ends: a table, or an IO die. -/
inductive FlowEnd where
  | table (t : Nat)
  | io (edge : Nat)
  deriving DecidableEq, Repr

/-- The next output of a flow at router `t`. -/
def FlowEnd.next (e : FlowEnd) (t : Nat) : Nat :=
  match e with
  | .table d => routeOut t d
  | .io edge => routeOutIo t edge

/-- The claims of a flow from router `t`, entered by input `inp` with `off` network cycles behind it: router, output, input
and offset of each output on its route (R189). A route has at most 19 outputs. -/
def flowClaims (e : FlowEnd) : Nat → Nat → Nat → Nat → List (Nat × Nat × Nat × Nat)
  | 0, _, _, _ => []
  | fuel + 1, t, inp, off =>
    let o := e.next t
    (t, o, inp, off) :: (match neighbour t o with
      | some (n, i) => flowClaims e fuel n i (off + hopLat t o)
      | none => [])

/-- Every output of the route of a flow from table `src`'s L input, or from I: a flow from an IO die crosses the link to router `src`
first (R183, R189). -/
def routeOf (src inp : Nat) (e : FlowEnd) : List (Nat × Nat × Nat × Nat) := flowClaims e 24 src inp (if inp = portI then 16 else 0)

/-- The arrival offset of a flow (R189). -/
def arrivalOffset (src inp : Nat) (e : FlowEnd) : Nat := ((routeOf src inp e).getLast?.map (·.2.2.2)).getD 0

/-! ### Rounds and slot tables (R185 to R187) -/

/-- Slots in a round. -/
def State.slots (s : State) : Nat := 96 * s.recs.rlen64

/-- The key of a slot-table entry (R208). -/
def slotKey (router o slot : Nat) : Nat := 6144 * (6 * router + o) + slot

/-- A slot-table entry. -/
def State.slotEntry (s : State) (router o slot : Nat) : BitVec 16 := SMap.get 0 s.noc.slots (slotKey router o slot)

/-- The slot number in a die network or IO die region now. -/
def State.slotNow (s : State) (r : Nat) : Nat := s.net r % s.slots

/-- The slot-table word of an entry: input, pool mark, channel and direction (R208). -/
def slotWord (inp : Nat) (pool : Bool) (chn : Nat) (rev : Bool) : BitVec 16 :=
  BitVec.ofNat 16 (packBits [(3, inp + 1), (1, b2n pool), (6, if inp = portL then chn else 0), (1, b2n (rev && inp == portL))])

/-! ### Channels -/

/-- Send channel `n` of table `t`. -/
def State.snd (s : State) (t n : Nat) : SndChan := SMap.get SndChan.reset (s.table t).snd n

/-- The state with a send channel changed. -/
def State.modSnd (s : State) (t n : Nat) (f : SndChan → SndChan) : State :=
  s.modTable t (fun b => { b with snd := SMap.modify SndChan.reset b.snd n f })

/-- Receive channel `n` of table `t`. -/
def State.rcv (s : State) (t n : Nat) : RcvChan := SMap.get RcvChan.reset (s.table t).rcv n

/-- The state with a receive channel changed. -/
def State.modRcv (s : State) (t n : Nat) (f : RcvChan → RcvChan) : State :=
  s.modTable t (fun b => { b with rcv := SMap.modify RcvChan.reset b.rcv n f })

/-- Fields of CHN_SNDn_CFG, CHN_SNDn_XADR, CHN_RCVn_RING, _SPILL and _XSRC (R208, R310). -/
def SndChan.dlt (c : SndChan) : Nat := field c.cfg 5 0
def SndChan.rchn (c : SndChan) : Nat := field c.cfg 11 6
def SndChan.ofs (c : SndChan) : Nat := field c.cfg 17 12
def SndChan.dyn (c : SndChan) : Bool := c.cfg.getLsbD 22
def SndChan.xdev (c : SndChan) : Bool := c.cfg.getLsbD 23
def SndChan.isOpen (c : SndChan) : Bool := c.cfg.getLsbD 24
def SndChan.ddev (c : SndChan) : Nat := field c.xadr 11 0
def SndChan.rdlt (c : SndChan) : Nat := field c.xadr 17 12
def RcvChan.rbase (c : RcvChan) : Nat := field c.ring 12 0
def RcvChan.rsize (c : RcvChan) : Nat := field c.ring 23 13
def RcvChan.sbase (c : RcvChan) : Nat := field c.spill 15 0
def RcvChan.ssize (c : RcvChan) : Nat := field c.spill 27 16
def RcvChan.sdev (c : RcvChan) : Nat := field c.xsrc 11 0
def RcvChan.sdlt (c : RcvChan) : Nat := field c.xsrc 17 12
def RcvChan.schn (c : RcvChan) : Nat := field c.xsrc 23 18
def RcvChan.xdev (c : RcvChan) : Bool := c.xsrc.getLsbD 24

/-- Free granules of the spill region (R202, R206). -/
def RcvChan.spillFree (c : RcvChan) : Nat :=
  64 * c.ssize - ((c.spilled.map (fun kv => (kv.2.map (·.cells.length)).sum)).sum)

/-- The IO die, by row, on which device port `q` lies: ports 0 to 7 north, 8 to 15 south. -/
def portEdge (q : Nat) : Nat := if q < 8 then 0 else 3

/-- The device port that the routing table gives for a fabric address; 0x10 local, 0x1F unreachable (R291). -/
def State.routePort (s : State) (a : Nat) : Nat := (SMap.get 0 s.routes a ^^^ 0x1F).toNat

/-- Where a channel's forward flow ends. -/
def State.sndEnd (s : State) (c : SndChan) : FlowEnd :=
  if c.xdev then .io (portEdge (s.routePort c.ddev)) else .table (s.physTable c.dlt)

/-- The send end of a receive channel of table `t` on this device: the table and its send channel. -/
def State.senderOf (s : State) (t n : Nat) : Option (Nat × Nat) :=
  s.tables.findSome? (fun kv => kv.2.snd.findSome? (fun c =>
    if c.2.isOpen ∧ ¬ c.2.xdev ∧ s.physTable c.2.dlt = t ∧ c.2.rchn = n then some (kv.1, c.1) else none))

/-- The channel of table `t` is fed by the host: its declared source is no table and no other device (R192). -/
def State.hostFed (s : State) (t n : Nat) : Bool := (s.senderOf t n).isNone && !(s.rcv t n).xdev

/-- Where a receive channel's reverse flow ends. -/
def State.rcvEnd (s : State) (t n : Nat) : FlowEnd :=
  match s.senderOf t n with
  | some (st, _) => .table st
  | none => if (s.rcv t n).xdev then .io (portEdge (s.routePort (s.rcv t n).sdev)) else .io 0

/-! ### Dynamic channels (R195) -/

/-- Pool slots of a dynamic channel for departure position `d`: every slot-table entry of its forward and reverse flows. -/
def State.poolEntries (s : State) (t n d : Nat) : List Nat :=
  let c := s.snd t n
  let p := s.physTable c.dlt
  ((routeOf t portL (.table p)) ++ (routeOf p portL (.table t))).map (fun x => slotKey x.1 x.2.1 ((d + x.2.2.2) % s.slots))

/-- The departure positions of the pool of table `t`'s job. -/
def State.poolOf (s : State) (t : Nat) : List Nat := (((s.table t).job.bind s.job).map (·.pool)).getD []

/-- The lowest index in D that no open dynamic channel of the job holds with a shared pool entry. -/
def State.freePool (s : State) (t n : Nat) : Option Nat :=
  let ds := s.poolOf t
  let ts := (((s.table t).job.bind s.job).map (·.tables)).getD []
  (List.range ds.length).find? (fun i =>
    let mine := s.poolEntries t n ((ds.drop i).headD 0)
    !(ts.any (fun u => (s.table u).snd.any (fun kv =>
      kv.2.dyn && kv.2.isOpen && kv.2.poolD.toNat == i && (s.poolEntries u kv.1 ((ds.drop i).headD 0)).any (mine.contains ·)))))

/-- A dynamic channel opened if a departure position is free; any other channel unchanged. -/
def State.tryOpen (s : State) (t n : Nat) : State :=
  let c := s.snd t n
  if ¬ c.dyn ∨ c.isOpen then s else
  match s.freePool t n with
  | some i => s.modSnd t n (fun c => { c with cfg := c.cfg ||| 0x1000000, poolD := BitVec.ofNat 6 i })
  | none => s

/-! ### Credit (R196, R200, R202) -/

/-- Granules that a record of `len` granules takes from write total `w` of a ring of `size`, pad included. -/
def ringTake (size w len : Nat) : Nat :=
  let left := size - w % size
  if len ≤ left then len else left + len

/-- The sender's credit lets a part of `f` flits for receiving core `r` go: to the ring (`false`) or to the spill region
(`true`). -/
def SndChan.place (c : SndChan) (size r f : Nat) : Option Bool :=
  let w := SMap.get 0 c.writePos r
  let rd := SMap.get 0 c.readPos r
  if SMap.get 0 c.spilling r = 0 ∧ w + ringTake size w (1 + f) - rd ≤ size then some false
  else if 1 + f ≤ c.spillFree then some true
  else none

/-- Ring size of a channel's receiving end. The specification does not say how the sender of a cross-device channel
learns it: a free value (assumption 21). -/
def State.ringSize (s : State) (c : SndChan) : Nat :=
  if c.xdev then Config.remoteRingSize c.ddev c.rdlt c.rchn else (s.rcv (s.physTable c.dlt) c.rchn).rsize

/-- The sender after sending a record of `f` flits for core `r` to the ring or the spill region. -/
def SndChan.take (c : SndChan) (size r f : Nat) (spill : Bool) : SndChan :=
  let w := SMap.get 0 c.writePos r
  { c with
    writePos := SMap.set 0 c.writePos r (w + ringTake size w (1 + f))
    spilling := if spill then SMap.modify 0 c.spilling r (· + 1) else c.spilling
    spillFree := if spill then c.spillFree - (1 + f) else c.spillFree }

/-- Credit for every part of a message, taken in rising core order: for each part whether it goes to the spill region;
none while some part has no credit. -/
def SndChan.credit (c : SndChan) (size f : Nat) (rs : List Nat) : Option (List Bool × SndChan) :=
  match rs with
  | [] => some ([], c)
  | r :: rest =>
    match c.place size r f with
    | none => none
    | some sp => (SndChan.credit (c.take size r f sp) size f rest).map (fun x => (sp :: x.1, x.2))

/-- The room a core's send buffer of 32 flits has left (R196). -/
def Core.sendRoom (c : Core) : Nat := 32 - c.sendBuf

/-! ### Tags (R198) -/

/-- Tag of flit `i` of a part. -/
def partTag (dpt rchn seq dcore hidx : Nat) (unit : Bool) (parts f i : Nat) (spill : Bool) : BitVec 64 :=
  BitVec.ofNat 64 (packBits [(2, if i = 0 then 0 else 3), (6, dpt), (6, rchn), (21, seq), (6, dcore), (6, hidx),
    (1, b2n unit), (6, parts), (4, f - 1), (4, i), (1, b2n spill)])

/-- Tag of a channel signal. -/
def signalTag (dpt rchn seq ctr amt : Nat) : BitVec 64 :=
  BitVec.ofNat 64 (packBits [(2, 1), (6, dpt), (6, rchn), (21, seq), (8, ctr), (8, amt)])

/-- Tag of a credit flit. -/
def creditTag (dpt schn free : Nat) : BitVec 64 := BitVec.ofNat 64 (packBits [(2, 2), (6, dpt), (6, schn), (21, free)])

/-- DPT of a channel's flits: the physical table, or the remote device logical table (R288, R292). -/
def State.dptOf (s : State) (c : SndChan) : Nat := if c.xdev then c.rdlt else s.physTable c.dlt

/-- Kind of a flit: 0 part header, 1 signal, 2 credit, 3 part data (R198). -/
def Flit.kind (f : Flit) : Nat := field f.tag 1 0
def Flit.dpt (f : Flit) : Nat := field f.tag 7 2
def Flit.rchn (f : Flit) : Nat := field f.tag 13 8
def Flit.seq (f : Flit) : Nat := field f.tag 34 14

/-! ### Clock regions of the network (R311) -/

/-- The region of the IO die of row `edge`. -/
def ioRegion (edge : Nat) : Nat := if edge = 0 then 80 else 81

/-- Key of the link into input `i` of router `r`; input 6 is the I input of the IO die in the router's column. -/
def linkKey (r i : Nat) : Nat := 8 * r + i

/-- Key of the queue for output `o` at input `i` of router `r`. -/
def queueKey (r i o : Nat) : Nat := 64 * r + 8 * i + o

/-- Input `i` of router `r` receives from another clock region: a bridge or an IO die (R191). -/
def isCrossing (r i : Nat) : Bool := i == portI || isBridge r i

/-- The output by which a flit at router `t` leaves (R184, R292). -/
def State.flitOut (t : Nat) (f : Flit) : Nat :=
  match f.edge with
  | some e => routeOutIo t e
  | none => routeOut t f.dpt

/-! ### Room (R191) -/

/-- Flits at input `i` of router `r`, with those on its link. -/
def State.inputUse (s : State) (r i : Nat) : Nat :=
  ((List.range 6).map (fun o => (SMap.get [] s.noc.queues (queueKey r i o)).length)).sum +
    (SMap.get [] s.noc.links (linkKey r i)).length

/-- Flits at input `i` of router `r` for output `o`, with those on its link. -/
def State.queueUse (s : State) (r i o : Nat) : Nat :=
  (SMap.get [] s.noc.queues (queueKey r i o)).length +
    ((SMap.get [] s.noc.links (linkKey r i)).filter (fun f => State.flitOut r f == o)).length

/-- Flits in the crossing buffer of the L output of table `t`: those of parts that are not whole yet, and those still to be
written to rings; record headers and pad records are no flits. -/
def State.landingUse (s : State) (t : Nat) : Nat :=
  (s.table t).landing.length + ((s.tableCores t).map (fun x => ((s.core x.2).fills.map (fun f => match f.src with
    | .ring _ => ceilDiv f.data.length 64
    | _ => 0)).sum)).sum

/-- Flits of the column of router `r` that wait in its IO die for a port, with those on the link. -/
def State.ioUse (s : State) (r : Nat) : Nat :=
  (SMap.get [] s.noc.links (linkKey r 6)).length +
    (s.ports.map (fun p => (p.2.outQ.filter (fun c => decide (c.1 < 0x4000) && routerCol (c.1 / 128) == routerCol r &&
      portEdge p.1 == routerRow r)).length)).sum

/-- Output `o` of router `r` sends into a full buffer: a crossing buffer that stops the region, if the second part holds. -/
def State.outputFull (s : State) (r o : Nat) (f : Option Flit) : Bool × Bool :=
  if o = portL then (decide (256 ≤ s.landingUse r), true)
  else if o = portI then (decide (6160 ≤ s.ioUse r), true)
  else match neighbour r o with
    | none => (false, false)
    | some (n, i) =>
      if isBridge r o then (decide (6160 ≤ s.inputUse n i), true)
      else (f.any (fun f => decide (16 ≤ s.queueUse n i (State.flitOut n f))), false)

/-- The compute dies whose crossing buffers die network region `d` sends into and that are full. -/
def State.fullDies (s : State) (d : Nat) : List Nat :=
  (List.range 8).flatMap (fun p => (List.range 6).filterMap (fun o =>
    let r := 8 * d + p
    let full := s.outputFull r o none
    if full.1 && full.2 then some (((neighbour r o).map (·.1 / 8)).getD d) else none))

/-- A stop that a full buffer asked for is counted once it has taken effect; a withdrawn one is not (R191, R315). -/
def State.countStop (s : State) (d : Nat) : State :=
  match (s.region (64 + d)).fullDie with
  | none => s
  | some x => if s.stopped (64 + d) then
      (s.countUp (nocBase x + 0x14) 1).modRegion (64 + d) (fun g => { g with fullDie := none }) else s

/-- XFULL of die network `d` as its crossing buffers now stand (R191, R314, R315). -/
def State.checkFull (s : State) (d : Nat) : State :=
  let full := s.fullDies d
  let r := 64 + d
  if ¬ full.isEmpty ∧ ¬ s.hasCause r causeFull then
    ((s.setCause r causeFull).modRegion r (fun g => { g with fullDie := some (full.headD d) })).countStop d
  else if full.isEmpty ∧ s.hasCause r causeFull then (s.clearCause r causeFull).modRegion r (fun g => { g with fullDie := none })
  else s

/-- The stops of die networks for full buffers, as the buffers now stand. -/
def State.recheckFull (s : State) : State :=
  (List.range 8).foldl (fun acc d => if acc.hasCause (64 + d) causeFull then (acc.countStop d).checkFull d else acc) s

/-- XFULL of the die that sends into input `i` of router `r`. -/
def State.checkFeeder (s : State) (r i : Nat) : State :=
  match neighbour r i with
  | some (n, _) => if isBridge r i then s.checkFull (n / 8) else s
  | none => s

/-! ### The L input (R187, R196, R207) -/

/-- Key of the queue at the L input of table `t` for its job's DMA channel `ch` (R188). -/
def dmaQueueKey (t ch : Nat) : Nat := 8192 + 128 * t + ch

/-- Key of a channel's queue at the L input of router `t`. -/
def lqKey (t n : Nat) (rev : Bool) : Nat := 128 * t + 2 * n + b2n rev

/-- Flits put at the end of a channel's queue at the L input. -/
def State.pushL (s : State) (t n : Nat) (rev : Bool) (fs : List Flit) : State :=
  let edge : Option Nat := match (if rev then s.rcvEnd t n else s.sndEnd (s.snd t n)) with
    | .io e => some e
    | .table _ => none
  let key := lqKey t n rev
  let d := dieRegion t
  let fs := fs.map (fun f => { f with src := key, edge := edge, dueReg := d, dueNet := s.net d })
  { s with noc := { s.noc with chanQ := SMap.modify [] s.noc.chanQ key (· ++ fs) } }

end Sys2Proof.Machine
end

