-- ==== Sys2Proof/Machine/Chan.lean ====
section
/-!
DEFINITION. Waits of a sequencer and their conditions (R124, R164, R196, R219, R220, R234), the reading of message payloads
and the entry of parts and signals into the queue at the L input (R196, R207).
-/
namespace Sys2Proof.Machine

/-! ### Conditions of waits -/

/-- The DMA channel that a task names: the task-relative channel `ch` of the job table that runs on table `t` (R228). -/
def State.taskChannel (s : State) (t ch : Nat) : Option Nat :=
  let b := s.table t
  s.dma.findSome? (fun kv =>
    if kv.2.job.isSome ∧ kv.2.job = b.job ∧ kv.2.home = b.jobTable ∧ kv.2.rel = ch then some kv.1 else none)

/-- The parts of a message started: each core reads from its address, unless the payload leaves the window (R154, R196). -/
def State.startParts (s : State) (t : Nat) (ofs n f : Nat) (parts : List (Nat × Nat)) (spills : List Bool) :
    List SendPart × List AccFault :=
  (parts.zip spills).foldl (fun acc x =>
    match s.physCore t x.1.1 with
    | none => acc
    | some c =>
      let k := 34 * t + c
      match s.boundFault t x.1.1 (spdSpan x.1.2 (64 * f)) with
      | some e => (acc.1, acc.2 ++ [e])
      | none => (acc.1 ++ [⟨k, x.1.2, (x.1.1 + ofs) % n, f, [], none, x.2⟩], acc.2)) ([], [])

/-- A SEND whose credit condition holds starts: credit is taken, and its cores begin to read (R196). -/
def State.creditMet (s : State) (t chn seq f : Nat) (parts : List (Nat × Nat)) : Option State :=
  let c := s.snd t chn
  let room := parts.all (fun x => (s.physCore t x.1).any (fun p => decide (f ≤ (s.core (34 * t + p)).sendRoom)))
  if (c.dyn && !c.isOpen) || !room then none else
  match c.credit (s.ringSize c) f (parts.map (fun x => (x.1 + c.ofs) % s.fuses.cores)) with
  | none => none
  | some (spills, c') =>
    let r := s.startParts t c.ofs s.fuses.cores f parts spills
    let s := s.modTable t (fun b => { b with
      snd := SMap.set SndChan.reset b.snd chn { c' with held := false }
      sends := b.sends.map (fun i => if i.chn = chn ∧ i.seq = seq ∧ ¬ i.started ∧ i.signal.isNone
        then { i with started := true, parts := r.1, ready := parts.length } else i) })
    some (s.accFaults t false r.2)

/-! ### Queue entries (R219, R220) -/

/-- Bytes of entry `e` of queue `q` of core `k` are still on their way, or its request has not gone out yet. -/
def State.entryBusy (s : State) (t k q e : Nat) : Bool :=
  s.mem.granules.any (fun g => decide (g.owner = .queue t k q e)) ||
    (s.core k).fills.any (fun f => decide (f.src = .queue q e)) ||
    (s.table t).pend.any (fun p => match p.eff with
      | .request k' q' _ _ => k' == k && q' == q
      | .qmove k' q' _ d _ _ _ _ => k' == k && q' == q && decide (0 < d)
      | _ => false)

/-- An outbound entry becomes FREE; at the last entry of a QREQ the queue's counter is signalled (R171, R220). -/
def State.freeEntry (s : State) (t k q : Nat) : State :=
  let s := s.qmove k q 1 (-1) 0 0 0 0
  match (s.core k).reqs.findIdx? (fun r => r.1 == q) with
  | none => s
  | some i =>
    let left := (((s.core k).reqs.drop i).headD (q, 1)).2 - 1
    if 0 < left then s.modCore k (fun c => { c with reqs := c.reqs.modify i (fun _ => (q, left)) })
    else
      let s := s.modCore k (fun c => { c with reqs := c.reqs.eraseIdx i })
      match (s.qcfg k q).ctr with
      | some n => s.signalNext t n 1
      | none => s

/-- The oldest PEND entry of an inbound or an outbound queue: HELD and FULL entries come before it on an inbound queue, and
HELD entries follow it on an outbound one. -/
def State.oldestPend (s : State) (k q : Nat) : Nat :=
  let v := s.qst k q
  let n := (s.qcfg k q).nent
  if (s.qcfg k q).out then (v.old + n - v.pend % n) % n else (v.old + v.held + v.full) % n

/-- The oldest PEND entry of a tier queue has every byte at its destination. -/
def State.entryReady (s : State) (t k q : Nat) : Bool :=
  let c := s.qcfg k q
  (c.src == 1 || c.src == 2) && decide (0 < (s.qst k q).pend) && !s.entryBusy t k q (s.oldestPend k q)

/-- The oldest PEND entry becomes FULL, or FREE on an outbound queue. -/
def State.endEntry (s : State) (t k q : Nat) : State :=
  if (s.qcfg k q).out then s.freeEntry t k q else s.qmove k q 0 (-1) 1 0 0 0

/-- Every entry whose bytes have retired, in ring order, has left PEND (R219, R220); `fuel` is at least the entries of a queue. -/
def State.settleQueue (s : State) (t k q : Nat) : Nat → State
  | 0 => s
  | fuel + 1 => if s.entryReady t k q then (s.endEntry t k q).settleQueue t k q fuel else s

/-! ### The condition of a wait -/

/-- The first device time, in elevenths of a tick, of the cycle that region `r` is in. -/
def State.cycleBegan (s : State) (r : Nat) : Nat := s.now11 - ((s.region r).clock (s.multiple r) s.now11).2 / s.multiple r

/-- Host counter `n` of job `j` as the waits of table `t` see it: without what the host port has applied since the table's current
cycle began (R172). -/
def State.hostVisible (s : State) (t j n : Nat) : Nat :=
  s.hostCounter j n - ((s.host.fresh.filter (fun x => x.1 == 64 * j + n && decide (s.cycleBegan t ≤ x.2.2))).map (·.2.1)).sum

/-- The cores whose queues a QWAIT of a sequencer waits for: every enabled core, or the issuing core in Taper mode. -/
def State.waitCores (s : State) (t : Nat) (core : Option Nat) : List Nat :=
  match core with
  | some k => [k]
  | none => (s.tableCores t).map (·.2)

/-- The condition of a wait of table `t` evaluated now: the state after it is met, or nothing (R124). -/
def State.meet (s : State) (t : Nat) (core : Option Nat) (w : WaitFor) : Option State :=
  match w with
  | .counter n a _ => if a ≤ s.counter t n then some (s.setCounter t n (s.counter t n - a)) else none
  | .host n a _ =>
    match (s.table t).job with
    | none => none
    | some j => if a ≤ s.hostVisible t j n then some (s.setHostCounter j n (s.hostCounter j n - a)) else none
  | .queue q n space =>
    let ks := s.waitCores t core
    let s := ks.foldl (fun acc k => acc.settleQueue t k q 64) s
    if ks.all (fun k => if space then decide (n ≤ (s.qst k q).free) else decide (n ≤ (s.qst k q).full)) then
      some (ks.foldl (fun acc k => if space then acc.qmove k q (-n) 0 0 n n 0 else acc.qmove k q 0 0 (-n) n 0 0) s)
    else none
  | .dma ch =>
    match s.taskChannel t ch with
    | none => none
    | some k => if (s.dmaCh k).cmpTask = 0 then none
      else some (s.modDma k (fun d => { d with cmpTask := d.cmpTask - 1 }))
  | .credit chn _ seq f parts => s.creditMet t chn seq f parts
  | .window chn n _ _ => if n ≤ (s.rcv t chn).present then some s else none
  | .absent => some s

/-! ### The sequencer of a table or a core -/

/-- The sequencer that core `k` issues through: the table's, or its own in Taper mode (R136). -/
def State.seqOf (s : State) (t : Nat) (core : Option Nat) : Seq :=
  match core with
  | some k => (s.core k).taper
  | none => (s.table t).seq

/-- The state with a sequencer changed. -/
def State.modSeq (s : State) (t : Nat) (core : Option Nat) (f : Seq → Seq) : State :=
  match core with
  | some k => s.modCore k (fun c => { c with taper := f c.taper })
  | none => s.modTable t (fun b => { b with seq := f b.seq })

/-- The handler window that a met HWIN opens: its first cycle follows cycle `c` (R129). A body that the HWIN word ends turns once the
window and the word's IDLE cycles have passed (R126). -/
def Seq.openWindow (q : Seq) (chn n wlen idle c : Nat) : Seq :=
  { q with window := some { chn := chn, left := n, running := false, openCyc := c + 1, endCyc := c + 1 + wlen,
                            retPc := q.nextPc, idle := idle, due := q.loopDue }
           loopDue := none }

/-- A dynamic channel on which a SEND waits opens as soon as a departure position is free (R195). -/
def State.openFor (s : State) (t : Nat) (w : WaitFor) : State :=
  match w with
  | .credit chn _ _ _ _ => s.tryOpen t chn
  | _ => s

/-- The waits of a sequencer whose resolve cycle is `c` or earlier and that are not late yet, evaluated in cycle `c`: the
met ones end, the others stay. -/
def State.resolveWaits (s : State) (t : Nat) (core : Option Nat) (c : Nat) : State :=
  let ws := (s.seqOf t core).waits
  let r := ws.foldl (fun (acc : State × List Wait) w =>
    if w.late ∨ c < w.resolve then (acc.1, acc.2 ++ [w]) else
    let s := acc.1.openFor t w.what
    match s.meet t core w.what with
    | none => (s, acc.2 ++ [w])
    | some s' =>
      (match w.what with
        | .window chn n wlen idle => s'.modSeq t core (fun q => q.openWindow chn n wlen idle c)
        | _ => s', acc.2)) (s, [])
  r.1.modSeq t core (fun q => { q with waits := r.2 })

/-- The waits that are evaluated in cycle `c` before a sequencer issues: its own, behind those of the lower-numbered cores in Taper
mode (R165). -/
def State.resolveUpTo (s : State) (t : Nat) (core : Option Nat) (c : Nat) : State :=
  match core with
  | none => s.resolveWaits t none c
  | some k => ((s.tableCores t).filter (fun x => decide (x.1 ≤ s.logCore t (k % 34)))).foldl
      (fun acc x => acc.resolveWaits t (some x.2) c) s

/-- A SEND waits on credit: HELD of CHN_SNDn_STAT (R208). -/
def State.markHeld (s : State) (t : Nat) (w : WaitFor) : State :=
  match w with
  | .credit chn _ _ _ _ => s.modSnd t chn (fun c => { c with held := true })
  | _ => s

/-! ### Payload reads and the L input (R196, R207) -/

/-- The first part that core `k` still reads, as (item, part) indexes. -/
def nextRead (items : List SendItem) (k : Nat) : Option (Nat × Nat) :=
  items.zipIdx.findSome? (fun i => if ¬ i.1.started then none else
    i.1.parts.zipIdx.findSome? (fun p => if p.1.core = k ∧ p.1.done.isNone then some (i.2, p.2) else none))

/-- The part at an index pair of a list of items changed. -/
def modPart (items : List SendItem) (i p : Nat) (f : SendPart → SendPart) : List SendItem :=
  items.modify i (fun it => { it with parts := it.parts.modify p f })

/-- A part whose payload read fails its check is not sent: the flits read so far leave the core's send buffer (R154, R222). -/
def State.dropPart (s : State) (t k i p read : Nat) : State :=
  (s.modTable t (fun b => { b with sends := b.sends.modify i (fun it => { it with parts := it.parts.eraseIdx p }) })).modCore k
    (fun c => { c with sendBuf := c.sendBuf - read })

/-- One flit read by core `k` in cycle `c` through the other share of port 1, unless an SHST uses it (R141, R196). Its bytes are
checked against the queue areas in this cycle (R222). -/
def State.readFlit (s : State) (t c k : Nat) : State :=
  if (s.core k).shstCyc = some c then s else
  match nextRead (s.table t).sends k with
  | none => s
  | some (i, p) =>
    match ((s.table t).sends.drop i).head? with
    | none => s
    | some it =>
      match (it.parts.drop p).head? with
      | none => s
      | some part =>
        let lc := s.logCore t (k % 34)
        let as := spdSpan (part.addr + 64 * part.got.length) 64
        match s.misuseFault lc k as with
        | some e => (s.dropPart t k i p part.got.length).accFaults t false [e]
        | none =>
        let r := s.spdFetch t 4 it.pc lc k 1 as
        let s := (r.2.1.accFaults t false r.2.2).modCore k (fun c => { c with sendBuf := c.sendBuf + 1, portOwed := c.portOwed + 64 })
        s.modTable t (fun b => { b with sends := modPart b.sends i p (fun x =>
          { x with got := x.got ++ [r.1], done := if x.got.length + 1 = x.total then some c else none }) })

/-- The payload reads of cycle `c`, one flit for each core. -/
def State.readPayloads (s : State) (t c : Nat) : State :=
  let ks := ((s.table t).sends.flatMap (fun i => i.parts.map (·.core))).eraseDups
  ks.foldl (fun acc k => acc.readFlit t c k) s

/-- The flits of a part that has been read. -/
def State.partFlits (s : State) (t : Nat) (it : SendItem) (nparts : Nat) (p : SendPart) : List Flit :=
  let c := s.snd t it.chn
  p.got.zipIdx.map (fun d => ⟨partTag (s.dptOf c) c.rchn it.seq p.dcore it.hidx (c.um.getLsbD it.hidx) nparts p.total
    d.2 p.spill, d.1, 0, 0, 0, 0, none, none⟩)

/-- The items of table `t` that enter the L input by cycle `c`, in the order of each channel: a part 2 cc after its last
flit is read, in rising core order, a signal 2 cc after its issue, and nothing ahead of an earlier item (R196, R207).
`PARTS` of a message counts the parts that it started with, kept in `ready`. -/
def State.enterL (s : State) (t c : Nat) : State :=
  let r := (s.table t).sends.foldl (fun (acc : State × List SendItem × List Nat) it =>
    let stay (s : State) (it : SendItem) : State × List SendItem × List Nat := (s, acc.2.1 ++ [it], it.chn :: acc.2.2)
    if acc.2.2.contains it.chn then stay acc.1 it else
    match it.signal with
    | some tag =>
      let s := if it.ready ≤ c then acc.1.tryOpen t it.chn else acc.1
      if it.ready ≤ c ∧ (s.snd t it.chn).isOpen then (s.pushL t it.chn false [⟨tag, [], 0, 0, 0, 0, none, none⟩], acc.2.1, acc.2.2)
      else stay s it
    | none =>
      if ¬ it.started then stay acc.1 it else
      let done := it.parts.takeWhile (fun p => p.done.any (fun d => decide (d + 2 ≤ c)))
      let left := it.parts.drop done.length
      let s := acc.1.pushL t it.chn false (done.flatMap (acc.1.partFlits t it it.ready))
      if left.isEmpty then (s, acc.2.1, acc.2.2) else stay s { it with parts := left }) (s, [], [])
  r.1.modTable t (fun b => { b with sends := r.2.1 })

end Sys2Proof.Machine
end

