-- ==== Sys2Proof/Machine/Streamer.lean ====
section
/-!
DEFINITION. The weight streamer (R48, R49, R146): descriptor fields, vector addresses, and the reads of a vector.
-/
namespace Sys2Proof.Machine

/-- Fields of a weight-streamer descriptor (R48). -/
def wstBase (d : BitVec 128) : Nat := field d 18 0
def wstIstr (d : BitVec 128) : Nat := field d 37 19
def wstIcnt (d : BitVec 128) : Nat := if field d 49 38 = 0 then 4096 else field d 49 38
def wstOstr (d : BitVec 128) : Nat := field d 82 64
def wstOcnt (d : BitVec 128) : Nat := if field d 94 83 = 0 then 4096 else field d 94 83
def wstScbase (d : BitVec 128) : Nat := field d 113 95
def wstFmt (d : BitVec 128) : Nat := field d 117 114

/-- Bytes of a vector in the scratchpad (R39, R48). -/
def wstBytes (f : Nat) : Nat := if f = 0 ∨ f = 10 then 32 else if f = 5 ∨ f = 6 then 48 else 64

/-- Block scales of a fill or a vector and their element width in bits (R44): 2 for FP8, FP6 and INT8, 4 for FP4, none for
any other format. -/
def blockScales (f : Nat) : Nat × Nat :=
  match f with
  | 3 => (2, 8) | 4 => (2, 8) | 8 => (2, 8) | 5 => (2, 6) | 6 => (2, 6) | 7 => (4, 4) | _ => (0, 0)

/-- Byte offset of vector `n` from BASE (R48). The sequence starts again after ICNT × OCNT vectors. -/
def wstOff (d : BitVec 128) (n : Nat) : Nat :=
  n % wstIcnt d * wstIstr d + n / wstIcnt d % wstOcnt d * wstOstr d

/-- The addresses that the read of vector `n` touches: its bytes, then its scales. -/
def wstAddrs (d : BitVec 128) (n : Nat) : List Nat × List Nat :=
  let f := wstFmt d
  let off := wstOff d n
  let sc := blockScales f
  (spdSpan (wstBase d + off) (wstBytes f), spdSpan (wstScbase d + off / (4 * sc.2)) sc.1)

/-- The empty vector: zero bytes and scales of 2^0. -/
def WVec.zero : WVec := ⟨[], []⟩

/-- A vector of these bytes and scales. Unlisted bytes are zero and unlisted scales 0x7F. -/
def WVec.of (bytes scales : List Byte) : WVec :=
  { bytes := SMap.setAll 0 [] (bytes.zipIdx.map (fun x => (x.2, x.1)))
    scales := SMap.setAll 0x7F [] (scales.zipIdx.map (fun x => (x.2, x.1))) }

/-- The read of vector `n` by core `k` (logical `lc`) in the current cycle. The whole vector is zero with scales 0x7F when a
byte lies outside the window (R154), and zero with its scales when it touches an entry not HELD (R222). -/
def State.streamRead (s : State) (t : Nat) (pc : BitVec 17) (lc k n : Nat) (d : BitVec 128) : WVec × State × List AccFault :=
  let a := wstAddrs d n
  match s.accessFault t lc k (a.1 ++ a.2) with
  | some (.misuse l q x c) => (WVec.of [] (a.2.map (fun _ => 0)), s, [.misuse l q x c])
  | some f => (WVec.zero, s, [f])
  | none =>
    let r := s.spdFetch t 5 pc lc k 1 (a.1 ++ a.2)
    (WVec.of (r.1.take a.1.length) (r.1.drop a.1.length), r.2.1, r.2.2)

/-- The read of cycle `c` that a WARM makes: vector `c - warmCyc` of the eight (R49, R146). -/
def State.warmRead (s : State) (t c lc k : Nat) : State × List AccFault :=
  let w := (s.core k).streamer
  if w.warming ∧ w.warmCyc ≤ c ∧ c < w.warmCyc + 8 then
    let r := s.streamRead t (s.table t).seq.pc lc k (c - w.warmCyc) w.desc
    (r.2.1.modCore k (fun x => { x with streamer := { x.streamer with land := x.streamer.land ++ [r.1] } }), r.2.2)
  else (s, [])

/-- The vectors of a WARM become visible 8 cc after it. -/
def Core.warmLand (x : Core) (c : Nat) : Core :=
  let w := x.streamer
  if w.warming ∧ w.warmCyc + 8 ≤ c then
    { x with streamer := { w with warming := false, land := [], head := 0, nextN := 8,
                                  fifo := SMap.setAll WVec.zero [] (w.land.zipIdx.map (fun y => (y.2, y.1))) } }
  else x

/-! ### Decoupled fills (R141, R142, R146) -/

/-- Bytes of the fill port of core `k` that an SHLD landing of the current cycle leaves free. -/
def State.fillRoom (s : State) (t k : Nat) : Nat :=
  let c := s.cyc t
  if (s.table t).pend.any (fun p => match p.eff with
      | .spdWrite ws => decide (p.due = c + 1) && ws.any (fun w => decide (w.core = k) && w.landing)
      | _ => false) then 0
  else 32

/-- The banks of core `k` that reads and scheduled writes touch in the current cycle. -/
def State.busyBanks (s : State) (t k : Nat) : BitVec 16 :=
  let x := s.core k
  s.writeBanks t k ||| (if x.touchCyc = s.cyc t then x.touched else 0)

/-- The oldest waiting fill whose next chunk targets a bank that is free, by its index. -/
def Core.nextFill (k : Core) (busy : BitVec 16) : Option (Fill × Nat) :=
  k.fills.zipIdx.find? (fun f => !busy.getLsbD (bankOf (spdAddr f.1.addr)))

/-- A fill port at work in one cycle: the core, the word of the first uncorrectable error met, the corrected errors, the bytes of the
port that are left, and the banks that take no more. -/
structure FillWork where
  core : Core
  ue   : Option Nat
  ce   : Nat
  room : Nat
  busy : BitVec 16

/-- The next chunk of the oldest fill that can go. A bank takes one write of the fill port in a cycle (R142). -/
def FillWork.chunk (w : FillWork) : FillWork :=
  if w.room = 0 then w else
  match w.core.nextFill w.busy with
  | none => w
  | some (f, i) =>
    let a := spdAddr f.addr
    let n := min w.room (min f.data.length (0x8000 - a % 0x8000))
    let p := w.core.putAll ((f.data.take n).zipIdx.map (fun b => (spdAddr (a + b.2), (0xFF : Byte), b.1)))
    let left : Fill := { f with addr := f.addr + n, data := f.data.drop n }
    { core := { p.1 with fills := if left.data.isEmpty then p.1.fills.eraseIdx i else p.1.fills.modify i (fun _ => left) }
      ue := w.ue.or p.2.1, ce := w.ce + p.2.2, room := w.room - n, busy := w.busy ||| (1 <<< bankOf a) }

/-- Chunks as long as the port has room: no more than it has bytes. -/
def FillWork.run (w : FillWork) : Nat → FillWork
  | 0 => w
  | fuel + 1 => w.chunk.run fuel

/-- The fill port of core `k` (logical `lc`) serves its waiting fills in the current cycle. -/
def State.serveFills (s : State) (t lc k : Nat) : State × List AccFault :=
  let w := ({ core := { s.core k with fillReq := false }, ue := none, ce := 0, room := s.fillRoom t k, busy := s.busyBanks t k }
    : FillWork).run 32
  ((s.modCore k (fun _ => w.core)).countCe (spdReg t 0xC) w.ce, w.ue.toList.map (.ue lc ·))

/-- The fill ports of table `t` that serve in the cycle that ends, once all its reads have been made. -/
def State.serveTable (s : State) (t : Nat) : State :=
  let r := ((s.tableCores t).filter (fun x => (s.core x.2).fillReq)).foldl (fun (acc : State × List AccFault) x =>
    let y := acc.1.serveFills t x.1 x.2
    (y.1, acc.2 ++ y.2)) (s, [])
  r.1.accFaults t false r.2

/-! ### What decoupled transfers leave of the ports (R141, R150, R152) -/

/-- The width of port 1's other share in bytes. -/
def Core.portShare (c : Core) : Nat := if c.streamer.armed then 64 else 128

/-- A decoupled read goes through port 1's other share in the current cycle: SHST and SEND payload reads go first, and what they and
earlier decoupled reads still owe the port leaves it room. DESIGN CHOICE (assumption 48): the bytes of a granule are read at once, and
it then holds the port as long as its bytes take. -/
def Core.portFree (c : Core) : Bool := decide (c.portOwed < c.portShare)

/-- A DMA transfer uses the core's shelf path toward the scratchpad, or toward the shelf, in the current cycle. -/
def Core.pathFree (c : Core) (inward : Bool) : Bool := decide ((if inward then c.shelfIn else c.shelfOut) < 32)

/-- A core's ports after a cycle. -/
def Core.settlePorts (c : Core) : Core :=
  { c with portOwed := c.portOwed - c.portShare, shelfIn := c.shelfIn - 32, shelfOut := c.shelfOut - 32 }

/-- The ports of the cores of table `t` after a cycle. -/
def State.settlePorts (s : State) (t : Nat) : State :=
  (s.tableCores t).foldl (fun acc x =>
    let c := acc.core x.2
    if c.portOwed = 0 ∧ c.shelfIn = 0 ∧ c.shelfOut = 0 then acc else acc.modCore x.2 Core.settlePorts) s

end Sys2Proof.Machine
end

