-- ==== Sys2Proof/Machine/Time.lean ====
section
/-!
DEFINITION. Device time and what happens in a table's cycles whatever is commanded: waits resolve, late waits hold issue, idle
cycles pass, results become visible, loops turn, handler windows open and close, payloads are read (R17, R18, R28, R111,
R126, R129, R146, R196, R205). Device time moves in steps of one eleventh of a beacon tick, a core cycle at D0.
-/
namespace Sys2Proof.Machine

/-! ### Handler windows (R129, R205) -/

/-- The records of a core's ring from the first that is no pad record. -/
def skipPads (rs : List Record) : List Record := rs.dropWhile (fun r => decide (r.tag = 0))

/-- SEQ of the message whose handler runs next. -/
def RcvChan.nextSeq (c : RcvChan) : BitVec 21 := c.seq - BitVec.ofNat 21 c.present

/-- The record of message `q` at the head of core `lc`'s ring, if that core received a part of it. -/
def RcvChan.headRecord (c : RcvChan) (lc : Nat) (q : BitVec 21) : Option Record :=
  ((skipPads (SMap.get [] c.records lc)).head?).filter (fun r => decide (field r.tag 34 14 = q.toNat))

/-- Scratchpad address of the payload of a record (R200). -/
def RcvChan.payload (c : RcvChan) (r : Record) : Nat := 64 * (c.rbase + r.pos) + 64

/-- The words of a payload of `n` words from address `a` on, through the correction path: the words, the first with an
uncorrectable error, which reads zero, and the number of corrected ones (R155). -/
def Core.payloadWords (c : Core) (a n : Nat) : List Word × Option Nat × Nat :=
  let ws := (List.range n).map (fun i => a / 4 + i)
  (ws.map (fun w => if SMap.get none c.spdErr w = some true then 0 else c.word w),
   (ws.find? (fun w => SMap.get none c.spdErr w == some true)).map (4 * ·),
   (ws.filter (fun w => SMap.get none c.spdErr w == some false)).length)

/-- The operand queue of core `k` (logical `lc`) for the handler of message `q` (R205), with the errors that its payload met. -/
def State.fillQueue (s : State) (t : Nat) (c : RcvChan) (q : BitVec 21) (entry : Word) (lc k : Nat) : State × List AccFault :=
  let len := field entry 25 18 + 1
  let want := if entry.getLsbD 17 then 64 * len else len
  let r : List Word × Option Nat × Nat := match c.headRecord lc q with
    | some r => (s.core k).payloadWords (c.payload r) (min want (16 * (field r.tag 57 54 + 1)))
    | none => ([], none, 0)
  let ws := r.1
  let s := if entry.getLsbD 17 then
    s.modCore k (fun x => { x with
      vqueue := (List.range len).map (fun e => (List.range 64).map (fun l => (ws.drop (64 * e + l)).headD 0)), squeue := [] })
  else s.modCore k (fun x => { x with squeue := (List.range len).map (fun e => (ws.drop e).headD 0), vqueue := [] })
  (s.countCe (spdReg t 0xC) r.2.2, r.2.1.toList.map (.ue lc ·))

/-- The handler of the window's next message begins: its operands are in the queues and its first word is next. -/
def State.beginHandler (s : State) (t : Nat) (w : Window) : State :=
  let c := s.rcv t w.chn
  let q := c.nextSeq
  let cores := s.tableCores t
  let hidx := (cores.findSome? (fun x => (c.headRecord x.1 q).map (fun r => field r.tag 46 41))).getD 0
  let entry := SMap.get 0 (s.table t).htab hidx
  let r := cores.foldl (fun (acc : State × List AccFault) x =>
    let y := acc.1.fillQueue t c q entry x.1 x.2
    (y.1, acc.2 ++ y.2)) (s, [])
  let s := r.1.accFaults t false r.2
  if (s.table t).seq.window.isNone then s else s.modTable t (fun b => { b with seq := { b.seq with
    window := some { w with running := true }, nextPc := entry.extractLsb' 0 17 } })

/-! ### Loops (R126) -/

/-- After the last word of bodies that end at `pc`: the inner level decides first, and an outer one once it has ended.
Levels nest by the extent of their bodies; `ord` lists the active levels that end here, innermost first. -/
def Seq.turnLoops (q : Seq) (ord : List Nat) : Seq :=
  match ord with
  | [] => q
  | n :: rest =>
    match (q.loops.drop n).head? with
    | none => q
    | some l =>
      let left := l.remaining - 1
      if left = 0 then
        { q with loops := q.loops.modify n (fun l => { l with active := false, remaining := 0 }) }.turnLoops rest
      else { q with loops := q.loops.modify n (fun l => { l with remaining := left }), nextPc := l.start }

/-- A level placed before the levels that start earlier. -/
def insertLevel (x : Loop × Nat) (ls : List (Loop × Nat)) : List (Loop × Nat) :=
  match ls with
  | [] => [x]
  | y :: rest => if y.1.start.toNat < x.1.start.toNat then x :: y :: rest else y :: insertLevel x rest

/-- Active levels whose body ends at `pc`, innermost (latest start) first. -/
def Seq.loopsEnding (q : Seq) (pc : BitVec 17) : List Nat :=
  ((q.loops.zipIdx.filter (fun l => l.1.active && decide (l.1.last = pc))).foldr insertLevel []).map (·.2)

/-- The levels whose bodies end at the word `pc` turn, once nothing of the word is left to pass. -/
def Seq.turn (q : Seq) : Seq :=
  match q.loopDue with
  | none => q
  | some pc => { q with loopDue := none }.turnLoops (q.loopsEnding pc)

/-- A handler window ends: the word behind the HWIN is next, after the HWIN's IDLE cycles. -/
def Seq.closeWindow (q : Seq) (w : Window) : Seq :=
  let q := { q with window := none, nextPc := w.retPc, hold := w.idle, loopDue := w.due }
  if w.idle = 0 then q.turn else q

/-- A window in its cycle `c`: it ends, or its next handler begins. -/
def State.runWindow (s : State) (t c : Nat) : State :=
  match (s.table t).seq.window with
  | none => s
  | some w =>
    if w.endCyc ≤ c then s.modTable t (fun b => { b with seq := b.seq.closeWindow w })
    else if w.openCyc ≤ c ∧ ¬ w.running ∧ 0 < w.left ∧ (s.table t).seq.hold = 0 then s.beginHandler t w
    else s

/-! ### The cycle of a sequencer -/

/-- A handler window is awaited or open. -/
def Seq.windowing (q : Seq) : Bool := q.window.isSome || q.waits.any (fun w => match w.what with
  | .window .. => true
  | _ => false)

/-- A sequencer enters its next cycle. `held` says that a late wait held the cycle that ends: idle cycles stand still
while issue is held. DEDUCED (assumption 22). -/
def Seq.enter (q : Seq) (held : Bool) : Seq :=
  let hold := if q.slots = 0 ∧ ¬ held then q.hold - 1 else q.hold
  let q' := { q with slots := 0, hold := hold }
  if hold = 0 ∧ ¬ q.windowing then q'.turn else q'

/-- A late wait holds a sequencer. -/
def Seq.held (q : Seq) : Bool := q.waits.any (·.late)

/-- The sequencers of table `t`: its own, or those of its cores in Taper mode. -/
def State.seqs (s : State) (t : Nat) : List (Option Nat) :=
  if (s.table t).taper then (s.tableCores t).map (fun x => some x.2) else [none]

/-- The head descriptor of a DMA channel moves bytes from or to host memory. -/
def State.hostDma (s : State) (k : Nat) : Bool :=
  let d := SMap.get 0 s.descs (1024 * (k / 128) + field (s.dmaCh k).ctl 9 0)
  field d 3 0 == 3 || field d 7 4 == 3

/-- A wait whose held cycles are host-attributed (R33, R166): on a host counter, on messages that the host sends, or on a DMA channel
that moves from or to host memory, or a queue that such a channel feeds. -/
def State.hostWait (s : State) (t : Nat) (core : Option Nat) (w : Wait) : Bool :=
  match w.what with
  | .host .. => true
  | .dma ch => (s.taskChannel t ch).any s.hostDma
  | .queue q _ _ => (s.waitCores t core).any (fun k => (s.qcfg k q).src == 3 && (s.taskChannel t (s.qcfg k q).dch).any s.hostDma)
  | .window chn _ _ _ => s.hostFed t chn
  | _ => false

/-- A core cycle of table `t` at its present step, in 1/7920 of an eleventh of a tick: a whole number at every step. -/
def State.cycleTime (s : State) (t : Nat) : Nat := 7920 * 660000 / s.multiple t

/-- The waits of a sequencer at the end of cycle `c`: those that resolve are met or late, and every cycle that a late wait
holds is counted (R18, R20). -/
def State.endSeq (s : State) (t c : Nat) (core : Option Nat) : State :=
  if (s.table t).run ≠ 1 then s else
  let s := s.resolveWaits t core c
  let q := s.seqOf t core
  let fresh := q.waits.filter (fun w => decide (w.resolve ≤ c) && !w.late)
  let s := fresh.foldl (fun acc w => acc.markHeld t w.what) s
  let s := s.modSeq t core (fun q => { q with waits := q.waits.map (fun w =>
    if w.resolve ≤ c then { w with late := true } else w) })
  let q := s.seqOf t core
  let host := q.waits.any (fun w => w.late && s.hostWait t core w)
  let dt := s.cycleTime t
  s.modTable t (fun b => { b with
    late := satAdd b.late fresh.length
    lateCc := if q.held then satAdd b.lateCc 1 else b.lateCc
    hostHeld := if host then b.hostHeld + dt else b.hostHeld })

/-- The messages of a channel whose last part retired before cycle `c` become present, in SEQ order (R205). -/
def RcvChan.promote (x : RcvChan) (c : Nat) : Nat → RcvChan
  | 0 => x
  | fuel + 1 =>
    if x.retired.any (fun r => decide (r.1 = x.seq) && r.2.1 == 0 && decide (r.2.2 < c)) then
      { x with retired := x.retired.filter (fun r => !decide (r.1 = x.seq)), present := x.present + 1,
               seq := x.seq + 1 }.promote c fuel
    else x

/-- A trap of the hazard detector takes effect at the end of the cycle of the failed check (R377). -/
def State.trapEnd (s : State) (t : Nat) : State :=
  if ¬ s.recs.debug ∨ (s.table t).run ≠ 1 ∨ ¬ (s.csrAt (dlrReg t 0xC0)).getLsbD 31 then s else
  match (s.table t).job with
  | none => s
  | some j =>
    let kind := s.csrAt (dlrReg t 0xC0)
    let s := s.raiseTable t 0x1301 clsContained (kind.toNat + (s.csrAt (dlrReg t 0xCC)).toNat <<< 32)
    let ts := ((s.job j).map (·.tables)).getD [t]
    let s := ts.foldl (fun acc u => (acc.modTable u (fun b => { b with run := 3, release := none, ending := true })).setFlags
      (dlrReg u 0xC0) 0x80000000) s
    let s := { s with dma := stopDma s.dma j }
    s.modJob j (fun b => { b with trapped := true })

/-- The end of cycle `c` of table `t`. -/
def State.endCycle (s : State) (t c : Nat) : State :=
  let s := (s.seqs t).foldl (fun acc q => acc.endSeq t c q) s
  let s := s.readPayloads t c
  let r := (s.tableCores t).foldl (fun (acc : State × List AccFault) x =>
    let w := acc.1.warmRead t c x.1 x.2
    (w.1, acc.2 ++ w.2)) (s, [])
  (((r.1.accFaults t true r.2).serveTable t).settlePorts t).trapEnd t

/-- The task of table `t` has ended by cycle `c`: its END has issued, every operation has reached its contract latency and
no wait is open (R132). -/
def State.taskOver (s : State) (t c : Nat) : Bool :=
  let b := s.table t
  b.ending && decide (b.busyUntil ≤ c) && (s.seqs t).all (fun q => (s.seqOf t q).waits.isEmpty)

/-- The beginning of cycle `c` of table `t`. The sequencers of a task that is paused or has ended stand still. -/
def State.beginCycle (s : State) (t c : Nat) : State :=
  let isOver := s.taskOver t (c - 1)
  let s := if (s.table t).run ≠ 1 then s else
    (s.seqs t).foldl (fun acc q => acc.modSeq t q (fun x => x.enter x.held)) s
  let s := s.applyDue t c
  let s := (s.tableCores t).foldl (fun acc x =>
    if (acc.core x.2).streamer.warming then acc.modCore x.2 (fun y => y.warmLand c) else acc) s
  let s := s.modTable t (fun b => { b with
    tcc := if b.started ∧ b.run = 1 ∧ ¬ isOver then b.tcc + 1 else b.tcc
    rcv := SMap.mapAll RcvChan.reset b.rcv (fun _ x => x.promote c x.retired.length) })
  (s.enterL t c).runWindow t c

/-! ### Device time -/

/-- The listed tables, in rising order. -/
def State.listed (s : State) : List Nat := s.tables.map (·.1)

/-- The state one eleventh of a beacon tick later, its clocks apart. -/
def State.later (s : State) : State :=
  if s.sub = 10 then { s with beacon := s.beacon + 1, sub := 0 } else { s with sub := s.sub + 1 }

/-- Power is on and reset is released (R385). -/
def State.running (s : State) : Bool := s.pins.powered && !s.pins.inReset

/-- The replies to the RESUME frames of job `j`, at the resume tick: a task is released at its release tick (R249, R253, R271). -/
def State.tellReleased (s : State) (j : Nat) : State :=
  match s.job j with
  | none => s
  | some b =>
    if b.waiters.all (fun w => w.typ != 0x04) ∨
      b.tables.any (fun t => (s.table t).run == 2 && !(s.table t).release.any (fun r => decide (r ≤ s.beacon))) then s else
    (b.waiters.foldl (fun acc w => if w.typ = 0x04 then acc.answer w.qpn 0x84 w.tag (BitVec.ofNat 8 j) 0 [] else acc) s).modJob j
      (fun b => { b with waiters := b.waiters.filter (fun w => w.typ != 0x04) })

/-- Device time moves on by one eleventh of a beacon tick: every table whose region begins a cycle ends the one before. In reset
no time passes. -/
def State.tick (s : State) : State :=
  if !s.running then s else
  let ts := s.listed.filter (fun t => s.cyc t != s.later.cyc t)
  let s := ts.foldl (fun acc t => acc.endCycle t (acc.cyc t)) s
  let s := s.later
  let s := ts.foldl (fun acc t => acc.beginCycle t (acc.cyc t)) s
  let s := s.recheckFull
  if s.sub = 0 then (s.jobs.map (·.1)).foldl State.tellReleased s else s

end Sys2Proof.Machine
end

