-- ==== Sys2Proof/Machine/Issue.lean ====
section
/-!
DEFINITION. The issue of long words (R107 to R114, R136, R137): when a sequencer can issue, the word's place in the program
store, the guard, and the frame that every slot operation shares.
-/
namespace Sys2Proof.Machine

/-- Slots of a long word (R107). -/
def slotS : Nat := 0
def slotV : Nat := 1
def slotM : Nat := 2
def slotL : Nat := 3
def slotT : Nat := 4
def slotY : Nat := 5

/-- Granules of a long word, from its header (R107, R108). -/
def wordGranules (hd : BitVec 16) : Nat :=
  1 + 2 * b2n (hd.getLsbD 15) + 3 * b2n (hd.getLsbD 14) + 4 * b2n (hd.getLsbD 13) + 3 * b2n (hd.getLsbD 12) +
    3 * b2n (hd.getLsbD 11) + 2 * b2n (hd.getLsbD 10)

/-- The granule at `pc` as a sequencer of table `t` fetches it: from the program store, or in Taper mode from the core's instruction
cache, if a line there holds it (R109, R136). -/
def State.fetchCode (s : State) (t : Nat) (core : Option Nat) (pc : BitVec 17) : Option (BitVec 16) :=
  match core with
  | none => some (SMap.get 0 (s.table t).prog pc.toNat)
  | some k => ((s.core k).cache.find? (fun x => x.line == pc.toNat / 64)).map (fun x => (x.code.drop (pc.toNat % 64)).headD 0)

/-- The granule after the word at `pc` (R109). -/
def State.afterWord (s : State) (t : Nat) (core : Option Nat) (pc : BitVec 17) : BitVec 17 :=
  pc + BitVec.ofNat 17 (wordGranules ((s.fetchCode t core pc).getD (SMap.get 0 (s.table t).prog pc.toNat)))

/-- The core whose sequencer issues the word: none for a dealer, the core named by the header in Taper mode (R136). -/
def State.issuer (s : State) (h : Hdr) : Option Nat :=
  if (s.table h.table).taper then (s.physCore h.table h.core).map (34 * h.table + ·) else none

/-- The handler window leaves cycle `c` free for a word: outside a window, or within one while a handler runs (R129). -/
def Seq.windowOpen (q : Seq) (c : Nat) : Bool :=
  match q.window with
  | none => true
  | some w => decide (w.openCyc ≤ c) && decide (c < w.endCyc) && w.running

/-- Every wait that resolves by cycle `c` can be met now, and none is late (R124). -/
def State.waitsMet (s : State) (t : Nat) (core : Option Nat) (c : Nat) : Bool :=
  ((s.resolveUpTo t core c).seqOf t core).waits.all (fun w => decide (c < w.resolve))

/-- The sequencer of table `t` can issue the word at `pc` in the current cycle (R111). -/
def State.canIssue (s : State) (t : Nat) (core : Option Nat) (pc : BitVec 17) : Bool :=
  let b := s.table t
  let q := s.seqOf t core
  b.run == 1 && !b.ending && !q.ended && !s.stopped t && q.slots == 0 && q.hold == 0 && decide (q.nextPc = pc) &&
    (match core with | some k => (s.core k).missLine.isNone | none => true) &&
    q.windowOpen (s.cyc t) && s.waitsMet t core (s.cyc t)

/-- Device time moved on until the word at `pc` can issue. -/
def State.awaitIssue (s : State) (t : Nat) (core : Option Nat) (pc : BitVec 17) : Nat → Option State
  | 0 => none
  | fuel + 1 => if s.canIssue t core pc then some s else s.tick.awaitIssue t core pc fuel

/-- Elevenths of a tick within which a sequencer that nothing holds comes to its next word: idle cycles, the window in
progress and the IDLE cycles after it, at the slowest clock of R316. -/
def State.issueFuel (s : State) (t : Nat) (core : Option Nat) : Nat :=
  let q := s.seqOf t core
  let w := match q.window with
    | some w => w.endCyc + w.idle - s.cyc t
    | none => 0
  let hw := q.waits.foldl (fun m x => match x.what with
    | .window _ _ wlen idle => m + wlen + idle + 4
    | _ => m) 0
  3 * (q.hold + w + hw + 4)

/-- The 128 B lines of code that the word at `pc` lies in, as far as core `k` can tell: its header's own, and the others once it has
the header (R136). -/
def State.wordLines (s : State) (t k : Nat) (pc : BitVec 17) : List Nat :=
  let g := pc.toNat
  match s.fetchCode t (some k) pc with
  | none => [g / 64]
  | some hd => ((List.range (wordGranules hd)).map (fun i => (g + i) / 64)).eraseDups

/-- The sequencer has issued the word at `h.pc` in the current cycle. -/
def State.begin (s : State) (h : Hdr) (core : Option Nat) : State :=
  let t := h.table
  let next := s.afterWord t core h.pc
  let s := s.resolveUpTo t core (s.cyc t)
  let s := s.modSeq t core (fun q => { q with
    pc := h.pc, nextPc := next, hold := h.idle.toNat, slots := 0
    loopDue := if q.loops.any (fun l => l.active && decide (l.last = h.pc)) then some h.pc else none })
  s.modTable t (fun b => { b with started := true, issueTcc := b.tcc.truncate 32, busyPrior := b.busyUntil })

/-- What the attempt to issue an operation comes to: nothing, a miss of the instruction cache, or its issue. -/
inductive Issued where
  | no
  | miss (s : State)
  | go (s : State)

/-- An operation of slot `slot` issued: the first of a word in the sequencer's next issue cycle, any other in the cycle of
its word, in slot order (R107, R111). -/
def State.issue (s : State) (h : Hdr) (slot : Nat) : Issued :=
  let t := h.table
  let core := s.issuer h
  let mark (s : State) : State := s.modSeq t core (fun q => { q with slots := q.slots ||| BitVec.ofNat 6 (1 <<< slot) })
  if (s.table t).taper ∧ core.isNone then .no else
  if h.first then
    match s.awaitIssue t core h.pc (s.issueFuel t core) with
    | none => .no
    | some s' =>
      match core with
      | none => .go (mark (s'.begin h core))
      | some k =>
        match (s'.wordLines t k h.pc).find? (fun l => !((s'.core k).cache.any (fun x => x.line == l))) with
        | some l => .miss (s'.modCore k (fun x => { x with missLine := some l }))
        | none => .go (mark (s'.begin h core))
  else
    let q := s.seqOf t core
    if q.slots ≠ 0 ∧ q.pc = h.pc ∧ q.slots.toNat < 2 ^ slot ∧ ¬ s.stopped t ∧ (s.table t).run = 1 then .go (mark s) else .no

/-- The cores that an operation acts on, each with its logical number: the enabled cores of the table, or the issuing
core in Taper mode. -/
def State.opCores (s : State) (h : Hdr) : List (Nat × Nat) :=
  match s.issuer h with
  | some k => [(h.core, k)]
  | none => s.tableCores h.table

/-- The scalar register `r` of core `k`; s0 reads as zero (R112). -/
def State.sreg (s : State) (k : Nat) (r : BitVec 5) : Word := if r = 0 then 0 else SMap.get 0 (s.core k).sreg r.toNat

/-- Lane `l` of vector register `r` of core `k`. -/
def State.vlane (s : State) (k : Nat) (r : BitVec 5) (l : Nat) : Word := SMap.get 0 (s.core k).vreg (64 * r.toNat + l)

/-- Predicate `p` of core `k`; p0 reads as 1. -/
def State.predBit (s : State) (k : Nat) (p : BitVec 3) : Bool := p == 0 || (s.core k).pred.getLsbD p.toNat

/-- The guard of the word is true in core `k` (R114). -/
def State.guard (s : State) (h : Hdr) (k : Nat) : Bool := s.predBit k h.grd != h.gneg

/-- The cores in which a guarded operation takes effect. -/
def State.actors (s : State) (h : Hdr) : List (Nat × Nat) := (s.opCores h).filter (fun x => s.guard h x.2)

/-- The lanes that a lane-mask field leaves unmasked (R61, R118), for the codes that the loader lets pass. -/
def State.maskLanes (s : State) (k : Nat) (msk : BitVec 2) : List Nat :=
  if msk = 0 then List.range 64
  else bitsOf 64 (s.csr64 (coreReg k (if msk = 1 then 0x100 else 0x108))).toNat

/-- The frame of every slot operation: an encoding that the loader refuses is refused, an operation whose word cannot issue
now does not happen, and one that issues has the effect `body`. -/
def slotOp (wf : Bool) (h : Hdr) (slot : Nat) (body : State → State) (s : State) : Host.Outcome State Fault Refusal :=
  if wf then
    match s.issue h slot with
    | .no => .next s
    | .miss s' => .next s'
    | .go s' => .next (body s')
  else .refused .illegalWord

/-- What an operation does in one core: the locations it reads and its effects with their latencies. -/
structure CoreAct where
  reads : List Loc
  effs  : List (Nat × Eff)

/-- An operation that reads and writes registers of each acting core alone. -/
def State.eachCore (s : State) (h : Hdr) (slot : Nat) (f : Nat → Nat → CoreAct) : State :=
  let as := (s.actors h).map (fun x => f x.1 x.2)
  ((s.noteReads h.table slot h.pc (as.flatMap (·.reads))).post h.table slot h.pc true (as.flatMap (·.effs))).busyWith h.table
    ((s.opCores h).flatMap (fun x => (f x.1 x.2).effs))

/-- Tracked scalar and vector registers. -/
def locS (k : Nat) (r : BitVec 5) : Loc := .sreg k r.toNat
def locV (k : Nat) (r : BitVec 5) : Loc := .vreg k r.toNat
def locP (k : Nat) (p : BitVec 3) : Loc := .pred k p.toNat

end Sys2Proof.Machine
end

