-- ==== Sys2Proof/WellFormed.lean ====
section
/-!
DEFINITION. The slot operations whose encoding the loader accepts: every refusal with ILLEGAL_WORD that one operation's own
fields decide (R41, R53 to R59, R63, R79, R84, R96, R97, R99, R102, R113, R116 to R123, R144). Checks that look at the image
(declared channels, queues, counters, seeds) are the loader's.
-/
namespace Sys2Proof

/-- A lane-mask field (R118). -/
def mskOk (m : BitVec 2) : Bool := m != 3

/-- A register that a field map requires to be even. -/
def evenReg (r : BitVec 5) : Bool := !r.getLsbD 0

/-- A 5-bit format code of R79. -/
def fmtOk (c : BitVec 5) : Bool := decide (c.toNat ≤ 10) || c == 16

/-- The format group of R39 as its step depth, for a code of R40; 0 for a reserved code. -/
def stepDepth (f : BitVec 4) : Nat :=
  match f.toNat with
  | 0 => 8 | 1 => 32 | 2 => 32 | 3 => 64 | 4 => 64 | 5 => 64 | 6 => 64 | 7 => 128 | 8 => 64 | 9 => 128 | 10 => 32 | _ => 0

/-- The format takes block scales (R44). -/
def scaledFmt (f : BitVec 4) : Bool := decide (3 ≤ f.toNat ∧ f.toNat ≤ 8)

/-- The format is an integer format. -/
def intFmt (f : BitVec 4) : Bool := f == 8 || f == 9

/-- A legal pair of operand formats (R41). -/
def pairOk (h w : BitVec 4) : Bool :=
  stepDepth h != 0 && stepDepth h == stepDepth w && (if intFmt h || intFmt w then h == w else true)

/-- The pairs that a term mode takes (R56). -/
def modeOk (mode : BitVec 3) (h w : BitVec 4) : Bool :=
  match mode.toNat with
  | 0 => true
  | 1 => h != 9
  | 2 => h != 9
  | 3 => true
  | 4 => true
  | 5 => h == w && intFmt h
  | _ => false

/-- An MDOT (R54). -/
def MdotOp.wf (o : MdotOp) : Bool :=
  pairOk o.hfmt o.wfmt && modeOk o.mode o.hfmt o.wfmt && mskOk o.msk && !(o.src && o.wrep) &&
    (!o.hscl || (o.mode == 0 && scaledFmt o.hfmt)) && (!o.wscl || (o.mode == 0 && scaledFmt o.wfmt)) &&
    (!o.part || o.hfmt == 0) && decide (o.klen.toNat + 1 ≤ stepDepth o.hfmt)

/-- Registers that MFR reads and MTR writes, by block and offset (R117). -/
inductive TaskReg where
  | lid
  | lmask (n : Nat) (hi : Bool)
  | hldDesc (n j : Nat)
  | hldStat (n : Nat)
  | wstDesc (n j : Nat)
  | cvtFlags
  | cbStat
  | summary
  | setCfg (n : Nat)
  | accFlag (n flag : Nat) (hi : Bool)
  | loopCount (n : Nat)
  deriving DecidableEq, Repr

/-- The register at an offset of a block; none where a task reaches no register (R117). -/
def taskReg (blk : BitVec 2) (off : BitVec 12) : Option TaskReg :=
  let o := off.toNat
  if o % 4 ≠ 0 then none else
  match blk.toNat with
  | 0 =>
    if o = 0 then some .lid
    else if 0x100 ≤ o ∧ o < 0x110 then some (.lmask ((o - 0x100) / 8) (decide (o % 8 = 4)))
    else if 0x200 ≤ o ∧ o < 0x280 then some (.hldDesc ((o - 0x200) / 0x20) (o % 0x20 / 4))
    else if 0x280 ≤ o ∧ o < 0x290 then some (.hldStat ((o - 0x280) / 4))
    else if 0x300 ≤ o ∧ o < 0x340 then some (.wstDesc ((o - 0x300) / 0x10) (o % 0x10 / 4))
    else if o = 0x400 then some .cvtFlags
    else if o = 0x404 then some .cbStat
    else none
  | 1 =>
    if o = 0 then some .summary
    else if 0x20 ≤ o ∧ o < 0x40 then some (.setCfg ((o - 0x20) / 4))
    else if 0x100 ≤ o ∧ o < 0x300 ∧ o % 0x40 < 0x28 then
      some (.accFlag ((o - 0x100) / 0x40) (o % 0x40 / 8) (decide (o % 8 = 4)))
    else none
  | 2 => if 0x80 ≤ o ∧ o < 0x90 then some (.loopCount ((o - 0x80) / 4)) else none
  | _ => none

/-- A task may write the register (R117). -/
def TaskReg.writable : TaskReg → Bool
  | .lid | .cbStat | .summary | .setCfg _ => false
  | .lmask .. | .hldDesc .. | .hldStat _ | .wstDesc .. | .cvtFlags | .accFlag .. | .loopCount _ => true

/-- Width and mode of a vector load or store (R121, R144). -/
def ldvOk (w : BitVec 3) (mode : BitVec 2) (sb : BitVec 5) : Bool :=
  decide (w.toNat ≤ 5) && mode != 3 && (mode != 0 || sb == 0) && !(mode == 2 && w == 1)

/-- Output formats of ARD (R96). -/
def ardFmtOk (f : BitVec 5) : Bool := [0, 1, 2, 3, 4, 8, 16].contains f.toNat

/-- The encoding of a slot operation is accepted at load; every other command is well formed. DEDUCED (assumption 70): CHN of a SIG
that names no channel must be zero. -/
def Instr.wf : Instr → Bool
  | .cmp _ pd _ _ _ => pd != 0
  | .cmpi _ pd _ _ _ => pd != 0
  | .plog _ pd _ _ _ => pd != 0
  | .mfr _ _ blk off => (taskReg blk off).isSome
  | .mtr _ _ blk off => (taskReg blk off).any (·.writable)
  | .vaddf _ m _ _ _ | .vsubf _ m _ _ _ | .vmulf _ m _ _ _ | .vfmaf _ m _ _ _ _ | .vminf _ m _ _ _ | .vmaxf _ m _ _ _
  | .vabsf _ m _ _ | .vnegf _ m _ _ | .vaddi _ m _ _ _ | .vsubi _ m _ _ _ | .vmuli _ m _ _ _ | .vmini _ m _ _ _
  | .vmaxi _ m _ _ _ | .vand _ m _ _ _ | .vor _ m _ _ _ | .vxor _ m _ _ _ | .vshl _ m _ _ _ | .vshr _ m _ _ _
  | .vsar _ m _ _ _ | .vcmpi _ m _ _ _ _ | .vsel _ m _ _ _ _ | .vmov _ m _ _ _ | .vbcst _ m _ _ | .vrot _ m _ _ _
  | .vidx _ m _ | .vredmaxf _ m _ _ _ | .vredminf _ m _ _ _ | .vredi _ m _ _ _ | .curv _ m _ _ _ | .tkins _ m _ _ _ => mskOk m
  | .vcmpf _ m _ _ _ c => mskOk m && decide (c.toNat ≤ 5)
  | .vtop _ m pd _ => mskOk m && pd != 0
  | .cvt _ m _ _ sf df rm _ cb => mskOk m && fmtOk sf && fmtOk df && df != 10 && decide (rm.toNat ≤ 3) && (!cb || sf == 10)
  | .cvmx _ vd _ vsc df rm => decide (3 ≤ df.toNat ∧ df.toNat ≤ 8) && decide (rm.toNat ≤ 3) && vsc != vd
  | .ard _ _ _ _ f rm _ j rv =>
    ardFmtOk f && decide (rm.toNat ≤ 4) && (if rm = 4 then evenReg rv else j == 0 && rv == 0)
  | .ardr _ vd _ _ => vd.extractLsb' 0 3 == 0
  | .gmx _ m vd _ _ _ seb _ => mskOk m && evenReg vd && evenReg seb
  | .tkcfg _ two d _ _ => decide (1 ≤ d.toNat) && decide (d.toNat ≤ if two then 8 else 16)
  | .tkrd _ _ _ vds vdi => vds != vdi
  | .mdot _ o => o.wf
  | .mclr _ v _ a b m => v != 3 && decide (a.toNat ≤ b.toNat) && mskOk m
  | .msetw _ _ wide anchor => wide || anchor == 0
  | .mred _ _ _ _ m _ rop => mskOk m && rop != 3
  | .minj _ _ _ v m => v.extractLsb' 0 3 == 0 && mskOk m
  | .ctload _ _ g _ _ => decide (g.toNat ≤ 32)
  | .ldv _ _ w mode _ sb _ => ldvOk w mode sb
  | .stv _ m _ w mode _ sb _ => mskOk m && ldvOk w mode sb
  | .gth _ _ _ _ w m => w != 3 && mskOk m
  | .qreq _ _ sp _ => evenReg sp
  | .qrel _ _ n => n != 0
  | .setlc _ _ src v => !src || decide (v.toNat < 32)
  | .wait _ dst ctr amt _ => (dst == 0 || (dst == 2 && decide (ctr.toNat < 64))) && amt != 0
  | .sig _ dst ctr amt chn =>
    dst != 3 && amt != 0 && (dst != 2 || decide (ctr.toNat < 64)) && (dst == 1 || chn == 0)
  | .qwait _ _ _ n => n != 0
  | .hwin _ _ cnt wlen => cnt != 0 && wlen != 0
  | _ => true

end Sys2Proof
end

