-- ==== Sys2Proof/Machine/Scalar.lean ====
section
/-!
DEFINITION. The S slot (R116, R117): the scalar unit, predicates, register moves and the scalar operand queue.
-/
namespace Sys2Proof.Machine

/-- The signed lesser and greater of two words (R116). -/
def minS (a b : Word) : Word := if a.toInt < b.toInt then a else b
def maxS (a b : Word) : Word := if a.toInt < b.toInt then b else a

/-- Shifts by an amount modulo 32 (R116). -/
def shlW (a b : Word) : Word := a <<< (b.toNat % 32)
def shrW (a b : Word) : Word := a >>> (b.toNat % 32)
def sarW (a b : Word) : Word := a.sshiftRight (b.toNat % 32)

/-- An SR operation: `sd := f sa sb`, readable 1 cc after issue (R115, R116). -/
def opSR (h : Hdr) (sd sa sb : BitVec 5) (f : Word → Word → Word) (s : State) : State :=
  s.eachCore h slotS (fun _ k =>
    { reads := [locS k sa, locS k sb], effs := [(1, .sreg k sd.toNat (f (s.sreg k sa) (s.sreg k sb)))] })

/-- An SI operation: `sd := f sa`, with the immediate in `f`. -/
def opSI (h : Hdr) (sd sa : BitVec 5) (f : Word → Word) (s : State) : State :=
  s.eachCore h slotS (fun _ k =>
    { reads := [locS k sa], effs := [(1, .sreg k sd.toNat (f (s.sreg k sa)))] })

/-- An operation that sets predicate `pd` of each acting core. -/
def opPred (h : Hdr) (slot lat : Nat) (pd : BitVec 3) (reads : Nat → List Loc) (f : Nat → Bool) (s : State) : State :=
  s.eachCore h slot (fun _ k => { reads := reads k, effs := [(lat, .pred k pd.toNat (f k))] })

/-- Sign-extended and zero-extended immediates. -/
def sext16 (i : BitVec 16) : Word := i.signExtend 32
def zext16 (i : BitVec 16) : Word := i.zeroExtend 32

/-- PLOG's combinations: AND, OR, XOR, AND NOT (R116). -/
def plogOp (op : BitVec 2) (a b : Bool) : Bool :=
  match op.toNat with
  | 0 => a && b
  | 1 => a || b
  | 2 => a != b
  | _ => a && !b

/-- ADD (R116). -/
def execAdd (h : Hdr) (sd sa sb : BitVec 5) (s : State) : Host.Outcome State Fault Refusal :=
  slotOp true h slotS (opSR h sd sa sb (· + ·)) s

/-- SUB (R116). -/
def execSub (h : Hdr) (sd sa sb : BitVec 5) (s : State) : Host.Outcome State Fault Refusal :=
  slotOp true h slotS (opSR h sd sa sb (· - ·)) s

/-- AND (R116). -/
def execAnd (h : Hdr) (sd sa sb : BitVec 5) (s : State) : Host.Outcome State Fault Refusal :=
  slotOp true h slotS (opSR h sd sa sb (· &&& ·)) s

/-- OR (R116). -/
def execOr (h : Hdr) (sd sa sb : BitVec 5) (s : State) : Host.Outcome State Fault Refusal :=
  slotOp true h slotS (opSR h sd sa sb (· ||| ·)) s

/-- XOR (R116). -/
def execXor (h : Hdr) (sd sa sb : BitVec 5) (s : State) : Host.Outcome State Fault Refusal :=
  slotOp true h slotS (opSR h sd sa sb (· ^^^ ·)) s

/-- SHL (R116). -/
def execShl (h : Hdr) (sd sa sb : BitVec 5) (s : State) : Host.Outcome State Fault Refusal :=
  slotOp true h slotS (opSR h sd sa sb shlW) s

/-- SHR (R116). -/
def execShr (h : Hdr) (sd sa sb : BitVec 5) (s : State) : Host.Outcome State Fault Refusal :=
  slotOp true h slotS (opSR h sd sa sb shrW) s

/-- SAR (R116). -/
def execSar (h : Hdr) (sd sa sb : BitVec 5) (s : State) : Host.Outcome State Fault Refusal :=
  slotOp true h slotS (opSR h sd sa sb sarW) s

/-- MUL (R116). -/
def execMul (h : Hdr) (sd sa sb : BitVec 5) (s : State) : Host.Outcome State Fault Refusal :=
  slotOp true h slotS (opSR h sd sa sb (· * ·)) s

/-- MIN (R116). -/
def execMin (h : Hdr) (sd sa sb : BitVec 5) (s : State) : Host.Outcome State Fault Refusal :=
  slotOp true h slotS (opSR h sd sa sb minS) s

/-- MAX (R116). -/
def execMax (h : Hdr) (sd sa sb : BitVec 5) (s : State) : Host.Outcome State Fault Refusal :=
  slotOp true h slotS (opSR h sd sa sb maxS) s

/-- ADDI (R116). -/
def execAddi (h : Hdr) (sd sa : BitVec 5) (imm : BitVec 16) (s : State) : Host.Outcome State Fault Refusal :=
  slotOp true h slotS (opSI h sd sa (· + sext16 imm)) s

/-- ANDI (R116). -/
def execAndi (h : Hdr) (sd sa : BitVec 5) (imm : BitVec 16) (s : State) : Host.Outcome State Fault Refusal :=
  slotOp true h slotS (opSI h sd sa (· &&& zext16 imm)) s

/-- ORI (R116). -/
def execOri (h : Hdr) (sd sa : BitVec 5) (imm : BitVec 16) (s : State) : Host.Outcome State Fault Refusal :=
  slotOp true h slotS (opSI h sd sa (· ||| zext16 imm)) s

/-- XORI (R116). -/
def execXori (h : Hdr) (sd sa : BitVec 5) (imm : BitVec 16) (s : State) : Host.Outcome State Fault Refusal :=
  slotOp true h slotS (opSI h sd sa (· ^^^ zext16 imm)) s

/-- SHLI (R116): shift by IMM[4:0]. -/
def execShli (h : Hdr) (sd sa : BitVec 5) (imm : BitVec 16) (s : State) : Host.Outcome State Fault Refusal :=
  slotOp true h slotS (opSI h sd sa (fun a => shlW a (zext16 imm))) s

/-- SHRI (R116). -/
def execShri (h : Hdr) (sd sa : BitVec 5) (imm : BitVec 16) (s : State) : Host.Outcome State Fault Refusal :=
  slotOp true h slotS (opSI h sd sa (fun a => shrW a (zext16 imm))) s

/-- SARI (R116). -/
def execSari (h : Hdr) (sd sa : BitVec 5) (imm : BitVec 16) (s : State) : Host.Outcome State Fault Refusal :=
  slotOp true h slotS (opSI h sd sa (fun a => sarW a (zext16 imm))) s

/-- LUI (R116): `sd := IMM << 16`. -/
def execLui (h : Hdr) (sd : BitVec 5) (imm : BitVec 16) (s : State) : Host.Outcome State Fault Refusal :=
  slotOp true h slotS (fun s => s.eachCore h slotS (fun _ k =>
    { reads := [], effs := [(1, .sreg k sd.toNat (zext16 imm <<< 16))] })) s

/-- CMP (R116). -/
def execCmp (h : Hdr) (pd cond : BitVec 3) (sa sb : BitVec 5) (s : State) : Host.Outcome State Fault Refusal :=
  slotOp (Instr.cmp h pd cond sa sb).wf h slotS
    (fun s => opPred h slotS 1 pd (fun k => [locS k sa, locS k sb]) (fun k => condI cond (s.sreg k sa) (s.sreg k sb)) s) s

/-- CMPI (R116): IMM15 is sign-extended. -/
def execCmpi (h : Hdr) (pd cond : BitVec 3) (sa : BitVec 5) (imm : BitVec 15) (s : State) :
    Host.Outcome State Fault Refusal :=
  slotOp (Instr.cmpi h pd cond sa imm).wf h slotS
    (fun s => opPred h slotS 1 pd (fun k => [locS k sa]) (fun k => condI cond (s.sreg k sa) (imm.signExtend 32)) s) s

/-- PLOG (R116). -/
def execPlog (h : Hdr) (pd pa pb : BitVec 3) (op : BitVec 2) (s : State) : Host.Outcome State Fault Refusal :=
  slotOp (Instr.plog h pd pa pb op).wf h slotS
    (fun s => opPred h slotS 1 pd (fun k => [locP k pa, locP k pb]) (fun k => plogOp op (s.predBit k pa) (s.predBit k pb)) s) s

/-! ### Register moves (R117) -/

/-- The address of a task-reachable register of core `k`; loop counts have none. -/
def taskRegAddr (k : Nat) : TaskReg → Nat
  | .lid => coreReg k 0
  | .lmask n hi => coreReg k (0x100 + 8 * n + 4 * b2n hi)
  | .hldDesc n j => coreReg k (0x200 + 0x20 * n + 4 * j)
  | .hldStat n => coreReg k (0x280 + 4 * n)
  | .wstDesc n j => coreReg k (0x300 + 0x10 * n + 4 * j)
  | .cvtFlags => coreReg k 0x400
  | .cbStat => coreReg k 0x404
  | .summary => accReg k 0
  | .setCfg n => accReg k (0x20 + 4 * n)
  | .accFlag n f hi => accReg k (accFlagOff n f + 4 * b2n hi)
  | .loopCount _ => 0

/-- The bits of a register that are not reserved (R45, R48). -/
def taskRegMask : TaskReg → Word
  | .hldDesc _ j =>
    match j with
    | 1 => 0x000FFF3F | 3 => 0x01FFFFFF | 5 => 0x007FFFFF | 7 => 0x00000FFF | _ => 0xFFFFFFFF
  | .hldStat _ => 0x01FFFFFF
  | .wstDesc _ j =>
    match j with
    | 1 => 0x0003FFFF | 3 => 0x003FFFFF | _ => 0xFFFFFFFF
  | .cvtFlags => 3
  | _ => 0xFFFFFFFF

/-- The remaining count of loop level `n` of a sequencer (R127). -/
def Seq.remainingOf (q : Seq) (n : Nat) : Word := ((q.loops.drop n).head?.map (·.remaining)).getD 0

/-- What MFR reads in core `k` (R117, R127). -/
def State.readTaskReg (s : State) (t : Nat) (core : Option Nat) (k : Nat) (r : TaskReg) : Word :=
  match r with
  | .loopCount n => (s.seqOf t core).remainingOf n
  | .lid => BitVec.ofNat 32 (s.logCore (k / 34) (k % 34))
  | r => s.csrAt (taskRegAddr k r)

/-- MFR (R117): readable 2 cc after issue. -/
def execMfr (h : Hdr) (sr : BitVec 5) (blk : BitVec 2) (off : BitVec 12) (s : State) : Host.Outcome State Fault Refusal :=
  slotOp (Instr.mfr h sr blk off).wf h slotS (fun s =>
    match taskReg blk off with
    | none => s
    | some r => s.eachCore h slotS (fun _ k =>
      { reads := [], effs := [(2, .sreg k sr.toNat (s.readTaskReg h.table (s.issuer h) k r))] })) s

/-- The effect of MTR in core `k` (R45, R48, R61, R83, R91). -/
def mtrEff (k : Nat) (r : TaskReg) (v : Word) : Eff :=
  match r with
  | .cvtFlags => .clearBits k 0x400 (v &&& 3)
  | .accFlag n f hi => .accFlagReg k n f (b2n hi) v
  | r => .regWrite (taskRegAddr k r) (v &&& taskRegMask r)

/-- MTR (R117): written 2 cc after issue. A loop count takes the value of logical core 0, once, if that core's guard is
true; in Taper mode each core writes its own (R137). -/
def execMtr (h : Hdr) (sr : BitVec 5) (blk : BitVec 2) (off : BitVec 12) (s : State) : Host.Outcome State Fault Refusal :=
  slotOp (Instr.mtr h sr blk off).wf h slotS (fun s =>
    match taskReg blk off with
    | none => s
    | some (.loopCount n) =>
      let s' := (s.noteReads h.table slotS h.pc ((s.actors h).map (fun x => locS x.2 sr))).busyFor h.table 2
      match (s.actors h).find? (fun x => x.1 == 0 || (s.issuer h).isSome) with
      | some x => s'.post h.table slotS h.pc true [(2, .loopPending (s.issuer h) n (s.sreg x.2 sr))]
      | none => s'
    | some r => s.eachCore h slotS (fun _ k => { reads := [locS k sr], effs := [(2, mtrEff k r (s.sreg k sr))] })) s

/-! ### The scalar operand queue (R116, R135) -/

/-- An event of an operation that aborts the job of its table, once for each core of `cs`. -/
def State.emptyPops (s : State) (h : Hdr) (queue : Nat) (cs : List (Nat × Nat)) : State :=
  cs.foldl (fun acc x => acc.faultTable h.table 0x1041 (queue + x.1 <<< 1 + h.pc.toNat <<< 7)) s

/-- SQPOP (R116): the head of the scalar operand queue; zero, OPQ_EMPTY and an abort when the queue is empty (R135). -/
def execSqpop (h : Hdr) (sd : BitVec 5) (s : State) : Host.Outcome State Fault Refusal :=
  slotOp true h slotS (fun s =>
    let cs := s.actors h
    let s' := s.eachCore h slotS (fun _ k =>
      { reads := [], effs := [(1, .sreg k sd.toNat ((s.core k).squeue.headD 0))] })
    let s' := cs.foldl (fun acc x => acc.modCore x.2 (fun c => { c with squeue := c.squeue.drop 1 })) s'
    s'.emptyPops h 0 (cs.filter (fun x => (s.core x.2).squeue.isEmpty))) s

end Sys2Proof.Machine
end

