-- ==== Sys2Proof/Machine/Vector.lean ====
section
/-!
DEFINITION. The V slot's arithmetic, logic, moves and reductions, and the vector operand queue (R118, R119).
-/
namespace Sys2Proof.Machine

/-- All ones or zero (R118). -/
def boolWord (b : Bool) : Word := if b then 0xFFFFFFFF else 0

/-- Binary32 operations of one lane, each rounded once (R119). -/
def addF (a b : Word) : Word := rne32 ((f32Val a).add (f32Val b))
def subF (a b : Word) : Word := rne32 ((f32Val a).add (f32Val b).neg)
def mulF (a b : Word) : Word := rne32 ((f32Val a).mul (f32Val b))
def fmaF (a b c : Word) : Word := rne32 (((f32Val a).mul (f32Val b)).add (f32Val c))
/-- Absolute value and negation; a NaN result is the canonical NaN (R71). -/
def absF (a : Word) : Word := if isNan32 a then nan32 else a &&& 0x7FFFFFFF
def negF (a : Word) : Word := if isNan32 a then nan32 else a ^^^ 0x80000000

/-- An operation that writes the unmasked lanes of `vd`, each by `f` of the core and the lane (R118). -/
def opLanes (h : Hdr) (lat : Nat) (msk : BitVec 2) (vd : BitVec 5) (reads : Nat → List Loc) (f : Nat → Nat → Word)
    (s : State) : State :=
  s.eachCore h slotV (fun _ k =>
    { reads := reads k, effs := [(lat, .lanes k vd.toNat ((s.maskLanes k msk).map (fun l => (l, f k l))))] })

/-- A VR operation of two sources. -/
def opVV (h : Hdr) (msk : BitVec 2) (vd va vb : BitVec 5) (f : Word → Word → Word) (s : State) : State :=
  opLanes h 4 msk vd (fun k => [locV k va, locV k vb]) (fun k l => f (s.vlane k va l) (s.vlane k vb l)) s

/-- A VR operation of one source. -/
def opV (h : Hdr) (msk : BitVec 2) (vd va : BitVec 5) (f : Word → Word) (s : State) : State :=
  opLanes h 4 msk vd (fun k => [locV k va]) (fun k l => f (s.vlane k va l)) s

/-- A reduction over the unmasked lanes of `va`, written to every one of them; with no lane, nothing (R118, R119).
`one` is the result for a single lane. -/
def opRed (h : Hdr) (msk : BitVec 2) (vd va : BitVec 5) (one : Word → Word) (f : Word → Word → Word) (s : State) : State :=
  opLanes h 4 msk vd (fun k => [locV k va]) (fun k _ =>
    match (s.maskLanes k msk).map (s.vlane k va ·) with
    | [] => 0
    | x :: xs => xs.foldl f (one x)) s

/-- VADDF (R119). -/
def execVaddf (h : Hdr) (msk : BitVec 2) (vd va vb : BitVec 5) (s : State) : Host.Outcome State Fault Refusal :=
  slotOp (mskOk msk) h slotV (opVV h msk vd va vb addF) s
/-- VSUBF (R119). -/
def execVsubf (h : Hdr) (msk : BitVec 2) (vd va vb : BitVec 5) (s : State) : Host.Outcome State Fault Refusal :=
  slotOp (mskOk msk) h slotV (opVV h msk vd va vb subF) s
/-- VMULF (R119). -/
def execVmulf (h : Hdr) (msk : BitVec 2) (vd va vb : BitVec 5) (s : State) : Host.Outcome State Fault Refusal :=
  slotOp (mskOk msk) h slotV (opVV h msk vd va vb mulF) s
/-- VFMAF (R119): one rounding. -/
def execVfmaf (h : Hdr) (msk : BitVec 2) (vd va vb vc : BitVec 5) (s : State) : Host.Outcome State Fault Refusal :=
  slotOp (mskOk msk) h slotV (fun s => opLanes h 4 msk vd (fun k => [locV k va, locV k vb, locV k vc])
    (fun k l => fmaF (s.vlane k va l) (s.vlane k vb l) (s.vlane k vc l)) s) s
/-- VMINF (R119): -0 orders below +0, and a NaN gives the canonical NaN. -/
def execVminf (h : Hdr) (msk : BitVec 2) (vd va vb : BitVec 5) (s : State) : Host.Outcome State Fault Refusal :=
  slotOp (mskOk msk) h slotV (opVV h msk vd va vb minF) s
/-- VMAXF (R119). -/
def execVmaxf (h : Hdr) (msk : BitVec 2) (vd va vb : BitVec 5) (s : State) : Host.Outcome State Fault Refusal :=
  slotOp (mskOk msk) h slotV (opVV h msk vd va vb maxF) s
/-- VABSF (R118). -/
def execVabsf (h : Hdr) (msk : BitVec 2) (vd va : BitVec 5) (s : State) : Host.Outcome State Fault Refusal :=
  slotOp (mskOk msk) h slotV (opV h msk vd va absF) s
/-- VNEGF (R118). -/
def execVnegf (h : Hdr) (msk : BitVec 2) (vd va : BitVec 5) (s : State) : Host.Outcome State Fault Refusal :=
  slotOp (mskOk msk) h slotV (opV h msk vd va negF) s
/-- VCMPF (R119): -0 equals +0; a NaN makes every condition false except NE. -/
def execVcmpf (h : Hdr) (msk : BitVec 2) (vd va vb : BitVec 5) (cond : BitVec 3) (s : State) :
    Host.Outcome State Fault Refusal :=
  slotOp (Instr.vcmpf h msk vd va vb cond).wf h slotV (opVV h msk vd va vb (fun a b => boolWord (condF cond a b))) s
/-- VADDI (R118). -/
def execVaddi (h : Hdr) (msk : BitVec 2) (vd va vb : BitVec 5) (s : State) : Host.Outcome State Fault Refusal :=
  slotOp (mskOk msk) h slotV (opVV h msk vd va vb (· + ·)) s
/-- VSUBI (R118). -/
def execVsubi (h : Hdr) (msk : BitVec 2) (vd va vb : BitVec 5) (s : State) : Host.Outcome State Fault Refusal :=
  slotOp (mskOk msk) h slotV (opVV h msk vd va vb (· - ·)) s
/-- VMULI (R118). -/
def execVmuli (h : Hdr) (msk : BitVec 2) (vd va vb : BitVec 5) (s : State) : Host.Outcome State Fault Refusal :=
  slotOp (mskOk msk) h slotV (opVV h msk vd va vb (· * ·)) s
/-- VMINI (R118). -/
def execVmini (h : Hdr) (msk : BitVec 2) (vd va vb : BitVec 5) (s : State) : Host.Outcome State Fault Refusal :=
  slotOp (mskOk msk) h slotV (opVV h msk vd va vb minS) s
/-- VMAXI (R118). -/
def execVmaxi (h : Hdr) (msk : BitVec 2) (vd va vb : BitVec 5) (s : State) : Host.Outcome State Fault Refusal :=
  slotOp (mskOk msk) h slotV (opVV h msk vd va vb maxS) s
/-- VAND (R118). -/
def execVand (h : Hdr) (msk : BitVec 2) (vd va vb : BitVec 5) (s : State) : Host.Outcome State Fault Refusal :=
  slotOp (mskOk msk) h slotV (opVV h msk vd va vb (· &&& ·)) s
/-- VOR (R118). -/
def execVor (h : Hdr) (msk : BitVec 2) (vd va vb : BitVec 5) (s : State) : Host.Outcome State Fault Refusal :=
  slotOp (mskOk msk) h slotV (opVV h msk vd va vb (· ||| ·)) s
/-- VXOR (R118). -/
def execVxor (h : Hdr) (msk : BitVec 2) (vd va vb : BitVec 5) (s : State) : Host.Outcome State Fault Refusal :=
  slotOp (mskOk msk) h slotV (opVV h msk vd va vb (· ^^^ ·)) s
/-- VSHL (R118). -/
def execVshl (h : Hdr) (msk : BitVec 2) (vd va vb : BitVec 5) (s : State) : Host.Outcome State Fault Refusal :=
  slotOp (mskOk msk) h slotV (opVV h msk vd va vb shlW) s
/-- VSHR (R118). -/
def execVshr (h : Hdr) (msk : BitVec 2) (vd va vb : BitVec 5) (s : State) : Host.Outcome State Fault Refusal :=
  slotOp (mskOk msk) h slotV (opVV h msk vd va vb shrW) s
/-- VSAR (R118). -/
def execVsar (h : Hdr) (msk : BitVec 2) (vd va vb : BitVec 5) (s : State) : Host.Outcome State Fault Refusal :=
  slotOp (mskOk msk) h slotV (opVV h msk vd va vb sarW) s
/-- VCMPI (R118). -/
def execVcmpi (h : Hdr) (msk : BitVec 2) (vd va vb : BitVec 5) (cond : BitVec 3) (s : State) :
    Host.Outcome State Fault Refusal :=
  slotOp (mskOk msk) h slotV (opVV h msk vd va vb (fun a b => boolWord (condI cond a b))) s
/-- VSEL (R118). -/
def execVsel (h : Hdr) (msk : BitVec 2) (vd va vb vc : BitVec 5) (s : State) : Host.Outcome State Fault Refusal :=
  slotOp (mskOk msk) h slotV (fun s => opLanes h 4 msk vd (fun k => [locV k va, locV k vb, locV k vc])
    (fun k l => if s.vlane k vc l ≠ 0 then s.vlane k va l else s.vlane k vb l) s) s
/-- VMOV (R118). The VB field is not used. -/
def execVmov (h : Hdr) (msk : BitVec 2) (vd va _vb : BitVec 5) (s : State) : Host.Outcome State Fault Refusal :=
  slotOp (mskOk msk) h slotV (opV h msk vd va id) s
/-- VBCST (R118). -/
def execVbcst (h : Hdr) (msk : BitVec 2) (vd sb : BitVec 5) (s : State) : Host.Outcome State Fault Refusal :=
  slotOp (mskOk msk) h slotV (fun s => opLanes h 4 msk vd (fun k => [locS k sb]) (fun k _ => s.sreg k sb) s) s
/-- VROT (R118). -/
def execVrot (h : Hdr) (msk : BitVec 2) (vd va sb : BitVec 5) (s : State) : Host.Outcome State Fault Refusal :=
  slotOp (mskOk msk) h slotV (fun s => opLanes h 4 msk vd (fun k => [locV k va, locS k sb])
    (fun k l => s.vlane k va ((l + (s.sreg k sb).toNat) % 64)) s) s

/-- Bit 0 of every lane of `lanes`, as a 64-bit mask. -/
def State.bit0 (s : State) (k : Nat) (va : BitVec 5) (lanes : List Nat) : BitVec 64 :=
  lanes.foldl (fun m l => if (s.vlane k va l).getLsbD 0 then m ||| BitVec.ofNat 64 (1 <<< l) else m) 0

/-- VTOM (R118): `sel` chooses CORE_LMASK1. -/
def execVtom (h : Hdr) (sel : Bool) (va : BitVec 5) (s : State) : Host.Outcome State Fault Refusal :=
  slotOp true h slotV (fun s => s.eachCore h slotV (fun _ k =>
    { reads := [locV k va], effs := [(4, .lmask k (b2n sel) (s.bit0 k va (List.range 64)))] })) s
/-- VTOP (R118). -/
def execVtop (h : Hdr) (msk : BitVec 2) (pd : BitVec 3) (va : BitVec 5) (s : State) : Host.Outcome State Fault Refusal :=
  slotOp (Instr.vtop h msk pd va).wf h slotV (fun s => opPred h slotV 4 pd (fun k => [locV k va])
    (fun k => decide (s.bit0 k va (s.maskLanes k msk) ≠ 0)) s) s
/-- VIDX (R118). -/
def execVidx (h : Hdr) (msk : BitVec 2) (vd : BitVec 5) (s : State) : Host.Outcome State Fault Refusal :=
  slotOp (mskOk msk) h slotV (opLanes h 4 msk vd (fun _ => []) (fun _ l => BitVec.ofNat 32 l)) s
/-- VGET (R118). -/
def execVget (h : Hdr) (sd va sb : BitVec 5) (s : State) : Host.Outcome State Fault Refusal :=
  slotOp true h slotV (fun s => s.eachCore h slotV (fun _ k =>
    { reads := [locV k va, locS k sb], effs := [(4, .sreg k sd.toNat (s.vlane k va ((s.sreg k sb).toNat % 64)))] })) s
/-- VREDMAXF (R118, R119). The VB field is not used. -/
def execVredmaxf (h : Hdr) (msk : BitVec 2) (vd va _vb : BitVec 5) (s : State) : Host.Outcome State Fault Refusal :=
  slotOp (mskOk msk) h slotV (opRed h msk vd va (fun x => maxF x x) maxF) s
/-- VREDMINF (R118, R119). -/
def execVredminf (h : Hdr) (msk : BitVec 2) (vd va _vb : BitVec 5) (s : State) : Host.Outcome State Fault Refusal :=
  slotOp (mskOk msk) h slotV (opRed h msk vd va (fun x => minF x x) minF) s
/-- VREDI (R118): the sum modulo 2^32. -/
def execVredi (h : Hdr) (msk : BitVec 2) (vd va _vb : BitVec 5) (s : State) : Host.Outcome State Fault Refusal :=
  slotOp (mskOk msk) h slotV (opRed h msk vd va id (· + ·)) s

/-- VQPOP (R118, R135): the head of the vector operand queue; zero, OPQ_EMPTY and an abort when it is empty. -/
def execVqpop (h : Hdr) (vd : BitVec 5) (s : State) : Host.Outcome State Fault Refusal :=
  slotOp true h slotV (fun s =>
    let cs := s.actors h
    let s' := s.eachCore h slotV (fun _ k =>
      let e := (s.core k).vqueue.headD []
      { reads := [], effs := [(4, .lanes k vd.toNat ((List.range 64).map (fun l => (l, (e.drop l).headD 0))))] })
    let s' := cs.foldl (fun acc x => acc.modCore x.2 (fun c => { c with vqueue := c.vqueue.drop 1 })) s'
    s'.emptyPops h 1 (cs.filter (fun x => (s.core x.2).vqueue.isEmpty))) s

end Sys2Proof.Machine
end

