-- ==== Sys2Proof/Machine/Convert.lean ====
section
/-!
DEFINITION. The V slot's conversions, accumulator read-out, glowmix, curve tables and top-k trackers (R63 to R65, R79 to R84,
R96 to R99, R59, R102, R120).
-/
namespace Sys2Proof.Machine

/-! ### Conversions -/

/-- Entry `i` of a codebook copy of core `k`: copies 0 held, 1 weight (active), 2 and 3 the shadows (R75). -/
def State.codeEntry (s : State) (k copy i : Nat) : BitVec 16 := SMap.get 0 (s.core k).codebook (256 * copy + i)

/-- The effects of conversions into register `vd`: the lanes, and the flags that any of them sets (R83). -/
def convEffs (lat k vd : Nat) (cs : List (Nat × Conv)) : List (Nat × Eff) :=
  (lat, .lanes k vd (cs.map (fun c => (c.1, BitVec.ofNat 32 c.2.bits)))) ::
    (if cs.any (fun c => c.2.nv || c.2.ovf) then [(lat, .cvtFlags k (cs.any (·.2.nv)) (cs.any (·.2.ovf)))] else [])

/-- CVT (R79 to R83). -/
def execCvt (h : Hdr) (msk : BitVec 2) (vd vs sfmt dfmt : BitVec 5) (rm : BitVec 3) (sat cb : Bool) (s : State) :
    Host.Outcome State Fault Refusal :=
  slotOp (Instr.cvt h msk vd vs sfmt dfmt rm sat cb).wf h slotV (fun s =>
    match Fmt.ofCode sfmt.toNat, Fmt.ofCode dfmt.toNat, RMode.ofCode rm.toNat with
    | some sf, some df, some m => s.eachCore h slotV (fun _ k =>
      { reads := [locV k vs]
        effs := convEffs 4 k vd.toNat ((s.maskLanes k msk).map (fun l =>
          (l, cvtLane sf df m sat (s.codeEntry k (b2n cb)) (s.vlane k vs l).toNat))) })
    | _, _, _ => s) s

/-- CVMX (R84): lanes 0 to 31 are block 0 and lanes 32 to 63 block 1. -/
def execCvmx (h : Hdr) (vd vs vsc dfmt : BitVec 5) (rm : BitVec 3) (s : State) : Host.Outcome State Fault Refusal :=
  slotOp (Instr.cvmx h vd vs vsc dfmt rm).wf h slotV (fun s =>
    match Fmt.ofCode dfmt.toNat, RMode.ofCode rm.toNat with
    | some df, some m => s.eachCore h slotV (fun _ k =>
      let block (b : Nat) := cvmxBlock df m ((List.range 32).map (fun i => s.vlane k vs (32 * b + i)))
      let b0 := block 0
      let b1 := block 1
      { reads := [locV k vs]
        effs := convEffs 4 k vd.toNat ((b0.2 ++ b1.2).zipIdx.map (fun c => (c.2, c.1))) ++
          [(4, .lanes k vsc.toNat ((List.range 64).map (fun l =>
            (l, BitVec.ofNat 32 (if l = 0 then b0.1 else if l = 32 then b1.1 else 0)))))] })
    | _, _ => s) s

/-! ### Read-out -/

/-- ACC_SETCFGs of core `k`, as the slots other than M see it. -/
def State.setCfg (s : State) (k n : Nat) : Word := s.csrAt (accReg k (0x20 + 4 * n))

/-- A set is wide. -/
def cfgWide (c : Word) : Bool := c.getLsbD 0

/-- The exponent L of the least significant bit of a set's grid (R86). -/
def cfgLsb (c : Word) : Int := if cfgWide c then signedN 10 (field c 10 1) - 191 else -48

/-- The width w of a set's entries in bits (R86). -/
def cfgWidth (c : Word) : Nat := if cfgWide c then 256 else 128

/-- Key of an entry in the accumulator file. -/
def accKey (lane n entry : Nat) : Nat := 512 * lane + 64 * n + entry

/-- An event ACC_WIDTH or ACC_ENTRY, once for the operation, naming the lowest core concerned (R52, R362). -/
def State.accEvent (s : State) (h : Hdr) (code n entry : Nat) (cs : List (Nat × Nat)) : State :=
  match cs with
  | [] => s
  | x :: _ => s.raiseTable h.table code clsNote (n + entry <<< 3 + x.1 <<< 9 + h.pc.toNat <<< 15)

/-- The exact value N × 2^L. -/
def gridVal (n lsb : Int) : Val := .fin (decide (n < 0)) n.natAbs lsb

/-- The source value of a read-out (R98). -/
def readoutVal (spec : Bool) (f : BitVec 5) (v : Val) : Val :=
  if spec ∧ (f.getLsbD 2 ∨ (f.getLsbD 3 ∧ f.getLsbD 4)) then .nan
  else if spec ∧ f.getLsbD 3 then .inf false
  else if spec ∧ f.getLsbD 4 then .inf true
  else v

/-- The rounding mode of ARD in a lane: SR takes nibble J of the pair RV, RV + 1 (R97, R99). -/
def State.ardMode (s : State) (k : Nat) (rm : BitVec 3) (j : BitVec 4) (rv : BitVec 5) (l : Nat) : RMode :=
  match RMode.ofCode rm.toNat with
  | some m => m
  | none => .sr (field (s.vlane k (rv + 1) l ++ s.vlane k rv l) (4 * j.toNat + 3) (4 * j.toNat))

/-- ARD (R96 to R99): every lane; an entry above 31 of a wide set gives zero and ACC_ENTRY. A read-out has no saturation
field and converts as with SAT = 0. DEDUCED (assumption 23). -/
def execArd (h : Hdr) (vd : BitVec 5) (aset : BitVec 3) (entry : BitVec 6) (ofmt : BitVec 5) (rm : BitVec 3) (spec : Bool)
    (j : BitVec 4) (rv : BitVec 5) (s : State) : Host.Outcome State Fault Refusal :=
  slotOp (Instr.ard h vd aset entry ofmt rm spec j rv).wf h slotV (fun s =>
    match Fmt.ofCode ofmt.toNat with
    | none => s
    | some df =>
      let n := aset.toNat
      let absent (k : Nat) : Bool := cfgWide (s.setCfg k n) && decide (31 < entry.toNat)
      let s' := s.eachCore h slotV (fun _ k =>
        { reads := Loc.acc k (64 * n + entry.toNat) :: (if rm = 4 then [locV k rv, locV k (rv + 1)] else [])
          effs := convEffs 8 k vd.toNat ((List.range 64).map (fun l =>
            (l, if absent k then ⟨0, false, false⟩ else
              df.convert (s.ardMode k rm j rv l) false
                (readoutVal spec (s.accFlags k n l)
                  (gridVal (SMap.get 0 (s.core k).accV (accKey l n entry.toNat)) (cfgLsb (s.setCfg k n))))))) })
      s'.accEvent h 0x2102 n entry.toNat ((s.actors h).filter (fun x => absent x.2))) s

/-- Word `i` of an entry's raw bits. -/
def rawWord (v : Int) (i : Nat) : Word := BitVec.ofNat 32 (wrapN 256 v >>> (32 * i))

/-- ARDR (R59): 4 registers from a narrow set, 8 from a wide one. -/
def execArdr (h : Hdr) (vd : BitVec 5) (aset : BitVec 3) (entry : BitVec 6) (s : State) :
    Host.Outcome State Fault Refusal :=
  slotOp (Instr.ardr h vd aset entry).wf h slotV (fun s =>
    let n := aset.toNat
    let absent (k : Nat) : Bool := cfgWide (s.setCfg k n) && decide (31 < entry.toNat)
    let s' := s.eachCore h slotV (fun _ k =>
      { reads := [Loc.acc k (64 * n + entry.toNat)]
        effs := (List.range (cfgWidth (s.setCfg k n) / 32)).map (fun i =>
          (8, Eff.lanes k (vd.toNat + i) ((List.range 64).map (fun l =>
            (l, if absent k then 0 else rawWord (SMap.get 0 (s.core k).accV (accKey l n entry.toNat)) i))))) })
    s'.accEvent h 0x2102 n entry.toNat ((s.actors h).filter (fun x => absent x.2))) s

/-! ### glowmix and curve tables -/

/-- GMX (R102). -/
def execGmx (h : Hdr) (msk : BitVec 2) (vd vx : BitVec 5) (seed : BitVec 4) (sstr seb suse : BitVec 5) (s : State) :
    Host.Outcome State Fault Refusal :=
  slotOp (Instr.gmx h msk vd vx seed sstr seb suse).wf h slotV (fun s => s.eachCore h slotV (fun _ k =>
    let key := SMap.get 0 (s.table h.table).seeds seed.toNat
    let ebase : BitVec 64 := s.sreg k (seb + 1) ++ s.sreg k seb
    let draw (l : Nat) : BitVec 64 :=
      glowmix key (s.sreg k sstr) (s.sreg k suse ++ (ebase + (s.vlane k vx l).zeroExtend 64))
    let ls := s.maskLanes k msk
    { reads := [locV k vx, locS k sstr, locS k seb, locS k (seb + 1), locS k suse]
      effs := [(6, .lanes k vd.toNat (ls.map (fun l => (l, (draw l).extractLsb' 0 32)))),
               (6, .lanes k (vd.toNat + 1) (ls.map (fun l => (l, (draw l).extractLsb' 32 32))))] })) s

/-- CURV (R120). -/
def execCurv (h : Hdr) (msk : BitVec 2) (vd va : BitVec 5) (tab : BitVec 3) (s : State) :
    Host.Outcome State Fault Refusal :=
  slotOp (mskOk msk) h slotV (fun s =>
    opLanes h 6 msk vd (fun k => [locV k va]) (fun k l =>
      let c := s.core k
      curvLane (SMap.get 0 c.curveHdr (2 * tab.toNat)) (BitVec.ofNat 8 (SMap.get 0 c.curveHdr (2 * tab.toNat + 1)).toNat)
        (fun i j => SMap.get 0 c.curve (1024 * tab.toNat + 4 * i + j)) (s.vlane k va l)) s) s

/-! ### Top-k trackers -/

/-- TKCFG (R63). -/
def execTkcfg (h : Hdr) (two : Bool) (depth : BitVec 5) (desc int32 : Bool) (s : State) :
    Host.Outcome State Fault Refusal :=
  slotOp (Instr.tkcfg h two depth desc int32).wf h slotV (fun s => s.eachCore h slotV (fun _ k =>
    { reads := [], effs := [(4, .tkcfg k (tkByte two depth.toNat desc int32))] })) s

/-- TKINS (R64). -/
def execTkins (h : Hdr) (msk : BitVec 2) (list : Bool) (vs sidx : BitVec 5) (s : State) :
    Host.Outcome State Fault Refusal :=
  slotOp (mskOk msk) h slotV (fun s => s.eachCore h slotV (fun _ k =>
    { reads := [locV k vs, locS k sidx]
      effs := [(4, .tkins k (b2n list) ((s.maskLanes k msk).map (fun l => (l, s.vlane k vs l))) (s.sreg k sidx))] })) s

/-- A list and rank that the configuration gives the tracker (R63, R65). -/
def tkHas (c : BitVec 8) (list : Bool) (rank : Nat) : Bool := (c.getLsbD 0 || !list) && decide (rank < tkDepth c)

/-- The low word of a free value. -/
def freeWord (n : Nat) : Word := (Config.freeValue n).truncate 32

/-- TKRD (R65). The rank and the list of a configured tracker; the specification states no result for a rank or a list that
the configuration does not give, and the lanes then receive free values (assumption 24). -/
def execTkrd (h : Hdr) (list : Bool) (rank : BitVec 4) (vds vdi : BitVec 5) (s : State) :
    Host.Outcome State Fault Refusal :=
  slotOp (Instr.tkrd h list rank vds vdi).wf h slotV (fun s =>
    let entry (lc k l : Nat) : Word × Word :=
      let c := s.core k
      if tkHas c.tkCfg list rank.toNat then
        ((SMap.get [] c.tk (2 * l + b2n list)).drop rank.toNat).headD (tkEmpty c.tkCfg)
      else (freeWord (s.free + 128 * lc + 2 * l), freeWord (s.free + 128 * lc + 2 * l + 1))
    let s' := s.eachCore h slotV (fun lc k =>
      { reads := []
        effs := [(4, .lanes k vds.toNat ((List.range 64).map (fun l => (l, (entry lc k l).1)))),
                 (4, .lanes k vdi.toNat ((List.range 64).map (fun l => (l, (entry lc k l).2))))] })
    { s' with free := s'.free + 128 * 34 }) s

end Sys2Proof.Machine
end

