-- ==== Sys2Proof/Machine/LaneRow.lean ====
section
/-!
DEFINITION. The M slot and the hold loader (chapters 02 and 04): HLOAD, WARM, MDOT, MCLR, MSETW, MRED and MINJ.
-/
namespace Sys2Proof.Machine

/-! ### Elements in hold halves and weight vectors (R55) -/

/-- The format of a code of R40; none for a reserved code. -/
def laneFmt (c : Nat) : Option Fmt := if c ≤ 10 then Fmt.ofCode c else none

/-- `n` bytes of a sparse byte map from offset `o`, as a number. -/
def bytesAt (m : SMap Byte) (o n : Nat) : Nat := leNat (SMap.bytes m o n)

/-- Element `i` as a hold half holds it from offset `o`: FP6 in 8-bit containers, code8 as binary16 (R39, R55). -/
def heldRaw (m : SMap Byte) (o : Nat) (f : Fmt) (i : Nat) : Nat :=
  match f with
  | .f32 | .i32 => bytesAt m (o + 4 * i) 4
  | .f16 | .bf16 | .c8 => bytesAt m (o + 2 * i) 2
  | .e4m3 | .e5m2 | .i8 => bytesAt m (o + i) 1
  | .e3m2 | .e2m3 => bytesAt m (o + i) 1 % 64
  | .e2m1 | .i4 => (bytesAt m (o + i / 2) 1 >>> (4 * (i % 2))) % 16

/-- Element `i` of a weight vector: FP6 packed, code8 already expanded to binary16 (R39, R67, R77). -/
def packedRaw (m : SMap Byte) (f : Fmt) (i : Nat) : Nat :=
  match f with
  | .e3m2 | .e2m3 => (bytesAt m (3 * (i / 4)) 3 >>> (6 * (i % 4))) % 64
  | _ => heldRaw m 0 f i

/-- The value of a lane element: code8 has been expanded, and INT8 counts in units of 2^-6 when its scale is applied
(R72). -/
def laneVal (f : Fmt) (scaled : Bool) (raw : Nat) : Val :=
  match f with
  | .c8 => Fmt.f16.decode raw
  | .i8 => if scaled then (Fmt.i8.decode raw).scale (-6) else Fmt.i8.decode raw
  | _ => f.decode raw

/-- The exponent of a scale byte; none for the NaN scale (R73). -/
def scaleExp (e : Byte) : Option Int := if e = 0xFF then none else some ((e.toNat : Int) - 127)

/-- One element of an operand: its bits, its value, and its block's exponent, 0 when no scale is applied. -/
structure Elem where
  raw : Nat
  val : Val
  exp : Option Int

/-- Element `i` of an operand given by its bits and its scales. -/
def elem (f : Fmt) (scaled : Bool) (raw : Nat → Nat) (scale : Nat → Byte) (i : Nat) : Elem :=
  ⟨raw i, laneVal f scaled (raw i), if scaled then scaleExp (scale (i / 32)) else some 0⟩

/-! ### Terms and entries (R56, R87, R90) -/

/-- The term of a mode (R56). -/
def term (mode : Nat) (f : Fmt) (h w : Elem) : Val :=
  match mode with
  | 0 =>
    match h.exp, w.exp with
    | some a, some b => (h.val.mul w.val).scale (a + b)
    | _, _ => .nan
  | 1 =>
    match h.val.add w.val.neg with
    | .nan => .nan
    | .inf _ => .inf false
    | .fin _ m e => .fin false m e
  | 2 => let d := h.val.add w.val.neg; d.mul d
  | 5 => .fin false (f.bits - popCount f.bits (h.raw ^^^ w.raw)) 0
  | _ => h.val.add w.val

/-- The grid of a set: width, exponent of the least significant bit, and log2 of the term limit in its units (R86). -/
structure Grid where
  width : Nat
  lsb   : Int
  limit : Nat

/-- The grid of a set's configuration word: P - L is 96 for a narrow set and 192 for a wide one. -/
def gridOf (cfg : Word) : Grid := ⟨cfgWidth cfg, cfgLsb cfg, if cfgWide cfg then 192 else 96⟩

/-- +MAX of a set (R57). -/
def Grid.top (g : Grid) : Int := (2 ^ (g.width - 1) : Nat) - 1

/-- The start value of an MCLR VAL or of a reduction: zero, +MAX or -MAX (R57, R58). -/
def Grid.start (g : Grid) (v : Nat) : Int := if v = 0 then 0 else if v = 1 then g.top else -g.top

/-- The start value of a term mode (R56). -/
def modeStart (mode : Nat) : Nat := if mode = 3 then 1 else if mode = 4 then 2 else 0

/-- Sticky flags, as bits (R91). -/
def flagOvf : BitVec 5 := 1
def flagLoss : BitVec 5 := 2
def flagNan : BitVec 5 := 4
def flagPinf : BitVec 5 := 8
def flagNinf : BitVec 5 := 16

/-- A term placed on the grid: the multiple accepted, if any, and the flags set (R87, R90). -/
def Grid.place (g : Grid) (mode : Nat) (v : Val) : Option Int × BitVec 5 :=
  match v with
  | .nan => (none, flagNan)
  | .inf neg => (none, if neg then (if mode = 4 then 0 else flagNinf) else (if mode = 3 then 0 else flagPinf))
  | .fin neg m e =>
    let n := roundTo .rne neg m e g.lsb
    let loss : BitVec 5 := if e < g.lsb ∧ m % 2 ^ (g.lsb - e).toNat ≠ 0 then flagLoss else 0
    if 2 ^ g.limit ≤ n then (none, loss ||| flagOvf)
    else (some (if neg then -(n : Int) else n), loss)

/-- How accepted multiples combine: a sum, a minimum or a maximum. -/
def combine (rop : Nat) (a b : Int) : Int :=
  match rop with
  | 1 => if b < a then b else a
  | 2 => if a < b then b else a
  | _ => a + b

/-- An entry after a step of `mode` over the terms `ts`: its new value and the flags set (R56, R87). -/
def Grid.step (g : Grid) (mode : Nat) (zero : Bool) (cur : Int) (ts : List Val) : Int × BitVec 5 :=
  let ps := ts.map (g.place mode)
  let base := if zero then g.start (modeStart mode) else cur
  (wrapS g.width ((ps.filterMap (·.1)).foldl (combine (modeStart mode)) base), ps.foldl (fun f p => f ||| p.2) 0)

/-! ### The M-slot view of the accumulator file (R51) -/

/-- ACC_SETCFGs of core `k` as M-slot operations see it. -/
def State.setCfgM (s : State) (k n : Nat) : Word := SMap.get 0 (s.core k).cfgM n

/-- An entry as M-slot operations see it. -/
def State.accM (s : State) (k l n e : Nat) : Int := SMap.get 0 (s.core k).accM (accKey l n e)

/-- The entry does not exist in a set of this configuration (R52). -/
def entryAbsent (cfg : Word) (e : Nat) : Bool := cfgWide cfg && decide (31 < e)

/-- New entries and flags of core `k`, seen by M-slot operations at once and by the other slots after `lat` cycles. -/
def State.putAcc (s : State) (h : Hdr) (checked : Bool) (lat k : Nat) (es : List (Nat × Int)) (fs : List (Nat × BitVec 5)) :
    State :=
  let fs := fs.filter (fun f => f.2 != 0)
  ((s.modCore k (fun c => { c with accM := SMap.setAll 0 c.accM es })).post h.table slotM h.pc checked
    ((if es.isEmpty then [] else [(lat, .acc k es)]) ++ (if fs.isEmpty then [] else [(lat, .accFlags k fs)]))).busyFor h.table lat

/-! ### The weight operand (R49, R77) -/

/-- The bytes of a weight vector expanded from code8 indices through the active weight codebook of core `k`. -/
def State.expand (s : State) (k : Nat) (v : WVec) : WVec :=
  { v with bytes := SMap.setAll 0 [] ((List.range 32).flatMap (fun i =>
      let e := (s.codeEntry k 1 (SMap.get 0 v.bytes i).toNat).toNat
      [(2 * i, BitVec.ofNat 8 e), (2 * i + 1, BitVec.ofNat 8 (e >>> 8))])) }

/-- A consuming MDOT of weight format `wf` in core `k`: the vector goes to the weight operand register, and the next one is
read unless the MDOT is early or the streamer is disarmed (R49). -/
def State.consume (s : State) (h : Hdr) (wf lc k : Nat) : State × List AccFault :=
  let w := (s.core k).streamer
  let v := if w.armed then SMap.get WVec.zero w.fifo w.head else WVec.zero
  let v := if wf = 10 then s.expand k v else v
  let put (s : State) (f : Streamer → Streamer) : State :=
    s.modCore k (fun c => { c with streamer := f { c.streamer with operand := v } })
  if w.armed ∧ ¬ w.warming then
    let r := s.streamRead h.table h.pc lc k w.nextN w.desc
    (put r.2.1 (fun x => { x with fifo := SMap.set WVec.zero x.fifo x.head r.1, head := (x.head + 1) % 8,
                                  nextN := x.nextN + 1 }), r.2.2)
  else (put s id, [])

/-! ### MDOT -/

/-- The grid that an operand pair needs is wide (R41). -/
def pairWide (h w : Nat) : Bool := h == 0 || h == 2 || w == 0 || w == 2

/-- Scale byte `b` of hold half `half` of lane `l`. -/
def State.holdScale (s : State) (k half l b : Nat) : Byte := SMap.get 0x7F (s.core k).scale (256 * half + 4 * l + b)

/-- The operands of lane `l` in step `i`: held, and streamed or from the other half (R54, R66). -/
def State.mdotElems (s : State) (k : Nat) (o : MdotOp) (hf wf : Fmt) (l i : Nat) : Elem × Elem :=
  let c := s.core k
  let hs := b2n o.hsel
  let part := if hf = .f32 ∧ o.part then 8 else 0
  let held (half : Nat) (f : Fmt) (scaled : Bool) : Elem :=
    elem f scaled (fun i => heldRaw c.hold (4096 * half + 64 * l) f (part + i)) (s.holdScale k half l) i
  (held hs hf o.hscl,
   if o.src then held (1 - hs) wf o.wscl
   else elem wf o.wscl (packedRaw c.streamer.operand.bytes wf) (fun b => SMap.get 0x7F c.streamer.operand.scales b) i)

/-- The step of an MDOT in one lane: the entry's new value and the flags set. -/
def State.mdotLane (s : State) (k : Nat) (o : MdotOp) (hf wf : Fmt) (l : Nat) : Int × BitVec 5 :=
  (gridOf (s.setCfgM k o.aset.toNat)).step o.mode.toNat o.zero (s.accM k l o.aset.toNat o.entry.toNat)
    ((List.range (o.klen.toNat + 1)).map (fun i =>
      let e := s.mdotElems k o hf wf l i
      term o.mode.toNat hf e.1 e.2))

/-- MDOT in core `k`: every unmasked lane steps. -/
def State.mdotCore (s : State) (h : Hdr) (o : MdotOp) (hf wf : Fmt) (k : Nat) : State :=
  let n := o.aset.toNat
  let e := o.entry.toNat
  let ls := s.maskLanes k o.msk
  let r := ls.map (fun l => (l, s.mdotLane k o hf wf l))
  let pairs := (ls.map (· / 2)).eraseDups
  let s := s.noteReads h.table slotM h.pc
    (pairs.map (.hold k · (b2n o.hsel)) ++ if o.src then pairs.map (.hold k · (1 - b2n o.hsel)) else [])
  (s.noteMReads h.table true (if o.zero then [] else [.acc k (64 * n + e)])).putAcc h true 6 k
    (r.map (fun x => (accKey x.1 n e, x.2.1))) (r.map (fun x => (64 * n + x.1, x.2.2)))

/-- MDOT (R49, R52, R54 to R56, R87 to R90). The M slot is not guarded (R114). An MDOT can meet both a width that does not fit and an
absent entry; each raises its own event. -/
def execMdot (h : Hdr) (o : MdotOp) (s : State) : Host.Outcome State Fault Refusal :=
  slotOp o.wf h slotM (fun s =>
    match laneFmt o.hfmt.toNat, laneFmt o.wfmt.toNat with
    | some hf, some wf =>
      let cs := s.opCores h
      let r := if o.src || o.wrep then (s, []) else
        cs.foldl (fun (acc : State × List AccFault) x =>
          let c := acc.1.consume h o.wfmt.toNat x.1 x.2
          (c.1, acc.2 ++ c.2)) (s, [])
      let s := r.1.accFaults h.table true r.2
      let n := o.aset.toNat
      let mismatch (k : Nat) : Bool := pairWide o.hfmt.toNat o.wfmt.toNat != cfgWide (s.setCfgM k n)
      let absent (k : Nat) : Bool := entryAbsent (s.setCfgM k n) o.entry.toNat
      let ok := cs.filter (fun x => !mismatch x.2 && !absent x.2)
      let s' := ok.foldl (fun acc x => acc.mdotCore h o hf wf x.2) s
      (s'.accEvent h 0x2101 n o.entry.toNat (cs.filter (fun x => mismatch x.2))).accEvent h 0x2102 n o.entry.toNat
        (cs.filter (fun x => absent x.2))
    | _, _ => s) s

/-! ### MCLR, MSETW, MRED, MINJ -/

/-- MCLR (R52, R57). DESIGN CHOICE (assumption 49): of several absent entries in the range, DETAIL names the lowest. -/
def execMclr (h : Hdr) (val : BitVec 2) (aset : BitVec 3) (first last : BitVec 6) (msk : BitVec 2) (s : State) :
    Host.Outcome State Fault Refusal :=
  slotOp (Instr.mclr h val aset first last msk).wf h slotM (fun s =>
    let n := aset.toNat
    let cs := s.opCores h
    let entries (k : Nat) : List Nat := ((List.range 64).filter (fun e =>
      decide (first.toNat ≤ e) && decide (e ≤ last.toNat) && !entryAbsent (s.setCfgM k n) e))
    let s' := cs.foldl (fun acc x => acc.putAcc h false 2 x.2
      ((s.maskLanes x.2 msk).flatMap (fun l => (entries x.2).map (fun e =>
        (accKey l n e, (gridOf (s.setCfgM x.2 n)).start val.toNat)))) []) s
    s'.accEvent h 0x2102 n (max first.toNat 32) (cs.filter (fun x => entryAbsent (s.setCfgM x.2 n) last.toNat))) s

/-- The word of ACC_SETCFGs (R91): WIDE and ANCHOR. -/
def setCfgWord (wide : Bool) (anchor : BitVec 10) : Word := BitVec.ofNat 32 (b2n wide + 2 * anchor.toNat)

/-- MSETW (R57, R91): the entries of all lanes and the flags of the set are cleared, whatever the masks. -/
def execMsetw (h : Hdr) (aset : BitVec 3) (wide : Bool) (anchor : BitVec 10) (s : State) :
    Host.Outcome State Fault Refusal :=
  slotOp (Instr.msetw h aset wide anchor).wf h slotM (fun s =>
    let n := aset.toNat
    let cfg := setCfgWord wide anchor
    (s.opCores h).foldl (fun acc x =>
      (acc.modCore x.2 (fun c => { c with
        cfgM := SMap.set 0 c.cfgM n cfg, accM := c.accM.filter (fun kv => !(kv.1 / 64 % 8 == n)) })).post
        h.table slotM h.pc false [(2, .accClear x.2 n cfg)]) s) s

/-- The new entries of an MRED over the contributing lanes `dl :: ls` (R58). -/
def State.mredEntries (s : State) (k n e d : Nat) (keep : Bool) (rop dl : Nat) (ls : List Nat) : List (Nat × Int) :=
  let g := gridOf (s.setCfgM k n)
  if entryAbsent (s.setCfgM k n) e then [] else
  let sum := wrapS g.width (ls.foldl (fun a l => combine rop a (s.accM k l n e)) (s.accM k dl n e))
  (if keep then [] else ls.map (fun l => (accKey l n e, g.start rop))) ++
    (if entryAbsent (s.setCfgM k n) d then [] else [(accKey dl n d, sum)])

/-- MRED (R52, R58, R91). DESIGN CHOICE (assumption 49): where ENTRY and DENTRY are both absent, DETAIL names ENTRY. -/
def execMred (h : Hdr) (aset : BitVec 3) (entry dentry : BitVec 6) (msk : BitVec 2) (keep : Bool) (rop : BitVec 2)
    (s : State) : Host.Outcome State Fault Refusal :=
  slotOp (Instr.mred h aset entry dentry msk keep rop).wf h slotM (fun s =>
    let n := aset.toNat
    let e := entry.toNat
    let d := dentry.toNat
    let cs := s.opCores h
    let s' := cs.foldl (fun acc x =>
      match s.maskLanes x.2 msk with
      | [] => acc.busyFor h.table 10
      | dl :: ls =>
        let flags := ls.foldl (fun f l => f ||| s.accFlagsM h.table x.2 n l) 0
        (acc.noteMReads h.table (!keep) [.acc x.2 (64 * n + e)]).putAcc h true 10 x.2
          (s.mredEntries x.2 n e d keep rop.toNat dl ls) [(64 * n + dl, flags)]) s
    s'.accEvent h 0x2102 n (if 31 < e then e else d)
      (cs.filter (fun x => entryAbsent (s.setCfgM x.2 n) e || entryAbsent (s.setCfgM x.2 n) d))) s

/-- The raw value in `n` consecutive vector registers from `v` on, in one lane (R59). -/
def State.rawValue (s : State) (k : Nat) (v : BitVec 5) (n l : Nat) : Nat :=
  leWords ((List.range n).map (fun j => s.vlane k (v + BitVec.ofNat 5 j) l))
where
  /-- Words, least significant first, as one number. -/
  leWords : List Word → Nat
    | [] => 0
    | w :: rest => w.toNat + 2 ^ 32 * leWords rest

/-- MINJ (R52, R59). -/
def execMinj (h : Hdr) (aset : BitVec 3) (entry : BitVec 6) (vsrc : BitVec 5) (msk : BitVec 2) (s : State) :
    Host.Outcome State Fault Refusal :=
  slotOp (Instr.minj h aset entry vsrc msk).wf h slotM (fun s =>
    let n := aset.toNat
    let e := entry.toNat
    let cs := s.opCores h
    let s' := (cs.filter (fun x => !entryAbsent (s.setCfgM x.2 n) e)).foldl (fun acc x =>
      let k := x.2
      let w := (gridOf (s.setCfgM k n)).width
      let acc := acc.noteReads h.table slotM h.pc ((List.range (w / 32)).map (fun j => locV k (vsrc + BitVec.ofNat 5 j)))
      (acc.noteMReads h.table true [.acc k (64 * n + e)]).putAcc h true 6 k
        ((s.maskLanes k msk).map (fun l =>
          (accKey l n e, wrapS w (s.accM k l n e + s.rawValue k vsrc (w / 32) l)))) []) s
    s'.accEvent h 0x2102 n e (cs.filter (fun x => entryAbsent (s.setCfgM x.2 n) e))) s

/-! ### WARM -/

/-- WARM (R49, R57): the descriptor is taken as it stands, and vector 0 will be the next consumed, from slot 0. Until the
vectors are visible the slots keep what they held. DEDUCED (assumption 25). -/
def execWarm (h : Hdr) (desc : BitVec 2) (off : Bool) (s : State) : Host.Outcome State Fault Refusal :=
  slotOp true h slotM (fun s =>
    (s.opCores h).foldl (fun acc x =>
      let d := BitVec.ofNat 128 (s.csrWide (coreReg x.2 (0x300 + 0x10 * desc.toNat)) 4)
      acc.modCore x.2 (fun c => { c with streamer :=
        if off then { c.streamer with armed := false, warming := false, land := [] }
        else { c.streamer with
          armed := true, desc := d, head := 0, nextN := 8, warming := true, warmCyc := s.cyc h.table, land := [] } }))
      (if off then s else s.modTable h.table (fun b => { b with busyUntil := Nat.max b.busyUntil (s.cyc h.table + 8) }))) s

/-! ### HLOAD (R42 to R47, R154) -/

/-- Memory bytes of a hold fill per lane (R39); 64 for a reserved code (R55). -/
def holdChunk (f : Nat) : Nat := if f = 5 ∨ f = 6 then 48 else if f = 10 then 32 else 64

/-- A field read as another value when it is zero. -/
def orElse0 (v d : Nat) : Nat := if v = 0 then d else v

/-- The lane's source in a fill of descriptor `d` in state `st`: none when padded, otherwise the byte offset of its first
element from BASE (R47). -/
def holdOff (d : BitVec 256) (st : Word) (l : Nat) : Option Int :=
  let lx := if field d 182 176 = 0 ∨ 64 < field d 182 176 then 64 else field d 182 176
  let ix := wrapS 32 (((field d 163 152 + l % lx) * orElse0 (field d 195 192) 1 + field st 8 5 * orElse0 (field d 203 200) 1 : Nat)
    - (field d 211 208 : Int))
  let iy := wrapS 32 (((field d 175 164 + l / lx) * orElse0 (field d 199 196) 1 + field st 12 9 * orElse0 (field d 207 204) 1 : Nat)
    - (field d 215 212 : Int))
  if ix < 0 ∨ (orElse0 (field d 139 128) 4096 : Int) ≤ ix ∨ iy < 0 ∨ (orElse0 (field d 151 140) 4096 : Int) ≤ iy then none
  else some (wrapS 32 (field d 47 40 * field d 82 64 + iy * field d 101 83 + ix * field d 120 102 +
    field st 24 13 * holdChunk (field d 51 48)))

/-- An address plus a signed offset, modulo 2^19 (R143). -/
def spdOffset (base : Nat) (off : Int) : Nat := wrapN 19 (base + off)

/-- The data bytes of a fill that byte `b` of a hold half is made of, as offsets from the lane's first byte. -/
def holdSources (f : Fmt) (b : Nat) : List Nat :=
  match f with
  | .f32 | .i32 => (List.range 4).map (4 * (b / 4) + ·)
  | .f16 | .bf16 => (List.range 2).map (2 * (b / 2) + ·)
  | .e3m2 | .e2m3 => ((List.range 2).map (6 * b / 8 + ·)).filter (fun o => decide (8 * o < 6 * b + 6))
  | .c8 => [b / 2]
  | _ => [b]

/-- Byte `b` of a hold half after a fill: `get` reads the data, and `bad` marks faulting bytes, whose elements are +0. -/
def State.holdByte (s : State) (k : Nat) (f : Fmt) (get : Nat → Byte) (bad : Nat → Bool) (b : Nat) : Byte :=
  if (holdSources f b).any bad then 0 else
  match f with
  | .e3m2 | .e2m3 =>
    let o := 3 * (b / 4)
    BitVec.ofNat 8 ((leNat [get o, get (o + 1), get (o + 2)] >>> (6 * (b % 4))) % 64)
  | .c8 => BitVec.ofNat 8 ((s.codeEntry k 0 (get (b / 2)).toNat).toNat >>> (8 * (b % 2)))
  | _ => get b

/-- What a fill gives one lane: the 64 bytes of the half and the 4 bytes of its scale field. -/
structure LaneFill where
  bytes  : List Byte
  scales : List Byte

/-- A lane that reads nothing: zero bytes, scales 2^0. -/
def LaneFill.pad : LaneFill := ⟨List.replicate 64 0, List.replicate 4 0x7F⟩

/-- The read of one lane's fill by core `k` (logical `lc`). Bytes outside the window give +0 elements and scales 0x7F
(R154); a fill that touches an entry not HELD gives zeros (R222). Offsets from 64 on stand for the scales. -/
def State.holdLane (s : State) (t : Nat) (pc : BitVec 17) (lc k : Nat) (d : BitVec 256) (f : Fmt) (off : Int) :
    LaneFill × State × List AccFault :=
  let code := field d 51 48
  let sc := blockScales code
  let addr (o : Nat) : Nat :=
    if o < 64 then spdOffset (field d 18 0) (off + o)
    else spdOffset (field d 37 19) (off / (4 * sc.2 : Nat) + ((o - 64 : Nat) : Int))
  let offs := List.range (holdChunk code) ++ (List.range sc.1).map (64 + ·)
  let bad (o : Nat) : Bool := decide (s.spdBound t ≤ addr o)
  let good := offs.filter (fun o => !bad o)
  let fault := (offs.find? bad).toList.map (fun o => AccFault.bound lc (addr o))
  match s.misuseOf k (good.map addr) with
  | some m => (⟨List.replicate 64 0, List.replicate sc.1 0 ++ List.replicate (4 - sc.1) 0x7F⟩, s,
      fault ++ [.misuse lc m.1 m.2 1])
  | none =>
    let r := s.spdFetch t slotL pc lc k 0 (good.map addr)
    let got := good.zip r.1
    let get (o : Nat) : Byte := (got.lookup o).getD 0
    (⟨(List.range 64).map (s.holdByte k f get bad),
      (List.range 4).map (fun b => if sc.1 ≤ b ∨ bad (64 + b) then 0x7F else get (64 + b))⟩, r.2.1, fault ++ r.2.2)

/-- The descriptor state after an HLOAD (R42, R46). -/
def holdAdvance (d : BitVec 256) (st : Word) (adv : Bool) : Word :=
  let p := (field st 4 0 + 1) % 32
  let kx := field st 8 5
  let ky := field st 12 9
  let cc := field st 24 13
  let (cc', kx', ky') :=
    if ¬ adv ∨ p ≠ 0 then (cc, kx, ky)
    else if cc + 1 < orElse0 (field d 235 224) 4096 then (cc + 1, kx, ky)
    else if kx + 1 < orElse0 (field d 219 216) 1 then (0, kx + 1, ky)
    else if ky + 1 < orElse0 (field d 223 220) 1 then (0, 0, ky + 1)
    else (0, 0, 0)
  BitVec.ofNat 32 (packBits [(5, p), (4, kx'), (4, ky'), (12, cc')])

/-- DESIGN CHOICE (assumption 50): HLOAD has no lane mask, since its field map (R121) has none. HLOAD in core `k`: lanes 2p and 2p + 1 of the half are filled and the descriptor state advances. -/
def State.hloadCore (s : State) (h : Hdr) (n half : Nat) (adv : Bool) (lc k : Nat) : State × List AccFault :=
  let d := BitVec.ofNat 256 (s.csrWide (coreReg k (0x200 + 0x20 * n)) 8)
  let st := s.csrAt (coreReg k (0x280 + 4 * n))
  let p := field st 4 0
  let lane (acc : State × List AccFault) (l : Nat) : State × List AccFault :=
    let r := match laneFmt (field d 51 48), holdOff d st l with
      | some f, some off => acc.1.holdLane h.table h.pc lc k d f off
      | _, _ => (LaneFill.pad, acc.1, [])
    (r.2.1.post h.table slotL h.pc true [(5, .hold k
      (r.1.bytes.zipIdx.map (fun b => (4096 * half + 64 * l + b.2, b.1)))
      (r.1.scales.zipIdx.map (fun b => (256 * half + 4 * l + b.2, b.1))))], acc.2 ++ r.2.2)
  let r := lane (lane (s, []) (2 * p)) (2 * p + 1)
  (r.1.setCsr (coreReg k (0x280 + 4 * n)) (holdAdvance d st adv), r.2)

/-- HLOAD (R42 to R47). -/
def execHload (h : Hdr) (desc : BitVec 2) (half adv : Bool) (s : State) : Host.Outcome State Fault Refusal :=
  slotOp true h slotL (fun s =>
    let r := (s.actors h).foldl (fun (acc : State × List AccFault) x =>
      let c := acc.1.hloadCore h desc.toNat (b2n half) adv x.1 x.2
      (c.1, acc.2 ++ c.2)) (s, [])
    (r.1.busyFor h.table 5).accFaults h.table false r.2) s

end Sys2Proof.Machine
end

