-- ==== Sys2Proof/Machine/Tiers.lean ====
section
/-!
DEFINITION. The external tiers as address spaces (R209 to R212, R216): maps, windows, absent channels and holes.
-/
namespace Sys2Proof.Machine

/-- Size of the near tier: 1,280 GiB (R209). -/
def hbmSize : Nat := 0x14000000000

/-- Stack and channel of an HBM address (R210). -/
def hbmMap (a : Nat) : Nat × Nat :=
  let g := a / 256
  let c := (g ^^^ (g >>> 9) ^^^ (g >>> 18)) % 512
  (c / 32, c % 32)

/-- The channel address of an HBM address (R210). -/
def hbmChanAddr (a : Nat) : Nat := a / 256 / 512 * 256 + a % 256

/-- Size of the far tier: n × MSIZE (R211). -/
def MemSys.ddrSize (m : MemSys) : Nat := m.population.length * m.msize

/-- Channel and channel address of a far-tier address; none where it is absent (R211). -/
def MemSys.ddrMap (m : MemSys) (a : Nat) : Option (Nat × Nat) :=
  if m.ddrSize ≤ a then none else
  let n := m.population.length
  let g := a / 4096
  ((m.population.drop (g % n)).head?).map (fun ch => (ch, g / n * 4096 + a % 4096))

/-- The far-tier address is absent or lies in a hole (R211, R212). -/
def MemSys.ddrGone (m : MemSys) (a : Nat) : Bool :=
  match m.ddrMap a with
  | none => true
  | some (ch, _) => m.holes.contains ch

/-- The HBM address lies on a channel that is lost without a spare, or past the tier's end (R372). -/
def MemSys.hbmGone (m : MemSys) (a : Nat) : Bool := decide (hbmSize ≤ a) || m.lost.contains (hbmMap a)

/-- A tier address that reaches no memory (R134). -/
def MemSys.gone (m : MemSys) (tier : Tier) (a : Nat) : Bool :=
  match tier with
  | .hbm => m.hbmGone a
  | .ddr => m.ddrGone a

/-- Block base of a tier's registers. -/
def tierBlock (tier : Tier) : Nat := match tier with | .hbm => hbmBase | .ddr => ddrBase

/-- The address of a tier's window group of table `t` (R216). -/
def winReg (tier : Tier) (t off : Nat) : Nat := tierBlock tier + 0x1000 + 0x20 * t + off

/-- Base and bound of a task's tier window. -/
def State.winBase (s : State) (tier : Tier) (t : Nat) : Nat := s.csrWide (winReg tier t 0) 2
def State.winBound (s : State) (tier : Tier) (t : Nat) : Nat := s.csrWide (winReg tier t 8) 2

/-- A place in a tier. -/
def tierPlace (tier : Tier) (a : Nat) : Place := match tier with | .hbm => .hbm a | .ddr => .ddr a

/-- The event of an operation on an absent unit (R134, R362). -/
def State.absentUnit (s : State) (t slot opcode kind unit : Nat) (pc : BitVec 17) : State :=
  s.raiseTable t 0x1040 clsNote (packBits [(3, slot), (6, opcode), (3, kind), (16, unit), (17, pc.toNat)])

end Sys2Proof.Machine
end

