-- ==== Sys2Proof/Machine/Load.lean ====
section
/-!
DEFINITION. The L slot's loads (R76, R120, R121, R143 to R146, R151): CBLOAD, CTLOAD, LDV, LDS, GTH and SHLD.
-/
namespace Sys2Proof.Machine

/-! ### Operand forms of scratchpad accesses -/

/-- (s[SA] + OFF) modulo 2^19, with its low `k` bits zero (R121). -/
def State.opAddr (s : State) (k : Nat) (sa : BitVec 5) (off : BitVec 19) (low : Nat) : Nat :=
  alignDown low (spdAddr ((s.sreg k sa).toNat + off.toNat))

/-- Bytes of a vector access by W (R121). -/
def widthBytes (w : Nat) : Nat := match w with | 0 => 32 | 1 => 48 | 2 => 64 | _ => 128

/-- Element bits by W (R121). -/
def widthBits (w : Nat) : Nat := match w with | 0 => 4 | 1 => 6 | 2 => 8 | 3 => 16 | _ => 32

/-- Lanes of a vector access by W, in element order (R121). -/
def widthLanes (w : Nat) : List Nat :=
  match w with
  | 4 => List.range 32
  | 5 => (List.range 32).map (32 + ·)
  | _ => List.range 64

/-- The byte addresses of a vector access in the order of its packed image: one run, or pieces of 4 B at steps of `stride`
(R143, R144). -/
def vecAddrs (w mode a stride : Nat) : List Nat :=
  if mode = 0 then spdSpan a (widthBytes w)
  else (List.range (widthBytes w / 4)).flatMap (fun j => spdSpan (a + j * stride) 4)

/-- The element of the packed image that the `l`-th lane of the access takes (R144): in transposing mode element l div P of
piece l mod P. -/
def vecElem (w mode l : Nat) : Nat :=
  if mode = 2 then
    let p := widthBytes w / 4
    l % p * (32 / widthBits w) + l / p
  else l

/-- The stride of a vector access: s[SB] with its low 2 bits zero. -/
def State.opStride (s : State) (k : Nat) (mode : BitVec 2) (sb : BitVec 5) : Nat :=
  if mode = 0 then 0 else alignDown 2 (s.sreg k sb).toNat

/-- The addresses of an LDV or STV in core `k`. -/
def State.opVecAddrs (s : State) (k : Nat) (w : BitVec 3) (mode : BitVec 2) (sa sb : BitVec 5) (off : BitVec 19) : List Nat :=
  vecAddrs w.toNat mode.toNat (s.opAddr k sa off 2) (s.opStride k mode sb)

/-- Latency of an LDV or LDS: that of the farthest class of the banks it reads (R115, R140). -/
def classLat (as : List Nat) : Nat :=
  as.foldl (fun m a => Nat.max m (if bankOf a < 4 then 3 else if bankOf a < 12 then 4 else 5)) 3

/-- A load of each acting core through read port 0: `as` gives its addresses and `eff` the effect of its bytes, none if the
load is without effect. -/
def State.eachLoad (s : State) (h : Hdr) (reads : Nat → List Loc) (as : Nat → List Nat)
    (eff : State → Nat → List Byte → Option AccFault → List (Nat × Eff)) : State :=
  let r := (s.actors h).foldl (fun (acc : State × List AccFault) x =>
    let k := x.2
    let r := (acc.1.noteReads h.table slotL h.pc (reads k)).spdRead h.table slotL h.pc x.1 k 0 (as k)
    (r.2.1.post h.table slotL h.pc true (eff s k r.1 (s.accessFault h.table x.1 k (as k))), acc.2 ++ r.2.2)) (s, [])
  (r.1.busyWith h.table ((s.opCores h).flatMap (fun x => eff s x.2 [] none))).accFaults h.table false r.2

/-- The words that a vector load gives the lanes (R67, R68). -/
def loadLanes (w mode : Nat) (bs : List Byte) : List (Nat × Word) :=
  let v := leNat bs
  let n := widthBits w
  (widthLanes w).zipIdx.map (fun x => (x.1, BitVec.ofNat 32 ((v >>> (n * vecElem w mode x.2)) % 2 ^ n)))

/-- LDV (R121, R143, R144). -/
def execLdv (h : Hdr) (vd : BitVec 5) (w : BitVec 3) (mode : BitVec 2) (sa sb : BitVec 5) (off : BitVec 19) (s : State) :
    Host.Outcome State Fault Refusal :=
  slotOp (ldvOk w mode sb) h slotL (fun s =>
    let as (k : Nat) : List Nat := s.opVecAddrs k w mode sa sb off
    s.eachLoad h (fun k => locS k sa :: (if mode = 0 then [] else [locS k sb])) as
      (fun _ k bs _ => [(classLat (as k), .lanes k vd.toNat (loadLanes w.toNat mode.toNat bs))])) s

/-- LDS (R121). -/
def execLds (h : Hdr) (sd sa : BitVec 5) (off : BitVec 19) (s : State) : Host.Outcome State Fault Refusal :=
  slotOp true h slotL (fun s =>
    let as (k : Nat) : List Nat := spdSpan (s.opAddr k sa off 2) 4
    s.eachLoad h (fun k => [locS k sa]) as
      (fun _ k bs _ => [(classLat (as k), .sreg k sd.toNat (BitVec.ofNat 32 (leNat bs)))])) s

/-- CBLOAD (R76): a codebook whose load fails its window check is left unchanged. R154 says that such a load delivers zeros;
the rule of the operation itself is taken (assumption 26). -/
def execCbload (h : Hdr) (book : Bool) (q : BitVec 2) (commit : Bool) (sa : BitVec 5) (off : BitVec 19) (s : State) :
    Host.Outcome State Fault Refusal :=
  slotOp true h slotL (fun s =>
    s.eachLoad h (fun k => [locS k sa]) (fun k => spdSpan (s.opAddr k sa off 7) 128)
      (fun _ k bs f =>
        match f with
        | some (.bound ..) => []
        | _ => [(5, .codebook k book q.toNat ((List.range 64).map (fun i => BitVec.ofNat 16 (rdLe bs (2 * i) 2))) commit)])) s

/-- The words that CTLOAD places: keys of `Core.curve`, or from 0x10000 on of `Core.curveHdr` (R120, R121). -/
def curveWords (tab grp : Nat) (bs : List Byte) : List (Nat × Word) :=
  if grp = 32 then
    [(0x10000 + 2 * tab, BitVec.ofNat 32 (rdLe bs 0 4)), (0x10000 + 2 * tab + 1, BitVec.ofNat 32 (rdLe bs 4 1))]
  else (List.range 32).map (fun i => (1024 * tab + 32 * grp + i, BitVec.ofNat 32 (rdLe bs (4 * i) 4)))

/-- CTLOAD (R120, R121). -/
def execCtload (h : Hdr) (tab : BitVec 3) (grp : BitVec 6) (sa : BitVec 5) (off : BitVec 19) (s : State) :
    Host.Outcome State Fault Refusal :=
  slotOp (Instr.ctload h tab grp sa off).wf h slotL (fun s =>
    s.eachLoad h (fun k => [locS k sa]) (fun k => spdSpan (s.opAddr k sa off 7) 128)
      (fun _ k bs _ => [(5, .curve k (curveWords tab.toNat grp.toNat bs))])) s

/-! ### GTH (R145, R154) -/

/-- The address of a gather's element in lane `l`: aligned to the element of 2^w bytes. -/
def State.gthAddr (s : State) (k : Nat) (sa vo : BitVec 5) (w l : Nat) : Nat :=
  alignDown w (spdAddr ((s.sreg k sa).toNat + (s.vlane k vo l).toNat))

/-- GTH in core `k`: each unmasked lane is an access of its own; a failing one delivers zero. -/
def State.gthCore (s : State) (h : Hdr) (vd vo sa : BitVec 5) (w msk : BitVec 2) (lc k : Nat) : State × List AccFault :=
  let s := s.noteReads h.table slotL h.pc [locV k vo, locS k sa]
  let n := 2 ^ w.toNat
  let ls := s.maskLanes k msk
  let span (l : Nat) : List Nat := spdSpan (s.gthAddr k sa vo w.toNat l) n
  let bad := ls.filterMap (fun l => s.accessFault h.table lc k (span l))
  let good := ls.filter (fun l => (s.accessFault h.table lc k (span l)).isNone)
  let r := s.spdFetch h.table slotL h.pc lc k 0 (good.flatMap span)
  let vals := good.zipIdx.map (fun x => (x.1, BitVec.ofNat 32 (rdLe r.1 (n * x.2) n)))
  (r.2.1.post h.table slotL h.pc true [(16, .lanes k vd.toNat (ls.map (fun l => (l, (vals.lookup l).getD 0))))],
    bad ++ r.2.2)

/-- GTH (R121, R145). -/
def execGth (h : Hdr) (vd vo sa : BitVec 5) (w msk : BitVec 2) (s : State) : Host.Outcome State Fault Refusal :=
  slotOp (Instr.gth h vd vo sa w msk).wf h slotL (fun s =>
    let r := (s.actors h).foldl (fun (acc : State × List AccFault) x =>
      let c := acc.1.gthCore h vd vo sa w msk x.1 x.2
      (c.1, acc.2 ++ c.2)) (s, [])
    (r.1.busyFor h.table 16).accFaults h.table false r.2) s

/-! ### SHLD (R151, R154, R155) -/

/-- A shelf access of 32 B at offset `o` leaves the task's window. -/
def State.shelfFault (s : State) (t lc o : Nat) : Option AccFault :=
  if s.shfBound t < o + 32 then some (.shelfBound lc o) else none

/-- 32 B of the task's shelf window at offset `o`; zeros when the access fails. -/
def State.shelfFetch (s : State) (t lc o : Nat) : List Byte × State × List AccFault :=
  match s.shelfFault t lc o with
  | some f => (List.replicate 32 0, s, [f])
  | none =>
    let b := shareBase t + s.shfBase t
    let r := s.mem.shelfRead (b + o) 32
    (r.1, s.countCe (shfReg t 0x10) r.2.2, r.2.1.toList.map (fun u => .shelfUe lc (u - b)))

/-- A write of whole bytes at `as` in core `k`. -/
def wholeWrite (k lc : Nat) (as : List Nat) (bs : List Byte) (landing : Bool) : SpdWrite :=
  { core := k, lcore := lc, bits := (as.zip bs).map (fun x => (x.1, 0xFF, x.2)), banks := banksOf as, landing := landing }

/-- SHLD (R121, R151): the share is read at once and the data lands 23 cc later. -/
def execShld (h : Hdr) (ssh sa : BitVec 5) (off : BitVec 19) (s : State) : Host.Outcome State Fault Refusal :=
  slotOp true h slotL (fun s =>
    let r := (s.actors h).foldl (fun (acc : State × List AccFault × List SpdWrite) x =>
      let k := x.2
      let o := alignDown 5 (s.sreg k ssh).toNat
      let acc1 := acc.1.noteReads h.table slotL h.pc
        (locS k ssh :: locS k sa :: (if (s.shelfFault h.table x.1 o).isNone then [.shelfGran k (o / 32)] else []))
      let f := acc1.shelfFetch h.table x.1 o
      (f.2.1.modCore k (fun c => { c with shelfIn := c.shelfIn + 32 }), acc.2.1 ++ f.2.2, acc.2.2 ++ [wholeWrite k x.1 (spdSpan (s.opAddr k sa off 5) 32) f.1 true])) (s, [], [])
    (r.1.post h.table slotL h.pc true [(23, .spdTouch r.2.2)]).accFaults h.table false r.2.1) s

end Sys2Proof.Machine
end

