-- ==== Sys2Proof/Machine/Store.lean ====
section
/-!
DEFINITION. The T slot (R122, R143, R144, R151, R196, R219, R220): STV, STS, SHST, QREQ, QREL and SEND.
-/
namespace Sys2Proof.Machine

/-! ### Stores -/

/-- The bytes that an STV writes with the mask of the bits it writes, in image order (R143, R144). -/
def storeBits (w mode : Nat) (as : List Nat) (lanes : List Nat) (val : Nat → Word) : List (Nat × Byte × Byte) :=
  let n := widthBits w
  let es := ((widthLanes w).zipIdx.filter (fun x => lanes.contains x.1)).map (fun x => (n * vecElem w mode x.2, x.1))
  let mask := es.foldl (fun m e => m ||| ((2 ^ n - 1) <<< e.1)) 0
  let image := es.foldl (fun m e => m ||| (((val e.2).toNat % 2 ^ n) <<< e.1)) 0
  as.zipIdx.map (fun a => (a.1, BitVec.ofNat 8 (mask >>> (8 * a.2)), BitVec.ofNat 8 (image >>> (8 * a.2))))

/-- STV (R122, R143, R144): the banks are touched 1 cc after issue. -/
def execStv (h : Hdr) (msk : BitVec 2) (vs : BitVec 5) (w : BitVec 3) (mode : BitVec 2) (sa sb : BitVec 5) (off : BitVec 19)
    (s : State) : Host.Outcome State Fault Refusal :=
  slotOp (Instr.stv h msk vs w mode sa sb off).wf h slotT (fun s =>
    let cs := s.actors h
    let s' := s.noteReads h.table slotT h.pc
      (cs.flatMap (fun x => locV x.2 vs :: locS x.2 sa :: (if mode = 0 then [] else [locS x.2 sb])))
    s'.post h.table slotT h.pc true [(1, .spdTouch (cs.map (fun x =>
      let as := s.opVecAddrs x.2 w mode sa sb off
      { core := x.2, lcore := x.1, banks := banksOf as, landing := false
        bits := storeBits w.toNat mode.toNat as (s.maskLanes x.2 msk) (s.vlane x.2 vs) })))]) s

/-- STS (R122). -/
def execSts (h : Hdr) (ss sa : BitVec 5) (off : BitVec 19) (s : State) : Host.Outcome State Fault Refusal :=
  slotOp true h slotT (fun s =>
    let cs := s.actors h
    let s' := s.noteReads h.table slotT h.pc (cs.flatMap (fun x => [locS x.2 ss, locS x.2 sa]))
    s'.post h.table slotT h.pc true [(1, .spdTouch (cs.map (fun x =>
      wholeWrite x.2 x.1 (spdSpan (s.opAddr x.2 sa off 2) 4) (wordLe (s.sreg x.2 ss)) false)))]) s

/-- SHST (R122, R151): the scratchpad is read at once through port 1 and the share is written 2 cc later. An access that
fails either check writes nothing (R154, R222). -/
def execShst (h : Hdr) (ssh sa : BitVec 5) (off : BitVec 19) (s : State) : Host.Outcome State Fault Refusal :=
  slotOp true h slotT (fun s =>
    let r := (s.actors h).foldl (fun (acc : State × List AccFault × List (Nat × Nat × List Byte)) x =>
      let k := x.2
      let o := alignDown 5 (s.sreg k ssh).toNat
      let as := spdSpan (s.opAddr k sa off 5) 32
      let s1 := (acc.1.noteReads h.table slotT h.pc [locS k ssh, locS k sa]).modCore k (fun c =>
        { c with shstCyc := some (s.cyc h.table), portOwed := c.portOwed + 32, shelfOut := c.shelfOut + 32 })
      let f := s1.spdRead h.table slotT h.pc x.1 k 1 as
      let sf := s.shelfFault h.table x.1 o
      let ok := sf.isNone && (s.accessFault h.table x.1 k as).isNone
      (f.2.1, acc.2.1 ++ f.2.2 ++ sf.toList, acc.2.2 ++ (if ok then [(x.1, o, f.1)] else []))) (s, [], [])
    ((r.1.post h.table slotT h.pc true (if r.2.2.isEmpty then [] else [(2, .shelf r.2.2)])).busyFor h.table 2).accFaults
      h.table false r.2.1) s

/-! ### Decoupling queues (R216, R219, R220, R222) -/

/-- The tier of a queue's source; none for a DMA channel. -/
def QCfg.tier (c : QCfg) : Option Tier := if c.src = 1 then some .hbm else if c.src = 2 then some .ddr else none

/-- The 64 B granules of the request `req` of `n` entries from entry `e0` on, at task-relative tier address `a` (R215, R219,
R220). -/
def requestGranules (t k q req : Nat) (c : QCfg) (tier : Tier) (winBase e0 n a : Nat) : List Granule :=
  (List.range n).flatMap (fun i => (List.range (c.esize / 64)).map (fun j =>
    let e := (e0 + i) % c.nent
    let far := tierPlace tier (winBase + a + i * c.esize + 64 * j)
    let near := Place.spd k (spdAddr (c.base + e * c.esize + 64 * j))
    { owner := .queue t k q e, req := req, tier := some tier, src := if c.out then near else far, dst := if c.out then far else near,
      len := 64, forwarded := false }))

/-- What a QREQ of one core comes to: a fault, or its effects. -/
def State.qreqCore (s : State) (t q sp n : Nat) (lc k : Nat) : Except AccFault (List (Nat × Eff)) :=
  let c := s.qcfg k q
  let v := s.qst k q
  if (if c.out then v.held else v.free) < n then .error (.misuse lc q c.base 2) else
  let a := alignDown 6 ((s.sreg k (BitVec.ofNat 5 sp + 1)).toNat * 2 ^ 32 + (s.sreg k (BitVec.ofNat 5 sp)).toNat)
  let e0 := if c.out then v.old else v.next
  let move : Eff := if c.out then .qmove k q 0 n 0 (-n) 0 n else .qmove k q (-n) n 0 0 n 0
  match c.tier with
  | none => .ok [(1, move), (2, .request k q (if c.out then n else 0) [])]
  | some tier =>
    if s.winBound tier t < a + n * c.esize then .error (.misuse lc q (max a (s.winBound tier t)) 4)
    else .ok [(1, move), (2, .request k q (if c.out then n else 0)
      (requestGranules t k q (s.cyc t) c tier (s.winBase tier t) e0 n a))]

/-- A window fault of a queue request: QUE_BOUND takes the place of QUE_MISUSE (R216). -/
def State.queueFaults (s : State) (t : Nat) (fs : List AccFault) : State :=
  match fs.findSome? (fun f => match f with | .misuse lc q a 4 => some (lc, q, a) | _ => none) with
  | none => s.accFaults t false fs
  | some (lc, q, a) =>
    let s := s.accFaults t false (fs.filter (fun f => match f with | .misuse _ _ _ 4 => false | _ => true))
    let v : Word := BitVec.ofNat 32 (q + lc <<< 4 + 4 <<< 10)
    let s := if (s.csrAt (tblReg t 0x500)).getLsbD 31 then s else s.setCsr (tblReg t 0x504) (BitVec.ofNat 32 a)
    (s.recordFault (tblReg t 0x500) v).faultTable t 0x2402 ((v ||| 0x80000000).toNat + (a % 2 ^ 32) <<< 32)

/-- The far-tier channel of a granule that reaches an absent channel or a hole (R134). -/
def State.goneFar (s : State) (g : Granule) : Option Nat :=
  let far (p : Place) : Option Nat := match p with
    | .ddr a => if s.mem.ddrGone a then some (((s.mem.ddrMap a).map (·.1)).getD 0) else none
    | _ => none
  (far g.src).or (far g.dst)

/-- The first granule of the requests of an operation that reaches an absent channel or a hole. -/
def State.goneUnit (s : State) (es : List (Nat × Eff)) : Option Nat :=
  es.findSome? (fun e => match e.2 with
    | .request _ _ _ gs => gs.findSome? s.goneFar
    | _ => none)

/-- Requests without their granules that reach no memory: an inbound entry holds zeros in their place, and nothing goes out, so that a
wait on the entries meets them at its resolve cycle (R134). -/
def State.dropGone (s : State) (e : Nat × Eff) : List (Nat × Eff) :=
  match e.2 with
  | .request k q n gs =>
    let zeros := (gs.filter (fun g => (s.goneFar g).isSome)).flatMap (fun g => match g.dst with
      | .spd _ a => spdSpan a g.len
      | _ => [])
    (e.1, .request k q n (gs.filter (fun g => (s.goneFar g).isNone))) :: (if zeros.isEmpty then [] else [(e.1, .zeroFill k zeros)])
  | _ => [e]

/-- QREQ (R216, R219, R220): entries leave FREE or HELD and the requests go out 2 cc after issue. -/
def execQreq (h : Hdr) (q : BitVec 4) (sp : BitVec 5) (n1 : BitVec 4) (s : State) : Host.Outcome State Fault Refusal :=
  slotOp (Instr.qreq h q sp n1).wf h slotT (fun s =>
    let cs := s.actors h
    let s' := s.noteReads h.table slotT h.pc (cs.flatMap (fun x => [locS x.2 sp, locS x.2 (sp + 1)]))
    let rs := cs.map (fun x => s.qreqCore h.table q.toNat sp.toNat (n1.toNat + 1) x.1 x.2)
    let es := rs.flatMap (fun r => match r with | .ok es => es | .error _ => [])
    let fs := rs.filterMap (fun r => match r with | .ok _ => none | .error f => some f)
    let s' := match s.goneUnit es with
      | some u => s'.absentUnit h.table slotT 4 0 u h.pc
      | none => s'
    ((s'.post h.table slotT h.pc true (es.flatMap s.dropGone)).busyFor h.table 2).queueFaults h.table fs) s

/-- QREL (R219): the oldest HELD entries become FREE. -/
def execQrel (h : Hdr) (q : BitVec 4) (n : BitVec 6) (s : State) : Host.Outcome State Fault Refusal :=
  slotOp (Instr.qrel h q n).wf h slotT (fun s =>
    let cs := s.actors h
    let ok (x : Nat × Nat) : Bool := decide (n.toNat ≤ (s.qst x.2 q.toNat).held)
    let es := (cs.filter ok).map (fun x => (1, Eff.qmove x.2 q.toNat n.toNat 0 0 (-n.toNat) 0 n.toNat))
    let fs := (cs.filter (fun x => !ok x)).map (fun x => AccFault.misuse x.1 q.toNat (s.qcfg x.2 q.toNat).base 3)
    ((s.post h.table slotT h.pc true es).busyFor h.table 2).accFaults h.table false fs) s

/-! ### SEND (R18, R134, R196) -/

/-- A wait of the issuing sequencer that resolves 2 cc after issue (R124). -/
def State.addWait (s : State) (h : Hdr) (w : WaitFor) : State :=
  let c := s.cyc h.table
  (s.modSeq h.table (s.issuer h) (fun q => { q with waits := q.waits ++ [⟨w, c + 2, false⟩] })).busyFor h.table 2

/-- The table at the far end of send channel `n` is on this device and out of service. -/
def State.sendGone (s : State) (t n : Nat) : Bool :=
  let c := s.snd t n
  !c.xdev && s.outOfService (s.physTable c.dlt)

/-- SEND (R196): each acting core sends from its own address; with no acting core there is no message and the wait is met
when it resolves. -/
def execSend (h : Hdr) (chn hidx : BitVec 6) (sa : BitVec 5) (off : BitVec 19) (f1 : BitVec 4) (s : State) :
    Host.Outcome State Fault Refusal :=
  slotOp true h slotT (fun s =>
    let t := h.table
    let n := chn.toNat
    let cs := s.actors h
    let s := s.noteReads t slotT h.pc (cs.map (fun x => locS x.2 sa))
    if cs.isEmpty then s.addWait h .absent
    else if s.sendGone t n then (s.absentUnit t slotT 6 1 (s.snd t n).dlt h.pc).addWait h .absent
    else
      let seq := (s.snd t n).seq
      let s1 := s.modSnd t n (fun c => { c with seq := c.seq + 1 })
      let s2 := (s1.tryOpen t n).modTable t (fun b => { b with sends := b.sends ++
        [{ chn := n, seq := seq.toNat, hidx := hidx.toNat, started := false, parts := [], signal := none, ready := 0,
           pc := h.pc }] })
      s2.addWait h (.credit n hidx.toNat seq.toNat (f1.toNat + 1)
        (cs.map (fun x => (x.1, spdAddr ((s.sreg x.2 sa).toNat + off.toNat)))))) s

end Sys2Proof.Machine
end

