-- ==== Sys2Proof/Machine/Dealer.lean ====
section
/-!
DEFINITION. The Y slot (R123 to R132, R161, R164, R205, R219, R234): loops, branches, waits, signals, handler windows, tricks and
the end of a task; and the failure of a pause (R252). The Y slot is not guarded (R114).
-/
namespace Sys2Proof.Machine

/-- The issuing sequencer changed. -/
def State.modIssuer (s : State) (h : Hdr) (f : Seq → Seq) : State := s.modSeq h.table (s.issuer h) f

/-- NOP (R123). -/
def execNop (h : Hdr) (s : State) : Host.Outcome State Fault Refusal := slotOp true h slotY id s

/-- END (R132): the sequencer issues nothing further. In Taper mode the task ends with its last core. -/
def execEndTask (h : Hdr) (s : State) : Host.Outcome State Fault Refusal :=
  slotOp true h slotY (fun s =>
    let s := (s.modIssuer h (fun q => { q with ended := true })).busyFor h.table 0
    let all := (s.seqs h.table).all (fun q => (s.seqOf h.table q).ended)
    s.modTable h.table (fun b => { b with ending := all })) s

/-! ### Loops and branches -/

/-- A LOOP of level `n` whose body ends with the word at `last`; `after` is the word behind it (R126). -/
def Seq.enterLoop (q : Seq) (n : Nat) (last after : BitVec 17) : Seq :=
  match (q.loops.drop n).head? with
  | none => q
  | some l =>
    if l.pending = 0 then
      { q with loops := q.loops.modify n (fun l => { l with active := false, remaining := 0 }), nextPc := after }
    else
      { q with loops := q.loops.modify n (fun l =>
          { l with active := true, remaining := l.pending, start := q.nextPc, last := last }) }

/-- LOOP (R126). -/
def execLoop (h : Hdr) (lvl : BitVec 2) (addr : BitVec 17) (s : State) : Host.Outcome State Fault Refusal :=
  slotOp true h slotY (fun s =>
    s.modIssuer h (fun q => q.enterLoop lvl.toNat addr (s.afterWord h.table (s.issuer h) addr))) s

/-- SETLC (R127): the count, or the register, of logical core 0 (in Taper mode of the issuing core). -/
def execSetlc (h : Hdr) (lvl : BitVec 2) (src : Bool) (val : BitVec 23) (s : State) : Host.Outcome State Fault Refusal :=
  slotOp (Instr.setlc h lvl src val).wf h slotY (fun s =>
    let r := val.extractLsb' 0 5
    match src, (s.opCores h).head? with
    | false, _ => s.post h.table slotY h.pc true [(1, .loopPending (s.issuer h) lvl.toNat (val.zeroExtend 32))]
    | true, some x =>
      (s.noteReads h.table slotY h.pc [locS x.2 r]).post h.table slotY h.pc true
        [(1, .loopPending (s.issuer h) lvl.toNat (s.sreg x.2 r))]
    | true, none => s) s

/-- A branch is taken (R125). In Taper mode `ps` holds the issuing core's predicate alone (R137). -/
def branchTaken (cmode : BitVec 2) (ps : List Bool) : Bool :=
  match cmode.toNat with
  | 0 => true
  | 1 => ps.any id
  | 2 => ps.all id
  | _ => ps.headD false

/-- A taken branch to `addr`: every active level whose body does not hold the target ends (R128). -/
def Seq.jump (q : Seq) (addr : BitVec 17) : Seq :=
  { q with nextPc := addr, loopDue := none
           loops := q.loops.map (fun l =>
             if l.active ∧ ¬ (l.start.toNat ≤ addr.toNat ∧ addr.toNat ≤ l.last.toNat)
             then { l with active := false, remaining := 0 } else l) }

/-- BR (R125): no word issues in the two cycles after it, taken or not. DESIGN CHOICE (assumption 51): the IDLE cycles of its word
come after those two. -/
def execBr (h : Hdr) (cmode : BitVec 2) (pred : BitVec 3) (neg : Bool) (addr : BitVec 17) (s : State) :
    Host.Outcome State Fault Refusal :=
  slotOp true h slotY (fun s =>
    let cs := s.opCores h
    let taken := branchTaken cmode (cs.map (fun x => s.predBit x.2 pred != neg))
    let read := if cmode = 0 then [] else if cmode = 3 then cs.take 1 else cs
    (s.noteReads h.table slotY h.pc (read.map (fun x => locP x.2 pred))).modIssuer h (fun q =>
      let q := { q with hold := h.idle.toNat + 2 }
      if taken then q.jump addr else q)) s

/-! ### Waits and signals -/

/-- WAIT (R164, R167). -/
def execWait (h : Hdr) (dst : BitVec 2) (ctr amt : BitVec 8) (tsel : BitVec 4) (s : State) :
    Host.Outcome State Fault Refusal :=
  slotOp (Instr.wait h dst ctr amt tsel).wf h slotY (fun s =>
    s.addWait h (if dst = 0 then .counter ctr.toNat amt.toNat tsel.toNat else .host ctr.toNat amt.toNat tsel.toNat)) s

/-- SIG (R161, R162, R173, R207): a counter of the own table 1 cc after issue, a counter at the far end of a channel by a
signal flit, or an outbound host counter. A signal to a table out of service does nothing (R134). -/
def execSig (h : Hdr) (dst : BitVec 2) (ctr amt : BitVec 8) (chn : BitVec 6) (s : State) :
    Host.Outcome State Fault Refusal :=
  slotOp (Instr.sig h dst ctr amt chn).wf h slotY (fun s =>
    let t := h.table
    let n := chn.toNat
    if dst = 0 then s.post t slotY h.pc true [(1, .counterAdd ctr.toNat amt.toNat)]
    else if dst = 2 then s.post t slotY h.pc true [(1, .hostAdd ctr.toNat amt.toNat)]
    else if s.sendGone t n then s.absentUnit t slotY 7 1 (s.snd t n).dlt h.pc
    else
      let c := s.snd t n
      let tag := signalTag (s.dptOf c) c.rchn c.seq.toNat ctr.toNat amt.toNat
      let cyc := s.cyc t
      (s.tryOpen t n).modTable t (fun b => { b with sends := b.sends ++
        [{ chn := n, seq := c.seq.toNat, hidx := 0, started := true, parts := [], signal := some tag, ready := cyc + 2,
           pc := h.pc }] })) s

/-- QWAIT (R219, R220). -/
def execQwait (h : Hdr) (q : BitVec 4) (space : Bool) (n : BitVec 6) (s : State) : Host.Outcome State Fault Refusal :=
  slotOp (Instr.qwait h q space n).wf h slotY (fun s => s.addWait h (.queue q.toNat n.toNat space)) s

/-- DWAIT (R234). -/
def execDwait (h : Hdr) (ch : BitVec 7) (s : State) : Host.Outcome State Fault Refusal :=
  slotOp true h slotY (fun s => s.addWait h (.dma ch.toNat)) s

/-- HWIN (R129): its own IDLE cycles fall after the window. -/
def execHwin (h : Hdr) (chn cnt : BitVec 6) (wlen : BitVec 12) (s : State) : Host.Outcome State Fault Refusal :=
  slotOp (Instr.hwin h chn cnt wlen).wf h slotY (fun s =>
    (s.modIssuer h (fun q => { q with hold := 2 })).addWait h (.window chn.toNat cnt.toNat wlen.toNat h.idle.toNat)) s

/-! ### HRET (R205) -/

/-- The records of a core's ring after the handler of message `q`: its record goes, with the pad records before and behind
it. The granules freed are the second result. -/
def freeRecord (rs : List Record) (q : BitVec 21) : List Record × Nat :=
  match skipPads rs with
  | [] => (rs, 0)
  | r :: rest =>
    if field r.tag 34 14 = q.toNat then
      let left := skipPads rest
      (left, ((rs.take (rs.length - left.length)).map (·.len)).sum)
    else (rs, 0)

/-- A receive channel after the handler of its oldest present message. -/
def RcvChan.handled (c : RcvChan) (lcs : List Nat) : RcvChan :=
  let q := c.nextSeq
  { c with
    records := lcs.foldl (fun m lc => SMap.set [] m lc (freeRecord (SMap.get [] m lc) q).1) c.records
    readPos := lcs.foldl (fun m lc => SMap.modify 0 m lc (· + (freeRecord (SMap.get [] c.records lc) q).2)) c.readPos
    present := c.present - 1, creditDue := true }

/-- HRET (R205): unpopped entries are discarded, the records are freed, and the window goes on to its next message. DESIGN CHOICE
(assumption 52): outside a handler window HRET does nothing. -/
def execHret (h : Hdr) (s : State) : Host.Outcome State Fault Refusal :=
  slotOp true h slotY (fun s =>
    match (s.table h.table).seq.window with
    | none => s
    | some w =>
      let cs := s.tableCores h.table
      let s := cs.foldl (fun acc x => acc.modCore x.2 (fun c => { c with squeue := [], vqueue := [] })) s
      let s := s.modRcv h.table w.chn (fun c => c.handled (cs.map (·.1)))
      s.modTable h.table (fun b => { b with seq := { b.seq with
        window := some { w with running := false, left := w.left - 1 } } })) s

/-! ### Tricks (R131, R195, R252) -/

/-- Every flit in the network: in the queues of the L inputs, of routers, on links and at L outputs. -/
def State.flits (s : State) : List Flit :=
  s.noc.chanQ.flatMap (·.2) ++ s.noc.queues.flatMap (·.2) ++ s.noc.links.flatMap (·.2) ++
    s.tables.flatMap (fun kv => kv.2.landing)

/-- A part or a signal of the channel that ends at receive channel `n` of table `t` is in flight. -/
def State.inFlight (s : State) (t n : Nat) : Bool :=
  s.flits.any (fun f => f.kind != 2 && f.edge.isNone && f.gran.isNone && f.dpt == t && f.rchn == n) || !(s.rcv t n).arriving.isEmpty ||
    !(s.rcv t n).spilled.isEmpty || !(s.rcv t n).signals.isEmpty

/-- Send channel `n` of table `t` holds nothing unsent and has nothing in flight on this device. -/
def State.sendQuiet (s : State) (t n : Nat) : Bool :=
  let c := s.snd t n
  !((s.table t).sends.any (fun i => i.chn == n)) && (SMap.get [] s.noc.chanQ (lqKey t n false)).isEmpty &&
    (c.xdev || !s.inFlight (s.physTable c.dlt) c.rchn)

/-- The table is quiet at a TRICK that issues now (R131): every operation of an earlier word has reached its contract latency. -/
def State.quiet (s : State) (t : Nat) : Bool :=
  let b := s.table t
  let c := s.cyc t
  let ks := s.tableCores t
  decide (b.busyPrior ≤ c) && b.seq.waits.all (fun w => decide (c + 2 ≤ w.resolve)) &&
    ks.all (fun x => let w := (s.core x.2).streamer; !w.warming || decide (w.warmCyc = c)) &&
    ks.all (fun x => (List.range 16).all (fun q => decide ((s.qst x.2 q).pend = 0))) &&
    s.mem.granules.all (fun g => match g.owner with | .queue u _ _ _ => decide (u ≠ t) | .dma .. => true) &&
    s.dma.all (fun d => !(decide (d.2.job.isSome ∧ d.2.job = b.job ∧ d.2.home = b.jobTable ∧ d.2.state = 2))) &&
    (b.sends.filter (fun i => i.pc != b.seq.pc || i.started)).isEmpty &&
    (List.range 64).all (fun n => !s.inFlight t n) &&
    b.snd.all (fun kv => !kv.2.isOpen || (SMap.get [] s.noc.chanQ (lqKey t kv.1 false)).isEmpty &&
      (kv.2.xdev || !s.inFlight (s.physTable kv.2.dlt) kv.2.rchn))

/-- A dynamic channel closes at a TRICK when it holds nothing in flight and its rings are empty (R195). -/
def State.closeDynamic (s : State) (t : Nat) : State :=
  (s.table t).snd.foldl (fun acc kv =>
    let c := kv.2
    let r := acc.rcv (acc.physTable c.dlt) c.rchn
    if c.dyn ∧ c.isOpen ∧ acc.sendQuiet t kv.1 ∧ r.records.all (fun x => x.2.isEmpty) ∧ r.present = 0 then
      acc.modSnd t kv.1 (fun c => { c with cfg := c.cfg &&& 0xFEFFFFFF, poolD := 0 })
    else acc) s

/-- The first beacon count that is a multiple of 195 and at least 2 µs from now (R27, R253). -/
def State.resumeTick (s : State) : Nat := 195 * ceilDiv (s.beacon + 200) 195

/-- The beacon estimate in 1/16 tick at a device time in elevenths of a tick. -/
def est16 (now11 : Nat) : Nat := now11 * 16 / 11

/-- A pause of job `j` has failed (R252): every dealer is disarmed, paused tasks get a resume tick counted from now, and the
host is told. -/
def State.pauseFails (s : State) (j : Nat) : State :=
  match s.job j with
  | none => s
  | some b =>
    let r := s.resumeTick
    let s := b.tables.foldl (fun acc t => acc.modTable t (fun x =>
      { x with pause := x.pause &&& 0xFFF, release := if x.run = 2 then some r else x.release })) s
    let s := s.failPause j b
    s.modJob j (fun b => { b with
      state := .running, pauseTicks := b.pauseTicks + (r - b.pauseFrom)
      waiters := b.waiters.filter (fun w => w.typ != 0x03) })

/-- TRICK (R131): recorded and counted; at the armed target the task pauses if the table is quiet, and after it the next word issues
at the count after the TRICK's, whatever the TRICK's own IDLE. -/
def execTrick (h : Hdr) (id : BitVec 12) (repart : Bool) (s : State) : Host.Outcome State Fault Refusal :=
  slotOp true h slotY (fun s =>
    let t := h.table
    let quiet := s.quiet t
    let s := (s.modTable t (fun b => { b with
      trick := BitVec.ofNat 13 (id.toNat + b2n repart <<< 12), trickN := satIncr b.trickN })).closeDynamic t
    let b := s.table t
    if ¬ (b.pause.getLsbD 12 ∧ b.pause.extractLsb' 0 12 = id ∧ b.trickN = b.pauseN) then s
    else if quiet then
      let phase := est16 (s.cycleEnd t) % (16 * 195)
      let s := s.modTable t (fun b => { b with
        run := 2, pause := b.pause &&& 0xFFF, tcc := b.tcc + 1, phase := phase
        seq := { b.seq with hold := 0, slots := 0 }.turn })
      { s with dma := SMap.mapAll DmaChan.reset s.dma (fun _ c =>
        if c.job.isSome ∧ c.job = b.job ∧ c.home = b.jobTable then c.stop else c) }
    else
      let s := s.raiseTable t 0x1042 clsNote (id.toNat + b.trickN.toNat <<< 12)
      match b.job with
      | some j => s.pauseFails j
      | none => s) s

end Sys2Proof.Machine
end

