-- ==== Sys2Proof/Machine/Heads.lean ====
section
/-!
DEFINITION. Descriptors of DMA channels (R230), and what a channel's head waits for (R232).
-/
namespace Sys2Proof.Machine

/-- The clock region of a DMA block: its die network, or its IO die. -/
def dmaRegion (blk : Nat) : Nat := if blk < 8 then 64 + blk else 72 + blk

/-! ### Descriptors (R230) -/

/-- A descriptor's fields. -/
structure Desc where
  ssp   : Nat
  dsp   : Nat
  start : Nat
  ev    : Nat
  sig   : Bool
  sctr  : Nat
  ctab  : Nat
  next  : Nat
  last  : Bool
  saddr : Nat
  daddr : Nat
  len   : Nat
  rows  : Nat
  rep   : Nat
  sstr  : Int
  dstr  : Int
  srstr : Int
  drstr : Int
  score : Nat
  scnt  : Nat
  sq    : Nat
  stab  : Nat
  dcore : Nat
  dcnt  : Nat
  dq    : Nat
  dtab  : Nat
  cstr  : Int
  deriving DecidableEq, Repr

/-- The fields of descriptor bits `v`. -/
def descOf (v : Nat) : Desc :=
  { ssp := fieldN v 3 0, dsp := fieldN v 7 4, start := fieldN v 9 8, ev := fieldN v 16 10, sig := v.testBit 17
    sctr := fieldN v 25 18, ctab := fieldN v 31 26, next := fieldN v 41 32, last := v.testBit 42
    saddr := fieldN v 127 64, daddr := fieldN v 191 128, len := fieldN v 223 192, rows := fieldN v 239 224 + 1
    rep := fieldN v 255 240 + 1, sstr := signedN 32 (fieldN v 287 256), dstr := signedN 32 (fieldN v 319 288)
    srstr := signedN 32 (fieldN v 351 320), drstr := signedN 32 (fieldN v 383 352)
    score := fieldN v 389 384, scnt := fieldN v 395 390 + 1, sq := fieldN v 399 396, stab := fieldN v 405 400
    dcore := fieldN v 411 406, dcnt := fieldN v 417 412 + 1, dq := fieldN v 421 418, dtab := fieldN v 427 422
    cstr := signedN 32 (fieldN v 459 428) }

/-- The head descriptor of channel `ch` of block `blk`. -/
def State.headDesc (s : State) (blk ch : Nat) : Desc :=
  descOf (SMap.get 0 s.descs (1024 * blk + field (s.dmaCh (dmaKey blk ch)).ctl 9 0)).toNat

/-- Physical table of job table `n` of job `j`. -/
def State.jobTableOf (s : State) (j n : Nat) : Nat := (((s.job j).map (·.tables)).bind (fun ts => (ts.drop n).head?)).getD 0

/-- The cores of a descriptor side, as (table, core key): `cnt` logical cores of a job table from `first` on. -/
def State.sideCores (s : State) (j tab first cnt : Nat) : List (Nat × Nat) :=
  let t := s.jobTableOf j tab
  (List.range cnt).filterMap (fun i => (s.physCore t (first + i)).map (fun c => (t, 34 * t + c)))

/-- The queue condition of R232: an inbound side has a FREE entry in every named core, and an outbound side a PEND entry. -/
def State.queueReady (s : State) (j : Nat) (d : Desc) : Bool :=
  (d.dsp != 6 || (s.sideCores j d.dtab d.dcore d.dcnt).all (fun x => decide (0 < (s.qst x.2 d.dq).free))) &&
  (d.ssp != 6 || (s.sideCores j d.stab d.score d.scnt).all (fun x => decide (0 < (s.qst x.2 d.sq).pend) &&
    !(s.table x.1).pend.any (fun p => match p.eff with
      | .request k q _ _ => k == x.2 && q == d.sq
      | _ => false)))

/-- A timer's firing for a channel that waits for it: its start event, or a miss where its queue condition fails. -/
def State.takeFiring (s : State) (blk ch j : Nat) (d : Desc) : State :=
  if s.queueReady j d then s.modDma (dmaKey blk ch) (fun c => { c with evSeen := true })
  else s.modDma (dmaKey blk ch) (fun c => { c with miss := if c.miss = 0xFF then c.miss else c.miss + 1 })

/-- A repetition that has just become the head: a firing of its timer in the same network cycle counts (R232). -/
def State.headEvent (s : State) (blk ch : Nat) : State :=
  let c := s.dmaCh (dmaKey blk ch)
  let d := s.headDesc blk ch
  match c.job with
  | none => s
  | some j =>
    if c.state = 1 ∧ d.start = 1 ∧ SMap.get 0 s.mem.firedNet (32 * blk + d.ev) = s.net (dmaRegion blk) + 1 then s.takeFiring blk ch j d
    else s

end Sys2Proof.Machine
end

