-- ==== Sys2Proof/Machine/Waits.lean ====
section
/-!
DEFINITION. Events of dealers and tasks: late waits met or expired, windows opened late, line fills, release, resume and end of
a task, signals applied at their receiver, and the counter-residue report (R27, R129, R132, R136, R164 to R169, R175, R196,
R203, R219, R234, R253). An event whose condition does not hold in the state does not happen (assumption 5).
-/
namespace Sys2Proof.Machine

/-! ### Late waits -/

/-- The kinds of wait that one event row serves. -/
def WaitFor.isCounter : WaitFor → Bool
  | .counter .. | .host .. => true
  | _ => false
def WaitFor.isQueue : WaitFor → Bool
  | .queue .. => true
  | _ => false
def WaitFor.isDma : WaitFor → Bool
  | .dma .. => true
  | _ => false
def WaitFor.isCredit : WaitFor → Bool
  | .credit .. => true
  | _ => false
def WaitFor.isWindow : WaitFor → Bool
  | .window .. => true
  | _ => false

/-- The timeout of a timed wait: counter, host mark and TSEL (R167, R168). -/
def WaitFor.timer : WaitFor → Option (Nat × Bool × Nat)
  | .counter n _ k => if k = 0 then none else some (n, false, k)
  | .host n _ k => if k = 0 then none else some (n, true, k)
  | _ => none

/-- The last cycle in which a wait of table `t` is evaluated: that of a timed wait (R167) and of a SEND on credit (R203). -/
def State.waitLimit (s : State) (t : Nat) (w : Wait) : Option Nat :=
  match w.what with
  | .credit .. => some (w.resolve + (s.csrAt (chnReg t 0x900)).toNat)
  | x => x.timer.map (fun y => w.resolve + (SMap.get 0 (s.table t).tout y.2.2).toNat)

/-- The late waits of one sequencer that `p` selects, each met if its condition holds now and it has not expired. -/
def State.meetLate (s : State) (t : Nat) (core : Option Nat) (p : WaitFor → Bool) : State :=
  let r := (s.seqOf t core).waits.foldl (fun (acc : State × List Wait) w =>
    if ¬ w.late ∨ ¬ p w.what ∨ (s.waitLimit t w).any (fun l => decide (l < s.cyc t)) then (acc.1, acc.2 ++ [w]) else
    let s1 := acc.1.openFor t w.what
    match s1.meet t core w.what with
    | none => (s1, acc.2 ++ [w])
    | some s' =>
      (match w.what with
        | .window chn n wlen idle => s'.modSeq t core (fun q => q.openWindow chn n wlen idle (s.cyc t))
        | _ => s', acc.2)) (s, [])
  r.1.modSeq t core (fun q => { q with waits := r.2 })

/-- The late waits of a running table that `p` selects; in Taper mode those of its cores in rising logical order (R165). -/
def State.meetTable (s : State) (t : Nat) (p : WaitFor → Bool) : State :=
  if (s.table t).run ≠ 1 ∨ s.stopped t then s else (s.seqs t).foldl (fun acc q => acc.meetLate t q p) s

/-- WAIT_MET (R164): the counter is reduced and issue resumes in this cycle. -/
def execWaitMet (t : Nat) (s : State) : Host.Outcome State Fault Refusal := .next (s.meetTable t WaitFor.isCounter)

/-- QWAIT_MET (R219, R220). -/
def execQwaitMet (t : Nat) (s : State) : Host.Outcome State Fault Refusal := .next (s.meetTable t WaitFor.isQueue)

/-- DWAIT_MET (R234). -/
def execDwaitMet (t : Nat) (s : State) : Host.Outcome State Fault Refusal := .next (s.meetTable t WaitFor.isDma)

/-- SEND_CREDIT_MET (R196). -/
def execSendCreditMet (t : Nat) (s : State) : Host.Outcome State Fault Refusal := .next (s.meetTable t WaitFor.isCredit)

/-- HWIN_OPEN (R129): the window opens in the next cycle. -/
def execHwinOpen (t : Nat) (s : State) : Host.Outcome State Fault Refusal := .next (s.meetTable t WaitFor.isWindow)

/-- A wait of sequencer `q` that has not been met by the end of its last cycle: later than that cycle it stays unmet whatever has come
since, and in that cycle the arrivals so far decide (R167, R203). -/
def State.overdue (s : State) (t : Nat) (q : Option Nat) (w : Wait) : Bool :=
  match s.waitLimit t w with
  | none => false
  | some l => decide (l < s.cyc t) || (decide (l = s.cyc t) && ((s.openFor t w.what).meet t q w.what).isNone)

/-- A timed wait of sequencer `q` that has expired. -/
def State.expired (s : State) (t : Nat) (q : Option Nat) : Option (Nat × Bool × Nat) :=
  (s.seqOf t q).waits.findSome? (fun w => if s.overdue t q w then w.what.timer else none)

/-- SYN_TIMEOUT (R167). -/
def execSynTimeout (t : Nat) (s : State) : Host.Outcome State Fault Refusal :=
  .next (if (s.table t).run ≠ 1 ∨ s.stopped t then s else
    match (s.seqs t).findSome? (s.expired t ·) with
    | none => s
    | some (n, host, k) => (s.synFault t n host 2).faultTable t 0x1102 (n + b2n host <<< 8 + k <<< 9))

/-- A SEND of sequencer `q` whose credit stays unmet CHN_STALLTO cc after its resolve cycle: channel and SEQ. -/
def State.stalled (s : State) (t : Nat) (q : Option Nat) : Option (Nat × Nat) :=
  (s.seqOf t q).waits.findSome? (fun w => match w.what with
    | .credit chn _ seq _ _ => if s.overdue t q w then some (chn, seq) else none
    | _ => none)

/-- CHN_STALL (R203). -/
def execChnStall (t : Nat) (s : State) : Host.Outcome State Fault Refusal :=
  .next (if (s.table t).run ≠ 1 ∨ s.stopped t then s else
    match (s.seqs t).findSome? (s.stalled t ·) with
    | none => s
    | some (chn, seq) =>
      (s.recordFault (chnReg t 0x904) (BitVec.ofNat 32 (chn + 1 <<< 6))).faultTable t 0x2301 (chn + seq <<< 6))

/-! ### Taper line fills (R136) -/

/-- Line `l` of the code of job table `jt` of job `b`: its copy lies at the start of the job's context area, 256 KiB for each job
table. DESIGN CHOICE (assumption 53). -/
def codeLine (hbm : SMap Byte) (b : Job) (jt l : Nat) : List (BitVec 16) :=
  let bs := SMap.bytes hbm (b.ctxBase + 0x40000 * jt + 128 * l) 128
  (List.range 64).map (fun i => BitVec.ofNat 16 (rdLe bs (2 * i) 2))

/-- A cache with line `l` filled: 4 ways in each of 128 sets, the least recently filled line of a full set replaced. -/
def fillLine (cache : List CacheLine) (l : Nat) (code : List (BitVec 16)) : List CacheLine :=
  let age := cache.foldl (fun m x => Nat.max m (x.age + 1)) 0
  let mine := cache.filter (fun x => x.line % 128 == l % 128)
  let oldest := mine.foldl (fun m x => Nat.min m x.age) age
  let cache := if 4 ≤ mine.length then cache.filter (fun x => x.line % 128 != l % 128 || x.age != oldest) else cache
  cache ++ [⟨l, age, code⟩]

/-- TAPER_LINE_FILL: the line that logical core `c` waits for arrives, and its next word issues in the next cycle. -/
def execTaperLineFill (t c : Nat) (s : State) : Host.Outcome State Fault Refusal :=
  .next (match s.physCore t c, (s.table t).job.bind s.job with
    | some p, some b => s.modCore (34 * t + p) (fun x =>
      match x.missLine with
      | none => x
      | some l => { x with
        missLine := none, cache := fillLine x.cache l (codeLine s.mem.hbm b (s.table t).jobTable l), taper := { x.taper with slots := 0x3F } })
    | _, _ => s)

/-! ### Release, resume and end of a task -/

/-- The static channels of job `b` open at its release (R194). -/
def State.openChannels (s : State) (j : Nat) (b : Job) : State :=
  (b.opens.foldl (fun acc x => acc.modSnd x.1 x.2 (fun c => { c with cfg := c.cfg ||| 0x1000000 })) s).modJob j (fun b =>
    { b with opens := [], state := if b.state = .admitted then .running else b.state })

/-- A DMA channel whose job runs: it awaits its next repetition, unless its chain has ended. -/
def State.runDma (s : State) (k : Nat) : State :=
  let c := s.dmaCh k
  let rep := field (SMap.get 0 s.descs (1024 * (k / 128) + field c.ctl 9 0)) 255 240 + 1
  (s.modDma k (fun x => { x with
    ctl := (x.ctl ||| 0x400) &&& 0xFFFFF7FF, state := if rep ≤ c.repN.toNat then 0 else 1 })).headEvent (k / 128) (k % 128)

/-- The DMA channels whose home is the task of table `t` are released, or resume (R232, R235, R237). -/
def State.runHome (s : State) (t : Nat) : State :=
  let b := s.table t
  (s.dma.filter (fun kv => decide (kv.2.job.isSome ∧ kv.2.job = b.job ∧ kv.2.home = b.jobTable))).foldl (fun acc kv => acc.runDma kv.1) s

/-- TASK_RELEASE (R27, R249): in the first cycle of its region whose beacon estimate has reached the release tick the dealer
begins the task at granule 0. -/
def execTaskRelease (t : Nat) (s : State) : Host.Outcome State Fault Refusal :=
  .next (match (s.table t).release with
    | none => s
    | some r =>
      if (s.table t).run = 0 ∧ r ≤ s.beacon ∧ ¬ s.stopped t then
        let s := (s.modTable t (fun b => { b with run := 1, release := none, started := true })).runHome t
        match (s.table t).job with
        | none => s
        | some j => match s.job j with
          | none => s
          | some b => s.openChannels j b
      else s)

/-- TASK_RESUME (R253): the first cycle whose beacon estimate has reached the resume tick plus the pause phase. -/
def execTaskResume (t : Nat) (s : State) : Host.Outcome State Fault Refusal :=
  .next (match (s.table t).release with
    | none => s
    | some r =>
      if (s.table t).run = 2 ∧ 16 * r + (s.table t).phase ≤ est16 s.now11 ∧ ¬ s.stopped t then
        let s := s.modTable t (fun b => { b with run := 1, release := none, started := true })
        let s := ((s.seqs t).foldl (fun acc q => acc.modSeq t q (fun x => x.enter false)) s).runHome t
        match (s.table t).job with
        | none => s
        | some j => match s.job j with
          | none => s
          | some b => s.openChannels j b
      else s)

/-- The parts of receive channel `n` of table `t` that flits of the mesh carry, by the sequence numbers of their messages. -/
def State.seqsInFlight (s : State) (t n : Nat) : List Nat :=
  (s.flits.filter (fun f => (f.kind == 0 || f.kind == 3) && f.edge.isNone && f.gran.isNone && f.dpt == t && f.rchn == n)).map (·.seq)

/-- Messages of a receive channel that no handler has begun (R194): for a sender on this device or the host by the difference of the
sequence numbers, else those present and those of which a part is on this device. -/
def State.undelivered (s : State) (t n : Nat) : Nat :=
  let c := s.rcv t n
  match s.senderOf t n with
  | some (st, sn) => ((s.snd st sn).seq - c.nextSeq).toNat
  | none =>
    if s.hostFed t n then ((SMap.get SndChan.reset s.host.chans (64 * t + n)).seq - c.nextSeq).toNat else
    let seqs := (c.arriving.map (·.tag) ++ c.spilled.flatMap (fun kv => kv.2.map (·.tag))).map (fun g => field g 34 14) ++
      c.retired.map (·.1.toNat) ++ s.seqsInFlight t n
    c.present + seqs.eraseDups.length

/-- A receive channel whose messages are discarded: no signal waits for them any longer, and those in flight and held are still applied
(R175, R207). -/
def RcvChan.emptied (c : RcvChan) (q : BitVec 21) : RcvChan := { c.discard with signals := c.signals, seq := q }

/-- A channel closed (R194): what it holds and has in flight is discarded, at the sender, in the mesh and at the receiver, and its sending
end is no longer open. Signals go on. DESIGN CHOICE (assumption 54): a dynamic channel that has a signal to send keeps its departure
slot until the job's counter-residue report. -/
def State.closeChannel (s : State) (t n : Nat) : State :=
  let drop (f : Flit) : Bool := (f.kind == 0 || f.kind == 3) && f.edge.isNone && f.gran.isNone && f.dpt == t && f.rchn == n
  let keep (q : List Flit) : List Flit := q.filter (fun f => !drop f)
  let clean (m : SMap (List Flit)) : SMap (List Flit) := (m.map (fun kv => (kv.1, keep kv.2))).filter (fun kv => !kv.2.isEmpty)
  let q := match s.senderOf t n with
    | some (st, sn) => (s.snd st sn).seq
    | none => if s.hostFed t n then (SMap.get SndChan.reset s.host.chans (64 * t + n)).seq else (s.rcv t n).seq
  let s1 := { s with noc := { s.noc with queues := clean s.noc.queues, links := clean s.noc.links, chanQ := clean s.noc.chanQ } }
  let s2 := match s.senderOf t n with
    | some (st, sn) =>
      let s := s1.modTable st (fun b => { b with sends := b.sends.filter (fun i => i.chn != sn || i.signal.isSome) })
      let busy := (s.table st).sends.any (fun i => i.chn == sn) || !(SMap.get [] s.noc.chanQ (lqKey st sn false)).isEmpty
      if (s.snd st sn).dyn ∧ busy then s else s.modSnd st sn (fun c => { c with cfg := c.cfg &&& 0xFEFFFFFF })
    | none => s1
  let s3 := s2.modTable t (fun b => { b with landing := b.landing.filter (fun f => !(f.rchn == n && f.gran.isNone)) })
  s3.modRcv t n (fun c => c.emptied q)

/-- The sending ends of job `b` closed with the counter-residue report. -/
def State.shutSends (s : State) (b : Job) : State :=
  b.tables.foldl (fun acc t => acc.modTable t (fun x => { x with
    snd := SMap.mapAll SndChan.reset x.snd (fun _ c => { c with cfg := c.cfg &&& 0xFEFFFFFF }) })) s

/-- The receive channels of job `b` both of whose ends have ended, as (table, channel). -/
def State.closing (s : State) (b : Job) : List (Nat × Nat) :=
  (b.tables.filter (fun t => (s.table t).run == 3)).flatMap (fun t =>
    ((s.table t).rcv.filter (fun kv => kv.2.rsize != 0 && (match s.senderOf t kv.1 with
      | some (st, _) => (s.table st).run == 3
      | none => true))).map (fun kv => (t, kv.1)))

/-- The channels of job `j` whose tasks have ended close (R194); what they discard is added to the job's count. -/
def State.closeChannels (s : State) (j : Nat) (b : Job) : State :=
  (s.closing b).foldl (fun acc x =>
    let n := acc.undelivered x.1 x.2
    (acc.closeChannel x.1 x.2).modJob j (fun b => { b with undelivered := b.undelivered + n })) s

/-- ACC_SUMMARY over the cores of a table (R92). -/
def State.summary (s : State) (t : Nat) : BitVec 5 :=
  (s.tableCores t).foldl (fun v x => v ||| (s.csrAt (accReg x.2 0)).extractLsb' 0 5) 0

/-- The task of table `t` in job `j` ends: its counts go to the completion record, channels close, and a pause that was to
stop it has failed (R132, R194, R252, R275). -/
def State.endTask (s : State) (t j : Nat) : State :=
  let b := s.table t
  let sum := s.summary t
  let s := s.modTable t (fun b => { b with run := 3, hostHeld := 0 })
  let s := s.modJob j (fun x => { x with
    tasks := SMap.set ⟨0, 0, 0⟩ x.tasks b.jobTable ⟨b.tcc, b.late, b.lateCc⟩
    summary := x.summary ||| sum, hostTicks := x.hostTicks + b.hostHeld })
  let s := if (s.job j).any (fun x => decide (x.state = .pausing)) then s.pauseFails j else s
  match s.job j with
  | none => s
  | some x =>
    let s := s.closeChannels j x
    match s.job j with
    | none => s
    | some x =>
      if x.tables.all (fun u => (s.table u).run == 3) ∧ 0 < x.undelivered then
        s.raise ⟨0x2302, clsContained, some j, none, none, x.undelivered % 2 ^ 32⟩
      else s

/-- TASK_END (R132). -/
def execTaskEnd (t : Nat) (s : State) : Host.Outcome State Fault Refusal :=
  .next (if (s.table t).run ≠ 1 ∨ s.stopped t ∨ ¬ s.taskOver t (s.cyc t) then s else
    match (s.table t).job with
    | some j => s.endTask t j
    | none => s.modTable t (fun b => { b with run := 3 }))

/-! ### Signals at the receiver (R169, R207) -/

/-- The earliest signal of a channel may be applied: every part of an earlier message has retired, in an earlier cycle. -/
def RcvChan.signalReady (c : RcvChan) (tag : BitVec 64) : Bool :=
  decide ((c.seq - BitVec.ofNat 21 (field tag 34 14)).toNat < 0x100000)

/-- SIGNAL_APPLY (R169). The messages of a channel from another device are discarded once its receiving task has ended (R194), so that
no signal waits for them. -/
def execSignalApply (t rchn : Nat) (s : State) : Host.Outcome State Fault Refusal :=
  .next (match (s.rcv t rchn).signals with
    | [] => s
    | tag :: rest =>
      if ((s.rcv t rchn).signalReady tag ∨ ((s.rcv t rchn).xdev ∧ (s.table t).run = 3)) ∧ ¬ s.stopped t then
        (s.modRcv t rchn (fun c => { c with signals := rest })).addCounter t (field tag 42 35) (field tag 50 43)
      else s)

/-! ### The counter-residue report (R175, R176) -/

/-- One residue entry. -/
def residueEntry (ctr ltable kind final init : Nat) : BitVec 64 :=
  BitVec.ofNat 64 (packBits [(8, ctr), (6, ltable), (2, kind), (24, final), (24, init)])

/-- Residue of the table counters of table `t`, in rising counter number. -/
def State.tableResidue (s : State) (t : Nat) : List (BitVec 64) :=
  let b := s.table t
  (List.range 256).filterMap (fun n =>
    let v := (SMap.get 0 b.ctr n).toNat
    let i := (SMap.get 0 b.ctrInit n).toNat
    if v = i then none else some (residueEntry n b.jobTable 0 v i))

/-- Residue of the host counters of job `j`. -/
def State.hostResidue (s : State) (j : Nat) (b : Job) : List (BitVec 64) :=
  (List.range 64).filterMap (fun n =>
    let v := s.hostCounter j n
    let d := SMap.get 0 b.ctrDir n
    if v = 0 then none else some (residueEntry n 0 (if d = 1 then 1 else if d = 2 then 2 else 3) v 0))

/-- A repetition of job `j` with SIG moves: its completion is to signal a table counter (R171). -/
def State.completionDue (s : State) (j : Nat) : Bool :=
  s.dma.any (fun kv => decide (kv.2.job = some j ∧ kv.2.state = 2) &&
    (SMap.get 0 s.descs (1024 * (kv.1 / 128) + field kv.2.ctl 9 0)).getLsbD 17)

/-- Outbound entries of a queue of core `k` are on their way, and its declared counter is to be signalled (R220). -/
def State.queueSignalDue (s : State) (k : Nat) : Bool :=
  (List.range 16).any (fun q => (s.qcfg k q).out && (s.qcfg k q).ctr.isSome && decide (0 < (s.qst k q).pend))

/-- A signal cell of a table of the job waits in a fabric port, to leave or for cells before it. -/
def State.signalCell (s : State) (ts : List Nat) : Bool :=
  s.ports.any (fun p => p.2.outQ.any (fun c => decide (c.1 < 0x4000) && ts.contains (c.1 / 128) && field c.2.2.tag 1 0 == 1) ||
    p.2.ahead.any (fun c => field c.tag 1 0 == 1 && ts.contains (s.physTable (field c.tag 7 2))))

/-- A signal of the job is still in flight. -/
def State.signalInFlight (s : State) (j : Nat) (b : Job) : Bool :=
  s.flits.any (fun f => f.kind == 1 && f.gran.isNone && b.tables.contains (if f.edge.isSome then f.src / 128 else f.dpt)) ||
    s.completionDue j || s.signalCell b.tables ||
    b.tables.any (fun t => (s.table t).rcv.any (fun kv => !kv.2.signals.isEmpty) ||
      (s.table t).sends.any (fun i => i.signal.isSome) ||
      (s.tableCores t).any (fun x => s.queueSignalDue x.2) ||
      (s.table t).pend.any (fun p => match p.eff with | .counterAdd .. | .hostAdd .. => true | _ => false))

/-- The report of job `j`: all entries by job table, then the host counters. -/
def State.takeResidue (s : State) (j : Nat) (b : Job) : State :=
  let all := b.tables.flatMap s.tableResidue ++ s.hostResidue j b
  let s := b.tables.foldl (fun acc t => acc.setCsr (synReg t 0x844) (BitVec.ofNat 32 (s.tableResidue t).length)) s
  let s := s.modJob j (fun x => { x with residue := all.take 16, rcount := all.length, residueTaken := true })
  if all.isEmpty then s else s.raise ⟨0x1103, clsContained, some j, none, none, all.length⟩

/-- SYN_RESIDUE (R175): once every task of the job has ended and none of its signals is in flight. -/
def execSynResidue (j : Nat) (s : State) : Host.Outcome State Fault Refusal :=
  .next (match s.job j with
    | none => s
    | some b =>
      if (b.state = .running ∨ b.state = .pausing) ∧ ¬ b.trapped ∧ ¬ b.residueTaken ∧ b.tables.all (fun t => (s.table t).run == 3) ∧
          ¬ s.signalInFlight j b then (s.takeResidue j b).shutSends b
      else s)

end Sys2Proof.Machine
end

