-- ==== Sys2Proof/Machine/Granule.lean ====
section
/-!
DEFINITION. The bytes of one granule (R146, R155, R209, R225, R226, R236): corrected and uncorrectable errors of the tiers, reading a
granule at its source, and writing it at its destination.
-/
namespace Sys2Proof.Machine

/-! ### Errors of the tiers (R225, R226) -/

/-- The job that a requester works for. -/
def State.ownerJob (s : State) (o : Requester) : Option Nat :=
  match o with
  | .queue t _ _ _ => (s.table t).job
  | .dma blk ch => (s.dmaCh (dmaKey blk ch)).job

/-- DMA_FAULT of a block (R237). -/
def dmaFaultReg (blk : Nat) : Nat := dmaBase blk + 0xC00

/-- A fault of a DMA channel recorded, its event raised and its job aborted. -/
def State.dmaFault (s : State) (blk ch code cause : Nat) : State :=
  let v := BitVec.ofNat 32 (ch + cause <<< 7)
  let d := s.dmaCh (dmaKey blk ch)
  let s := (s.recordFault (dmaFaultReg blk) v).raise
    ⟨code, clsContained, d.job, some (dmaRegion blk), none, (v ||| 0x80000000).toNat⟩
  match d.job with
  | some j => s.abortJob j code
  | none => s

/-- An uncorrectable granule of a request: cause 0b101 is recorded, MEM_UE raised and the job aborted. -/
def State.memUe (s : State) (g : Granule) (a : Nat) : State :=
  match g.owner with
  | .dma blk ch => s.dmaFault blk ch 0x2404 5
  | .queue t k q _ =>
    let base := match g.tier with | some tier => s.winBase tier t | none => 0
    let v : Word := BitVec.ofNat 32 (q + s.logCore t (k % 34) <<< 4 + 5 <<< 10)
    let s := if (s.csrAt (tblReg t 0x500)).getLsbD 31 then s else s.setCsr (tblReg t 0x504) (BitVec.ofNat 32 (a - base))
    (s.recordFault (tblReg t 0x500) v).faultTable t 0x2404 ((v ||| 0x80000000).toNat + ((a - base) % 2 ^ 32) <<< 32)

/-- HBM_STKs_STAT of stack `n`. -/
def stkStat (n : Nat) : Nat := hbmBase + 0x100 + 4 * n

/-- The controller begins to copy a channel to a spare of its stack (R226): COPY of HBM_STKs_STAT is set. -/
def State.beginCopy (s : State) (stack chan : Nat) : State :=
  ({ s with mem := { s.mem with copying := s.mem.copying ++ [(stack, chan)] } }).modCsr (stkStat stack) (fun v => v ||| 4)

/-- The copy that waits for another channel of the stack begins, if a spare is left. -/
def State.nextCopy (s : State) (stack : Nat) : State :=
  match s.mem.copyDue.find? (fun c => c.1 == stack) with
  | none => s
  | some c =>
    let s := { s with mem := { s.mem with copyDue := s.mem.copyDue.erase c } }
    if field (s.csrAt (stkStat stack)) 1 0 < 2 then s.beginCopy stack c.2 else s

/-- A corrected error of an HBM channel counted towards its threshold; at the threshold the controller begins to copy the
channel to a spare of its stack, if one is left; behind another channel of the stack the copy waits (R226). -/
def State.countHbmCe (s : State) (stack chan : Nat) : State :=
  let key := 32 * stack + chan
  let seen := (SMap.get [] s.mem.ceSeen key).filter (fun b => decide (s.beacon < b + s.recs.hbmWin)) ++ [s.beacon]
  if seen.length < s.recs.hbmThr then { s with mem := { s.mem with ceSeen := SMap.set [] s.mem.ceSeen key seen } }
  else
    let s := { s with mem := { s.mem with ceSeen := SMap.set [] s.mem.ceSeen key [] } }
    if 2 ≤ field (s.csrAt (stkStat stack)) 1 0 ∨ s.mem.copying.contains (stack, chan) ∨ s.mem.copyDue.contains (stack, chan) then s
    else if s.mem.copying.any (fun c => c.1 == stack) then { s with mem := { s.mem with copyDue := s.mem.copyDue ++ [(stack, chan)] } }
    else s.beginCopy stack chan

/-- A corrected granule of a tier: delivered, counted and reported (R225). -/
def State.corrected (s : State) (tier : Tier) (a : Nat) (device : BitVec 5) : State :=
  match tier with
  | .hbm =>
    let (st, ch) := hbmMap a
    ((s.countUp (hbmBase + 0x200 + 4 * st) 1).raise
      ⟨0x2406, clsCorrected, none, some (72 + st / 2), none, st + ch <<< 4⟩).countHbmCe st ch
  | .ddr =>
    match s.mem.ddrMap a with
    | none => s
    | some (ch, _) => (s.countUp (ddrBase + 0x200 + 4 * ch) 1).raise
        ⟨0x2407, clsCorrected, none, some (if ch < 8 then 80 else 81), none, ch + device.toNat <<< 4⟩

/-! ### The tiers, granule by granule -/

/-- The memory of a tier. -/
def MemSys.tierMem (m : MemSys) (tier : Tier) : SMap Byte := match tier with | .hbm => m.hbm | .ddr => m.ddr

/-- The memory of a tier changed. -/
def MemSys.modTier (m : MemSys) (tier : Tier) (f : SMap Byte → SMap Byte) : MemSys :=
  match tier with | .hbm => { m with hbm := f m.hbm } | .ddr => { m with ddr := f m.ddr }

/-- Bytes of a tier's granule: what its check bits cover (R225). -/
def tierUnit (tier : Tier) : Nat := match tier with | .hbm => 32 | .ddr => 64

/-- Key of granule `i` of a tier among the granules known bad. -/
def badKey (tier : Tier) (i : Nat) : Nat := match tier with | .hbm => 2 * i | .ddr => 2 * i + 1

/-- Granule `i` of a tier holds an uncorrectable error. -/
def MemSys.isBad (m : MemSys) (tier : Tier) (i : Nat) : Bool := SMap.get false m.bad (badKey tier i)

/-- Granules of a tier marked as holding an uncorrectable error, or freed of one. -/
def MemSys.markBad (m : MemSys) (tier : Tier) (us : List Nat) (v : Bool) : MemSys :=
  { m with bad := SMap.setAll false m.bad (us.map (fun i => (badKey tier i, v))) }

/-- The granules of `u` bytes that `n` bytes at `a` touch. -/
def unitsOf (u a n : Nat) : List Nat := ((List.range n).map (fun i => (a + i) / u)).eraseDups

/-- Bytes of a tier as a reader gets them: zero in a granule known bad. -/
def MemSys.tierBytes (m : MemSys) (tier : Tier) (a n : Nat) : List Byte :=
  (List.range n).map (fun i => if m.isBad tier ((a + i) / tierUnit tier) then 0 else SMap.get 0 (m.tierMem tier) (a + i))

/-- The granules of a tier that a write of `n` bytes at `a` covers in part. -/
def narrowUnits (tier : Tier) (a n : Nat) : List Nat :=
  (unitsOf (tierUnit tier) a n).filter (fun i => !(decide (a ≤ tierUnit tier * i) && decide (tierUnit tier * (i + 1) ≤ a + n)))

/-- Bytes written to a tier: whole granules are replaced and lose any error they held; a narrow write leaves a granule known bad as it
is. Its second part is the first of those (R225, R236). -/
def MemSys.putTier (m : MemSys) (tier : Tier) (a : Nat) (bs : List Byte) : MemSys × Option Nat :=
  let u := tierUnit tier
  let narrow := narrowUnits tier a bs.length
  let bad := narrow.filter (m.isBad tier)
  let cells := (bs.zipIdx.map (fun b => (a + b.2, b.1))).filter (fun c => !bad.contains (c.1 / u))
  ((m.modTier tier (SMap.setAll 0 · cells)).markBad tier ((unitsOf u a bs.length).filter (fun i => !narrow.contains i)) false, bad.head?)

/-- A read of a tier: `err` is what the controller finds; an uncorrectable granule is delivered as zeros and holds its error (R225). -/
def State.readTier (s : State) (tier : Tier) (g : Granule) (a : Nat) (err : GranuleErr) : List Byte × State :=
  let us := unitsOf (tierUnit tier) a g.len
  let s := if err = .uncorrectable then { s with mem := s.mem.markBad tier us true } else s
  let bs := s.mem.tierBytes tier a g.len
  match us.find? (s.mem.isBad tier ·), err with
  | some u, _ => (bs, s.memUe g (u * tierUnit tier))
  | none, .corrected d => (bs, s.corrected tier a d)
  | none, _ => (bs, s)

/-- A write of a tier (R225, R236): whole granules are replaced, and lose any error they held; a narrow write reads, merges and
writes, and leaves an uncorrectable granule as it is. -/
def State.writeTier (s : State) (tier : Tier) (g : Granule) (err : GranuleErr) (a : Nat) (bs : List Byte) : State :=
  let narrow := narrowUnits tier a bs.length
  let m := if err = .uncorrectable then s.mem.markBad tier narrow true else s.mem
  let r := m.putTier tier a bs
  let s := { s with mem := r.1 }
  match r.2, narrow, err with
  | some i, _, _ => s.memUe g (tierUnit tier * i)
  | none, _ :: _, .corrected d => s.corrected tier a d
  | none, _, _ => s

/-- A tier granule cannot be reached: past its tier, on a lost channel or in a hole. -/
def State.placeGone (s : State) (p : Place) : Bool :=
  match p with
  | .hbm a => s.mem.hbmGone a
  | .ddr a => s.mem.ddrGone a
  | _ => false

/-! ### Reading and writing a place (R146, R155, R221) -/

/-- The table whose share holds a shelf address. -/
def shareOwner (a : Nat) : Nat := a / 0x0F000000

/-- The table in whose region a place lies: its share or a core's scratchpad. -/
def Place.table : Place → Option Nat
  | .shelf a => some (shareOwner a)
  | .spd k _ => some (k / 34)
  | _ => none

/-- The core whose shelf path a transfer uses, and whether toward the scratchpad (R152). -/
def Granule.path (g : Granule) : Option (Nat × Bool) :=
  match g.src, g.dst with
  | .shelf a, .spd k _ => if shareOwner a = k / 34 then some (k, true) else none
  | .spd k _, .shelf a => if shareOwner a = k / 34 then some (k, false) else none
  | _, _ => none

/-- Nothing holds the granule back: no region that it reads, writes or crosses is stopped (R313, R315), the source core's port has a
turn for it (R141), and no SHLD or SHST uses the shelf path (R152). -/
def State.granuleFree (s : State) (g : Granule) : Bool :=
  !(g.src.table.any (s.stopped ·)) && !(g.dst.table.any (s.stopped ·)) &&
  (match g.owner with
    | .dma blk _ => !s.stopped (dmaRegion blk)
    | .queue .. => true) &&
  (match g.src with
    | .spd k _ => (s.core k).portFree
    | _ => true) &&
  (match g.path with
    | some (k, inward) => (s.core k).pathFree inward
    | none => true)

/-- What a granule's bytes take of the source core's port and of the shelf path. -/
def State.takePorts (s : State) (g : Granule) : State :=
  let s := match g.src with
    | .spd k _ => s.modCore k (fun c => { c with portOwed := c.portOwed + g.len })
    | _ => s
  match g.path with
  | some (k, true) => s.modCore k (fun c => { c with shelfIn := c.shelfIn + g.len })
  | some (k, false) => s.modCore k (fun c => { c with shelfOut := c.shelfOut + g.len })
  | none => s

/-- A granule's bytes read at its source; `data` is what a host read brings. The detector sees a scratchpad read as that of slot 6. -/
def State.readGranule (s : State) (g : Granule) (err : GranuleErr) (data : List Byte) : List Byte × State :=
  let zeros := List.replicate g.len (0 : Byte)
  if s.placeGone g.src then (zeros, s) else
  match g.src with
  | .hbm a => s.readTier .hbm g a err
  | .ddr a => s.readTier .ddr g a err
  | .shelf a =>
    let r := s.mem.shelfRead a g.len
    let t := shareOwner a
    let off := fun u => u - (shareBase t + s.shfBase t)
    (r.1, (s.countCe (shfReg t 0x10) r.2.2).accFaults t false (r.2.1.toList.map (fun u => .shelfUe 0 (off u))))
  | .spd k a =>
    let t := k / 34
    let r := s.spdFetch t 6 (s.table t).seq.pc (s.logCore t (k % 34)) k 1 (spdSpan a g.len)
    (r.1, r.2.1.accFaults t false r.2.2)
  | .host .. => ((data ++ zeros).take g.len, s)
  | .bytes bs => (bs, s)
  | .msg _ => (zeros, s)

/-- The fill's source for a requester. -/
def Requester.fill : Requester → FillFrom
  | .queue _ _ q e => .queue q e
  | .dma blk ch => .dma blk ch

/-- A granule's bytes written at its destination. A scratchpad destination takes them through the fill port. -/
def State.writeGranule (s : State) (g : Granule) (err : GranuleErr) (bs : List Byte) : State :=
  match g.dst with
  | .hbm a => if s.placeGone g.dst then s else s.writeTier .hbm g err a bs
  | .ddr a => if s.placeGone g.dst then s else s.writeTier .ddr g err a bs
  | .shelf a =>
    let t := shareOwner a
    let r := s.mem.shelfWrite a bs
    let s := ({ s with mem := r.1 }).countCe (shfReg t 0x10) r.2.2
    s.accFaults t false (r.2.1.toList.map (fun u => .shelfUe 0 (u - (shareBase t + s.shfBase t))))
  | .spd k a => s.modCore k (fun c => { c with fills := c.fills ++ [⟨g.owner.fill, a, bs⟩] })
  | .host j w off =>
    match (s.job j).bind (fun b => (b.body.hwin.drop w).head?) with
    | some (va, _, rkey) => s.send (.write (BitVec.ofNat 24 (256 + j)) rkey (va + BitVec.ofNat 64 off) bs)
    | none => s
  | .msg off =>
    match g.owner with
    | .dma blk ch => s.modDma (dmaKey blk ch) (fun d => { d with
        msgBuf := d.msgBuf.take off ++ bs ++ d.msgBuf.drop (off + bs.length) })
    | .queue .. => s
  | .bytes _ => s

end Sys2Proof.Machine
end

