-- ==== Sys2Proof/Machine/Network.lean ====
section
/-!
DEFINITION. The movement of flits (R183 to R191, R199, R206, R292): departures from router outputs in their slots, arrivals at
router inputs, crossing buffers and the stops they cause, what the L output hands to its table, and the links of the IO dies.
-/
namespace Sys2Proof.Machine

/-! ### What the L output hands to its table (R199, R200, R206, R207) -/

/-- A record's first granule: LEN, PAD and the part's header (R200). -/
def recordHead (len : Nat) (pad : Bool) (tag : BitVec 64) : List Byte := natLe 64 (packBits [(11, len), (1, b2n pad), (52, 0), (64, tag.toNat)])

/-- A record of a part placed in the ring of its core, behind a pad record where it would wrap; its bytes go to the fill
port. -/
def State.placeRecord (s : State) (t n : Nat) (p : Part) : State :=
  let lc := field p.tag 40 35
  let c := s.rcv t n
  let w := SMap.get 0 c.writePos lc
  let len := 1 + p.flits.length
  let pos := w % c.rsize
  let left := c.rsize - pos
  let pad := decide (left < len)
  let recPos := if pad then 0 else pos
  let fills : List Fill := (if pad then [⟨.head n, 64 * (c.rbase + pos), recordHead left true 0⟩] else []) ++
    [⟨.head n, 64 * (c.rbase + recPos), recordHead len false p.tag⟩, ⟨.ring n, 64 * (c.rbase + recPos) + 64, p.flits.flatten⟩]
  let recs := (if pad then [⟨pos, left, 0⟩] else []) ++ [⟨recPos, len, p.tag⟩]
  let s := s.modRcv t n (fun c => { c with
    writePos := SMap.set 0 c.writePos lc (w + ringTake c.rsize w len)
    records := SMap.modify [] c.records lc (· ++ recs), arriving := c.arriving ++ [p] })
  match s.physCore t lc with
  | none => s
  | some k => s.modCore (34 * t + k) (fun x => { x with fills := x.fills ++ fills })

/-- The lowest granules of a spill region of which no record occupies any, as many as asked. DESIGN CHOICE (assumption 55). -/
def freeCells (used : List Nat) (n : Nat) : List Nat :=
  ((List.range (used.length + n)).filter (fun i => !used.contains i)).take n

/-- The shelf address of granule `i` of a channel's spill region (R202, R208). -/
def RcvChan.cellAddr (c : RcvChan) (t i : Nat) : Nat := shareBase t + 4096 * c.sbase + 64 * i

/-- The record of a part written to the channel's spill region. -/
def State.spillPart (s : State) (t n : Nat) (p : Part) : State :=
  let c := s.rcv t n
  let cells := freeCells (c.spilled.flatMap (fun kv => kv.2.flatMap (·.cells))) (1 + p.flits.length)
  let m := (cells.zip (recordHead (1 + p.flits.length) false p.tag :: p.flits)).foldl
    (fun (m : MemSys) (x : Nat × List Byte) => (m.shelfWrite (c.cellAddr t x.1) x.2).1) s.mem
  ({ s with mem := m }).modRcv t n (fun c => { c with
    spilled := SMap.modify [] c.spilled (field p.tag 40 35) (· ++ [({ tag := p.tag, cells := cells } : Spilled)]) })

/-- The part that flit `f`, its last, completes: its flits leave the crossing buffer. -/
def State.completePart (s : State) (t : Nat) (f : Flit) : State :=
  let same (g : Flit) : Bool := g.rchn == f.rchn && g.seq == f.seq && field g.tag 40 35 == field f.tag 40 35
  let fs := (s.table t).landing.filter same
  let p : Part := ⟨((fs.head?).map (·.tag)).getD f.tag, fs.map (·.data)⟩
  let s := s.modTable t (fun b => { b with landing := b.landing.filter (fun g => !same g) })
  if f.tag.getLsbD 62 then s.spillPart t f.rchn p else s.placeRecord t f.rchn p

/-- The granules read of a ring of `size`, of which the sender knew `old`, now that the reader stands at `pos`: the first such total
that is not below `old`. DESIGN CHOICE (assumption 56). -/
def readTotal (old pos size : Nat) : Nat := old + (pos + size - old % size) % size

/-- A send end that a credit flit reaches (R206); the rings have `size` granules. For a channel from another device the spill region
holds nothing once all of it is free; on this device SPILL_MOVE says so. -/
def SndChan.credited (c : SndChan) (n size : Nat) (f : Flit) : SndChan :=
  { c with
    readPos := (List.range n).foldl (fun m r => SMap.modify 0 m r (fun old => readTotal old (rdLe f.data (2 * r) 2) size)) c.readPos
    spillFree := f.seq
    spilling := if c.xdev ∧ f.seq = c.spillSize then [] else c.spilling }

/-- A credit flit applied at send channel `n` of table `t`. -/
def State.applyCredit (s : State) (t n : Nat) (f : Flit) : State :=
  s.modSnd t n (fun c => c.credited s.fuses.cores (s.ringSize c) f)

/-- A flit that leaves by the L output of table `t`; one of a DMA transfer has its bytes written (R188). -/
def State.land (s : State) (t : Nat) (f : Flit) : State :=
  match f.gran with
  | some g => s.writeGranule g .clean f.data
  | none =>
  match f.kind with
  | 1 => s.modRcv t f.rchn (fun c => { c with signals := c.signals ++ [f.tag] })
  | 2 => s.applyCredit t f.rchn f
  | _ =>
    let s := s.modTable t (fun b => { b with landing := b.landing ++ [f] })
    if field f.tag 61 58 = field f.tag 57 54 then s.completePart t f else s

/-! ### Departures (R187, R191) -/

/-- The channels of table `r` that hold a pool entry of output `o` at the L input in slot `n`, each with its direction: the open
dynamic channels whose departure position it is (R195). -/
def State.poolHolders (s : State) (r o n : Nat) : List (Nat × Bool) :=
  let here (t i dst : Nat) : Bool :=
    routeOut r dst == o && ((s.poolOf t).drop i).head? == some n
  (((s.table r).snd.filter (fun kv => kv.2.dyn && kv.2.isOpen && here r kv.2.poolD.toNat (s.physTable kv.2.dlt))).map (fun kv => (kv.1, false))) ++
  (((s.table r).rcv.filter (fun kv => (s.senderOf r kv.1).any (fun x =>
    (s.snd x.1 x.2).dyn && here x.1 (s.snd x.1 x.2).poolD.toNat x.1))).map (fun kv => (kv.1, true)))

/-- The DMA channel, by its number in the job, that slot `n` of output `o` at the L input of table `r` serves (R188). -/
def State.dmaSlot (s : State) (r o n : Nat) : Option Nat :=
  ((s.table r).job.bind s.job).bind (fun b => b.dmaSlots.lookup (slotKey r o n))

/-- The queue that a slot-table entry names at output `o` of router `r` in slot `n`: a channel or a DMA transfer of the L input, or the
queue of another input. The second part is the input. A pool entry at the L input serves the open channel that holds it. -/
def State.slotQueue (s : State) (r o n : Nat) (e : BitVec 16) : Option (Bool × Nat × Nat) :=
  let inn := field e 2 0
  if inn = 0 ∨ inn = 7 then none
  else if inn = portL + 1 then
    if let some ch := s.dmaSlot r o n then some (true, dmaQueueKey r ch, portL)
    else if e.getLsbD 3 then
      let qs := (s.poolHolders r o n).map (fun x => lqKey r x.1 x.2)
      ((qs.find? (fun k => !(SMap.get [] s.noc.chanQ k).isEmpty)).orElse (fun _ => qs.head?)).map (fun k => (true, k, portL))
    else some (true, lqKey r (field e 9 4) (e.getLsbD 10), portL)
  else some (false, queueKey r (inn - 1) o, inn - 1)

/-- The oldest flit of a queue taken out. -/
def State.popFlit (s : State) (q : Bool × Nat × Nat) : State :=
  if q.1 then { s with noc := { s.noc with chanQ := SMap.modify [] s.noc.chanQ q.2.1 List.tail } }
  else { s with noc := { s.noc with queues := SMap.modify [] s.noc.queues q.2.1 List.tail } }

/-- The queue's oldest flit. -/
def State.oldestFlit (s : State) (q : Bool × Nat × Nat) : Option Flit :=
  (if q.1 then SMap.get [] s.noc.chanQ q.2.1 else SMap.get [] s.noc.queues q.2.1).head?

/-- Fault containment drops a flit at the L output of a table out of service or held with FAULT (R191, R366, R367). -/
def State.dropsAt (s : State) (r o : Nat) : Bool := o == portL && (s.outOfService r || s.hasCause r causeFault)

/-- A sent flit of a part frees its place in its core's send buffer (R196). -/
def State.freeSendBuf (s : State) (r : Nat) (f : Flit) : State :=
  if f.kind = 1 ∨ f.kind = 2 ∨ f.gran.isSome then s else
  let c := s.snd r (f.src % 128 / 2)
  let n := s.fuses.cores
  match s.physCore r ((field f.tag 40 35 + (n - c.ofs % n)) % n) with
  | none => s
  | some k => s.modCore (34 * r + k) (fun x => { x with sendBuf := x.sendBuf - 1 })

/-- A flit put on the link into input `i` of router `r`. -/
def State.putLink (s : State) (r i : Nat) (f : Flit) : State :=
  { s with noc := { s.noc with links := SMap.modify [] s.noc.links (linkKey r i) (· ++ [f]) } }

/-- A flit leaves output `o` of router `r` in network cycle `n`; `planned` is its planned slot there. -/
def State.forward (s : State) (r o n planned : Nat) (f : Flit) : State :=
  let d := dieRegion r
  let go (lat : Nat) : Flit := { f with slot := (planned + lat) % s.slots, dueReg := d, dueNet := n + lat }
  if o = portL then s.land r f
  else if o = portI then s.putLink r 6 (go 24)
  else match neighbour r o with
    | some (m, i) => s.putLink m i (go (hopLat r o))
    | none => s

/-- The network cycles of the current window in which output `o` of router `r` has not sent. -/
def State.openCycles (s : State) (r o : Nat) : List Nat :=
  let w := s.netWindow (dieRegion r)
  let sent := SMap.get 0 s.noc.sent (8 * r + o)
  w.filter (fun n => !(w.any (fun m => decide (n ≤ m) && sent == m + 1)))

/-- The flit stood in its queue in network cycle `n` of region `d`. -/
def State.stood (s : State) (d n : Nat) (f : Flit) : Bool := decide (f.dueNet + (s.net d - n) ≤ s.net f.dueReg)

/-- The first cycle in which output `o` of router `r` finds a flit in the queue that its entry names: the cycle, the queue and
its oldest flit. -/
def State.departure (s : State) (r o : Nat) : Option (Nat × (Bool × Nat × Nat) × Flit) :=
  (s.openCycles r o).findSome? (fun n =>
    let slot := n % s.slots
    (s.slotQueue r o slot (s.slotEntry r o slot)).bind (fun q =>
      ((s.oldestFlit q).filter (s.stood (dieRegion r) n)).map (fun f => (n, q, f))))

/-- FLIT_DEPART: in its slot, output `out` of the router sends the oldest flit of the input or channel that the entry names;
nothing else uses the slot. A flit from a crossing buffer that leaves in another slot than its planned one is counted in
NOC_XLATE. -/
def execFlitDepart (router out : Nat) (s : State) : Host.Outcome State Fault Refusal :=
  .next (
    if 64 ≤ router ∨ 6 ≤ out ∨ s.stopped (dieRegion router) then s else
    match s.departure router out with
    | none => s
    | some (n, q, f) =>
      let slot := n % s.slots
      if (s.outputFull router out (some f)).1 then s.checkFull (router / 8)
      else if out = portL ∧ f.gran.isSome ∧ s.stopped router then s else
      let s := s.popFlit q
      let s := { s with noc := { s.noc with sent := SMap.set 0 s.noc.sent (8 * router + out) (n + 1) } }
      let late := isCrossing router q.2.2 && slot != f.slot
      let s := if late then s.countUp (nocBase (router / 8) + 0x10) 1 else s
      let s := if q.1 then s.freeSendBuf router f else s
      let s := if s.dropsAt router out then s else s.forward router out n (if q.1 then slot else f.slot) f
      (s.checkFeeder router q.2.2).checkFull (router / 8))

/-! ### The IO dies (R290, R292, R412) -/

/-- The departure slots of a flow from an IO die to channel `n` of table `t`; credit flows are numbered from 64 on. -/
def State.ioSlots (s : State) (t n : Nat) : List Nat :=
  (((s.table t).job.bind s.job).bind (fun b => b.ioFlows.findSome? (fun x => if x.1 = t ∧ x.2.1 = n then some x.2.2 else none))).getD []

/-- The router at which a flow from the IO die of row `edge` to table `t` enters the mesh. -/
def entryRouter (edge t : Nat) : Nat := routerOf edge (routerCol t)

/-- The first network cycle from `n` on whose slot is one of `ds`. -/
def nextSlot (slots : Nat) (ds : List Nat) (n : Nat) : Nat :=
  n + ((List.range slots).find? (fun i => ds.contains ((n + i) % slots))).getD 0

/-- A flit leaves the IO die of row `edge` for table `t` in the next departure slot of its flow that begins `wait` network cycles from
now or later, behind the flits of the same source. -/
def State.enterMesh (s : State) (edge t n wait : Nat) (f : Flit) : State :=
  let r := entryRouter edge t
  let reg := ioRegion edge
  let q := SMap.get [] s.noc.links (linkKey r portI)
  let mine := (q.filter (fun g => g.src == f.src && g.dpt == t && decide ((g.kind == 2) = (f.kind == 2)) && g.rchn == f.rchn)).map (fun g => g.dueNet - 16 + 1)
  let dep := nextSlot s.slots (s.ioSlots t n) (mine.foldl Nat.max (s.net reg + wait))
  s.putLink r portI { f with slot := (dep + 16) % s.slots, dueReg := reg, dueNet := dep + 16, edge := none }

/-- The flits of a part sent by the host (R198, R273): UNIT is the receiving handler's. -/
def hostFlits (t n seq hidx nparts : Nat) (unit : Bool) (core : Nat) (spill : Bool) (fs : List (List Byte)) : List Flit :=
  fs.zipIdx.map (fun d => ⟨partTag t n seq core hidx unit nparts fs.length d.2 spill, d.1, 0, 0, 0, 0x5000, none, none⟩)

/-- A waiting TASK_MSG sent if its credit condition holds (R196, R273). -/
def State.tryHostMsg (s : State) (m : HostMsg) : Option State :=
  let key := 64 * m.table + m.rchn
  let c := SMap.get SndChan.reset s.host.chans key
  let f := ((m.parts.head?).map (·.2.length)).getD 1
  match c.credit (s.rcv m.table m.rchn).rsize f (m.parts.map (·.1)) with
  | none => none
  | some (spills, c') =>
    let unit := (SMap.get 0 (s.table m.table).htab m.hidx).getLsbD 17
    let s := { s with host := { s.host with chans := SMap.set SndChan.reset s.host.chans key { c' with seq := c.seq + 1 } } }
    let fs := (m.parts.zip spills).flatMap (fun p => hostFlits m.table m.rchn c.seq.toNat m.hidx m.parts.length unit p.1.1 p.2 p.1.2)
    some (fs.foldl (fun acc f => acc.enterMesh 0 m.table m.rchn 0 f) s)

/-- The waiting messages of the host, in order for each job, sent as far as their credit goes. -/
def State.pumpHost (s : State) : State :=
  let r := s.host.msgs.foldl (fun (acc : State × List HostMsg) m =>
    if acc.2.any (fun x => x.job == m.job) then (acc.1, acc.2 ++ [m]) else
    match acc.1.tryHostMsg m with
    | some s' => (s', acc.2)
    | none => (acc.1, acc.2 ++ [m])) (s, [])
  { r.1 with host := { r.1.host with msgs := r.2 } }

/-- A flit reaches the IO die of router `r`'s column: a credit flit of a channel that the host feeds is taken by the host
port, and any other waits for its port (R292). -/
def State.reachIo (s : State) (f : Flit) : State :=
  let t := f.src / 128
  let n := f.src % 128 / 2
  if f.kind = 2 ∧ s.hostFed t n then
    let key := 64 * t + n
    let c := (SMap.get SndChan.reset s.host.chans key).credited s.fuses.cores (s.rcv t n).rsize f
    State.pumpHost { s with host := { s.host with chans := SMap.set SndChan.reset s.host.chans key c } }
  else
    let ddev := if f.kind = 2 then (s.rcv t n).sdev else (s.snd t n).ddev
    let data := f.data ++ List.replicate (64 - f.data.length) 0
    let cell : Cell := ⟨data, f.tag, 0, 0, 0, false, false, BitVec.ofNat 12 ddev, s.recs.fabric.addr, 0, 0⟩
    let q := s.routePort ddev
    if (s.port q).discard then s.countPort q 6 1 else s.modPort q (fun p => { p with outQ := p.outQ ++ [(f.src, 0, cell)] })

/-! ### Arrivals (R183, R191) -/

/-- The first flit of a link whose latency has elapsed, with the link without it. -/
def State.takeArrived (s : State) (q : List Flit) : Option (Flit × List Flit) :=
  match q with
  | [] => none
  | f :: rest =>
    if f.dueNet ≤ s.net f.dueReg then some (f, rest)
    else (s.takeArrived rest).map (fun x => (x.1, f :: x.2))

/-- FLIT_ARRIVE: the flit enters the queue for its next output; input 6 is the I input of the IO die. -/
def execFlitArrive (router inp : Nat) (s : State) : Host.Outcome State Fault Refusal :=
  .next (
    if 64 ≤ router ∨ 7 ≤ inp ∨ (inp < 6 ∧ ¬ isCrossing router inp ∧ s.stopped (dieRegion router)) then s else
    match s.takeArrived (SMap.get [] s.noc.links (linkKey router inp)) with
    | none => s
    | some (f, rest) =>
      if inp = portI ∧ 6160 ≤ s.inputUse router portI - (rest.length + 1) then s else
      let s := { s with noc := { s.noc with links := SMap.set [] s.noc.links (linkKey router inp) rest } }
      if inp = 6 then (s.reachIo f).checkFull (router / 8)
      else
        let key := queueKey router inp (State.flitOut router f)
        let s := { s with noc := { s.noc with queues := SMap.modify [] s.noc.queues key (· ++ [f]) } }
        s.checkFeeder router inp)

/-! ### Rings (R199, R200, R202) -/

/-- Every byte of a record in core `k`'s ring of channel `n` has been written. -/
def Core.written (k : Core) (n base : Nat) (r : Record) : Bool :=
  k.fills.all (fun f => !((decide (f.src = .ring n) || decide (f.src = .head n)) && decide (64 * (base + r.pos) ≤ f.addr) &&
    decide (f.addr < 64 * (base + r.pos + r.len))))

/-- The receive channel after a part of message `q` of `parts` parts retires in cycle `c`. -/
def RcvChan.retire (x : RcvChan) (q : BitVec 21) (parts c : Nat) : RcvChan :=
  if x.retired.any (fun r => decide (r.1 = q)) then
    { x with retired := x.retired.map (fun r => if r.1 = q then (r.1, r.2.1 - 1, c) else r) }
  else { x with retired := x.retired ++ [(q, parts - 1, c)] }

/-- PART_RETIRE: the oldest arriving part of logical core `c` retires once its record is fully written. -/
def execPartRetire (t rchn c : Nat) (s : State) : Host.Outcome State Fault Refusal :=
  .next (
    let x := s.rcv t rchn
    match x.arriving.find? (fun p => field p.tag 40 35 == c), s.physCore t c with
    | some p, some k =>
      match (SMap.get [] x.records c).find? (fun r => decide (r.tag = p.tag)) with
      | none => s
      | some r =>
        if (s.core (34 * t + k)).written rchn x.rbase r && !s.stopped t then
          s.modRcv t rchn (fun x =>
            let x := x.retire (p.tag.extractLsb' 14 21) (field p.tag 53 48) (s.cyc t)
            { x with arriving := x.arriving.erase p })
        else s
    | _, _ => s)

/-- A spilled part of the channel for core `c` no longer counts at its sender on this device. -/
def State.unspill (s : State) (t n c : Nat) : State :=
  match s.senderOf t n with
  | some (st, sn) => s.modSnd st sn (fun x => { x with spilling := SMap.modify 0 x.spilling c (· - 1) })
  | none => if s.hostFed t n then
      let chans := SMap.modify SndChan.reset s.host.chans (64 * t + n)
        (fun x => { x with spilling := SMap.modify 0 x.spilling c (· - 1) })
      { s with host := { s.host with chans := chans } }
    else s

/-- The granules of a spilled record read from the shelf, with the errors that this meets (R155). -/
def State.readSpilled (s : State) (t n lc : Nat) (p : Spilled) : List (List Byte) × State :=
  let c := s.rcv t n
  let rs := p.cells.map (fun i => s.mem.shelfRead (c.cellAddr t i) 64)
  let ue := (rs.findSome? (·.2.1)).toList.map (fun u => AccFault.shelfUe lc (u - (shareBase t + s.shfBase t)))
  (rs.map (·.1), (s.countCe (shfReg t 0x10) (rs.map (·.2.2)).sum).accFaults t false ue)

/-- SPILL_MOVE (R202): the oldest spilled record of logical core `c` moves into the ring if it has room there, over the core's shelf
path in a cycle that leaves it free (R152). -/
def execSpillMove (t rchn c : Nat) (s : State) : Host.Outcome State Fault Refusal :=
  .next (
    let x := s.rcv t rchn
    match SMap.get [] x.spilled c, s.physCore t c with
    | p :: rest, some k =>
      let w := SMap.get 0 x.writePos c
      if w + ringTake x.rsize w p.cells.length - SMap.get 0 x.readPos c ≤ x.rsize ∧ ¬ s.stopped t ∧ (s.core (34 * t + k)).pathFree true then
        let r := s.readSpilled t rchn c p
        let s := r.2.modCore (34 * t + k) (fun y => { y with shelfIn := y.shelfIn + 64 * p.cells.length })
        ((s.modRcv t rchn (fun x => { x with spilled := SMap.set [] x.spilled c rest, creditDue := true })).placeRecord
          t rchn ⟨p.tag, r.1.drop 1⟩).unspill t rchn c
      else s
    | _, _ => s)

/-! ### Credit (R206) -/

/-- The credit flit of receive channel `n` of table `t`, with values as they stand now: read positions from 0 to RSIZE - 1. -/
def State.creditFlit (s : State) (t n : Nat) : Flit :=
  let x := s.rcv t n
  let d := match s.senderOf t n with
    | some (st, sn) => (st, sn)
    | none => if x.xdev then (x.sdlt, x.schn) else (t, n)
  let edge : Option Nat := match s.rcvEnd t n with
    | .io e => some e
    | .table _ => none
  { tag := creditTag d.1 d.2 x.spillFree
    data := (List.range 32).flatMap (fun r => natLe 2 (SMap.get 0 x.readPos r % x.rsize))
    slot := 0, dueReg := 0, dueNet := 0, src := lqKey t n true, edge := edge, gran := none }

/-- Slot `n` of output `out` belongs to the reverse flow of receive channel `rchn`. -/
def State.creditSlot (s : State) (t out rchn n : Nat) : Bool :=
  let e := s.slotEntry t out n
  field e 2 0 == portL + 1 &&
    (if e.getLsbD 3 then (s.poolHolders t out n).contains (rchn, true) else field e 9 4 == rchn && e.getLsbD 10)

/-- CREDIT_RETURN: in a slot of its reverse flow the receiver sends a credit flit that is due. -/
def execCreditReturn (t rchn : Nat) (s : State) : Host.Outcome State Fault Refusal :=
  .next (
    let out := (s.rcvEnd t rchn).next t
    if 64 ≤ t ∨ ¬ (s.rcv t rchn).creditDue ∨ s.stopped (dieRegion t) then s else
    match (s.openCycles t out).find? (fun n => s.creditSlot t out rchn (n % s.slots)) with
    | none => s
    | some n =>
      let f := s.creditFlit t rchn
      if (s.outputFull t out (some f)).1 then s.checkFull (t / 8) else
      let s := { s with noc := { s.noc with sent := SMap.set 0 s.noc.sent (8 * t + out) (n + 1) } }
      let s := s.modRcv t rchn (fun x => { x with creditDue := false })
      (if s.dropsAt t out then s else s.forward t out n (n % s.slots) f).checkFull (t / 8))

/-! ### Decoupled fills (R141, R146) -/

/-- DECOUPLED_FILL: in the current cycle of table `t` the fill port of logical core `c` serves its waiting fills. What it writes is
decided at the cycle's end, when every read and scheduled write of the cycle is known. -/
def execDecoupledFill (t c : Nat) (s : State) : Host.Outcome State Fault Refusal :=
  .next (
    match s.physCore t c with
    | none => s
    | some k => if s.stopped t then s else s.modCore (34 * t + k) (fun x => { x with fillReq := true }))

end Sys2Proof.Machine
end

