-- ==== Sys2Proof/Machine/Memory.lean ====
section
/-!
DEFINITION. The external tiers at work (R209 to R227, R236, R372): shapers, the reading and writing of granules, corrected and
uncorrectable errors, the decoupling queues' entries as their bytes retire, sparing, and lost channels.
-/
namespace Sys2Proof.Machine

/-! ### Shapers (R215) -/

/-- The largest credit of a shaper, 65,536 B, and the credit of one granule, in 1/16 B. -/
def creditMax : Nat := 65536 * 16
def creditGranule : Nat := 64 * 16

/-- Credit of a table's shaper for a tier now. -/
def State.tableCredit (s : State) (t : Nat) (tier : Tier) : Nat :=
  let b := s.table t
  let k := match tier with | .hbm => 0 | .ddr => 1
  min creditMax (SMap.get 0 b.credit k + field (s.csrAt (winReg tier t 0x10)) 15 0 * (s.cyc t - b.creditCyc))

/-- Credit of a DMA channel's shaper now. -/
def State.dmaCredit (s : State) (blk ch : Nat) : Nat :=
  let d := s.dmaCh (dmaKey blk ch)
  min creditMax (d.credit + d.rate.toNat * (s.net (dmaRegion blk) - d.creditNet))

/-- A granule goes through shaper `sh`. -/
def shaperServes (sh : ShaperId) (g : Granule) : Bool :=
  match sh, g.owner with
  | .table t tier, .queue u _ _ _ => u == t && decide (g.tier = some tier)
  | .dma b c, .dma b' c' => b == b' && c == c'
  | _, _ => false

/-- The credit of a shaper after it has forwarded a granule. -/
def State.spendCredit (s : State) (sh : ShaperId) : State :=
  match sh with
  | .table t tier =>
    let h := s.tableCredit t .hbm
    let d := s.tableCredit t .ddr
    let c := s.cyc t
    let m : SMap Nat := SMap.set 0 (SMap.set 0 [] 0 (if tier = .hbm then h - creditGranule else h)) 1
      (if tier = .ddr then d - creditGranule else d)
    s.modTable t (fun b => { b with credit := m, creditCyc := c })
  | .dma blk ch =>
    let c := s.dmaCredit blk ch - creditGranule
    let n := s.net (dmaRegion blk)
    s.modDma (dmaKey blk ch) (fun d => { d with credit := c, creditNet := n })

/-- The credit that a shaper holds now. -/
def State.shaperCredit (s : State) (sh : ShaperId) : Nat :=
  match sh with
  | .table t tier => s.tableCredit t tier
  | .dma blk ch => s.dmaCredit blk ch

/-- The RDMA READ of a granule that comes from a host window goes out as it is forwarded (R269). -/
def State.askHost (s : State) (g : Granule) : State :=
  match g.src with
  | .host j w off =>
    match (s.job j).bind (fun b => (b.body.hwin.drop w).head?) with
    | some (va, _, rkey) => s.send (.read (BitVec.ofNat 24 (256 + j)) rkey (va + BitVec.ofNat 64 off) (BitVec.ofNat 64 g.len))
    | none => s
  | _ => s

/-- SHAPER_FORWARD: the first granule that waits at the shaper goes to the memory network. -/
def execShaperForward (sh : ShaperId) (s : State) : Host.Outcome State Fault Refusal :=
  .next (
    let r := match sh with | .table t _ => t | .dma blk _ => dmaRegion blk
    match s.mem.granules.findIdx? (fun g => shaperServes sh g && !g.forwarded) with
    | none => s
    | some i =>
      if s.shaperCredit sh < creditGranule ∨ s.stopped r then s else
      let g := (s.mem.granules.drop i).head?
      let s := (s.spendCredit sh)
      let s := { s with mem := { s.mem with granules := s.mem.granules.modify i (fun g => { g with forwarded := true }) } }
      (g.map s.askHost).getD s)

/-! ### Retirement (R221) -/

/-- Memory controllers in pinned mode (R26). -/
def State.pinnedMode (s : State) : Bool := s.recs.scope != 0 || s.recs.pinned

/-- Granule `g` may be performed before the granules `earlier` of the list: those of one core and tier go in the order of
their QREQs (R221), and in pinned mode those of one queue in the order of their arrival (R26). -/
def inOrder (pinned : Bool) (earlier : List Granule) (g : Granule) : Bool :=
  earlier.all (fun e => match e.owner, g.owner with
    | .queue _ k q _, .queue _ k' q' _ =>
      !(k == k' && decide (e.tier = g.tier) && (e.req != g.req || (pinned && q == q')))
    | _, _ => true)

/-- The HOST_MSG frame of a repetition with FORM = 1: HIDX, the task-relative channel, the number of frames sent earlier on
it, and the repetition's bytes (R277). -/
def State.hostMsg (s : State) (k : Nat) : State :=
  let c := s.dmaCh k
  match c.job with
  | none => s
  | some j =>
    let body := natLe 2 (field c.dAddr 15 0) ++ natLe 2 c.rel ++ natLe 4 c.msgSeq.toNat ++ natLe 8 0 ++ c.msgBuf
    (s.send (.frame (BitVec.ofNat 24 (256 + j)) 0xC2 0 (BitVec.ofNat 8 j) 0 body)).modDma k (fun c =>
      { c with msgSeq := c.msgSeq + 1, msgBuf := [] })

/-- A host-bound message goes out with the last of its granules. -/
def State.endMsg (s : State) (g : Granule) : State :=
  match g.dst, g.owner with
  | .msg _, .dma blk ch =>
    if s.mem.granules.any (fun x => decide (x.owner = g.owner)) then s else s.hostMsg (dmaKey blk ch)
  | _, _ => s

/-- The way of a granule of a DMA transfer between two job tables, if the slot plan gives its channel a flow (R188): the table it leaves,
the one it is bound for, and the channel's number in the job. -/
def State.meshWay (s : State) (g : Granule) : Option (Nat × Nat × Nat) :=
  match g.owner, g.src.table, g.dst.table with
  | .dma blk ch, some a, some b =>
    let d := s.dmaCh (dmaKey blk ch)
    if a ≠ b ∧ (d.job.bind s.job).any (fun x => x.dmaSlots.any (fun y => y.2 == d.rel)) then some (a, b, d.rel) else none
  | _, _, _ => none

/-- A granule's bytes as a flit in the queue of its DMA transfer at the L input of table `a`. Its tag holds no field but KIND and DPT.
DESIGN CHOICE (assumption 57). -/
def State.enterDma (s : State) (g : Granule) (a b rel : Nat) (bs : List Byte) : State :=
  let d := dieRegion a
  let f : Flit := { tag := BitVec.ofNat 64 (3 + b <<< 2), data := bs, slot := 0, dueReg := d, dueNet := s.net d, src := 0x10000 + 128 * a + rel,
                    edge := none, gran := some { g with src := .bytes [] } }
  { s with noc := { s.noc with chanQ := SMap.modify [] s.noc.chanQ (dmaQueueKey a rel) (· ++ [f]) } }

/-- GRANULE_RETIRE: forwarded granule `k` of the list is read and goes to its destination, or into the mesh on its way there. -/
def execGranuleRetire (k : Nat) (err : GranuleErr) (data : List Byte) (s : State) : Host.Outcome State Fault Refusal :=
  .next (
    match (s.mem.granules.drop k).head? with
    | none => s
    | some g =>
      let way := s.meshWay g
      if ¬ g.forwarded ∨ ¬ inOrder s.pinnedMode (s.mem.granules.take k) g ∨
        ¬ s.granuleFree (if way.isSome then { g with dst := .bytes [] } else g) then s else
      let s := { s with mem := { s.mem with granules := s.mem.granules.eraseIdx k } }
      let r := (s.takePorts g).readGranule g err data
      match way with
      | some (a, b, rel) => r.2.enterDma g a b rel r.1
      | none => (r.2.writeGranule g err r.1).endMsg g)

/-! ### Queue entries (R219, R220) -/

/-- QUEUE_ENTRY_FULL (R219): the oldest PEND entry of an inbound tier queue has every byte in the scratchpad. A wait on the queue that
is evaluated before this command finds the entry FULL all the same (R124). -/
def execQueueEntryFull (t c q : Nat) (s : State) : Host.Outcome State Fault Refusal :=
  .next (match s.physCore t c with
    | none => s
    | some p =>
      let k := 34 * t + p
      if (s.qcfg k q).out ∨ ¬ s.entryReady t k q ∨ s.stopped t then s else s.endEntry t k q)

/-- QUEUE_ENTRY_FREE (R220): the oldest PEND entry of an outbound tier queue has been read and has retired. -/
def execQueueEntryFree (t c q : Nat) (s : State) : Host.Outcome State Fault Refusal :=
  .next (match s.physCore t c with
    | none => s
    | some p =>
      let k := 34 * t + p
      if ¬ (s.qcfg k q).out ∨ ¬ s.entryReady t k q ∨ s.stopped t then s else s.endEntry t k q)

/-! ### Refresh, sparing and lost channels (R26, R212, R226, R227, R372) -/

/-- REFRESH (R26, R227): refresh changes no byte and no register. In pinned mode controller `ctl` of a tier refreshes only in ticks of
the 195-tick grid behind its own offset. -/
def execRefresh (tier : Tier) (ctl : Nat) (s : State) : Host.Outcome State Fault Refusal :=
  .next (
    let ofs := ((match tier with | .hbm => s.recs.hbmOfs | .ddr => s.recs.ddrOfs).drop ctl).headD 0
    let key := 16 * (match tier with | .hbm => 0 | .ddr => 1) + ctl
    if 16 ≤ ctl ∨ (s.pinnedMode ∧ (s.beacon < ofs ∨ (s.beacon - ofs) % 195 ≠ 0)) then s
    else { s with mem := { s.mem with refreshed := SMap.set 0 s.mem.refreshed key (s.beacon + 1) } })

/-- SPUSED of a stack one higher. -/
def State.useSpare (s : State) (stack chan : Nat) : State :=
  let n := field (s.csrAt (stkStat stack)) 1 0
  let s := s.modCsr (stkStat stack) (fun v => v + 1)
  { s with mem := { s.mem with spares := SMap.set 0 s.mem.spares (32 * stack + chan) (n + 1) } }

/-- HBM_SPARE (R226): the copy ends and the channel map switches to the spare, which holds the same bytes. -/
def execHbmSpare (stack chan : Nat) (s : State) : Host.Outcome State Fault Refusal :=
  .next (
    if ¬ s.mem.copying.contains (stack, chan) then s else
    let n := field (s.csrAt (stkStat stack)) 1 0
    let s := { s with mem := { s.mem with copying := s.mem.copying.erase (stack, chan) } }
    let s := ((s.modCsr (stkStat stack) (fun v => v &&& 0xFFFFFFFB)).useSpare stack chan).nextCopy stack
    s.raise ⟨0x2408, clsCorrected, none, some (72 + stack / 2), none, stack + chan <<< 4 + n <<< 9⟩)

/-- Range `a`, `n` bytes, holds a granule of an HBM channel. Every aligned 128 KiB holds one of each (R210). -/
def rangeOnHbm (stack chan a n : Nat) : Bool :=
  decide (0x40000 ≤ n) || (List.range (n / 256)).any (fun i => decide (hbmMap (a + 256 * i) = (stack, chan)))

/-- Range `a`, `n` bytes, of the far tier holds a granule of a channel. -/
def MemSys.rangeOnDdr (m : MemSys) (ch a n : Nat) : Bool :=
  (List.range (min (n / 4096) m.population.length)).any (fun i => (m.ddrMap (a + 4096 * i)).any (fun x => x.1 == ch))

/-- The admitted jobs that `p` selects are aborted with event `code`. -/
def State.abortJobs (s : State) (code : Nat) (p : Job → Bool) : State :=
  (List.range 64).foldl (fun acc j => match s.job j with
    | some b => if p b then acc.abortJob j code else acc
    | none => acc) s

/-- HBM_LOST (R372): with a spare left the channel returns with zero contents; without one its granules are gone. The jobs
that hold a granule of it are aborted. -/
def execHbmLost (stack chan : Nat) (s : State) : Host.Outcome State Fault Refusal :=
  .next (
    if 16 ≤ stack ∨ 32 ≤ chan ∨ s.mem.lost.contains (stack, chan) then s else
    let spare := decide (field (s.csrAt (stkStat stack)) 1 0 < 2)
    let hbm := s.mem.hbm.filter (fun kv => decide (hbmMap kv.1 ≠ (stack, chan)))
    let bad := s.mem.bad.filter (fun kv => decide (kv.1 % 2 = 1 ∨ hbmMap (16 * kv.1) ≠ (stack, chan)))
    let s := { s with mem := { s.mem with
      hbm := hbm, bad := bad, copying := s.mem.copying.erase (stack, chan), copyDue := s.mem.copyDue.erase (stack, chan) } }
    let s := s.modCsr (stkStat stack) (fun v => if s.mem.copying.any (fun c => c.1 == stack) then v else v &&& 0xFFFFFFFB)
    let s := if spare then s.useSpare stack chan
      else ({ s with mem := { s.mem with lost := s.mem.lost ++ [(stack, chan)] } }).modCsr (stkStat stack) (fun v => v ||| 8)
    let s := if s.mem.copying.any (fun c => c.1 == stack) then s else s.nextCopy stack
    let s := s.raise ⟨0x240A, if spare then clsContained else clsDevice, none, some (72 + stack / 2), none, stack + chan <<< 4⟩
    s.abortJobs 0x240A (fun b => rangeOnHbm stack chan b.hbmBase b.hbmSize || rangeOnHbm stack chan b.ctxBase b.ctxSize))

/-- DDR_LOST (R212): the channel's granules become holes, and the jobs whose window holds one are aborted. -/
def execDdrLost (chan : Nat) (s : State) : Host.Outcome State Fault Refusal :=
  .next (
    if ¬ s.mem.population.contains chan ∨ s.mem.holes.contains chan then s else
    let s := { s with mem := { s.mem with holes := s.mem.holes ++ [chan] } }
    let s := s.raise ⟨0x2409, clsDevice, none, some (if chan < 8 then 80 else 81), none, chan⟩
    s.abortJobs 0x2409 (fun b => s.mem.rangeOnDdr chan b.ddrBase b.ddrSize))

end Sys2Proof.Machine
end

