-- ==== Sys2Proof/Machine/Dma.lean ====
section
/-!
DEFINITION. DMA channels (R228 to R237, R269, R277): descriptors, start events, the granules of a repetition, completion, and
STOP.
-/
namespace Sys2Proof.Machine

/-! ### Start events (R232, R233) -/

/-- The DMA channel of job `j` with task-relative number `rel`; a job gives each number once (R415). -/
def State.jobChannel (s : State) (j rel : Nat) : Option Nat :=
  s.dma.findSome? (fun kv => if kv.2.job = some j ∧ kv.2.rel = rel then some kv.1 else none)

/-- A firing of timer `n` of block `blk` takes effect: every channel that waits for it has its start event, or a miss where
its queue condition fails. The network cycle of the firing is kept for heads that begin in it. -/
def State.fireTimer (s : State) (blk n : Nat) : State :=
  (List.range 128).foldl (fun acc ch =>
    let k := dmaKey blk ch
    let c := acc.dmaCh k
    let d := acc.headDesc blk ch
    match c.job with
    | none => acc
    | some j => if c.state ≠ 1 ∨ ¬ c.ctl.getLsbD 10 ∨ d.start ≠ 1 ∨ d.ev ≠ n then acc else acc.takeFiring blk ch j d)
    { s with mem := { s.mem with firedNet := SMap.set 0 s.mem.firedNet (32 * blk + n) (s.net (dmaRegion blk) + 1) } }

/-- A firing that is lost: counted as a miss of every channel that waits for it (R315). -/
def State.missTimer (s : State) (blk n : Nat) : State :=
  (List.range 128).foldl (fun acc ch =>
    let c := acc.dmaCh (dmaKey blk ch)
    let d := acc.headDesc blk ch
    if c.job.isNone ∨ c.state ≠ 1 ∨ d.start ≠ 1 ∨ d.ev ≠ n then acc
    else acc.modDma (dmaKey blk ch) (fun c => { c with miss := if c.miss = 0xFF then c.miss else c.miss + 1 })) s

/-- DMA_TIMER (R233): timer `tmr` of a die fires in the ticks of its period and phase, once in each. A firing in a stop of
the die's region is held until it restarts, and a second one in the same stop is lost (R315). -/
def execDmaTimer (die tmr : Nat) (s : State) : Host.Outcome State Fault Refusal :=
  .next (
    let key := 32 * die + tmr
    let (period, phase) := SMap.get (0, 0) s.recs.timers key
    let r := dmaRegion die
    if 10 ≤ die ∨ 32 ≤ tmr ∨ period = 0 ∨ s.beacon < phase ∨ (s.beacon - phase) % period ≠ 0
      ∨ SMap.get 0 s.mem.fired key = s.beacon + 1 then s else
    let s := { s with mem := { s.mem with fired := SMap.set 0 s.mem.fired key (s.beacon + 1) } }
    if ¬ s.stopped r then s.fireTimer die tmr
    else if (s.region r).timersHeld.contains tmr then s.missTimer die tmr
    else s.modRegion r (fun g => { g with timersHeld := g.timersHeld ++ [tmr] }))

/-! ### The granules of a repetition (R230, R236) -/

/-- The offset within its host window of the address `addr` that has been stepped from a descriptor's own `base`; it can fall below 0
(R269). -/
def hostOffset (base addr : Nat) : Int := fieldN base 58 0 + signedN 64 (wrapN 64 ((addr : Int) - base))

/-- One address of a side: its place, or nothing where it lies outside its window (R216, R269). `base` is the descriptor's own
address. -/
def State.sidePlace (s : State) (j home space tab base addr n : Nat) (core : Option Nat) : Option Place :=
  let t := s.jobTableOf j home
  match space with
  | 1 => if addr + n ≤ s.winBound .hbm t then some (.hbm (s.winBase .hbm t + addr)) else none
  | 2 => if addr + n ≤ s.winBound .ddr t then some (.ddr (s.winBase .ddr t + addr)) else none
  | 3 =>
    let w := fieldN base 62 59
    let off := hostOffset base addr
    if base.testBit 63 then some (.msg 0)
    else if 0 ≤ off ∧ ((s.job j).bind (fun b => (b.body.hwin.drop w).head?)).any (fun h => decide (off.toNat + n ≤ h.2.1 * 4096))
      then some (.host j w off.toNat) else none
  | 4 => some (.shelf (shareBase (s.jobTableOf j tab) + addr))
  | _ => core.map (fun k => .spd k (spdAddr addr))

/-- A place `o` bytes further on. -/
def Place.plus (p : Place) (o : Nat) : Place :=
  match p with
  | .hbm a => .hbm (a + o)
  | .ddr a => .ddr (a + o)
  | .shelf a => .shelf (a + o)
  | .spd k a => .spd k (spdAddr (a + o))
  | .host j w a => .host j w (a + o)
  | .msg a => .msg (a + o)
  | .bytes bs => .bytes (bs.drop o)

/-- The address that a place's beats are aligned to. -/
def Place.align : Place → Nat
  | .hbm a => a
  | .ddr a => a
  | .shelf a => a
  | .spd _ a => a
  | .host _ _ a => a
  | .msg a => a
  | .bytes _ => 0

/-- Lengths of the 64 B destination beats of a row of `n` bytes at `d`: the head, the body and the tail (R236). -/
def beats (d n : Nat) : List (Nat × Nat) :=
  let head := min n (64 - d % 64)
  let body := n - head
  (if head = 0 then [] else [(0, head)]) ++
    (List.range (ceilDiv body 64)).map (fun i => (head + 64 * i, min 64 (body - 64 * i)))

/-- `n` bytes of the pattern, repeated from byte 0 of the row. -/
def patternBytes (v n : Nat) : List Byte := (List.range n).map (fun i => BitVec.ofNat 8 (v >>> (8 * (i % 8))))

/-- Granules of one row from `src` to `dst`. -/
def rowGranules (o : Requester) (tier : Option Tier) (n : Nat) (src dst : Place) (pattern : Option Nat) : List Granule :=
  (beats dst.align n).map (fun b =>
    { owner := o, req := 0, tier := tier
      src := match pattern with
        | some v => .bytes ((patternBytes v (b.1 + b.2)).drop b.1)
        | none => src.plus b.1
      dst := dst.plus b.1, len := b.2, forwarded := false })

/-- An address moved by a signed step, modulo 2^64. -/
def stepAddr (a : Nat) (d : Int) : Nat := wrapN 64 (a + d)

/-- The rows of a repetition, each as (source place, destination place): for every pair of cores and every row. Nothing
where an address leaves its window. -/
def State.repRows (s : State) (j home : Nat) (d : Desc) (c : DmaChan) : Option (List (Place × Place)) :=
  let scores : List (Option (Nat × Nat)) := if d.ssp = 5 ∨ d.ssp = 6 then (s.sideCores j d.stab d.score d.scnt).map some else [none]
  let dcores : List (Option (Nat × Nat)) := if d.dsp = 5 ∨ d.dsp = 6 then (s.sideCores j d.dtab d.dcore d.dcnt).map some else [none]
  let n := Nat.max scores.length dcores.length
  let pick (l : List (Option (Nat × Nat))) (i : Nat) : Option (Nat × Nat) := if l.length = 1 then l.headD none else (l.drop i).headD none
  let area (core : Option (Nat × Nat)) (q : Nat) : Nat := match core with
    | none => 0
    | some x =>
      let cfg := s.qcfg x.2 q
      let v := s.qst x.2 q
      cfg.base + cfg.esize * (if cfg.out then (v.old + cfg.nent - v.pend % cfg.nent) % cfg.nent else v.next)
  let addr (space q a str : Nat) (single : Bool) (core : Option (Nat × Nat)) (stride : Int) (i r : Nat) : Nat :=
    if space = 6 then area core q + r * d.len
    else stepAddr a (r * stride + (if single then i * d.cstr else 0) + str)
  ((List.range n).flatMap (fun i => (List.range d.rows).map (fun r => (i, r)))).mapM (fun ir =>
    let sc := pick scores ir.1
    let dc := pick dcores ir.1
    let sa := addr d.ssp d.sq c.sAddr.toNat 0 (scores.length == 1) sc d.sstr ir.1 ir.2
    let da := addr d.dsp d.dq c.dAddr.toNat 0 (dcores.length == 1) dc d.dstr ir.1 ir.2
    let src := if d.ssp = 0 then some (.bytes []) else s.sidePlace j home d.ssp d.stab d.saddr sa d.len (sc.map (·.2))
    let dst := s.sidePlace j home d.dsp d.dtab d.daddr da d.len (dc.map (·.2))
    match src, dst with
    | some x, some y => some (x, if y = .msg 0 then .msg ((ir.1 * d.rows + ir.2) * d.len) else y)
    | _, _ => none)

/-- Inbound entries of a repetition leave FREE as it starts (R219). -/
def State.takeEntries (s : State) (j : Nat) (d : Desc) : State :=
  if d.dsp ≠ 6 then s else
  (s.sideCores j d.dtab d.dcore d.dcnt).foldl (fun acc x => acc.qmove x.2 d.dq (-1) 1 0 0 1 0) s

/-! ### Completion (R234, R277) -/

/-- Queue entries of a completed repetition: inbound ones are FULL, outbound ones FREE. -/
def State.doneEntries (s : State) (j : Nat) (d : Desc) : State :=
  let s := if d.dsp ≠ 6 then s else
    (s.sideCores j d.dtab d.dcore d.dcnt).foldl (fun acc x => acc.qmove x.2 d.dq 0 (-1) 1 0 0 0) s
  if d.ssp ≠ 6 then s else
    (s.sideCores j d.stab d.score d.scnt).foldl (fun acc x => acc.freeEntry x.1 x.2 d.sq) s

/-- The channel becomes the head of descriptor `n`: its addresses are the descriptor's. -/
def State.loadHead (s : State) (blk ch n : Nat) : State :=
  let d := descOf (SMap.get 0 s.descs (1024 * blk + n)).toNat
  s.modDma (dmaKey blk ch) (fun c => { c with
    ctl := (c.ctl &&& 0xFFFFFC00) ||| BitVec.ofNat 32 n, repN := 0, evSeen := false
    sAddr := BitVec.ofNat 64 d.saddr, dAddr := BitVec.ofNat 64 d.daddr })

/-- The channel after a repetition: the next one awaits its start, or the next descriptor does, or the chain has ended. With
STOP set it stops at this boundary (R235). -/
def State.nextRep (s : State) (blk ch : Nat) (d : Desc) : State :=
  let k := dmaKey blk ch
  let c := s.dmaCh k
  let more := decide (c.repN.toNat + 1 < d.rep)
  let s := if more then s.modDma k (fun c => { c with
      repN := c.repN + 1, evSeen := false
      sAddr := BitVec.ofNat 64 (stepAddr c.sAddr.toNat d.srstr), dAddr := BitVec.ofNat 64 (stepAddr c.dAddr.toNat d.drstr) })
    else if d.last then s.modDma k (fun c => { c with repN := c.repN + 1 })
    else s.loadHead blk ch d.next
  (s.modDma k (fun c => { c with
    state := if c.ctl.getLsbD 11 then 3 else if more ∨ ¬ d.last then 1 else 0 })).headEvent blk ch

/-- A completion counted in both counts of DMA_CHn_CMP; a count that would pass 65,535 aborts the job. -/
def State.countCompletion (s : State) (blk ch : Nat) : State :=
  let k := dmaKey blk ch
  let c := s.dmaCh k
  let isOver := c.cmpTask = 0xFFFF ∨ c.cmpChan = 0xFFFF
  let s := s.modDma k (fun c => { c with
    cmpTask := if c.cmpTask = 0xFFFF then c.cmpTask else c.cmpTask + 1
    cmpChan := if c.cmpChan = 0xFFFF then c.cmpChan else c.cmpChan + 1 })
  if isOver then s.dmaFault blk ch 0x2405 6 else s

/-- A repetition completes, in the order of R234. -/
def State.completeRep (s : State) (blk ch j : Nat) (d : Desc) : State :=
  let s := s.doneEntries j d
  let s := if d.sig then s.signalNext (s.jobTableOf j d.ctab) d.sctr 1 else s
  (s.countCompletion blk ch).nextRep blk ch d

/-- A descriptor's destination is a host-bound message. -/
def Desc.isMsg (d : Desc) : Bool := d.dsp == 3 && d.daddr.testBit 63

/-- The start event of the head's next repetition has occurred (R232); the follower consumes a completion of the channel it
follows. -/
def State.startEvent (s : State) (blk ch j : Nat) (d : Desc) : Option State :=
  let c := s.dmaCh (dmaKey blk ch)
  match d.start with
  | 0 => some s
  | 1 => if c.evSeen then some s else none
  | _ =>
    match s.jobChannel j d.ev with
    | none => none
    | some k => if (s.dmaCh k).cmpChan = 0 then none else some (s.modDma k (fun x => { x with cmpChan := x.cmpChan - 1 }))

/-- DMA_REPETITION_START (R232). A repetition whose addresses leave a window moves nothing (R216); one with LEN = 0
completes at once (R234). -/
def execDmaRepetitionStart (blk ch : Nat) (s : State) : Host.Outcome State Fault Refusal :=
  .next (
    let k := dmaKey blk ch
    let c := s.dmaCh k
    match c.job with
    | none => s
    | some j =>
      let d := s.headDesc blk ch
      if c.state ≠ 1 ∨ ¬ c.ctl.getLsbD 10 ∨ c.ctl.getLsbD 11 ∨ s.stopped (dmaRegion blk) ∨ ¬ s.queueReady j d then s else
      match s.startEvent blk ch j d with
      | none => s
      | some s =>
        let s := s.modDma k (fun c => { c with state := 2, evSeen := false, startNet := s.net (dmaRegion blk) + 1 })
        if d.len = 0 then
          let s := s.takeEntries j d
          let s := if d.isMsg then s.hostMsg k else s
          s.completeRep blk ch j d
        else
          match s.repRows j c.home d c with
          | none => s.dmaFault blk ch 0x2403 4
          | some rows =>
            let gs := rows.flatMap (fun x =>
              rowGranules (.dma blk ch) none d.len x.1 x.2 (if d.ssp = 0 then some c.sAddr.toNat else none))
            let s := s.takeEntries j d
            let s := if d.isMsg then s.modDma k (fun c => { c with msgBuf := List.replicate (rows.length * d.len) 0 }) else s
            { s with mem := { s.mem with granules := s.mem.granules ++ gs } })

/-- Bytes of a channel's repetition are still on their way. -/
def State.repBusy (s : State) (blk ch : Nat) : Bool :=
  s.mem.granules.any (fun g => decide (g.owner = .dma blk ch)) ||
    s.cores.any (fun c => c.2.fills.any (fun f => decide (f.src = .dma blk ch))) ||
    s.flits.any (fun f => f.gran.any (fun g => decide (g.owner = .dma blk ch)))

/-- A completion would change a stopped region: the channel's own, or that of a table whose queue entries it moves (R315). -/
def State.repStopped (s : State) (blk j : Nat) (d : Desc) : Bool :=
  s.stopped (dmaRegion blk) || (d.dsp == 6 && s.stopped (s.jobTableOf j d.dtab)) || (d.ssp == 6 && s.stopped (s.jobTableOf j d.stab)) ||
    (d.sig && s.stopped (s.jobTableOf j d.ctab))

/-- DMA_REPETITION_COMPLETE (R234). A host-bound message is sent once its bytes are read, and its repetition completes when
the host acknowledges it (R277): the command stands for the acknowledgement. -/
def execDmaRepetitionComplete (blk ch : Nat) (s : State) : Host.Outcome State Fault Refusal :=
  .next (
    let c := s.dmaCh (dmaKey blk ch)
    match c.job with
    | none => s
    | some j =>
      let d := s.headDesc blk ch
      if c.state ≠ 2 ∨ s.repBusy blk ch ∨ s.repStopped blk j d then s else
      s.completeRep blk ch j d)

/-- A repetition that has started in the current cycle, left unstarted after all (R235). -/
def State.unstart (s : State) (blk ch j : Nat) (d : Desc) : State :=
  let k := dmaKey blk ch
  let s := { s with mem := { s.mem with granules := s.mem.granules.filter (fun g => !decide (g.owner = .dma blk ch)) } }
  let s : State := if d.dsp ≠ 6 then s else
    (s.sideCores j d.dtab d.dcore d.dcnt).foldl (fun (acc : State) x => acc.qmove x.2 d.dq 1 (-1) 0 0 ((acc.qcfg x.2 d.dq).nent - 1) 0) s
  let s := if d.start < 2 then s else match s.jobChannel j d.ev with
    | none => s
    | some f => s.modDma f (fun x => { x with cmpChan := x.cmpChan + 1 })
  s.modDma k (fun c => { c with state := 1, evSeen := decide (d.start = 1), msgBuf := [], startNet := 0 })

/-- STOP (R235, R237): the bit is set, and the channel stops at its next repetition boundary. A repetition that has started in this very
cycle is left unstarted. -/
def execStop (blk ch : Nat) (s : State) : Host.Outcome State Fault Refusal :=
  .next (if 10 ≤ blk ∨ (if blk < 8 then 128 else 16) ≤ ch then s else
    let c := s.dmaCh (dmaKey blk ch)
    let s := match c.job with
      | some j => if c.state = 2 ∧ c.startNet = s.net (dmaRegion blk) + 1 then s.unstart blk ch j (s.headDesc blk ch) else s
      | none => s
    s.modDma (dmaKey blk ch) DmaChan.stop)

end Sys2Proof.Machine
end

