-- ==== Sys2Proof/Machine/Image.lean ====
section
/-!
DEFINITION. Damcy images as the loader reads them: header, section table and section bodies (R238, R239, R243, R409 to R420).
Reading answers nothing where the image is refused with IMAGE_MALFORMED. A body's field outside the values that its layout
allows, a job table at or above T among them, does not meet the layout (assumption 30).
-/
namespace Sys2Proof.Machine

/-! ### What an image declares -/

/-- A section: type, variant, job table, and body. -/
structure Section where
  typ  : Nat
  var  : Nat
  jtab : Nat
  off  : Nat
  body : List Byte
  deriving DecidableEq, Repr

/-- A variant key (R240). -/
structure VarKey where
  t     : Nat
  c     : Nat
  lanes : Nat
  deriving DecidableEq, Repr

/-- RESOURCE of one job table (R411). -/
structure ResTable where
  shf     : Nat
  spdb    : Nat
  hbmRate : Nat
  ddrRate : Nat
  power   : List Nat
  deriving DecidableEq, Repr

/-- RESOURCE (R411). Host regions are (DDR?, offset, length). -/
structure ResDecl where
  hbm     : Nat
  ddr     : Nat
  ctx     : Nat
  share   : Nat
  wins    : Nat
  nparam  : Nat
  regions : List (Bool × Nat × Nat)
  tables  : List ResTable
  deriving DecidableEq, Repr

/-- A flow of the slot plan (R412). -/
structure FlowDecl where
  kind  : Nat
  io    : Bool
  src   : Nat
  dst   : Nat
  chn   : Nat
  round : Nat
  lb    : Nat
  dep   : List Nat
  egr   : List Nat
  deriving DecidableEq, Repr

/-- A channel (R413). -/
structure ChanDecl where
  sjt   : Nat
  schn  : Nat
  rjt   : Nat
  rchn  : Nat
  ofs   : Nat
  maxf  : Nat
  dyn   : Bool
  xdev  : Bool
  rbase : Nat
  rsize : Nat
  ssize : Nat
  raddr : Nat
  rdlt  : Nat
  flat  : Nat
  deriving DecidableEq, Repr

/-- A queue of one job table (R414). -/
structure QueueDecl where
  jt    : Nat
  q     : Nat
  src   : Nat
  out   : Bool
  esz   : Nat
  nent  : Nat
  dch   : Nat
  sigen : Bool
  sctr  : Nat
  qbase : Nat
  deriving DecidableEq, Repr

/-- A DMA channel (R415). -/
structure DmaDecl where
  ch   : Nat
  home : Nat
  io   : Bool
  head : Nat
  rate : Nat
  deriving DecidableEq, Repr

/-- A landing area (R231, R415). -/
structure LandDecl where
  shelf : Bool
  jt    : Nat
  core  : Nat
  cnt   : Nat
  off   : Nat
  len   : Nat
  deriving DecidableEq, Repr

/-- COUNTER of one job table (R416). -/
structure CtrTable where
  touts : List Nat
  inits : List Nat
  deriving DecidableEq, Repr

/-- A DATA record (R417) of job table `jt`. -/
structure DataRec where
  space : Nat
  jt    : Nat
  core  : Nat
  cnt   : Nat
  off   : Nat
  data  : List Byte
  deriving DecidableEq, Repr

/-- BOUND (R418): fabric ticks, the four byte counts, cmax by job table and the remaining counts by trick ID. -/
structure BoundDecl where
  fabric : Nat
  counts : List Nat
  cmax   : List Nat
  tricks : List (Nat × List Nat)
  deriving DecidableEq, Repr

/-- A trick (R419): for each job table its resume entry, TBASE and TSTEP; live ranges are (DDR?, offset, length). -/
structure TrickDecl where
  id     : Nat
  repart : Bool
  ctx    : Nat
  tables : List (Nat × Nat × Nat)
  live   : List (Bool × Nat × Nat)
  deriving DecidableEq, Repr

/-- A piece of a tensor (R420). -/
structure PieceDecl where
  space : Nat
  jt    : Nat
  core  : Nat
  e0    : Nat
  n     : Nat
  start : Nat
  step  : Nat
  deriving DecidableEq, Repr

/-- A tensor (R420). -/
structure TensorDecl where
  num    : Nat
  ebits  : Nat
  n      : Nat
  pieces : List PieceDecl
  deriving DecidableEq, Repr

/-- A patch (R243). -/
structure PatchDecl where
  jt   : Nat
  kind : Nat
  arg  : Nat
  g    : Nat
  boff : Nat
  deriving DecidableEq, Repr

/-- Everything that one variant uses (R241, R409). -/
structure VarDecl where
  key     : VarKey
  code    : List (List Byte)
  htab    : List (List Nat)
  patch   : List PatchDecl
  res     : ResDecl
  pool    : Nat
  flows   : List FlowDecl
  chans   : List ChanDecl
  queues  : List QueueDecl
  dma     : List DmaDecl
  descs   : List (BitVec 512)
  lands   : List LandDecl
  hctr    : List (Nat × Nat)
  ctrs    : List CtrTable
  data    : List DataRec
  bound   : BoundDecl
  tricks  : List TrickDecl
  tensors : List TensorDecl
  taper   : List (Nat × Nat)
  deriving DecidableEq, Repr

/-- An image: architecture level, Taper mark, seeds (declared, flicker), curve tables, and variants. -/
structure Image where
  arch     : Nat
  taper    : Bool
  seeds    : List (Bool × Bool)
  curve    : Option (List Byte)
  variants : List VarDecl
  deriving DecidableEq, Repr

/-! ### Reading -/

/-- Bytes `lo` up to, but not including, `hi` are zero. -/
def zeros (bs : List Byte) (lo hi : Nat) : Bool := ((bs.drop lo).take (hi - lo)).all (· == 0)

/-- The value if the condition holds. -/
def given {α : Type} (ok : Bool) (x : α) : Option α := if ok then some x else none

/-- `k` entries of `n` bytes each. -/
def entries (n : Nat) (bs : List Byte) (k : Nat) : List (List Byte) :=
  (List.range k).map (fun i => (bs.drop (n * i)).take n)

/-- A body of whole entries of `n` bytes, each read by `f`. -/
def readEntries {α : Type} (n : Nat) (f : List Byte → Option α) (bs : List Byte) : Option (List α) :=
  if bs.length % n ≠ 0 then none else (entries n bs (bs.length / n)).mapM f

/-- Numbers in strictly rising order. -/
def rising (xs : List Nat) : Bool :=
  match xs with
  | x :: y :: rest => decide (x < y) && rising (y :: rest)
  | _ => true

/-- One section of the section table (R238). -/
def readSection (img : List Byte) (nsect k : Nat) : Option Section :=
  let e := (img.drop (32 + 32 * k)).take 32
  let off := rdLe e 8 8
  let len := rdLe e 16 8
  given (rdLe e 0 8 / 2 ^ 22 == 0 && zeros e 24 32 && off % 64 == 0 && decide (off + len ≤ img.length) &&
      (len == 0 || decide (32 + 32 * nsect ≤ off)))
    ⟨rdLe e 0 1, rdLe e 1 1, rdLe e 2 1, off, (img.drop off).take len⟩

/-- Two sections share a byte. -/
def Section.meets (a b : Section) : Bool :=
  decide (0 < a.body.length) && decide (0 < b.body.length) && decide (a.off < b.off + b.body.length) &&
    decide (b.off < a.off + a.body.length)

/-- No two elements are related by `p`. -/
def noPair {α : Type} (p : α → α → Bool) (xs : List α) : Bool :=
  match xs with
  | [] => true
  | x :: rest => rest.all (fun y => !p x y) && noPair p rest

/-! ### Section types (R239, R409) -/

/-- Image-wide types. -/
def imageWide (typ : Nat) : Bool := [0x01, 0x0B, 0x0C].contains typ
/-- Types per job table. -/
def perTable (typ : Nat) : Bool := [0x02, 0x03, 0x0D].contains typ
/-- Listed types. -/
def listedType (typ : Nat) : Bool := decide (0x01 ≤ typ) && decide (typ ≤ 0x11)

/-- The section of a type that variant `v` uses, for job table `j`: its own if there is one, otherwise the common one. -/
def useSection (ss : List Section) (typ v j : Nat) : Option Section :=
  match ss.find? (fun x => x.typ == typ && x.var == v && x.jtab == j) with
  | some x => some x
  | none => ss.find? (fun x => x.typ == typ && x.var == 0xFF && x.jtab == j)

/-- The body that variant `v` uses. -/
def useBody (ss : List Section) (typ v j : Nat) : Option (List Byte) := (useSection ss typ v j).map (·.body)

/-- Variant `v` has a section of its own of the type and job table of `x`. -/
def hasOwn (ss : List Section) (x : Section) (v : Nat) : Bool :=
  ss.any (fun y => y.typ == x.typ && y.var == v && y.jtab == x.jtab)

/-- The variants that a section serves. -/
def serves (ss : List Section) (nv : Nat) (x : Section) : List Nat :=
  if x.var != 0xFF then [x.var] else (List.range nv).filter (fun v => !hasOwn ss x v)

/-! ### Bodies -/

/-- SPREAD (R410). -/
def readSpread (bs : List Byte) : Option (List VarKey) :=
  match readEntries 4 (fun e =>
    given (decide (1 ≤ rdLe e 0 1) && decide (rdLe e 0 1 ≤ 64) && decide (1 ≤ rdLe e 1 1) && decide (rdLe e 1 1 ≤ 63) &&
      decide (1 ≤ rdLe e 2 1) && decide (rdLe e 2 1 ≤ 64) && byteAt e 3 == 0)
      (⟨rdLe e 0 1, rdLe e 1 1, rdLe e 2 1⟩ : VarKey)) bs with
  | none => none
  | some ks => given (decide (1 ≤ ks.length) && decide (ks.length ≤ 255) && noPair (· == ·) ks) ks

/-- HTAB (R410): 64 words laid out as CHN_HTABn, the reserved bits zero. -/
def readHtab (bs : List Byte) : Option (List Nat) :=
  if bs.length ≠ 256 then none else
  readEntries 4 (fun e => let w := rdLe e 0 4; given (fieldN w 30 26 == 0 && (!w.testBit 17 || decide (fieldN w 25 18 ≤ 3))) w) bs

/-- SEED (R410): (DECLARED, FLICKER). -/
def readSeeds (bs : List Byte) : Option (List (Bool × Bool)) :=
  if bs.length ≠ 32 then none else
  readEntries 2 (fun e => let w := rdLe e 0 2; given (decide (w ≤ 3) && w != 2) (w.testBit 0, w.testBit 1)) bs

/-- CURVE (R410): the 32,832-byte string of R13. -/
def readCurve (bs : List Byte) : Option (List Byte) :=
  given (bs.length == 32832 && (List.range 8).all (fun n => zeros bs (4104 * n + 5) (4104 * n + 8))) bs

/-- TAPER (R410). -/
def readTaper (t c : Nat) (bs : List Byte) : Option (List (Nat × Nat)) :=
  if bs.length ≠ 16 * t * c then none else readEntries 16 (fun e => some (rdLe e 0 8, rdLe e 8 8)) bs

/-- PATCH (R243). An unlisted kind and a field outside its word are checks of content. -/
def readPatch (t : Nat) (bs : List Byte) : Option (List PatchDecl) :=
  readEntries 16 (fun e =>
    given (decide (rdLe e 0 1 < t) && rdLe e 8 2 % 16 == 0 && zeros e 10 16)
      ⟨rdLe e 0 1, rdLe e 1 1, rdLe e 2 2, rdLe e 4 4, rdLe e 8 2⟩) bs

/-- A host region of RESOURCE. -/
def readRegion (e : List Byte) : Option (Bool × Nat × Nat) :=
  given ((rdLe e 0 1 == 1 || rdLe e 0 1 == 2) && zeros e 1 8 && rdLe e 8 8 % 4096 == 0 && rdLe e 16 8 % 4096 == 0)
    (rdLe e 0 1 == 2, rdLe e 8 8, rdLe e 16 8)

/-- One table of RESOURCE. -/
def readResTable (e : List Byte) : Option ResTable :=
  given (zeros e 6 8 && zeros e 12 16 && zeros e 28 64)
    ⟨rdLe e 0 4, rdLe e 4 2, rdLe e 8 2, rdLe e 10 2, (List.range 6).map (fun i => rdLe e (16 + 2 * i) 2)⟩

/-- A variant without a RESOURCE section declares zero (R409). -/
def ResDecl.none (t : Nat) : ResDecl :=
  ⟨0, 0, 0, 0, 0, 0, [], List.replicate t ⟨0, 0, 0, 0, List.replicate 6 0⟩⟩

/-- RESOURCE (R411). -/
def readRes (t : Nat) (bs : List Byte) : Option ResDecl :=
  let nh := rdLe bs 30 1
  if bs.length ≠ 416 + 64 * t ∨ 1600 < rdLe bs 24 2 ∨ 256 < rdLe bs 28 2 ∨ 16 < nh ∨ byteAt bs 31 ≠ 0 ∨
      ¬ zeros bs (32 + 24 * nh) 416 then Option.none else
  match (entries 24 (bs.drop 32) nh).mapM readRegion, (entries 64 (bs.drop 416) t).mapM readResTable with
  | some rs, some ts => some ⟨rdLe bs 0 8, rdLe bs 8 8, rdLe bs 16 8, rdLe bs 24 2, rdLe bs 26 2, rdLe bs 28 2, rs, ts⟩
  | _, _ => Option.none

/-- `n` numbers of two bytes. -/
def halfwords (bs : List Byte) (n : Nat) : List Nat := (List.range n).map (fun i => rdLe bs (2 * i) 2)

/-- One flow (R412) at the head of `bs`, with the bytes it takes. -/
def readFlow (t : Nat) (bs : List Byte) : Option (FlowDecl × Nat) :=
  let ndep := rdLe bs 6 2
  let negr := rdLe bs 12 2
  let dst := rdLe bs 3 1
  let kind := rdLe bs 0 1
  let io := rdLe bs 1 1
  let used := 16 + 2 * ndep + 2 * negr
  let len := (used + 7) / 8 * 8
  let dep := halfwords (bs.drop 16) ndep
  let egr := halfwords (bs.drop (16 + 2 * ndep)) negr
  given (decide (len ≤ bs.length) && decide (kind ≤ 2) && decide (io ≤ 1) &&
      (if io = 0 then decide (rdLe bs 2 1 < t) else rdLe bs 2 1 == 0) &&
      (decide (dst < t) || (dst == 0xFE && kind == 1) || (dst == 0xFF && kind != 2)) && (kind != 2 || io == 0) && decide (rdLe bs 4 1 ≤ if kind = 2 then 127 else 63) &&
      decide (1 ≤ ndep) && rising dep && dep.all (fun d => decide (d < 96 * rdLe bs 5 1)) &&
      (negr == 0 || dst == 0xFF) && rising egr && zeros bs 14 16 && zeros bs used len)
    (⟨kind, io == 1, rdLe bs 2 1, dst, rdLe bs 4 1, rdLe bs 5 1, rdLe bs 8 4, dep, egr⟩, len)

/-- `n` flows that fill `bs`. -/
def readFlows (t : Nat) : Nat → List Byte → Option (List FlowDecl)
  | 0, bs => given bs.isEmpty []
  | n + 1, bs => match readFlow t bs with
    | none => none
    | some (f, k) => (readFlows t n (bs.drop k)).map (f :: ·)

/-- SLOTPLAN (R412): the pool size and the flows. -/
def readPlan (t : Nat) (bs : List Byte) : Option (Nat × List FlowDecl) :=
  if bs.length < 16 ∨ 64 < rdLe bs 0 1 ∨ ¬ zeros bs 1 4 ∨ ¬ zeros bs 8 16 ∨ bs.length < 24 * rdLe bs 4 4 then none else
  (readFlows t (rdLe bs 4 4) (bs.drop 16)).map (fun fs => (rdLe bs 0 1, fs))

/-- CHANNEL (R413). One end of a channel lies on this device. -/
def readChans (t : Nat) (bs : List Byte) : Option (List ChanDecl) :=
  readEntries 32 (fun e =>
    let sjt := rdLe e 0 1
    let rjt := rdLe e 2 1
    let x := sjt == 0xFF || rjt == 0xFF
    let rsize := rdLe e 10 2
    given ((decide (sjt < t) || sjt == 0xFE || sjt == 0xFF) && (decide (rjt < t) || (rjt == 0xFF && decide (sjt < t))) &&
        decide (rdLe e 1 1 ≤ 63) && decide (rdLe e 3 1 ≤ 63) && decide (rdLe e 5 1 ≤ 15) && decide (rdLe e 6 1 ≤ 3) &&
        (rdLe e 6 1).testBit 1 == x && byteAt e 7 == 0 &&
        (if rjt = 0xFF then zeros e 8 12 else decide (16 ≤ rsize) && decide (rsize ≤ 1024)) &&
        decide (rdLe e 12 2 ≤ 4095) && zeros e 14 16 && (x || zeros e 16 19) && decide (rdLe e 16 2 ≤ 0xFFE) &&
        decide (rdLe e 18 1 ≤ 63) && byteAt e 19 == 0 && (rjt == 0xFF || zeros e 20 24) && zeros e 24 32)
      ⟨sjt, rdLe e 1 1, rjt, rdLe e 3 1, rdLe e 4 1, rdLe e 5 1, (rdLe e 6 1).testBit 0, x, rdLe e 8 2, rsize, rdLe e 12 2,
        rdLe e 16 2, rdLe e 18 1, rdLe e 20 4⟩) bs

/-- QUEUE (R414). -/
def readQueues (t : Nat) (bs : List Byte) : Option (List QueueDecl) :=
  match readEntries 16 (fun e =>
    given (decide (rdLe e 0 1 < t) && decide (rdLe e 1 1 ≤ 15) && decide (1 ≤ rdLe e 2 1) && decide (rdLe e 2 1 ≤ 3) &&
        decide (rdLe e 3 1 ≤ 1) && decide (rdLe e 4 1 ≤ 9) && decide (rdLe e 5 1 ≤ 63) &&
        (if rdLe e 2 1 = 3 then decide (rdLe e 6 1 ≤ 127) else byteAt e 6 == 0) &&
        (byteAt e 7 == 0 || (byteAt e 7 == 1 && rdLe e 3 1 == 1)) && byteAt e 9 == 0 && zeros e 12 16)
      (⟨rdLe e 0 1, rdLe e 1 1, rdLe e 2 1, rdLe e 3 1 == 1, rdLe e 4 1, rdLe e 5 1 + 1, rdLe e 6 1, byteAt e 7 == 1,
        rdLe e 8 1, rdLe e 10 2⟩ : QueueDecl)) bs with
  | none => none
  | some qs => given (noPair (fun (a b : QueueDecl) => a.jt == b.jt && a.q == b.q) qs) qs

/-- DMADESC (R415). -/
def readDma (t : Nat) (bs : List Byte) : Option (List DmaDecl × List (BitVec 512) × List LandDecl) :=
  let nch := rdLe bs 0 4
  let nd := rdLe bs 4 4
  let nl := rdLe bs 8 4
  if bs.length < 16 ∨ ¬ zeros bs 12 16 ∨ 128 < nch ∨ bs.length ≠ 16 + 16 * nch + 64 * nd + 24 * nl then none else
  let chs := (entries 16 (bs.drop 16) nch).mapM (fun e =>
    given (decide (rdLe e 0 1 ≤ 127) && decide (rdLe e 1 1 < t) && decide (rdLe e 2 1 ≤ 1) && byteAt e 3 == 0 && zeros e 8 16)
      (⟨rdLe e 0 1, rdLe e 1 1, rdLe e 2 1 == 1, rdLe e 4 2, rdLe e 6 2⟩ : DmaDecl))
  let lands := (entries 24 (bs.drop (16 + 16 * nch + 64 * nd)) nl).mapM (fun e =>
    given ((rdLe e 0 1 == 5 || (rdLe e 0 1 == 4 && zeros e 2 4)) && decide (rdLe e 1 1 < t) && zeros e 4 8)
      (⟨rdLe e 0 1 == 4, rdLe e 1 1, rdLe e 2 1, rdLe e 3 1 + 1, rdLe e 8 8, rdLe e 16 8⟩ : LandDecl))
  let descs := (entries 64 (bs.drop (16 + 16 * nch)) nd).map (fun e => BitVec.ofNat 512 (leNat e))
  match chs, lands with
  | some cs, some ls =>
    given (noPair (fun (a b : DmaDecl) => a.ch == b.ch) cs && descs.all (fun w => field w 63 43 == 0 && field w 511 460 == 0))
      (cs, descs, ls)
  | _, _ => none

/-- COUNTER (R416): directions with the waiting tables, and the job tables. -/
def readCtrs (t : Nat) (bs : List Byte) : Option (List (Nat × Nat) × List CtrTable) :=
  if bs.length ≠ 128 + 1088 * t then none else
  let dirs := (entries 2 bs 64).mapM (fun e =>
    given (decide (rdLe e 0 1 ≤ 2) && (if rdLe e 0 1 = 1 then decide (rdLe e 1 1 < t) else byteAt e 1 == 0)) (rdLe e 0 1, rdLe e 1 1))
  let tabs := (entries 1088 (bs.drop 128) t).mapM (fun e =>
    let inits := (List.range 256).map (fun n => rdLe e (64 + 4 * n) 4)
    given (zeros e 60 64 && inits.all (fun v => decide (v < 2 ^ 24)))
      (⟨(List.range 15).map (fun n => rdLe e (4 * n) 4), inits⟩ : CtrTable))
  match dirs, tabs with
  | some d, some x => some (d, x)
  | _, _ => none

/-- One DATA record (R417) at the head of `bs`, with the bytes it takes. -/
def readRecord (jt : Nat) (bs : List Byte) : Option (DataRec × Nat) :=
  let sp := rdLe bs 0 1
  let l := rdLe bs 4 4
  let len := 16 + (l + 7) / 8 * 8
  given ([1, 2, 4, 5].contains sp && byteAt bs 1 == 0 && (sp == 5 || zeros bs 2 4) && decide (len ≤ bs.length) &&
      zeros bs (16 + l) len)
    (⟨sp, jt, rdLe bs 2 1, if sp = 5 then rdLe bs 3 1 + 1 else 0, rdLe bs 8 8, (bs.drop 16).take l⟩, len)

/-- The records of a DATA section. -/
def readRecords (jt : Nat) : Nat → List Byte → Option (List DataRec)
  | 0, bs => given bs.isEmpty []
  | fuel + 1, bs =>
    if bs.isEmpty then some [] else
    match readRecord jt bs with
    | none => none
    | some (r, k) => (readRecords jt fuel (bs.drop k)).map (r :: ·)

/-- BOUND (R418). -/
def readBound (t : Nat) (bs : List Byte) : Option BoundDecl :=
  let ntr := rdLe bs 40 4
  if bs.length ≠ 48 + 8 * t + ntr * (8 + 8 * t) ∨ ¬ zeros bs 44 48 then none else
  let longs (e : List Byte) (k : Nat) : List Nat := (List.range k).map (fun j => rdLe e (8 * j) 8)
  ((entries (8 + 8 * t) (bs.drop (48 + 8 * t)) ntr).mapM (fun e =>
    given (zeros e 2 8) (rdLe e 0 2, longs (e.drop 8) t))).map
    (fun trs => ⟨rdLe bs 0 8, longs (bs.drop 8) 4, longs (bs.drop 48) t, trs⟩)

/-- One trick (R419) at the head of `bs`, with the bytes it takes. -/
def readTrick (t : Nat) (bs : List Byte) : Option (TrickDecl × Nat) :=
  let nl := rdLe bs 4 4
  let rep := rdLe bs 2 1
  let len := 16 + 24 * t + 24 * nl
  if bs.length < len ∨ 4095 < rdLe bs 0 2 ∨ 1 < rep ∨ byteAt bs 3 ≠ 0 then none else
  let tabs := (entries 24 (bs.drop 16) t).mapM (fun e =>
    given (zeros e 4 8 && (rep == 1 || zeros e 8 24)) (rdLe e 0 4, rdLe e 8 8, rdLe e 16 8))
  let live := (entries 24 (bs.drop (16 + 24 * t)) nl).mapM (fun e =>
    given ((rdLe e 0 1 == 1 || rdLe e 0 1 == 2) && zeros e 1 8) (rdLe e 0 1 == 2, rdLe e 8 8, rdLe e 16 8))
  match tabs, live with
  | some a, some b => some (⟨rdLe bs 0 2, rep == 1, rdLe bs 8 8, a, b⟩, len)
  | _, _ => none

/-- The tricks of a TRICK body. -/
def readTrickList (t : Nat) : Nat → List Byte → Option (List TrickDecl)
  | 0, bs => given bs.isEmpty []
  | fuel + 1, bs =>
    if bs.isEmpty then some [] else
    match readTrick t bs with
    | none => none
    | some (r, k) => (readTrickList t fuel (bs.drop k)).map (r :: ·)

/-- TRICK (R419): in rising ID order. -/
def readTricks (t : Nat) (bs : List Byte) : Option (List TrickDecl) :=
  match readTrickList t bs.length bs with
  | none => none
  | some ts => given (rising (ts.map (·.id))) ts

/-- A piece of a tensor (R420). -/
def readPiece (t : Nat) (packed : Bool) (e : List Byte) : Option PieceDecl :=
  let sp := rdLe e 0 1
  given ([1, 2, 4, 5].contains sp && decide (rdLe e 1 1 < t) && (sp == 5 || byteAt e 2 == 0) && zeros e 3 8 && zeros e 36 40 &&
      (!packed || zeros e 32 36))
    ⟨sp, rdLe e 1 1, rdLe e 2 1, rdLe e 8 8, rdLe e 16 8, rdLe e 24 8, rdLe e 32 4⟩

/-- `n` tensors that fill `bs`. -/
def readTensorList (t : Nat) : Nat → List Byte → Option (List TensorDecl)
  | 0, bs => given bs.isEmpty []
  | n + 1, bs =>
    let eb := rdLe bs 4 4
    let np := rdLe bs 16 4
    let len := 24 + 40 * np
    if bs.length < len ∨ ¬ zeros bs 20 24 ∨ eb = 0 ∨ (eb % 8 ≠ 0 ∧ eb ≠ 4 ∧ eb ≠ 6) then none else
    match (entries 40 (bs.drop 24) np).mapM (readPiece t (eb % 8 != 0)) with
    | none => none
    | some ps => (readTensorList t n (bs.drop len)).map (⟨rdLe bs 0 4, eb, rdLe bs 8 8, ps⟩ :: ·)

/-- LAYOUT (R420): in rising tensor number. -/
def readTensors (t : Nat) (bs : List Byte) : Option (List TensorDecl) :=
  let n := rdLe bs 0 4
  if bs.length < 8 ∨ ¬ zeros bs 4 8 ∨ bs.length < 24 * n then none else
  match readTensorList t n (bs.drop 8) with
  | none => none
  | some ts => given (rising (ts.map (·.num))) ts

/-! ### Variants -/

/-- A section that may be left out: `d` where it is. -/
def orElse {α : Type} (d : α) (f : List Byte → Option α) (b : Option (List Byte)) : Option α :=
  match b with
  | none => some d
  | some bs => f bs

/-- Bytes that records fill in one space; a scratchpad record counts for each core it names (R418). -/
def dataBytes (rs : List DataRec) (space : Nat) : Nat :=
  ((rs.filter (fun r => r.space == space)).map (fun r => r.data.length * (if r.space = 5 then r.cnt else 1))).sum

/-- Everything that variant `v` uses. -/
def readVariant (ss : List Section) (taper : Bool) (v : Nat) (k : VarKey) : Option VarDecl := do
  let tabs := List.range k.t
  let code ← tabs.mapM (fun j => match useBody ss 0x02 v j with
    | none => none
    | some b => given (b.length % 2 == 0 && decide (0 < b.length)) b)
  let htab ← tabs.mapM (fun j => orElse [] readHtab (useBody ss 0x03 v j))
  let patch ← orElse [] (readPatch k.t) (useBody ss 0x04 v 0)
  let res ← orElse (ResDecl.none k.t) (readRes k.t) (useBody ss 0x05 v 0)
  let plan ← orElse (0, []) (readPlan k.t) (useBody ss 0x06 v 0)
  let chans ← orElse [] (readChans k.t) (useBody ss 0x07 v 0)
  let queues ← orElse [] (readQueues k.t) (useBody ss 0x08 v 0)
  let dma ← orElse ([], [], []) (readDma k.t) (useBody ss 0x09 v 0)
  let ctrs ← orElse (List.replicate 64 (0, 0), List.replicate k.t ⟨List.replicate 15 0, List.replicate 256 0⟩) (readCtrs k.t)
    (useBody ss 0x0A v 0)
  let data ← tabs.mapM (fun j => orElse [] (fun b => readRecords j b.length b) (useBody ss 0x0D v j))
  let bound ← (useBody ss 0x0E v 0).bind (readBound k.t)
  let tricks ← orElse [] (readTricks k.t) (useBody ss 0x0F v 0)
  let tensors ← orElse [] (readTensors k.t) (useBody ss 0x10 v 0)
  let tap ← if taper then (useBody ss 0x11 v 0).bind (readTaper k.t k.c) else some []
  let recs := data.flatten
  given (bound.counts == [dataBytes recs 5, dataBytes recs 4, dataBytes recs 1, dataBytes recs 2])
    ⟨k, code, htab, patch, res, plan.1, plan.2, chans, queues, dma.1, dma.2.1, dma.2.2, ctrs.1, ctrs.2, recs, bound,
      tricks, tensors, tap⟩

/-- The body meets its layout for some number of job tables. -/
def someT (f : Nat → Bool) : Bool := (List.range 64).any (fun t => f (t + 1))

/-- A common section that serves no variant still meets its layout, for some T and C where the layout names them (R239). -/
def idleOk (x : Section) : Bool :=
  match x.typ with
  | 0x02 => x.body.length % 2 == 0 && !x.body.isEmpty
  | 0x03 => (readHtab x.body).isSome
  | 0x04 => (readPatch 64 x.body).isSome
  | 0x05 => someT (fun t => (readRes t x.body).isSome)
  | 0x06 => (readPlan 64 x.body).isSome
  | 0x07 => (readChans 64 x.body).isSome
  | 0x08 => (readQueues 64 x.body).isSome
  | 0x09 => (readDma 64 x.body).isSome
  | 0x0A => someT (fun t => (readCtrs t x.body).isSome)
  | 0x0D => (readRecords 0 x.body.length x.body).isSome
  | 0x0E => someT (fun t => (readBound t x.body).isSome)
  | 0x0F => someT (fun t => (readTricks t x.body).isSome)
  | 0x10 => (readTensors 64 x.body).isSome
  | 0x11 => someT (fun t => (List.range 63).any (fun c => (readTaper t (c + 1) x.body).isSome))
  | _ => true

/-- VAR and JTAB of a section fit its type (R409). -/
def placeOk (ss : List Section) (ks : List VarKey) (x : Section) : Bool :=
  if imageWide x.typ then x.var == 0xFF && x.jtab == 0 else
  (x.var == 0xFF || decide (x.var < ks.length)) &&
  (if perTable x.typ then (serves ss ks.length x).all (fun v => (ks[v]?).any (fun k => decide (x.jtab < k.t)))
   else x.jtab == 0) &&
  (!(serves ss ks.length x).isEmpty || idleOk x)

/-- What the variants declare alike (R420): the tensors with EBITS and N. -/
def VarDecl.tensorKeys (v : VarDecl) : List (Nat × Nat × Nat) := v.tensors.map (fun t => (t.num, t.ebits, t.n))

/-- All elements are equal. -/
def allEqual {α : Type} [BEq α] (xs : List α) : Bool :=
  match xs with
  | [] => true
  | x :: rest => rest.all (· == x)

/-- The sections of an image whose header meets R238. -/
def readSections (img : List Byte) : Option (List Section) :=
  let n := rdLe img 6 2
  if rdLe img 0 4 ≠ 0x31494D44 ∨ 1 < fieldN (rdLe img 4 2) 5 4 ∨ fieldN (rdLe img 4 2) 15 6 ≠ 0 ∨ n = 0 ∨ 4096 < n ∨
      rdLe img 8 8 ≠ img.length ∨ ¬ zeros img 16 32 ∨ img.length < 32 + 32 * n then none else
  (List.range n).mapM (readSection img n)

/-- An image (R238, R239); nothing where it is refused with IMAGE_MALFORMED. -/
def readImage (img : List Byte) : Option Image := do
  let ss ← readSections img
  let taper := fieldN (rdLe img 4 2) 5 4 == 1
  let ks ← (useBody ss 0x01 0xFF 0).bind readSpread
  let same (a b : Section) : Bool := a.typ == b.typ && a.var == b.var && a.jtab == b.jtab
  if ss.all (fun x => listedType x.typ && placeOk ss ks x && (taper || x.typ != 0x11)) && noPair same ss &&
      noPair Section.meets ss then
    let seeds ← orElse (List.replicate 16 (false, false)) readSeeds (useBody ss 0x0B 0xFF 0)
    let curve ← orElse none (fun b => (readCurve b).map some) (useBody ss 0x0C 0xFF 0)
    let vs ← (List.range ks.length).mapM (fun v => (ks[v]?).bind (readVariant ss taper v))
    given (allEqual (vs.map VarDecl.tensorKeys)) ⟨fieldN (rdLe img 4 2) 3 0, taper, seeds, curve, vs⟩
  else none

end Sys2Proof.Machine
end

