-- ==== Sys2Proof/Machine/Words.lean ====
section
/-!
DEFINITION. Long words as the loader reads them from a CODE section (R107 to R109): the header, the encodings of the six slots
(R53 to R59, R116 to R123) and the checks of one word that refuse it with ILLEGAL_WORD (R113).
-/
namespace Sys2Proof.Machine

/-- The header operand of decoded operations: the loader's words name no table yet. -/
def loadHdr (pc w : Nat) (first : Bool) : Hdr :=
  { table := 0, core := 0, pc := BitVec.ofNat 17 pc, grd := BitVec.ofNat 3 (fieldN w 5 3), gneg := w.testBit 2,
    idle := BitVec.ofNat 4 (fieldN w 9 6), first := first }

/-- Bits `hi` to `lo` of a slot as a bit vector. -/
def bits (n v hi lo : Nat) : BitVec n := BitVec.ofNat n (fieldN v hi lo)

/-- Bits `hi` to `lo` are zero. -/
def zeroIn (v hi lo : Nat) : Bool := fieldN v hi lo == 0

/-- An instruction whose reserved fields are zero. -/
def whenZero (ok : Bool) (i : Instr) : Option Instr := if ok then some i else none

/-! ### The S slot (R116) -/

/-- An S-slot operation. -/
def decodeS (h : Hdr) (v : Nat) : Option Instr :=
  let sd := bits 5 v 25 21
  let sa := bits 5 v 20 16
  let sb := bits 5 v 15 11
  let imm := bits 16 v 15 0
  let pd := bits 3 v 25 23
  let r := zeroIn v 10 0
  match fieldN v 31 26 with
  | 0x01 => whenZero r (.add h sd sa sb)
  | 0x02 => whenZero r (.sub h sd sa sb)
  | 0x03 => whenZero r (.and h sd sa sb)
  | 0x04 => whenZero r (.or h sd sa sb)
  | 0x05 => whenZero r (.xor h sd sa sb)
  | 0x06 => whenZero r (.shl h sd sa sb)
  | 0x07 => whenZero r (.shr h sd sa sb)
  | 0x08 => whenZero r (.sar h sd sa sb)
  | 0x09 => whenZero r (.mul h sd sa sb)
  | 0x0A => whenZero r (.min h sd sa sb)
  | 0x0B => whenZero r (.max h sd sa sb)
  | 0x10 => some (.addi h sd sa imm)
  | 0x11 => some (.andi h sd sa imm)
  | 0x12 => some (.ori h sd sa imm)
  | 0x13 => some (.xori h sd sa imm)
  | 0x14 => some (.shli h sd sa imm)
  | 0x15 => some (.shri h sd sa imm)
  | 0x16 => some (.sari h sd sa imm)
  | 0x17 => whenZero (sa == 0) (.lui h sd imm)
  | 0x18 => whenZero (zeroIn v 9 0) (.cmp h pd (bits 3 v 22 20) (bits 5 v 19 15) (bits 5 v 14 10))
  | 0x19 => some (.cmpi h pd (bits 3 v 22 20) (bits 5 v 19 15) (bits 15 v 14 0))
  | 0x1A => whenZero (zeroIn v 14 0) (.plog h pd (bits 3 v 22 20) (bits 3 v 19 17) (bits 2 v 16 15))
  | 0x1B => whenZero (zeroIn v 6 0) (.mfr h sd (bits 2 v 20 19) (bits 12 v 18 7))
  | 0x1C => whenZero (zeroIn v 6 0) (.mtr h sd (bits 2 v 20 19) (bits 12 v 18 7))
  | 0x1D => whenZero (zeroIn v 20 0) (.sqpop h sd)
  | _ => none

/-! ### The V slot (R118 to R120) -/

/-- A V-slot operation. DEDUCED (assumption 69): bits [29:25] of VTOM, VTOP, VIDX and VQPOP and bits [39:38] of VTOP, to which no rule
gives a meaning or a value, must be zero like every reserved bit. -/
def decodeV (h : Hdr) (v : Nat) : Option Instr :=
  let m := bits 2 v 41 40
  let vd := bits 5 v 39 35
  let va := bits 5 v 34 30
  let vb := bits 5 v 29 25
  let vc := bits 5 v 24 20
  let r0 := zeroIn v 19 0
  let r := zeroIn v 24 0
  let all := m == 0
  let cond := bits 3 v 22 20
  let rc := r0 && zeroIn v 24 23
  let a0 := zeroIn v 34 30
  let b0 := zeroIn v 29 25
  match fieldN v 47 42 with
  | 0x01 => whenZero r (.vaddf h m vd va vb)
  | 0x02 => whenZero r (.vsubf h m vd va vb)
  | 0x03 => whenZero r (.vmulf h m vd va vb)
  | 0x04 => whenZero r0 (.vfmaf h m vd va vb vc)
  | 0x05 => whenZero r (.vminf h m vd va vb)
  | 0x06 => whenZero r (.vmaxf h m vd va vb)
  | 0x07 => whenZero (r && b0) (.vabsf h m vd va)
  | 0x08 => whenZero (r && b0) (.vnegf h m vd va)
  | 0x09 => whenZero rc (.vcmpf h m vd va vb cond)
  | 0x10 => whenZero r (.vaddi h m vd va vb)
  | 0x11 => whenZero r (.vsubi h m vd va vb)
  | 0x12 => whenZero r (.vmuli h m vd va vb)
  | 0x13 => whenZero r (.vmini h m vd va vb)
  | 0x14 => whenZero r (.vmaxi h m vd va vb)
  | 0x15 => whenZero r (.vand h m vd va vb)
  | 0x16 => whenZero r (.vor h m vd va vb)
  | 0x17 => whenZero r (.vxor h m vd va vb)
  | 0x18 => whenZero r (.vshl h m vd va vb)
  | 0x19 => whenZero r (.vshr h m vd va vb)
  | 0x1A => whenZero r (.vsar h m vd va vb)
  | 0x1B => whenZero rc (.vcmpi h m vd va vb cond)
  | 0x20 => whenZero r0 (.vsel h m vd va vb vc)
  | 0x21 => whenZero r (.vmov h m vd va vb)
  | 0x22 => whenZero (r && a0) (.vbcst h m vd vb)
  | 0x23 => whenZero r (.vrot h m vd va vb)
  | 0x24 => whenZero (r && b0 && all && zeroIn v 38 35) (.vtom h (v.testBit 39) va)
  | 0x25 => whenZero (r && b0 && zeroIn v 39 38) (.vtop h m (bits 3 v 37 35) va)
  | 0x26 => whenZero (r && a0 && b0) (.vidx h m vd)
  | 0x27 => whenZero (r && all) (.vget h vd va vb)
  | 0x28 => whenZero r (.vredmaxf h m vd va vb)
  | 0x29 => whenZero r (.vredminf h m vd va vb)
  | 0x2A => whenZero r (.vredi h m vd va vb)
  | 0x2B => whenZero (r && a0 && b0 && all) (.vqpop h vd)
  | 0x30 => whenZero (zeroIn v 14 0) (.cvt h m vd va vb vc (bits 3 v 19 17) (v.testBit 16) (v.testBit 15))
  | 0x31 => whenZero (zeroIn v 16 0 && all) (.cvmx h vd va vb vc (bits 3 v 19 17))
  | 0x32 => whenZero (zeroIn v 7 0 && all) (.ard h vd (bits 3 v 34 32) (bits 6 v 31 26) (bits 5 v 25 21) (bits 3 v 20 18)
      (v.testBit 17) (bits 4 v 16 13) (bits 5 v 12 8))
  | 0x33 => whenZero (zeroIn v 25 0 && all) (.ardr h vd (bits 3 v 34 32) (bits 6 v 31 26))
  | 0x34 => whenZero (zeroIn v 10 0) (.gmx h m vd va (bits 4 v 29 26) (bits 5 v 25 21) (bits 5 v 20 16) (bits 5 v 15 11))
  | 0x35 => whenZero (zeroIn v 26 0) (.curv h m vd va (bits 3 v 29 27))
  | 0x36 => whenZero (zeroIn v 31 0 && all) (.tkcfg h (v.testBit 39) (bits 5 v 38 34) (v.testBit 33) (v.testBit 32))
  | 0x37 => whenZero (zeroIn v 28 0) (.tkins h m (v.testBit 39) (bits 5 v 38 34) (bits 5 v 33 29))
  | 0x38 => whenZero (zeroIn v 23 0 && all && !v.testBit 34) (.tkrd h (v.testBit 39) (bits 4 v 38 35) (bits 5 v 33 29) (bits 5 v 28 24))
  | _ => none

/-! ### The M slot (R53 to R59) -/

/-- An M-slot operation. -/
def decodeM (h : Hdr) (v : Nat) : Option Instr :=
  match fieldN v 63 59 with
  | 1 => whenZero (zeroIn v 22 0) (.mdot h
      { mode := bits 3 v 58 56, hfmt := bits 4 v 55 52, wfmt := bits 4 v 51 48, hsel := v.testBit 47, src := v.testBit 46
        wrep := v.testBit 45, aset := bits 3 v 44 42, entry := bits 6 v 41 36, zero := v.testBit 35, msk := bits 2 v 34 33
        hscl := v.testBit 32, wscl := v.testBit 31, part := v.testBit 30, klen := bits 7 v 29 23 })
  | 2 => whenZero (zeroIn v 39 0) (.mclr h (bits 2 v 58 57) (bits 3 v 56 54) (bits 6 v 53 48) (bits 6 v 47 42) (bits 2 v 41 40))
  | 3 => whenZero (zeroIn v 44 0) (.msetw h (bits 3 v 58 56) (v.testBit 55) (bits 10 v 54 45))
  | 4 => whenZero (zeroIn v 38 0) (.mred h (bits 3 v 58 56) (bits 6 v 55 50) (bits 6 v 49 44) (bits 2 v 43 42) (v.testBit 41)
      (bits 2 v 40 39))
  | 5 => whenZero (zeroIn v 42 0) (.minj h (bits 3 v 58 56) (bits 6 v 55 50) (bits 5 v 49 45) (bits 2 v 44 43))
  | 6 => whenZero (zeroIn v 55 0) (.warm h (bits 2 v 58 57) (v.testBit 56))
  | _ => none

/-! ### The L and T slots (R121, R122) -/

/-- An L-slot operation. -/
def decodeL (h : Hdr) (v : Nat) : Option Instr :=
  match fieldN v 47 42 with
  | 1 => whenZero (zeroIn v 37 0) (.hload h (bits 2 v 41 40) (v.testBit 39) (v.testBit 38))
  | 2 => whenZero (zeroIn v 8 0 && zeroIn v 37 33)
      (.cbload h (v.testBit 41) (bits 2 v 40 39) (v.testBit 38) (bits 5 v 32 28) (bits 19 v 27 9))
  | 3 => whenZero (zeroIn v 8 0) (.ctload h (bits 3 v 41 39) (bits 6 v 38 33) (bits 5 v 32 28) (bits 19 v 27 9))
  | 4 => whenZero (zeroIn v 2 0)
      (.ldv h (bits 5 v 41 37) (bits 3 v 36 34) (bits 2 v 33 32) (bits 5 v 31 27) (bits 5 v 26 22) (bits 19 v 21 3))
  | 5 => whenZero (zeroIn v 12 0) (.lds h (bits 5 v 41 37) (bits 5 v 36 32) (bits 19 v 31 13))
  | 6 => whenZero (zeroIn v 22 0) (.gth h (bits 5 v 41 37) (bits 5 v 36 32) (bits 5 v 31 27) (bits 2 v 26 25) (bits 2 v 24 23))
  | 7 => whenZero (zeroIn v 12 0) (.shld h (bits 5 v 41 37) (bits 5 v 36 32) (bits 19 v 31 13))
  | _ => none

/-- A T-slot operation. -/
def decodeT (h : Hdr) (v : Nat) : Option Instr :=
  match fieldN v 47 42 with
  | 1 => whenZero (zeroIn v 0 0) (.stv h (bits 2 v 41 40) (bits 5 v 39 35) (bits 3 v 34 32) (bits 2 v 31 30) (bits 5 v 29 25)
      (bits 5 v 24 20) (bits 19 v 19 1))
  | 2 => whenZero (zeroIn v 12 0) (.sts h (bits 5 v 41 37) (bits 5 v 36 32) (bits 19 v 31 13))
  | 3 => whenZero (zeroIn v 12 0) (.shst h (bits 5 v 41 37) (bits 5 v 36 32) (bits 19 v 31 13))
  | 4 => whenZero (zeroIn v 27 0 && zeroIn v 37 37) (.qreq h (bits 4 v 41 38) (bits 5 v 36 32) (bits 4 v 31 28))
  | 5 => whenZero (zeroIn v 30 0 && zeroIn v 37 37) (.qrel h (bits 4 v 41 38) (bits 6 v 36 31))
  | 6 => whenZero (zeroIn v 1 0) (.send h (bits 6 v 41 36) (bits 6 v 35 30) (bits 5 v 29 25) (bits 19 v 24 6) (bits 4 v 5 2))
  | _ => none

/-! ### The Y slot (R123) -/

/-- A Y-slot operation. -/
def decodeY (h : Hdr) (v : Nat) : Option Instr :=
  match fieldN v 31 26 with
  | 1 => whenZero (zeroIn v 25 0) (.nop h)
  | 2 => whenZero (zeroIn v 25 0) (.endTask h)
  | 3 => whenZero (zeroIn v 23 17) (.loop h (bits 2 v 25 24) (bits 17 v 16 0))
  | 4 => whenZero (!v.testBit 23 || zeroIn v 22 5) (.setlc h (bits 2 v 25 24) (v.testBit 23) (bits 23 v 22 0))
  | 5 => whenZero (zeroIn v 19 17) (.br h (bits 2 v 25 24) (bits 3 v 23 21) (v.testBit 20) (bits 17 v 16 0))
  | 6 => whenZero (zeroIn v 3 0) (.wait h (bits 2 v 25 24) (bits 8 v 23 16) (bits 8 v 15 8) (bits 4 v 7 4))
  | 7 => whenZero (zeroIn v 1 0) (.sig h (bits 2 v 25 24) (bits 8 v 23 16) (bits 8 v 15 8) (bits 6 v 7 2))
  | 8 => whenZero (zeroIn v 13 0 && zeroIn v 20 20) (.qwait h (bits 4 v 25 22) (v.testBit 21) (bits 6 v 19 14))
  | 9 => whenZero (zeroIn v 18 0) (.dwait h (bits 7 v 25 19))
  | 10 => whenZero (zeroIn v 1 0) (.hwin h (bits 6 v 25 20) (bits 6 v 19 14) (bits 12 v 13 2))
  | 11 => whenZero (zeroIn v 25 0) (.hret h)
  | 12 => whenZero (zeroIn v 12 0) (.trick h (bits 12 v 25 14) (v.testBit 13))
  | _ => none

/-! ### Words -/

/-- A long word of a CODE section: its granule address, its length in granules, its header, and its operations. -/
structure LWord where
  pc   : Nat
  len  : Nat
  hdr  : Nat
  ops  : List Instr
  deriving DecidableEq, Repr

/-- IDLE of a word. -/
def LWord.idle (w : LWord) : Nat := fieldN w.hdr 9 6

/-- The slots of a word: header bit, granules and decoder, in their order. -/
def slotTable : List (Nat × Nat × (Hdr → Nat → Option Instr)) :=
  [(15, 2, decodeS), (14, 3, decodeV), (13, 4, decodeM), (12, 3, decodeL), (11, 3, decodeT), (10, 2, decodeY)]

/-- The slots that a header marks present. -/
def presentSlots (hdr : Nat) : List (Nat × Nat × (Hdr → Nat → Option Instr)) :=
  slotTable.filter (fun s => hdr.testBit s.1)

/-- Granules of a word with this header. -/
def wordLen (hdr : Nat) : Nat := 1 + ((presentSlots hdr).map (·.2.1)).sum

/-- `n` granules at the head of a list as one number, the most significant first (R109). -/
def slotValue (gs : List Nat) (n : Nat) : Nat := (gs.take n).foldl (fun v g => v * 65536 + g) 0

/-- The operations of the slots given, from the granules that follow the header. -/
def decodeSlots (slots : List (Nat × Nat × (Hdr → Nat → Option Instr))) (pc hdr : Nat) (first : Bool) (gs : List Nat) :
    Option (List Instr) :=
  match slots with
  | [] => some []
  | s :: rest =>
    match s.2.2 (loadHdr pc hdr first) (slotValue gs s.2.1) with
    | none => none
    | some i => (decodeSlots rest pc hdr false (gs.drop s.2.1)).map (i :: ·)

/-- A destination that an operation names (R113). Table-wide loop levels are named by SETLC and by MTR. -/
inductive Dest where
  | s (n : Nat)
  | p (n : Nat)
  | v (n : Nat)
  | reg (blk off : Nat)
  deriving DecidableEq, Repr

/-- The destinations of an operation. -/
def destsOf : Instr → List Dest
  | .add _ d _ _ | .sub _ d _ _ | .and _ d _ _ | .or _ d _ _ | .xor _ d _ _ | .shl _ d _ _ | .shr _ d _ _ | .sar _ d _ _
  | .mul _ d _ _ | .min _ d _ _ | .max _ d _ _ | .addi _ d _ _ | .andi _ d _ _ | .ori _ d _ _ | .xori _ d _ _
  | .shli _ d _ _ | .shri _ d _ _ | .sari _ d _ _ | .lui _ d _ | .mfr _ d _ _ | .sqpop _ d | .vget _ d _ _
  | .lds _ d _ _ => [.s d.toNat]
  | .cmp _ p _ _ _ => [.p p.toNat]
  | .cmpi _ p _ _ _ => [.p p.toNat]
  | .plog _ p _ _ _ => [.p p.toNat]
  | .vtop _ _ p _ => [.p p.toNat]
  | .mtr _ _ b o => [.reg b.toNat o.toNat]
  | .setlc _ n _ _ => [.reg 2 (0x80 + 4 * n.toNat)]
  | .vtom _ n _ => [.reg 0 (0x100 + 8 * b2n n), .reg 0 (0x104 + 8 * b2n n)]
  | .vaddf _ _ d _ _ | .vsubf _ _ d _ _ | .vmulf _ _ d _ _ | .vfmaf _ _ d _ _ _ | .vminf _ _ d _ _ | .vmaxf _ _ d _ _
  | .vabsf _ _ d _ | .vnegf _ _ d _ | .vcmpf _ _ d _ _ _ | .vaddi _ _ d _ _ | .vsubi _ _ d _ _ | .vmuli _ _ d _ _
  | .vmini _ _ d _ _ | .vmaxi _ _ d _ _ | .vand _ _ d _ _ | .vor _ _ d _ _ | .vxor _ _ d _ _ | .vshl _ _ d _ _
  | .vshr _ _ d _ _ | .vsar _ _ d _ _ | .vcmpi _ _ d _ _ _ | .vsel _ _ d _ _ _ | .vmov _ _ d _ _ | .vbcst _ _ d _
  | .vrot _ _ d _ _ | .vidx _ _ d | .vredmaxf _ _ d _ _ | .vredminf _ _ d _ _ | .vredi _ _ d _ _ | .vqpop _ d
  | .cvt _ _ d _ _ _ _ _ _ | .ard _ d _ _ _ _ _ _ _ | .curv _ _ d _ _ | .ldv _ d _ _ _ _ _ | .gth _ d _ _ _ _ => [.v d.toNat]
  | .cvmx _ d _ c _ _ => [.v d.toNat, .v c.toNat]
  | .tkrd _ _ _ a b => [.v a.toNat, .v b.toNat]
  | .gmx _ _ d _ _ _ _ _ => [.v d.toNat, .v (d.toNat + 1)]
  | .ardr _ d _ _ => (List.range 8).map (fun i => .v (d.toNat + i))
  | _ => []

/-- No destination is named twice in a word. -/
def destsOk (ops : List Instr) : Bool :=
  let ds := ops.flatMap destsOf
  ds.eraseDups.length == ds.length

/-- The word at granule `pc`, whose granules and all that follow it are `gs`; nothing where the word is illegal. -/
def decodeWord (pc : Nat) (gs : List Nat) : Option LWord :=
  match gs with
  | [] => none
  | hdr :: rest =>
    if fieldN hdr 15 10 = 0 ∨ fieldN hdr 1 0 ≠ 0 ∨ gs.length < wordLen hdr ∨ 131072 < pc + wordLen hdr then none else
    match decodeSlots (presentSlots hdr) pc hdr true rest with
    | none => none
    | some ops => if ops.all Instr.wf && destsOk ops then some ⟨pc, wordLen hdr, hdr, ops⟩ else none

/-- Every word of a CODE section that begins in the program store, in order (R109, R110). -/
def decodeCode : Nat → Nat → List Nat → Option (List LWord)
  | 0, _, gs => if gs.isEmpty then some [] else none
  | fuel + 1, pc, gs =>
    if gs.isEmpty ∨ 131072 ≤ pc then some [] else
    match decodeWord pc gs with
    | none => none
    | some w => (decodeCode fuel (pc + w.len) (gs.drop w.len)).map (w :: ·)

/-- The granules of a byte string. -/
def granules (bs : List Byte) : List Nat :=
  match bs with
  | a :: b :: rest => (a.toNat + 256 * b.toNat) :: granules rest
  | _ => []

/-- The words of a CODE section. -/
def codeWords (bs : List Byte) : Option (List LWord) := decodeCode (bs.length + 1) 0 (granules bs)

end Sys2Proof.Machine
end

