-- ==== Sys2Proof/Machine/Declare.lean ====
section
/-!
DEFINITION. The checks of content that refuse an image with ILLEGAL_WORD (R239, R246): patches, words, branches, loops, handlers,
and everything that words and declarations name (R103, R125, R128, R130, R137, R160, R168, R192, R193, R197, R204, R217,
R230 to R232, R234, R243, R244, R250, R258, R268, R269, R296, R417).
-/
namespace Sys2Proof.Machine

/-! ### Patches (R243) -/

/-- The words of a CODE section by their headers alone: first granule and length. -/
def wordSpans : Nat → Nat → List Nat → List (Nat × Nat)
  | 0, _, _ => []
  | fuel + 1, pc, gs => match gs with
    | [] => []
    | h :: _ => (pc, wordLen h) :: wordSpans fuel (pc + wordLen h) (gs.drop (wordLen h))

/-- The 32-bit value that a patch writes a half of, before the half is taken; nothing for an unlisted kind and for a parameter
word or host window that the variant does not declare. `uses` holds the carried use counters. -/
def patchValue (v : VarDecl) (b : SubmitBody) (uses : List (Nat × Nat)) (p : PatchDecl) : Option Nat :=
  let win (n : Nat) : Option Nat := given (v.res.wins.testBit n && decide (n < 16)) (((b.hwin.drop n).head?).map (·.2.1) |>.getD 0)
  let par (n : Nat) : Option Nat := given (decide (n < v.res.nparam)) (((b.param.drop n).headD 0).toNat)
  let use (n : Nat) : Nat := ((uses.find? (fun x => x.1 == n)).map (·.2)).getD 0
  match p.kind with
  | 0x01 => some v.key.t
  | 0x02 => some v.key.c
  | 0x03 => some 64
  | 0x04 => some p.jt
  | 0x05 => par p.arg
  | 0x06 => (par p.arg).map (· >>> 16)
  | 0x07 => win p.arg
  | 0x08 => (win p.arg).map (· >>> 16)
  | 0x09 => some (use p.arg)
  | 0x0A => some (use p.arg >>> 16)
  | _ => none

/-- The granules of a table's code with one patch applied. The field is a granule of the word behind its header. -/
def patchOne (v : VarDecl) (b : SubmitBody) (uses : List (Nat × Nat)) (spans : List (Nat × Nat)) (gs : List Nat) (p : PatchDecl) :
    Option (List Nat) :=
  let k := p.boff / 16
  match spans.find? (fun x => x.1 == p.g), patchValue v b uses p with
  | some x, some w => given (decide (0 < k) && decide (k < x.2) && decide (p.g + k < gs.length)) (gs.set (p.g + k) (w % 65536))
  | _, _ => none

/-- The granules of job table `j` with every patch applied. -/
def patchTable (v : VarDecl) (b : SubmitBody) (uses : List (Nat × Nat)) (j : Nat) (code : List Byte) : Option (List Nat) :=
  let gs := granules code
  let spans := wordSpans gs.length 0 gs
  (v.patch.filter (fun p => p.jt == j)).foldlM (patchOne v b uses spans) gs

/-! ### Branches, loops and handlers (R125, R128, R130, R204) -/

/-- A LOOP of a word list: its level, its own address, the address of its body's last word. -/
structure Body where
  lvl  : Nat
  pc   : Nat
  last : Nat
  deriving DecidableEq, Repr

/-- The bodies of a program. -/
def bodies (ws : List LWord) : List Body :=
  ws.flatMap (fun w => w.ops.filterMap (fun i => match i with
    | .loop _ l a => some ⟨l.toNat, w.pc, a.toNat⟩
    | _ => none))

/-- A word address lies in a body: behind its LOOP and not behind its last word. -/
def Body.holds (b : Body) (pc : Nat) : Bool := decide (b.pc < pc) && decide (pc ≤ b.last)

/-- Two bodies overlap without one lying wholly inside the other. A body begins behind its LOOP. -/
def Body.crosses (a b : Body) : Bool :=
  decide (a.pc < b.last) && decide (b.pc < a.last) &&
    !(decide (a.pc ≤ b.pc) && decide (b.last ≤ a.last)) && !(decide (b.pc ≤ a.pc) && decide (a.last ≤ b.last))

/-- The branch targets of a word. -/
def LWord.branches (w : LWord) : List Nat :=
  w.ops.filterMap (fun i => match i with | .br _ _ _ _ a => some a.toNat | _ => none)

/-- Loops and branches of a program. -/
def flowOk (ws : List LWord) : Bool :=
  let starts := ws.map (·.pc)
  let bs := bodies ws
  bs.all (fun b => decide (b.pc < b.last) && starts.contains b.last &&
    bs.all (fun c => !b.crosses c && !(c.holds b.pc && c.lvl == b.lvl)) &&
    decide ((bs.filter (fun c => c.holds b.pc)).length < 4)) &&
  ws.all (fun w => w.branches.all (fun a => starts.contains a &&
    bs.all (fun b => b.last != w.pc && (b.holds w.pc || !b.holds a))))

/-- The words of the handler at an entry point, up to its HRET; nothing where there is none. -/
def handlerWords (ws : List LWord) : Option (List LWord) :=
  match ws with
  | [] => none
  | w :: rest => if w.ops.any (fun i => match i with | .hret _ => true | _ => false) then some [w]
    else (handlerWords rest).map (w :: ·)

/-- An operation that no handler holds. -/
def barred : Instr → Bool
  | .loop .. | .br .. | .wait .. | .qwait .. | .dwait .. | .hwin .. | .trick .. | .endTask .. | .send .. => true
  | _ => false

/-- Pops of the scalar and of the vector queue. -/
def scalarPops (ws : List LWord) : Nat :=
  (ws.map (fun w => (w.ops.filter (fun i => match i with | .sqpop .. => true | _ => false)).length)).sum
def vectorPops (ws : List LWord) : Nat :=
  (ws.map (fun w => (w.ops.filter (fun i => match i with | .vqpop .. => true | _ => false)).length)).sum

/-- The issue length of a handler table entry; nothing where its handler breaks R130 or R204. -/
def handlerLength (ws : List LWord) (entry : Nat) : Option Nat :=
  let pc := fieldN entry 16 0
  if ¬ ws.any (fun w => w.pc == pc) then none else
  match handlerWords (ws.dropWhile (fun w => w.pc != pc)) with
  | none => none
  | some hs =>
    let len := fieldN entry 25 18 + 1
    let pops := if entry.testBit 17 then scalarPops hs == 0 && decide (vectorPops hs ≤ len)
      else vectorPops hs == 0 && decide (scalarPops hs ≤ len)
    given (pops && hs.all (fun w => !w.ops.any barred)) ((hs.map (fun w => 1 + w.idle)).sum)

/-- HMAX of a table's valid handlers; nothing where one is refused. -/
def hmax (ws : List LWord) (htab : List Nat) : Option Nat :=
  ((htab.filter (fun e => e.testBit 31)).mapM (handlerLength ws)).map (fun ls => ls.foldl Nat.max 0)

/-! ### Objects that operations name -/

/-- The queue `q` of job table `j`. -/
def VarDecl.queue (v : VarDecl) (j q : Nat) : Option QueueDecl := v.queues.find? (fun x => x.jt == j && x.q == q)

/-- A SEND fits its channel and the receiving handler (R197). The handler table of another device is not known here. -/
def sendOk (v : VarDecl) (j chn hidx f : Nat) : Bool :=
  match v.chans.find? (fun c => c.sjt == j && c.schn == chn) with
  | none => false
  | some c =>
    decide (f ≤ c.maxf + 1) && (c.rjt == 0xFF || (match ((v.htab.drop c.rjt).headD []).drop hidx with
      | [] => false
      | e :: _ => e.testBit 31 &&
        (if e.testBit 17 then f % 4 == 0 && decide (f / 4 ≤ fieldN e 25 18 + 1) else decide (16 * f ≤ fieldN e 25 18 + 1))))

/-- One operation of job table `j` names only what the variant declares. `hm` is the table's HMAX and `inLoop` says that its
word lies in a loop body. -/
def opOk (img : Image) (v : VarDecl) (j hm : Nat) (inLoop : Bool) (i : Instr) : Bool :=
  let ct := (v.ctrs.drop j).headD ⟨[], []⟩
  let dir (n : Nat) : Nat × Nat := (v.hctr.drop n).headD (0, 0)
  match i with
  | .gmx _ _ _ _ seed _ _ _ => ((img.seeds.drop seed.toNat).headD (false, false)).1
  | .wait _ dst ctr _ tsel =>
    (tsel == 0 || (ct.touts.drop (tsel.toNat - 1)).headD 0 != 0) && (dst == 0 || dir ctr.toNat == (1, j))
  | .sig _ dst ctr _ chn =>
    (dst != 2 || (dir ctr.toNat).1 == 2) && (dst != 1 || v.chans.any (fun c => c.sjt == j && c.schn == chn.toNat))
  | .qwait _ q space n => (v.queue j q.toNat).any (fun d => d.out == space && decide (n.toNat ≤ d.nent))
  | .qrel _ q n => (v.queue j q.toNat).any (fun d => !d.out && decide (n.toNat ≤ d.nent))
  | .qreq _ q sp nm1 => (v.queue j q.toNat).any (fun d => decide (nm1.toNat + 1 ≤ d.nent) &&
      (if d.src = 3 then d.out && sp == 0 else decide (0 < if d.src = 1 then v.res.hbm else v.res.ddr)))
  | .dwait _ ch => v.dma.any (fun d => d.ch == ch.toNat && d.home == j)
  | .send _ chn hidx _ _ f => sendOk v j chn.toNat hidx.toNat (f.toNat + 1)
  | .hwin _ _ cnt wlen => !img.taper && decide (cnt.toNat * hm ≤ wlen.toNat)
  | .trick _ id rep => !img.taper && v.tricks.any (fun t => t.id == id.toNat && t.repart == rep) && !(rep && inLoop)
  | .br _ m _ _ _ => !(img.taper && (m == 1 || m == 2))
  | _ => true

/-- The program of job table `j` is legal. -/
def codeOk (img : Image) (v : VarDecl) (j : Nat) (gs : List Nat) : Bool :=
  match decodeCode (gs.length + 1) 0 gs with
  | none => false
  | some ws =>
    match hmax ws ((v.htab.drop j).headD []) with
    | none => false
    | some hm =>
      let bs := bodies ws
      flowOk ws && ws.all (fun w => w.ops.all (opOk img v j hm (bs.any (fun b => b.holds w.pc))))

/-! ### Declarations -/

/-- Intervals `[a, a + n)` and `[b, b + m)` share a point. -/
def meets (a n b m : Nat) : Bool := decide (a < b + m) && decide (b < a + n) && decide (0 < n) && decide (0 < m)

/-- The size of a record's window, in bytes (R417). -/
def VarDecl.window (v : VarDecl) (space j : Nat) : Nat :=
  4096 * (match space with
    | 1 => v.res.hbm
    | 2 => v.res.ddr
    | 4 => ((v.res.tables.drop j).head?).map (·.shf) |>.getD 0
    | _ => ((v.res.tables.drop j).head?).map (·.spdb) |>.getD 0)

/-- Two records write a byte twice: in one tier window, or in one table and, for a scratchpad, one core. -/
def DataRec.clash (a b : DataRec) : Bool :=
  a.space == b.space && (decide (a.space < 4) || a.jt == b.jt) && (a.space != 5 || meets a.core a.cnt b.core b.cnt) &&
    meets a.off a.data.length b.off b.data.length

/-- DATA records (R417). -/
def dataOk (v : VarDecl) : Bool :=
  v.data.all (fun r => decide (r.off + r.data.length ≤ v.window r.space r.jt) && (r.space != 5 || decide (r.core + r.cnt ≤ v.key.c))) &&
    noPair DataRec.clash v.data

/-- A flow that belongs to channel `c` in one direction by the numbers it carries (R412). -/
def FlowDecl.names (f : FlowDecl) (c : ChanDecl) : Bool :=
  if f.kind = 0 then (if f.io then f.dst == c.rjt && f.chn == c.rchn else f.src == c.sjt && f.chn == c.schn)
  else if f.kind = 1 then
    (if f.io then c.rjt == 0xFF && f.dst == c.sjt && f.chn == c.rchn
     else if c.sjt = 0xFE ∨ c.sjt = 0xFF then f.src == c.rjt && f.chn == c.schn && f.dst == c.sjt
     else f.dst == c.sjt && f.chn == c.schn)
  else false

/-- The flow's ends are the channel's, in the right direction (R192, R296). -/
def FlowDecl.fits (f : FlowDecl) (c : ChanDecl) : Bool :=
  if f.kind = 0 then (if f.io then decide (0xFE ≤ c.sjt) && f.dst == c.rjt else f.src == c.sjt && f.dst == c.rjt)
  else (if f.io then c.rjt == 0xFF && f.dst == c.sjt else f.src == c.rjt && f.dst == c.sjt)

/-- Channels (R192, R193, R296). A flow to a fabric port has an egress position. -/
def chansOk (s : State) (v : VarDecl) : Bool :=
  v.chans.all (fun c =>
    let mine (k : Nat) : List FlowDecl := v.flows.filter (fun f => f.kind == k && f.names c)
    let one (k : Nat) : Bool := (mine k).length == 1 && (mine k).all (fun f => f.fits c && (f.dst != 0xFF || !f.egr.isEmpty))
    decide (c.ofs < v.key.c) && (c.dyn || (one 0 && one 1)) &&
      (!c.xdev || (!c.dyn && c.raddr != s.recs.fabric.addr.toNat)) && (c.sjt != 0xFE || !c.dyn))

/-- The lowest and the highest first byte that a linear access pattern touches, from `a`, with steps and counts. -/
def extent (a : Int) (steps : List (Int × Nat)) : Int × Int :=
  steps.foldl (fun (lo, hi) (d, n) => if d < 0 then (lo + d * (n - 1 : Nat), hi) else (lo, hi + d * (n - 1 : Nat))) (a, a)

/-- The accesses of a shelf or scratchpad side of a descriptor stay in a landing area (R231). -/
def landOk (v : VarDecl) (d : Desc) (dst : Bool) : Bool :=
  let space := if dst then d.dsp else d.ssp
  let tab := if dst then d.dtab else d.stab
  let core := if dst then d.dcore else d.score
  let cnt := if dst then d.dcnt else d.scnt
  let other := if dst then (if d.ssp = 5 ∨ d.ssp = 6 then d.scnt else 1) else (if d.dsp = 5 ∨ d.dsp = 6 then d.dcnt else 1)
  let single := space != 5 || cnt == 1
  let r := extent (if dst then d.daddr else d.saddr)
    [(if dst then d.dstr else d.sstr, d.rows), (if dst then d.drstr else d.srstr, d.rep), (d.cstr, if single then other else 1)]
  d.len == 0 || v.lands.any (fun l => l.shelf == (space == 4) && l.jt == tab && decide ((l.off : Int) ≤ r.1) &&
    decide (r.2 + d.len ≤ l.off + l.len) && (space == 4 || (decide (l.core ≤ core) && decide (core + cnt ≤ l.core + l.cnt))))

/-- One side of a descriptor of a channel of engine kind `io`; `ch` is the channel's number, if a chain reaches the descriptor. -/
def sideOk (v : VarDecl) (io : Bool) (ch : Option Nat) (d : Desc) (dst : Bool) : Bool :=
  let space := if dst then d.dsp else d.ssp
  let tab := if dst then d.dtab else d.stab
  let core := if dst then d.dcore else d.score
  let cnt := if dst then d.dcnt else d.scnt
  let a := if dst then d.daddr else d.saddr
  match space with
  | 0 => !dst
  | 1 => decide (0 < v.res.hbm)
  | 2 => io && decide (0 < v.res.ddr)
  | 3 => io && (if a.testBit 63 then dst && fieldN a 62 16 == 0 && decide (d.rows * d.len ≤ 16352)
      else v.res.wins.testBit (fieldN a 62 59))
  | 4 => !io && decide (tab < v.key.t) && landOk v d dst
  | 5 => !io && decide (tab < v.key.t) && decide (core + cnt ≤ v.key.c) && landOk v d dst
  | 6 => !io && decide (tab < v.key.t) && decide (core + cnt ≤ v.key.c) &&
      (v.queue tab (if dst then d.dq else d.sq)).any (fun q => q.src == 3 && ch.all (q.dch == ·) && q.out != dst &&
        d.rows * d.len == 64 <<< q.esz)
  | _ => false

/-- Cores of one side of a descriptor, 1 where the side names none. -/
def coresOf (space cnt : Nat) : Nat := if space = 5 ∨ space = 6 then cnt else 1

/-- A descriptor of a channel (R230, R269). -/
def descOk (v : VarDecl) (io : Bool) (ch : Option Nat) (w : BitVec 512) : Bool :=
  let d := descOf w.toNat
  d.start != 3 && (d.start != 1 || decide (d.ev < 32)) &&
    (d.start != 2 || v.dma.any (fun x => x.ch == d.ev)) && (!d.sig || decide (d.ctab < v.key.t)) &&
    (d.last || decide (d.next < v.descs.length)) &&
    !(decide (1 < coresOf d.ssp d.scnt) && decide (1 < coresOf d.dsp d.dcnt)) && sideOk v io ch d false && sideOk v io ch d true

/-- The descriptors of a chain from index `n`, by index, each once. -/
def chain (ds : List (BitVec 512)) : Nat → Nat → List Nat → List Nat
  | 0, _, seen => seen
  | fuel + 1, n, seen =>
    if seen.contains n then seen else
    match ds[n]? with
    | none => seen
    | some w => if (descOf w.toNat).last then seen ++ [n] else chain ds fuel (descOf w.toNat).next (seen ++ [n])

/-- The chain of a channel. -/
def VarDecl.chainOf (v : VarDecl) (ch : DmaDecl) : List Nat := chain v.descs v.descs.length ch.head []

/-- The channels that a channel's descriptors follow (R232). -/
def VarDecl.follows (v : VarDecl) (ch : DmaDecl) : List Nat :=
  ((v.chainOf ch).filterMap (fun n => (v.descs[n]?).bind (fun w =>
    let d := descOf w.toNat
    if d.start = 2 then some d.ev else none))).eraseDups

/-- DMA channels, their descriptors and the landing areas (R230 to R232). A descriptor that no chain reaches must fit a channel of one
engine kind. -/
def dmaOk (v : VarDecl) : Bool :=
  let reached := v.dma.flatMap v.chainOf
  v.dma.all (fun ch => decide (ch.head < v.descs.length) &&
    (v.chainOf ch).all (fun n => (v.descs[n]?).any (descOk v ch.io (some ch.ch)))) &&
  v.descs.zipIdx.all (fun w => reached.contains w.2 || descOk v false none w.1 || descOk v true none w.1) &&
  noPair (fun a b => (v.follows a).any ((v.follows b).contains ·)) v.dma &&
  v.queues.all (fun q => q.src != 3 || v.dma.any (fun d => d.ch == q.dch && !d.io)) &&
  v.lands.all (fun l => if l.shelf then decide (4096 * (((v.res.tables.drop l.jt).head?).map (·.shf) |>.getD 0) ≤ l.off)
    else decide (v.window 5 l.jt ≤ l.off) && decide (l.off + l.len ≤ 0x80000) && decide (l.core + l.cnt ≤ v.key.c))

/-- A descriptor forms host-bound messages. -/
def VarDecl.sendsMsg (v : VarDecl) : Bool :=
  v.descs.any (fun w => let d := descOf w.toNat; d.dsp == 3 && d.daddr.testBit 63)

/-- Resources: the scratchpad bounds, the host regions, and a share of 0 (R244, R268). -/
def resOk (v : VarDecl) : Bool :=
  v.res.tables.all (fun t => decide (t.spdb ≤ 128)) &&
  v.res.regions.all (fun r => decide (r.2.1 + r.2.2 ≤ 4096 * (if r.1 then v.res.ddr else v.res.hbm))) &&
  (v.res.share != 0 || (v.res.regions.isEmpty && v.res.wins == 0 && !v.sendsMsg && !v.chans.any (fun c => c.sjt == 0xFE)))

/-- The pieces of a tensor cover every element exactly once (R258). -/
def tensorOk (v : VarDecl) (t : TensorDecl) : Bool :=
  t.pieces.all (fun p => decide (p.e0 + p.n ≤ t.n) && (p.space != 5 || decide (p.core < v.key.c))) &&
    (t.pieces.map (·.n)).sum == t.n && noPair (fun a b => meets a.e0 a.n b.e0 b.n) t.pieces

/-- The patched programs of the variant, if no rule refuses it with ILLEGAL_WORD. -/
def legalCode (s : State) (img : Image) (v : VarDecl) (b : SubmitBody) (uses : List (Nat × Nat)) : Option (List (List Nat)) :=
  match (v.code.zipIdx).mapM (fun x => patchTable v b uses x.2 x.1) with
  | none => none
  | some progs =>
    given (progs.zipIdx.all (fun x => codeOk img v x.2 x.1) && dataOk v && chansOk s v && dmaOk v && resOk v &&
      v.tensors.all (tensorOk v)) progs

end Sys2Proof.Machine
end

