-- ==== Sys2Proof/Machine/Admit.lean ====
section
/-!
DEFINITION. The checks of admission in their order (R246): the variant and the placement, the slot plan and the pool, rings and
queues, memory ranges, DMA channels and descriptors, bandwidth, shares and power (R23, R188, R189, R192, R195, R199, R201,
R215, R217, R228, R229, R240 to R247, R281, R296), and the bound (R31). A check that fails answers its reason; a plan holds
what a job that passes them all is given.
-/
namespace Sys2Proof.Machine

/-- A result, or the reason of the refusal. -/
abbrev Verdict (α : Type) := Except (BitVec 16) α

/-- Refused with `code` unless the condition holds. -/
def require (ok : Bool) (code : BitVec 16) : Verdict Unit := if ok then .ok () else .error code

/-- The value, or refused with `code`. -/
def orRefuse {α : Type} (code : BitVec 16) (x : Option α) : Verdict α :=
  match x with
  | some a => .ok a
  | none => .error code

/-! ### Refusal reasons (R246, R273) -/

def rsHold : BitVec 16 := 0x0001
def rsJobLimit : BitVec 16 := 0x0002
def rsImage : BitVec 16 := 0x0010
def rsDigest : BitVec 16 := 0x0011
def rsArch : BitVec 16 := 0x0012
def rsNoVariant : BitVec 16 := 0x0013
def rsWord : BitVec 16 := 0x0014
def rsProgram : BitVec 16 := 0x0015
def rsAbsent : BitVec 16 := 0x0016
def rsScope : BitVec 16 := 0x0017
def rsTables : BitVec 16 := 0x0020
def rsRound : BitVec 16 := 0x0021
def rsRoute : BitVec 16 := 0x0022
def rsSlot : BitVec 16 := 0x0023
def rsPool : BitVec 16 := 0x0024
def rsChannel : BitVec 16 := 0x0025
def rsRing : BitVec 16 := 0x0026
def rsRingSmall : BitVec 16 := 0x0027
def rsQueue : BitVec 16 := 0x0028
def rsShelf : BitVec 16 := 0x0029
def rsHbm : BitVec 16 := 0x002A
def rsDdr : BitVec 16 := 0x002B
def rsDma : BitVec 16 := 0x002C
def rsStore : BitVec 16 := 0x002D
def rsBandwidth : BitVec 16 := 0x002E
def rsShare : BitVec 16 := 0x002F
def rsPower : BitVec 16 := 0x0030
def rsFlicker : BitVec 16 := 0x0031
def rsContext : BitVec 16 := 0x0040
def rsLayout : BitVec 16 := 0x0041
def rsResidue : BitVec 16 := 0x0042
def rsRepart : BitVec 16 := 0x0043
def rsWindow : BitVec 16 := 0x0058
def rsFetch : BitVec 16 := 0x005B

/-! ### Jobs that hold their reservations -/

/-- The admitted jobs: those whose completion record has not been written. -/
def State.live (s : State) : List (Nat × Job) :=
  s.jobs.filterMap (fun kv => kv.2.bind (fun b => if b.state = .ended then none else some (kv.1, b)))

/-- The lowest job number that no admitted job holds (R159). -/
def State.freeJob (s : State) : Option Nat := (List.range 64).find? (fun j => !(s.live.any (fun x => x.1 == j)))

/-- Logical table `n` is in service and runs no job. -/
def State.tableFree (s : State) (n : Nat) : Bool := field (s.tblStat n) 1 0 == 0 && (s.table (s.physTable n)).job.isNone

/-- The free logical tables in rising order. -/
def State.freeTables (s : State) : List Nat := (List.range 64).filter s.tableFree

/-! ### Variant and placement (R240 to R242, R247) -/

/-- The eligible variants. -/
def State.eligible (s : State) (img : Image) : List (Nat × VarDecl) :=
  (img.variants.zipIdx.filter (fun v => v.1.key.c == s.fuses.cores && v.1.key.lanes == 64)).map (fun v => (v.2, v.1))

/-- The variant that fits with the largest T. -/
def largest (vs : List (Nat × VarDecl)) : Option (Nat × VarDecl) :=
  vs.foldl (fun best v => match best with
    | none => some v
    | some b => if b.2.key.t < v.2.key.t then some v else best) none

/-- The chosen variant (R241). -/
def State.chooseVariant (s : State) (img : Image) (treq : Nat) : Verdict (Nat × VarDecl) := do
  let vs := s.eligible img
  let n := s.freeTables.length
  require (!vs.isEmpty) rsNoVariant
  if treq = 0 then orRefuse rsTables (largest (vs.filter (fun v => decide (v.2.key.t ≤ n))))
  else
    let v ← orRefuse rsNoVariant (vs.find? (fun v => v.2.key.t == treq))
    require (decide (treq ≤ n)) rsTables
    pure v

/-- Host windows and parameters cover what the variant declares (R272). -/
def windowsOk (v : VarDecl) (b : SubmitBody) : Bool :=
  (List.range 16).all (fun n => !v.res.wins.testBit n || ((b.hwin.drop n).head?).any (fun w => decide (0 < w.2.1))) &&
    decide (v.res.nparam ≤ b.param.length)

/-- The device logical table of every job table (R242). -/
def State.choosePlace (s : State) (b : SubmitBody) (t : Nat) : Verdict (List Nat) :=
  if b.flags.getLsbD 1 then
    let ps := b.place.take t
    let out (n : Nat) : Bool := field (s.tblStat n) 1 0 == 2
    do
      require (decide (ps.length = t) && ps.all (fun n => decide (n < 64)) && ps.eraseDups.length == t &&
        ps.all (fun n => out n || s.tableFree n)) rsTables
      require (!ps.any out) rsAbsent
      pure ps
  else .ok (s.freeTables.take t)

/-! ### Memory ranges (R212, R245, R247) -/

/-- Range `a`, `n` shares a byte with one of `used`. -/
def taken (used : List (Nat × Nat)) (a n : Nat) : Bool := used.any (fun u => decide (a < u.1 + u.2) && decide (u.1 < a + n))

/-- The lowest address from which `n` bytes below `limit` are free of `used` and of 4 KiB granules that `bad` marks, a pattern
that repeats every `period` granules. -/
def firstFit (used : List (Nat × Nat)) (limit period : Nat) (bad : Nat → Bool) (n : Nat) : Option Nat :=
  let ok (a : Nat) : Bool := decide (a + n ≤ limit) && !(decide (0 < n) && taken used a n) &&
    (List.range (min (n / 4096) period)).all (fun i => !bad (a + 4096 * i))
  (((0 :: used.map (fun u => u.1 + u.2)).flatMap (fun a => (List.range (max period 1)).map (fun i => a + 4096 * i))).filter ok).min?

/-- The far-tier ranges that admitted jobs hold. -/
def State.ddrUsed (s : State) : List (Nat × Nat) := s.live.map (fun x => (x.2.ddrBase, x.2.ddrSize))

/-- A place of the far tier for `n` bytes besides `used`, clear of holes (R212, R245). -/
def State.ddrFit (s : State) (used : List (Nat × Nat)) (n : Nat) : Option Nat :=
  firstFit used s.mem.ddrSize s.mem.population.length s.mem.ddrGone n

/-- The context areas of aborted jobs that were paused, kept until the host detaches, the job is admitted again or its number is taken
(R259, R260). -/
def State.keptContexts (s : State) : List (Nat × Nat) :=
  s.jobs.filterMap (fun kv => (kv.2.filter (fun b => decide (b.state = .ended) && b.context.isSome)).map (fun b => (b.ctxBase, b.ctxSize)))

/-- The near-tier ranges that jobs hold. -/
def State.hbmUsed (s : State) : List (Nat × Nat) :=
  s.live.flatMap (fun x => [(x.2.hbmBase, x.2.hbmSize), (x.2.ctxBase, x.2.ctxSize)]) ++ s.keptContexts

/-- A stack has a channel that is lost without a spare: admission refuses every job with HBM_SPACE (R372). -/
def State.hbmLost (s : State) : Bool := (List.range 16).any (fun n => (s.csrAt (stkStat n)).getLsbD 3)

/-- Bytes of the context area of a job: what the image declares. A Taper job, which is never paused, has the copy of its code there, so
its area has room for that (R136, assumption 53). -/
def contextSize (img : Image) (v : VarDecl) : Nat :=
  if img.taper then Nat.max (4096 * v.res.ctx) (0x40000 * v.key.t) else 4096 * v.res.ctx

/-- HBM window and context area (R245). -/
def State.hbmFit (s : State) (win ctx : Nat) : Option (Nat × Nat) :=
  if s.hbmLost then none else
  match firstFit s.hbmUsed hbmSize 1 (fun _ => false) win with
  | none => none
  | some h => (firstFit ((h, win) :: s.hbmUsed) hbmSize 1 (fun _ => false) ctx).map (fun c => (h, c))

/-- A spill region: table, receive channel, offset in the share, size. -/
structure Spill where
  table : Nat
  rchn  : Nat
  off   : Nat
  size  : Nat
  deriving DecidableEq, Repr

/-- The spill regions of a job, one behind another after each table's shelf window, in the order of the channels (R202, R245). -/
def spillPlan (v : VarDecl) (tabs : List Nat) : List Spill :=
  let shelf (j : Nat) : Nat := 4096 * (((v.res.tables.drop j).head?).map (·.shf)).getD 0
  v.chans.foldl (fun acc c =>
    if c.rjt = 0xFF then acc else
    let t := (tabs.drop c.rjt).headD 0
    let used := ((acc.filter (fun x => x.table == t)).map (·.size)).sum
    acc ++ [⟨t, c.rchn, shelf c.rjt + used, 4096 * c.ssize⟩]) []

/-- The shelf window, the spill regions and the landing areas of every table fit its share (R231, R244). -/
def shelfOk (v : VarDecl) (tabs : List Nat) : Bool :=
  let sp := spillPlan v tabs
  v.res.tables.zipIdx.all (fun x =>
    let t := (tabs.drop x.2).headD 0
    let mine := sp.filter (fun y => y.table == t)
    let lands := v.lands.filter (fun l => l.shelf && l.jt == x.2)
    decide (4096 * x.1.shf + (mine.map (·.size)).sum ≤ 0x0F000000) &&
      lands.all (fun l => decide (l.off + l.len ≤ 0x0F000000) && mine.all (fun y => !meets l.off l.len y.off y.size)))

/-! ### The slot plan (R188, R189, R192, R296) -/

/-- The channel that a flow belongs to. -/
def VarDecl.chanOf (v : VarDecl) (f : FlowDecl) : Option ChanDecl := v.chans.find? (fun c => f.names c)

/-- The device port of a cross-device channel, by the routing table. -/
def State.chanPort (s : State) (c : ChanDecl) : Nat := s.routePort c.raddr

/-- The IO die, by row, at which a flow of a channel enters or leaves the mesh: the north one for the host. -/
def State.chanEdge (s : State) (c : Option ChanDecl) : Nat :=
  match c with
  | some c => if c.xdev then portEdge (s.chanPort c) else 0
  | none => 0

/-- A flow placed: the first router, its input there, where it ends, and the slot-table word at an input. -/
structure Placed where
  router : Nat
  inp    : Nat
  dest   : FlowEnd
  schn   : Nat
  rev    : Bool
  deriving DecidableEq, Repr

/-- A flow placed on the tables `tabs` (R189, R290, R292). -/
def State.placeFlow (s : State) (v : VarDecl) (tabs : List Nat) (f : FlowDecl) : Placed :=
  let c := v.chanOf f
  let at_ (j : Nat) : Nat := (tabs.drop j).headD 0
  let edge := s.chanEdge c
  let dest : FlowEnd := if f.dst < 0xFE then .table (at_ f.dst) else .io edge
  let schn := if f.kind = 1 then (c.map (·.rchn)).getD f.chn else if f.kind = 2 then f.chn % 64 else f.chn
  if f.io then ⟨routerOf edge (routerCol (at_ f.dst)), portI, dest, schn, f.kind == 1⟩
  else ⟨at_ f.src, portL, dest, schn, f.kind == 1⟩

/-- The route of a placed flow. -/
def Placed.route (p : Placed) : List (Nat × Nat × Nat × Nat) := routeOf p.router p.inp p.dest

/-- The claims of a placed flow: every departure slot at every output of the route, with the entry's word. -/
def State.flowClaims (s : State) (p : Placed) (dep : List Nat) : List (Nat × BitVec 16) :=
  dep.flatMap (fun d => p.route.map (fun x => (slotKey x.1 x.2.1 ((d + x.2.2.2) % s.slots), slotWord x.2.2.1 false p.schn p.rev)))

/-- Network cycles from a flit's arrival at a port in slot `a` to the begin of the next of the cell positions `ps`; position
`f` begins 3 f / 4 network cycles into the round (R293). -/
def egressWait (slots : Nat) (ps : List Nat) (a : Nat) : Nat :=
  ((ps.map (fun f => (3 * f / 4 + slots - a % slots) % slots)).min?).getD 0

/-- The arrival offset of a flow: the sum of its hop latencies, and for a leg that leaves the device the link to the IO die,
the router crossing and the longest wait for a cell position (R189, R290, R296). -/
def State.flowOffset (s : State) (p : Placed) (f : FlowDecl) : Nat :=
  let off := ((p.route.getLast?).map (·.2.2.2)).getD 0
  if f.dst ≠ 0xFF then off else
  off + 24 + (f.dep.map (fun d => egressWait s.slots f.egr (d + off + 24))).foldl Nat.max 0

/-- Keys of slot-table entries that are each claimed once and are not in use. -/
def distinctFree (used : Nat → Bool) (ks : List Nat) : Bool := noPair (· == ·) ks && ks.all (fun k => !used k)

/-- KINT in cell positions (R293). -/
def State.kint (s : State) : Nat := 8 <<< s.recs.fabric.kint.toNat

/-- The key of a cell position of a device port. -/
def cellKey (q f : Nat) : Nat := 8192 * q + f

/-- The entry of a cell position: once the device is ready, every KINT-th position of a port is kitty (R293, R310). -/
def State.cellEntry (s : State) (q f : Nat) : BitVec 16 :=
  if s.ready ∧ f % s.kint = s.kint - 1 ∧ f < 128 * s.recs.rlen64 then 1
  else SMap.get 0 s.fslots (cellKey q f)

/-- The cell positions that a leg claims, with their entries; nothing where its port does not exist. -/
def State.egressClaims (s : State) (v : VarDecl) (tabs : List Nat) (f : FlowDecl) : Option (List (Nat × BitVec 16)) :=
  if f.dst ≠ 0xFF then some [] else
  match v.chanOf f with
  | none => some []
  | some c =>
    let q := s.chanPort c
    let p := s.placeFlow v tabs f
    if 16 ≤ q then none else
    some (f.egr.map (fun e => (cellKey q e, BitVec.ofNat 16 (packBits [(2, 3), (6, p.router), (6, p.schn), (1, b2n p.rev)]))))

/-- A cell position exists and is free. -/
def State.cellFree (s : State) (k : Nat) : Bool := decide (k % 8192 < 128 * s.recs.rlen64) && s.cellEntry (k / 8192) (k % 8192) == 0

/-! ### The pool (R195) -/

/-- The pool claims of the dynamic channels at departure position `d`. -/
def State.poolClaims (s : State) (v : VarDecl) (tabs : List Nat) (d : Nat) : List (Nat × BitVec 16) :=
  let at_ (j : Nat) : Nat := (tabs.drop j).headD 0
  ((v.chans.filter (·.dyn)).flatMap (fun c =>
    (routeOf (at_ c.sjt) portL (.table (at_ c.rjt)) ++ routeOf (at_ c.rjt) portL (.table (at_ c.sjt))).map (fun x =>
      (slotKey x.1 x.2.1 ((d + x.2.2.2) % s.slots), slotWord x.2.2.1 true 0 false)))).eraseDups

/-- The lowest departure positions from `d` on that can be claimed, up to `n` of them: no two channels may enter one entry from
different inputs, and an entry in `used` is not free. -/
def State.pickPool (s : State) (v : VarDecl) (tabs : List Nat) : Nat → Nat → Nat → List Nat → List (Nat × List (Nat × BitVec 16))
  | 0, _, _, _ => []
  | fuel + 1, n, d, used =>
    if n = 0 then [] else
    let cs := s.poolClaims v tabs d
    if distinctFree (fun k => used.contains k || SMap.get 0 s.noc.slots k != 0) (cs.map (·.1)) then
      (d, cs) :: s.pickPool v tabs fuel (n - 1) (d + 1) (used ++ cs.map (·.1))
    else s.pickPool v tabs fuel n (d + 1) used

/-! ### Channels, rings and queues (R192, R199, R201, R217) -/

/-- No two channels name one end. -/
def channelLimit (v : VarDecl) : Bool :=
  noPair (fun (a b : ChanDecl) => (a.sjt == b.sjt && decide (a.sjt < 0xFE) && a.schn == b.schn) ||
    (a.rjt == b.rjt && decide (a.rjt < 0xFE) && a.rchn == b.rchn)) v.chans

/-- Every ring lies above SPD_BOUND, in the scratchpad, and apart from other rings and landing areas. -/
def ringsOk (v : VarDecl) : Bool :=
  let rs := v.chans.filter (fun c => c.rjt != 0xFF)
  rs.all (fun c => decide (v.window 5 c.rjt ≤ 64 * c.rbase) && decide (64 * (c.rbase + c.rsize) ≤ 0x80000) &&
    v.lands.all (fun l => l.shelf || l.jt != c.rjt || !meets (64 * c.rbase) (64 * c.rsize) l.off l.len)) &&
  noPair (fun (a b : ChanDecl) => a.rjt == b.rjt && meets a.rbase a.rsize b.rbase b.rsize) rs

/-- No record is longer than half its ring. -/
def ringSizesOk (v : VarDecl) : Bool := v.chans.all (fun c => c.rjt == 0xFF || decide (2 * (1 + (c.maxf + 1)) ≤ c.rsize))

/-- Entry size of a queue, and its area. -/
def QueueDecl.esize (q : QueueDecl) : Nat := 64 <<< q.esz
def QueueDecl.area (q : QueueDecl) : Nat × Nat := (64 * q.qbase, q.nent * q.esize)

/-- Queue areas are aligned, lie in the scratchpad window and do not overlap. -/
def queuesOk (v : VarDecl) : Bool :=
  v.queues.all (fun q => q.area.1 % q.esize == 0 && decide (q.area.1 + q.area.2 ≤ v.window 5 q.jt)) &&
    noPair (fun (a b : QueueDecl) => a.jt == b.jt && meets a.area.1 a.area.2 b.area.1 b.area.2) v.queues

/-! ### DMA channels and descriptors (R228, R229) -/

/-- The DMA block of a channel whose home is table `t`: the compute die, or the IO die nearest its row. -/
def homeBlock (io : Bool) (t : Nat) : Nat := if io then (if routerRow t ≤ 1 then 8 else 9) else t / 8

/-- Channels of a block and descriptors of its store. -/
def blockChannels (blk : Nat) : Nat := if blk < 8 then 128 else 16
def blockStore (blk : Nat) : Nat := if blk < 8 then 1024 else 256

/-- Every DMA channel given the lowest free physical channel of its block, as (block, channel). -/
def State.dmaPlan (s : State) (tabs : List Nat) (ds : List DmaDecl) : Option (List (Nat × Nat)) :=
  ds.foldlM (fun acc d =>
    let blk := homeBlock d.io ((tabs.drop d.home).headD 0)
    ((List.range (blockChannels blk)).find? (fun c => (s.dmaCh (dmaKey blk c)).job.isNone && !acc.contains (blk, c))).map
      (fun c => acc ++ [(blk, c)])) []

/-- Store indices for the descriptors of every chain, in the store of the chain's block: the lowest free ones (R415). -/
def State.storePlan (s : State) (v : VarDecl) (chs : List (Nat × Nat)) : Option (List (Nat × Nat × Nat)) :=
  ((v.dma.zip chs).flatMap (fun x => (v.chainOf x.1).map (fun n => (x.2.1, n)))).eraseDups.foldlM (fun acc x =>
    ((List.range (blockStore x.1)).find? (fun i => SMap.get 0 s.descs (1024 * x.1 + i) == 0 &&
      !(acc.any (fun y => y.1 == x.1 && y.2.2 == i)))).map (fun i => acc ++ [(x.1, x.2, i)])) []

/-- The store index of image descriptor `n` in a block. -/
def storeIndex (m : List (Nat × Nat × Nat)) (blk n : Nat) : Nat := ((m.find? (fun x => x.1 == blk && x.2.1 == n)).map (·.2.2)).getD 0

/-! ### Bandwidth, shares and power (R213, R215, R244, R281) -/

/-- A DMA channel's descriptors touch tier space `sp`. -/
def VarDecl.touches (v : VarDecl) (ch : DmaDecl) (sp : Nat) : Bool :=
  (v.chainOf ch).any (fun n => (v.descs[n]?).any (fun w => let d := descOf w.toNat; d.ssp == sp || d.dsp == sp))

/-- The bandwidth of a variant on a tier at D0, in units of 3,125,000 B/s: 1/16 B per core cycle is 22 of them and 1/16 B per
network cycle 33. -/
def VarDecl.band (v : VarDecl) (sp : Nat) : Nat :=
  22 * (v.res.tables.map (fun t => if sp = 1 then t.hbmRate else t.ddrRate)).sum +
    33 * ((v.dma.filter (v.touches · sp)).map (·.rate)).sum

/-- Sustained bandwidth of the tiers in the same units. -/
def State.hbmSustained (s : State) : Nat := if s.pinnedMode then 12064000 else 12576000
def State.ddrSustained (s : State) : Nat := s.mem.population.length * if s.pinnedMode then 19600 else 21000

/-- The host port's rate in Gb/s. -/
def State.portRate (s : State) : Nat := if s.host.mode then 800 else 1600

/-- The step of the floor core clock (R31). -/
def State.floorStep (s : State) : BitVec 3 := if s.recs.scope != 0 then s.recs.pin else s.recs.floor

/-- Peak power of a variant at the floor clock's step. -/
def State.powerOf (s : State) (v : VarDecl) : Nat := (v.res.tables.map (fun t => (t.power.drop s.floorStep.toNat).headD 0)).sum

/-! ### The bound (R31, R138, R245) -/

/-- load_ticks: CODE and its copy in HBM for a Taper job, handler tables, the curve tables of every core where the image holds some, and
every byte of the windows, landing areas and spill regions. -/
def loadTicks (img : Image) (v : VarDecl) (tabs : List Nat) : Nat :=
  let code := (v.code.map List.length).sum * (if img.taper then 2 else 1) + 256 * (v.htab.filter (fun h => !h.isEmpty)).length +
    (if img.curve.isSome then 32832 * (v.key.t * v.key.c) else 0)
  let tables := (v.res.tables.map (fun t => 4096 * (t.shf + v.key.c * t.spdb))).sum
  let lands := (v.lands.map (fun l => l.len * if l.shelf then 1 else l.cnt)).sum
  let spills := ((spillPlan v tabs).map (·.size)).sum
  ceilDiv (code + tables + lands + spills + 4096 * v.res.hbm + 4 * (4096 * v.res.ddr)) 20000

/-- cmax of a variant that starts at its beginning. -/
def startCount (img : Image) (v : VarDecl) : Nat :=
  if img.taper then (v.taper.map (fun x => x.1 + x.2 * 4608)).foldl Nat.max 0 else v.bound.cmax.foldl Nat.max 0

/-- cmax of a variant that is resumed at a trick. -/
def resumeCount (img : Image) (v : VarDecl) (trick : Nat) : Nat :=
  match v.bound.tricks.find? (fun t => t.1 == trick) with
  | some t => t.2.foldl Nat.max 0
  | none => startCount img v

/-- bound_ticks. -/
def State.boundTicks (s : State) (load cmax fabric scope : Nat) : Nat :=
  let comp := ceilDiv (cmax * 60000) (stepMultiple s.recs.debug s.floorStep)
  load + (if scope = 0 then 201 else 395) + comp + ceilDiv (comp * s.recs.allow) 1000 + fabric

/-! ### A context record's claims on the admission -/

/-- An authentic context record (R254): header fields, the seeds, and the bytes of its parts from the job part on. -/
structure Resumed where
  repart : Bool
  flick  : Bool
  trick  : Nat
  occ    : Nat
  key    : VarKey
  image  : BitVec 512
  seeds  : List (BitVec 64)
  body   : List Byte
  deriving DecidableEq, Repr

/-- Bytes of a table part of a REPART = 1 record: counters, initial values and timeouts, 4 B each. -/
def ctrPartSize : Nat := 4 * (256 + 256 + 16)

/-- Some table counter of a REPART = 1 record differs from its initial value (R179). -/
def Resumed.residue (r : Resumed) : Bool :=
  (List.range r.key.t).any (fun j =>
    let o := 512 + ctrPartSize * j
    (r.body.drop o).take 1024 != (r.body.drop (o + 1024)).take 1024)

/-- The tensors of a REPART = 1 record, each as the number that its packed elements spell (R258). -/
def tensorNumbers : List TensorDecl → List Byte → List (Nat × Nat)
  | [], _ => []
  | t :: rest, bs =>
    let n := ceilDiv (t.ebits * t.n) 8
    (t.num, leNat (bs.take n)) :: tensorNumbers rest (bs.drop n)

/-- The tensor part of a REPART = 1 record. -/
def Resumed.tensors (r : Resumed) (v : VarDecl) : List (Nat × Nat) :=
  if r.repart then tensorNumbers v.tensors (r.body.drop (512 + ctrPartSize * r.key.t)) else []

/-- Carried use counter `n`: the first element of tensor `n`. DESIGN CHOICE (assumption 31). -/
def Resumed.uses (r : Resumed) (v : VarDecl) : List (Nat × Nat) :=
  (r.tensors v).map (fun x => (x.1, x.2 % 2 ^ (((v.tensors.find? (fun t => t.num == x.1)).map (·.ebits)).getD 0)))

/-- The checks of a resume against the chosen variant (R254 to R256). A record with counter residue can still be resumed onto the table
and lane counts that it came from (R179). -/
def resumeOk (v : VarDecl) (digest : BitVec 512) (r : Resumed) : Verdict Unit := do
  require (decide (r.image = digest)) rsContext
  let marked := v.tricks.any (fun t => t.id == r.trick && t.repart)
  if r.repart then require (!r.residue || decide (r.key = v.key)) rsResidue
  else if r.key = v.key then pure ()
  else if marked then throw rsRepart else throw rsLayout

/-! ### The plan -/

/-- What a job that passes every check is given. -/
structure Plan where
  img     : Image
  vix     : Nat
  v       : VarDecl
  place   : List Nat
  tabs    : List Nat
  progs   : List (List Nat)
  job     : Nat
  scope   : Nat
  slots   : List (Nat × BitVec 16)
  cells   : List (Nat × BitVec 16)
  ioFlows : List (Nat × Nat × List Nat)
  pool    : List Nat
  hbm     : Nat
  ctx     : Nat
  ddr     : Nat
  dma     : List (Nat × Nat)
  store   : List (Nat × Nat × Nat)
  load    : Nat
  bound   : Nat
  resume  : Option Resumed
  deriving DecidableEq, Repr

/-- The flows that enter the mesh at an IO die, by receiving table and channel; credit flows count from 64. -/
def ioFlowList (v : VarDecl) (tabs : List Nat) : List (Nat × Nat × List Nat) :=
  (v.flows.filter (·.io)).map (fun f => ((tabs.drop f.dst).headD 0,
    (if f.kind = 1 then 64 + ((v.chanOf f).map (·.schn)).getD f.chn else f.chn), f.dep))

/-- The slot-table entries at L inputs that serve the decoupled transfers between job tables: the first claim of every departure, with
the DMA channel (R188). -/
def State.dmaSlotList (s : State) (v : VarDecl) (tabs : List Nat) : List (Nat × Nat) :=
  (v.flows.filter (fun f => f.kind == 2 && !f.io)).flatMap (fun f =>
    let p := s.placeFlow v tabs f
    f.dep.flatMap (fun d => (p.route.head?).toList.map (fun x => (slotKey x.1 x.2.1 (d % s.slots), f.chn))))

/-- The network checks from ROUND_MISMATCH to POOL_UNAVAILABLE: the slot-table claims, the cell positions, and the pool with its
claims. -/
def State.netPlan (s : State) (v : VarDecl) (tabs : List Nat) :
    Verdict (List (Nat × BitVec 16) × List (Nat × BitVec 16) × List (Nat × List (Nat × BitVec 16))) := do
  require (v.flows.all (fun f => f.round == s.recs.rlen64)) rsRound
  require (v.flows.all (fun f => decide (s.flowOffset (s.placeFlow v tabs f) f ≤ f.lb))) rsRoute
  let claims := v.flows.flatMap (fun f => s.flowClaims (s.placeFlow v tabs f) f.dep)
  let cells ← orRefuse rsSlot ((v.flows.mapM (s.egressClaims v tabs)).map List.flatten)
  require (distinctFree (fun k => SMap.get 0 s.noc.slots k != 0) (claims.map (·.1)) &&
    distinctFree (fun k => !s.cellFree k) (cells.map (·.1))) rsSlot
  let pool := s.pickPool v tabs s.slots v.pool 0 (claims.map (·.1))
  require (pool.length == v.pool) rsPool
  pure (claims, cells, pool)

/-- The checks from CHANNEL_LIMIT to FLICKER_UNHEALTHY: HBM window, context area, DDR window, DMA channels and store indices. -/
def State.resourcePlan (s : State) (img : Image) (v : VarDecl) (tabs : List Nat) :
    Verdict ((Nat × Nat) × Nat × List (Nat × Nat) × List (Nat × Nat × Nat)) := do
  require (channelLimit v) rsChannel
  require (ringsOk v) rsRing
  require (ringSizesOk v) rsRingSmall
  require (queuesOk v) rsQueue
  require (shelfOk v tabs) rsShelf
  let hbm ← orRefuse rsHbm (s.hbmFit (4096 * v.res.hbm) (contextSize img v))
  let ddr ← orRefuse rsDdr (s.ddrFit s.ddrUsed (4096 * v.res.ddr))
  let dma ← orRefuse rsDma (s.dmaPlan tabs v.dma)
  let store ← orRefuse rsStore (s.storePlan v dma)
  require (decide ((s.live.map (fun x => x.2.bandHbm)).sum + v.band 1 ≤ s.hbmSustained) &&
    decide ((s.live.map (fun x => x.2.bandDdr)).sum + v.band 2 ≤ s.ddrSustained)) rsBandwidth
  require (decide ((s.live.map (fun x => x.2.share)).sum + v.res.share + 10 ≤ s.portRate)) rsShare
  require (decide ((s.live.map (fun x => x.2.power)).sum + s.powerOf v ≤ s.recs.plim)) rsPower
  require (!(img.seeds.any (·.2) && s.mgt.flickerBad.1 && s.mgt.flickerBad.2)) rsFlicker
  pure (hbm, ddr, dma, store)

/-- Every check of R246 on a submission whose image is `bytes`, in order. `resume` is the context record that comes with it, if
it is authentic; `some none` is one that is not. -/
def State.plan (s : State) (b : SubmitBody) (bytes : Option (List Byte)) (resume : Option (Option Resumed)) : Verdict Plan := do
  let bs ← orRefuse rsFetch bytes
  require (bs.length == b.imgLen.toNat) rsFetch
  let img ← orRefuse rsImage (readImage bs)
  let digest := sha512 bs
  require (!b.flags.getLsbD 0 || leNat b.digest == digest.toNat) rsDigest
  require (img.arch == 1) rsArch
  let (vix, v) ← s.chooseVariant img b.tReq
  require (windowsOk v b) rsWindow
  let place ← s.choosePlace b v.key.t
  let tabs := place.map s.physTable
  require (s.fuses.flicker || !img.seeds.any (·.2)) rsAbsent
  require ((s.ddrFit [] (4096 * v.res.ddr)).isSome) rsAbsent
  let uses := ((resume.bind id).map (·.uses v)).getD []
  let progs ← orRefuse rsWord (legalCode s img v b uses)
  require (v.code.all (fun c => decide (c.length ≤ 262144))) rsProgram
  let asked := field b.flags 5 4
  require (img.taper || decide (asked ≤ s.recs.scope.toNat)) rsScope
  let scope := if img.taper then 0 else asked
  let (claims, cells, pool) ← s.netPlan v tabs
  let (hbm, ddr, dma, store) ← s.resourcePlan img v tabs
  match resume with
  | none => pure ()
  | some r => orRefuse rsContext r >>= resumeOk v digest
  let job ← orRefuse rsJobLimit s.freeJob
  let r := resume.bind id
  let cmax := match r with
    | some x => resumeCount img v x.trick
    | none => startCount img v
  let load := loadTicks img v tabs
  pure { img := img, vix := vix, v := v, place := place, tabs := tabs, progs := progs, job := job, scope := scope
         slots := claims ++ pool.flatMap (·.2), cells := cells, ioFlows := ioFlowList v tabs, pool := pool.map (·.1)
         hbm := hbm.1, ctx := hbm.2, ddr := ddr, dma := dma, store := store, load := load
         bound := s.boundTicks load cmax v.bound.fabric scope, resume := r }

end Sys2Proof.Machine
end

