-- ==== Sys2Proof/Machine/Install.lean ====
section
/-!
DEFINITION. The loader: what an admitted job is given once every check has passed (R103, R106, R120, R153, R160, R174, R192 to
R195, R204, R215 to R218, R228, R229, R245, R248, R258). Everything a task can read is written: with the image's bytes where
the image places some, and with zero elsewhere.
-/
namespace Sys2Proof.Machine

/-! ### Curve tables (R13, R120) -/

/-- A 32-bit word of a byte string. -/
def wordAt (bs : List Byte) (o : Nat) : Word := BitVec.ofNat 32 (rdLe bs o 4)

/-- The segments and the headers of a curve-table string. -/
def curveOf (bs : List Byte) : SMap Word × SMap Word :=
  (SMap.setAll 0 [] ((List.range 8192).map (fun i => (i, wordAt bs (4104 * (i / 1024) + 8 + 4 * (i % 1024))))),
   SMap.setAll 0 [] ((List.range 8).flatMap (fun t => [(2 * t, wordAt bs (4104 * t)),
     (2 * t + 1, BitVec.ofNat 32 (byteAt bs (4104 * t + 4)).toNat)])))

/-- The curve-table string of segments and headers. -/
def curveString (seg hdr : SMap Word) : List Byte :=
  (List.range 8).flatMap (fun t => wordLe (SMap.get 0 hdr (2 * t)) ++ natLe 4 (field (SMap.get 0 hdr (2 * t + 1)) 7 0) ++
    (List.range 1024).flatMap (fun i => wordLe (SMap.get 0 seg (1024 * t + i))))

/-- The curve tables in effect for a job. -/
def State.curveInEffect (s : State) (img : Image) : SMap Word × SMap Word :=
  match img.curve with
  | some bs => curveOf bs
  | none => (s.recs.curve, s.recs.curveHdr)

/-! ### Cores and tables -/

/-- Granules as a program store. -/
def progOf (gs : List Nat) : SMap (BitVec 16) :=
  ((gs.zipIdx.filter (fun x => x.1 % 65536 != 0)).map (fun x => (x.2, BitVec.ofNat 16 x.1)))

/-- Numbers as counters. -/
def ctrsOf (vs : List Nat) : SMap (BitVec 24) :=
  ((vs.zipIdx.filter (fun x => x.1 % 2 ^ 24 != 0)).map (fun x => (x.2, BitVec.ofNat 24 x.1)))

/-- Numbers as words, from key `k` on. -/
def wordsOf (k : Nat) (vs : List Nat) : SMap Word :=
  ((vs.zipIdx.filter (fun x => x.1 % 2 ^ 32 != 0)).map (fun x => (k + x.2, BitVec.ofNat 32 x.1)))

/-- CORE_QCFGq_A of a queue. -/
def QueueDecl.cfgA (q : QueueDecl) : Word :=
  BitVec.ofNat 32 (packBits [(2, q.src), (1, b2n q.out), (4, q.esz), (6, q.nent - 1), (7, q.dch), (8, q.sctr), (1, b2n q.sigen)])

/-- Core `k` at task start: every register as R112 and the Reset columns give, its curve tables, and the queues of its table. -/
def State.startCore (s : State) (v : VarDecl) (j : Nat) (curve : SMap Word × SMap Word) (k : Nat) : State :=
  let s := { s with
    cores := SMap.set Core.reset s.cores k { Core.reset with curve := curve.1, curveHdr := curve.2 }
    csr := SMap.clearRange s.csr (coreBase k) (coreBase k + 0x40000) }
  (v.queues.filter (fun q => q.jt == j)).foldl (fun acc q =>
    ((acc.setCsr (qcfgA k q.q) q.cfgA).setCsr (qcfgB k q.q) (BitVec.ofNat 32 q.qbase)).setQst k q.q
      ⟨q.nent, 0, 0, 0, 0, 0⟩) s

/-- A window group of a table (R216). -/
def State.setWindow (s : State) (tier : Tier) (t base bound rate : Nat) : State :=
  ((s.setCsr64 (winReg tier t 0) (BitVec.ofNat 64 base)).setCsr64 (winReg tier t 8) (BitVec.ofNat 64 bound)).setCsr
    (winReg tier t 0x10) (BitVec.ofNat 32 rate)

/-- The table that serves job table `n` before its task starts. -/
def Plan.table (p : Plan) (n : Nat) : Table :=
  let ct := (p.v.ctrs.drop n).headD ⟨[], []⟩
  { Table.reset with
    taper := p.img.taper, job := some p.job, jobTable := n
    prog := progOf ((p.progs.drop n).headD [])
    ctr := ctrsOf ct.inits, ctrInit := ctrsOf ct.inits, tout := wordsOf 1 ct.touts
    htab := wordsOf 0 ((p.v.htab.drop n).headD []) }

/-- The fault registers of table `t` clear for a new task: each records the first fault of the task (R156, R163, R208, R222, R377;
assumption 46). -/
def State.clearTaskFaults (s : State) (t : Nat) : State :=
  ((((((s.setCsrs (spdReg t 8) [0]).setCsrs (shfReg t 8) [0, 0]).setCsrs (synReg t 0x840) [0, 0]).setCsrs (chnReg t 0x904) [0]).setCsrs
    (tblReg t 0x500) [0, 0]).setCsrs (dlrReg t 0xC0) [0, 0, 0, 0, 0])

/-- Job table `n` of the plan placed on its physical table: windows, registers, zeroed share and cores. -/
def State.startTable (s : State) (p : Plan) (curve : SMap Word × SMap Word) (n : Nat) : State :=
  let t := (p.tabs.drop n).headD 0
  let r := (p.v.res.tables.drop n).headD ⟨0, 0, 0, 0, []⟩
  let c := s.cyc t
  let s := s.clearTaskFaults t
  let s := s.modTable t (fun _ => { p.table n with creditCyc := c })
  let s := { s with mem := { s.mem with
    shelf := SMap.clearRange s.mem.shelf (shareBase t) (shareBase t + 0x0F000000)
    shelfErr := SMap.clearRange s.mem.shelfErr (shareBase t / 8) ((shareBase t + 0x0F000000) / 8) } }
  let s := ((s.setCsr (spdReg t 4) (BitVec.ofNat 32 (4096 * r.spdb))).setCsr (shfReg t 0) 0).setCsr (shfReg t 4)
    (BitVec.ofNat 32 (4096 * r.shf))
  let s := (s.setWindow .hbm t p.hbm (4096 * p.v.res.hbm) r.hbmRate).setWindow .ddr t p.ddr (4096 * p.v.res.ddr) r.ddrRate
  (s.tableCores t).foldl (fun acc x => acc.startCore p.v n curve x.2) s

/-- One DATA record written (R417). -/
def State.placeData (s : State) (p : Plan) (r : DataRec) : State :=
  let t := (p.tabs.drop r.jt).headD 0
  match r.space with
  | 1 => { s with mem := { s.mem with hbm := SMap.store s.mem.hbm (p.hbm + r.off) r.data } }
  | 2 => { s with mem := { s.mem with ddr := SMap.store s.mem.ddr (p.ddr + r.off) r.data } }
  | 4 => { s with mem := { s.mem with shelf := SMap.store s.mem.shelf (shareBase t + r.off) r.data } }
  | _ => (List.range r.cnt).foldl (fun acc i => match acc.physCore t (r.core + i) with
      | some c => acc.modCore (34 * t + c) (fun k => { k with spd := SMap.store k.spd r.off r.data })
      | none => acc) s

/-! ### Channels (R192, R194, R196, R208, R296, R310) -/

/-- UNIT of every handler of a job table, one bit each. -/
def unitMask (v : VarDecl) (j : Nat) : BitVec 64 :=
  BitVec.ofNat 64 (packBits (((v.htab.drop j).headD []).map (fun e => (1, b2n (e.testBit 17)))))

/-- The send end of a channel, not yet open. UNIT of another device's handlers is not known here: a free value. -/
def State.sendEnd (s : State) (p : Plan) (c : ChanDecl) : State :=
  let t := (p.tabs.drop c.sjt).headD 0
  let um := if c.xdev then Config.freeValue s.free else unitMask p.v c.rjt
  let s := if c.xdev then { s with free := s.free + 1 } else s
  let dlt := if c.xdev then 0 else (p.place.drop c.rjt).headD 0
  s.modSnd t c.schn (fun _ => { SndChan.reset with
    cfg := BitVec.ofNat 32 (packBits [(6, dlt), (6, c.rchn), (6, c.ofs), (4, c.maxf), (1, b2n c.dyn), (1, b2n c.xdev)])
    um := um, xadr := if c.xdev then BitVec.ofNat 32 (packBits [(12, c.raddr), (6, c.rdlt)]) else 0
    spillFree := 64 * c.ssize, spillSize := 64 * c.ssize })

/-- The send end of a channel that the host feeds, held by the port. -/
def State.hostEnd (s : State) (p : Plan) (c : ChanDecl) : State :=
  let key := 64 * (p.tabs.drop c.rjt).headD 0 + c.rchn
  let e : SndChan := { SndChan.reset with
    cfg := BitVec.ofNat 32 (packBits [(6, (p.place.drop c.rjt).headD 0), (6, c.rchn), (6, c.ofs), (4, c.maxf), (2, 0), (1, 1)])
    um := unitMask p.v c.rjt, spillFree := 64 * c.ssize, spillSize := 64 * c.ssize }
  { s with host := { s.host with chans := SMap.set SndChan.reset s.host.chans key e } }

/-- The receive end of a channel: its ring empty, its spill region, its declared source. -/
def State.receiveEnd (s : State) (p : Plan) (c : ChanDecl) : State :=
  let t := (p.tabs.drop c.rjt).headD 0
  let off := (((spillPlan p.v p.tabs).find? (fun x => x.table == t && x.rchn == c.rchn)).map (·.off)).getD 0
  s.modRcv t c.rchn (fun _ => { RcvChan.reset with
    ring := BitVec.ofNat 32 (packBits [(13, c.rbase), (11, c.rsize)])
    spill := BitVec.ofNat 32 (packBits [(16, off / 4096), (12, c.ssize)])
    xsrc := if c.xdev then BitVec.ofNat 32 (packBits [(12, c.raddr), (6, c.rdlt), (6, c.schn), (1, 1)]) else 0 })

/-- Both ends of a channel, as far as they lie on this device. -/
def State.placeChannel (s : State) (p : Plan) (c : ChanDecl) : State :=
  let s := if c.sjt < 0xFE then s.sendEnd p c else if c.sjt = 0xFE then s.hostEnd p c else s
  if c.rjt = 0xFF then s else s.receiveEnd p c

/-! ### DMA (R228, R229, R237) -/

/-- One descriptor in its store, NEXT relocated (R415). -/
def State.placeDesc (s : State) (p : Plan) (x : Nat × Nat × Nat) : State :=
  let w := ((p.v.descs[x.2.1]?).getD 0).toNat
  let next := storeIndex p.store x.1 (fieldN w 41 32)
  let w := if w.testBit 42 then w else w - (fieldN w 41 32) <<< 32 + next <<< 32
  { s with descs := SMap.set 0 s.descs (1024 * x.1 + x.2.2) (BitVec.ofNat 512 w) }

/-- One DMA channel at the first of its chain, not yet released. -/
def State.placeDma (s : State) (p : Plan) (d : DmaDecl) (at_ : Nat × Nat) : State :=
  let n := storeIndex p.store at_.1 d.head
  let net := s.net (dmaRegion at_.1)
  let s := s.modDma (dmaKey at_.1 at_.2) (fun _ => { DmaChan.reset with
    creditNet := net, rate := BitVec.ofNat 16 d.rate, job := some p.job, rel := d.ch, home := d.home })
  s.loadHead at_.1 at_.2 n

/-! ### Seeds (R36, R103, R106) -/

/-- The value of seed `n`: the submission's, or a draw from flicker. -/
def State.drawSeeds (s : State) (img : Image) (b : SubmitBody) : List (Nat × BitVec 64) × State :=
  img.seeds.zipIdx.foldl (fun acc x =>
    if x.1.2 then (acc.1 ++ [(x.2, Config.freeValue acc.2.free)], { acc.2 with free := acc.2.free + 1 })
    else if x.1.1 then (acc.1 ++ [(x.2, (b.seeds.drop x.2).headD 0)], acc.2) else acc) ([], s)

/-- TBL_SEEDSTAT of an image: the declared seeds and those drawn from flicker. -/
def seedStatOf (img : Image) : Word :=
  BitVec.ofNat 32 (packBits (img.seeds.map (fun x => (1, b2n x.1)) ++ img.seeds.map (fun x => (1, b2n x.2))))

/-! ### The job -/

/-- The job as it stands when its checks have passed. -/
def State.newJob (s : State) (p : Plan) (b : SubmitBody) (bytes : List Byte) (readm : Option Nat) : Job :=
  { state := .loading, body := b, image := bytes, variant := p.vix, tables := p.tabs, cores := p.v.key.c, taper := p.img.taper
    scope := BitVec.ofNat 2 p.scope, stamp := s.beacon, bound := p.bound, release := 0, replied := false
    nonrepro := p.img.seeds.any (·.2) || (p.resume.any (·.flick)), readmitted := readm
    regions := p.v.res.regions.map (fun r => ⟨if r.1 then .ddr else .hbm, (if r.1 then p.ddr else p.hbm) + r.2.1, r.2.2⟩)
    admCount := s.adm.count, share := p.v.res.share, hbmBase := p.hbm, hbmSize := 4096 * p.v.res.hbm
    ddrBase := p.ddr, ddrSize := 4096 * p.v.res.ddr, ctxBase := p.ctx, ctxSize := contextSize p.img p.v
    pool := p.pool
    opens := (p.v.chans.filter (fun c => decide (c.sjt < 0xFE) && !c.dyn)).map (fun c => ((p.tabs.drop c.sjt).headD 0, c.schn))
    claims := p.slots.map (·.1), cells := p.cells.map (·.1), descMap := p.store, ioFlows := p.ioFlows, dmaSlots := s.dmaSlotList p.v p.tabs
    ctrDir := ((p.v.hctr.zipIdx.filter (fun x => x.1.1 != 0)).map (fun x => (x.2, BitVec.ofNat 2 x.1.1)))
    power := s.powerOf p.v, bandHbm := p.v.band 1, bandDdr := p.v.band 2, firstEvent := 0, excursion := none
    violated := false, abortTick := 0, pauseTrick := 0, pauseFrom := 0, pauseTicks := 0, hostTicks := 0
    pauseRepart := false, recipient := [], context := none, waiters := [], tasks := [], summary := 0, residue := [], rcount := 0
    residueTaken := false, undelivered := 0, slotWrites := [], slotDirty := [], detaching := false, trapped := false
    record := [], readOut := [] }

/-- Ranges of the tiers zeroed, with fresh check bits (R225, R245). -/
def MemSys.zeroTier (m : MemSys) (tier : Tier) (lo hi : Nat) : MemSys :=
  { m.modTier tier (SMap.clearRange · lo hi) with
    bad := m.bad.filter (fun kv => !(kv.1 % 2 == badKey tier 0 && decide (lo ≤ tierUnit tier * (kv.1 / 2)) &&
      decide (tierUnit tier * (kv.1 / 2) < hi))) }

/-- The copy of a Taper job's code in HBM (R136, assumption 53). -/
def State.placeCode (s : State) (p : Plan) : State :=
  if !p.img.taper then s else
  p.progs.zipIdx.foldl (fun acc x => { acc with mem := { acc.mem with
    hbm := SMap.store acc.mem.hbm (p.ctx + 0x40000 * x.2) (x.1.flatMap (natLe 2)) } }) s

/-- The queue pair of the job: open, with an initial PSN of the device's own, a free value (R266, R267). -/
def State.openQp (s : State) (j : Nat) (b : SubmitBody) : State :=
  let psn := (Config.freeValue s.free).extractLsb' 0 24
  { s with free := s.free + 1 }.modQp (256 + j) (fun _ =>
    { QueuePair.reset with state := 1, hqpn := b.hqpn, psn := b.hpsn, devPsn := psn, retryTick := s.beacon, txBase := s.host.tx.length })

/-- A job placed (R245): the admission stamp is recorded, and every byte and register it is given is written. -/
def State.install (s : State) (b : SubmitBody) (bytes : List Byte) (p : Plan) (readm : Option Nat) : State :=
  let s := { s with adm := { s.adm with count := s.adm.count + 1 } }
  let s := { s with jobs := SMap.set none s.jobs p.job (some (s.newJob p b bytes readm)) }
  let s := { s with mem := ((s.mem.zeroTier .hbm p.hbm (p.hbm + 4096 * p.v.res.hbm)).zeroTier .hbm p.ctx
    (p.ctx + contextSize p.img p.v)).zeroTier .ddr p.ddr (p.ddr + 4096 * p.v.res.ddr) }
  let s := s.placeCode p
  let curve := s.curveInEffect p.img
  let s := (List.range p.v.key.t).foldl (fun acc n => acc.startTable p curve n) s
  let s := p.v.data.foldl (fun acc r => acc.placeData p r) s
  let seeds := s.drawSeeds p.img b
  let s := p.tabs.foldl (fun acc t => acc.modTable t (fun x =>
    { x with seeds := SMap.setAll 0 [] seeds.1, seedStat := seedStatOf p.img })) seeds.2
  let s := p.v.chans.foldl (fun acc c => acc.placeChannel p c) s
  let s := p.store.foldl (fun acc x => acc.placeDesc p x) s
  let s := (p.v.dma.zip p.dma).foldl (fun acc x => acc.placeDma p x.1 x.2) s
  let s := { s with
    noc := { s.noc with slots := SMap.setAll 0 s.noc.slots p.slots }
    fslots := SMap.setAll 0 s.fslots p.cells
    hctr := SMap.clearRange s.hctr (64 * p.job) (64 * p.job + 64) }
  s.openQp p.job b

end Sys2Proof.Machine
end

