-- ==== Sys2Proof/Machine/Context.lean ====
section
/-!
DEFINITION. Context records (R178, R223, R253 to R258): the header and the seed block as R254 lays them out, the parts in its
order, sealed to a recipient; and what a restore writes back. The layout inside a part is the model's own (assumption 32).
-/
namespace Sys2Proof.Machine

/-! ### Arrays of fields -/

/-- `n` fields of `w` bytes each, how the state holds field `i`, and how a restore writes it. -/
structure Arr where
  n   : Nat
  w   : Nat
  val : State → Nat → Nat
  put : Nat → Nat → State → State

/-- The bytes of an array. -/
def Arr.bytes (a : Arr) (s : State) : List Byte := (List.range a.n).flatMap (fun i => natLe a.w (a.val s i))

/-- The state with an array restored from the head of `bs`. -/
def Arr.restore (a : Arr) (s : State) (bs : List Byte) : State :=
  (List.range a.n).foldl (fun acc i => a.put i (rdLe bs (a.w * i) a.w) acc) s

/-- Arrays one after another. -/
def arrBytes (as : List Arr) (s : State) : List Byte := as.flatMap (fun a => a.bytes s)

/-- Arrays restored one after another; what follows them is left. -/
def restoreArrs (as : List Arr) (s : State) (bs : List Byte) : State × List Byte :=
  as.foldl (fun acc a => (a.restore acc.1 acc.2, acc.2.drop (a.n * a.w))) (s, bs)

/-- A map of a core held by key. -/
def coreWords (k n : Nat) (sel : Core → SMap Word) (upd : Core → SMap Word → Core) : Arr :=
  { n := n, w := 4, val := fun s i => (SMap.get 0 (sel (s.core k)) i).toNat
    put := fun i v s => s.modCore k (fun c => upd c (SMap.set 0 (sel c) i (BitVec.ofNat 32 v))) }

/-- Bytes of a core held by key, with their default. -/
def coreBytes (k n : Nat) (d : Byte) (sel : Core → SMap Byte) (upd : Core → SMap Byte → Core) : Arr :=
  { n := n, w := 1, val := fun s i => (SMap.get d (sel (s.core k)) i).toNat
    put := fun i v s => s.modCore k (fun c => upd c (SMap.set d (sel c) i (BitVec.ofNat 8 v))) }

/-- Registers from address `a` on. -/
def regWords (a n : Nat) : Arr :=
  { n := n, w := 4, val := fun s i => (s.csrAt (a + 4 * i)).toNat, put := fun i v s => s.setCsr (a + 4 * i) (BitVec.ofNat 32 v) }

/-- One number of a core. -/
def coreNat (k w : Nat) (sel : Core → Nat) (upd : Core → Nat → Core) : Arr :=
  { n := 1, w := w, val := fun s _ => sel (s.core k), put := fun _ v s => s.modCore k (fun c => upd c v) }

/-- One number of a table. -/
def tableNat (t w : Nat) (sel : Table → Nat) (upd : Table → Nat → Table) : Arr :=
  { n := 1, w := w, val := fun s _ => sel (s.table t), put := fun _ v s => s.modTable t (fun c => upd c v) }

/-! ### Core parts -/

/-- A weight vector in 512 B of bytes and 256 B of scales. -/
def wvecNat (v : WVec) : Nat :=
  leNat ((List.range 512).map (SMap.get 0 v.bytes) ++ (List.range 256).map (SMap.get 0x7F v.scales))
def wvecOf (n : Nat) : WVec := WVec.of (natLe 512 n) (natLe 256 (n >>> 4096))

/-- Entry `i` of the trackers: 33 for each list, the count first. -/
def tkNat (c : Core) (i : Nat) : Nat :=
  let l := SMap.get [] c.tk (i / 33)
  if i % 33 = 0 then l.length else ((l[i % 33 - 1]?).map (fun x => x.1.toNat + x.2.toNat <<< 32)).getD 0
def tkPut (c : Core) (i v : Nat) : Core :=
  { c with tk := SMap.modify [] c.tk (i / 33) (fun l => if i % 33 = 0 then List.replicate v (0, 0)
      else l.modify (i % 33 - 1) (fun _ => (BitVec.ofNat 32 v, BitVec.ofNat 32 (v >>> 32)))) }

/-- The arrays of core `k`, in the order of R254. -/
def coreArrs (k win : Nat) : List Arr :=
  [ coreWords k 32 (·.sreg) (fun c m => { c with sreg := m }),
    coreNat k 1 (·.pred.toNat) (fun c v => { c with pred := BitVec.ofNat 8 v }),
    coreWords k 2048 (·.vreg) (fun c m => { c with vreg := m }),
    { n := 32768, w := 32, val := fun s i => wrapN 256 (SMap.get 0 (s.core k).accV i)
      put := fun i v s => s.modCore k (fun c =>
        let x := signedN 256 v
        { c with accV := SMap.set 0 c.accV i x, accM := SMap.set 0 c.accM i x }) },
    coreWords k 8 (·.cfgM) (fun c m => { c with cfgM := m }),
    regWords (accReg k 0) 192,
    coreBytes k 8192 0 (·.hold) (fun c m => { c with hold := m }),
    coreBytes k 512 0x7F (·.scale) (fun c m => { c with scale := m }),
    regWords (coreReg k 0) 448,
    coreNat k 1 (fun c => b2n c.streamer.armed) (fun c v => { c with streamer := { c.streamer with armed := v != 0 } }),
    coreNat k 16 (·.streamer.desc.toNat) (fun c v => { c with streamer := { c.streamer with desc := BitVec.ofNat 128 v } }),
    coreNat k 8 (·.streamer.nextN) (fun c v => { c with streamer := { c.streamer with nextN := v } }),
    coreNat k 1 (·.streamer.head) (fun c v => { c with streamer := { c.streamer with head := v } }),
    { n := 8, w := 768, val := fun s i => wvecNat (SMap.get WVec.zero (s.core k).streamer.fifo i)
      put := fun i v s => s.modCore k (fun c =>
        { c with streamer := { c.streamer with fifo := SMap.set WVec.zero c.streamer.fifo i (wvecOf v) } }) },
    coreNat k 768 (fun c => wvecNat c.streamer.operand) (fun c v => { c with streamer := { c.streamer with operand := wvecOf v } }),
    coreNat k 1 (·.tkCfg.toNat) (fun c v => { c with tkCfg := BitVec.ofNat 8 v }),
    { n := 33 * 128, w := 8, val := fun s i => tkNat (s.core k) i, put := fun i v s => s.modCore k (fun c => tkPut c i v) },
    { n := 1024, w := 2, val := fun s i => (SMap.get 0 (s.core k).codebook i).toNat
      put := fun i v s => s.modCore k (fun c => { c with codebook := SMap.set 0 c.codebook i (BitVec.ofNat 16 v) }) },
    coreWords k 8192 (·.curve) (fun c m => { c with curve := m }),
    coreWords k 16 (·.curveHdr) (fun c m => { c with curveHdr := m }),
    coreWords k 1024 (·.outReg) (fun c m => { c with outReg := m }),
    coreBytes k win 0 (·.spd) (fun c m => { c with spd := m }) ]

/-! ### Table parts -/

/-- Loop level `i` of a table's sequencer: active, pending and remaining counts, first and last word. -/
def loopNat (q : Seq) (i : Nat) : Nat :=
  match q.loops[i]? with
  | some l => packBits [(1, b2n l.active), (32, l.pending.toNat), (32, l.remaining.toNat), (17, l.start.toNat), (17, l.last.toNat)]
  | none => 0
def loopPut (q : Seq) (i v : Nat) : Seq :=
  { q with loops := q.loops.modify i (fun _ =>
    ⟨v.testBit 0, BitVec.ofNat 32 (v >>> 1), BitVec.ofNat 32 (v >>> 33), BitVec.ofNat 17 (v >>> 65), BitVec.ofNat 17 (v >>> 82)⟩) }

/-- Counters, initial values and timeouts of a table (R178): all that a REPART = 1 record holds of it. -/
def ctrArrs (t : Nat) : List Arr :=
  [ { n := 256, w := 4, val := fun s i => (SMap.get 0 (s.table t).ctr i).toNat
      put := fun i v s => s.modTable t (fun b => { b with ctr := SMap.set 0 b.ctr i (BitVec.ofNat 24 v) }) },
    { n := 256, w := 4, val := fun s i => (SMap.get 0 (s.table t).ctrInit i).toNat
      put := fun i v s => s.modTable t (fun b => { b with ctrInit := SMap.set 0 b.ctrInit i (BitVec.ofNat 24 v) }) },
    { n := 16, w := 4, val := fun s i => (SMap.get 0 (s.table t).tout i).toNat
      put := fun i v s => s.modTable t (fun b => { b with tout := SMap.set 0 b.tout i (BitVec.ofNat 32 v) }) } ]

/-- Dealer registers of R20 and R133, the latched DLR_TCC_HI among them, with the pause phase (R253). -/
def dealerArrs (t : Nat) : List Arr :=
  let q (w : Nat) (sel : Seq → Nat) (upd : Seq → Nat → Seq) : Arr := tableNat t w (fun b => sel b.seq) (fun b v => { b with seq := upd b.seq v })
  [ tableNat t 4 (·.late.toNat) (fun b v => { b with late := BitVec.ofNat 32 v }),
    tableNat t 4 (·.lateCc.toNat) (fun b v => { b with lateCc := BitVec.ofNat 32 v }),
    tableNat t 8 (·.tcc.toNat) (fun b v => { b with tcc := BitVec.ofNat 64 v }),
    tableNat t 2 (·.trick.toNat) (fun b v => { b with trick := BitVec.ofNat 13 v }),
    tableNat t 4 (·.trickN.toNat) (fun b v => { b with trickN := BitVec.ofNat 32 v }),
    tableNat t 2 (·.pause.toNat) (fun b v => { b with pause := BitVec.ofNat 13 v }),
    tableNat t 4 (·.pauseN.toNat) (fun b v => { b with pauseN := BitVec.ofNat 32 v }),
    q 4 (·.pc.toNat) (fun x v => { x with pc := BitVec.ofNat 17 v }),
    q 4 (·.nextPc.toNat) (fun x v => { x with nextPc := BitVec.ofNat 17 v }),
    q 4 (·.hold) (fun x v => { x with hold := v }),
    q 1 (·.slots.toNat) (fun x v => { x with slots := BitVec.ofNat 6 v }),
    q 4 (fun x => (x.loopDue.map (fun p => p.toNat + 1)).getD 0)
      (fun x v => { x with loopDue := if v = 0 then none else some (BitVec.ofNat 17 (v - 1)) }),
    { n := 1, w := 4, val := fun s _ => ((SMap.get none s.latch (dlrReg t 0x4C)).getD 0).toNat
      put := fun _ v s => { s with latch := SMap.set none s.latch (dlrReg t 0x4C) (some (BitVec.ofNat 32 v)) } },
    { n := 4, w := 13, val := fun s i => loopNat (s.table t).seq i
      put := fun i v s => s.modTable t (fun b => { b with seq := loopPut b.seq i v }) },
    tableNat t 4 (·.phase) (fun b v => { b with phase := v }),
    tableNat t 8 (·.hostHeld) (fun b v => { b with hostHeld := v }) ]

/-- The index in the image of descriptor `i` of a block's store. -/
def imageIndex (m : List (Nat × Nat × Nat)) (blk i : Nat) : Nat := ((m.find? (fun x => x.1 == blk && x.2.2 == i)).map (·.2.1)).getD 0

/-- The DMA channels whose home is job table `n` of a job, by their image's declaration: head as an index in the image,
repetition, completion and miss counts, next addresses, and frames sent (R235). -/
def dmaArrs (s : State) (j n : Nat) (v : VarDecl) (m : List (Nat × Nat × Nat)) : List Arr :=
  ((v.dma.filter (fun d => d.home == n)).filterMap (fun d => s.jobChannel j d.ch)).flatMap (fun k =>
    let f (w : Nat) (sel : DmaChan → Nat) (upd : DmaChan → Nat → DmaChan) : Arr :=
      { n := 1, w := w, val := fun s _ => sel (s.dmaCh k), put := fun _ x s => s.modDma k (fun c => upd c x) }
    [ f 4 (fun c => imageIndex m (k / 128) (field c.ctl 9 0))
        (fun c x => { c with ctl := (c.ctl &&& 0xFFFFFC00) ||| BitVec.ofNat 32 (storeIndex m (k / 128) x) }),
      f 4 (·.repN.toNat) (fun c x => { c with repN := BitVec.ofNat 17 x }),
      f 1 (·.miss.toNat) (fun c x => { c with miss := BitVec.ofNat 8 x }),
      f 2 (·.cmpTask.toNat) (fun c x => { c with cmpTask := BitVec.ofNat 16 x }),
      f 2 (·.cmpChan.toNat) (fun c x => { c with cmpChan := BitVec.ofNat 16 x }),
      f 8 (·.sAddr.toNat) (fun c x => { c with sAddr := BitVec.ofNat 64 x }),
      f 8 (·.dAddr.toNat) (fun c x => { c with dAddr := BitVec.ofNat 64 x }),
      f 4 (·.msgSeq.toNat) (fun c x => { c with msgSeq := BitVec.ofNat 32 x }) ])

/-- SEQ and credit of a table's channels, with the ring positions (R223). -/
def chanArrs (t : Nat) : List Arr :=
  let snd (w : Nat) (sel : SndChan → Nat) (upd : SndChan → Nat → SndChan) : Arr :=
    { n := 64, w := w, val := fun s i => sel (s.snd t i), put := fun i v s => s.modSnd t i (fun c => upd c v) }
  let rcv (w : Nat) (sel : RcvChan → Nat) (upd : RcvChan → Nat → RcvChan) : Arr :=
    { n := 64, w := w, val := fun s i => sel (s.rcv t i), put := fun i v s => s.modRcv t i (fun c => upd c v) }
  let pos (sel : State → Nat → Nat → Nat) (upd : Nat → Nat → Nat → State → State) : Arr :=
    { n := 64 * 32, w := 8, val := fun s i => sel s (i / 32) (i % 32), put := fun i v s => upd (i / 32) (i % 32) v s }
  [ snd 4 (·.seq.toNat) (fun c v => { c with seq := BitVec.ofNat 21 v }),
    snd 1 (fun c => b2n (c.isOpen && c.dyn) + 2 * c.poolD.toNat)
      (fun c v => if v % 2 = 1 ∧ c.dyn then { c with cfg := c.cfg ||| 0x1000000, poolD := BitVec.ofNat 6 (v / 2) } else c),
    snd 4 (·.spillFree) (fun c v => { c with spillFree := v }),
    pos (fun s n r => SMap.get 0 (s.snd t n).readPos r)
      (fun n r v s => s.modSnd t n (fun c => { c with readPos := SMap.set 0 c.readPos r v })),
    pos (fun s n r => SMap.get 0 (s.snd t n).writePos r)
      (fun n r v s => s.modSnd t n (fun c => { c with writePos := SMap.set 0 c.writePos r v })),
    rcv 4 (·.seq.toNat) (fun c v => { c with seq := BitVec.ofNat 21 v }),
    pos (fun s n r => SMap.get 0 (s.rcv t n).readPos r)
      (fun n r v s => s.modRcv t n (fun c => { c with readPos := SMap.set 0 c.readPos r v })),
    pos (fun s n r => SMap.get 0 (s.rcv t n).writePos r)
      (fun n r v s => s.modRcv t n (fun c => { c with writePos := SMap.set 0 c.writePos r v })) ]

/-- SEQ and credit of the channels that the host feeds into table `t`. -/
def hostChanArrs (t : Nat) : List Arr :=
  let chan (s : State) (i : Nat) : SndChan := SMap.get SndChan.reset s.host.chans (64 * t + i)
  let put (i : Nat) (f : SndChan → SndChan) (s : State) : State :=
    if (chan s i).cfg = 0 then s
    else { s with host := { s.host with chans := SMap.modify SndChan.reset s.host.chans (64 * t + i) f } }
  [ { n := 64, w := 4, val := fun s i => (chan s i).seq.toNat, put := fun i v => put i (fun c => { c with seq := BitVec.ofNat 21 v }) },
    { n := 64, w := 4, val := fun s i => (chan s i).spillFree, put := fun i v => put i (fun c => { c with spillFree := v }) },
    { n := 64 * 32, w := 8, val := fun s i => SMap.get 0 (chan s (i / 32)).readPos (i % 32)
      put := fun i v => put (i / 32) (fun c => { c with readPos := SMap.set 0 c.readPos (i % 32) v }) },
    { n := 64 * 32, w := 8, val := fun s i => SMap.get 0 (chan s (i / 32)).writePos (i % 32)
      put := fun i v => put (i / 32) (fun c => { c with writePos := SMap.set 0 c.writePos (i % 32) v }) } ]

/-- The shelf window of a table. -/
def shelfArr (t base n : Nat) : Arr :=
  { n := n, w := 1, val := fun s i => (SMap.get 0 s.mem.shelf (shareBase t + base + i)).toNat
    put := fun i v s => { s with mem := { s.mem with shelf := SMap.set 0 s.mem.shelf (shareBase t + base + i) (BitVec.ofNat 8 v) } } }

/-- A table part with its core parts. -/
def State.tableArrs (s : State) (j n : Nat) (v : VarDecl) (b : Job) : List Arr :=
  let t := (b.tables.drop n).headD 0
  dealerArrs t ++ ctrArrs t ++ dmaArrs s j n v b.descMap ++ chanArrs t ++ hostChanArrs t ++ [shelfArr t (s.shfBase t) (s.shfBound t)] ++
    (s.tableCores t).flatMap (fun x => coreArrs x.2 (s.spdBound t))

/-! ### The job part and tier ranges -/

/-- Host counters with their directions, TBL_SEEDSTAT, host-attributed and paused time, and the summary so far. -/
def jobArrs (j : Nat) (t0 : Nat) : List Arr :=
  let job (w : Nat) (sel : Job → Nat) (upd : Job → Nat → Job) : Arr :=
    { n := 1, w := w, val := fun s _ => ((s.job j).map sel).getD 0, put := fun _ v s => s.modJob j (fun b => upd b v) }
  [ { n := 64, w := 4, val := fun s i => s.hostCounter j i + (((s.job j).map (fun b => (SMap.get 0 b.ctrDir i).toNat)).getD 0) <<< 24
      put := fun i v s => s.setHostCounter j i (v % 2 ^ 24) },
    tableNat t0 4 (·.seedStat.toNat) (fun b _ => b),
    job 8 (·.hostTicks) (fun b v => { b with hostTicks := v }),
    job 8 (·.pauseTicks) (fun b v => { b with pauseTicks := v }),
    job 1 (·.summary.toNat) (fun b v => { b with summary := BitVec.ofNat 5 v }) ]

/-- Bytes of the job part that its arrays fill. -/
def jobPartUsed : Nat := 256 + 4 + 8 + 8 + 1

/-- The live tier ranges of a trick, as arrays over the windows at `hbm` and `ddr`. -/
def liveArrs (hbm ddr : Nat) (tr : Option TrickDecl) : List Arr :=
  ((tr.map (·.live)).getD []).map (fun r =>
    if r.1 then
      { n := r.2.2, w := 1, val := fun s i => (SMap.get 0 s.mem.ddr (ddr + r.2.1 + i)).toNat
        put := fun i v s => { s with mem := { s.mem with ddr := SMap.set 0 s.mem.ddr (ddr + r.2.1 + i) (BitVec.ofNat 8 v) } } }
    else
      { n := r.2.2, w := 1, val := fun s i => (SMap.get 0 s.mem.hbm (hbm + r.2.1 + i)).toNat
        put := fun i v s => { s with mem := { s.mem with hbm := SMap.set 0 s.mem.hbm (hbm + r.2.1 + i) (BitVec.ofNat 8 v) } } })

/-! ### Tensors (R67, R258) -/

/-- Bits `bit` on, `n` of them, of a byte memory, and the memory with them at `v`. -/
def bitsAt (m : SMap Byte) (bit n : Nat) : Nat := (leNat (SMap.bytes m (bit / 8) (ceilDiv (bit % 8 + n) 8)) >>> (bit % 8)) % 2 ^ n
def putBitsAt (m : SMap Byte) (bit n v : Nat) : SMap Byte :=
  let k := ceilDiv (bit % 8 + n) 8
  let old := leNat (SMap.bytes m (bit / 8) k)
  SMap.store m (bit / 8) (natLe k (old - (bitsAt m bit n) <<< (bit % 8) + (v % 2 ^ n) <<< (bit % 8)))

/-- The bit address of element `e` in a piece. -/
def PieceDecl.bit (p : PieceDecl) (ebits e : Nat) : Nat :=
  8 * p.start + (e - p.e0) * (if ebits % 8 = 0 then 8 * p.step else ebits)

/-- The memory that a piece lies in, with its base, and the state with that memory changed. -/
def State.pieceMem (s : State) (b : Job) (p : PieceDecl) : SMap Byte × Nat :=
  let t := (b.tables.drop p.jt).headD 0
  match p.space with
  | 1 => (s.mem.hbm, b.hbmBase)
  | 2 => (s.mem.ddr, b.ddrBase)
  | 4 => (s.mem.shelf, shareBase t + s.shfBase t)
  | _ => (((s.physCore t p.core).map (fun c => (s.core (34 * t + c)).spd)).getD [], 0)
def State.setPieceMem (s : State) (b : Job) (p : PieceDecl) (m : SMap Byte) : State :=
  let t := (b.tables.drop p.jt).headD 0
  match p.space with
  | 1 => { s with mem := { s.mem with hbm := m } }
  | 2 => { s with mem := { s.mem with ddr := m } }
  | 4 => { s with mem := { s.mem with shelf := m } }
  | _ => match s.physCore t p.core with
    | some c => s.modCore (34 * t + c) (fun k => { k with spd := m })
    | none => s

/-- A tensor's elements in logical order, packed. -/
def State.tensorBytes (s : State) (b : Job) (t : TensorDecl) : List Byte :=
  natLe (ceilDiv (t.ebits * t.n) 8) (packBits ((List.range t.n).map (fun e =>
    (t.ebits, match t.pieces.find? (fun p => decide (p.e0 ≤ e) && decide (e < p.e0 + p.n)) with
      | some p => let m := s.pieceMem b p
        bitsAt m.1 (8 * m.2 + p.bit t.ebits e) t.ebits
      | none => 0))))

/-- Bits of the group that holds packed elements: one byte for FP4 and INT4, three for FP6 (R67). -/
def groupBits (ebits : Nat) : Nat := if ebits = 4 then 8 else if ebits = 6 then 24 else ebits

/-- A tensor restored from the number that its packed elements spell. The fields of a piece's last group that hold no element are zero
(R67). -/
def State.putTensor (s : State) (b : Job) (t : TensorDecl) (v : Nat) : State :=
  t.pieces.foldl (fun acc p =>
    let acc := (List.range p.n).foldl (fun acc i =>
      let e := p.e0 + i
      let m := acc.pieceMem b p
      acc.setPieceMem b p (putBitsAt m.1 (8 * m.2 + p.bit t.ebits e) t.ebits (v >>> (t.ebits * e)))) acc
    let used := p.n * t.ebits
    let pad := (groupBits t.ebits - used % groupBits t.ebits) % groupBits t.ebits
    if t.ebits % 8 = 0 ∨ pad = 0 then acc else
    let m := acc.pieceMem b p
    acc.setPieceMem b p (putBitsAt m.1 (8 * (m.2 + p.start) + used) pad 0)) s

/-! ### Sealing (R254) -/

/-- The digest of R22 over the fused map in force: MGT_LMAP, MGT_TBL_STAT and MGT_PCORE, two bytes each. DESIGN CHOICE
(assumption 58): the spec gives no encoding of the map. -/
def State.mapDigest (s : State) : BitVec 512 :=
  sha512 ((List.range 64).flatMap (fun n => natLe 2 (s.physTable n)) ++
    (List.range 64).flatMap (fun n => natLe 2 (s.tblStat n).toNat) ++
    (List.range 64).flatMap (fun t => (List.range 34).flatMap (fun c => natLe 2 (s.pcore t c).toNat)))

/-- The private scalar of this part (R348). -/
def Fuses.scalar (f : Fuses) : Nat := (f.identity.map (·.toNat)).getD Config.noIdentity

/-- The public key of this part's identity. -/
def State.publicKey (s : State) : List Byte := publicKeyOf s.fuses.scalar

/-- The key of a context record (R254), from a private key and the other side's public key. -/
def contextKey (d : Nat) (point : List Byte) : List Byte := hkdf Config.hkdfSalt Config.hkdfInfo (agree d point)

/-- `n` free values as one number, and the state behind them. -/
def State.takeFrees (s : State) (n : Nat) : Nat × State :=
  (packBits ((List.range n).map (fun i => (64, (Config.freeValue (s.free + i)).toNat))), { s with free := s.free + n })

/-- The header of a record, its TAG as given. -/
def contextHeader (repart flick : Bool) (scope trick occ : Nat) (k : VarKey) (image map rcpt : BitVec 512) (nonce tag len : Nat) : List Byte :=
  natLe 256 (packBits [(32, 0x31585443), (4, 1), (1, b2n repart), (1, b2n flick), (2, scope), (12, trick), (12, 0), (32, occ),
    (7, k.t), (6, k.c), (7, k.lanes), (12, 0), (512, image.toNat), (512, map.toNat), (512, rcpt.toNat), (96, nonce), (128, tag),
    (64, len)])

/-- The variant that an admitted job runs. -/
def Job.varDecl (b : Job) : Option (Image × VarDecl) := (readImage b.image).bind (fun i => (i.variants[b.variant]?).map (fun v => (i, v)))

/-- The parts of a job's context from the job part on. The tier ranges that the trick names as live are there only in a record read out
for detach (R254). -/
def State.contextBody (s : State) (j : Nat) (b : Job) (v : VarDecl) (repart detach : Bool) : List Byte :=
  let job := arrBytes (jobArrs j (b.tables.headD 0)) s ++ List.replicate (512 - jobPartUsed) 0
  let parts := if repart then
      (List.range v.key.t).flatMap (fun n => arrBytes (ctrArrs ((b.tables.drop n).headD 0)) s) ++ v.tensors.flatMap (s.tensorBytes b)
    else (List.range v.key.t).flatMap (fun n => arrBytes (s.tableArrs j n v b) s)
  job ++ parts ++
    (if detach then arrBytes (liveArrs b.hbmBase b.ddrBase (v.tricks.find? (fun x => x.id == b.pauseTrick))) s else [])

/-- The sealed record of a paused job: the one in its context area, or the one read out for a detach. -/
def State.sealContext (s : State) (j : Nat) (b : Job) (v : VarDecl) (repart detach : Bool) : List Byte × State :=
  let e := s.takeFrees 10
  let n := e.2.takeFrees 2
  let eph := scalarOf e.1
  let nonce := n.1 % 2 ^ 96
  let rcpt := if b.recipient.all (· == 0) then s.publicKey else b.recipient
  let t0 := s.table (b.tables.headD 0)
  let seeds := (List.range 16).flatMap (fun i => natLe 8 (SMap.get 0 t0.seeds i).toNat)
  let body := s.contextBody j b v repart detach
  let head (tag : Nat) : List Byte := contextHeader repart b.nonrepro b.scope.toNat b.pauseTrick t0.pauseN.toNat v.key
    (sha512 b.image) s.mapDigest (sha512 rcpt) nonce tag (256 + 272 + body.length)
  let point := publicKeyOf eph ++ List.replicate 11 0
  let box := gcmSeal (contextKey eph rcpt) (natLe 12 nonce) (head 0 ++ point ++ body) seeds
  (head (rdLe box 128 16) ++ point ++ box.take 128 ++ body, n.2)

/-- A context record opened by this part; nothing where it is refused with CONTEXT_INVALID before its image is compared. -/
def State.openContext (s : State) (bs : List Byte) : Option Resumed :=
  let h := leNat (bs.take 256)
  let tag := fieldN h 1887 1760
  let head := natLe 256 (h - tag <<< 1760)
  let point := (bs.drop 256).take 144
  let body := bs.drop 528
  if bs.length < 528 + 512 ∨ fieldN h 31 0 ≠ 0x31585443 ∨ fieldN h 35 32 ≠ 1 ∨ fieldN h 1663 1152 ≠ (sha512 s.publicKey).toNat
    ∨ fieldN h 1951 1888 ≠ bs.length then none else
  (gcmOpen (contextKey s.fuses.scalar (point.take 133)) (natLe 12 (fieldN h 1759 1664)) (head ++ point ++ body)
    ((bs.drop 400).take 128 ++ natLe 16 tag)).map (fun seeds =>
    { repart := h.testBit 36, flick := h.testBit 37, trick := fieldN h 51 40, occ := fieldN h 95 64
      key := ⟨fieldN h 102 96, fieldN h 108 103, fieldN h 115 109⟩, image := BitVec.ofNat 512 (fieldN h 639 128)
      seeds := (List.range 16).map (fun i => BitVec.ofNat 64 (rdLe seeds (8 * i) 8)), body := body })

/-! ### Restoring (R253, R255 to R258) -/

/-- The conditions of R257 on a job whose tasks have all paused at a trick marked repartitionable. -/
def State.repartOk (s : State) (j : Nat) (b : Job) (v : VarDecl) : Bool :=
  v.queues.all (fun q => (s.tableCores ((b.tables.drop q.jt).headD 0)).all (fun x => (s.qst x.2 q.q).free == q.nent)) &&
  v.dma.all (fun d => (s.jobChannel j d.ch).all (fun k =>
    imageIndex b.descMap (k / 128) (field (s.dmaCh k).ctl 9 0) == d.head && (s.dmaCh k).repN == 0 && (s.dmaCh k).cmpTask == 0 &&
      (s.dmaCh k).cmpChan == 0)) &&
  b.tables.all (fun t => (s.table t).rcv.all (fun kv => kv.2.records.all (fun x => x.2.isEmpty)) &&
    (s.table t).snd.all (fun kv => !(kv.2.dyn && kv.2.isOpen)))

/-- A table whose task is to resume at its resume point. -/
def Table.toResume (t : Table) : Table := { t with run := 2, pause := t.pause &&& 0xFFF, release := none }

/-- A table of a repartitioned job at its trick's resume entry. -/
def Table.toEntry (t : Table) (entry tcc occ : Nat) : Table :=
  { t with run := 2, phase := 0, trickN := BitVec.ofNat 32 occ, tcc := BitVec.ofNat 64 tcc
           seq := { t.seq with nextPc := BitVec.ofNat 17 entry } }

/-- A record restored into the freshly placed job of plan `p`. A REPART = 1 record resumed onto the table and lane counts that it came
from brings its counters, initial values and timeouts back (R178, R179). -/
def State.restoreContext (s : State) (p : Plan) (r : Resumed) : State :=
  match s.job p.job with
  | none => s
  | some b =>
    let seeds := SMap.setAll 0 [] (r.seeds.zipIdx.map (fun x => (x.2, x.1)))
    let s := p.tabs.foldl (fun acc t => acc.modTable t (fun x => { x with seeds := seeds })) s
    let s := (restoreArrs (jobArrs p.job (p.tabs.headD 0)) s r.body).1
    let body := r.body.drop 512
    let tr := p.v.tricks.find? (fun x => x.id == r.trick)
    if r.repart then
      let q := if r.key = p.v.key then
          p.tabs.foldl (fun acc t => restoreArrs (ctrArrs t) acc.1 acc.2) (s, body)
        else (s, body.drop (ctrPartSize * r.key.t))
      let live := q.2.drop ((p.v.tensors.map (fun t => ceilDiv (t.ebits * t.n) 8)).sum)
      let s := if r.key = p.v.key ∧ ¬ live.isEmpty then (restoreArrs (liveArrs b.hbmBase b.ddrBase tr) q.1 live).1 else q.1
      let s := (p.v.tensors.zip (r.tensors p.v)).foldl (fun acc x => acc.putTensor b x.1 x.2.2) s
      p.tabs.zipIdx.foldl (fun acc x =>
        let e := ((tr.map (·.tables)).bind (·[x.2]?)).getD (0, 0, 0)
        acc.modTable x.1 (fun t => t.toEntry e.1 (e.2.1 + e.2.2 * r.occ + 1) r.occ)) s
    else
      let q := (List.range p.v.key.t).foldl (fun acc n => restoreArrs (acc.1.tableArrs p.job n p.v b) acc.1 acc.2) (s, body)
      let s := if q.2.isEmpty then q.1 else (restoreArrs (liveArrs b.hbmBase b.ddrBase tr) q.1 q.2).1
      p.tabs.foldl (fun acc t => acc.modTable t Table.toResume) s

end Sys2Proof.Machine
end

