-- ==== Sys2Proof/Machine/Frames.lean ====
section
/-!
DEFINITION. Taking a frame of the host (R264, R270, R271, R273, R279, R280, R356): the checks that every frame passes, its
refusals, and the frames kept during an arbitration hold. The checks stand in the order of assumption 33.
-/
namespace Sys2Proof.Machine

/-! ### Refusal codes of frames (R273) -/

def stCounterFull : BitVec 16 := 0x0050
def stCounterShort : BitVec 16 := 0x0051
def stMalformed : BitVec 16 := 0x0053
def stUnknownType : BitVec 16 := 0x0054
def stWrongQp : BitVec 16 := 0x0055
def stNotPaused : BitVec 16 := 0x0057
def stCounterUndeclared : BitVec 16 := 0x0059
def stChannelUndeclared : BitVec 16 := 0x005A

/-! ### Taking a frame -/

/-- A TYPE that the host may send (R271). -/
def hostType (typ : BitVec 8) : Bool := decide (1 ≤ typ.toNat) && decide (typ.toNat ≤ 10)

/-- TYPE `typ` is carried by the control queue pair, or by a job's (R271). -/
def carried (typ : BitVec 8) (control : Bool) : Bool :=
  if control then [1, 2, 3, 4, 5, 6, 9, 10].contains typ.toNat else [3, 4, 5, 6, 7, 8].contains typ.toNat

/-- Bytes of the whole message: the header, the body bytes that the row fixes, and the others. -/
def frameSize (f : HostFrame) (lead : Nat) : Nat := 16 + lead + f.body.length

/-- A receive buffer of the queue pair (R280). -/
def bufferSize (qpn : Nat) : Nat := if qpn = 16 then 4096 else 16384

/-- The header is as R270 asks. -/
def headerOk (f : HostFrame) (lead : Nat) : Bool :=
  decide (frameSize f lead ≤ bufferSize f.qpn.toNat) && f.len.toNat == frameSize f lead && f.ver == 1 && f.status == 0 && f.rsv == 0

/-- A refused frame: its reply carries TYPE with bit 7 set, its TAG and JOB, and the code. -/
def State.refuse (s : State) (typ : BitVec 8) (f : HostFrame) (code : BitVec 16) : State :=
  s.answer f.qpn (typ ||| 0x80) f.tag f.job code []

/-- A frame that gets no reply has been handled. -/
def State.silent (s : State) (typ : BitVec 8) (f : HostFrame) : State := s.settle f.qpn.toNat (typ ||| 0x80) f.tag none

/-- Packets of a message of `n` bytes: the path MTU is 4,096 B (R263). -/
def packetsOf (n : Nat) : Nat := Nat.max 1 (ceilDiv n 4096)

/-- Packets dropped and counted (R264). -/
def State.dropPackets (s : State) (k : Nat) : State :=
  { s with host := { s.host with drop := satAdd s.host.drop k } }.mark dropReg (s.marked dropReg + k)

/-- A frame whose packets have all come is taken: header, TYPE and queue pair are checked, then `act` handles it. -/
def State.takeFrame (s : State) (typ : BitVec 8) (lead : Nat) (f : HostFrame) (act : State → State) : State :=
  let n := f.qpn.toNat
  let s := s.expect n (typ ||| 0x80) f.tag
  if !headerOk f lead then s.refuse typ f stMalformed
  else if !hostType typ then s.refuse typ f stUnknownType
  else if !carried typ (n == 16) || (n != 16 && f.job.toNat + 256 != n) then s.refuse typ f stWrongQp
  else act s

/-- A message of `n` bytes at the host port: dropped where its queue pair is closed, lost where it is in error. -/
def State.arrived (s : State) (qpn : BitVec 24) (n : Nat) (act : State → State) : State :=
  if (s.qp qpn.toNat).state = 0 then s.dropPackets (packetsOf n) else if (s.qp qpn.toNat).state = 1 then act s else s

/-! ### Frames that wait (R273, R280, R356) -/

/-- The frame of a SPDM request over the host port. -/
def spdmFrame : SpdmReq → Option HostFrame
  | .host f => some f
  | .mctp _ => none

/-- The frame that a waiting command carries. -/
def heldFrame (i : Instr) : Option HostFrame :=
  match i with
  | .queryDevice f | .queryJob f | .pause f | .resume f | .detach f | .abort f | .signalIncrement f | .signalConsume f
  | .taskMsg f | .rebind f | .unknownType _ f => some f
  | .getVersion q | .getCapabilities q | .negotiateAlgorithms q | .getDigests q | .getCertificate q | .challenge q
  | .getMeasurements q | .getCsr q | .setCertificate q | .unsupportedRequest q => spdmFrame q
  | _ => none

/-- A waiting command came on queue pair `n`. -/
def heldOn (n : Nat) (i : Instr) : Bool := (heldFrame i).any (fun f => f.qpn.toNat == n)

/-- Frames of queue pair `n` that wait. -/
def State.heldCount (s : State) (n : Nat) : Nat := (s.host.heldFrames.filter (fun x => heldOn n x.2)).length

/-- Receive buffers posted on a queue pair (R280). -/
def postedBuffers (n : Nat) : Nat := if n = 16 then 16 else 4

/-- The frames of queue pair `n` wait behind a TASK_MSG whose parts wait on credit (R273), or behind a frame that waits. -/
def State.qpBlocked (s : State) (n : Nat) : Bool := s.host.msgs.any (fun m => 256 + m.job == n) || decide (0 < s.heldCount n)

/-- A frame is kept, with the beacon count of its arrival, while a receive buffer of its queue pair is free; otherwise the device
answers RNR NAK and the frame is not taken (R280). -/
def State.keepFrame (s : State) (i : Instr) (qpn : BitVec 24) : State :=
  if postedBuffers qpn.toNat ≤ s.heldCount qpn.toNat then s.send (.rnrNak qpn)
  else { s with host := { s.host with heldFrames := s.host.heldFrames ++ [(s.beacon, i)] } }

/-- A frame arrives (R279): no packet arrives without link. During an arbitration hold every frame but SUBMIT waits (R356); otherwise
those of a blocked queue pair do. -/
def State.hostFrame (s : State) (i : Instr) (typ : BitVec 8) (lead : Nat) (f : HostFrame) (act : State → State) : State :=
  if !s.host.link then s else
  s.arrived f.qpn (frameSize f lead) (fun s =>
    if (if s.mgt.hold then typ != 1 else s.qpBlocked f.qpn.toNat) then s.keepFrame i f.qpn
    else s.takeFrame typ lead f act)

/-- The job that a frame may name: admitted, its abort not begun and its record not written. -/
def State.named (s : State) (j : BitVec 8) : Option Job :=
  (s.job j.toNat).filter (fun b => match b.state with
    | .admitted | .running | .pausing | .paused => true
    | .loading | .aborting | .ended => false)

/-- Handling of a frame that names a job: its layout first, then the job. -/
def State.forJob (s : State) (typ : BitVec 8) (f : HostFrame) (layout : Bool) (act : Nat → Job → State) : State :=
  if !layout || (decide (64 ≤ f.job.toNat) && f.job != 0xFF) then s.refuse typ f stMalformed else
  match s.named f.job with
  | none => s.refuse typ f stNoJob
  | some b => act f.job.toNat b

/-- UNKNOWN_TYPE (R271): a frame whose TYPE is unlisted, is a device type or has bit 7 set. A listed request type has a row of
its own; only a QUERY or SIGNAL whose byte 16 is missing or neither 0 nor 1 has none, and is refused here (R270, R273). -/
def execUnknownType (typ : BitVec 8) (f : HostFrame) (s : State) : Host.Outcome State Fault Refusal :=
  .next (if typ = 2 ∨ typ = 7 then (if f.body.head?.any (fun b => decide (b.toNat < 2)) then s
      else s.hostFrame (.unknownType typ f) typ 0 f (fun s => s.refuse typ f stMalformed))
    else if hostType typ then s else s.hostFrame (.unknownType typ f) typ 0 f id)

end Sys2Proof.Machine
end

