-- ==== Sys2Proof/Machine/Jobs.lean ====
section
/-!
DEFINITION. Jobs from submission to completion record (R246, R248 to R260, R272, R273, R275, R283): the admission unit, its
replies, pause, resume, detach and abort, the completion record, and re-admission. Where a body's layout is not given, it is
that of assumption 34.
-/
namespace Sys2Proof.Machine

/-! ### SUBMIT (R272) -/

/-- The body of a SUBMIT frame, if its layout allows it (R270, R272). -/
def readSubmit (f : HostFrame) : Option SubmitBody :=
  let bs := f.body
  let n := rdLe bs 568 2
  let flags := BitVec.ofNat 32 (rdLe bs 12 4)
  if bs.length < 576 ∨ 256 < n ∨ bs.length ≠ 576 + 4 * n ∨ rdLe bs 570 6 ≠ 0 ∨ 64 ≤ flags.toNat ∨ field flags 5 4 = 3 ∨
    64 < rdLe bs 88 1 ∨ rdLe bs 95 1 ≠ 0 ∨ f.job ≠ 0xFF then none
  else some {
    tag := f.tag, imgAddr := BitVec.ofNat 64 (rdLe bs 0 8), imgRkey := BitVec.ofNat 32 (rdLe bs 8 4), flags := flags
    imgLen := BitVec.ofNat 64 (rdLe bs 16 8), digest := (bs.drop 24).take 64, tReq := rdLe bs 88 1
    hqpn := BitVec.ofNat 24 (rdLe bs 89 3), hpsn := BitVec.ofNat 24 (rdLe bs 92 3), cmplAddr := BitVec.ofNat 64 (rdLe bs 96 8)
    cmplRkey := BitVec.ofNat 32 (rdLe bs 104 4), ctrRkey := BitVec.ofNat 32 (rdLe bs 108 4)
    ctrAddr := BitVec.ofNat 64 (rdLe bs 112 8), place := ((bs.drop 120).take 64).map (·.toNat)
    hwin := (List.range 16).map (fun i => let o := 184 + 16 * i
      (BitVec.ofNat 64 (rdLe bs o 8), rdLe bs (o + 8) 4, BitVec.ofNat 32 (rdLe bs (o + 12) 4)))
    seeds := (List.range 16).map (fun i => BitVec.ofNat 64 (rdLe bs (440 + 8 * i) 8))
    param := (List.range n).map (fun i => BitVec.ofNat 32 (rdLe bs (576 + 4 * i) 4)) }

/-- The refusal of a submission. -/
def State.refuseSubmit (s : State) (b : SubmitBody) (code : BitVec 16) : State := s.answer 0x10 0x81 b.tag 0xFF code []

/-- The admission unit takes the first of the waiting submissions that passes the entry checks, and fetches its image. -/
def State.takeNext (s : State) (ws : List SubmitBody) : State :=
  match ws with
  | [] => { s with adm := { s.adm with waiting := [] } }
  | b :: rest =>
    if s.mgt.hold then (s.refuseSubmit b rsHold).takeNext rest
    else if s.freeJob.isNone then (s.refuseSubmit b rsJobLimit).takeNext rest
    else { s with adm := { s.adm with waiting := rest, current := some b } }.send (.read 0x10 b.imgRkey b.imgAddr b.imgLen)

/-- ROLE of both halves while `holder` leads. -/
def Mgt.roles (m : Mgt) (holder : Bool) : Mgt :=
  let role (self : Bool) (h : Half) : Half := { h with role := if self == holder then 2 else if h.health then 1 else 0 }
  { m with north := role false m.north, south := role true m.south }

/-- The lease goes to half `h`. -/
def State.lead (s : State) (h : Bool) : State :=
  { s with mgt := { s.mgt.roles h with holder := h, leaseValid := true, renewed := s.beacon, handover := false } }

/-- A handover that waits takes place between submissions (R354). -/
def State.passLease (s : State) : State := if s.mgt.handover && s.mgt.leaseValid then s.lead (!s.mgt.holder) else s

/-- The admission unit, when it is free, goes on with the submissions that wait. -/
def State.startNext (s : State) : State :=
  if s.adm.current.isSome then s else
  let s := s.passLease
  s.takeNext s.adm.waiting

/-- A SUBMIT frame joins the submissions that wait; during an arbitration hold it is refused (R356). -/
def State.submitFrame (s : State) (f : HostFrame) : State :=
  match readSubmit f with
  | none => s.refuse 0x01 f stMalformed
  | some b =>
    if s.mgt.hold then s.refuse 0x01 f rsHold
    else State.startNext { s with adm := { s.adm with waiting := s.adm.waiting ++ [b] } }

/-- SUBMIT (R272). -/
def execSubmit (f : HostFrame) (s : State) : Host.Outcome State Fault Refusal :=
  .next (s.hostFrame (.submit f) 0x01 0 f (fun s => s.submitFrame f))

/-! ### Admission (R246, R248) -/

/-- The admission unit has nothing in progress. -/
def Admission.idle (a : Admission) : Admission := { a with current := none, loading := none }

/-- The job of plan `pl` is placed, and its context, if it has one, restored; loading ends load_ticks after the stamp at the
latest. -/
def State.placeJob (s : State) (b : SubmitBody) (bytes : List Byte) (pl : Plan) (readm : Option Nat) : State :=
  let s := s.install b bytes pl readm
  let s := match pl.resume with
    | some r => s.restoreContext pl r
    | none => s
  { s with adm := { s.adm with current := some b, loading := some (pl.job, s.beacon + pl.load) } }

/-- ADMISSION (R246): the image has been fetched; every check is made, and a job that passes them all is placed. A refusal is sent
before the admission unit goes on. -/
def execAdmission (inp : AdmissionInput) (s : State) : Host.Outcome State Fault Refusal :=
  .next (match s.adm.current, s.adm.loading with
    | some b, none =>
      match s.plan b inp.image (inp.context.map s.openContext) with
      | .error code => State.startNext ({ s with adm := s.adm.idle }.refuseSubmit b code)
      | .ok pl => s.placeJob b (inp.image.getD []) pl none
    | _, _ => s)

/-- The release tick of a job whose reply goes out now (R27, R249): a resumed one is released at its resume tick. -/
def State.releaseTick (s : State) (b : Job) (resumed : Bool) : Nat :=
  if resumed ∨ b.scope ≠ 0 then s.resumeTick else s.beacon + 200

/-- FWVER of the leading half. -/
def State.fwVersion (s : State) : Word := if s.mgt.holder then s.mgt.south.fwver else s.mgt.north.fwver

/-- The first 16 bytes of a digest. -/
def digestPrefix (d : BitVec 512) : List Byte := natLe 16 d.toNat

/-- The rkey of host region `i` of job `j` (R268). -/
def rkeyOf (j i count : Nat) : Nat := j <<< 24 + i <<< 20 + count % 2 ^ 20

/-- The admission reply's body (R13, R248, R267, R268). The placement list that is hashed is one byte for each entry: DESIGN CHOICE
(assumption 59). -/
def State.admissionBody (s : State) (j : Nat) (b : Job) (release : Nat) : List Byte :=
  let tabs := b.tables.map s.logTable
  let lanes := ((b.varDecl.map (·.2.key.lanes)).getD 64)
  let img := b.varDecl.map (·.1)
  let curve := (img.map s.curveInEffect).getD (s.recs.curve, s.recs.curveHdr)
  natLe 8 b.stamp ++ natLe 8 b.bound ++ natLe 8 release ++
    natLe 1 j ++ natLe 1 b.tables.length ++ natLe 1 b.cores ++ natLe 1 lanes ++ natLe 1 b.scope.toNat ++
    natLe 1 (b2n b.nonrepro + 2 * b2n b.readmitted.isSome) ++ natLe 1 (b.readmitted.getD 0xFF) ++ natLe 1 0 ++
    (tabs.map (BitVec.ofNat 8 ·) ++ List.replicate 64 0).take 64 ++
    digestPrefix s.mgt.timingDigest ++ digestPrefix (sha512 (tabs.map (BitVec.ofNat 8 ·))) ++ digestPrefix s.mapDigest ++
    (s.publicKey ++ List.replicate 136 0).take 136 ++ wordLe s.fwVersion ++
    digestPrefix (sha512 (curveString curve.1 curve.2)) ++ natLe 4 (s.qp (256 + j)).devPsn.toNat ++
    (List.range 16).flatMap (fun i => natLe 4 (if i < b.regions.length then rkeyOf j i b.admCount else 0))

/-- A job whose loading has ended: its reply goes out, and every task that is not yet aborted gets its release tick. A re-admission's
reply is a frame of its own (R260). -/
def State.replyAdmission (s : State) (j : Nat) (b : Job) : State :=
  let resumed := b.tables.any (fun t => (s.table t).run == 2)
  let r := s.releaseTick b resumed
  let body := s.admissionBody j b r
  let s := if b.readmitted.isSome then s.send (.frame 0x10 0x81 b.body.tag (BitVec.ofNat 8 j) 0 body)
    else s.answer 0x10 0x81 b.body.tag (BitVec.ofNat 8 j) 0 body
  let s := if b.state ≠ .loading then s else
    (b.tables.foldl (fun acc t => acc.modTable t (fun x => { x with release := some r })) s).modJob j (fun b =>
      { b with state := .admitted, release := r })
  s.modJob j (fun b => { b with replied := true })

/-- ADMISSION_REPLY (R248): the loader has finished. -/
def execAdmissionReply (s : State) : Host.Outcome State Fault Refusal :=
  .next (match s.adm.loading with
    | none => s
    | some (j, _) =>
      match s.job j with
      | none => s
      | some b =>
        let s := s.replyAdmission j b
        State.startNext { s with adm := s.adm.idle })

/-! ### QUERY (R273) -/

/-- MGT_PARTID (R6). -/
def State.partId (s : State) : Word :=
  BitVec.ofNat 32 (packBits [(4, 1), (4, 2), (4, s.fuses.stepping.toNat), (2, s.fuses.grade.toNat), (6, s.fuses.cores),
    (1, b2n s.fuses.flicker)])

/-- Logical tables in service. -/
def State.inService (s : State) : List Nat := (List.range 64).filter (fun n => field (s.tblStat n) 1 0 == 0)

/-- The frame's body after the byte that the row fixes is 15 zero bytes. -/
def queryLayout (f : HostFrame) : Bool := f.body.length == 15 && f.body.all (· == 0)

/-- A device QUERY. -/
def State.queryDeviceFrame (s : State) (f : HostFrame) : State :=
  if !queryLayout f || f.job != 0xFF then s.refuse 0x02 f stMalformed else
  s.answer f.qpn 0x82 f.tag 0xFF 0 (wordLe s.partId ++ natLe 1 s.inService.length ++ natLe 1 s.freeTables.length ++
    natLe 8 s.beacon ++ natLe 1 (b2n s.host.mode))

/-- QUERY_DEVICE (R273). -/
def execQueryDevice (f : HostFrame) (s : State) : Host.Outcome State Fault Refusal :=
  .next (s.hostFrame (.queryDevice f) 0x02 1 f (fun s => s.queryDeviceFrame f))

/-- The state that a QUERY reports: 0 admitted, 1 running, 2 paused, 3 ended. -/
def JobState.code : JobState → Nat
  | .loading | .admitted => 0
  | .running | .pausing | .aborting => 1
  | .paused => 2
  | .ended => 3

/-- A job QUERY. A job that has ended is still known, by its record, until its number is taken again (R283). -/
def State.queryJobFrame (s : State) (f : HostFrame) : State :=
  if !queryLayout f || (decide (64 ≤ f.job.toNat) && f.job != 0xFF) then s.refuse 0x02 f stMalformed else
  match (s.named f.job).or ((s.job f.job.toNat).filter (fun b => decide (b.state = .ended))) with
  | none => s.refuse 0x02 f stNoJob
  | some b => s.answer f.qpn 0x82 f.tag f.job 0 (natLe 1 b.state.code ++ natLe 8 s.beacon ++ b.record)

/-- QUERY_JOB (R273). -/
def execQueryJob (f : HostFrame) (s : State) : Host.Outcome State Fault Refusal :=
  .next (s.hostFrame (.queryJob f) 0x02 1 f (fun s => s.queryJobFrame f))

/-! ### PAUSE, RESUME, DETACH and ABORT (R251 to R253, R259) -/

/-- The layout of a PAUSE body. It marks no byte zero. -/
def pauseLayout (f : HostFrame) : Bool :=
  f.body.length == 144 && decide (rdLe f.body 0 2 ≤ 0xFFF)

/-- A PAUSE frame that arrived at beacon count `arrival` (R251, R252, R352). A task that has ended cannot pause. -/
def State.pauseFrame (s : State) (f : HostFrame) (arrival : Nat) : State :=
  s.forJob 0x03 f (pauseLayout f) (fun j b =>
    let trick := rdLe f.body 0 2
    let occ := rdLe f.body 4 4
    let rcpt := (f.body.drop 8).take 133
    if b.taper ∨ (b.state ≠ .running ∧ b.state ≠ .admitted) ∨ b.tables.any (fun t => (s.table t).run == 3) ∨
        ¬ (rcpt.all (· == 0) || onCurve rcpt) then s.refuse 0x03 f stPauseFailed
    else
      let s := b.tables.foldl (fun acc t => acc.modTable t (fun x =>
        { x with pause := BitVec.ofNat 13 (trick + 0x1000), pauseN := BitVec.ofNat 32 occ })) s
      s.modJob j (fun b => { b with
        state := .pausing, pauseTrick := trick, pauseFrom := arrival, recipient := rcpt
        waiters := b.waiters ++ [⟨0x03, f.qpn, f.tag⟩] }))

/-- PAUSE (R251). -/
def execPause (f : HostFrame) (s : State) : Host.Outcome State Fault Refusal :=
  .next (s.hostFrame (.pause f) 0x03 0 f (fun s => s.pauseFrame f s.beacon))

/-- Every waiting frame of one TYPE answered, with status done and this body. -/
def State.tell (s : State) (j : Nat) (b : Job) (typ : Nat) (body : List Byte) : State :=
  (b.waiters.foldl (fun acc w => if w.typ = typ
    then acc.answer w.qpn (BitVec.ofNat 8 (0x80 + typ)) w.tag (BitVec.ofNat 8 j) 0 body else acc) s).modJob j
    (fun b => { b with waiters := b.waiters.filter (fun w => w.typ != typ) })

/-- No DMA channel of job `j` moves a repetition. -/
def State.dmaStill (s : State) (j : Nat) : Bool := s.dma.all (fun kv => !(kv.2.job == some j && kv.2.state == 2))

/-- Every task of the job has paused (R251). -/
def State.allPaused (s : State) (j : Nat) (b : Job) : Bool :=
  b.tables.all (fun t => (s.table t).run == 2 && (s.table t).release.isNone) && s.dmaStill j

/-- The context of a job all of whose tasks have paused, written into its context area, and the record that the host can read out
(assumption 60). -/
def State.writeContext (s : State) (j : Nat) (b : Job) : State :=
  match b.varDecl with
  | none => s
  | some (_, v) =>
    let marked := v.tricks.any (fun x => x.id == b.pauseTrick && x.repart)
    let repart := marked && s.repartOk j b v
    let o := s.sealContext j b v repart true
    let r := o.2.sealContext j b v repart false
    let s := { r.2 with mem := (r.2.mem.putTier .hbm b.ctxBase (r.1.take b.ctxSize)).1 }
    let s := s.modJob j (fun b => { b with state := .paused, context := some r.1, readOut := o.1, pauseRepart := repart })
    s.tell j b 0x03 (natLe 8 r.1.length ++ natLe 1 (b2n repart))

/-- JOB_PAUSED (R253). -/
def execJobPaused (j : Nat) (s : State) : Host.Outcome State Fault Refusal :=
  .next (match s.job j with
    | none => s
    | some b => if b.state = .pausing ∧ s.allPaused j b then s.writeContext j b else s)

/-- A frame that needs a paused job. -/
def State.forPaused (s : State) (typ : BitVec 8) (f : HostFrame) (act : Nat → Job → State) : State :=
  s.forJob typ f (f.body == []) (fun j b =>
    if b.state ≠ .paused ∨ b.detaching then s.refuse typ f stNotPaused else act j b)

/-- A RESUME frame (R253): every task gets its resume tick, at which paused time ends. -/
def State.resumeFrame (s : State) (f : HostFrame) : State :=
  s.forPaused 0x04 f (fun j b =>
    let r := s.resumeTick
    let s := b.tables.foldl (fun acc t => acc.modTable t (fun x => { x with release := some r, pause := x.pause &&& 0xFFF })) s
    s.modJob j (fun b => { b with
      state := .running, readOut := [], pauseTicks := b.pauseTicks + (r - b.pauseFrom), waiters := b.waiters ++ [⟨0x04, f.qpn, f.tag⟩] }))

/-- RESUME (R253). -/
def execResume (f : HostFrame) (s : State) : Host.Outcome State Fault Refusal :=
  .next (s.hostFrame (.resume f) 0x04 0 f (fun s => s.resumeFrame f))

/-- The job of a DETACH that comes after the abort of a paused job: its context area is still held (R259). -/
def State.lateDetach (s : State) (f : HostFrame) : Option Job :=
  if f.body ≠ [] then none else
  (s.job f.job.toNat).filter (fun b => b.context.isSome && !b.readOut.isEmpty && !b.detaching &&
    (decide (b.state = .aborting) || decide (b.state = .ended)))

/-- A DETACH frame (R253): the job ends with its completion record. After the abort of a paused job it frees the context area
(R259). -/
def State.detachFrame (s : State) (f : HostFrame) : State :=
  match s.lateDetach f with
  | some b =>
    if b.state = .aborting then
      s.modJob f.job.toNat (fun b => { b with detaching := true, waiters := b.waiters ++ [⟨0x05, f.qpn, f.tag⟩] })
    else (s.modJob f.job.toNat (fun b => { b with detaching := true, context := none })).answer f.qpn 0x85 f.tag f.job 0 []
  | none => s.forPaused 0x05 f (fun j _ =>
      s.modJob j (fun b => { b with detaching := true, waiters := b.waiters ++ [⟨0x05, f.qpn, f.tag⟩] }))

/-- DETACH (R253). -/
def execDetach (f : HostFrame) (s : State) : Host.Outcome State Fault Refusal :=
  .next (s.hostFrame (.detach f) 0x05 0 f (fun s => s.detachFrame f))

/-- An ABORT frame (R259): one that comes after every task has ended names no running job. The tasks of a trapped job have not ended
(R377). -/
def State.abortFrame (s : State) (f : HostFrame) : State :=
  s.forJob 0x06 f (f.body == []) (fun j b =>
    if b.tables.all (fun t => (s.table t).run == 3) && !b.trapped then s.refuse 0x06 f stNoJob
    else (s.abortJob j 0).modJob j (fun b => { b with waiters := b.waiters ++ [⟨0x06, f.qpn, f.tag⟩] }))

/-- ABORT (R259). -/
def execAbort (f : HostFrame) (s : State) : Host.Outcome State Fault Refusal :=
  .next (s.hostFrame (.abort f) 0x06 0 f (fun s => s.abortFrame f))

/-! ### The completion record (R275) -/

/-- Host-attributed time of a job in ticks, with that of tasks that have not ended. -/
def State.hostTime (s : State) (b : Job) : Nat :=
  (b.hostTicks + (b.tables.map (fun t => (s.table t).hostHeld)).sum) / (7920 * 11)

/-- Paused time of a job in ticks; a pause that has not ended counts until now. -/
def State.pausedTime (s : State) (b : Job) : Nat :=
  b.pauseTicks + (if b.state = .pausing ∨ b.state = .paused then s.beacon - b.pauseFrom else 0)

/-- The completion record with STATUS `status`. -/
def State.completionRecord (s : State) (j : Nat) (b : Job) (status : Nat) : List Byte :=
  let done := status == 1
  let ts := b.tables.map s.table
  natLe 1280 (packBits ([(8, status), (1, b2n b.violated), (1, b2n b.nonrepro), (1, b2n b.readmitted.isSome), (5, 0),
    (16, if status = 2 then b.firstEvent.toNat else 0), (6, j), (2, 0), (5, if done then b.summary.toNat else 0), (3, 0),
    (16, if b.violated then (b.excursion.getD 0).toNat else 0), (64, b.stamp), (64, s.beacon), (64, s.hostTime b),
    (64, s.pausedTime b), (64, (ts.map (·.late.toNat)).sum), (64, (ts.map (·.lateCc.toNat)).sum),
    (16, if done then b.rcount else 0), (48, 0)] ++
    (List.range 16).map (fun i => (64, if done then ((b.residue.drop i).headD 0).toNat else 0)) ++
    [(8, b.readmitted.getD 0xFF), (504, 0)] ++
    ts.flatMap (fun t => [(64, t.tcc.toNat), (32, t.late.toNat), (32, t.lateCc.toNat)])))

/-- Some memory request of job `j` has neither retired nor been dropped. -/
def State.requestsOpen (s : State) (j : Nat) (b : Job) : Bool :=
  s.mem.granules.any (fun g => s.ownerJob g.owner == some j) ||
    b.tables.any (fun t => !s.hasCause t causeFault && (s.tableCores t).any (fun x => !(s.core x.2).fills.isEmpty))

/-- The host port can still reach the job's host, or has given it up: its queue pair is ready, or its host-loss timer has
expired (R283). -/
def State.hostGone (s : State) (j : Nat) : Bool :=
  (s.qp (256 + j)).state == 2 && decide ((s.qp (256 + j)).errTick + 100000000 * s.recs.hostLoss ≤ s.beacon)

/-- The beacon has passed the bound of job `j` and its excluded intervals before its completion record (R34, R374): BOUND_VIOLATION, its
NOTICE frame, and the abort if the fault policy asks for it. -/
def State.passBound (s : State) (j : Nat) (b : Job) : State :=
  if b.state = .ended ∨ b.violated ∨ s.beacon ≤ b.stamp + b.bound + s.hostTime b + s.pausedTime b then s else
  let s := s.raise ⟨0x1201, clsContained, some j, none, none, b.bound⟩
  let s := s.send (.frame (BitVec.ofNat 24 (256 + j)) 0xC3 0 (BitVec.ofNat 8 j) 0 (natLe 8 0x1201 ++ natLe 8 s.beacon))
  let s := s.modJob j (fun b => { b with violated := true })
  if s.recs.boundAbort then s.abortJob j 0x1201 else s

/-- The STATUS with which the job can end now: 1 when every task has ended and the report is taken, 2 when its abort has
drained, 3 when it is paused and detaching. -/
def State.endStatus (s : State) (j : Nat) (b : Job) : Option Nat :=
  if ((s.qp (256 + j)).state ≠ 1 ∨ s.host.link = false) ∧ ¬ s.hostGone j then none else
  let still := !s.requestsOpen j b && (s.dmaStill j || s.hostGone j)
  if b.state = .aborting then (if still ∧ b.replied then some 2 else none)
  else if b.state = .paused ∧ b.detaching then some 3
  else if b.state = .running ∧ b.residueTaken ∧ b.slotDirty.isEmpty ∧ still then some 1
  else none

/-- The record on its way to the host: two RDMA WRITEs and, if asked for, a COMPLETION frame. -/
def State.sendRecord (s : State) (j : Nat) (b : Job) (record : List Byte) : State :=
  let q := BitVec.ofNat 24 (256 + j)
  let s := s.send (.write q b.body.cmplRkey (b.body.cmplAddr + 8) (record.drop 8))
  let s := s.send (.write q b.body.cmplRkey b.body.cmplAddr (record.take 8))
  if b.body.flags.getLsbD 3 then s.send (.frame q 0xC1 0 (BitVec.ofNat 8 j) 0 record) else s

/-- A send channel of a task that has ended: closed, its registers otherwise as the task left them. -/
def SndChan.close (c : SndChan) : SndChan := { c with cfg := c.cfg &&& ~~~0x1000000, held := false }

/-- Table `t` of a job that has ended: its channels closed and empty; a FAULT cause cleared unless the table is out of service; a
table with a failed core begins its repair. After the counter-residue report the counters are zero and SYN_FAULT and SYN_RESID
clear (R177, R366, R370). -/
def State.freeTable (reported : Bool) (s : State) (t : Nat) : State :=
  let s := s.modTable t (fun x => { x with
    job := none, pend := [], release := none
    snd := SMap.mapAll SndChan.reset x.snd (fun _ c => c.close), rcv := SMap.mapAll RcvChan.reset x.rcv (fun _ c => c.discard) })
  let s := if !reported then s else
    ((s.setCsr (synReg t 0x840) 0).setCsr (synReg t 0x844) 0).modTable t (fun x => { x with ctr := [], ctrInit := [] })
  let s := s.modTable t (fun x => { x with pause := x.pause &&& 0xFFF })
  if s.outOfService t then s else
  let s := if s.hasCause t causeFault then s.clearCause t causeFault else s
  if (s.table t).failed.isEmpty then s
  else s.setTblStat (s.logTable t) ((s.tblStat (s.logTable t) &&& 0x1FC) ||| 1)

/-- Every reservation of job `j` freed (R259, R32). -/
def State.freeReservations (s : State) (j : Nat) (b : Job) : State :=
  let s := { s with
    noc := { s.noc.discard b.tables with slots := SMap.setAll 0 s.noc.slots (b.claims.map (·, 0)) }
    fslots := SMap.setAll 0 s.fslots (b.cells.map (·, 0))
    ports := dropCells s.ports b.tables
    descs := SMap.setAll 0 s.descs (b.descMap.map (fun x => (1024 * x.1 + x.2.2, 0)))
    dma := s.dma.filter (fun kv => kv.2.job != some j)
    hctr := SMap.clearRange s.hctr (64 * j) (64 * j + 64) }
  let s := b.tables.foldl (State.freeTable b.residueTaken) s
  { s with host := { s.host with
    heldFrames := s.host.heldFrames.filter (fun x => !heldOn (256 + j) x.2)
    chans := s.host.chans.filter (fun kv => !b.tables.contains (kv.1 / 64))
    msgs := s.host.msgs.filter (fun m => m.job != j)
    qps := SMap.set QueuePair.reset s.host.qps (256 + j) QueuePair.reset } }

/-- Job `j` ends with STATUS `status`: the record is written, DETACH and ABORT frames are answered, and everything is freed. The context
area of an aborted job that was paused, and whose host has not detached, stays held (R259). -/
def State.endJob (s : State) (j : Nat) (b : Job) (status : Nat) : State :=
  let record := s.completionRecord j b status
  let s := if s.hostGone j then s else s.sendRecord j b record
  let s := (s.tell j b 0x05 []).tell j b 0x06 []
  (s.freeReservations j b).modJob j (fun b => { b with
    state := .ended, record := record, waiters := [], context := if status = 2 ∧ ¬ b.detaching then b.context else none })

/-- The completion record of job `j` is written, if the job can end. -/
def State.complete (s : State) (j : Nat) : State :=
  match s.job j with
  | none => s
  | some b => match s.endStatus j b with
    | some status => s.endJob j b status
    | none => s

/-- COMPLETION_RECORD (R275): a bound that has passed unreported is reported first (R34). -/
def execCompletionRecord (j : Nat) (s : State) : Host.Outcome State Fault Refusal :=
  .next (match s.job j with
    | none => s
    | some b => if (s.endStatus j b).isSome then (s.passBound j b).complete j else s)

/-- A submission in progress given up (R284, R356): nothing of its job is reserved and no byte of its image left. -/
def State.withdraw (s : State) (j : Nat) : State :=
  match s.job j with
  | none => s
  | some b =>
    let s := s.freeReservations j b
    let s := b.tables.foldl (fun acc t =>
      let acc := (acc.modTable t (fun _ => Table.reset)).setCsrs (spdReg t 4) [0]
      (acc.tableCores t).foldl (fun acc x => { acc with
        cores := SMap.set Core.reset acc.cores x.2 Core.reset
        csr := SMap.clearRange acc.csr (coreBase x.2) (coreBase x.2 + 0x40000) }) acc) s
    { s with
      jobs := SMap.set none s.jobs j none
      mem := (({ s.mem with
        shelf := b.tables.foldl (fun m t => SMap.clearRange m (shareBase t) (shareBase t + 0x0F000000)) s.mem.shelf }.zeroTier
          .hbm b.hbmBase (b.hbmBase + b.hbmSize)).zeroTier .hbm b.ctxBase (b.ctxBase + b.ctxSize)).zeroTier
          .ddr b.ddrBase (b.ddrBase + b.ddrSize) }

/-- What the admission unit has in progress, given up: the job that is being loaded is withdrawn. -/
def State.dropAdmission (s : State) : State :=
  let s := match s.adm.loading with
    | some (j, _) => s.withdraw j
    | none => s
  { s with adm := s.adm.idle }

/-! ### Re-admission (R260) -/

/-- Job `j` has ended by the failure of a core or a dealer, asked to be admitted again, and no table of it is in repair. -/
def State.readmitDue (s : State) (b : Job) : Bool :=
  b.state == .ended && b.body.flags.getLsbD 2 && (b.firstEvent == 0x2001 || b.firstEvent == 0x1001) &&
    b.tables.all (fun t => field (s.tblStat (s.logTable t)) 1 0 != 1)

/-- A dealer failure has taken a table of the job out of service, with no substitution: its re-admission is refused (R260). -/
def State.dealerGone (s : State) (b : Job) : Bool :=
  b.firstEvent == 0x1001 && b.tables.any (fun t => field (s.tblStat (s.logTable t)) 1 0 == 2)

/-- READMISSION (R260): a new admission from the held context record, or from the start. The image is fetched again, and the held context
area is given up. -/
def execReadmission (j : Nat) (inp : AdmissionInput) (s : State) : Host.Outcome State Fault Refusal :=
  .next (match s.job j with
    | none => s
    | some b =>
      if ¬ s.readmitDue b ∨ s.adm.current.isSome ∨ s.mgt.hold then s else
      let s := s.modJob j (fun b => { b with context := none, body := { b.body with flags := b.body.flags &&& 0xFFFFFFFB } })
      if s.dealerGone b then s.send (.frame 0x10 0x81 b.body.tag (BitVec.ofNat 8 j) rsAbsent []) else
      let s := s.send (.read 0x10 b.body.imgRkey b.body.imgAddr b.body.imgLen)
      match s.plan b.body inp.image (b.context.map s.openContext) with
      | .error code => s.send (.frame 0x10 0x81 b.body.tag (BitVec.ofNat 8 j) code [])
      | .ok pl => s.placeJob b.body (inp.image.getD []) pl (some (b.readmitted.getD j)))

end Sys2Proof.Machine
end

