-- ==== Sys2Proof/Machine/HostPort.lean ====
section
/-!
DEFINITION. The host port at work (R163, R172, R173, R262 to R268, R273, R276, R278, R282 to R284): SIGNAL, TASK_MSG and REBIND
frames, the counter slots, host RDMA and its access checks, congestion notification, retries, lanes and link, and queue pairs in
error.
-/
namespace Sys2Proof.Machine

/-! ### SIGNAL (R163, R173, R273) -/

/-- Counter and amount of a SIGNAL body after its form byte, if their values are allowed: the counter below 64 and the amount 1 to
2^24 - 1. -/
def readSignal (f : HostFrame) : Option (Nat × Nat) :=
  let n := rdLe f.body 0 1
  let a := rdLe f.body 3 4
  if f.body.length = 7 ∧ n < 64 ∧ 1 ≤ a ∧ a ≤ ctrMax then some (n, a) else none

/-- A SIGNAL frame for a counter declared with direction `dir`, 1 inbound or 2 outbound. -/
def State.signalFrame (s : State) (f : HostFrame) (dir : BitVec 2) (act : Nat → Nat → Nat → State) : State :=
  s.forJob 0x07 f (readSignal f).isSome (fun j b => match readSignal f with
    | none => s
    | some (n, a) => if SMap.get 0 b.ctrDir n ≠ dir then s.refuse 0x07 f stCounterUndeclared else act j n a)

/-- An increment of host counter `n` of job `j`, present for its tables from the first cycle after it. What every table of the job has
come to see is forgotten (R172). -/
def State.increment (s : State) (j n a : Nat) : State :=
  let tabs := ((s.job j).map (·.tables)).getD []
  let old := s.host.fresh.filter (fun x => decide (x.1 / 64 ≠ j) || tabs.any (fun t => decide (s.cycleBegan t ≤ x.2.2)))
  let s := s.setHostCounter j n (s.hostCounter j n + a)
  { s with host := { s.host with fresh := old ++ [(64 * j + n, a, s.now11)] } }

/-- The increment form (R163, R172). Every RDMA WRITE that the host posted before it has been placed, since commands are taken in
order. -/
def State.incrementFrame (s : State) (f : HostFrame) : State :=
  s.signalFrame f 1 (fun j n a =>
    if ctrMax < s.hostCounter j n + a then s.refuse 0x07 f stCounterFull else (s.increment j n a).silent 0x07 f)

/-- SIGNAL_INCREMENT (R172). -/
def execSignalIncrement (f : HostFrame) (s : State) : Host.Outcome State Fault Refusal :=
  .next (s.hostFrame (.signalIncrement f) 0x07 1 f (fun s => s.incrementFrame f))

/-- The consume form (R173). -/
def State.consumeFrame (s : State) (f : HostFrame) : State :=
  s.signalFrame f 2 (fun j n a =>
    if s.hostCounter j n < a then s.refuse 0x07 f stCounterShort
    else ((s.setHostCounter j n (s.hostCounter j n - a)).markSlot j n).silent 0x07 f)

/-- SIGNAL_CONSUME (R173). -/
def execSignalConsume (f : HostFrame) (s : State) : Host.Outcome State Fault Refusal :=
  .next (s.hostFrame (.signalConsume f) 0x07 1 f (fun s => s.consumeFrame f))

/-- The write of a slot comes behind a host-memory write that has not gone out yet. -/
def State.slotBehind (s : State) (j : Nat) (ws : List Granule) : Bool :=
  (s.hostWrites j).any (fun g => ws.any (fun w => w.owner == g.owner && w.dst == g.dst && w.src == g.src))

/-- COUNTER_SLOT_WRITE (R276): the counter's value and the number of writes to its slot, behind the data it announces. -/
def execCounterSlotWrite (j n : Nat) (s : State) : Host.Outcome State Fault Refusal :=
  .next (match s.job j with
    | none => s
    | some b => match b.slotDirty.find? (fun x => x.1 == n) with
      | none => s
      | some (_, ws) =>
        if s.slotBehind j ws then s else
        let k := SMap.get 0 b.slotWrites n + 1
        let s := s.modJob j (fun b => { b with
          slotDirty := b.slotDirty.filter (fun x => x.1 != n), slotWrites := SMap.set 0 b.slotWrites n k })
        s.send (.write (BitVec.ofNat 24 (256 + j)) b.body.ctrRkey (b.body.ctrAddr + BitVec.ofNat 64 (8 * n))
          (natLe 4 (s.hostCounter j n) ++ wordLe k)))

/-! ### TASK_MSG (R273) -/

/-- The table of the job that receives channel `n` from the host: the first in job-table order. -/
def State.hostChannel (s : State) (b : Job) (n : Nat) : Option Nat :=
  b.tables.find? (fun t => (SMap.get SndChan.reset s.host.chans (64 * t + n)).isOpen)

/-- `n` bytes at a time. -/
def chunks (n : Nat) (bs : List Byte) (k : Nat) : List (List Byte) :=
  (List.range k).map (fun i => (bs.drop (n * i)).take n)

/-- The layout of a TASK_MSG body: F of 1 to 16, parts of 1 to C, and the parts. -/
def taskMsgLayout (f : HostFrame) (cores : Nat) : Bool :=
  let fl := rdLe f.body 2 1
  let parts := rdLe f.body 3 1
  decide (1 ≤ fl) && decide (fl ≤ 16) && decide (1 ≤ parts) && decide (parts ≤ cores) && decide (rdLe f.body 1 1 < 64) &&
    f.body.length == 4 + parts * fl * 64

/-- A TASK_MSG frame: its parts wait on credit in the port behind the job's earlier messages. -/
def State.taskMsgFrame (s : State) (f : HostFrame) : State :=
  s.forJob 0x08 f (taskMsgLayout f s.fuses.cores) (fun j b =>
    let n := rdLe f.body 0 1
    let fl := rdLe f.body 2 1
    match s.hostChannel b n with
    | none => s.refuse 0x08 f stChannelUndeclared
    | some t =>
      if field (SMap.get SndChan.reset s.host.chans (64 * t + n)).cfg 21 18 < fl - 1 then s.refuse 0x08 f stMalformed else
      let parts := (chunks (64 * fl) (f.body.drop 4) (rdLe f.body 3 1)).zipIdx.map (fun x => (x.2, chunks 64 x.1 fl))
      let m : HostMsg := ⟨j, t, n, rdLe f.body 1 1, parts⟩
      (State.pumpHost { s with host := { s.host with msgs := s.host.msgs ++ [m] } }).silent 0x08 f)

/-- TASK_MSG (R273). -/
def execTaskMsg (f : HostFrame) (s : State) : Host.Outcome State Fault Refusal :=
  .next (s.hostFrame (.taskMsg f) 0x08 0 f (fun s => s.taskMsgFrame f))

/-! ### Queue pairs in error (R267, R283, R284) -/

/-- Queue pair `n` enters the error state. A job's raises HST_QP_ERROR and starts its host-loss timer; on the control queue pair
the replies still to go out are forgotten and a SUBMIT in progress is given up. -/
def State.qpError (s : State) (n : Nat) : State :=
  if (s.qp n).state ≠ 1 then s else
  let s := s.modQp n (fun q => { q with state := 2, errTick := s.beacon })
  if n = 16 then
    let s := State.dropAdmission { s with adm := { s.adm with waiting := [] } }
    s.modQp 16 (fun q => { q with kept := [], order := [] })
  else s.raise ⟨0x2503, clsNote, some (n - 256), none, none, (s.qp n).hqpn.toNat⟩

/-- HST_QP_ERROR (R283). -/
def execHstQpError (j : Nat) (s : State) : Host.Outcome State Fault Refusal := .next (if j < 64 then s.qpError (256 + j) else s)

/-- HOST_LOST (R283): the host-loss timer has expired. -/
def execHostLost (j : Nat) (s : State) : Host.Outcome State Fault Refusal :=
  .next (match s.job j with
    | none => s
    | some b =>
      if ¬ s.hostGone j ∨ b.state = .aborting ∨ b.state = .ended then s
      else (s.raise ⟨0x2505, clsContained, some j, none, none, (s.qp (256 + j)).hqpn.toNat⟩).abortJob j 0x2505)

/-- CONTROL_QP_RECOVERY (R284): ready again, with its initial PSNs, 1 s after the error. -/
def execControlQpRecovery (s : State) : Host.Outcome State Fault Refusal :=
  .next (if (s.qp 16).state = 2 ∧ (s.qp 16).errTick + 100000000 ≤ s.beacon then
      s.modQp 16 (fun q => { q with state := 1, retries := 0, retryTick := s.beacon, txBase := s.host.tx.length, kept := [], order := [] })
    else s)

/-- An operation that the transport keeps until it is acknowledged. -/
def HostTx.kept : HostTx → Bool
  | .frame .. | .write .. | .read .. => true
  | .response .. | .nakAccess _ | .nakInvalid _ | .rnrNak _ | .cnp _ | .retransmit _ => false

/-- The operations of queue pair `n` that its peer has not acknowledged: the last of those sent since it was connected, as many as a
free value says (assumption 61). -/
def State.unacked (s : State) (n : Nat) : List HostTx :=
  let sent := (s.host.tx.drop (s.qp n).txBase).filter (fun x => x.kept && x.qpn.toNat == n)
  sent.drop (sent.length - (Config.freeValue s.free).toNat % (sent.length + 1))

/-- A REBIND frame (R283): the job's queue pair is connected anew, what had not been acknowledged is sent again, and what was
kept follows. -/
def State.rebindFrame (s : State) (f : HostFrame) : State :=
  s.forJob 0x0A f (f.body.length == 8 && rdLe f.body 0 1 == f.job.toNat && rdLe f.body 7 1 == 0) (fun j _ =>
    if s.hostGone j then s.refuse 0x0A f stNoJob else
    let n := 256 + j
    let kept := s.unacked n ++ (s.qp n).kept
    let psn := (Config.freeValue (s.free + 1)).extractLsb' 0 24
    let s := { s with free := s.free + 2 }.modQp n (fun q => { q with
      state := 1, hqpn := BitVec.ofNat 24 (rdLe f.body 1 3), psn := BitVec.ofNat 24 (rdLe f.body 4 3), devPsn := psn
      retries := 0, retryTick := s.beacon, txBase := s.host.tx.length, kept := [] })
    let s := kept.foldl State.send s
    s.answer f.qpn 0x8A f.tag f.job 0 (natLe 4 psn.toNat))

/-- REBIND (R283). -/
def execRebind (f : HostFrame) (s : State) : Host.Outcome State Fault Refusal :=
  .next (s.hostFrame (.rebind f) 0x0A 0 f (fun s => s.rebindFrame f))

/-- The local ACK timeout of R267, 2^14 x 4.096 us, in ticks, rounded up. -/
def ackTimeout : Nat := 6710887

/-- LOCAL_ACK_TIMEOUT (R267): the device retransmits, and after 7 retries without an acknowledgement the queue pair is in error. The
timer has run its length since the queue pair was connected or last timed out. A timeout that comes more than four timeouts after the
last follows an acknowledgement (assumption 36). -/
def execLocalAckTimeout (qpn : BitVec 24) (s : State) : Host.Outcome State Fault Refusal :=
  .next (
    let n := qpn.toNat
    let q := s.qp n
    if q.state ≠ 1 ∨ s.beacon < q.retryTick + ackTimeout then s else
    let used := if q.retryTick + 4 * ackTimeout < s.beacon then 0 else q.retries
    if 7 ≤ used then s.qpError n
    else (s.modQp n (fun q => { q with retries := used + 1, retryTick := s.beacon })).send (.retransmit qpn))

/-- RNR_NAK (R267, R278): the host has no receive buffer; the device retries without limit. -/
def execRnrNak (qpn : BitVec 24) (s : State) : Host.Outcome State Fault Refusal :=
  .next (if (s.qp qpn.toNat).state = 1 ∧ s.host.link then s.send (.retransmit qpn) else s)

/-! ### Host RDMA (R268, R279) -/

/-- Where a host request to `n` bytes at `va` under `rkey` on queue pair `qpn` goes: the region of a job that is admitted, that
holds the rkey and whose queue pair it is. -/
def State.regionFor (s : State) (qpn : BitVec 24) (rkey : BitVec 32) (va n : Nat) : Option HostRegion :=
  let j := field rkey 31 24
  let i := field rkey 23 20
  match s.named (BitVec.ofNat 8 j) with
  | none => none
  | some b =>
    match b.regions[i]? with
    | none => none
    | some r =>
      if qpn.toNat = 256 + j ∧ rkey.toNat = rkeyOf j i b.admCount ∧ va + n ≤ r.len then some r else none

/-- A host request that R268 turns away: NAK Remote Access Error and HST_ACCESS; the job goes on. -/
def State.denyAccess (s : State) (qpn : BitVec 24) (rkey : BitVec 32) : State :=
  let n := qpn.toNat
  let j := if 256 ≤ n ∧ n < 320 then some (n - 256) else none
  (s.send (.nakAccess qpn)).raise ⟨0x2504, clsNote, j, none, none, rkey.toNat + n <<< 32⟩

/-- A host request to a granule that holds an uncorrectable error: MEM_UE, and the job, whose request it was, is aborted (R225).
No fault register names a host request. -/
def State.hostUe (s : State) (j : Nat) : State :=
  (s.raise ⟨0x2404, clsContained, some j, none, none, 0⟩).abortJob j 0x2404

/-- Bytes that the host writes into a region of job `j`. -/
def State.hostWrite (s : State) (j : Nat) (tier : Tier) (a : Nat) (bs : List Byte) : State :=
  let r := s.mem.putTier tier a bs
  let s := { s with mem := r.1 }
  if r.2.isSome then s.hostUe j else s

/-- Bytes of a region of job `j` as the host reads them. -/
def State.hostRead (s : State) (j : Nat) (tier : Tier) (a n : Nat) : List Byte × State :=
  (s.mem.tierBytes tier a n, if (unitsOf (tierUnit tier) a n).any (s.mem.isBad tier) then s.hostUe j else s)

/-- The record of a paused job, which its host reads out under the rkey behind those of its declared regions. DESIGN CHOICE
(assumption 60). -/
def State.readOutFor (s : State) (qpn : BitVec 24) (rkey : BitVec 32) (va n : Nat) : Option (List Byte) :=
  let j := field rkey 31 24
  let i := field rkey 23 20
  (s.job j).bind (fun b =>
    if qpn.toNat = 256 + j ∧ rkey.toNat = rkeyOf j i b.admCount ∧ i = b.regions.length ∧ ¬ b.readOut.isEmpty ∧
        va + n ≤ b.readOut.length then some ((b.readOut.drop va).take n) else none)

/-- HOST_RDMA_WRITE (R268). -/
def execHostRdmaWrite (qpn : BitVec 24) (rkey : BitVec 32) (va : BitVec 64) (data : List Byte) (s : State) :
    Host.Outcome State Fault Refusal :=
  .next (if !s.host.link then s else s.arrived qpn data.length (fun s =>
    match s.regionFor qpn rkey va.toNat data.length with
    | none => s.denyAccess qpn rkey
    | some r => s.hostWrite (field rkey 31 24) r.tier (r.base + va.toNat) data))

/-- HOST_RDMA_READ (R268). -/
def execHostRdmaRead (qpn : BitVec 24) (rkey : BitVec 32) (va : BitVec 64) (len : BitVec 32) (s : State) :
    Host.Outcome State Fault Refusal :=
  .next (if !s.host.link then s else s.arrived qpn 0 (fun s =>
    match s.regionFor qpn rkey va.toNat len.toNat, s.readOutFor qpn rkey va.toNat len.toNat with
    | some r, _ =>
      let x := s.hostRead (field rkey 31 24) r.tier (r.base + va.toNat) len.toNat
      x.2.send (.response qpn x.1)
    | none, some bs => s.send (.response qpn bs)
    | none, none => s.denyAccess qpn rkey))

/-- INVALID_REQUEST_NAK (R264): a refused operation on an open queue pair. -/
def execInvalidRequestNak (qpn : BitVec 24) (s : State) : Host.Outcome State Fault Refusal :=
  .next (if !s.host.link then s else s.arrived qpn 0 (fun s => (s.send (.nakInvalid qpn)).qpError qpn.toNat))

/-- HST_DROP (R264). -/
def execHstDrop (s : State) : Host.Outcome State Fault Refusal := .next (if s.host.link then s.dropPackets 1 else s)

/-! ### Congestion notification (R265) -/

/-- A send rate equal to the share. -/
def fullRate : Nat := 0x100000

/-- CNP_SEND (R265): at most one per 50 us per queue pair. -/
def execCnpSend (qpn : BitVec 24) (s : State) : Host.Outcome State Fault Refusal :=
  .next (
    let q := s.qp qpn.toNat
    if q.state = 1 ∧ s.host.link ∧ q.cnpTick.all (fun t => decide (t + 5000 ≤ s.beacon)) then
      (s.modQp qpn.toNat (fun q => { q with cnpTick := some s.beacon })).send (.cnp qpn)
    else s)

/-- CNP_RECEIVE (R265): the send rate is halved. -/
def execCnpReceive (qpn : BitVec 24) (s : State) : Host.Outcome State Fault Refusal :=
  .next (if !s.host.link then s else s.arrived qpn 0 (fun s =>
    s.modQp qpn.toNat (fun q => { q with rate := q.rate / 2, rateTick := s.beacon })))

/-- RATE_RECOVERY (R265): every 55 us, 1/16 of the share more, up to the share. -/
def execRateRecovery (qpn : BitVec 24) (s : State) : Host.Outcome State Fault Refusal :=
  .next (
    let q := s.qp qpn.toNat
    if q.state = 1 ∧ q.rate < fullRate ∧ q.rateTick + 5500 ≤ s.beacon then
      s.modQp qpn.toNat (fun q => { q with rate := min fullRate (q.rate + fullRate / 16), rateTick := s.beacon })
    else s)

/-! ### Lanes and link (R262, R282) -/

/-- Healthy lanes of the port. -/
def HostPort.healthy (h : HostPort) : Nat := popCount 8 h.lanes.toNat

/-- HST_LINK_DOWN (R282). -/
def execHstLinkDown (s : State) : Host.Outcome State Fault Refusal :=
  .next (if s.host.link then { s with host := { s.host with link := false } }.raiseDev 0x2501 clsNote 0 else s)

/-- The lanes that a retraining finds healthy: a port with fewer than four comes back when the board has replaced laser sources, and
which lanes that heals is a free value (R394, assumption 62). -/
def State.findLanes (s : State) : State :=
  if 4 ≤ s.host.healthy then s else
  { s with free := s.free + 1, host := { s.host with lanes := s.host.lanes ||| (Config.freeValue s.free).extractLsb' 0 8 } }

/-- What a ready queue pair kept while there was no link is sent, in its order (R282). -/
def State.sendKept (s : State) (n : Nat) : State :=
  if (s.qp n).state ≠ 1 ∨ (s.qp n).kept.isEmpty then s else
  (s.qp n).kept.foldl State.send (s.modQp n (fun q => { q with kept := [] }))

/-- HST_LINK_UP (R282): the port has retrained on at least four healthy lanes, and the traffic that waited goes out. -/
def execHstLinkUp (s : State) : Host.Outcome State Fault Refusal :=
  .next (
    if ¬ s.ready ∨ s.host.link then s else
    let s := s.findLanes
    if s.host.healthy < 4 then s else
    let s := { s with host := { s.host with link := true } }.raiseDev 0x2502 clsNote 0
    (s.host.qps.map (·.1)).foldl State.sendKept s)

/-- The port falls back to 800 Gb/s: every share is halved and the jobs that hold one are outside rating. -/
def State.halvePort (s : State) : State :=
  if s.host.mode then s else
  let s := { s with host := { s.host with mode := true } }
  let s := s.excursions 0x4401 (fun b => decide (0 < b.share))
  { s with jobs := SMap.mapAll none s.jobs (fun _ x => x.map (fun b => { b with share := b.share / 2 })) }

/-- A lane lost (R262): the port retrains on the four lowest-numbered healthy lanes, or its link stays down. -/
def State.loseHostLane (s : State) (lane : BitVec 3) (cause : BitVec 2) : State :=
  if ¬ s.host.lanes.getLsbD lane.toNat then s else
  let s := { s with host := { s.host with lanes := s.host.lanes &&& ~~~(1#8 <<< lane.toNat) } }
  let s := s.raiseDev 0x4401 clsDevice (lane.toNat + cause.toNat <<< 3)
  if 4 ≤ s.host.healthy then s.halvePort
  else if s.host.link then { s with host := { s.host with link := false } }.raiseDev 0x2501 clsNote 0
  else s

/-- HST_LANE_LOST (R262). -/
def execHstLaneLost (lane : BitVec 3) (cause : BitVec 2) (s : State) : Host.Outcome State Fault Refusal :=
  .next (s.loseHostLane lane cause)

end Sys2Proof.Machine
end

