-- ==== Sys2Proof/Machine/Fabric.lean ====
section
/-!
DEFINITION. Benrax Link (R286 to R310): cells and their check, what a port sends in a cell position, delivery in LSEQ order, replays
and the kitty, HOLD, routing and source checks, training, lost lanes, ports that go down, alignment cells and fabric time.
-/
namespace Sys2Proof.Machine

/-! ### Cells (R288) -/

/-- One step of the CRC-32 of IEEE 802.3, least significant bit first. -/
def crcBit (c : BitVec 32) : BitVec 32 := if c.getLsbD 0 then (c >>> 1) ^^^ 0xEDB88320 else c >>> 1

/-- The CRC-32 register after one byte. -/
def crcByte (c : BitVec 32) (b : Byte) : BitVec 32 :=
  (List.range 8).foldl (fun c _ => crcBit c) (c ^^^ b.zeroExtend 32)

/-- The CRC-32 of a byte string. -/
def crc32 (bs : List Byte) : BitVec 32 := ~~~(bs.foldl crcByte 0xFFFFFFFF)

/-- Bytes 0 to 83 of a cell: data, tag and the link header without its CRC. -/
def cellBytes (c : Cell) : List Byte :=
  (c.data ++ List.replicate 64 0).take 64 ++ natLe 8 c.tag.toNat ++
    natLe 12 (packBits [(2, c.ckind.toNat), (16, c.lseq.toNat), (16, c.lack.toNat), (1, b2n c.nak), (1, b2n c.hold),
      (12, c.ddev.toNat), (12, c.sdev.toNat), (4, 0), (32, c.nmask.toNat)])

/-- A cell with its CRC. -/
def sealCell (c : Cell) : Cell := { c with crc := crc32 (cellBytes c) }

/-- The CRC of a cell holds. -/
def cellOk (c : Cell) : Bool := c.crc == crc32 (cellBytes c)

/-! ### Ports and positions (R288, R289, R293) -/

/-- Region of the IO die on which a device port lies. -/
def portRegion (q : Nat) : Nat := ioRegion (portEdge q)

/-- Network cycle of a port. -/
def State.portNet (s : State) (q : Nat) : Nat := s.net (portRegion q)

/-- Cell positions of a round at `n` active lanes. -/
def State.roundCells (s : State) (n : Nat) : Nat := s.slots * n / 6

/-- The position in which port `q` sends next, counted from round 0: position `f` begins at network cycle 6 f / n. A position may be
taken up to eight positions after it began (assumption 37). -/
def State.portPos (s : State) (q : Nat) : Option Nat :=
  let p := s.port q
  let last := (p.nact.toNat * (s.portNet q + 1) - 1) / 6
  let pos := Nat.max p.position (last + 1 - 8)
  if p.state = 2 ∧ pos ≤ last ∧ ¬ s.stopped (portRegion q) then some pos else none

/-- The first position that begins in cycle `n` or later. -/
def Port.positionAt (p : Port) (n : Nat) : Nat := ceilDiv (p.nact.toNat * n) 6

/-- Cells that wait in the input buffer of port `q`: those held after a gap, those bound for this device's mesh whose slot has not
come, and those bound for another port (R298, R300, R302). -/
def State.inputCells (s : State) (q : Nat) : Nat :=
  let mesh := (s.noc.links.map (fun kv => (kv.2.filter (fun f => f.src == 0x4000 + q && decide (s.net f.dueReg + 16 < f.dueNet))).length)).sum
  let through := (s.ports.map (fun kv => (kv.2.outQ.filter (fun c => c.1 == 0x8000 + q || c.1 == 0x8010 + q)).length)).sum
  (s.port q).ahead.length + mesh + through

/-- HOLD as port `q` sends it (R302). -/
def State.holdNow (s : State) (q : Nat) : Bool :=
  let n := s.inputCells q
  if 24576 < n then true else if n < 16384 then false else (s.port q).holdOut

/-! ### What a position carries (R294, R301, R302, R304) -/

/-- What a port sends. -/
inductive CellChoice where
  | data (i : Nat)
  | replay (lseq : BitVec 16)
  | align
  | idle
  deriving DecidableEq, Repr

/-- A queued cell is of the source that the entry `e` of a port on the IO die of port `q` names. -/
def entryNames (q : Nat) (e : BitVec 16) (src : Nat) : Bool :=
  match field e 1 0 with
  | 2 => if field e 7 2 = 8 then decide (0x8010 ≤ src) else src == 0x8000 + 8 * (q / 8) + field e 7 2
  | 3 => src == 128 * field e 7 2 + 2 * field e 13 8 + field e 14 14
  | _ => false

/-- What port `q` sends in position `pos`. -/
def State.choose (s : State) (q pos : Nat) : CellChoice :=
  let p := s.port q
  let e := s.cellEntry q (pos % s.roundCells p.nact.toNat)
  let net := s.portNet q
  let may := !p.holdIn && decide (p.replayBuf.length < 16384)
  let data := if !may then none else
    (p.outQ.findIdx? (fun c => decide (c.2.1 ≤ net) && (p.degraded || entryNames q e c.1))).map CellChoice.data
  let replay := (p.replayDue.find? (fun d => decide (d.2 ≤ pos) && p.replayBuf.any (fun c => c.1.lseq == d.1))).map
    (fun d => CellChoice.replay d.1)
  let align := if p.alignDue then some CellChoice.align else none
  ((if p.degraded then replay.or data else data.or replay).or align).getD .idle

/-- The cells known lost that a NAK names: the one after LACK by NAK itself, and the 32 behind it by NMASK. -/
def Port.nmask (p : Port) : BitVec 32 :=
  BitVec.ofNat 32 (packBits ((List.range 32).map (fun i => (1, b2n (p.lost.contains (p.recvSeq + 2 + BitVec.ofNat 16 i))))))

/-- A cell as port `q` puts it on the link, with LACK, NAK and HOLD as they stand; a NAK is sent once. -/
def State.emit (s : State) (q pos : Nat) (c : Cell) : State :=
  let p := s.port q
  let hold := s.holdNow q
  let c := sealCell { c with lack := p.recvSeq, nak := p.nakDue, hold := hold, nmask := if p.nakDue then p.nmask else 0 }
  s.modPort q (fun p => { p with position := pos + 1, nakDue := false, holdOut := hold, sent := some c })

/-- A position that carries a data cell, which is kept until it is acknowledged (R300). -/
def State.sendData (s : State) (q pos i : Nat) : State :=
  match ((s.port q).outQ.drop i).head? with
  | none => s
  | some (_, _, c) =>
    let c := { c with ckind := 0, lseq := (s.port q).sendSeq }
    let net := s.portNet q
    (s.modPort q (fun p => { p with
      outQ := p.outQ.eraseIdx i, sendSeq := p.sendSeq + 1, replayBuf := p.replayBuf ++ [(c, net, 0)] })).emit q pos c

/-- The link sequence of a port starts anew from the cells that it keeps (R301): those it sends are numbered from 0 on, and those it holds
after a gap keep their distance from the first that is missing (assumption 63). -/
def Port.restart (p : Port) : Port :=
  let kept := p.replayBuf.zipIdx.map (fun x => ({ x.1.1 with lseq := BitVec.ofNat 16 x.2 }, x.1.2.1, 0))
  { p with state := 1, replayBuf := kept, replayDue := kept.map (fun c => (c.1.lseq, 0)), sendSeq := BitVec.ofNat 16 kept.length
           recvSeq := 0xFFFF, ahead := p.ahead.map (fun c => { c with lseq := c.lseq - (p.recvSeq + 1) }), lost := [], nakDue := false }

/-- A replay leaves in position `pos`: within the kitty no later than the first kitty position from `due` on, else beyond it.
The fifteenth replay of a cell makes the port retrain (R301). -/
def State.sendReplay (s : State) (q pos : Nat) (lseq : BitVec 16) : State :=
  match (s.port q).replayBuf.find? (fun c => c.1.lseq == lseq) with
  | none => s
  | some (c, _, n) =>
    let due := (((s.port q).replayDue.find? (fun d => d.1 == lseq)).map (·.2)).getD pos
    let kitty := due + (s.kint - 1 - due % s.kint)
    let round := pos / s.roundCells (s.port q).nact.toNat
    let net := s.portNet q
    let s := if pos ≤ kitty then s.countPort q 3 1 else
      let first := (s.port q).koutRound != some round
      let s := (s.countPort q 4 1).modPort q (fun p => { p with koutRound := some round })
      if first then s.raiseDev 0x2601 clsCorrected q else s
    let s := s.modPort q (fun p => { p with
      replayDue := p.replayDue.filter (fun d => d.1 != lseq)
      replayBuf := p.replayBuf.map (fun x => if x.1.lseq == lseq then (x.1, net, n + 1) else x) })
    let s := s.emit q pos { c with ckind := 3 }
    if n + 1 = 15 then s.modPort q Port.restart else s

/-- Data bytes of an alignment cell (R306). -/
def State.alignData (s : State) (q : Nat) : List Byte :=
  let now := est16 s.now11
  let p := s.port q
  natLe 8 now ++ wordLe s.pon ++ natLe 8 s.fabricTime ++ natLe 2 s.recs.fabric.addr.toNat ++ natLe 1 q ++ natLe 1 s.ftime.hops.toNat ++
    natLe 2 s.ftime.leader.toNat ++ wordLe s.ftime.pon ++ natLe 2 0 ++ natLe 8 p.lastAlign ++ natLe 8 (if p.lastAlign = 0 then 0 else now - p.alignTick) ++
    List.replicate 16 0

/-- A cell without data. -/
def blankCell (kind : BitVec 2) (data : List Byte) : Cell := ⟨data, 0, kind, 0, 0, false, false, 0, 0, 0, 0⟩

/-- Port `q` sends in position `pos` what `ch` says. -/
def State.sendCell (s : State) (q pos : Nat) (ch : CellChoice) : State :=
  match ch with
  | .data i => s.sendData q pos i
  | .replay l => s.sendReplay q pos l
  | .align => (s.modPort q (fun p => { p with alignDue := false })).emit q pos (blankCell 2 (s.alignData q))
  | .idle => s.emit q pos (blankCell 1 (List.replicate 64 0))

/-- The next position of port `q`, if what it carries is as `p` asks. -/
def State.sendIf (s : State) (q : Nat) (p : CellChoice → Bool) : State :=
  match s.portPos q with
  | none => s
  | some pos => if q < 16 ∧ p (s.choose q pos) then s.sendCell q pos (s.choose q pos) else s

/-- CELL_TRANSMIT (R294). -/
def execCellTransmit (port : Nat) (s : State) : Host.Outcome State Fault Refusal := .next (s.sendIf port (fun _ => true))

/-- REPLAY (R301): the next position carries a replay. -/
def execReplay (port : Nat) (s : State) : Host.Outcome State Fault Refusal :=
  .next (s.sendIf port (fun c => match c with
    | .replay _ => true
    | _ => false))

/-- ALIGNMENT_CELL_SEND (R306): the next position carries the alignment cell of the last beacon pulse. -/
def execAlignmentCellSend (port : Nat) (s : State) : Host.Outcome State Fault Refusal := .next (s.sendIf port (· == .align))

/-- REPLAY_TIMEOUT (R301): a cell unacknowledged for 2 × DPLAT + 64 network cycles is to be replayed. -/
def execReplayTimeout (port : Nat) (lseq : BitVec 16) (s : State) : Host.Outcome State Fault Refusal :=
  .next (
    let p := s.port port
    let dplat := (SMap.get (false, 0, 0, 0) s.recs.fabric.ports port).2.2.2.toNat
    let net := s.portNet port
    match p.replayBuf.find? (fun c => c.1.lseq == lseq) with
    | none => s
    | some (_, t, _) =>
      if p.state = 2 ∧ t + 2 * dplat + 64 ≤ net ∧ ¬ p.replayDue.any (fun d => d.1 == lseq) then
        s.modPort port (fun p => { p with replayDue := p.replayDue ++ [(lseq, p.positionAt net)] })
      else s)

/-! ### Fabric time (R306, R307) -/

/-- The rank of an address among the leader candidates of the record. -/
def State.leadRank (s : State) (a : BitVec 12) : Option Nat := s.recs.fabric.lead.findIdx? (fun x => x == a.zeroExtend 16)

/-- Fabric time without a leader elsewhere: this device leads if it is a candidate, and otherwise fabric time is invalid. -/
def State.leadAlone (s : State) : State :=
  if (s.leadRank s.recs.fabric.addr).isSome then
    { s with ftime := { time := 0, leader := s.recs.fabric.addr, hops := 0, valid := true, pon := s.pon, via := s.recs.fabric.addr } }
  else { s with ftime := { time := BitVec.ofNat 64 s.fabricTime, leader := 0xFFF, hops := 0xF, valid := false, pon := 0, via := 0xFFF } }

/-- A way to a leader is better: an earlier candidate, then fewer hops, then the lower neighbour address. -/
def betterWay (a b : Nat × Nat × Nat) : Bool :=
  decide (a.1 < b.1) || (a.1 == b.1 && (decide (a.2.1 < b.2.1) || (a.2.1 == b.2.1 && decide (a.2.2 < b.2.2))))

/-- What an alignment cell of neighbour `nb` says of the leader, taken if it is the way in use or a better one. -/
def State.hearLeader (s : State) (q : Nat) (bs : List Byte) : State :=
  let nb := BitVec.ofNat 12 (rdLe bs 20 2)
  let hops := rdLe bs 23 1 + 1
  let leader := BitVec.ofNat 12 (rdLe bs 24 2)
  let now := est16 s.now11
  let f : FabricTime :=
    { time := BitVec.ofNat 64 (rdLe bs 12 8 + (s.port q).plat.toNat * 32 / 33) - BitVec.ofNat 64 now
      leader := leader, hops := BitVec.ofNat 4 hops, valid := true, pon := BitVec.ofNat 32 (rdLe bs 26 4), via := nb }
  let own := s.leadRank s.recs.fabric.addr
  let mine := s.ftime.valid && s.ftime.via == nb && s.ftime.hops != 0
  match s.leadRank leader with
  | none => if mine then s.leadAlone else s
  | some r =>
    if 14 < hops ∨ own.any (fun o => decide (o ≤ r)) then (if mine then s.leadAlone else s)
    else if mine ∨ ¬ s.ftime.valid ∨
        betterWay (r, hops, nb.toNat) ((s.leadRank s.ftime.leader).getD 4, s.ftime.hops.toNat, s.ftime.via.toNat) then
      { s with ftime := f }
    else s

/-- An alignment cell arrives (R306): PLAT becomes half of the round trip less the neighbour's hold time, in network cycles, and
its departure stamp is kept for the next one sent. -/
def State.hearAlign (s : State) (q : Nat) (bs : List Byte) : State :=
  let now := est16 s.now11
  let echo := rdLe bs 32 8
  let s := s.modPort q (fun p => { p with
    plat := if echo = 0 then p.plat else BitVec.ofNat 16 ((now - echo - rdLe bs 40 8) * 33 / 64)
    lastAlign := rdLe bs 0 8, alignTick := now })
  s.hearLeader q bs

/-! ### Delivery (R288, R291, R292, R297, R298) -/

/-- A cell discarded and counted, with BXL_REJECT; `kind` is 0 for unroutable and 1 for an undeclared source. -/
def State.reject (s : State) (q kind : Nat) (c : Cell) : State :=
  (s.countPort q 6 1).raiseDev 0x2603 clsNote
    (q + c.sdev.toNat <<< 4 + c.ddev.toNat <<< 16 + kind <<< 28)

/-- A receive channel, or for credit a send channel, of table `t` is fed by the device that sent the cell. The tag carries neither
the source table nor the send channel (assumption 38). -/
def State.declaredSource (s : State) (t : Nat) (c : Cell) : Bool :=
  let n := field c.tag 13 8
  (s.table t).job.isSome &&
  if field c.tag 1 0 = 2 then (s.snd t n).xdev && (s.snd t n).ddev == c.sdev.toNat
  else (s.rcv t n).xdev && (s.rcv t n).sdev == c.sdev.toNat

/-- A cell late for its planned inbound slot is counted, and reported once per round. The plan of the sending device is not
known here: whether the cell is late is a free value (assumption 39). -/
def State.judgeLate (s : State) (q : Nat) : State :=
  let r := s.takeFree
  let s := r.2
  let round := s.portNet q / s.slots
  if !(Config.freeValue r.1).getLsbD 0 then s else
  let first := (s.port q).lateRound != some round
  let s := (s.countPort q 5 1).modPort q (fun p => { p with lateRound := some round })
  if first then s.raiseDev 0x2602 clsCorrected q else s

/-- A cell for this device crosses the fabric router in 8 network cycles (R290) and enters the mesh for its table, whose logical number the
tag holds. -/
def State.deliverHere (s : State) (q : Nat) (c : Cell) : State :=
  let t := s.physTable (field c.tag 7 2)
  if !s.declaredSource t c then s.reject q 1 c else
  let n := field c.tag 13 8
  let tag := BitVec.ofNat 64 (c.tag.toNat - field c.tag 7 2 <<< 2 + t <<< 2)
  let s := s.judgeLate q
  s.enterMesh (portEdge q) t (if field c.tag 1 0 = 2 then 64 + n else n) 8 ⟨tag, c.data, 0, 0, 0, 0x4000 + q, none, none⟩

/-- The first network cycle from `n` on in which the transit link towards the IO die of row `edge` can bring another cell: it carries six in
each (R290). Cells are ordered by the cycle in which they can leave their port. -/
def State.transitCycle (s : State) (edge n : Nat) : Nat :=
  let ready := s.ports.flatMap (fun kv =>
    if portEdge kv.1 = edge then (kv.2.outQ.filter (fun c => decide (0x8010 ≤ c.1))).map (·.2.1) else [])
  n + ((List.range (ready.length + 1)).find? (fun i => decide (ready.count (n + i) < 6))).getD 0

/-- A data cell delivered to the fabric router (R290, R291): this device, another port, or nowhere. -/
def State.routeCell (s : State) (q : Nat) (c : Cell) : State :=
  let out := s.routePort c.ddev.toNat
  if c.ddev = s.recs.fabric.addr ∨ out = 0x10 then s.deliverHere q c
  else if 16 ≤ out then s.reject q 0 c
  else
    let cross := portEdge out != portEdge q
    let ready := if cross then s.transitCycle (portEdge out) (s.portNet out + 32) else s.portNet out + 8
    if (s.port out).discard then s.countPort out 6 1
    else s.modPort out (fun p => { p with outQ := p.outQ ++ [((if cross then 0x8010 else 0x8000) + q, ready, c)] })

/-- Cells held after a gap are delivered as far as they follow on one another. -/
def State.drainAhead (s : State) (q : Nat) : Nat → State
  | 0 => s
  | fuel + 1 =>
    let p := s.port q
    match p.ahead.find? (fun c => c.lseq == p.recvSeq + 1) with
    | none => s
    | some c =>
      let s := s.modPort q (fun p => { p with recvSeq := p.recvSeq + 1, ahead := p.ahead.filter (fun x => x.lseq != c.lseq) })
      (s.routeCell q c).drainAhead q fuel

/-- The sequence numbers missing below the highest that has come. -/
def Port.missing (p : Port) : List (BitVec 16) :=
  let top := (p.ahead.map (fun c => (c.lseq - p.recvSeq).toNat)).foldl Nat.max 0
  ((List.range top).map (fun i => p.recvSeq + 1 + BitVec.ofNat 16 i)).filter (fun l => !p.ahead.any (fun c => c.lseq == l))

/-- A data cell or a replay in its place in the sequence (R300): one seen before is dropped, the next is delivered with what
follows it, one after a gap is held and the gap is to be named. -/
def State.takeCell (s : State) (q : Nat) (c : Cell) : State :=
  let p := s.port q
  let d := (c.lseq - p.recvSeq).toNat
  if d = 0 ∨ 0x8000 ≤ d ∨ p.ahead.any (fun x => x.lseq == c.lseq) then s else
  let s := s.modPort q (fun p => { p with ahead := p.ahead ++ [c] })
  let s := s.drainAhead q (p.ahead.length + 1)
  let lost := (s.port q).missing
  let fresh := lost.any (fun l => !p.lost.contains l)
  s.modPort q (fun p => { p with lost := lost, nakDue := p.nakDue || fresh })

/-- What every good cell carries for the other direction: acknowledged cells are kept no longer, named ones are to be replayed
from the first position that begins 4 network cycles on, and HOLD (R300 to R302). -/
def State.takeLink (s : State) (q : Nat) (c : Cell) : State :=
  let net := s.portNet q
  let named := if !c.nak then [] else
    (c.lack + 1) :: ((List.range 32).filter (fun i => c.nmask.getLsbD i)).map (fun i => c.lack + 2 + BitVec.ofNat 16 i)
  s.modPort q (fun p =>
    let buf := p.replayBuf.filter (fun x => decide (0 < (x.1.lseq - c.lack).toNat) && decide ((x.1.lseq - c.lack).toNat < 0x8000))
    let due := p.replayDue.filter (fun d => buf.any (fun x => x.1.lseq == d.1))
    let fresh := named.filter (fun l => buf.any (fun x => x.1.lseq == l) && !due.any (fun d => d.1 == l))
    { p with replayBuf := buf, holdIn := c.hold, replayDue := due ++ fresh.map (fun l => (l, p.positionAt (net + 4))) })

/-- A cell of a port that is up: one in an uncorrectable codeword, or whose CRC fails, is lost. -/
def State.receiveCell (s : State) (q : Nat) (c : Cell) (fecOk : Bool) : State :=
  if (s.port q).state ≠ 2 ∨ !fecOk ∨ !cellOk c then s else
  let s := s.takeLink q c
  match c.ckind.toNat with
  | 1 => s
  | 2 => s.hearAlign q c.data
  | _ => s.takeCell q c

/-- CELL_RECEIVE (R300). -/
def execCellReceive (port : Nat) (c : Cell) (fecOk : Bool) (s : State) : Host.Outcome State Fault Refusal :=
  .next (if port < 16 then s.receiveCell port c fecOk else s)

/-- ALIGNMENT_CELL_RECEIVE (R307). -/
def execAlignmentCellReceive (port : Nat) (c : Cell) (s : State) : Host.Outcome State Fault Refusal :=
  .next (if port < 16 ∧ c.ckind = 2 then s.receiveCell port c true else s)

/-! ### Training and lanes (R303 to R305) -/

/-- Job `b` holds an entry on port `q`. -/
def Job.onPort (q : Nat) (b : Job) : Bool := b.cells.any (fun k => k / 8192 == q)

/-- A port goes down: a condition outside rating for every job that uses it (R33, R34). Fabric time that came through it is lost. -/
def State.portDown (s : State) (q : Nat) : State :=
  let s := s.modPort q (fun p => { p with state := 3, downTick := s.beacon, returning := false })
  let s := (s.raiseDev 0x2604 clsDevice q).excursions 0x2604 (Job.onPort q)
  if s.ftime.valid ∧ s.ftime.hops ≠ 0 ∧ s.ftime.via = (s.port q).nbr.extractLsb' 0 12 then s.leadAlone else s

/-- A port runs on the lanes that are healthy: its 8, or 8 with the spare in a lost lane's place, or 4 to 7, or none. One that has retrained
to its configured lanes after a loss raises BXL_PORT_UP (R304). -/
def State.runLanes (s : State) (q : Nat) : State :=
  let n := popCount 9 (s.port q).lanes.toNat
  let base := popCount 8 (s.port q).lanes.toNat
  let net := s.portNet q
  let up (p : Port) (k : BitVec 4) : Port :=
    let p := { p with state := 2, nact := k, discard := false }
    { p with position := p.positionAt net }
  if 8 ≤ n then
    let back := (s.port q).returning
    let s := s.modPort q (fun p => { up p 8 with spared := base != 8, degraded := false, returning := false })
    if back then s.raiseDev 0x2605 clsNote q else s
  else if 4 ≤ n then
    let s := s.modPort q (fun p => { up p (BitVec.ofNat 4 n) with spared := false, degraded := true, returning := false })
    let s := s.raiseDev 0x4403 clsDevice (q + n <<< 4)
    s.excursions 0x4403 (Job.onPort q)
  else s.portDown q

/-- PORT_TRAINING (R303): a port in training checks its neighbour and its latency, and comes up on its healthy lanes. -/
def execPortTraining (port : Nat) (tr : TrainingResult) (s : State) : Host.Outcome State Fault Refusal :=
  .next (
    let r := SMap.get (false, 0, 0, 0) s.recs.fabric.ports port
    if 16 ≤ port ∨ (s.port port).state ≠ 1 then s else
    let s := s.modPort port (fun p => { p with nbr := tr.nport ++ tr.naddr, plat := tr.plat, lanes := tr.lanes })
    let hold (s : State) : State := (s.modPort port (fun p => { p with heldDown := true })).portDown port
    if tr.naddr ≠ r.2.1 ∨ tr.nport ≠ r.2.2.1 then
      hold (s.raiseDev 0x4404 clsDevice (port + tr.naddr.toNat <<< 4 + tr.nport.toNat <<< 16))
    else if r.2.2.2 < tr.plat then hold (s.raiseDev 0x4405 clsDevice (port + tr.plat.toNat <<< 16))
    else s.runLanes port)

/-- BXL_LANE_LOST (R304): the spare is taken and the port retrains, or the port goes on with what is left. -/
def execBxlLaneLost (port : Nat) (lane : BitVec 4) (cause : BitVec 2) (s : State) : Host.Outcome State Fault Refusal :=
  .next (
    let p := s.port port
    if 16 ≤ port ∨ p.state = 0 ∨ p.heldDown ∨ 9 ≤ lane.toNat ∨ ¬ p.lanes.getLsbD lane.toNat then s else
    let spare := lane.toNat < 8 ∧ p.lanes = 0x1FF ∧ ¬ p.spared
    let s := s.modPort port (fun p => { p with lanes := p.lanes &&& ~~~(1#9 <<< lane.toNat) })
    let s := s.raiseDev 0x4402 (if spare then clsCorrected else clsDevice)
      (port + lane.toNat <<< 4 + cause.toNat <<< 8 + (if spare then 1 <<< 10 else 0))
    if p.state ≠ 2 then s
    else if spare then s.modPort port (fun p => { p with state := 1, spared := true })
    else if lane.toNat = 8 ∧ ¬ p.spared ∧ ¬ p.degraded then s
    else s.runLanes port)

/-- BXL_PORT_UP (R304): the lost lanes have stayed healthy; the port retrains to its configured lanes, and says so once it is up. -/
def execBxlPortUp (port : Nat) (s : State) : Host.Outcome State Fault Refusal :=
  .next (
    let p := s.port port
    if 16 ≤ port ∨ p.heldDown ∨ p.state = 0 ∨ p.state = 1 ∨ p.lanes = 0x1FF then s else
    s.modPort port (fun p => { p with state := 1, lanes := 0x1FF, returning := true }))

/-- BXL_DISCARD (R305): the port-down timeout has expired. -/
def execBxlDiscard (port : Nat) (s : State) : Host.Outcome State Fault Refusal :=
  .next (
    let p := s.port port
    if 16 ≤ port ∨ p.state ≠ 3 ∨ p.discard ∨ s.beacon < p.downTick + 100000 * s.recs.portDown then s else
    let s := (s.countPort port 6 p.outQ.length).modPort port (fun p => { p with outQ := [], discard := true })
    s.raiseDev 0x2606 clsDevice port)

end Sys2Proof.Machine
end

