-- ==== Sys2Proof/Machine/Clocks.lean ====
section
/-!
DEFINITION. Clock regions, the snuffer and the beacon (R186, R314 to R329): pulses, dimmer steps, thermal holds and their budget,
temperature samples and trips, restarts, and the loss and return of the reference.
-/
namespace Sys2Proof.Machine

/-- BEACON_PULSE (R325): at every multiple of 100 ticks. Beacon estimates follow the master count exactly in this model, and every
enabled port has an alignment cell to send (R306). -/
def execBeaconPulse (s : State) : Host.Outcome State Fault Refusal :=
  .next (if s.beacon % 100 ≠ 0 ∨ ¬ s.running then s else
    { s with ports := SMap.mapAll Port.reset s.ports (fun _ p => if p.state = 0 then p else { p with alignDue := true }) })

/-! ### Dimmer steps (R317, R318) -/

/-- Why the snuffer refuses a step (R317, R362): the region, a code that names no step, a step not permitted, one that is not the
pin step, or holdover. -/
def State.stepRefusal (s : State) (r : Nat) (tgt : BitVec 3) : Option Nat :=
  if 72 ≤ r then some 0
  else if 6 ≤ tgt.toNat then some 2
  else if ¬ s.recs.permit.getLsbD tgt.toNat then some 1
  else if s.recs.scope ≠ 0 ∧ tgt ≠ s.recs.pin then some 3
  else if s.pins.holdover then some 4
  else none

/-- A change of region `r` to step `tgt` begins: STEP is set, and its stop takes effect at the end of the region's cycle, or at
once where the region is stopped already. -/
def State.beginStep (s : State) (r : Nat) (tgt : BitVec 3) : State :=
  let s := s.setCause r causeStep
  s.modRegion r (fun g => { g with changing := true, goal := tgt, budgetWin := none, stepFrom := Nat.max s.now11 (g.stopAt.getD s.now11) })

/-- The change to a step that TGT names and that could not begin when it was written: once the region runs, outside HOLDOVER and
arbitration holds (R318, R329, R356). -/
def State.startDeferred (s : State) (r : Nat) : State :=
  let g := s.region r
  if 72 ≤ r ∨ g.changing ∨ g.reached ∨ g.tgt = g.step ∨ s.stopped r ∨ s.pins.holdover ∨ s.mgt.hold then s else s.beginStep r g.tgt

/-- STEP_CHANGE (R317, R318): a write of TGT. During a change, and until the region has run at the step that a change reached, it is
taken up after the region has run again; during an arbitration hold, when none starts (R356), after the hold. -/
def execStepChange (r : Nat) (tgt : BitVec 3) (s : State) : Host.Outcome State Fault Refusal :=
  .next (if 82 ≤ r ∨ ¬ s.ready then s else
    match s.stepRefusal r tgt with
    | some cause =>
      ({ s with stepsRef := satIncr s.stepsRef }.mark stepsRefReg (s.marked stepsRefReg + 1)).raise ⟨0x3104, clsNote, none, some r, none, r + tgt.toNat <<< 7 + cause <<< 10⟩
    | none =>
      let s := s.modRegion r (fun g => { g with tgt := tgt })
      if s.mgt.hold ∨ (s.region r).changing ∨ (s.region r).reached ∨ (s.region r).step = tgt then s else s.beginStep r tgt)

/-- DIMMER_STEP (R318): at the first reference edge 150 ticks or more after the STEP stop took effect. In HOLDOVER there is no edge, and the
synthesisers hold their frequency (R329). -/
def execDimmerStep (r : Nat) (s : State) : Host.Outcome State Fault Refusal :=
  .next (
    let g := s.region r
    if 72 ≤ r ∨ ¬ g.changing ∨ s.pins.holdover ∨ 11 * s.beacon < g.stepFrom + 1650 then s else
    let s := s.modRegion r (fun g => { g with
      step := g.goal, changing := false, reached := true, steps := if g.steps = 0xFFFF then g.steps else g.steps + 1 })
    (s.clearCause r causeStep).raise ⟨0x3101, clsCorrected, none, some r, none, r + g.step.toNat <<< 7 + g.goal.toNat <<< 10⟩)

/-! ### Thermal holds (R320 to R323) -/

/-- THERMAL_HOLD (R321): a write of a hold length; one made during a hold replaces what remains of it. -/
def execThermalHold (r : Nat) (us : BitVec 16) (s : State) : Host.Outcome State Fault Refusal :=
  .next (if 72 ≤ r ∨ us = 0 ∨ ¬ s.ready then s else
    let n := min us.toNat 1000
    let fresh := ¬ s.hasCause r causeHold
    let s := if fresh then s.setCause r causeHold else s
    let s := s.modRegion r (fun g => { g with holdEnd := s.now11 + 1100 * n })
    if fresh then s.raise ⟨0x4101, clsCorrected, none, some r, none, r + (s.region r).temp.toNat <<< 7 + n <<< 15⟩ else s)

/-- HOLD_END (R321). -/
def execHoldEnd (r : Nat) (s : State) : Host.Outcome State Fault Refusal :=
  .next (if s.hasCause r causeHold ∧ (s.region r).holdEnd ≤ s.now11 then s.clearCause r causeHold else s)

/-- The hold budget of a window in ticks (R322). -/
def State.holdBudget (s : State) : Nat := 100 * s.recs.allow

/-- HOLD_BUDGET (R322): the budget of the window is spent. A hold is cut short; a step change runs on, and is
reported once. -/
def execHoldBudget (r : Nat) (s : State) : Host.Outcome State Fault Refusal :=
  .next (
    let g := s.region r
    let ev (k : Nat) (s : State) : State := s.raise ⟨0x3102, clsNote, none, some r, none, r + k <<< 7⟩
    if 72 ≤ r ∨ g.heldNow s.beacon < s.holdBudget then s
    else if g.cause.getLsbD 1 then ev 0 (s.clearCause r causeHold)
    else if g.cause.getLsbD 0 ∧ g.budgetWin.isNone then
      ev 1 (s.modRegion r (fun g => { g with budgetWin := some (s.beacon / 100000) }))
    else s)

/-- Job `b` has a task or a flow in region `r`. -/
def Job.inRegion (b : Job) (r : Nat) : Bool :=
  if r < 64 then b.tables.contains r else b.claims.any (fun k => k / 6144 / 6 / 8 + 64 == r)

/-- One sample of region `r` (R320, R323). -/
def State.sample (s : State) (r : Nat) (temp : BitVec 8) : State :=
  let s := s.modRegion r (fun g => { g with temp := temp })
  let trip := s.hasCause r causeTrip
  if s.recs.ttrip ≤ temp.toNat ∧ ¬ trip then
    let s := (s.setCause r causeTrip).raise ⟨0x4102, clsContained, none, some r, none, r + temp.toNat <<< 7⟩
    s.excursions 0x4102 (·.inRegion r)
  else if temp.toNat + 5 < s.recs.ttrip ∧ trip then s.clearCause r causeTrip
  else s

/-- TEMPERATURE_SAMPLE (R320): every sensor, at a multiple of 1,000 ticks. -/
def execTemperatureSample (temps : List (BitVec 8)) (s : State) : Host.Outcome State Fault Refusal :=
  .next (if s.beacon % 1000 ≠ 0 ∨ ¬ s.running then s else (temps.take 72).zipIdx.foldl (fun acc x => acc.sample x.2 x.1) s)

/-! ### Restart (R186, R314, R315) -/

/-- The slot count of a die network region as if it had not stopped, from the round origin on, under SAME_PART and FLEET. -/
def State.realign (s : State) (r : Nat) : State :=
  if s.recs.scope = 0 ∨ r < 64 ∨ 72 ≤ r then s else
  let u := (s.now11 - 11 * s.round0) * s.multiple r
  s.modRegion r (fun g => { g with net := u / 440000, nfrac := u % 440000 })

/-- A region begins its first cycle after a stop. -/
def State.restart (s : State) (r : Nat) : State :=
  let g := s.region r
  let c := s.cyc r
  let ticks := (s.now11 - g.stopAt.getD s.now11) / 11
  let s := if r < 64 then s.endCycle r c else s
  let s := s.modRegion r (fun g => { g with
    stopAt := none, cyc := g.cyc + 1, frac := 0, net := g.net + 1, nfrac := 0, since := s.now11
    total := satAdd g.total ticks, timersHeld := [], reached := false })
  let s := s.realign r
  let s := if r < 64 then s.beginCycle r (c + 1) else s
  let blk := if r < 72 then r - 64 else r - 72
  let s := if r < 64 then s else g.timersHeld.foldl (fun acc n => acc.fireTimer blk n) s
  s.startDeferred r

/-- REGION_RESTART (R314): no stop cause is set any more. -/
def execRegionRestart (r : Nat) (s : State) : Host.Outcome State Fault Refusal :=
  .next (if (s.region r).cause = 0 ∧ (s.region r).stopAt.any (fun b => decide (b ≤ s.now11)) then s.restart r else s)

/-! ### The reference clock (R329) -/

/-- REFCLK_LOST (R329): the synthesisers hold their frequency. -/
def execRefclkLost (s : State) : Host.Outcome State Fault Refusal :=
  .next (if s.pins.holdover ∨ ¬ s.running then s else
    let s := { s with pins := { s.pins with refPresent := false, holdover := true } }
    (s.raiseDev 0x4501 clsContained 0).excursions 0x4501 (fun _ => true))

/-- Every step change that could not begin when TGT was written, if it can now. -/
def State.startAllDeferred (s : State) : State := (List.range 72).foldl State.startDeferred s

/-- REFCLK_BACK (R329). -/
def execRefclkBack (s : State) : Host.Outcome State Fault Refusal :=
  .next (if ¬ s.pins.holdover ∨ ¬ s.running then s else
    ({ s with pins := { s.pins with refPresent := true, holdover := false } }.raiseDev 0x4502 clsNote 0).startAllDeferred)

end Sys2Proof.Machine
end

