-- ==== Sys2Proof/Machine/Faults.lean ====
section
/-!
DEFINITION. Failed cores and dealers, spare substitution, bound violations and the event log's reader (R34, R260, R364, R366 to
R370, R374).
-/
namespace Sys2Proof.Machine

/-! ### Fault containment (R366) -/

/-- A place lies in physical table `t`. -/
def Place.inTable (t : Nat) : Place → Bool
  | .spd k _ => k / 34 == t
  | .shelf a => decide (shareBase t ≤ a) && decide (a < shareBase t + 0x0F000000)
  | _ => false

/-- A granule that a queue of table `t` asked for, or that reads or writes its memories. -/
def Granule.bound (t : Nat) (g : Granule) : Bool :=
  (match g.owner with
    | .queue u _ _ _ => u == t
    | .dma .. => false) || g.src.inTable t || g.dst.inTable t

/-- FAULT set for the region of table `t`: every fill, landing and granule bound for it is dropped. Flits are dropped as they
come (R187). -/
def State.contain (s : State) (t : Nat) : State :=
  let s := s.setCause t causeFault
  let s := (s.tableCores t).foldl (fun acc x => acc.modCore x.2 (fun c => { c with fills := [] })) s
  { s.modTable t (fun b => { b with landing := [] }) with
    mem := { s.mem with granules := s.mem.granules.filter (fun g => !g.bound t) } }

/-- The fields of MGT_TBLn_STAT of the table: STATE, SPARES and REPAIRS. -/
def State.setStat (s : State) (t st spares repairs : Nat) (dlr : Bool) : State :=
  s.setTblStat (s.logTable t) (BitVec.ofNat 9 (packBits [(2, st), (3, spares), (3, repairs), (1, b2n dlr)]))

/-- CORE_FAILED (R366, R368): physical core `c` of table `t` fails a self-check, and FAULT is set for its region. A table that runs no job
goes to repair at once; FAULT then lasts until it is back in service (assumption 65). -/
def execCoreFailed (t c : Nat) (chk : BitVec 2) (s : State) : Host.Outcome State Fault Refusal :=
  .next (
    let lc := s.logCore t c
    if 64 ≤ t ∨ 34 ≤ c ∨ ¬ s.running ∨ field (s.pcore t c) 1 0 ≠ 0 ∨ s.outOfService t ∨ (s.table t).failed.contains lc then s else
    let s := s.raiseTable t 0x2001 clsContained (lc + c <<< 6 + chk.toNat <<< 12)
    let s := s.modTable t (fun b => { b with failed := b.failed ++ [lc] })
    match (s.table t).job with
    | none =>
      let v := s.tblStat (s.logTable t)
      (s.setStat t 1 (field v 4 2) (field v 7 5) false).contain t
    | some j => (s.abortJob j 0x2001).contain t)

/-- A table goes out of service for the part's life (R367): FAULT stays set for its region. -/
def State.retire (s : State) (t : Nat) (dlr : Bool) : State :=
  let v := s.tblStat (s.logTable t)
  ((s.setStat t 2 (field v 4 2) (field v 7 5) dlr).modTable t (fun b => { b with failed := [] })).contain t

/-- The sequencer whose DLR_PC is shown: the dealer's, or in Taper mode that of logical core 0 (assumption 45). -/
def State.shownSeq (s : State) (t : Nat) : Seq := s.seqOf t ((s.seqs t).headD none)

/-- DLR_FAILED (R362, R367): a dealer check of table `t` fails. A core failure of the table in the same cycle is not recorded (R368). -/
def execDlrFailed (t : Nat) (chk : BitVec 2) (s : State) : Host.Outcome State Fault Refusal :=
  .next (if 64 ≤ t ∨ ¬ s.running ∨ s.outOfService t then s else
    let s := { s with log := s.log.unraise s.now11 (fun r => field r 15 0 == 0x2001 && field r 38 32 == t) }
    let s := s.raiseTable t 0x1001 clsTable (chk.toNat + (s.shownSeq t).pc.toNat <<< 2)
    let s := match (s.table t).job with
      | some j => s.abortJob j 0x1001
      | none => s
    s.retire t true)

/-! ### Spare cores (R370) -/

/-- The tested spares of table `t`, lowest first. -/
def State.spares (s : State) (t : Nat) : List Nat := (List.range 34).filter (fun c => field (s.pcore t c) 1 0 == 1)

/-- Logical core `lc` of table `t` replaced by the lowest tested spare that passes its self test; `bad` lists spares that do
not. With no spare left the table goes out of service. -/
def State.substitute (s : State) (t lc : Nat) (bad : List Nat) : State :=
  let old := (s.physCore t lc).getD 0
  let v := s.tblStat (s.logTable t)
  let tried := (s.spares t).takeWhile bad.contains
  let s := tried.foldl (fun acc c => acc.setPcore t c 2) s
  let left := field v 4 2 - tried.length
  match (s.spares t).head? with
  | none =>
    let s := ((s.setPcore t old 2).setStat t 2 left (field v 7 5) false).retire t false
    s.raise ⟨0x1002, clsTable, none, some t, some (s.logTable t), lc + old <<< 6⟩
  | some c =>
    let s := (s.setPcore t old 2).setPcore t c (BitVec.ofNat 8 (4 * lc))
    let s := s.modTable t (fun b => { b with failed := b.failed.filter (· != lc) })
    let st := if (s.table t).failed.isEmpty then 0 else 1
    let s := s.setStat t st (left - 1) (min 6 (field v 7 5 + 1)) false
    let s := if st = 0 ∧ (s.table t).job = none ∧ s.hasCause t causeFault then s.clearCause t causeFault else s
    s.raise ⟨0x1003, clsNote, none, some t, some (s.logTable t), lc + c <<< 6⟩

/-- SPARE_SUBSTITUTION (R370): a table in repair. -/
def execSpareSubstitution (t lc : Nat) (failed : List Nat) (s : State) : Host.Outcome State Fault Refusal :=
  .next (if t < 64 ∧ field (s.tblStat (s.logTable t)) 1 0 = 1 ∧ (s.table t).failed.contains lc then s.substitute t lc failed else s)

/-! ### Bound violations (R34, R374) -/

/-- BOUND_VIOLATION (R374): the beacon has passed the job's bound and its excluded intervals. -/
def execBoundViolation (j : Nat) (s : State) : Host.Outcome State Fault Refusal :=
  .next (match s.job j with
    | none => s
    | some b =>
      s.passBound j b)

/-! ### The event log (R364) -/

/-- EVT_TAIL_WRITE (R364): firmware has read the records up to the new tail. -/
def execEvtTailWrite (v : BitVec 32) (s : State) : Host.Outcome State Fault Refusal :=
  .next (if s.ready then { s with log := { s.log with tail := v.extractLsb' 0 10 } } else s)

end Sys2Proof.Machine
end

