-- ==== Sys2Proof/Machine/Nor.lean ====
section
/-!
DEFINITION. The configuration memory (R331 to R337, R406, R407): directories, signed objects, the power-on count area and the record
set. A byte that nothing has written reads 0xFF, as erased NOR memory does (assumption 40).
-/
namespace Sys2Proof.Machine

/-! ### The memory (R331) -/

/-- Byte `a` of the configuration memory. -/
def norGet (m : SMap Byte) (a : Nat) : Byte := SMap.get 0xFF m a

/-- `n` bytes from offset `a`. -/
def norBytes (m : SMap Byte) (a n : Nat) : List Byte := (List.range n).map (fun i => norGet m (a + i))

/-- The bytes `bs` programmed from offset `a` on. -/
def norStore (m : SMap Byte) (a : Nat) (bs : List Byte) : SMap Byte :=
  match bs with
  | [] => m
  | b :: rest => norStore (SMap.set 0xFF m a b) (a + 1) rest

/-- The memory with `n` bytes from offset `a` erased. -/
def norErase (m : SMap Byte) (a n : Nat) : SMap Byte := SMap.clearRange m a (a + n)

/-- Areas. A firmware slot or a record copy is named by 0 for A and 1 for B. -/
def ponArea : Nat := 0x10000
def certArea : Nat := 0x20000
def commandArea : Nat := 0x30000
def slotArea (b : Bool) : Nat := if b then 0x1100000 else 0x100000
def recordArea (b : Bool) : Nat := if b then 0x2900000 else 0x2100000

/-! ### Directories (R332) -/

/-- A directory copy: which one, SEQ and SEL. -/
structure Directory where
  copy : Bool
  seq  : BitVec 32
  sel  : BitVec 8
  deriving DecidableEq, Repr

/-- A directory copy, if it is valid. -/
def readCopy (m : SMap Byte) (c : Bool) : Option Directory :=
  let bs := norBytes m (0x1000 * b2n c) 80
  if rdLe bs 0 4 = 0x31524944 ∧ rdLe bs 16 64 = (sha512 (bs.take 16)).toNat
  then some ⟨c, BitVec.ofNat 32 (rdLe bs 4 4), byteAt bs 8⟩ else none

/-- The directory in use: the valid copy with the higher SEQ, and copy 0 where the two are equal. -/
def readDirectory (m : SMap Byte) : Option Directory :=
  match readCopy m false, readCopy m true with
  | some a, some b => if a.seq < b.seq then some b else some a
  | some a, none => some a
  | none, b => b

/-- The 80 bytes of a directory copy. -/
def Directory.bytes (d : Directory) : List Byte :=
  let head := natLe 4 0x31524944 ++ natLe 4 d.seq.toNat ++ [d.sel] ++ List.replicate 7 0
  head ++ natLe 64 (sha512 head).toNat

/-- The directory that follows `d`: the other copy, with SEQ one higher. -/
def Directory.next (d : Directory) (sel : BitVec 8) : Directory := ⟨!d.copy, d.seq + 1, sel⟩

/-- The memory with a directory written. -/
def writeDirectory (m : SMap Byte) (d : Directory) : SMap Byte :=
  norStore (norErase m (0x1000 * b2n d.copy) 0x1000) (0x1000 * b2n d.copy) (d.bytes ++ List.replicate 4016 0)

/-- Bit `i` of SEL put to `v`. -/
def selBit (sel : BitVec 8) (i : Nat) (v : Bool) : BitVec 8 :=
  (sel &&& ~~~(1#8 <<< i)) ||| (if v then 1#8 <<< i else 0)

/-! ### Signed objects (R333) -/

/-- A verified object: SVN, COMMIT_SVN, VERSION, DIGEST and the payload. -/
structure Signed where
  svn     : Nat
  commit  : Bool
  version : Word
  digest  : BitVec 512
  payload : List Byte
  deriving DecidableEq, Repr

/-- Key slot `k` is fused with the hash of this key and not revoked. -/
def Fuses.keyOk (f : Fuses) (k : Nat) (key : List Byte) : Bool :=
  decide (k < 4) && f.kset.getLsbD k && !f.krev.getLsbD k && SMap.get 0 f.keyHash k == sha512 key

/-- Key slot `k` may sign a firmware slot, or a record copy, in the life-cycle state. -/
def Fuses.slotPermitted (f : Fuses) (fw : Bool) (k : Nat) : Bool :=
  if fw ∨ f.life ≠ 2 then k == 0 else decide (1 ≤ k) && decide (k ≤ 3)

/-- An object of at most `limit` payload bytes, if it is verified. -/
def Fuses.verify (f : Fuses) (fw : Bool) (limit : Nat) (bs : List Byte) : Option Signed :=
  let key := (bs.drop 24).take 133
  let n := rdLe bs 16 8
  let payload := (bs.drop 512).take n
  if rdLe bs 0 4 = 0x31474953 ∧ n ≤ limit ∧ payload.length = n ∧ f.keyOk (rdLe bs 4 1) key ∧ f.slotPermitted fw (rdLe bs 4 1) ∧
      rdLe bs 160 64 = (sha512 payload).toNat ∧
      ecdsaVerify key (sha512 (bs.take 224)) ((bs.drop 224).take 132) ∧ (¬ fw ∨ f.svn ≤ rdLe bs 5 1) then
    some ⟨rdLe bs 5 1, (byteAt bs 6).getLsbD 0, BitVec.ofNat 32 (rdLe bs 8 4), sha512 payload, payload⟩
  else none

/-- The largest payloads of a firmware slot and of a record copy. -/
def slotLimit : Nat := 16776704
def recordLimit : Nat := 8388096

/-- The object at an area of the memory. No more of it is read than its LEN says. -/
def State.readObject (s : State) (fw : Bool) (copy : Bool) : Option Signed :=
  let base := if fw then slotArea copy else recordArea copy
  let limit := if fw then slotLimit else recordLimit
  let head := norBytes s.nor base 512
  if rdLe head 16 8 ≤ limit then s.fuses.verify fw limit (head ++ norBytes s.nor (base + 512) (rdLe head 16 8)) else none

/-! ### The power-on count (R327, R335) -/

/-- A valid entry of the power-on count area: its place, the count, the life-cycle state, and the bytes of the population digest. -/
structure PonEntry where
  idx    : Nat
  count  : Nat
  life   : Byte
  digest : List Byte
  deriving DecidableEq, Repr

/-- Entry `i` of 0 to 4,095, if it is valid. -/
def ponEntry (m : SMap Byte) (i : Nat) : Option PonEntry :=
  let bs := norBytes m (ponArea + 16 * i) 16
  if rdLe bs 0 4 + rdLe bs 4 4 = 0xFFFFFFFF then some ⟨i, rdLe bs 0 4, byteAt bs 8, bs.drop 9⟩ else none

/-- Entry `b`, at a later place than `a`, was written after it. Of two halves that hold equal counts, the one that is not full was
written last. -/
def laterEntry (m : SMap Byte) (a b : PonEntry) : Bool :=
  decide (a.count < b.count) || (a.count == b.count &&
    (decide (a.idx / 2048 = b.idx / 2048) || (ponEntry m 4095).isNone || (ponEntry m 2047).isSome))

/-- The last valid entry: the one of the highest count. -/
def lastEntry (m : SMap Byte) : Option PonEntry :=
  (List.range 4096).foldl (fun best i => match best, ponEntry m i with
    | some a, some b => if laterEntry m a b then some b else some a
    | none, b => b
    | a, none => a) none

/-- The place after entry `last`, and the memory ready for it: a full half makes the other half erased first. -/
def placeAfter (m : SMap Byte) (last : Option Nat) : Nat × SMap Byte :=
  match last with
  | none => (0, m)
  | some i => if i = 2047 then (2048, norErase m (ponArea + 0x8000) 0x8000)
      else if i = 4095 then (0, norErase m ponArea 0x8000) else (i + 1, m)

/-- The place of the next entry. -/
def nextEntry (m : SMap Byte) : Nat × SMap Byte := placeAfter m ((lastEntry m).map (·.idx))

/-- The 16 bytes of an entry before the population is trained. -/
def entryBytes (count : Nat) (life : BitVec 3) : List Byte :=
  natLe 4 count ++ natLe 4 (0xFFFFFFFF - count) ++ natLe 1 life.toNat ++ List.replicate 7 0xFF

/-! ### The record set (R336, R337, R406, R407) -/

/-- What a record set says: the fields of its records, the transit entries (by cell key), the routing table, and the records as
they stand, by TYPE. -/
structure RecordSet where
  recs    : Records
  transit : List (Nat × BitVec 16)
  routes  : List Nat
  raw     : List (Nat × List Byte)
  deriving DecidableEq, Repr

/-- The records of a payload in order, each with its header. -/
def splitRecords : Nat → Nat → List Byte → Option (List (Nat × List Byte))
  | _, _, [] => some []
  | 0, _, _ => none
  | fuel + 1, last, bs =>
    let typ := rdLe bs 0 2
    let len := rdLe bs 4 4
    if typ ≤ last ∨ 9 < typ ∨ rdLe bs 2 2 ≠ 1 ∨ len < 8 ∨ len % 8 ≠ 0 ∨ bs.length < len then none
    else (splitRecords fuel typ (bs.drop len)).map ((typ, bs.take len) :: ·)

/-- The bytes of a record from `lo` to `hi - 1` are zero. -/
def zeroSpan (b : List Byte) (lo hi : Nat) : Bool := ((b.take hi).drop lo).all (· == 0)

/-- A value, if the condition holds. -/
def guarded {α : Type} (c : Bool) (a : α) : Option α := if c then some a else none

/-- Clock ratios (R185). -/
def clockRecord (r : RecordSet) (b : List Byte) : Option RecordSet :=
  let v := rdLe b 8 1
  guarded (b.length == 16 && zeroSpan b 9 16 && decide (2 ≤ v) && decide (v ≤ 64)) { r with recs := { r.recs with rlen64 := v } }

/-- The lowest step of a set of permitted steps. -/
def lowestStep (permit : Nat) : Nat := (bitsOf 6 permit).getLast?.getD 0

/-- Dimmer tables (R317). -/
def dimmerRecord (r : RecordSet) (b : List Byte) : Option RecordSet :=
  let p := rdLe b 8 1
  guarded (b.length == 16 && zeroSpan b 10 16 && p.testBit 0 && decide (p < 64) && rdLe b 9 1 == lowestStep p)
    { r with recs := { r.recs with permit := BitVec.ofNat 6 p, floor := BitVec.ofNat 3 (rdLe b 9 1) } }

/-- Determinism (R21, R25, R375). -/
def determinismRecord (r : RecordSet) (b : List Byte) : Option RecordSet :=
  let scope := rdLe b 8 1
  let pin := rdLe b 9 1
  let mode := rdLe b 10 1
  let allow := rdLe b 12 2
  guarded (b.length == 16 && zeroSpan b 14 16 && decide (scope ≤ 2) &&
      (scope == 0 || (decide (pin < 6) && r.recs.permit.getLsbD pin && mode == 1)) && decide (mode ≤ 1) && decide (rdLe b 11 1 ≤ 1) &&
      decide (allow ≤ 200))
    { r with recs := { r.recs with
      scope := BitVec.ofNat 2 scope, pin := BitVec.ofNat 3 pin, pinned := mode == 1, debug := rdLe b 11 1 == 1, allow := allow } }

/-- One port of the fabric record: EN, NADDR, NPORT and DPLAT. -/
def readPort (b : List Byte) (q : Nat) : Option (Bool × BitVec 12 × BitVec 4 × BitVec 16) :=
  let o := 72 + 12 * q
  guarded (decide (rdLe b o 1 ≤ 1) && decide (rdLe b (o + 1) 2 ≤ 0xFFE) && decide (rdLe b (o + 3) 1 ≤ 15) &&
      decide (1 ≤ rdLe b (o + 4) 2) && zeroSpan b (o + 6) (o + 12))
    (rdLe b o 1 == 1, BitVec.ofNat 12 (rdLe b (o + 1) 2), BitVec.ofNat 4 (rdLe b (o + 3) 1), BitVec.ofNat 16 (rdLe b (o + 4) 2))

/-- The leader candidates: 0xFFFF ends the list, and nothing follows it (R307). -/
def readLead (b : List Byte) : Option (List (BitVec 16)) :=
  let all := (List.range 4).map (fun i => rdLe b (64 + 2 * i) 2)
  let used := all.takeWhile (· != 0xFFFF)
  guarded ((all.drop used.length).all (· == 0xFFFF) && used.all (fun a => decide (a ≤ 0xFFE))) (used.map (BitVec.ofNat 16 ·))

/-- One routing entry names local delivery, nothing, or an enabled port. -/
def routeOk (enabled : Nat → Bool) (v : Nat) : Bool := v == 0x10 || v == 0x1F || (decide (v < 16) && enabled v)

/-- One transit entry: its cell key and its slot-table word. -/
def readTransit (b : List Byte) (round kint j : Nat) : Option (Nat × BitVec 16) :=
  let o := 8460 + 4 * j
  let q := rdLe b o 1
  let f := rdLe b (o + 1) 2
  let src := rdLe b (o + 3) 1
  guarded (decide (q < 16) && decide (f < round) && f % kint != kint - 1 && decide (src ≤ 8))
    (cellKey q f, BitVec.ofNat 16 (2 + src <<< 2))

/-- Fabric topology and addresses (R287, R407). -/
def fabricRecord (r : RecordSet) (b : List Byte) : Option RecordSet :=
  let n := rdLe b 8456 4
  let size := 8 * ceilDiv (8460 + 4 * n) 8
  let kint := rdLe b 10 1
  if b.length < 8464 ∨ 131072 < n ∨ b.length ≠ size ∨ 0xFFE < rdLe b 8 2 ∨ 3 < kint ∨ 1 < rdLe b 11 1 ∨ rdLe b 63 1 ≠ 0 ∨
    ¬ zeroSpan b (8460 + 4 * n) size then none else
  let routes := (List.range 4096).map (fun a => rdLe b (264 + 2 * a) 2)
  match (List.range 16).mapM (readPort b), readLead b,
    (List.range n).mapM (readTransit b (128 * r.recs.rlen64) (8 <<< kint)) with
  | some ports, some lead, some transit =>
    let enabled (q : Nat) : Bool := ((ports.drop q).head?).any (·.1)
    if ¬ routes.all (routeOk enabled) ∨ ¬ noPair (· == ·) (transit.map (·.1)) then none else
    some { r with
      transit := transit, routes := routes
      recs := { r.recs with fabric :=
        { addr := BitVec.ofNat 12 (rdLe b 8 2), kint := BitVec.ofNat 2 kint, hmode := rdLe b 11 1 == 1
          mac := (b.drop 12).take 6, ipv4 := (b.drop 18).take 4, ipv6 := (b.drop 22).take 16, hostIp := (b.drop 38).take 16
          cqpn := BitVec.ofNat 24 (rdLe b 54 3), psnH := BitVec.ofNat 24 (rdLe b 57 3), psnD := BitVec.ofNat 24 (rdLe b 60 3)
          lead := lead, ports := SMap.setAll (false, 0, 0, 0) [] (ports.zipIdx.map (fun x => (x.2, x.1))) } } }
  | _, _, _ => none

/-- Memory population (R26, R211, R342). -/
def populationRecord (r : RecordSet) (b : List Byte) : Option RecordSet :=
  let ofs (o : Nat) : List Nat := (List.range 16).map (fun i => rdLe b (o + i) 1)
  guarded (b.length == 48 && decide (rdLe b 10 1 ≤ 1) && zeroSpan b 11 12 && zeroSpan b 44 48 &&
      (ofs 12).all (fun v => decide (v ≤ 194)) && (ofs 28).all (fun v => decide (v ≤ 194)))
    { r with recs := { r.recs with
      ddrList := BitVec.ofNat 16 (rdLe b 8 2), warm := rdLe b 10 1 == 1, hbmOfs := ofs 12, ddrOfs := ofs 28 } }

/-- Pacing timers (R233). -/
def timerRecord (r : RecordSet) (b : List Byte) : Option RecordSet :=
  let k := rdLe b 8 4
  if 320 < k ∨ b.length ≠ 16 + 8 * k then none else
  let es := (List.range k).map (fun j => (rdLe b (16 + 8 * j) 1, rdLe b (17 + 8 * j) 1, rdLe b (18 + 8 * j) 3, rdLe b (21 + 8 * j) 3))
  guarded (zeroSpan b 12 16 && es.all (fun e => decide (e.1 ≤ 9) && decide (e.2.1 ≤ 31) && (e.2.2.1 == 0 || decide (e.2.2.2 < e.2.2.1))) &&
      noPair (· == ·) (es.map (fun e => 32 * e.1 + e.2.1)))
    { r with recs := { r.recs with
      timers := SMap.setAll (0, 0) [] (es.map (fun e => (32 * e.1 + e.2.1, e.2.2.1, e.2.2.2))) } }

/-- The length of a record of curve tables, and its bytes that must be zero. -/
def curveFits (b : List Byte) : Bool :=
  b.length == 32840 && (List.range 8).all (fun n => zeroSpan b (13 + 4104 * n) (16 + 4104 * n))

/-- The record set with curve tables. -/
def RecordSet.withCurve (r : RecordSet) (c : SMap Word × SMap Word) : RecordSet :=
  { r with recs := { r.recs with curve := c.1, curveHdr := c.2 } }

/-- Curve-table defaults (R120): one string of headers and segments. -/
def curveRecord (r : RecordSet) (b : List Byte) : Option RecordSet :=
  guarded (curveFits b) (r.withCurve (curveOf (b.drop 8)))

/-- Power limits (R320, R384). -/
def powerRecord (r : RecordSet) (b : List Byte) : Option RecordSet :=
  let p := rdLe b 8 2
  let h := rdLe b 10 1
  let t := rdLe b 11 1
  guarded (b.length == 16 && zeroSpan b 12 16 && decide (600 ≤ p) && decide (p ≤ 2850) && decide (70 ≤ h) && decide (h ≤ 100) &&
      decide (80 ≤ t) && decide (t ≤ 110) && decide (h + 5 ≤ t))
    { r with recs := { r.recs with plim := p, thold := h, ttrip := t } }

/-- Fault policy (R203, R226, R283, R305, R374). -/
def faultRecord (r : RecordSet) (b : List Byte) : Option RecordSet :=
  let st := rdLe b 12 4
  let thr := rdLe b 16 2
  let win := rdLe b 20 8
  let loss := rdLe b 28 2
  let down := rdLe b 30 2
  guarded (b.length == 40 && decide (rdLe b 8 1 ≤ 1) && zeroSpan b 9 12 && zeroSpan b 18 20 && zeroSpan b 32 40 && decide (1 ≤ thr) &&
      decide (1 ≤ win) && decide (win ≤ 10 ^ 12) && decide (1 ≤ loss) && decide (loss ≤ 3600) && decide (1 ≤ down) && decide (down ≤ 10000))
    { r with recs := { r.recs with
      boundAbort := rdLe b 8 1 == 1, stallTo := if st = 0 then 0x100000 else st, hbmThr := thr, hbmWin := win, hostLoss := loss
      portDown := down } }

/-- One record taken into the set. -/
def takeRecord (r : RecordSet) (x : Nat × List Byte) : Option RecordSet :=
  match x.1 with
  | 1 => clockRecord r x.2
  | 2 => dimmerRecord r x.2
  | 3 => determinismRecord r x.2
  | 4 => fabricRecord r x.2
  | 5 => populationRecord r x.2
  | 6 => timerRecord r x.2
  | 7 => curveRecord r x.2
  | 8 => powerRecord r x.2
  | 9 => faultRecord r x.2
  | _ => none

/-- The record set of a payload, unless it is malformed (R337). In DEPLOYED the fabric and population records are required. -/
def readRecordSet (deployed : Bool) (payload : List Byte) : Option RecordSet :=
  match splitRecords (payload.length / 8 + 1) 0 payload with
  | none => none
  | some raw =>
    if deployed ∧ ¬ ([4, 5].all (fun t => raw.any (·.1 == t))) then none else
    raw.foldlM takeRecord ⟨Records.reset, [], [], raw⟩

/-- A record copy that is verified and not malformed. -/
def State.readRecordCopy (s : State) (copy : Bool) : Option (Signed × RecordSet) :=
  (s.readObject false copy).bind (fun o => (readRecordSet (s.fuses.life == 2) o.payload).map (fun r => (o, r)))

/-- The memory-population part of the digest, as trained: the record with the channels found in place of those listed, and MSIZE
(assumption 41). -/
def populationPart (r : RecordSet) (present : List Nat) (msize : Nat) : List Byte :=
  let b := ((r.raw.find? (·.1 == 5)).map (·.2)).getD []
  b.take 8 ++ natLe 2 ((present.map (2 ^ ·)).sum) ++ b.drop 10 ++ natLe 8 msize

/-- The timing-record digest (R22). -/
def RecordSet.timingDigest (r : RecordSet) (present : List Nat) (msize : Nat) : BitVec 512 :=
  sha512 ((r.raw.filter (fun x => [1, 2, 3, 4, 5, 6, 8].contains x.1)).flatMap (fun x =>
    if x.1 = 5 then populationPart r present msize else x.2))

end Sys2Proof.Machine
end

