-- ==== Sys2Proof/Machine/Boot.lean ====
section
/-!
DEFINITION. Reset, boot and life cycle (R327, R331 to R348, R369, R381, R385, R386): what ends a power period, the ten boot steps,
life-cycle commands and staging. A boot is one command: it happens at one moment, and device time moves on to the round origin.
-/
namespace Sys2Proof.Machine

/-! ### Power and reset (R327, R341, R381, R385, R386) -/

/-- MGT_TBLn_STAT across a reset: a repair in progress ends with the power period; the self test of the next boot finds the core
again. -/
def endRepairs (m : SMap (BitVec 9)) : SMap (BitVec 9) :=
  (m.map (fun kv => (kv.1, if field kv.2 1 0 = 1 then kv.2 &&& 0x1FC else kv.2))).filter (fun kv => kv.2 != 0)

/-- The device in reset. What outlasts a power period: fuses, the configuration memory, the DIMMs, and the sideband pins whose units
take no part in the reset (R391). -/
def State.enterReset (s : State) (warm : Bool) : State :=
  { State.reset with
    fuses := { s.fuses with tblStat := endRepairs s.fuses.tblStat }
    nor := s.nor, free := s.free, pending := s.pending, mem := { State.reset.mem with ddr := s.mem.ddr }
    pins := { Pins.reset with
      powered := s.pins.powered, inReset := true, warmNext := warm, outside := s.pins.outside
      tapReset := s.pins.tapReset, tapInstr := s.pins.tapInstr, tapData := s.pins.tapData
      boundary := s.pins.boundary, driven := s.pins.driven } }

/-- RESET_RELEASE (R385): the beacon starts at 0. A reset that follows a loss of power is no warm one. -/
def execResetRelease (s : State) : Host.Outcome State Fault Refusal :=
  .next (if s.running then s else
    let warm := s.pins.powered && s.pins.warmNext
    let s := if s.pins.inReset then s else s.enterReset false
    { s with pins := { s.pins with powered := true, inReset := false, warmNext := false, warmBoot := warm } })

/-- NRST (R386): a pulse below 1 µs is ignored, one of 10 µs resets, and one between may do either. -/
def execNrst (lowNs : Nat) (s : State) : Host.Outcome State Fault Refusal :=
  .next (if ¬ s.pins.powered ∨ lowNs < 1000 then s else
    let warm := !s.pins.outside && (!s.pins.inReset || s.pins.warmNext)
    if 10000 ≤ lowNs then s.enterReset warm else
    let r := s.takeFree
    if (Config.freeValue r.1).getLsbD 0 then r.2.enterReset warm else r.2)

/-- The lease is held by half `half`. -/
def State.holds (s : State) (half : Bool) : Bool := s.ready && s.mgt.leaseValid && s.mgt.holder == half

/-- MGT_RESET (R345): a write of RESET_CODE by the half that holds the lease acts as NRST. -/
def execMgtReset (half : Bool) (val : BitVec 32) (s : State) : Host.Outcome State Fault Refusal :=
  .next (if s.holds half ∧ val = 0x52534554 then s.enterReset (!s.pins.outside) else s)

/-- POWER_LOSS (R381): the input leaves 38 to 63 V for 10 µs, or draws more than 80 A for 100 µs. -/
def execPowerLoss (mv ma us : Nat) (s : State) : Host.Outcome State Fault Refusal :=
  .next (if s.pins.powered ∧ (((mv < 38000 ∨ 63000 < mv) ∧ 10 ≤ us) ∨ (80000 < ma ∧ 100 ≤ us)) then
      let s := { s with pins := { s.pins with powered := false } }.enterReset false
      { s with pins := { Pins.reset with powered := false, inReset := true, tapReset := s.pins.tapReset }, mem := { s.mem with ddr := [] } }
    else s)

/-- PWR_RANGE (R373): the input is outside 40 to 60 V for 10 µs, and the device runs on. A reset is no warm one any more (R386). The
registers hold averages of a millisecond, which this reading is not (R384). -/
def execPwrRange (mv us : Nat) (s : State) : Host.Outcome State Fault Refusal :=
  .next (if s.pins.powered ∧ ((38000 ≤ mv ∧ mv < 40000) ∨ (60000 < mv ∧ mv ≤ 63000)) ∧ 10 ≤ us then
      let s := { s with pins := { s.pins with inRange := false, outside := true, warmNext := false } }
      if s.running then (s.raiseDev 0x4002 clsContained (mv / 10)).excursions 0x4002 (fun _ => true) else s
    else s)

/-- PWR_OVERLIMIT (R384): the averages of a millisecond. -/
def execPwrOverlimit (mv ma w : BitVec 16) (s : State) : Host.Outcome State Fault Refusal :=
  .next (if ¬ s.running then s else
    let isOver := decide (s.recs.plim < w.toNat)
    let due := isOver && s.pins.overTick.all (fun b => decide (b + 100000 ≤ s.beacon))
    let s := { s with pins := { s.pins with
      vin := mv, iin := ma, pin := w, peak := if s.pins.peak < w then w else s.pins.peak, isOver := isOver
      overTick := if due then some s.beacon else s.pins.overTick
      inRange := decide (4000 ≤ mv.toNat) && decide (mv.toNat ≤ 6000)
      outside := !(decide (4000 ≤ mv.toNat) && decide (mv.toNat ≤ 6000)) } }
    if due then s.raiseDev 0x4003 clsNote (w.toNat + s.recs.plim <<< 16) else s)

/-- FLICKER_HEALTH (R105): a source of noise is marked unhealthy for the power period. `die` is true for south, `test` for the adaptive
proportion test. -/
def execFlickerHealth (die test : Bool) (s : State) : Host.Outcome State Fault Refusal :=
  .next (if ¬ s.running then s else
    let m := s.mgt.flickerBad
    { s with mgt := { s.mgt with flickerBad := if die then (m.1, true) else (true, m.2) } }.raiseDev 0x3201 clsDevice
      (b2n die + 2 * b2n test))

/-! ### Life-cycle commands (R343 to R348) -/

/-- The fields of a life-cycle command. -/
structure LifeCommand where
  target : Nat
  kslot  : Nat
  op     : Nat
  arg    : Nat
  serial : Nat
  pon    : Nat
  owner  : List Byte
  key    : List Byte
  signed : Bool
  deriving DecidableEq, Repr

/-- The command in the command area; nothing where the area is erased. -/
def readCommand (m : SMap Byte) : Option LifeCommand :=
  let bs := norBytes m commandArea 484
  if bs.all (· == 0xFF) then none else
  let key := (bs.drop 216).take 133
  some ⟨rdLe bs 4 1, rdLe bs 5 1, rdLe bs 6 1, rdLe bs 7 1, rdLe bs 8 8, rdLe bs 16 4, (bs.drop 24).take 192, key,
    rdLe bs 0 4 == 0x3143434C && ecdsaVerify key (sha512 (bs.take 352)) ((bs.drop 352).take 132)⟩

/-- Key slot `k` can authorise the transition (R346). -/
def transitionOk (f : Fuses) (sources : Bool) (c : LifeCommand) : Bool :=
  let owner := decide (1 ≤ c.kslot) && decide (c.kslot ≤ 3)
  match f.life.toNat, c.target with
  | 0, 1 => c.kslot == 0 && sources
  | 1, 2 => c.kslot == 0
  | 2, 3 => owner
  | 3, 2 => c.kslot == 0 && decide (f.returns.toNat < 3)
  | 2, 4 => c.kslot == 0 || owner
  | 4, _ => false
  | _, 4 => c.kslot == 0
  | _, _ => false

/-- The command is permitted (R346): a transition, or the revocation of another owner slot in the state as it is. -/
def LifeCommand.permitted (c : LifeCommand) (f : Fuses) (sources : Bool) : Bool :=
  match c.op with
  | 1 => transitionOk f sources c
  | 2 => decide (1 ≤ c.arg) && decide (c.arg ≤ 3) && decide (1 ≤ c.kslot) && decide (c.kslot ≤ 3) && c.arg != c.kslot &&
      c.target == f.life.toNat
  | _ => false

/-- Why a command is not executed (R347, R362): 0 signature or key slot, 1 SERIAL, 2 PON, 3 not permitted. -/
def State.commandRefusal (s : State) (c : LifeCommand) : Option Nat :=
  if ¬ c.signed ∨ ¬ s.fuses.keyOk c.kslot c.key then some 0
  else if c.serial ≠ s.fuses.serial.toNat then some 1
  else if c.pon ≠ ((lastEntry s.nor).map (·.count)).getD 0 then some 2
  else if ¬ c.permitted s.fuses (!s.mgt.flickerBad.1 && !s.mgt.flickerBad.2) then some 3
  else none

/-- A new identity key (R348): ten outputs of each flicker source, exclusive-ored pairwise. -/
def State.makeIdentity (s : State) : State :=
  let a := s.takeFrees 10
  let b := a.2.takeFrees 10
  let c := a.1 ^^^ b.1
  { b.2 with fuses := { b.2.fuses with identity := some (BitVec.ofNat 640 (scalarOf c)) } }

/-- Both record copies erased. -/
def eraseRecords (m : SMap Byte) : SMap Byte := norErase (norErase m (recordArea false) 0x800000) (recordArea true) 0x800000

/-- The owner hashes of a command fused into slots 1 to 3; a hash of zeros leaves its slot unset. -/
def fuseOwners (f : Fuses) (owner : List Byte) : Fuses :=
  (List.range 3).foldl (fun f i =>
    let h := rdLe owner (64 * i) 64
    if h = 0 then f else
      { f with kset := f.kset ||| BitVec.ofNat 4 (2 <<< i), keyHash := SMap.set 0 f.keyHash (i + 1) (BitVec.ofNat 512 h) }) f

/-- A command executed (R346, R347): the state fuses first, then the effects of the transition. -/
def State.executeCommand (s : State) (c : LifeCommand) : State :=
  if c.op = 2 then { s with fuses := { s.fuses with krev := s.fuses.krev ||| BitVec.ofNat 4 (1 <<< c.arg) } } else
  let from_ := s.fuses.life.toNat
  let s := { s with fuses := { s.fuses with life := BitVec.ofNat 3 c.target } }
  match from_, c.target with
  | 0, 1 => s.makeIdentity
  | 1, 2 => { s with fuses := fuseOwners s.fuses c.owner }
  | 2, 3 => { s with nor := eraseRecords s.nor }
  | 3, 2 => { s with fuses := { s.fuses with returns := s.fuses.returns + 1 } }
  | _, 4 => { s with fuses := { s.fuses with identity := some (BitVec.allOnes 640) }, nor := eraseRecords s.nor }
  | _, _ => s

/-- DETAIL of LC_CHANGE and LC_REJECTED (R362). -/
def LifeCommand.detail (c : LifeCommand) (before cause : Nat) : Nat :=
  packBits [(3, before), (3, c.target), (8, c.op), (8, c.arg), (2, cause)]

/-- Step 2 of a boot acts on the command area, and erases it either way. A rejection is an event for later. -/
def State.lifeCycle (s : State) : State × List Ev :=
  match readCommand s.nor with
  | none => (s, [])
  | some c =>
    let before := s.fuses.life.toNat
    let r : State × List Ev := match s.commandRefusal c with
      | some cause => (s, [Ev.mk 0x3303 clsNote none none none (c.detail before cause)])
      | none => ((s.executeCommand c).raiseDev 0x3302 clsNote (c.detail before 0), [])
    ({ r.1 with nor := norErase r.1.nor commandArea 0x1000 }, r.2)

/-! ### Steps 3 and 4: choosing what is verified (R339) -/

/-- MGT_BOOTSTAT with STAGE, FAIL, and the bits of `flags`. -/
def State.setStage (s : State) (stage fail : Nat) : State :=
  { s with mgt := { s.mgt with bootStat := (s.mgt.bootStat &&& 0x1F00) ||| BitVec.ofNat 32 (stage + 16 * fail) } }

/-- Bit `i` of MGT_BOOTSTAT set if `v`. -/
def State.bootBit (s : State) (i : Nat) (v : Bool) : State :=
  if v then { s with mgt := { s.mgt with bootStat := s.mgt.bootStat ||| (1#32 <<< i) } } else s

/-- The active object, or the other one where it fails, with the directory rewritten. `kind` is 0 for a firmware slot and 1 for a
record copy; nothing where neither is good. The directory in use is answered with it. -/
def State.pick {α : Type} (s : State) (d : Directory) (kind : Nat) (read : Bool → Option α) : Option (α × Directory × List Ev × State) :=
  let a := d.sel.getLsbD kind
  match read a with
  | some x => some (x, d, [], s.bootBit (8 + kind) a)
  | none => (read (!a)).map (fun x =>
    let sel := selBit d.sel kind (!a)
    let d := d.next (if kind = 0 then selBit sel (2 + b2n a) true else sel)
    let s := ({ s with nor := writeDirectory s.nor d }.bootBit (8 + kind) (!a)).bootBit (10 + kind) true
    (x, d, [Ev.mk 0x3301 clsNote none none none (kind + 2 * b2n a)], s))

/-! ### Steps 5 to 10 -/

/-- The power-on count of this boot (R335). -/
def nextCount (m : SMap Byte) : Nat := min 0xFFFFFFFF (((lastEntry m).map (·.count)).getD 0 + 1)

/-- The count written at place `p`, and the SVN of the slot of the last boot (R334) fused. -/
def State.recordPowerOn (s : State) (count : Nat) (p : Nat × SMap Byte) : State :=
  let sat := decide (count = 0xFFFFFFFF)
  let s := { s with
    nor := norStore p.2 (ponArea + 16 * p.1) (entryBytes count s.fuses.life), pon := BitVec.ofNat 32 count
    pins := { s.pins with ponSat := sat }
    fuses := { s.fuses with svn := Nat.max s.fuses.svn s.fuses.svnDue, svnDue := 0 } }
  if sat then s.raiseDev 0x3105 clsNote 0 else s

/-- Step 5: the power-on count (R327, R335). Nothing where it cannot be written. -/
def State.countPowerOn (s : State) (ok : Bool) : Option (State × Nat) :=
  if !ok then none else some (s.recordPowerOn (nextCount s.nor) (nextEntry s.nor), (nextEntry s.nor).1)

/-- Step 6: both halves run the firmware. -/
def State.startFirmware (s : State) (f : Signed) : State :=
  let h : Half := { Half.reset with health := true, fwver := f.version, digest := f.digest }
  { s with mgt := { s.mgt with north := h, south := h } }

/-- Every core's curve tables hold the defaults of the record (R120). -/
def curveCores (curve hdr : SMap Word) : SMap Core :=
  let core : Core := { Core.reset with curve := curve, curveHdr := hdr }
  if core = Core.reset then [] else (List.range 2176).map (fun k => (k, core))

/-- Step 7: the records are applied; every table and die network region goes to the pin step (R319, R340). -/
def State.applyRecords (s : State) (o : Signed) (r : RecordSet) : State :=
  let pin := if r.recs.scope = 0 then 0 else r.recs.pin
  let s := { s with
    recs := r.recs
    fslots := SMap.setAll 0 [] r.transit
    routes := SMap.setAll 0 [] (r.routes.zipIdx.map (fun x => (x.2, BitVec.ofNat 5 x.1 ^^^ 0x1F)))
    cores := curveCores r.recs.curve r.recs.curveHdr
    ports := SMap.setAll Port.reset [] ((r.recs.fabric.ports.filter (fun kv => kv.2.1)).map (fun kv => (kv.1, { Port.reset with state := 1 })))
    host := { s.host with mode := r.recs.fabric.hmode, lanes := 0xFF, link := true }
    mgt := { s.mgt with recDigest := o.digest } }
  let s := (List.range 64).foldl (fun acc t => acc.setCsr (chnReg t 0x900) (BitVec.ofNat 32 r.recs.stallTo)) s
  if pin = 0 then s else (List.range 72).foldl (fun acc r => acc.modRegion r (fun g => { g with step := pin, tgt := pin })) s

/-- The channels found of those listed, and MSIZE in GiB (R211). Modules of less than 32 GiB are left out as missing. -/
def trainedPopulation (listed : BitVec 16) (found : List (Nat × Nat)) : List (Nat × Nat) :=
  (List.range 16).filterMap (fun n => if listed.getLsbD n then (found.find? (fun x => x.1 == n && decide (32 ≤ x.2))) else none)

/-- Step 8: the far tier is trained (R211). -/
def State.trainFar (s : State) (b : BootInput) : State :=
  let p := trainedPopulation s.recs.ddrList b.ddrFound
  let msize := (p.map (·.2)).foldl min 256
  let msize := if p.isEmpty then 0 else msize
  let chans := p.map (·.1)
  let s := (List.range 16).foldl (fun acc n =>
    if s.recs.ddrList.getLsbD n ∧ ¬ chans.contains n then acc.raiseDev 0x4301 clsDevice n else acc) s
  let odd := (p.filter (fun x => x.2 != msize)).map (·.1)
  let s := { s with mem := { s.mem with population := chans, msize := msize <<< 30 } }
  if odd.isEmpty ∧ ¬ (b.ddrDiffer ∧ 1 < p.length) then s
  else s.raiseDev 0x4302 clsDevice (odd.headD (chans.headD 0) + msize <<< 4)

/-- Step 9: everything but the far tier is zero since reset; the near tier is wiped, and the far tier unless it is kept (R341,
R342). -/
def State.wipe (s : State) (keep : Bool) : State :=
  let s := { s with mem := { s.mem with hbm := [], shelf := [], ddr := if keep then s.mem.ddr else [] } }
  if keep then (s.bootBit 12 true).raiseDev 0x3306 clsNote 0 else s

/-- The self test of step 9 (R369): failing spares are marked defective, then failing cores are replaced. Tables out of service keep
their FAULT cause (R367). -/
def State.selfTest (s : State) (bad : List (Nat × Nat)) : State :=
  let live (s : State) (x : Nat × Nat) (st : Nat) : Bool :=
    decide (x.1 < 64) && decide (x.2 < 34) && !s.outOfService x.1 && field (s.pcore x.1 x.2) 1 0 == st
  let s := bad.foldl (fun acc x => if !live acc x 1 then acc else
    let v := acc.tblStat (acc.logTable x.1)
    (acc.setPcore x.1 x.2 2).setStat x.1 (field v 1 0) (field v 4 2 - 1) (field v 7 5) (v.getLsbD 8)) s
  let s := bad.foldl (fun acc x => if live acc x 0 then acc.substitute x.1 (acc.logCore x.1 x.2) [] else acc) s
  (List.range 64).foldl (fun acc t => if acc.outOfService t
    then acc.modRegion t (fun g => { g with cause := g.cause ||| 0x10, stopAt := some 0 }) else acc) s

/-- Step 10: round 0 begins at the round origin (R186). -/
def State.beginRounds (s : State) : State :=
  let b0 := 100 * ceilDiv s.beacon 100
  let s := { s with beacon := b0, sub := if s.beacon = b0 then s.sub else 0, round0 := b0 }
  if b0 = 0 then s else
  (List.range 82).foldl (fun acc r => acc.modRegion r (fun g => { g with since := 11 * b0, cyc := 0, frac := 0, net := 0, nfrac := 0 })) s

/-- The slot-0 chain in the certificate area: its length in four bytes, then the chain (assumption 42). -/
def certificate (m : SMap Byte) : Option (List Byte) :=
  let n := leNat (norBytes m certArea 4)
  if n = 0 ∨ 65532 < n then none else some (norBytes m (certArea + 4) n)

/-- The device reports ready: the senior half leads, and in DEPLOYED the control queue pair is open. -/
def State.becomeReady (s : State) : State :=
  let f := s.recs.fabric
  let s := if s.fuses.life ≠ 2 then s else
    s.modQp 16 (fun _ => { QueuePair.reset with state := 1, hqpn := f.cqpn, psn := f.psnH, devPsn := f.psnD, retryTick := s.beacon, txBase := s.host.tx.length })
  let m := { s.mgt with
    certOk := (certificate s.nor).isSome
    north := { s.mgt.north with beat := s.beacon }
    south := { s.mgt.south with beat := s.beacon } }
  let s := { s with ready := true, mgt := m, pins := { s.pins with inRange := !s.pins.outside } }
  ((s.lead s.fuses.seniorSouth).leadAlone).setStage 10 0

/-- Steps 7 to 10 with a good record set. `last` is the last valid entry of the power-on count before this boot and `at_` the place
of its own. -/
def State.bootRecords (s : State) (b : BootInput) (f o : Signed) (r : RecordSet) (last : Option PonEntry) (at_ : Nat) : State :=
  let s := s.applyRecords o r
  let s := if b.hostLanes = 0xFF then s else
    (List.range 8).foldl (fun acc k => if b.hostLanes.getLsbD k then acc else acc.loseHostLane (BitVec.ofNat 3 k) 1) s
  if ¬ b.hbmOk then s.setStage 7 5 else
  let s := s.trainFar b
  let part := natLe 7 (sha512 (populationPart r s.mem.population s.mem.msize)).toNat
  let keep := s.fuses.life == 2 && last.any (fun e => e.life.toNat == s.fuses.life.toNat && e.digest == part) && s.recs.warm && s.pins.warmBoot
  let s := { s with
    nor := norStore s.nor (ponArea + 16 * at_ + 9) part
    mgt := { s.mgt with timingDigest := r.timingDigest s.mem.population s.mem.msize } }
  let s := ((s.wipe keep).selfTest b.coresBad).beginRounds.becomeReady
  if f.commit then { s with fuses := { s.fuses with svnDue := min 64 f.svn } } else s

/-- Steps 3 to 10 with the directory chosen. -/
def State.bootFrom (s : State) (b : BootInput) (d : Directory) (evs : List Ev) : State :=
  match s.pick d 0 (s.readObject true) with
  | none => s.setStage 2 2
  | some (f, d, ev1, s) =>
    match s.pick d 1 s.readRecordCopy with
    | none => s.setStage 3 3
    | some ((o, r), _, ev2, s) =>
      let last := lastEntry s.nor
      match s.countPowerOn b.ponOk with
      | none => s.setStage 4 4
      | some (s, place) =>
        let s := (evs ++ ev1 ++ ev2).foldl State.raise (s.startFirmware f)
        s.bootRecords b f o r last place

/-- BOOT (R338, R339). The reference runs (R385). -/
def execBoot (b : BootInput) (s : State) : Host.Outcome State Fault Refusal :=
  .next (if ¬ s.running ∨ s.ready ∨ s.mgt.bootStat ≠ 0 then s else
    let s := { s with pins := { s.pins with refPresent := !s.pins.holdover } }
    match readDirectory s.nor with
    | none => s.setStage 1 1
    | some d =>
      let l := s.lifeCycle
      if l.1.fuses.life = (4 : BitVec 3) then l.1.setStage 2 6 else l.1.bootFrom b d l.2)

/-! ### Staging (R340, R344) -/

/-- Management firmware acts: the device is ready and a half leads. -/
def State.led (s : State) : Bool := s.ready && s.mgt.leaseValid

/-- LIFE_CYCLE_COMMAND (R344, R389): a command received over MCTP, on a bus that serves the device, is written to the command area. -/
def execLifeCycleCommand (cmd : List Byte) (s : State) : Host.Outcome State Fault Refusal :=
  .next (if ¬ s.led ∨ s.pins.i3cFault ∨ s.pins.i3cAddr = none ∨ s.pins.xspiFault then s else
    { s with nor := norStore (norErase s.nor commandArea 0x1000) commandArea (cmd.take 484) })

/-- The directory in use, and the state with it rewritten as `f` says. -/
def State.rewriteDirectory (s : State) (f : BitVec 8 → BitVec 8) : State :=
  match readDirectory s.nor with
  | none => s
  | some d => { s with nor := writeDirectory s.nor (d.next (f d.sel)) }

/-- RECORD_STAGING (R340): a record set written to the copy not in force, and named by the directory if it is good. -/
def execRecordStaging (img : List Byte) (s : State) : Host.Outcome State Fault Refusal :=
  .next (if ¬ s.led ∨ s.pins.xspiFault then s else
    let copy := !s.mgt.bootStat.getLsbD 9
    let s := { s with nor := norStore (norErase s.nor (recordArea copy) 0x800000) (recordArea copy) (img.take 0x800000) }
    if (s.readRecordCopy copy).isSome then s.rewriteDirectory (selBit · 1 copy) else s)

end Sys2Proof.Machine
end

