-- ==== Sys2Proof/Machine/Spdm.lean ====
section
/-!
DEFINITION. The SPDM responder (R349 to R351): requests over MCTP and in ATTEST frames, the nine that are answered, and ERROR. The
layout of messages is that of DMTF SPDM 1.3, which the specification names and does not repeat (assumption 43).
-/
namespace Sys2Proof.Machine

/-! ### Requests and errors -/

/-- Request codes. -/
def rqDigests : Nat := 0x81
def rqCertificate : Nat := 0x82
def rqChallenge : Nat := 0x83
def rqVersion : Nat := 0x84
def rqMeasurements : Nat := 0xE0
def rqCapabilities : Nat := 0xE1
def rqAlgorithms : Nat := 0xE3
def rqCsr : Nat := 0xED
def rqSetCertificate : Nat := 0xEE

/-- Error codes. -/
def errInvalid : Nat := 0x01
def errUnexpected : Nat := 0x04
def errUnspecified : Nat := 0x05
def errUnsupported : Nat := 0x07
def errVersion : Nat := 0x41

/-- An ERROR message. -/
def spdmError (code data : Nat) : List Byte := [0x13, 0x7F, BitVec.ofNat 8 code, BitVec.ofNat 8 data]

/-- The connection of a path. -/
def Mgt.con (m : Mgt) (host : Bool) : SpdmCon := if host then m.hostCon else m.mctpCon

/-- The state with the connection of a path changed. -/
def State.modCon (s : State) (host : Bool) (f : SpdmCon → SpdmCon) : State :=
  if host then { s with mgt := { s.mgt with hostCon := f s.mgt.hostCon } }
  else { s with mgt := { s.mgt with mctpCon := f s.mgt.mctpCon } }

/-- What a signature covers: the prefix of SPDM 1.3 with the name of its use, and the digest of the messages. -/
def signedMessage (use msgs : List Byte) : List Byte :=
  let version : List Byte := [0x64, 0x6D, 0x74, 0x66, 0x2D, 0x73, 0x70, 0x64, 0x6D, 0x2D, 0x76, 0x31, 0x2E, 0x33, 0x2E, 0x2A]
  (List.replicate 4 version).flatten ++ List.replicate (36 - use.length) 0 ++ use ++ digestBytes (sha512 msgs)

/-- "responder-challenge_auth signing" and "responder-measurements signing". -/
def useChallenge : List Byte :=
  [0x72, 0x65, 0x73, 0x70, 0x6F, 0x6E, 0x64, 0x65, 0x72, 0x2D, 0x63, 0x68, 0x61, 0x6C, 0x6C, 0x65, 0x6E, 0x67, 0x65, 0x5F, 0x61, 0x75, 0x74,
   0x68, 0x20, 0x73, 0x69, 0x67, 0x6E, 0x69, 0x6E, 0x67]
def useMeasurements : List Byte :=
  [0x72, 0x65, 0x73, 0x70, 0x6F, 0x6E, 0x64, 0x65, 0x72, 0x2D, 0x6D, 0x65, 0x61, 0x73, 0x75, 0x72, 0x65, 0x6D, 0x65, 0x6E, 0x74, 0x73, 0x20,
   0x73, 0x69, 0x67, 0x6E, 0x69, 0x6E, 0x67]

/-- A signature by the identity key (R350), counted in ATT_SIGCNT. Its secret number is a free value. -/
def State.sign (s : State) (use msgs : List Byte) : List Byte × State :=
  let k := s.takeFrees 10
  (ecdsaSign s.fuses.scalar (scalarOf k.1) (sha512 (signedMessage use msgs)),
    { k.2 with mgt := { k.2.mgt with sigCount := satIncr k.2.mgt.sigCount } })

/-! ### Version, capabilities, algorithms -/

/-- GET_VERSION begins a connection anew. -/
def State.spdmVersion (s : State) (host : Bool) (m : List Byte) : State × List Byte :=
  let r : List Byte := [0x10, 0x04, 0, 0, 0, 1, 0x00, 0x13]
  (s.modCon host (fun _ => { SpdmCon.reset with state := 1, vca := m ++ r }), r)

/-- The responder's capabilities: certificates, CHALLENGE, fresh signed measurements, SET_CERTIFICATE and GET_CSR. -/
def spdmFlags : Nat := 2 + 4 + 0x10 + 0x20 + 2 ^ 19 + 2 ^ 20

/-- GET_CAPABILITIES. -/
def State.spdmCapabilities (s : State) (host : Bool) (m : List Byte) : State × List Byte :=
  let z := natLe 9 Config.spdmSizes.toNat
  let r : List Byte := [0x13, 0x61, 0, 0, 0] ++ z.take 1 ++ [0, 0] ++ natLe 4 spdmFlags ++ z.drop 1
  (s.modCon host (fun c => { c with vca := c.vca ++ m ++ r }), r)

/-- NEGOTIATE_ALGORITHMS: the request must offer P-521 and SHA-512. -/
def State.spdmAlgorithms (s : State) (host : Bool) (m : List Byte) : State × List Byte :=
  if ¬ (rdLe m 8 4).testBit 8 ∨ ¬ (rdLe m 12 4).testBit 2 then (s, spdmError errInvalid 0) else
  let r : List Byte := [0x13, 0x63, 0, 0] ++ natLe 2 36 ++ [1, 0] ++ natLe 4 8 ++ natLe 4 0x100 ++ natLe 4 4 ++ List.replicate 16 0
  (s.modCon host (fun c => { c with state := 2, vca := c.vca ++ m ++ r }), r)

/-! ### Certificates and CHALLENGE -/

/-- GET_DIGESTS for slot 0. -/
def State.spdmDigests (s : State) (host : Bool) (m : List Byte) : State × List Byte :=
  let r : List Byte := match certificate s.nor with
    | some c => [0x13, 0x01, 1, 1] ++ natLe 64 (sha512 c).toNat
    | none => [0x13, 0x01, 1, 0]
  (s.modCon host (fun c => { c with certs := c.certs ++ m ++ r }), r)

/-- GET_CERTIFICATE for slot 0: a portion of the chain. -/
def State.spdmCertificate (s : State) (host : Bool) (m : List Byte) : State × List Byte :=
  let o := rdLe m 4 2
  match certificate s.nor with
  | none => (s, spdmError errInvalid 0)
  | some c =>
    if rdLe m 2 1 ≠ 0 ∨ c.length ≤ o then (s, spdmError errInvalid 0) else
    let part := (c.drop o).take (rdLe m 6 2)
    let r : List Byte := [0x13, 0x02, 0, 0] ++ natLe 2 part.length ++ natLe 2 (c.length - o - part.length) ++ part
    (s.modCon host (fun c => { c with certs := c.certs ++ m ++ r }), r)

/-! ### Measurements (R351) -/

/-- One block in DMTF measurement format: raw, or a digest. -/
def measBlock (i typ : Nat) (raw : Bool) (v : List Byte) : List Byte :=
  natLe 1 i ++ [1] ++ natLe 2 (v.length + 3) ++ natLe 1 (typ + 128 * b2n raw) ++ natLe 2 v.length ++ v

/-- LCS_STATE (R360). -/
def State.lcsState (s : State) : Word :=
  BitVec.ofNat 32 (packBits [(3, s.fuses.life.toNat), (2, s.fuses.returns.toNat), (4, s.fuses.krev.toNat), (4, s.fuses.kset.toNat),
    (7, s.fuses.svn)])

/-- Blocks 1 to 11, as they stand now. -/
def State.measurements (s : State) : List (List Byte) :=
  [measBlock 1 0 true (wordLe Config.romVersion), measBlock 2 1 false (natLe 64 s.mgt.north.digest.toNat),
   measBlock 3 1 false (natLe 64 s.mgt.south.digest.toNat), measBlock 4 3 false (natLe 64 s.mgt.recDigest.toNat),
   measBlock 5 3 false (natLe 64 s.mgt.timingDigest.toNat), measBlock 6 2 true (wordLe s.partId),
   measBlock 7 2 false (natLe 64 s.mapDigest.toNat), measBlock 8 2 true (wordLe s.lcsState), measBlock 9 2 true (wordLe s.pon),
   measBlock 10 2 true (natLe 8 s.beacon), measBlock 11 2 true (natLe 8 s.fuses.serial.toNat)]

/-- The blocks that a request asks for: none, all, or one. -/
def State.asked (s : State) (op : Nat) : Option (List (List Byte)) :=
  if op = 0 then some [] else if op = 0xFF then some s.measurements
  else (s.measurements.drop (op - 1)).head?.map (fun b => [b])

/-- GET_MEASUREMENTS, signed where the request asks for it. -/
def State.spdmMeasurements (s : State) (host : Bool) (m : List Byte) : State × List Byte :=
  let op := rdLe m 3 1
  let signed := (byteAt m 2).getLsbD 0
  match s.asked op with
  | none => (s, spdmError errInvalid 0)
  | some bs =>
    let n := s.takeFrees 4
    let body := bs.flatten
    let r : List Byte := [0x13, 0x60] ++ natLe 1 (if op = 0 then 11 else 0) ++ [0] ++ natLe 1 bs.length ++ natLe 3 body.length ++ body ++
      natLe 32 n.1 ++ natLe 2 0 ++ (if signed then (m.drop 37).take 8 else (m.drop 4).take 8)
    let c := n.2.mgt.con host
    if signed then
      let g := n.2.sign useMeasurements (c.vca ++ c.meas ++ m ++ r)
      (g.2.modCon host (fun c => { c with meas := [] }), r ++ g.1)
    else (n.2.modCon host (fun c => { c with meas := c.meas ++ m ++ r }), r)

/-- CHALLENGE for slot 0. -/
def State.spdmChallenge (s : State) (host : Bool) (m : List Byte) : State × List Byte :=
  match certificate s.nor with
  | none => (s, spdmError errInvalid 0)
  | some cert =>
    if rdLe m 2 1 ≠ 0 then (s, spdmError errInvalid 0) else
    let n := s.takeFrees 4
    let summary := if rdLe m 3 1 = 0 then [] else natLe 64 (sha512 s.measurements.flatten).toNat
    let r : List Byte := [0x13, 0x03, 0, 1] ++ natLe 64 (sha512 cert).toNat ++ natLe 32 n.1 ++ summary ++ natLe 2 0 ++
      (m.drop 36).take 8
    let c := n.2.mgt.con host
    let g := n.2.sign useChallenge (c.vca ++ c.certs ++ m ++ r)
    (g.2.modCon host (fun c => { c with certs := [] }), r ++ g.1)

/-! ### Provisioning (R349) -/

/-- GET_CSR: a request for the identity public key, signed by the identity key. -/
def State.spdmCsr (s : State) : State × List Byte :=
  let k := s.takeFrees 10
  let c := signedRequest s.fuses.scalar (scalarOf k.1) Config.csrSubject Config.csrAttributes
  ({ k.2 with mgt := { k.2.mgt with sigCount := satIncr k.2.mgt.sigCount } }, [0x13, 0x6D, 0, 0] ++ natLe 2 c.length ++ natLe 2 0 ++ c)

/-- SET_CERTIFICATE for slot 0: refused when the leaf key is not the identity key, abandoned when the configuration memory fails. -/
def State.spdmSetCertificate (s : State) (m : List Byte) : State × List Byte :=
  let c := m.drop 4
  if rdLe m 2 1 % 16 ≠ 0 ∨ c = [] ∨ 65532 < c.length ∨ leafKey c ≠ some s.publicKey then (s, spdmError errInvalid 0)
  else if s.pins.xspiFault then (s, spdmError errUnspecified 0)
  else ({ s with
      nor := norStore (norErase s.nor certArea 0x10000) certArea (natLe 4 c.length ++ c)
      mgt := { s.mgt with certOk := true } }, [0x13, 0x6E, 0, 0])

/-! ### Taking a request -/

/-- The codes that are answered on this path now: GET_CSR and SET_CERTIFICATE only in PROVISIONED and over MCTP. -/
def State.spdmAnswers (s : State) (host : Bool) (code : Nat) : Bool :=
  [rqVersion, rqCapabilities, rqAlgorithms, rqDigests, rqCertificate, rqChallenge, rqMeasurements].contains code ||
    ([rqCsr, rqSetCertificate].contains code && !host && s.fuses.life == 1)

/-- The response to a request, and the state behind it. -/
def State.spdmRespond (s : State) (host : Bool) (m : List Byte) : State × List Byte :=
  let code := rdLe m 1 1
  let con := (s.mgt.con host).state.toNat
  if ¬ s.spdmAnswers host code then (s, spdmError errUnsupported code)
  else if code = rqVersion then s.spdmVersion host m
  else if rdLe m 0 1 ≠ 0x13 then (s, spdmError errVersion 0)
  else if con = 0 then (s, spdmError errUnexpected 0)
  else if code = rqCapabilities then s.spdmCapabilities host m
  else if code = rqAlgorithms then s.spdmAlgorithms host m
  else if con = 1 then (s, spdmError errUnexpected 0)
  else if code = rqDigests then s.spdmDigests host m
  else if code = rqCertificate then s.spdmCertificate host m
  else if code = rqChallenge then s.spdmChallenge host m
  else if code = rqMeasurements then s.spdmMeasurements host m
  else if code = rqCsr then s.spdmCsr
  else s.spdmSetCertificate m

/-- An ATTEST frame (R273): its body is one message. -/
def State.attestFrame (s : State) (f : HostFrame) : State :=
  if f.job != 0xFF || f.body == [] then s.refuse 0x09 f stMalformed else
  let r := s.spdmRespond true f.body
  r.1.answer f.qpn 0x89 f.tag 0xFF 0 r.2

/-- A request over MCTP. -/
def State.mctpRequest (s : State) (m : List Byte) : State :=
  let r := s.spdmRespond false m
  { r.1 with mgt := { r.1.mgt with spdmOut := r.1.mgt.spdmOut ++ [r.2] } }

/-- A request arrives. The bus must serve the device, and during an arbitration hold the request waits with the frames (R356). -/
def State.spdm (s : State) (i : Instr) (q : SpdmReq) : State :=
  match q with
  | .host f => s.hostFrame i 0x09 0 f (fun s => s.attestFrame f)
  | .mctp m =>
    if !s.ready || s.pins.i3cFault || s.pins.i3cAddr.isNone then s
    else if s.mgt.hold then { s with host := { s.host with heldFrames := s.host.heldFrames ++ [(s.beacon, i)] } }
    else s.mctpRequest m

/-- The bytes of a request. -/
def spdmMsg : SpdmReq → List Byte
  | .mctp m => m
  | .host f => f.body

/-- The rows name the request code; a message of another code is another row's. -/
def State.spdmRow (s : State) (i : Instr) (q : SpdmReq) (code : Nat) : State :=
  if rdLe (spdmMsg q) 1 1 = code then s.spdm i q else s

/-- GET_VERSION (R350). -/
def execGetVersion (q : SpdmReq) (s : State) : Host.Outcome State Fault Refusal := .next (s.spdmRow (.getVersion q) q rqVersion)

/-- GET_CAPABILITIES (R350). -/
def execGetCapabilities (q : SpdmReq) (s : State) : Host.Outcome State Fault Refusal :=
  .next (s.spdmRow (.getCapabilities q) q rqCapabilities)

/-- NEGOTIATE_ALGORITHMS (R350). -/
def execNegotiateAlgorithms (q : SpdmReq) (s : State) : Host.Outcome State Fault Refusal :=
  .next (s.spdmRow (.negotiateAlgorithms q) q rqAlgorithms)

/-- GET_DIGESTS (R350). -/
def execGetDigests (q : SpdmReq) (s : State) : Host.Outcome State Fault Refusal := .next (s.spdmRow (.getDigests q) q rqDigests)

/-- GET_CERTIFICATE (R350). -/
def execGetCertificate (q : SpdmReq) (s : State) : Host.Outcome State Fault Refusal :=
  .next (s.spdmRow (.getCertificate q) q rqCertificate)

/-- CHALLENGE (R350). -/
def execChallenge (q : SpdmReq) (s : State) : Host.Outcome State Fault Refusal := .next (s.spdmRow (.challenge q) q rqChallenge)

/-- GET_MEASUREMENTS (R351). -/
def execGetMeasurements (q : SpdmReq) (s : State) : Host.Outcome State Fault Refusal :=
  .next (s.spdmRow (.getMeasurements q) q rqMeasurements)

/-- GET_CSR (R349). -/
def execGetCsr (q : SpdmReq) (s : State) : Host.Outcome State Fault Refusal := .next (s.spdmRow (.getCsr q) q rqCsr)

/-- SET_CERTIFICATE (R349). -/
def execSetCertificate (q : SpdmReq) (s : State) : Host.Outcome State Fault Refusal :=
  .next (s.spdmRow (.setCertificate q) q rqSetCertificate)

/-- UNSUPPORTED_REQUEST (R350): any other request. -/
def execUnsupportedRequest (q : SpdmReq) (s : State) : Host.Outcome State Fault Refusal :=
  .next (if [rqVersion, rqCapabilities, rqAlgorithms, rqDigests, rqCertificate, rqChallenge, rqMeasurements, rqCsr, rqSetCertificate].contains
      (rdLe (spdmMsg q) 1 1) then s else s.spdm (.unsupportedRequest q) q)

end Sys2Proof.Machine
end

