-- ==== Sys2Proof/Machine/Halves.lean ====
section
/-!
DEFINITION. The two management halves (R353 to R358): health, lease, handover, disputes and arbitration holds, the frames that a hold
keeps, and live firmware update. An update goes on one half at a time, at the commands that say so (assumption 44).
-/
namespace Sys2Proof.Machine

/-! ### Health and lease (R353, R354) -/

/-- Half `h`: false for north, true for south. -/
def Mgt.half (m : Mgt) (h : Bool) : Half := if h then m.south else m.north

/-- The state with a half changed. -/
def State.modHalf (s : State) (h : Bool) (f : Half → Half) : State :=
  if h then { s with mgt := { s.mgt with south := f s.mgt.south } } else { s with mgt := { s.mgt with north := f s.mgt.north } }

/-- HALF_UNHEALTHY (R353): by the half's firmware, or by the watchdog 20,000 ticks after its last heartbeat. -/
def execHalfUnhealthy (half watchdog : Bool) (s : State) : Host.Outcome State Fault Refusal :=
  .next (
    let h := s.mgt.half half
    if ¬ s.ready ∨ ¬ h.health ∨ (watchdog ∧ s.beacon < h.beat + 20000) then s else
    (s.modHalf half (fun h => { h with health := false })).raiseDev 0x3403 clsDevice (b2n half))

/-- A write of HOLDER by the holder: the other half's number hands over between submissions, its own renews the lease. -/
def State.writeHolder (s : State) (target : Bool) : State :=
  if target = s.mgt.holder then { s with mgt := { s.mgt with renewed := s.beacon } } else
  let s := { s with mgt := { s.mgt with handover := true } }
  if s.adm.current.isSome then s else s.passLease

/-- LEASE_HANDOVER (R354). -/
def execLeaseHandover (holder target : Bool) (s : State) : Host.Outcome State Fault Refusal :=
  .next (if s.holds holder then s.writeHolder target else s)

/-- The lease has not been renewed for 50,000 ticks. -/
def State.leaseExpired (s : State) : Bool := s.mgt.leaseValid && decide (s.mgt.renewed + 50000 ≤ s.beacon)

/-- A half can claim: it is healthy and not reloading. -/
def State.canClaim (s : State) (h : Bool) : Bool := (s.mgt.half h).health && !(s.mgt.half h).reload

/-- LEASE_CLAIM (R354): of two halves that claim in one tick the senior takes the lease. -/
def execLeaseClaim (north south : Bool) (s : State) : Host.Outcome State Fault Refusal :=
  .next (if ¬ s.ready ∨ ¬ s.leaseExpired then s else
    let n := north && s.canClaim false
    let t := south && s.canClaim true
    if n && t then s.lead s.fuses.seniorSouth else if n then s.lead false else if t then s.lead true else s)

/-! ### Disputes (R355, R356) -/

/-- What the admission unit has in progress is refused with ADMISSION_HOLD and reserves nothing. -/
def State.refuseCurrent (s : State) : State :=
  match s.adm.current with
  | none => s
  | some b =>
    let again := (s.adm.loading.bind (fun x => s.job x.1)).bind (fun j => j.readmitted)
    let s := s.dropAdmission
    match again with
    | some j => s.send (.frame 0x10 0x81 b.tag (BitVec.ofNat 8 j) rsHold [])
    | none => s.refuseSubmit b rsHold

/-- The firmware slot not in force. -/
def State.spareSlot (s : State) : Bool := !s.mgt.bootStat.getLsbD 8

/-- A half that was reloading runs the slot in force. -/
def State.endReload (s : State) (h : Bool) : State :=
  s.modHalf h (fun x => if x.reload then { x with health := true, reload := false, beat := s.beacon } else x)

/-- The update is abandoned: the staged slot is marked bad, and a half that was reloading runs the slot in force. `half` failed, if one
did. -/
def State.abandonUpdate (s : State) (version : Nat) (half : Bool) : State :=
  let s := (s.endReload false).endReload true
  ({ s with mgt := { s.mgt with update := none } }.rewriteDirectory (selBit · (2 + b2n s.spareSlot) true)).raiseDev 0x3305 clsNote
    (version + b2n half <<< 32)

/-- A dispute during an update abandons it (R358). -/
def State.disputeUpdate (s : State) : State :=
  match s.mgt.update with
  | some u => s.abandonUpdate u.version (!s.mgt.holder)
  | none => s

/-- An arbitration hold begins. -/
def State.beginHold (s : State) : State :=
  let idle (h : Half) : Half := { h with posted := false, role := 0 }
  let s := { s with mgt := { s.mgt with
    leaseValid := false, handover := false, hold := true, holdFrom := s.beacon
    north := idle s.mgt.north, south := idle s.mgt.south } }
  (s.raiseDev 0x3401 clsNote 0).refuseCurrent.startNext

/-- LEASE_DISPUTE (R355): the lease expires, or (`both`) both halves claim to lead. -/
def execLeaseDispute (both : Bool) (s : State) : Host.Outcome State Fault Refusal :=
  .next (if s.ready ∧ s.mgt.leaseValid ∧ (both ∨ s.leaseExpired)
    then { s.disputeUpdate with mgt := { s.disputeUpdate.mgt with disputeFrom := s.beacon, told := false } }.beginHold else s)

/-- A frame or request that waited through a hold, handled as it would have been when it came. -/
def State.handleHeld (s : State) (x : Nat × Instr) : State :=
  let take (f : HostFrame) (typ : BitVec 8) (lead : Nat) (act : State → State) : State :=
    s.arrived f.qpn (frameSize f lead) (fun s => s.takeFrame typ lead f act)
  let attest (q : SpdmReq) : State := match q with
    | .mctp m => s.mctpRequest m
    | .host f => take f 0x09 0 (fun s => s.attestFrame f)
  match x.2 with
  | .queryDevice f => take f 0x02 1 (fun s => s.queryDeviceFrame f)
  | .queryJob f => take f 0x02 1 (fun s => s.queryJobFrame f)
  | .pause f => take f 0x03 0 (fun s => s.pauseFrame f x.1)
  | .resume f => take f 0x04 0 (fun s => s.resumeFrame f)
  | .detach f => take f 0x05 0 (fun s => s.detachFrame f)
  | .abort f => take f 0x06 0 (fun s => s.abortFrame f)
  | .signalIncrement f => take f 0x07 1 (fun s => s.incrementFrame f)
  | .signalConsume f => take f 0x07 1 (fun s => s.consumeFrame f)
  | .taskMsg f => take f 0x08 0 (fun s => s.taskMsgFrame f)
  | .rebind f => take f 0x0A 0 (fun s => s.rebindFrame f)
  | .unknownType typ f => take f typ 0 id
  | .getVersion q | .getCapabilities q | .negotiateAlgorithms q | .getDigests q | .getCertificate q | .challenge q
  | .getMeasurements q | .getCsr q | .setCertificate q | .unsupportedRequest q => attest q
  | _ => s

/-- The hold has run its length, or both halves have posted their HEALTH bits. -/
def State.holdOver (s : State) : Bool :=
  s.mgt.hold && (decide (s.mgt.holdFrom + 100000 ≤ s.beacon) || (s.mgt.north.posted && s.mgt.south.posted))

/-- A waiting frame or request handled, unless those of its queue pair still wait (R273). -/
def State.takeHeldOne (s : State) (x : Nat × Instr) : State :=
  if (heldFrame x.2).any (fun f => s.qpBlocked f.qpn.toNat) then { s with host := { s.host with heldFrames := s.host.heldFrames ++ [x] } }
  else s.handleHeld x

/-- Outside a hold, what waits and need not is handled in order of arrival. -/
def State.takeHeld (s : State) : State :=
  if s.mgt.hold || s.host.heldFrames.isEmpty then s else
  s.host.heldFrames.foldl State.takeHeldOne { s with host := { s.host with heldFrames := [] } }

/-- The lease granted to half `h` after a hold: what waited is handled in order of arrival. -/
def State.grant (s : State) (h : Bool) : State :=
  let s := { s with mgt := { s.mgt with hold := false, told := false } }.lead h
  (((s.raiseDev 0x3402 clsNote (b2n h)).takeHeld).startNext).startAllDeferred

/-- LEADER_CHANGE (R355): the end of a hold. With no healthy half a new hold begins. -/
def execLeaderChange (s : State) : Host.Outcome State Fault Refusal :=
  .next (if ¬ s.holdOver then s else
    let senior := s.fuses.seniorSouth
    if (s.mgt.half senior).health then s.grant senior
    else if (s.mgt.half (!senior)).health then s.grant (!senior)
    else s.beginHold)

/-- NO_LEADER (R355): holds have lasted more than 10 ms. -/
def execNoLeader (s : State) : Host.Outcome State Fault Refusal :=
  .next (if ¬ s.mgt.hold ∨ s.mgt.told ∨ s.beacon ≤ s.mgt.disputeFrom + 1000000 then s else
    { s with mgt := { s.mgt with told := true } }.raiseDev 0x3404 clsDevice 0)

/-! ### Live firmware update (R357, R358) -/

/-- Firmware can update itself: a half leads, both are healthy, and the configuration memory can be written. -/
def State.canUpdate (s : State) : Bool := s.led && s.mgt.north.health && s.mgt.south.health && !s.pins.xspiFault

/-- An image written into the slot not in force. -/
def State.stageSlot (s : State) (img : List Byte) : State :=
  { s with nor := norStore (norErase s.nor (slotArea s.spareSlot) 0x1000000) (slotArea s.spareSlot) (img.take 0x1000000) }

/-- The new slot is in force. -/
def State.completeUpdate (s : State) (version : Nat) : State :=
  let b := s.spareSlot
  let s := s.rewriteDirectory (fun sel => selBit (selBit sel 0 b) (2 + b2n b) false)
  let s := { s with mgt := { s.mgt with bootStat := (s.mgt.bootStat &&& 0xFFFFFEFF) ||| (if b then 0x100 else 0) } }
  s.raiseDev 0x3304 clsNote version

/-- Half `h` runs firmware `o`. -/
def State.reload (s : State) (h : Bool) (o : Signed) : State :=
  s.modHalf h (fun x => { x with fwver := o.version, digest := o.digest, health := true, reload := false, beat := s.beacon })

/-- A half enters RELOAD. -/
def State.enterReload (s : State) (h second : Bool) (version : Nat) : State :=
  let s := s.modHalf h (fun x => { x with reload := true, health := false })
  { s with mgt := { s.mgt with update := some ⟨second, version, s.beacon, false⟩ } }

/-- The update ends with the lease back at the half that led. -/
def State.endUpdate (s : State) (h : Bool) (version : Nat) : State :=
  ({ s with mgt := { s.mgt with update := none } }.lead h).completeUpdate version

/-- FIRMWARE_UPDATE (R357): with none in progress, the image is written into the slot not in force and verified, and the follower enters
RELOAD. With one in progress, the half that reloads runs the new firmware and sets HEALTH. After the first, the leader hands the lease
over and enters RELOAD itself; after the second it is handed the lease back, and the directory is rewritten. The lease passes between
submissions. -/
def execFirmwareUpdate (img : List Byte) (s : State) : Host.Outcome State Fault Refusal :=
  .next (match s.mgt.update with
    | none =>
      if ¬ s.canUpdate then s else
      let s := s.stageSlot img
      match s.readObject true s.spareSlot with
      | none => s.abandonUpdate (rdLe img 8 4) false
      | some o => s.enterReload (!s.mgt.holder) false o.version.toNat
    | some u =>
      if ¬ s.led ∨ s.adm.current.isSome ∨ s.pins.xspiFault then s else
      let h := !s.mgt.holder
      match s.readObject true s.spareSlot with
      | none => s
      | some o =>
        if u.second then (s.reload h o).endUpdate h u.version
        else ((s.reload h o).lead h).enterReload (!h) true u.version)

/-- 2 s in beacon ticks. -/
def reloadTimeout : Nat := 200000000

/-- UPDATE_FAILED (R358): the staged slot fails verification; or the half that reloads has not set HEALTH for 2 s. The first to reload runs
the slot in force again, and the update is abandoned. The second retries once from the new slot, and then stays unhealthy while the
directory is still rewritten. `second` names the half. -/
def execUpdateFailed (img : List Byte) (second : Bool) (s : State) : Host.Outcome State Fault Refusal :=
  .next (match s.mgt.update with
    | none =>
      if ¬ s.canUpdate ∨ second ∨ ((s.stageSlot img).readObject true s.spareSlot).isSome then s
      else (s.stageSlot img).abandonUpdate (rdLe img 8 4) false
    | some u =>
      let h := !s.mgt.holder
      if u.second ≠ second ∨ ¬ s.led ∨ s.beacon < u.since + reloadTimeout then s
      else if ¬ second then s.abandonUpdate u.version h
      else if ¬ u.retried then { s with mgt := { s.mgt with update := some { u with since := s.beacon, retried := true } } }
      else (s.modHalf h (fun x => { x with reload := false })).endUpdate s.mgt.holder u.version)

end Sys2Proof.Machine
end

