-- ==== Sys2Proof/Machine/Pins.lean ====
section
/-!
DEFINITION. The sideband pins (R373, R389, R391): the I3C address, line faults, and the test port. A test port command stands for
loading the instruction and passing through its capture and update states; `tapData` is what then shifts out.
-/
namespace Sys2Proof.Machine

/-! ### I3C (R373, R389) -/

/-- The I3C target answers on the bus. -/
def State.i3cServes (s : State) : Bool := s.running && !s.pins.i3cFault

/-- The state with a dynamic I3C address. -/
def State.setI3cAddr (s : State) (addr : BitVec 7) : State := { s with pins := { s.pins with i3cAddr := some addr } }

/-- ENTDAA (R389): a target without a dynamic address takes one. -/
def execEntdaa (addr : BitVec 7) (s : State) : Host.Outcome State Fault Refusal :=
  .next (if s.i3cServes ∧ s.pins.i3cAddr = none then s.setI3cAddr addr else s)

/-- SETDASA (R389): the same, called by the static address 0x3A. -/
def execSetdasa (statAddr addr : BitVec 7) (s : State) : Host.Outcome State Fault Refusal :=
  .next (if s.i3cServes ∧ s.pins.i3cAddr = none ∧ statAddr = 0x3A then s.setI3cAddr addr else s)

/-- I3C_FAULT (R373): a line held against its driven level for 1 ms: SCL, or SDA where `line`. -/
def execI3cFault (line high : Bool) (s : State) : Host.Outcome State Fault Refusal :=
  .next (if ¬ s.i3cServes then s else
    { s with pins := { s.pins with i3cFault := true, i3cTick := s.beacon } }.raiseDev 0x4601 clsNote (b2n line + 16 * b2n high))

/-- I3C_BUS_RETRY (R373): 100 ms after the fault or the last retry. -/
def execI3cBusRetry (cleared : Bool) (s : State) : Host.Outcome State Fault Refusal :=
  .next (if ¬ s.running ∨ ¬ s.pins.i3cFault ∨ s.beacon < s.pins.i3cTick + 10000000 then s
    else if cleared then { s with pins := { s.pins with i3cFault := false } }
    else { s with pins := { s.pins with i3cTick := s.beacon } })

/-! ### Other lines (R373) -/

/-- XSPI_FAULT (R373): a read or write check of the configuration memory fails. Before ready the boot stops; after it writes are
abandoned and the device runs on. Lines are numbered 0 to 11. -/
def execXspiFault (line : BitVec 4) (high : Bool) (s : State) : Host.Outcome State Fault Refusal :=
  .next (if ¬ s.running ∨ s.pins.xspiFault ∨ 11 < line.toNat then s else
    let s := { s with pins := { s.pins with xspiFault := true } }.raiseDev 0x4602 clsNote (line.toNat + 16 * b2n high)
    if s.ready ∨ s.mgt.bootStat ≠ 0 then s else s.setStage 1 1)

/-- ALERT_FAULT (R373): ALERT_N held against its driven level for 1 ms. The log stays readable. -/
def execAlertFault (high : Bool) (s : State) : Host.Outcome State Fault Refusal :=
  .next (if ¬ s.running ∨ s.pins.alertFault then s else
    { s with pins := { s.pins with alertFault := true } }.raiseDev 0x4603 clsNote (16 * b2n high))

/-! ### The test port (R391) -/

/-- The IDCODE value; VERSION is fused. -/
def idcodeValue (stepping : BitVec 4) : BitVec 32 := stepping ++ 0x58A8#16 ++ 0x2D7#11 ++ 1#1

/-- The bits of a word, bit 0 first. -/
def wordBits (v : BitVec 32) : List Bool := (List.range 32).map (fun i => v.getLsbD i)

/-- The port takes instructions in every life-cycle state, while there is power and TRST_N is high. -/
def State.tapOpen (s : State) : Bool := s.pins.powered && !s.pins.tapReset

/-- Instruction `i` in the port, with the register it selects captured and what it drives on the balls. -/
def Pins.tap (p : Pins) (i : BitVec 4) (data driven : List Bool) : Pins :=
  { p with tapInstr := i, tapData := data, driven := driven }

/-- BYPASS (R391): the one-bit register, which captures 0. -/
def execBypass (s : State) : Host.Outcome State Fault Refusal :=
  .next (if s.tapOpen then { s with pins := s.pins.tap 15 [false] [] } else s)

/-- IDCODE (R391). -/
def execIdcode (s : State) : Host.Outcome State Fault Refusal :=
  .next (if s.tapOpen then { s with pins := s.pins.tap 1 (wordBits (idcodeValue s.fuses.stepping)) [] } else s)

/-- Levels in the cells of the chain, one for each ball. -/
def chainOf (bs : List Bool) : List Bool := (List.range chainLength).map (fun i => (bs[i]?).getD false)

/-- SAMPLE/PRELOAD (R391): the levels of the balls are captured, and the chain is loaded. -/
def execSamplePreload (pins load : List Bool) (s : State) : Host.Outcome State Fault Refusal :=
  .next (if s.tapOpen then { s with pins := { s.pins.tap 2 (chainOf pins) [] with boundary := chainOf load } } else s)

/-- EXTEST (R391): the balls are driven from the chain, and the levels on them, which the row does not name, are captured: free values
(assumption 64). -/
def execExtest (s : State) : Host.Outcome State Fault Refusal :=
  .next (if s.tapOpen then
      let n := s.takeFrees (ceilDiv chainLength 64)
      { n.2 with pins := n.2.pins.tap 0 ((List.range chainLength).map n.1.testBit) s.pins.boundary }
    else s)

/-- TRST_N (R391): low holds the port in reset, with IDCODE selected and nothing driven; the device is not affected. -/
def execTrstN (low : Bool) (s : State) : Host.Outcome State Fault Refusal :=
  .next (if low then { s with pins := { s.pins.tap 1 [] [] with tapReset := true } }
    else { s with pins := { s.pins with tapReset := false } })

end Sys2Proof.Machine
end

