-- ==== Sys2Proof/Machine/Regs.lean ====
section
/-!
DEFINITION. Registers and memories by physical address (R7, R400 to R405): the block of an address, what every register reads, the
latching reads, and the writes of firmware and debuggers. Registers whose rule names another writer (the loader, admission, a record
or hardware alone) ignore the writes of firmware.
-/
namespace Sys2Proof.Machine

/-! ### Blocks (R403) -/

/-- A register block; `core` and `acc` name a core by its key, `dma` blocks are compute dies 0 to 7 and IO dies 8 and 9. -/
inductive Blk where
  | mgt | lcs | att | evt | clk | snf | bcn | pwr | hst | hbm | ddr
  | noc (d : Nat) | dma (blk : Nat) | bxl (i : Nat)
  | tbl (t : Nat) | dlr (t : Nat) | syn (t : Nat) | chn (t : Nat) | spd (t : Nat) | shf (t : Nat)
  | core (k : Nat) | acc (k : Nat)
  deriving DecidableEq, Repr

/-- The block of a table at offset `o` of the table's range. -/
def tableBlk (t o : Nat) : Option (Blk × Nat) :=
  match o / 0x1000 with
  | 0 => some (.tbl t, o)
  | 1 => some (.dlr t, o - 0x1000)
  | 2 => some (.syn t, o - 0x2000)
  | 3 => some (.chn t, o - 0x3000)
  | 4 => some (if o < 0x4100 then (.spd t, o - 0x4000) else (.shf t, o - 0x4100))
  | _ => none

/-- The blocks from 0x3000_0000_0000 on, by offset. -/
def deviceBlk (o : Nat) : Option (Blk × Nat) :=
  if 0x400000 ≤ o then none
  else if 0x300000 ≤ o then some (.ddr, o - 0x300000)
  else if 0x200000 ≤ o then some (.hbm, o - 0x200000)
  else if 0x100000 ≤ o then some (.hst, o - 0x100000)
  else match o / 0x10000 with
    | 0 => some (.mgt, o)
    | 1 => some (.lcs, o - 0x10000)
    | 2 => some (.att, o - 0x20000)
    | 4 | 5 => some (.evt, o - 0x40000)
    | 6 => some (.clk, o - 0x60000)
    | 7 => some (.snf, o - 0x70000)
    | 8 => some (.bcn, o - 0x80000)
    | 9 => some (.pwr, o - 0x90000)
    | _ => none

/-- The block of a physical address and the offset in it. -/
def blockOf (a : Nat) : Option (Blk × Nat) :=
  if coreBase 0 ≤ a then
    let o := a - coreBase 0
    let t := o / 0x1000000
    let c := o % 0x1000000 / 0x40000
    let r := o % 0x40000
    if 64 ≤ t ∨ 34 ≤ c then none else some (if r < 0x20000 then (.core (34 * t + c), r) else (.acc (34 * t + c), r - 0x20000))
  else if tblBase 0 ≤ a then
    let o := a - tblBase 0
    if 0x4000000 ≤ o then none else tableBlk (o / 0x100000) (o % 0x100000)
  else if bxlBase 0 ≤ a then
    let o := a - bxlBase 0
    if 0x200000 ≤ o then none else some (.bxl (o / 0x100000), o % 0x100000)
  else if dmaBase 8 ≤ a then
    let o := a - dmaBase 8
    if 0x80000 ≤ o then none else some (.dma (8 + o / 0x40000), o % 0x40000)
  else if dmaBase 0 ≤ a then
    let o := a - dmaBase 0
    if 0x200000 ≤ o then none else some (.dma (o / 0x40000), o % 0x40000)
  else if nocBase 0 ≤ a then
    let o := a - nocBase 0
    if 0x800000 ≤ o then none else some (.noc (o / 0x100000), o % 0x100000)
  else if mgtBase ≤ a then deviceBlk (a - mgtBase)
  else none

/-- The block belongs to a defective core or to a table out of service (R401). -/
def State.absent (s : State) : Blk → Bool
  | .tbl t | .dlr t | .syn t | .chn t | .spd t | .shf t => s.outOfService t
  | .core k | .acc k => s.outOfService (k / 34) || field (s.pcore (k / 34) (k % 34)) 1 0 == 2
  | _ => false

/-! ### What registers read -/

/-- A word made of fields, the first in the least significant bits. -/
def packWord (fs : List (Nat × Nat)) : Word := BitVec.ofNat 32 (packBits fs)

/-- Element `i` of a group of `n` registers `step` apart from offset `base`, if `off` is one of them. -/
def indexOf (off base step n : Nat) : Option Nat :=
  if base ≤ off ∧ (off - base) % step = 0 ∧ (off - base) / step < n then some ((off - base) / step) else none

/-- MGT_CAPACITY (R379). -/
def State.capacity (s : State) : Word :=
  packWord [(7, s.inService.length), (1, b2n ((List.range 16).any (fun n => (s.csrAt (stkStat n)).getLsbD 3))),
    (5, s.mem.population.length - s.mem.holes.length), (1, b2n s.host.mode),
    (16, leNat ((List.range 2).map (fun i => BitVec.ofNat 8 (packBits ((List.range 8).map (fun q =>
      (1, b2n ((s.port (8 * i + q)).degraded || (s.port (8 * i + q)).state == 3))))))))]

/-- MGT_HALFn_STAT (R360). -/
def State.halfStat (s : State) (h : Bool) : Word :=
  let x := s.mgt.half h
  packWord [(1, b2n x.health), (1, b2n (s.fuses.seniorSouth == h)), (2, x.role.toNat), (1, b2n x.reload)]

/-- The MGT block (R6, R345, R360, R379, R404). -/
def State.readMgt (s : State) (off : Nat) : Word :=
  if off = 0 then s.partId
  else if off = 4 then s.mgt.bootStat
  else if off = 0x10 then packWord [(1, b2n s.mgt.holder), (1, b2n s.mgt.leaseValid), (1, b2n s.mgt.hold)]
  else if off = 0x20 then s.halfStat false
  else if off = 0x24 then s.halfStat true
  else if off = 0x28 then s.mgt.north.fwver
  else if off = 0x2C then s.mgt.south.fwver
  else if off = 0x30 then s.fuses.serial.extractLsb' 0 32
  else if off = 0x34 then s.fuses.serial.extractLsb' 32 32
  else if off = 0x40 then s.capacity
  else match indexOf off 0x100 4 64, indexOf off 0x200 4 64, indexOf off 0x4000 4 4096 with
    | some n, _, _ => (s.tblStat n).zeroExtend 32
    | _, some n, _ => BitVec.ofNat 32 (s.physTable n)
    | _, _, some i => if i % 64 < 34 then (s.pcore (i / 64) (i % 64)).zeroExtend 32 else 0
    | _, _, _ => 0

/-- The ATT block (R405). -/
def State.readAtt (s : State) (off : Nat) : Word :=
  if off = 0 then packWord [(2, s.mgt.mctpCon.state.toNat), (2, s.mgt.hostCon.state.toNat), (1, b2n s.mgt.certOk)]
  else if off = 4 then s.mgt.sigCount
  else 0

/-- The EVT block (R379). -/
def State.readEvt (s : State) (off : Nat) : Word :=
  if off = 0 then s.log.head.zeroExtend 32
  else if off = 4 then s.log.tail.zeroExtend 32
  else if off = 8 then s.log.lost
  else if off = 0xC then packWord [(1, b2n s.log.full), (1, b2n s.alert)]
  else match indexOf off 0x10000 4 8192 with
    | some i => (SMap.get 0 s.log.recs (i / 8)).extractLsb' (32 * (i % 8)) 32
    | none => 0

/-- The CLK block (R330). -/
def State.readClk (s : State) (off : Nat) : Word :=
  if off = 0 then packWord [(6, s.recs.permit.toNat), (3, s.recs.floor.toNat), (3, s.recs.pin.toNat), (1, b2n (s.recs.scope != 0))]
  else if off = 4 then packWord [(1, b2n s.pins.refPresent), (1, b2n s.pins.holdover)]
  else if off = 8 then s.stepsRef
  else match indexOf off 0x100 8 82, indexOf off 0x104 8 82 with
    | some r, _ => (s.region r).tgt.zeroExtend 32
    | _, some r =>
      let g := s.region r
      packWord [(3, g.step.toNat), (1, b2n g.changing), (4, 0), (8, g.temp.toNat), (16, g.steps.toNat)]
    | _, _ => 0

/-- Ticks that region `r` has been stopped for any cause, with the stop in progress. -/
def State.stopTicks (s : State) (r : Nat) : Word :=
  let g := s.region r
  if s.stopped r then satAdd g.total ((s.now11 - g.stopAt.getD s.now11) / 11) else g.total

/-- The SNF block (R330); SNF_RGNr_HREQ is write only. -/
def State.readSnf (s : State) (off : Nat) : Word :=
  if off = 0 then packWord [(10, s.recs.allow), (8, s.recs.thold), (8, s.recs.ttrip)]
  else match indexOf off 0x100 0x10 82, indexOf off 0x104 0x10 82, indexOf off 0x10C 0x10 82 with
    | some r, _, _ => (s.region r).cause.zeroExtend 32
    | _, some r, _ => BitVec.ofNat 32 ((s.region r).heldNow s.beacon)
    | _, _, some r => s.stopTicks r
    | _, _, _ => 0

/-- The BCN block (R330) without its _HI registers. -/
def State.readBcn (s : State) (off : Nat) : Word :=
  if off = 0 then BitVec.ofNat 32 s.beacon
  else if off = 8 then s.pon
  else if off = 0xC then packWord [(1, b2n s.pins.holdover), (1, b2n s.pins.ponSat)]
  else if off = 0x10 then BitVec.ofNat 32 s.round0
  else 0

/-- The PWR block (R384). -/
def State.readPwr (s : State) (off : Nat) : Word :=
  if off = 0 then s.pins.vin.zeroExtend 32
  else if off = 4 then s.pins.iin.zeroExtend 32
  else if off = 8 then packWord [(16, s.pins.pin.toNat), (16, s.pins.peak.toNat)]
  else if off = 0xC then packWord [(12, s.recs.plim)]
  else if off = 0x10 then packWord [(1, b2n s.pins.inRange), (1, b2n s.pins.isOver)]
  else 0

/-- The HST block (R181, R285). -/
def State.readHst (s : State) (off : Nat) : Word :=
  if off = 0 then packWord [(1, b2n s.host.link), (1, b2n s.host.mode), (8, s.host.lanes.toNat)]
  else if off = 4 then (s.qp 16).state.zeroExtend 32
  else if off = 8 then s.host.drop
  else match indexOf off 0x100 8 64, indexOf off 0x104 8 64, indexOf off 0x10000 4 4096 with
    | some j, _, _ => packWord [(24, (s.qp (256 + j)).hqpn.toNat), (2, (s.qp (256 + j)).state.toNat)]
    | _, some j, _ => BitVec.ofNat 32 (((s.job j).map (·.share)).getD 0)
    | _, _, some i =>
      packWord [(24, (SMap.get 0 s.hctr i).toNat),
        (2, (((s.job (i / 64)).map (fun (b : Job) => SMap.get 0 b.ctrDir (i % 64))).getD 0).toNat)]
    | _, _, _ => 0

/-- The HBM block (R216, R405). -/
def State.readHbm (s : State) (off : Nat) : Word :=
  if off = 0 then packWord [(1, b2n s.pinnedMode)] else s.csrAt (hbmBase + off)

/-- The DDR block (R216, R405). -/
def State.readDdr (s : State) (off : Nat) : Word :=
  if off = 0 then packWord [(1, b2n s.pinnedMode), (1, b2n s.recs.warm)]
  else if off = 4 then packWord [(16, s.recs.ddrList.toNat),
    (16, ((s.mem.population.filter (fun n => !s.mem.holes.contains n)).map (1 <<< ·)).sum)]
  else if off = 8 then packWord [(9, s.mem.msize >>> 30), (5, s.mem.population.length)]
  else s.csrAt (ddrBase + off)

/-- Rounds that die network `d` has completed since round 0 (R186). -/
def State.rounds (s : State) (d : Nat) : Nat := if s.ready then s.net (64 + d) / s.slots else 0

/-- Two 16-bit entries of a window in one word. -/
def pairWord (f : Nat → BitVec 16) (i : Nat) : Word := f (2 * i + 1) ++ f (2 * i)

/-- The NOC block of die `d` (R208) without NOC_ROUND_HI. -/
def State.readNoc (s : State) (d off : Nat) : Word :=
  if off = 0 then packWord [(7, s.recs.rlen64)]
  else if off = 8 then BitVec.ofNat 32 (s.rounds d)
  else match indexOf off 0x10000 4 0x30000 with
    | some i => if i % 0x1000 < 3072 then pairWord (s.slotEntry (8 * d + i / 0x6000) (i / 0x1000 % 6)) (i % 0x1000) else 0
    | none => s.csrAt (nocBase d + off)

/-- A DMA block (R229, R237). -/
def State.readDma (s : State) (blk off : Nat) : Word :=
  let chans := if blk < 8 then 128 else 16
  let store := if blk < 8 then 1024 else 256
  match indexOf off 0 4 (4 * chans), indexOf off 0x800 4 64, indexOf off 0x10000 4 (16 * store) with
  | some i, _, _ =>
    let c := s.dmaCh (dmaKey blk (i / 4))
    match i % 4 with
    | 0 => c.ctl
    | 1 => packWord [(2, c.state.toNat), (16, c.repN.toNat), (8, c.miss.toNat)]
    | 2 => packWord [(16, c.cmpTask.toNat), (16, c.cmpChan.toNat)]
    | _ => c.rate.zeroExtend 32
  | _, some i, _ =>
    let x := SMap.get (0, 0) s.recs.timers (32 * blk + i / 2)
    BitVec.ofNat 32 ((if i % 2 = 0 then x.1 else x.2) % 2 ^ 24)
  | _, _, some i => (SMap.get 0 s.descs (1024 * blk + i / 16)).extractLsb' (32 * (i % 16)) 32
  | _, _, _ => s.csrAt (dmaBase blk + off)

/-- The registers of device port `q` from BXL_PqSTAT on (R310). -/
def State.readPort (s : State) (q i : Nat) : Word :=
  let p := s.port q
  match i with
  | 0 => packWord [(2, p.state.toNat), (9, p.lanes.toNat), (4, p.nact.toNat), (1, b2n p.spared), (1, b2n p.degraded)]
  | 1 => p.nbr.zeroExtend 32
  | 2 => packWord [(16, p.plat.toNat), (16, (SMap.get (false, 0, 0, 0) s.recs.fabric.ports q).2.2.2.toNat)]
  | 3 => p.retry
  | 4 => p.kout
  | 5 => p.late
  | 6 => p.rej
  | _ => 0

/-- The BXL block of IO die `i` (R310) without BXL_FTIME_HI. -/
def State.readBxl (s : State) (i off : Nat) : Word :=
  let f := s.recs.fabric
  if off = 0 then packWord [(12, f.addr.toNat), (2, f.kint.toNat),
    (8, ((List.range 8).map (fun q => b2n (SMap.get (false, 0, 0, 0) f.ports (8 * i + q)).1 <<< q)).sum)]
  else if off = 8 then BitVec.ofNat 32 s.fabricTime
  else if off = 0x10 then packWord [(12, s.ftime.leader.toNat), (4, s.ftime.hops.toNat), (1, b2n s.ftime.valid)]
  else if off = 0x14 then s.ftime.pon
  else match indexOf off 0x100 4 128, indexOf off 0x10000 4 0x8000, indexOf off 0x40000 4 0x800 with
    | some n, _, _ => s.readPort (8 * i + n / 16) (n % 16)
    | _, some n, _ => pairWord (s.cellEntry (8 * i + n / 0x1000)) (n % 0x1000)
    | _, _, some n => pairWord (fun a => BitVec.ofNat 16 (s.routePort a)) n
    | _, _, _ => 0

/-- The TBL block (R103, R224): the seeds read as zero. -/
def State.readTbl (s : State) (t off : Nat) : Word :=
  if off = 0x480 then (s.table t).seedStat else if off = 0x500 ∨ off = 0x504 then s.csrAt (tblReg t off) else 0

/-- The DLR block (R20, R133, R379) without DLR_TCC_HI. -/
def State.readDlr (s : State) (t off : Nat) : Word :=
  let x := s.table t
  let q := s.shownSeq t
  if off = 0 then packWord ([(2, x.run.toNat), (1, b2n x.taper)] ++ q.loops.map (fun l => (1, b2n l.active)))
  else if off = 4 then q.pc.zeroExtend 32
  else if off = 0x40 then x.late
  else if off = 0x44 then x.lateCc
  else if off = 0x48 then x.tcc.extractLsb' 0 32
  else if off = 0xA0 then x.trick.zeroExtend 32
  else if off = 0xA4 then x.trickN
  else if off = 0xA8 then x.pause.zeroExtend 32
  else if off = 0xAC then x.pauseN
  else match indexOf off 0x80 4 4, indexOf off 0x90 4 4, indexOf off 0xC0 4 5 with
    | some n, _, _ => q.remainingOf n
    | _, some n, _ => ((q.loops.drop n).head?.map (·.pending)).getD 0
    | _, _, some _ => s.csrAt (dlrReg t off)
    | _, _, _ => 0

/-- The SYN block (R181). -/
def State.readSyn (s : State) (t off : Nat) : Word :=
  let x := s.table t
  match indexOf off 0 4 256, indexOf off 0x400 4 256, indexOf off 0x804 4 15 with
  | some n, _, _ => (SMap.get 0 x.ctr n).zeroExtend 32
  | _, some n, _ => (SMap.get 0 x.ctrInit n).zeroExtend 32
  | _, _, some n => SMap.get 0 x.tout (n + 1)
  | _, _, _ => if off = 0x840 ∨ off = 0x844 then s.csrAt (synReg t off) else 0

/-- The registers of a send channel from CHN_SNDn_CFG on. -/
def SndChan.read (c : SndChan) (i : Nat) : Word :=
  match i with
  | 0 => c.cfg
  | 1 => packWord [(21, c.seq.toNat), (1, b2n c.held), (6, c.poolD.toNat)]
  | 2 => c.um.extractLsb' 0 32
  | _ => c.um.extractLsb' 32 32

/-- The registers of a receive channel from CHN_RCVn_RING on. -/
def RcvChan.read (c : RcvChan) (i : Nat) : Word :=
  match i with
  | 0 => c.ring
  | 1 => c.spill
  | 2 => packWord [(10, c.present), (21, c.seq.toNat), (1, b2n (!c.spilled.isEmpty))]
  | _ => 0

/-- The CHN block (R208, R310). -/
def State.readChn (s : State) (t off : Nat) : Word :=
  let x := s.table t
  match indexOf off 0 4 256, indexOf off 0x400 4 256, indexOf off 0x800 4 64, indexOf off 0xA00 4 64, indexOf off 0xB00 4 64 with
  | some i, _, _, _, _ =>
    let c := SMap.get SndChan.reset x.snd (i / 4)
    { c with seq := x.nextSeq (i / 4) c.seq }.read (i % 4)
  | _, some i, _, _, _ => (SMap.get RcvChan.reset x.rcv (i / 4)).read (i % 4)
  | _, _, some n, _, _ => SMap.get 0 x.htab n
  | _, _, _, some n, _ => (SMap.get SndChan.reset x.snd n).xadr
  | _, _, _, _, some n => (SMap.get RcvChan.reset x.rcv n).xsrc
  | _, _, _, _, _ => if off = 0x900 ∨ off = 0x904 then s.csrAt (chnReg t off) else 0

/-- The core block of core `k` (R45, R48, R61, R78, R83, R117, R120, R224). -/
def State.readCore (s : State) (k off : Nat) : Word :=
  let c := s.core k
  if off = 0 then BitVec.ofNat 32 (s.logCore (k / 34) (k % 34)) else
  match indexOf off 0x500 4 16, indexOf off 0x800 4 512, indexOf off 0x10000 4 8192 with
  | some i, _, _ => SMap.get 0 c.curveHdr i
  | _, some i, _ => pairWord (SMap.get 0 c.codebook) i
  | _, _, some i => SMap.get 0 c.curve i
  | _, _, _ => s.csrAt (coreReg k off)

/-- The register at offset `off` of a block; an offset that no map defines reads zero. -/
def State.readBlock (s : State) (b : Blk) (off : Nat) : Word :=
  match b with
  | .mgt => s.readMgt off
  | .lcs => if off = 0 then s.lcsState else 0
  | .att => s.readAtt off
  | .evt => s.readEvt off
  | .clk => s.readClk off
  | .snf => s.readSnf off
  | .bcn => s.readBcn off
  | .pwr => s.readPwr off
  | .hst => s.readHst off
  | .hbm => s.readHbm off
  | .ddr => s.readDdr off
  | .noc d => s.readNoc d off
  | .dma blk => s.readDma blk off
  | .bxl i => s.readBxl i off
  | .tbl t => s.readTbl t off
  | .dlr t => s.readDlr t off
  | .syn t => s.readSyn t off
  | .chn t => s.readChn t off
  | .spd t => s.csrAt (spdReg t off)
  | .shf t => s.csrAt (shfReg t off)
  | .core k => s.readCore k off
  | .acc k => s.csrAt (accReg k off)

/-! ### Memories read by physical address (R7, R139, R155, R225) -/

/-- MEM_UE of an access by firmware or a debugger, which works for no job (R225). -/
def State.firmwareUe (s : State) : State := s.raiseDev 0x2404 clsContained 0

/-- Bytes of a tier as firmware reads them. -/
def State.readTierBytes (s : State) (tier : Tier) (a n : Nat) : List Byte × State :=
  (s.mem.tierBytes tier a n, if (unitsOf (tierUnit tier) a n).any (s.mem.isBad tier) then s.firmwareUe else s)

/-- The core whose scratchpad window reaches offset `o` of the windows: not a defective one, and none whose table runs a task. -/
def State.windowCore (s : State) (o : Nat) : Option Nat :=
  let k := o / 0x80000
  let t := k / 34
  if 2176 ≤ k ∨ field (s.pcore t (k % 34)) 1 0 = 2 ∨ (s.table t).run = 1 then none else some k

/-- Bytes of a scratchpad window, with the errors that reading them meets. -/
def State.readWindow (s : State) (o n : Nat) : List Byte × State :=
  match s.windowCore o with
  | none => (List.replicate n 0, s)
  | some k =>
    let t := k / 34
    let as := (List.range n).map (o % 0x80000 + ·)
    let r := fetch (s.core k) 0 0 0 as
    (r.bytes, (s.countCe (spdReg t 0xC) r.ce).accFaults t false (r.ue.toList.map (.ue (s.logCore t (k % 34)) ·)))

/-- `n` bytes of one aligned 64 B unit as firmware or a debugger reads them, and the state after the read. An address that reaches no
memory reads zero. -/
def State.readUnit (s : State) (a n : Nat) : List Byte × State :=
  if a < hbmSize then (if s.mem.hbmGone a then (List.replicate n 0, s) else s.readTierBytes .hbm a n)
  else if 0x100000000000 ≤ a ∧ a < 0x140000000000 then
    (let o := a - 0x100000000000
     if s.mem.ddrGone o then (List.replicate n 0, s) else s.readTierBytes .ddr o n)
  else if 0x200000000000 ≤ a ∧ a < 0x2003C0000000 then
    (let o := a - 0x200000000000
     let t := shareOwner o
     let r := s.mem.shelfRead o n
     (r.1, (s.countCe (shfReg t 0x10) r.2.2).accFaults t false
       (r.2.1.toList.map (fun u => .shelfUe 0 (u - (shareBase t + s.shfBase t))))))
  else if 0x240000000000 ≤ a ∧ a < 0x240044000000 then s.readWindow (a - 0x240000000000) n
  else (List.replicate n 0, s)

/-! ### Latching reads (R20, R208, R310, R330, R400) -/

/-- The 64-bit quantity behind a _LO register whose read latches its upper half. -/
def State.latched (s : State) (b : Blk) (off : Nat) : Option Nat :=
  match b with
  | .mgt => if off = 0x30 then some s.fuses.serial.toNat else none
  | .bcn => if off = 0 then some s.beacon else if off = 0x10 then some s.round0 else none
  | .hbm => if 0x1000 ≤ off ∧ off < 0x1800 ∧ (off % 0x20 = 0 ∨ off % 0x20 = 8) then some (s.csrWide (hbmBase + off) 2) else none
  | .ddr => if 0x1000 ≤ off ∧ off < 0x1800 ∧ (off % 0x20 = 0 ∨ off % 0x20 = 8) then some (s.csrWide (ddrBase + off) 2) else none
  | .noc d => if off = 8 then some (s.rounds d) else none
  | .bxl _ => if off = 8 then some s.fabricTime else none
  | .dlr t => if off = 0x48 then some (s.table t).tcc.toNat else none
  | .chn t => if off < 0x400 ∧ off % 0x10 = 8 then some (SMap.get SndChan.reset (s.table t).snd (off / 0x10)).um.toNat else none
  | .core k => if off = 0x100 ∨ off = 0x108 then some (s.csr64 (coreReg k off)).toNat else none
  | .acc k => if 0x100 ≤ off ∧ off < 0x200 ∧ off % 0x40 < 0x28 ∧ off % 8 = 0 then some (s.csr64 (accReg k off)).toNat else none
  | _ => none

/-- A _HI register whose field map gives it as latched, and nothing else (R20, R208, R310, R330). -/
def Blk.isLatch (b : Blk) (off : Nat) : Bool :=
  match b with
  | .bcn => off == 4 || off == 0x14
  | .noc _ => off == 0xC
  | .bxl _ => off == 0xC
  | .dlr _ => off == 0x4C
  | _ => false

/-- What a read of the word at physical address `a` returns (R7, R400, R401). The _HI register of a pair reads as its _LO register's
last read latched it; before such a read it holds its reset value, zero, where its field map calls it latched, and else its own bits
(assumption 66). -/
def State.readWord (s : State) (a : Nat) : Word :=
  match blockOf a with
  | none => if a % 4 = 0 then BitVec.ofNat 32 (leNat (s.readUnit a 4).1) else 0
  | some (b, off) =>
    if a % 4 ≠ 0 ∨ s.absent b then 0
    else match SMap.get none s.latch a with
      | some v => v
      | none => if b.isLatch off then 0 else s.readBlock b off

/-- The blocks that the board can read over MCTP (R400). -/
def Blk.overMctp : Blk → Bool
  | .mgt | .lcs | .att | .evt | .pwr | .clk | .snf | .bcn => true
  | _ => false

/-- What the board reads over MCTP at physical address `a` (R389, R400): nothing without a dynamic address, and zero outside the eight
blocks. The board's writes are ignored, so that no command stands for one. -/
def State.mctpRead (s : State) (a : Nat) : Option Word :=
  if !s.i3cServes || s.pins.i3cAddr.isNone then none
  else some (match blockOf a with
    | some (b, _) => if b.overMctp then s.readWord a else 0
    | none => 0)

/-- ABSENT_UNIT (R401): an access to an absent block. -/
def State.absentAccess (s : State) (a : Nat) : State := s.raiseDev 0x1040 clsNote (a % 2 ^ 52 + 2 ^ 63)

/-- LATCHING_READ (R400): the upper half goes into the _HI partner. A read of any other register changes nothing but where it raises
ABSENT_UNIT, and a read of memory nothing but by the errors that it meets. -/
def execLatchingRead (addr : BitVec 52) (s : State) : Host.Outcome State Fault Refusal :=
  .next (
    let a := addr.toNat
    if ¬ s.running ∨ a % 4 ≠ 0 then s else
    match blockOf a with
    | none => (s.readUnit a 4).2
    | some (b, off) =>
      if s.absent b then s.absentAccess a else
      match s.latched b off with
      | none => s
      | some v => { s with latch := SMap.set none s.latch (a + 4) (some (BitVec.ofNat 32 (v >>> 32))) })

/-! ### Register writes (R20, R180, R401, R402) -/

/-- A W1C field: the bits of `v` cleared in the register at address `a`, but for those that hardware has set in the same cycle. -/
def State.clearBits (s : State) (a : Nat) (v : Word) : State :=
  s.modCsr a (fun w => w &&& ~~~(v &&& ~~~(BitVec.ofNat 32 (s.marked a))))

/-- The flag of a W1C VALID field cleared by a write of 1 to it. -/
def State.clearValid (s : State) (a : Nat) (v : Word) : State := s.clearBits a (v &&& 0x80000000)

/-- The value of an RW count at address `a` after firmware writes `v`: what hardware adds in the same cycle is added after the write. -/
def State.counted (s : State) (a : Nat) (v : Word) : Word := satAdd v (s.marked a)

/-- An RW count written by firmware. -/
def State.writeCount (s : State) (a : Nat) (v : Word) : State := s.setCsr a (s.counted a v)

/-- Firmware clears EVT_LOST: records lost in the same cycle are counted after the write (R402). -/
def EventLog.writeLost (l : EventLog) (now : Nat) (v : Word) : EventLog :=
  if l.stamp = now then { l with lost := satAdd v (l.lost - l.lost0).toNat, lost0 := v } else { l with lost := v }

/-- A write of MGT_HALFn_STAT by half `h` (R353): HEALTH is its heartbeat, and during a hold its post. -/
def State.writeHalf (s : State) (h : Bool) (v : Word) : State :=
  let was := (s.mgt.half h).health
  let up := v.getLsbD 0
  let s := s.modHalf h (fun x => { x with
    health := up, reload := v.getLsbD 4, beat := if up then s.beacon else x.beat, posted := x.posted || (up && s.mgt.hold) })
  if was ∧ ¬ up then s.raiseDev 0x3403 clsDevice (b2n h) else s

/-- The MGT block (R345, R354, R360); what only the holder may write is taken as written by it. -/
def State.writeMgt (s : State) (off : Nat) (v : Word) : State :=
  if off = 0x10 then (if s.mgt.leaseValid then s.writeHolder (v.getLsbD 0) else s)
  else if off = 0x20 then s.writeHalf false v
  else if off = 0x24 then s.writeHalf true v
  else if off = 0x50 then (if s.mgt.leaseValid ∧ v = 0x52534554 then s.enterReset (!s.pins.outside) else s)
  else s

/-- The state that a command without a stop answers. -/
def State.after (s : State) (o : Host.Outcome State Fault Refusal) : State :=
  match o with
  | .next t => t
  | _ => s

/-- The HST block (R180, R285): a host counter is written only while no task of its live job runs. -/
def State.writeHst (s : State) (off : Nat) (v : Word) : State :=
  if off = 8 then { s with host := { s.host with drop := s.counted dropReg v } }
  else match indexOf off 0x10000 4 4096 with
    | some i =>
      let busy := (s.job (i / 64)).any (fun b => !decide (b.state = .ended) && b.tables.any (fun t => (s.table t).run == 1))
      if busy then s else { s with hctr := SMap.set 0 s.hctr i (v.extractLsb' 0 24) }
    | none => s

/-- The HBM and DDR blocks (R216, R405): error counts and window groups. -/
def State.writeTierReg (s : State) (base off : Nat) (v : Word) : State :=
  match indexOf off 0x200 4 16, indexOf off 0x1000 4 512 with
  | some _, _ => s.writeCount (base + off) v
  | _, some i =>
    match i % 8 with
    | 0 | 2 => s.setCsr (base + off) (v &&& 0xFFFFF000)
    | 1 | 3 => s.setCsr (base + off) (v &&& 0x000FFFFF)
    | 4 => s.setCsr (base + off) (v &&& 0x0000FFFF)
    | _ => s
  | _, _ => s

/-- The counts of device port `q` (R310). -/
def State.writePort (s : State) (q i : Nat) (v : Word) : State :=
  if i < 3 ∨ 6 < i then s else s.modPort q (fun p => p.setCount i (s.counted (portReg q i) v))

/-- The SYN block (R180, R181): a counter is written only while no task runs on its table. -/
def State.writeSyn (s : State) (t off : Nat) (v : Word) : State :=
  match indexOf off 0 4 256, indexOf off 0x400 4 256, indexOf off 0x804 4 15 with
  | some n, _, _ => if (s.table t).run = 1 then s
      else s.modTable t (fun x => { x with ctr := SMap.set 0 x.ctr n (v.extractLsb' 0 24) })
  | _, some n, _ => s.modTable t (fun x => { x with ctrInit := SMap.set 0 x.ctrInit n (v.extractLsb' 0 24) })
  | _, _, some n => s.modTable t (fun x => { x with tout := SMap.set 0 x.tout (n + 1) v })
  | _, _, _ => if off = 0x840 then s.clearValid (synReg t off) v else s

/-- The SPD and SHF blocks (R156). -/
def State.writeSpd (s : State) (t off : Nat) (v : Word) : State :=
  if off = 4 then s.setCsr (spdReg t off) (BitVec.ofNat 32 (min (field v 19 12) 0x80 <<< 12))
  else if off = 8 then s.clearValid (spdReg t off) v
  else if off = 0xC then s.writeCount (spdReg t off) v
  else s

def State.writeShf (s : State) (t off : Nat) (v : Word) : State :=
  if off = 0 ∨ off = 4 then s.setCsr (shfReg t off) (v &&& 0x0FFFF000)
  else if off = 8 then s.clearValid (shfReg t off) v
  else if off = 0x10 then s.writeCount (shfReg t off) v
  else s

/-- A register of a core that tasks write too (R45, R48, R61, R83, R91). -/
def State.writeTaskReg (s : State) (k : Nat) (r : TaskReg) (v : Word) : State :=
  if ¬ r.writable then s else
  match r with
  | .cvtFlags => s.clearBits (coreReg k 0x400) (v &&& 3)
  | .accFlag n f hi =>
    let a := accReg k (accFlagOff n f + 4 * b2n hi)
    let s := s.setCsr a (v ||| BitVec.ofNat 32 (s.marked a))
    if v = 0 then s else s.modCsr (accReg k 0) (fun w => w ||| (1 <<< f))
  | .loopCount _ => s
  | r => s.taskRegWrite (taskRegAddr k r) (v &&& taskRegMask r)

/-- A write of the register at offset `off` of a block. What no rule gives firmware to write is left as it is. -/
def State.writeBlock (s : State) (b : Blk) (off : Nat) (v : Word) : State :=
  match b with
  | .mgt => s.writeMgt off v
  | .evt => if off = 4 then s.after (execEvtTailWrite v s)
    else if off = 8 then { s with log := s.log.writeLost s.now11 v } else s
  | .clk => if off = 8 then { s with stepsRef := s.counted stepsRefReg v } else
    (indexOf off 0x100 8 82).elim s (fun r => s.after (execStepChange r (v.extractLsb' 0 3) s))
  | .snf => (indexOf off 0x108 0x10 82).elim s (fun r => s.after (execThermalHold r (v.extractLsb' 0 16) s))
  | .hst => s.writeHst off v
  | .hbm => s.writeTierReg hbmBase off v
  | .ddr => s.writeTierReg ddrBase off v
  | .noc d => if off = 0x10 ∨ off = 0x14 then s.writeCount (nocBase d + off) v else s
  | .dma blk => if off = 0xC00 then s.clearValid (dmaBase blk + off) v else
    (indexOf off 0 0x10 (if blk < 8 then 128 else 16)).elim s (fun n => if v.getLsbD 11 then s.after (execStop blk n s) else s)
  | .bxl i => (indexOf off 0x100 4 128).elim s (fun n => s.writePort (8 * i + n / 16) (n % 16) v)
  | .tbl t => if off = 0x500 then s.clearValid (tblReg t off) v else s
  | .dlr t => if off = 0xC0 then s.clearValid (dlrReg t off) v else s
  | .syn t => s.writeSyn t off v
  | .chn t => if off = 0x904 then s.clearValid (chnReg t off) v else s
  | .spd t => s.writeSpd t off v
  | .shf t => s.writeShf t off v
  | .core k => if 0x1000 ≤ off then s else (taskReg 0 (BitVec.ofNat 12 off)).elim s (s.writeTaskReg k · v)
  | .acc k => if 0x1000 ≤ off then s else (taskReg 1 (BitVec.ofNat 12 off)).elim s (s.writeTaskReg k · v)
  | .lcs | .att | .bcn | .pwr => s

/-- REGISTER_WRITE (R401). -/
def execRegisterWrite (addr : BitVec 52) (v : BitVec 32) (s : State) : Host.Outcome State Fault Refusal :=
  .next (
    let a := addr.toNat
    match blockOf a with
    | none => s
    | some (b, off) =>
      if ¬ s.ready ∨ a % 4 ≠ 0 then s else if s.absent b then s.absentAccess a else s.writeBlock b off v)

/-! ### Memories by physical address (R7, R139) -/

/-- Bytes of a scratchpad window written (R139, R155). -/
def State.writeWindow (s : State) (o : Nat) (bs : List Byte) : State :=
  match s.windowCore o with
  | none => s
  | some k =>
    let t := k / 34
    let p := (s.core k).putAll (bs.zipIdx.map (fun b => (o % 0x80000 + b.2, 0xFF, b.1)))
    ((s.modCore k (fun _ => p.1)).countCe (spdReg t 0xC) p.2.2).accFaults t false
      (p.2.1.toList.map (.ue (s.logCore t (k % 34)) ·))

/-- Bytes of a tier written by firmware: a narrow write to a granule that holds an uncorrectable error leaves it as it is (R225). -/
def State.writeTierBytes (s : State) (tier : Tier) (a : Nat) (bs : List Byte) : State :=
  let r := s.mem.putTier tier a bs
  let s := { s with mem := r.1 }
  if r.2.isSome then s.firmwareUe else s

/-- Bytes of one aligned 64 B unit written by firmware or a debugger. An address that reaches no memory ignores them. -/
def State.writeUnit (s : State) (a : Nat) (bs : List Byte) : State :=
  if a < hbmSize then (if s.mem.hbmGone a then s else s.writeTierBytes .hbm a bs)
  else if 0x100000000000 ≤ a ∧ a < 0x140000000000 then
    (let o := a - 0x100000000000
     if s.mem.ddrGone o then s else s.writeTierBytes .ddr o bs)
  else if 0x200000000000 ≤ a ∧ a < 0x2003C0000000 then
    (let o := a - 0x200000000000
     let t := shareOwner o
     let p := s.mem.shelfWrite o bs
     ({ s with mem := p.1 }.countCe (shfReg t 0x10) p.2.2).accFaults t false
       (p.2.1.toList.map (fun u => .shelfUe 0 (u - (shareBase t + s.shfBase t)))))
  else if 0x240000000000 ≤ a ∧ a < 0x240044000000 then s.writeWindow (a - 0x240000000000) bs
  else s

/-- Bytes written from address `a` on, unit by unit; `fuel` is at least the number of bytes. -/
def State.writeUnits (s : State) (fuel a : Nat) (bs : List Byte) : State :=
  match fuel with
  | 0 => s
  | n + 1 =>
    if bs.isEmpty then s else
    let k := 64 - a % 64
    (s.writeUnit a (bs.take k)).writeUnits n (a + k) (bs.drop k)

/-- PHYSICAL_ADDRESS_WRITE (R7, R139). DESIGN CHOICE (assumption 67): before the device is ready the write is ignored, a gate that no
rule states. -/
def execPhysicalAddressWrite (addr : BitVec 52) (data : List Byte) (s : State) : Host.Outcome State Fault Refusal :=
  .next (if s.ready then s.writeUnits data.length addr.toNat data else s)

end Sys2Proof.Machine
end

