-- ==== Sys2Proof/Machine/Dispatch.lean ====
section
/-!
DEFINITION. One arm for each command.
-/
namespace Sys2Proof.Machine

def exec (i : Instr) (s : State) : Host.Outcome State Fault Refusal :=
  match i with
  | .add h sd sa sb => Sys2Proof.Machine.execAdd h sd sa sb s
  | .sub h sd sa sb => Sys2Proof.Machine.execSub h sd sa sb s
  | .and h sd sa sb => Sys2Proof.Machine.execAnd h sd sa sb s
  | .or h sd sa sb => Sys2Proof.Machine.execOr h sd sa sb s
  | .xor h sd sa sb => Sys2Proof.Machine.execXor h sd sa sb s
  | .shl h sd sa sb => Sys2Proof.Machine.execShl h sd sa sb s
  | .shr h sd sa sb => Sys2Proof.Machine.execShr h sd sa sb s
  | .sar h sd sa sb => Sys2Proof.Machine.execSar h sd sa sb s
  | .mul h sd sa sb => Sys2Proof.Machine.execMul h sd sa sb s
  | .min h sd sa sb => Sys2Proof.Machine.execMin h sd sa sb s
  | .max h sd sa sb => Sys2Proof.Machine.execMax h sd sa sb s
  | .addi h sd sa imm => Sys2Proof.Machine.execAddi h sd sa imm s
  | .andi h sd sa imm => Sys2Proof.Machine.execAndi h sd sa imm s
  | .ori h sd sa imm => Sys2Proof.Machine.execOri h sd sa imm s
  | .xori h sd sa imm => Sys2Proof.Machine.execXori h sd sa imm s
  | .shli h sd sa imm => Sys2Proof.Machine.execShli h sd sa imm s
  | .shri h sd sa imm => Sys2Proof.Machine.execShri h sd sa imm s
  | .sari h sd sa imm => Sys2Proof.Machine.execSari h sd sa imm s
  | .lui h sd imm => Sys2Proof.Machine.execLui h sd imm s
  | .cmp h pd cond sa sb => Sys2Proof.Machine.execCmp h pd cond sa sb s
  | .cmpi h pd cond sa imm => Sys2Proof.Machine.execCmpi h pd cond sa imm s
  | .plog h pd pa pb op => Sys2Proof.Machine.execPlog h pd pa pb op s
  | .mfr h sr blk off => Sys2Proof.Machine.execMfr h sr blk off s
  | .mtr h sr blk off => Sys2Proof.Machine.execMtr h sr blk off s
  | .sqpop h sd => Sys2Proof.Machine.execSqpop h sd s
  | .vaddf h msk vd va vb => Sys2Proof.Machine.execVaddf h msk vd va vb s
  | .vsubf h msk vd va vb => Sys2Proof.Machine.execVsubf h msk vd va vb s
  | .vmulf h msk vd va vb => Sys2Proof.Machine.execVmulf h msk vd va vb s
  | .vfmaf h msk vd va vb vc => Sys2Proof.Machine.execVfmaf h msk vd va vb vc s
  | .vminf h msk vd va vb => Sys2Proof.Machine.execVminf h msk vd va vb s
  | .vmaxf h msk vd va vb => Sys2Proof.Machine.execVmaxf h msk vd va vb s
  | .vabsf h msk vd va => Sys2Proof.Machine.execVabsf h msk vd va s
  | .vnegf h msk vd va => Sys2Proof.Machine.execVnegf h msk vd va s
  | .vcmpf h msk vd va vb cond => Sys2Proof.Machine.execVcmpf h msk vd va vb cond s
  | .vaddi h msk vd va vb => Sys2Proof.Machine.execVaddi h msk vd va vb s
  | .vsubi h msk vd va vb => Sys2Proof.Machine.execVsubi h msk vd va vb s
  | .vmuli h msk vd va vb => Sys2Proof.Machine.execVmuli h msk vd va vb s
  | .vmini h msk vd va vb => Sys2Proof.Machine.execVmini h msk vd va vb s
  | .vmaxi h msk vd va vb => Sys2Proof.Machine.execVmaxi h msk vd va vb s
  | .vand h msk vd va vb => Sys2Proof.Machine.execVand h msk vd va vb s
  | .vor h msk vd va vb => Sys2Proof.Machine.execVor h msk vd va vb s
  | .vxor h msk vd va vb => Sys2Proof.Machine.execVxor h msk vd va vb s
  | .vshl h msk vd va vb => Sys2Proof.Machine.execVshl h msk vd va vb s
  | .vshr h msk vd va vb => Sys2Proof.Machine.execVshr h msk vd va vb s
  | .vsar h msk vd va vb => Sys2Proof.Machine.execVsar h msk vd va vb s
  | .vcmpi h msk vd va vb cond => Sys2Proof.Machine.execVcmpi h msk vd va vb cond s
  | .vsel h msk vd va vb vc => Sys2Proof.Machine.execVsel h msk vd va vb vc s
  | .vmov h msk vd va vb => Sys2Proof.Machine.execVmov h msk vd va vb s
  | .vbcst h msk vd sb => Sys2Proof.Machine.execVbcst h msk vd sb s
  | .vrot h msk vd va sb => Sys2Proof.Machine.execVrot h msk vd va sb s
  | .vtom h sel va => Sys2Proof.Machine.execVtom h sel va s
  | .vtop h msk pd va => Sys2Proof.Machine.execVtop h msk pd va s
  | .vidx h msk vd => Sys2Proof.Machine.execVidx h msk vd s
  | .vget h sd va sb => Sys2Proof.Machine.execVget h sd va sb s
  | .vredmaxf h msk vd va vb => Sys2Proof.Machine.execVredmaxf h msk vd va vb s
  | .vredminf h msk vd va vb => Sys2Proof.Machine.execVredminf h msk vd va vb s
  | .vredi h msk vd va vb => Sys2Proof.Machine.execVredi h msk vd va vb s
  | .vqpop h vd => Sys2Proof.Machine.execVqpop h vd s
  | .cvt h msk vd vs sfmt dfmt rm sat cb => Sys2Proof.Machine.execCvt h msk vd vs sfmt dfmt rm sat cb s
  | .cvmx h vd vs vsc dfmt rm => Sys2Proof.Machine.execCvmx h vd vs vsc dfmt rm s
  | .ard h vd aset entry ofmt rm spec j rv => Sys2Proof.Machine.execArd h vd aset entry ofmt rm spec j rv s
  | .ardr h vd aset entry => Sys2Proof.Machine.execArdr h vd aset entry s
  | .gmx h msk vd vx seed sstr seb suse => Sys2Proof.Machine.execGmx h msk vd vx seed sstr seb suse s
  | .curv h msk vd va tab => Sys2Proof.Machine.execCurv h msk vd va tab s
  | .tkcfg h two depth desc int32 => Sys2Proof.Machine.execTkcfg h two depth desc int32 s
  | .tkins h msk list vs sidx => Sys2Proof.Machine.execTkins h msk list vs sidx s
  | .tkrd h list rank vds vdi => Sys2Proof.Machine.execTkrd h list rank vds vdi s
  | .mdot h op => Sys2Proof.Machine.execMdot h op s
  | .mclr h val aset first last msk => Sys2Proof.Machine.execMclr h val aset first last msk s
  | .msetw h aset wide anchor => Sys2Proof.Machine.execMsetw h aset wide anchor s
  | .mred h aset entry dentry msk keep rop => Sys2Proof.Machine.execMred h aset entry dentry msk keep rop s
  | .minj h aset entry vsrc msk => Sys2Proof.Machine.execMinj h aset entry vsrc msk s
  | .warm h desc off => Sys2Proof.Machine.execWarm h desc off s
  | .hload h desc half adv => Sys2Proof.Machine.execHload h desc half adv s
  | .cbload h book q commit sa off => Sys2Proof.Machine.execCbload h book q commit sa off s
  | .ctload h tab grp sa off => Sys2Proof.Machine.execCtload h tab grp sa off s
  | .ldv h vd w mode sa sb off => Sys2Proof.Machine.execLdv h vd w mode sa sb off s
  | .lds h sd sa off => Sys2Proof.Machine.execLds h sd sa off s
  | .gth h vd vo sa w msk => Sys2Proof.Machine.execGth h vd vo sa w msk s
  | .shld h ssh sa off => Sys2Proof.Machine.execShld h ssh sa off s
  | .stv h msk vs w mode sa sb off => Sys2Proof.Machine.execStv h msk vs w mode sa sb off s
  | .sts h ss sa off => Sys2Proof.Machine.execSts h ss sa off s
  | .shst h ssh sa off => Sys2Proof.Machine.execShst h ssh sa off s
  | .qreq h q sp n1 => Sys2Proof.Machine.execQreq h q sp n1 s
  | .qrel h q n => Sys2Proof.Machine.execQrel h q n s
  | .send h chn hidx sa off f1 => Sys2Proof.Machine.execSend h chn hidx sa off f1 s
  | .nop h => Sys2Proof.Machine.execNop h s
  | .endTask h => Sys2Proof.Machine.execEndTask h s
  | .loop h lvl addr => Sys2Proof.Machine.execLoop h lvl addr s
  | .setlc h lvl src val => Sys2Proof.Machine.execSetlc h lvl src val s
  | .br h cmode pred neg addr => Sys2Proof.Machine.execBr h cmode pred neg addr s
  | .wait h dst ctr amt tsel => Sys2Proof.Machine.execWait h dst ctr amt tsel s
  | .sig h dst ctr amt chn => Sys2Proof.Machine.execSig h dst ctr amt chn s
  | .qwait h q space n => Sys2Proof.Machine.execQwait h q space n s
  | .dwait h ch => Sys2Proof.Machine.execDwait h ch s
  | .hwin h chn cnt wlen => Sys2Proof.Machine.execHwin h chn cnt wlen s
  | .hret h => Sys2Proof.Machine.execHret h s
  | .trick h id repart => Sys2Proof.Machine.execTrick h id repart s
  | .waitMet t => Sys2Proof.Machine.execWaitMet t s
  | .synTimeout t => Sys2Proof.Machine.execSynTimeout t s
  | .qwaitMet t => Sys2Proof.Machine.execQwaitMet t s
  | .dwaitMet t => Sys2Proof.Machine.execDwaitMet t s
  | .sendCreditMet t => Sys2Proof.Machine.execSendCreditMet t s
  | .chnStall t => Sys2Proof.Machine.execChnStall t s
  | .hwinOpen t => Sys2Proof.Machine.execHwinOpen t s
  | .taperLineFill t c => Sys2Proof.Machine.execTaperLineFill t c s
  | .taskRelease t => Sys2Proof.Machine.execTaskRelease t s
  | .taskEnd t => Sys2Proof.Machine.execTaskEnd t s
  | .signalApply t rchn => Sys2Proof.Machine.execSignalApply t rchn s
  | .synResidue j => Sys2Proof.Machine.execSynResidue j s
  | .decoupledFill t c => Sys2Proof.Machine.execDecoupledFill t c s
  | .flitDepart router out => Sys2Proof.Machine.execFlitDepart router out s
  | .flitArrive router inp => Sys2Proof.Machine.execFlitArrive router inp s
  | .partRetire t rchn c => Sys2Proof.Machine.execPartRetire t rchn c s
  | .creditReturn t rchn => Sys2Proof.Machine.execCreditReturn t rchn s
  | .spillMove t rchn c => Sys2Proof.Machine.execSpillMove t rchn c s
  | .shaperForward sh => Sys2Proof.Machine.execShaperForward sh s
  | .granuleRetire k err data => Sys2Proof.Machine.execGranuleRetire k err data s
  | .queueEntryFull t c q => Sys2Proof.Machine.execQueueEntryFull t c q s
  | .queueEntryFree t c q => Sys2Proof.Machine.execQueueEntryFree t c q s
  | .refresh tier ctl => Sys2Proof.Machine.execRefresh tier ctl s
  | .hbmSpare stack chan => Sys2Proof.Machine.execHbmSpare stack chan s
  | .hbmLost stack chan => Sys2Proof.Machine.execHbmLost stack chan s
  | .ddrLost chan => Sys2Proof.Machine.execDdrLost chan s
  | .dmaTimer die tmr => Sys2Proof.Machine.execDmaTimer die tmr s
  | .dmaRepetitionStart blk ch => Sys2Proof.Machine.execDmaRepetitionStart blk ch s
  | .dmaRepetitionComplete blk ch => Sys2Proof.Machine.execDmaRepetitionComplete blk ch s
  | .stop blk ch => Sys2Proof.Machine.execStop blk ch s
  | .submit f => Sys2Proof.Machine.execSubmit f s
  | .admission inp => Sys2Proof.Machine.execAdmission inp s
  | .admissionReply => Sys2Proof.Machine.execAdmissionReply s
  | .queryDevice f => Sys2Proof.Machine.execQueryDevice f s
  | .queryJob f => Sys2Proof.Machine.execQueryJob f s
  | .pause f => Sys2Proof.Machine.execPause f s
  | .jobPaused j => Sys2Proof.Machine.execJobPaused j s
  | .resume f => Sys2Proof.Machine.execResume f s
  | .taskResume t => Sys2Proof.Machine.execTaskResume t s
  | .detach f => Sys2Proof.Machine.execDetach f s
  | .abort f => Sys2Proof.Machine.execAbort f s
  | .completionRecord j => Sys2Proof.Machine.execCompletionRecord j s
  | .signalIncrement f => Sys2Proof.Machine.execSignalIncrement f s
  | .signalConsume f => Sys2Proof.Machine.execSignalConsume f s
  | .counterSlotWrite j n => Sys2Proof.Machine.execCounterSlotWrite j n s
  | .taskMsg f => Sys2Proof.Machine.execTaskMsg f s
  | .rebind f => Sys2Proof.Machine.execRebind f s
  | .hostRdmaWrite qpn rkey va data => Sys2Proof.Machine.execHostRdmaWrite qpn rkey va data s
  | .hostRdmaRead qpn rkey va len => Sys2Proof.Machine.execHostRdmaRead qpn rkey va len s
  | .invalidRequestNak qpn => Sys2Proof.Machine.execInvalidRequestNak qpn s
  | .hstDrop => Sys2Proof.Machine.execHstDrop s
  | .cnpSend qpn => Sys2Proof.Machine.execCnpSend qpn s
  | .cnpReceive qpn => Sys2Proof.Machine.execCnpReceive qpn s
  | .rateRecovery qpn => Sys2Proof.Machine.execRateRecovery qpn s
  | .hstLinkDown => Sys2Proof.Machine.execHstLinkDown s
  | .hstLinkUp => Sys2Proof.Machine.execHstLinkUp s
  | .hstLaneLost lane cause => Sys2Proof.Machine.execHstLaneLost lane cause s
  | .hstQpError j => Sys2Proof.Machine.execHstQpError j s
  | .hostLost j => Sys2Proof.Machine.execHostLost j s
  | .controlQpRecovery => Sys2Proof.Machine.execControlQpRecovery s
  | .cellTransmit port => Sys2Proof.Machine.execCellTransmit port s
  | .cellReceive port c fecOk => Sys2Proof.Machine.execCellReceive port c fecOk s
  | .replay port => Sys2Proof.Machine.execReplay port s
  | .replayTimeout port lseq => Sys2Proof.Machine.execReplayTimeout port lseq s
  | .portTraining port tr => Sys2Proof.Machine.execPortTraining port tr s
  | .bxlLaneLost port lane cause => Sys2Proof.Machine.execBxlLaneLost port lane cause s
  | .bxlPortUp port => Sys2Proof.Machine.execBxlPortUp port s
  | .bxlDiscard port => Sys2Proof.Machine.execBxlDiscard port s
  | .alignmentCellSend port => Sys2Proof.Machine.execAlignmentCellSend port s
  | .alignmentCellReceive port c => Sys2Proof.Machine.execAlignmentCellReceive port c s
  | .beaconPulse => Sys2Proof.Machine.execBeaconPulse s
  | .stepChange r tgt => Sys2Proof.Machine.execStepChange r tgt s
  | .dimmerStep r => Sys2Proof.Machine.execDimmerStep r s
  | .thermalHold r us => Sys2Proof.Machine.execThermalHold r us s
  | .holdEnd r => Sys2Proof.Machine.execHoldEnd r s
  | .holdBudget r => Sys2Proof.Machine.execHoldBudget r s
  | .temperatureSample temps => Sys2Proof.Machine.execTemperatureSample temps s
  | .regionRestart r => Sys2Proof.Machine.execRegionRestart r s
  | .refclkLost => Sys2Proof.Machine.execRefclkLost s
  | .refclkBack => Sys2Proof.Machine.execRefclkBack s
  | .resetRelease => Sys2Proof.Machine.execResetRelease s
  | .boot b => Sys2Proof.Machine.execBoot b s
  | .nrst lowNs => Sys2Proof.Machine.execNrst lowNs s
  | .mgtReset half val => Sys2Proof.Machine.execMgtReset half val s
  | .powerLoss mv ma us => Sys2Proof.Machine.execPowerLoss mv ma us s
  | .pwrRange mv us => Sys2Proof.Machine.execPwrRange mv us s
  | .pwrOverlimit mv ma w => Sys2Proof.Machine.execPwrOverlimit mv ma w s
  | .flickerHealth die test => Sys2Proof.Machine.execFlickerHealth die test s
  | .lifeCycleCommand cmd => Sys2Proof.Machine.execLifeCycleCommand cmd s
  | .recordStaging img => Sys2Proof.Machine.execRecordStaging img s
  | .firmwareUpdate img => Sys2Proof.Machine.execFirmwareUpdate img s
  | .updateFailed img second => Sys2Proof.Machine.execUpdateFailed img second s
  | .leaseHandover holder target => Sys2Proof.Machine.execLeaseHandover holder target s
  | .leaseClaim north south => Sys2Proof.Machine.execLeaseClaim north south s
  | .halfUnhealthy half watchdog => Sys2Proof.Machine.execHalfUnhealthy half watchdog s
  | .leaseDispute both => Sys2Proof.Machine.execLeaseDispute both s
  | .leaderChange => Sys2Proof.Machine.execLeaderChange s
  | .noLeader => Sys2Proof.Machine.execNoLeader s
  | .getVersion q => Sys2Proof.Machine.execGetVersion q s
  | .getCapabilities q => Sys2Proof.Machine.execGetCapabilities q s
  | .negotiateAlgorithms q => Sys2Proof.Machine.execNegotiateAlgorithms q s
  | .getDigests q => Sys2Proof.Machine.execGetDigests q s
  | .getCertificate q => Sys2Proof.Machine.execGetCertificate q s
  | .challenge q => Sys2Proof.Machine.execChallenge q s
  | .getMeasurements q => Sys2Proof.Machine.execGetMeasurements q s
  | .getCsr q => Sys2Proof.Machine.execGetCsr q s
  | .setCertificate q => Sys2Proof.Machine.execSetCertificate q s
  | .unsupportedRequest q => Sys2Proof.Machine.execUnsupportedRequest q s
  | .entdaa addr => Sys2Proof.Machine.execEntdaa addr s
  | .setdasa statAddr addr => Sys2Proof.Machine.execSetdasa statAddr addr s
  | .i3cFault line high => Sys2Proof.Machine.execI3cFault line high s
  | .xspiFault line high => Sys2Proof.Machine.execXspiFault line high s
  | .alertFault high => Sys2Proof.Machine.execAlertFault high s
  | .bypass => Sys2Proof.Machine.execBypass s
  | .idcode => Sys2Proof.Machine.execIdcode s
  | .samplePreload pins load => Sys2Proof.Machine.execSamplePreload pins load s
  | .extest => Sys2Proof.Machine.execExtest s
  | .trstN low => Sys2Proof.Machine.execTrstN low s
  | .coreFailed t c chk => Sys2Proof.Machine.execCoreFailed t c chk s
  | .dlrFailed t chk => Sys2Proof.Machine.execDlrFailed t chk s
  | .spareSubstitution t lc failed => Sys2Proof.Machine.execSpareSubstitution t lc failed s
  | .readmission j inp => Sys2Proof.Machine.execReadmission j inp s
  | .boundViolation j => Sys2Proof.Machine.execBoundViolation j s
  | .evtTailWrite v => Sys2Proof.Machine.execEvtTailWrite v s
  | .latchingRead addr => Sys2Proof.Machine.execLatchingRead addr s
  | .registerWrite addr v => Sys2Proof.Machine.execRegisterWrite addr v s
  | .localAckTimeout qpn => Sys2Proof.Machine.execLocalAckTimeout qpn s
  | .rnrNak qpn => Sys2Proof.Machine.execRnrNak qpn s
  | .unknownType typ f => Sys2Proof.Machine.execUnknownType typ f s
  | .physicalAddressWrite addr data => Sys2Proof.Machine.execPhysicalAddressWrite addr data s
  | .i3cBusRetry cleared => Sys2Proof.Machine.execI3cBusRetry cleared s

end Sys2Proof.Machine
end

