-- ==== Sys2Proof/Machine/Step.lean ====
section
/-!
DEFINITION. One step of the device: the command at the front of the queue, or, on an empty queue, the passing of one eleventh
of a beacon tick (assumption 6).
-/
namespace Sys2Proof.Machine

/-- The command at the front of the queue takes its effect on everything but the queue. With no command waiting, device time
moves on by one core cycle at D0, and frames that waited behind a TASK_MSG are handled (R273). -/
def step (s : State) : Host.Outcome State Fault Refusal :=
  match s.pending with
  | [] => .next s.tick.takeHeld
  | c :: rest => exec c { s with pending := rest }

/-- The state with the command that a table word spells put at the front of the queue; unchanged where it spells none. -/
def State.withFetchWord (s : State) (nbits w : Nat) : State :=
  match decodeTableWord nbits w with
  | some c => { s with pending := c :: s.pending }
  | none => s

end Sys2Proof.Machine
end

