-- ==== Sys2Proof/Safety.lean ====
section
/-!
DEFINITION. What counts as a safe run: every waiting command is well formed, the device goes on, every memory and every
register file is in its canonical form, and the fused life cycle and the clock steps are among those of the specification.
-/
namespace Sys2Proof

/-- Every command that waits is well formed: the loader has let its word pass. -/
def Machine.State.queueWf (s : Machine.State) : Bool := s.pending.all Instr.wf

/-- A step that leaves the device in a next state. -/
def Machine.State.goesOn (s : Machine.State) : Prop := ∃ t, Machine.step s = .next t

end Sys2Proof

namespace Sys2Proof.Machine

/-! ### The canonical form of the state -/

/-- The register files and memories of a core: scalar and vector registers, accumulators, hold halves and scales, trackers,
codebooks, curves, scratchpad, output registers, weight FIFO. -/
structure Core.Canonical (c : Core) : Prop where
  sreg     : SMap.wf 0 c.sreg = true
  vreg     : SMap.wf 0 c.vreg = true
  accM     : SMap.wf 0 c.accM = true
  accV     : SMap.wf 0 c.accV = true
  cfgM     : SMap.wf 0 c.cfgM = true
  hold     : SMap.wf 0 c.hold = true
  scale    : SMap.wf 0x7F c.scale = true
  tk       : SMap.wf [] c.tk = true
  codebook : SMap.wf 0 c.codebook = true
  curve    : SMap.wf 0 c.curve = true
  curveHdr : SMap.wf 0 c.curveHdr = true
  spd      : SMap.wf 0 c.spd = true
  outReg   : SMap.wf 0 c.outReg = true
  spdErr   : SMap.wf none c.spdErr = true
  fifo     : SMap.wf WVec.zero c.streamer.fifo = true

/-- The program store, counters, handler table and channels of a table. -/
structure Table.Canonical (t : Table) : Prop where
  prog      : SMap.wf 0 t.prog = true
  ctr       : SMap.wf 0 t.ctr = true
  ctrInit   : SMap.wf 0 t.ctrInit = true
  tout      : SMap.wf 0 t.tout = true
  htab      : SMap.wf 0 t.htab = true
  seeds     : SMap.wf 0 t.seeds = true
  snd       : SMap.wf SndChan.reset t.snd = true
  rcv       : SMap.wf RcvChan.reset t.rcv = true
  credit    : SMap.wf 0 t.credit = true
  undrained : SMap.wf none t.undrained = true

/-- The slot tables, queues and links of the network. -/
structure Noc.Canonical (n : Noc) : Prop where
  slots  : SMap.wf 0 n.slots = true
  queues : SMap.wf [] n.queues = true
  chanQ  : SMap.wf [] n.chanQ = true
  links  : SMap.wf [] n.links = true
  sent   : SMap.wf 0 n.sent = true

/-- The external tiers and the shelves, with their error marks. -/
structure MemSys.Canonical (m : MemSys) : Prop where
  hbm      : SMap.wf 0 m.hbm = true
  ddr      : SMap.wf 0 m.ddr = true
  shelf    : SMap.wf 0 m.shelf = true
  shelfErr : SMap.wf none m.shelfErr = true
  ceSeen   : SMap.wf [] m.ceSeen = true
  spares   : SMap.wf 0 m.spares = true
  bad      : SMap.wf false m.bad = true
  refreshed : SMap.wf 0 m.refreshed = true
  fired    : SMap.wf 0 m.fired = true
  firedNet : SMap.wf 0 m.firedNet = true

/-- The fused maps, a life-cycle state of R343, and no more enabled cores than a table has (R4). -/
structure Fuses.Canonical (f : Fuses) : Prop where
  lmap    : SMap.wf 0 f.lmap = true
  pcore   : SMap.wf 0 f.pcore = true
  tblStat : SMap.wf 0 f.tblStat = true
  keyHash : SMap.wf 0 f.keyHash = true
  life    : f.life ≤ 4
  few     : f.cores ≤ 34

/-- The step, the target and the goal of a region are steps of R316. -/
def Region.Legal (r : Region) : Prop := r.step ≤ 5 ∧ r.tgt ≤ 5 ∧ r.goal ≤ 5

/-- Every memory and every register file is a canonical sparse map, so that equal contents are equal data; the life cycle and
every clock step are legal. -/
structure State.Canonical (s : State) : Prop where
  csr     : SMap.wf 0 s.csr = true
  latch   : SMap.wf none s.latch = true
  marks   : SMap.wf (0, 0) s.marks = true
  fslots  : SMap.wf 0 s.fslots = true
  routes  : SMap.wf 0 s.routes = true
  tables  : SMap.wf Table.reset s.tables = true ∧ ∀ t, (SMap.get Table.reset s.tables t).Canonical
  cores   : SMap.wf Core.reset s.cores = true ∧ ∀ k, (SMap.get Core.reset s.cores k).Canonical
  noc     : s.noc.Canonical
  mem     : s.mem.Canonical
  dma     : SMap.wf DmaChan.reset s.dma = true
  descs   : SMap.wf 0 s.descs = true
  jobs    : SMap.wf none s.jobs = true
  qps     : SMap.wf QueuePair.reset s.host.qps = true
  chans   : SMap.wf SndChan.reset s.host.chans = true
  hctr    : SMap.wf 0 s.hctr = true
  ports   : SMap.wf Port.reset s.ports = true
  regions : SMap.wf Region.reset s.regions = true ∧ ∀ r, (SMap.get Region.reset s.regions r).Legal
  log     : SMap.wf 0 s.log.recs = true
  recCurve : SMap.wf 0 s.recs.curve = true
  recHdr  : SMap.wf 0 s.recs.curveHdr = true
  nor     : SMap.wf 0xFF s.nor = true
  fuses   : s.fuses.Canonical

/-! ### What the statements about operations speak of -/

/-- The effects that table `n` owes, each with the region cycle in which it is due, in the order of issue. -/
def State.owed (s : State) (n : Nat) : List (Nat × Eff) := (s.table n).pend.map (fun p => (p.due, p.eff))

/-- DLR_HAZ_KIND to DLR_HAZ_PTCC of table `n` (R377). -/
def hazardRegs (n : Nat) : List Nat := [dlrReg n 0xC0, dlrReg n 0xC4, dlrReg n 0xC8, dlrReg n 0xCC, dlrReg n 0xD0]

/-- From `s` to `t` an operation of table `n` has done no more than owe effects: no core, no memory, no register but those of
the hazard detector, which change in debug mode alone, no other table, and of its own table only what is owed, until when it is
busy, and what the detector notes. -/
structure State.OwesOnly (s t : State) (n : Nat) : Prop where
  rest   : { t with tables := s.tables, csr := s.csr, marks := s.marks } = s
  others : ∀ m, m ≠ n → t.table m = s.table m
  own    : { t.table n with pend := (s.table n).pend, busyUntil := (s.table n).busyUntil, undrained := (s.table n).undrained } = s.table n
  regs   : ∀ a, a ∉ hazardRegs n → t.csrAt a = s.csrAt a ∧ SMap.get (0, 0) t.marks a = SMap.get (0, 0) s.marks a
  calm   : s.recs.debug = false → t.csr = s.csr ∧ t.marks = s.marks ∧ (t.table n).undrained = (s.table n).undrained

/-- From `s` to `t` an operation of table `n` owes the effects `es`, each after its latency, and nothing else: the table is busy until
the last of them. -/
structure State.Owes (s t : State) (n : Nat) (es : List (Nat × Eff)) : Prop where
  only : s.OwesOnly t n
  owed : t.owed n = s.owed n ++ es.map (fun e => (s.cyc n + e.1, e.2))
  busy : ∀ e ∈ es, s.cyc n + e.1 + e.2.extra ≤ (t.table n).busyUntil

/-- The effects that an operation of header `h` has in the cores that it acts on: `f` gives those of one core. -/
def State.inActors (s : State) (h : Hdr) (f : Nat → List (Nat × Eff)) : List (Nat × Eff) := (s.actors h).flatMap (fun x => f x.2)

/-- The unmasked lanes of register `vd` of core `k` at the values that `f` gives them. -/
def State.toLanes (s : State) (k : Nat) (msk : BitVec 2) (vd : BitVec 5) (f : Nat → Word) : Eff :=
  .lanes k vd.toNat ((s.maskLanes k msk).map (fun l => (l, f l)))

/-- Two cores alike but for what a read of the scratchpad or an access of the shelf leaves: output registers, banks touched, the bytes
taken of port 1 and of the shelf path, and the cycle of the last SHST. -/
def Core.AlikeButReads (c d : Core) : Prop :=
  { d with outReg := c.outReg, touchCyc := c.touchCyc, touched := c.touched, portOwed := c.portOwed, shelfIn := c.shelfIn,
           shelfOut := c.shelfOut, shstCyc := c.shstCyc } = c

/-- Two cores alike but for what an operation of the M slot changes at once: the accumulator file and the set configurations as that
slot sees them, the weight streamer, and what its read leaves. -/
def Core.AlikeButMatrix (c d : Core) : Prop :=
  { d with accM := c.accM, cfgM := c.cfgM, streamer := c.streamer, outReg := c.outReg, touchCyc := c.touchCyc,
           touched := c.touched } = c

/-- Two cores alike but for their operand queues. -/
def Core.AlikeButQueues (c d : Core) : Prop := { d with squeue := c.squeue, vqueue := c.vqueue } = c

/-- From `s` to `t` an operation of table `n` has changed its cores no further than `alike` says and the registers `wr`, and has
otherwise done no more than owe effects. -/
structure State.ActsOnly (s t : State) (n : Nat) (alike : Core → Core → Prop) (wr : List Nat) : Prop where
  rest   : { t with tables := s.tables, csr := s.csr, marks := s.marks, cores := s.cores } = s
  others : ∀ m, m ≠ n → t.table m = s.table m
  own    : { t.table n with pend := (s.table n).pend, busyUntil := (s.table n).busyUntil, undrained := (s.table n).undrained } = s.table n
  regs   : ∀ a, a ∉ hazardRegs n → a ∉ wr → t.csrAt a = s.csrAt a ∧ SMap.get (0, 0) t.marks a = SMap.get (0, 0) s.marks a
  calm   : s.recs.debug = false → (∀ a, a ∉ wr → t.csrAt a = s.csrAt a ∧ SMap.get (0, 0) t.marks a = SMap.get (0, 0) s.marks a) ∧
    (t.table n).undrained = (s.table n).undrained
  cores  : ∀ k, alike (s.core k) (t.core k)

/-- The same, and the effects owed are those of `es`, each after its latency. -/
structure State.ActsOwes (s t : State) (n : Nat) (alike : Core → Core → Prop) (wr : List Nat) (es : List (Nat × Eff)) : Prop where
  only : s.ActsOnly t n alike wr
  owed : t.owed n = s.owed n ++ es.map (fun e => (s.cyc n + e.1, e.2))
  busy : ∀ e ∈ es, s.cyc n + e.1 + e.2.extra ≤ (t.table n).busyUntil

/-- A read of the addresses `as` by core `k` (logical `lc`) is served: inside the task's window, outside queue entries that are
not HELD, without errors, and on no bank that a scheduled write touches (R146, R154, R155, R222). -/
def State.serves (s : State) (h : Hdr) (lc k : Nat) (as : List Nat) : Prop :=
  s.accessFault h.table lc k as = none ∧
    ∀ a ∈ as, SMap.get none (s.core k).spdErr (a / 4) = none ∧ (s.writeBanks h.table k).getLsbD (bankOf a) = false

/-- The bytes of core `k`'s scratchpad at the addresses `as`. -/
def State.spdBytes (s : State) (k : Nat) (as : List Nat) : List Byte := as.map (SMap.get 0 (s.core k).spd)

/-- The last value that the effects owed by table `n` and due by cycle `c` give to what `f` selects. -/
def State.lastDue {α : Type} (s : State) (n c : Nat) (f : Eff → Option α) : Option α :=
  (((s.owed n).filter (fun p => decide (p.1 ≤ c))).filterMap (fun p => f p.2)).getLast?

end Sys2Proof.Machine
end

