-- ==== Sys2Proof/Certificates/Slice0/Obligations.lean ====
section
/-!
DEFINITION. The statements about the model.
-/
open Sys2Proof Sys2Proof.Machine

/-! ### The machine as a whole -/

/-- One step with a command at the front of the queue is the command's effect on the state with the rest of the queue. -/
def Obligations.StepRunsFrontCommand : Prop :=
  ∀ (s : State) (c : Instr) (rest : List Instr), s.pending = c :: rest → step s = exec c { s with pending := rest }

/-- On an empty queue a step lets one eleventh of a beacon tick pass, or nothing happens in reset (assumption 6). -/
def Obligations.EmptyQueuePassesTime : Prop :=
  ∀ s : State, s.Canonical → s.pending = [] →
    ∃ t, step s = .next t ∧ t.pending = [] ∧ (if s.running then t.now11 = s.now11 + 1 else t = s)

/-- A command's effect is on everything but the queue. -/
def Obligations.CommandsLeaveTheQueue : Prop :=
  ∀ (s t : State) (c : Instr), s.Canonical → exec c s = .next t → t.pending = s.pending

/-- Every memory, every register file, the life cycle and the clock steps keep their canonical form in every step. -/
def Obligations.StepKeepsCanonicalForm : Prop :=
  ∀ s t : State, s.Canonical → step s = .next t → t.Canonical

/-- The state at reset has the canonical form. -/
def Obligations.ResetIsCanonical : Prop := State.reset.Canonical

/-- Every well-formed command leaves the device in a next state.
A slot operation that the loader refuses is refused by name. -/
def Obligations.CommandsGoOnOrAreRefused : Prop :=
  (∀ (s : State) (c : Instr), c.wf = true → ∃ t, exec c s = .next t) ∧
  (∀ (s : State) (c : Instr), c.wf = false → exec c s = .refused .illegalWord)

/-! ### The S slot (R116, R117) -/

/-- Condition codes (R116): EQ, NE, LT, LE, GT and GE signed, LTU and GEU unsigned. -/
def Sys2Proof.condHolds (cond : BitVec 3) (a b : Word) : Bool :=
  match cond.toNat with
  | 0 => decide (a.toNat = b.toNat)
  | 1 => decide (a.toNat ≠ b.toNat)
  | 2 => decide (a.toInt < b.toInt)
  | 3 => decide (a.toInt ≤ b.toInt)
  | 4 => decide (b.toInt < a.toInt)
  | 5 => decide (b.toInt ≤ a.toInt)
  | 6 => decide (a.toNat < b.toNat)
  | _ => decide (b.toNat ≤ a.toNat)

/-- SR operations (R116): `sd := f(sa, sb)` in every acting core, 1 cc after issue.
SI operations (R116): the 16-bit immediate sign-extended for ADDI and zero-extended for the others; LUI shifts it left by 16.
CMP, CMPI and PLOG (R116) set a predicate other than p0, 1 cc after issue. -/
def Obligations.ScalarOperations : Prop :=
  ((∀ (s s1 : State) (h : Hdr) (sd sa sb : BitVec 5), s.Canonical → s.issue h slotS = .go s1 →
    ∀ p ∈ ([(.add h sd sa sb, fun a b => a + b), (.sub h sd sa sb, fun a b => a - b), (.and h sd sa sb, fun a b => a &&& b),
        (.or h sd sa sb, fun a b => a ||| b), (.xor h sd sa sb, fun a b => a ^^^ b),
        (.shl h sd sa sb, fun a b => a <<< (b.toNat % 32)), (.shr h sd sa sb, fun a b => a >>> (b.toNat % 32)),
        (.sar h sd sa sb, fun a b => a.sshiftRight (b.toNat % 32)), (.mul h sd sa sb, fun a b => a * b),
        (.min h sd sa sb, fun a b => if a.toInt ≤ b.toInt then a else b),
        (.max h sd sa sb, fun a b => if a.toInt ≤ b.toInt then b else a)] : List (Instr × (Word → Word → Word))),
      ∃ t, exec p.1 s = .next t ∧ s1.Owes t h.table
        (s1.inActors h (fun k => [(1, .sreg k sd.toNat (p.2 (s1.sreg k sa) (s1.sreg k sb)))]))) ∧
  (∀ (s s1 : State) (h : Hdr) (sd sa : BitVec 5) (imm : BitVec 16), s.Canonical → s.issue h slotS = .go s1 →
    ∀ p ∈ ([(.addi h sd sa imm, fun a => a + imm.signExtend 32), (.andi h sd sa imm, fun a => a &&& imm.zeroExtend 32),
        (.ori h sd sa imm, fun a => a ||| imm.zeroExtend 32), (.xori h sd sa imm, fun a => a ^^^ imm.zeroExtend 32),
        (.shli h sd sa imm, fun a => a <<< (imm.toNat % 32)), (.shri h sd sa imm, fun a => a >>> (imm.toNat % 32)),
        (.sari h sd sa imm, fun a => a.sshiftRight (imm.toNat % 32)), (.lui h sd imm, fun _ => imm ++ (0 : BitVec 16))]
        : List (Instr × (Word → Word))),
      ∃ t, exec p.1 s = .next t ∧ s1.Owes t h.table
        (s1.inActors h (fun k => [(1, .sreg k sd.toNat (p.2 (s1.sreg k sa)))])))) ∧
  (∀ (s s1 : State) (h : Hdr) (pd cond pa pb : BitVec 3) (sa sb : BitVec 5) (imm : BitVec 15) (op : BitVec 2),
    s.Canonical → pd ≠ 0 → s.issue h slotS = .go s1 →
    ∀ p ∈ ([(.cmp h pd cond sa sb, fun k => condHolds cond (s1.sreg k sa) (s1.sreg k sb)),
        (.cmpi h pd cond sa imm, fun k => condHolds cond (s1.sreg k sa) (imm.signExtend 32)),
        (.plog h pd pa pb op, fun k =>
          if op = 0 then s1.predBit k pa && s1.predBit k pb else if op = 1 then s1.predBit k pa || s1.predBit k pb
          else if op = 2 then s1.predBit k pa != s1.predBit k pb else s1.predBit k pa && !s1.predBit k pb)]
        : List (Instr × (Nat → Bool))),
      ∃ t, exec p.1 s = .next t ∧ s1.Owes t h.table (s1.inActors h (fun k => [(1, .pred k pd.toNat (p.2 k))])))

/-- MFR (R117) reads a task-reachable register into a scalar register, 2 cc after issue: a loop count as what remains of it (R127),
the core number, or the register at its address.
MTR (R117) writes a writable register 2 cc after issue: flags of R83 by writing 1 to clear, others at their unreserved bits, and a
loop count once for the table, from logical core 0, if that core acts. -/
def Obligations.RegisterMoves : Prop :=
  (∀ (s s1 : State) (h : Hdr) (sr : BitVec 5) (blk : BitVec 2) (off : BitVec 12) (r : TaskReg),
    s.Canonical → taskReg blk off = some r → s.issue h slotS = .go s1 →
    ∃ t, exec (.mfr h sr blk off) s = .next t ∧ s1.Owes t h.table (s1.inActors h (fun k => [(2, .sreg k sr.toNat
      (match r with
        | .loopCount n => (((s1.seqOf h.table (s1.issuer h)).loops.drop n).head?.map (·.remaining)).getD 0
        | .lid => BitVec.ofNat 32 (s1.logCore (k / 34) (k % 34))
        | r => s1.csrAt (taskRegAddr k r)))]))) ∧
  (∀ (s s1 : State) (h : Hdr) (sr : BitVec 5) (blk : BitVec 2) (off : BitVec 12) (r : TaskReg),
    s.Canonical → taskReg blk off = some r → r.writable = true → s.issue h slotS = .go s1 →
    ∃ t, exec (.mtr h sr blk off) s = .next t ∧ s1.Owes t h.table
      (match r with
        | .loopCount n => (((s1.actors h).filter (fun x => x.1 == 0 || (s1.issuer h).isSome)).take 1).map (fun x =>
            (2, .loopPending (s1.issuer h) n (s1.sreg x.2 sr)))
        | .cvtFlags => s1.inActors h (fun k => [(2, .clearBits k 0x400 (s1.sreg k sr &&& 3))])
        | .accFlag n f hi => s1.inActors h (fun k => [(2, .accFlagReg k n f (b2n hi) (s1.sreg k sr))])
        | r => s1.inActors h (fun k => [(2, .regWrite (taskRegAddr k r) (s1.sreg k sr &&& taskRegMask r))])))

/-! ### The V slot (R118, R119) -/

/-- Binary32 operations of two or three vector registers (R119): each result is the exact one rounded once; a minimum or maximum orders
-0 below +0, and a NaN operand gives the canonical NaN; a comparison gives all ones or zero.
Integer and bitwise operations of vector registers, the select and the move (R118). -/
def Obligations.VectorOperations : Prop :=
  (∀ (s s1 : State) (h : Hdr) (msk : BitVec 2) (vd va vb vc : BitVec 5) (cond : BitVec 3),
    s.Canonical → msk ≠ 3 → cond.toNat ≤ 5 → s.issue h slotV = .go s1 →
    ∀ p ∈ ([(.vaddf h msk vd va vb, fun a b _ => rne32 ((f32Val a).add (f32Val b))),
        (.vsubf h msk vd va vb, fun a b _ => rne32 ((f32Val a).add (f32Val b).neg)),
        (.vmulf h msk vd va vb, fun a b _ => rne32 ((f32Val a).mul (f32Val b))),
        (.vfmaf h msk vd va vb vc, fun a b c => rne32 (((f32Val a).mul (f32Val b)).add (f32Val c))),
        (.vminf h msk vd va vb, fun a b _ => if f32Val a = .nan ∨ f32Val b = .nan then 0x7FC00000 else if f32Key a ≤ f32Key b then a else b),
        (.vmaxf h msk vd va vb, fun a b _ => if f32Val a = .nan ∨ f32Val b = .nan then 0x7FC00000 else if f32Key a ≤ f32Key b then b else a),
        (.vabsf h msk vd va, fun a _ _ => if f32Val a = .nan then 0x7FC00000 else a &&& 0x7FFFFFFF),
        (.vnegf h msk vd va, fun a _ _ => if f32Val a = .nan then 0x7FC00000 else a ^^^ 0x80000000),
        (.vcmpf h msk vd va vb cond, fun a b _ => if condF cond a b then 0xFFFFFFFF else 0)]
        : List (Instr × (Word → Word → Word → Word))),
      ∃ t, exec p.1 s = .next t ∧ s1.Owes t h.table
        (s1.inActors h (fun k => [(4, s1.toLanes k msk vd (fun l => p.2 (s1.vlane k va l) (s1.vlane k vb l) (s1.vlane k vc l)))]))) ∧
  (∀ (s s1 : State) (h : Hdr) (msk : BitVec 2) (vd va vb vc : BitVec 5) (cond : BitVec 3),
    s.Canonical → msk ≠ 3 → s.issue h slotV = .go s1 →
    ∀ p ∈ ([(.vaddi h msk vd va vb, fun a b _ => a + b), (.vsubi h msk vd va vb, fun a b _ => a - b),
        (.vmuli h msk vd va vb, fun a b _ => a * b),
        (.vmini h msk vd va vb, fun a b _ => if a.toInt ≤ b.toInt then a else b),
        (.vmaxi h msk vd va vb, fun a b _ => if a.toInt ≤ b.toInt then b else a),
        (.vand h msk vd va vb, fun a b _ => a &&& b), (.vor h msk vd va vb, fun a b _ => a ||| b),
        (.vxor h msk vd va vb, fun a b _ => a ^^^ b), (.vshl h msk vd va vb, fun a b _ => a <<< (b.toNat % 32)),
        (.vshr h msk vd va vb, fun a b _ => a >>> (b.toNat % 32)), (.vsar h msk vd va vb, fun a b _ => a.sshiftRight (b.toNat % 32)),
        (.vcmpi h msk vd va vb cond, fun a b _ => if condHolds cond a b then 0xFFFFFFFF else 0),
        (.vsel h msk vd va vb vc, fun a b c => if c = 0 then b else a), (.vmov h msk vd va vb, fun a _ _ => a)]
        : List (Instr × (Word → Word → Word → Word))),
      ∃ t, exec p.1 s = .next t ∧ s1.Owes t h.table
        (s1.inActors h (fun k => [(4, s1.toLanes k msk vd (fun l => p.2 (s1.vlane k va l) (s1.vlane k vb l) (s1.vlane k vc l)))])))

/-- Moves between lanes, scalars, masks and predicates (R118).
VTOM (R118): bit l of the lane mask register that it selects takes bit 0 of lane l, whatever the mask.
Reductions (R118, R119): the minimum, the maximum or the sum over the unmasked lanes, written to each of them. -/
def Obligations.LaneMovesAndReductions : Prop :=
  ((∀ (s s1 : State) (h : Hdr) (msk : BitVec 2) (vd va sb sd : BitVec 5) (pd : BitVec 3),
    s.Canonical → msk ≠ 3 → pd ≠ 0 → s.issue h slotV = .go s1 →
    ∀ p ∈ ([(.vbcst h msk vd sb, fun k => s1.toLanes k msk vd (fun _ => s1.sreg k sb)),
        (.vrot h msk vd va sb, fun k => s1.toLanes k msk vd (fun l => s1.vlane k va ((l + (s1.sreg k sb).toNat) % 64))),
        (.vidx h msk vd, fun k => s1.toLanes k msk vd (fun l => BitVec.ofNat 32 l)),
        (.vget h sd va sb, fun k => .sreg k sd.toNat (s1.vlane k va ((s1.sreg k sb).toNat % 64))),
        (.vtop h msk pd va, fun k => .pred k pd.toNat ((s1.maskLanes k msk).any (fun l => (s1.vlane k va l).getLsbD 0)))]
        : List (Instr × (Nat → Eff))),
      ∃ t, exec p.1 s = .next t ∧ s1.Owes t h.table (s1.inActors h (fun k => [(4, p.2 k)]))) ∧
  (∀ (s s1 : State) (h : Hdr) (sel : Bool) (va : BitVec 5), s.Canonical → s.issue h slotV = .go s1 →
    ∃ (t : State) (m : Nat → BitVec 64), exec (.vtom h sel va) s = .next t ∧
      s1.Owes t h.table (s1.inActors h (fun k => [(4, .lmask k (b2n sel) (m k))])) ∧
      ∀ k l, l < 64 → (m k).getLsbD l = (s1.vlane k va l).getLsbD 0)) ∧
  (∀ (s s1 : State) (h : Hdr) (msk : BitVec 2) (vd va vb : BitVec 5), s.Canonical → msk ≠ 3 → s.issue h slotV = .go s1 →
    ∀ p ∈ ([(.vredmaxf h msk vd va vb, fun ws r => (ws.any isNan32 = true ∧ r = 0x7FC00000) ∨
          (ws.any isNan32 = false ∧ r ∈ ws ∧ ∀ w ∈ ws, f32Key w ≤ f32Key r)),
        (.vredminf h msk vd va vb, fun ws r => (ws.any isNan32 = true ∧ r = 0x7FC00000) ∨
          (ws.any isNan32 = false ∧ r ∈ ws ∧ ∀ w ∈ ws, f32Key r ≤ f32Key w)),
        (.vredi h msk vd va vb, fun ws r => r = ws.foldr (· + ·) 0)] : List (Instr × (List Word → Word → Prop))),
      ∃ (t : State) (r : Nat → Word), exec p.1 s = .next t ∧
        s1.Owes t h.table (s1.inActors h (fun k => [(4, s1.toLanes k msk vd (fun _ => r k))])) ∧
        ∀ k, s1.maskLanes k msk ≠ [] → p.2 ((s1.maskLanes k msk).map (s1.vlane k va)) (r k))

/-! ### Issue, visibility and loops (R107 to R114, R126, R136) -/

/-- A dealer issues a word in its next cycle (R107, R111): of the table, nothing changes but the place in the program, the idle cycles
to come, the slots issued and the count at issue; a later operation of the word, in slot order, marks its slot alone.
In Taper mode a core issues its own words once its instruction cache holds their lines; at a missing line it waits for it (R136). -/
def Obligations.OperationsIssue : Prop :=
  (∀ (s : State) (h : Hdr) (slot : Nat), s.Canonical → slot < 6 → (s.table h.table).taper = false → (s.table h.table).run = 1 →
    s.stopped h.table = false →
    (h.first = true → (s.table h.table).ending = false → (s.table h.table).seq.ended = false → (s.table h.table).seq.slots = 0 →
      (s.table h.table).seq.hold = 0 → (s.table h.table).seq.nextPc = h.pc → (s.table h.table).seq.waits = [] →
      (s.table h.table).seq.window = none →
      s.issue h slot = .go (s.modTable h.table (fun b => { b with
        started := true, issueTcc := b.tcc.truncate 32, busyPrior := b.busyUntil
        seq := { b.seq with
          pc := h.pc, nextPc := s.afterWord h.table none h.pc, hold := h.idle.toNat, slots := BitVec.ofNat 6 (1 <<< slot)
          loopDue := if b.seq.loops.any (fun l => l.active && decide (l.last = h.pc)) then some h.pc else none } }))) ∧
    (h.first = false → (s.table h.table).seq.slots ≠ 0 → (s.table h.table).seq.pc = h.pc →
      (s.table h.table).seq.slots.toNat < 2 ^ slot →
      s.issue h slot = .go (s.modTable h.table (fun b => { b with
        seq := { b.seq with slots := b.seq.slots ||| BitVec.ofNat 6 (1 <<< slot) } })))) ∧
  (∀ (s : State) (h : Hdr) (slot c : Nat), s.Canonical → slot < 6 → (s.table h.table).taper = true → (s.table h.table).run = 1 →
    s.stopped h.table = false → (s.table h.table).ending = false → s.physCore h.table h.core = some c → h.first = true →
    (s.core (34 * h.table + c)).missLine = none → (s.core (34 * h.table + c)).taper.ended = false →
    (s.core (34 * h.table + c)).taper.slots = 0 → (s.core (34 * h.table + c)).taper.hold = 0 →
    (s.core (34 * h.table + c)).taper.nextPc = h.pc → (∀ x ∈ s.tableCores h.table, (s.core x.2).taper.waits = []) →
    (s.core (34 * h.table + c)).taper.waits = [] → (s.core (34 * h.table + c)).taper.window = none →
    match (s.wordLines h.table (34 * h.table + c) h.pc).find? (fun l => !((s.core (34 * h.table + c)).cache.any (fun x => x.line == l))) with
    | none => s.issue h slot = .go ((s.modTable h.table (fun b => { b with
          started := true, issueTcc := b.tcc.truncate 32, busyPrior := b.busyUntil })).modCore
        (34 * h.table + c) (fun x => { x with taper := { x.taper with
          pc := h.pc, nextPc := s.afterWord h.table (some (34 * h.table + c)) h.pc, hold := h.idle.toNat
          slots := BitVec.ofNat 6 (1 <<< slot)
          loopDue := if x.taper.loops.any (fun l => l.active && decide (l.last = h.pc)) then some h.pc else none } }))
    | some l => s.issue h slot = .miss (s.modCore (34 * h.table + c) (fun x => { x with missLine := some l })))

/-- What an operation owes becomes visible when it is due (R28, R113): a scalar register other than s0, a predicate other than p0 and
a lane of a vector register then hold the last of the due writes in the order of issue, and what was there before if there is
none; s0 and p0 stay; and what is not due stays owed, unless a store's check still follows. -/
def Obligations.WritesBecomeVisible : Prop :=
  ∀ (s : State) (n c : Nat), s.Canonical →
    (∀ k r, SMap.get 0 ((s.applyDue n c).core k).sreg r =
      if r = 0 then SMap.get 0 (s.core k).sreg 0 else
        (s.lastDue n c (fun e => match e with
          | .sreg k' r' v => if k' = k ∧ r' = r then some v else none
          | _ => none)).getD (SMap.get 0 (s.core k).sreg r)) ∧
    (∀ k p, p < 8 → ((s.applyDue n c).core k).pred.getLsbD p =
      if p = 0 then (s.core k).pred.getLsbD 0 else
        (s.lastDue n c (fun e => match e with
          | .pred k' p' v => if k' = k ∧ p' = p then some v else none
          | _ => none)).getD ((s.core k).pred.getLsbD p)) ∧
    (∀ k r l, l < 64 → (∀ p ∈ s.owed n, ∀ k' r' vs, p.2 = .lanes k' r' vs → ∀ x ∈ vs, x.1 < 64) →
      SMap.get 0 ((s.applyDue n c).core k).vreg (64 * r + l) =
        (s.lastDue n c (fun e => match e with
          | .lanes k' r' vs => if k' = k ∧ r' = r then vs.reverse.lookup l else none
          | _ => none)).getD (SMap.get 0 (s.core k).vreg (64 * r + l))) ∧
    ((∀ p ∈ s.owed n, p.1 ≤ c → p.2.extra = 0) → (s.applyDue n c).owed n = (s.owed n).filter (fun p => decide (c < p.1)))

/-- After the last word of one loop's body (R126), once its idle cycles have passed, the body starts again while iterations remain, and
with none left the loop ends and issue goes on behind it. While a handler window is awaited or open nothing turns; where an HWIN ends
the body, it turns after the window and the word's idle cycles. -/
def Obligations.LoopsTurn : Prop :=
  ∀ (q : Seq) (n : Nat) (l : Loop) (pc : BitVec 17), q.slots = 0 → q.loops[n]? = some l → l.active = true → l.last = pc →
    (∀ m l', q.loops[m]? = some l' → l'.active = true → l'.last = pc → m = n) →
    (q.loopDue = some pc → q.hold ≤ 1 → q.window = none →
      (∀ w ∈ q.waits, ∀ a b c d, w.what ≠ .window a b c d) →
      (l.remaining = 1 → q.enter false = { q with
        hold := 0, loopDue := none, loops := q.loops.modify n (fun l => { l with active := false, remaining := 0 }) }) ∧
      (l.remaining ≠ 1 → q.enter false = { q with
        hold := 0, loopDue := none, nextPc := l.start, loops := q.loops.modify n (fun l => { l with remaining := l.remaining - 1 }) })) ∧
    (q.window.isSome = true → q.enter false = { q with hold := q.hold - 1 }) ∧
    (1 < q.hold → q.enter false = { q with hold := q.hold - 1 }) ∧
    (∀ w, w.due = some pc → w.idle = 0 →
      (l.remaining = 1 → q.closeWindow w = { q with
        window := none, nextPc := w.retPc, hold := 0, loopDue := none
        loops := q.loops.modify n (fun l => { l with active := false, remaining := 0 }) }) ∧
      (l.remaining ≠ 1 → q.closeWindow w = { q with
        window := none, nextPc := l.start, hold := 0, loopDue := none
        loops := q.loops.modify n (fun l => { l with remaining := l.remaining - 1 }) })) ∧
    ∀ w, w.idle ≠ 0 → q.closeWindow w = { q with window := none, nextPc := w.retPc, hold := w.idle, loopDue := w.due }

/-! ### Operand queues, conversions, read-out, trackers -/

/-- SQPOP and VQPOP (R116, R118, R135) give the head entry of the queue and take it away.
A pop of an empty operand queue (R135) delivers zero, raises OPQ_EMPTY (0x1041) and aborts the job. -/
def Obligations.OperandQueuePops : Prop :=
  (∀ (s s1 : State) (h : Hdr) (sd vd : BitVec 5), s.Canonical →
    (s.issue h slotS = .go s1 → (∀ x ∈ s1.actors h, (s1.core x.2).squeue ≠ []) →
      ∃ t, exec (.sqpop h sd) s = .next t ∧
        s1.ActsOwes t h.table Core.AlikeButQueues [] (s1.inActors h (fun k => [(1, .sreg k sd.toNat ((s1.core k).squeue.headD 0))])) ∧
        ∀ k, (t.core k).vqueue = (s1.core k).vqueue ∧
          (t.core k).squeue = if (s1.actors h).any (fun x => x.2 == k) then (s1.core k).squeue.drop 1 else (s1.core k).squeue) ∧
    (s.issue h slotV = .go s1 → (∀ x ∈ s1.actors h, (s1.core x.2).vqueue ≠ []) →
      ∃ t, exec (.vqpop h vd) s = .next t ∧
        s1.ActsOwes t h.table Core.AlikeButQueues [] (s1.inActors h (fun k => [(4, .lanes k vd.toNat ((List.range 64).map (fun l =>
          (l, (((s1.core k).vqueue.headD []).drop l).headD 0))))])) ∧
        ∀ k, (t.core k).squeue = (s1.core k).squeue ∧
          (t.core k).vqueue = if (s1.actors h).any (fun x => x.2 == k) then (s1.core k).vqueue.drop 1 else (s1.core k).vqueue)) ∧
  (∀ (s s1 : State) (h : Hdr) (sd vd : BitVec 5) (x : Nat × Nat), s.Canonical →
    (s.issue h slotS = .go s1 → s1.actors h = [x] → (s1.core x.2).squeue = [] →
      ∃ u, s1.Owes u h.table [(1, .sreg x.2 sd.toNat 0)] ∧
        exec (.sqpop h sd) s = .next (u.faultTable h.table 0x1041 (2 * x.1 + 2 ^ 7 * h.pc.toNat))) ∧
    (s.issue h slotV = .go s1 → s1.actors h = [x] → (s1.core x.2).vqueue = [] →
      ∃ u, s1.Owes u h.table [(4, .lanes x.2 vd.toNat ((List.range 64).map (fun l => (l, 0))))] ∧
        exec (.vqpop h vd) s = .next (u.faultTable h.table 0x1041 (1 + 2 * x.1 + 2 ^ 7 * h.pc.toNat))))

/-- CVT and CVMX (R79 to R84): every unmasked lane converted, 4 cc after issue, and CORE_CVT_FLAGS set where a lane sets a flag. CVMX
converts the two blocks of 32 lanes and gives their scales in lanes 0 and 32 of a second register.
GMX and CURV (R102, R120), 6 cc after issue: two words of a glowmix draw, at the position formed of the use number and the element
number, and the value of a curve table. -/
def Obligations.ConversionsAndDraws : Prop :=
  (∀ (s s1 : State) (h : Hdr) (msk : BitVec 2) (vd vs vsc sfmt dfmt : BitVec 5) (rm : BitVec 3) (sat cb : Bool) (sf df : Fmt) (m : RMode),
    s.Canonical → s.issue h slotV = .go s1 → Fmt.ofCode dfmt.toNat = some df → RMode.ofCode rm.toNat = some m →
    ((Instr.cvt h msk vd vs sfmt dfmt rm sat cb).wf = true → Fmt.ofCode sfmt.toNat = some sf →
      ∃ t, exec (.cvt h msk vd vs sfmt dfmt rm sat cb) s = .next t ∧
        s1.Owes t h.table (s1.inActors h (fun k => convEffs 4 k vd.toNat ((s1.maskLanes k msk).map (fun l =>
          (l, cvtLane sf df m sat (s1.codeEntry k (b2n cb)) (s1.vlane k vs l).toNat)))))) ∧
    ((Instr.cvmx h vd vs vsc dfmt rm).wf = true →
      ∃ (t : State) (b0 b1 : Nat → Nat × List Conv), exec (.cvmx h vd vs vsc dfmt rm) s = .next t ∧
        (∀ k, b0 k = cvmxBlock df m ((List.range 32).map (fun i => s1.vlane k vs i)) ∧
          b1 k = cvmxBlock df m ((List.range 32).map (fun i => s1.vlane k vs (32 + i)))) ∧
        s1.Owes t h.table (s1.inActors h (fun k =>
          convEffs 4 k vd.toNat (((b0 k).2 ++ (b1 k).2).zipIdx.map (fun c => (c.2, c.1))) ++
            [(4, .lanes k vsc.toNat ((List.range 64).map (fun l =>
              (l, BitVec.ofNat 32 (if l = 0 then (b0 k).1 else if l = 32 then (b1 k).1 else 0)))))])))) ∧
  (∀ (s s1 : State) (h : Hdr) (msk : BitVec 2) (vd vx sstr seb suse : BitVec 5) (seed : BitVec 4) (tab : BitVec 3),
    s.Canonical → s.issue h slotV = .go s1 →
    ((Instr.gmx h msk vd vx seed sstr seb suse).wf = true →
      ∃ (t : State) (draw : Nat → Nat → BitVec 64), exec (.gmx h msk vd vx seed sstr seb suse) s = .next t ∧
        (∀ k l, draw k l = glowmix (SMap.get 0 (s1.table h.table).seeds seed.toNat) (s1.sreg k sstr)
          (s1.sreg k suse ++ ((s1.sreg k (seb + 1) ++ s1.sreg k seb : BitVec 64) + (s1.vlane k vx l).zeroExtend 64))) ∧
        s1.Owes t h.table (s1.inActors h (fun k =>
          [(6, s1.toLanes k msk vd (fun l => (draw k l).truncate 32)),
           (6, .lanes k (vd.toNat + 1) ((s1.maskLanes k msk).map (fun l => (l, ((draw k l) >>> 32).truncate 32))))]))) ∧
    (msk ≠ 3 →
      ∃ t, exec (.curv h msk vd vx tab) s = .next t ∧
        s1.Owes t h.table (s1.inActors h (fun k => [(6, s1.toLanes k msk vd (fun l =>
          curvLane (SMap.get 0 (s1.core k).curveHdr (2 * tab.toNat)) ((SMap.get 0 (s1.core k).curveHdr (2 * tab.toNat + 1)).truncate 8)
            (fun i j => SMap.get 0 (s1.core k).curve (1024 * tab.toNat + 4 * i + j)) (s1.vlane k vx l)))]))))

/-- ARD and ARDR (R59, R96 to R99), 8 cc after issue, of an entry that the sets have: ARD gives the entry's exact value converted as
the operation says (as with SAT = 0: the model's reading, assumption 23), or what the flags ask for; ARDR gives the raw bits in 4
registers of a narrow set and 8 of a wide one.
An entry above 31 of a wide set does not exist (R52, R59, R96): in the cores where the set is wide ARD and ARDR give zero in every lane,
and ACC_ENTRY (0x2102) names the lowest of them. -/
def Obligations.AccumulatorReads : Prop :=
  (∀ (s s1 : State) (h : Hdr) (vd ofmt rv : BitVec 5) (aset rm : BitVec 3) (entry : BitVec 6) (spec : Bool) (j : BitVec 4) (df : Fmt),
    s.Canonical → s.issue h slotV = .go s1 →
    (∀ x ∈ s1.actors h, cfgWide (s1.setCfg x.2 aset.toNat) = true → entry.toNat ≤ 31) →
    ((Instr.ard h vd aset entry ofmt rm spec j rv).wf = true → Fmt.ofCode ofmt.toNat = some df →
      ∃ t, exec (.ard h vd aset entry ofmt rm spec j rv) s = .next t ∧
        s1.Owes t h.table (s1.inActors h (fun k => convEffs 8 k vd.toNat ((List.range 64).map (fun l =>
          (l, df.convert (s1.ardMode k rm j rv l) false (readoutVal spec (s1.accFlags k aset.toNat l)
            (gridVal (SMap.get 0 (s1.core k).accV (accKey l aset.toNat entry.toNat)) (cfgLsb (s1.setCfg k aset.toNat)))))))))) ∧
    ((Instr.ardr h vd aset entry).wf = true →
      ∃ t, exec (.ardr h vd aset entry) s = .next t ∧
        s1.Owes t h.table (s1.inActors h (fun k =>
          (List.range (if cfgWide (s1.setCfg k aset.toNat) then 8 else 4)).map (fun i =>
            (8, .lanes k (vd.toNat + i) ((List.range 64).map (fun l =>
              (l, rawWord (SMap.get 0 (s1.core k).accV (accKey l aset.toNat entry.toNat)) i))))))))) ∧
  (∀ (s s1 : State) (h : Hdr) (vd ofmt rv : BitVec 5) (aset rm : BitVec 3) (entry : BitVec 6) (spec : Bool) (j : BitVec 4) (df : Fmt)
    (x : Nat × Nat) (rest : List (Nat × Nat)), s.Canonical → s.issue h slotV = .go s1 → 31 < entry.toNat →
    (s1.actors h).filter (fun y => cfgWide (s1.setCfg y.2 aset.toNat)) = x :: rest →
    ((Instr.ard h vd aset entry ofmt rm spec j rv).wf = true → Fmt.ofCode ofmt.toNat = some df →
      ∃ u, s1.Owes u h.table (s1.inActors h (fun k => convEffs 8 k vd.toNat ((List.range 64).map (fun l =>
          (l, if cfgWide (s1.setCfg k aset.toNat) then ⟨0, false, false⟩ else
            df.convert (s1.ardMode k rm j rv l) false (readoutVal spec (s1.accFlags k aset.toNat l)
              (gridVal (SMap.get 0 (s1.core k).accV (accKey l aset.toNat entry.toNat)) (cfgLsb (s1.setCfg k aset.toNat))))))))) ∧
        exec (.ard h vd aset entry ofmt rm spec j rv) s = .next (u.raiseTable h.table 0x2102 clsNote
          (aset.toNat + 2 ^ 3 * entry.toNat + 2 ^ 9 * x.1 + 2 ^ 15 * h.pc.toNat))) ∧
    ((Instr.ardr h vd aset entry).wf = true →
      ∃ u, s1.Owes u h.table (s1.inActors h (fun k =>
          (List.range (if cfgWide (s1.setCfg k aset.toNat) then 8 else 4)).map (fun i =>
            (8, .lanes k (vd.toNat + i) ((List.range 64).map (fun l => (l, if cfgWide (s1.setCfg k aset.toNat) then 0
              else rawWord (SMap.get 0 (s1.core k).accV (accKey l aset.toNat entry.toNat)) i))))))) ∧
        exec (.ardr h vd aset entry) s = .next (u.raiseTable h.table 0x2102 clsNote
          (aset.toNat + 2 ^ 3 * entry.toNat + 2 ^ 9 * x.1 + 2 ^ 15 * h.pc.toNat))))

/-- TKCFG, TKINS and TKRD (R63 to R65), 4 cc after issue: the trackers are configured and emptied, candidates are offered to the list,
and a rank of the list is read; for a list or rank that the configuration does not give, the lanes hold free values
(assumption 24). -/
def Obligations.Trackers : Prop :=
  ∀ (s s1 : State) (h : Hdr) (msk : BitVec 2) (two desc int32 list : Bool) (depth vs sidx vds vdi : BitVec 5) (rank : BitVec 4),
    s.Canonical → s.issue h slotV = .go s1 →
    ((Instr.tkcfg h two depth desc int32).wf = true → ∃ t, exec (.tkcfg h two depth desc int32) s = .next t ∧
      s1.Owes t h.table (s1.inActors h (fun k => [(4, .tkcfg k (tkByte two depth.toNat desc int32))]))) ∧
    (msk ≠ 3 → ∃ t, exec (.tkins h msk list vs sidx) s = .next t ∧
      s1.Owes t h.table (s1.inActors h (fun k =>
        [(4, .tkins k (b2n list) ((s1.maskLanes k msk).map (fun l => (l, s1.vlane k vs l))) (s1.sreg k sidx))]))) ∧
    (vds ≠ vdi → ∃ (u : State) (entry : Nat → Nat → Word × Word),
      exec (.tkrd h list rank vds vdi) s = .next { u with free := s1.free + 4352 } ∧
      s1.Owes u h.table (s1.inActors h (fun k =>
        [(4, .lanes k vds.toNat ((List.range 64).map (fun l => (l, (entry k l).1)))),
         (4, .lanes k vdi.toNat ((List.range 64).map (fun l => (l, (entry k l).2))))])) ∧
      ∀ k l, tkHas (s1.core k).tkCfg list rank.toNat = true →
        entry k l = (SMap.get [] (s1.core k).tk (2 * l + b2n list)).getD rank.toNat (tkEmpty (s1.core k).tkCfg))

/-! ### The M slot -/

/-- The weight vector that an MDOT uses in core `k` (R49): the operand register, or, when it consumes, the vector at the head of the
FIFO of an armed streamer and the empty vector otherwise, code8 indices expanded through the active weight codebook. -/
def Sys2Proof.mdotWeights (s : State) (o : MdotOp) (k : Nat) : WVec :=
  if o.src || o.wrep then (s.core k).streamer.operand else
  let v := if (s.core k).streamer.armed then SMap.get WVec.zero (s.core k).streamer.fifo (s.core k).streamer.head else WVec.zero
  if o.wfmt = 10 then s.expand k v else v

/-- MDOT (R49, R52, R54 to R56, R87 to R90) where the set has the width of the operands and the entry: in every unmasked lane of every
core the entry takes its step, the other entries stay, the M slot sees it at once and the others 6 cc after issue. A consuming
MDOT moves the streamer on by one vector. -/
def Obligations.MatrixProduct : Prop :=
  ∀ (s s1 : State) (h : Hdr) (o : MdotOp) (hf wf : Fmt), s.Canonical → o.wf = true → laneFmt o.hfmt.toNat = some hf →
    laneFmt o.wfmt.toNat = some wf → s.issue h slotM = .go s1 →
    (∀ x ∈ s1.opCores h, cfgWide (s1.setCfgM x.2 o.aset.toNat) = pairWide o.hfmt.toNat o.wfmt.toNat ∧
      (cfgWide (s1.setCfgM x.2 o.aset.toNat) = true → o.entry.toNat ≤ 31) ∧
      (o.src = false → o.wrep = false → (s1.core x.2).streamer.armed = true → (s1.core x.2).streamer.warming = false →
        s1.serves h x.1 x.2 ((wstAddrs (s1.core x.2).streamer.desc (s1.core x.2).streamer.nextN).1 ++
          (wstAddrs (s1.core x.2).streamer.desc (s1.core x.2).streamer.nextN).2))) →
    ∃ t, exec (.mdot h o) s = .next t ∧ s1.ActsOnly t h.table Core.AlikeButMatrix [] ∧
      (∀ x ∈ s1.opCores h,
        (∀ l n e, l < 64 → n < 8 → e < 64 → t.accM x.2 l n e =
          if n = o.aset.toNat ∧ e = o.entry.toNat ∧ l ∈ s1.maskLanes x.2 o.msk then
            ((s1.modCore x.2 (fun c => { c with streamer := { c.streamer with operand := mdotWeights s1 o x.2 } })).mdotLane x.2 o hf wf l).1
          else s1.accM x.2 l n e) ∧
        (t.core x.2).cfgM = (s1.core x.2).cfgM ∧ (t.core x.2).streamer.operand = mdotWeights s1 o x.2 ∧
        (t.core x.2).streamer.nextN = (s1.core x.2).streamer.nextN +
          (if o.src = false ∧ o.wrep = false ∧ (s1.core x.2).streamer.armed = true ∧ (s1.core x.2).streamer.warming = false then 1 else 0) ∧
        (s1.maskLanes x.2 o.msk ≠ [] → ∃ es, (s1.cyc h.table + 6, .acc x.2 es) ∈ t.owed h.table ∧
          ∀ l ∈ s1.maskLanes x.2 o.msk, (accKey l o.aset.toNat o.entry.toNat, t.accM x.2 l o.aset.toNat o.entry.toNat) ∈ es)) ∧
      ∀ k, (∀ x ∈ s1.opCores h, x.2 ≠ k) → t.core k = s1.core k

/-- MCLR, MSETW, MRED and MINJ (R57 to R59, R91) on entries that the sets have: what the M slot sees at once, in every core. MCLR gives
the start value to a range of entries; MSETW configures the set and clears it; MRED gathers the unmasked lanes into the first of
them, where the other lanes keep their entry or take the start value; MINJ adds raw bits.
WARM (R49): the streamer is armed with the descriptor as it stands and will consume vector 0 next, its first eight vectors read
from this cycle on; with OFF it is disarmed. -/
def Obligations.AccumulatorOperations : Prop :=
  (∀ (s s1 : State) (h : Hdr) (aset : BitVec 3) (val msk rop : BitVec 2) (first last entry dentry : BitVec 6) (vsrc : BitVec 5)
    (wide keep : Bool) (anchor : BitVec 10), s.Canonical → s.issue h slotM = .go s1 →
    ((Instr.mclr h val aset first last msk).wf = true →
      (∀ x ∈ s1.opCores h, cfgWide (s1.setCfgM x.2 aset.toNat) = true → last.toNat ≤ 31) →
      ∃ t, exec (.mclr h val aset first last msk) s = .next t ∧ s1.ActsOnly t h.table Core.AlikeButMatrix [] ∧
        ∀ x ∈ s1.opCores h, ∀ l n e, l < 64 → n < 8 → e < 64 → t.accM x.2 l n e =
          if n = aset.toNat ∧ first.toNat ≤ e ∧ e ≤ last.toNat ∧ l ∈ s1.maskLanes x.2 msk then
            (gridOf (s1.setCfgM x.2 n)).start val.toNat else s1.accM x.2 l n e) ∧
    ((Instr.msetw h aset wide anchor).wf = true →
      ∃ t, exec (.msetw h aset wide anchor) s = .next t ∧ s1.ActsOnly t h.table Core.AlikeButMatrix [] ∧
        ∀ x ∈ s1.opCores h, (∀ n, n < 8 → t.setCfgM x.2 n =
            if n = aset.toNat then (if wide then 1 else 0) + 2 * anchor.zeroExtend 32 else s1.setCfgM x.2 n) ∧
          (∀ l n e, l < 64 → n < 8 → e < 64 → t.accM x.2 l n e = if n = aset.toNat then 0 else s1.accM x.2 l n e) ∧
          (s1.cyc h.table + 2, .accClear x.2 aset.toNat ((if wide then 1 else 0) + 2 * anchor.zeroExtend 32)) ∈ t.owed h.table) ∧
    ((Instr.mred h aset entry dentry msk keep rop).wf = true →
      (∀ x ∈ s1.opCores h, cfgWide (s1.setCfgM x.2 aset.toNat) = true → entry.toNat ≤ 31 ∧ dentry.toNat ≤ 31) →
      ∃ t, exec (.mred h aset entry dentry msk keep rop) s = .next t ∧ s1.ActsOnly t h.table Core.AlikeButMatrix [] ∧
        ∀ x ∈ s1.opCores h, ∀ dl ls, s1.maskLanes x.2 msk = dl :: ls → ∀ l n e, l < 64 → n < 8 → e < 64 → t.accM x.2 l n e =
          if n = aset.toNat ∧ e = dentry.toNat ∧ l = dl then
            wrapS (gridOf (s1.setCfgM x.2 n)).width
              (ls.foldl (fun a l => if rop = 1 then min a (s1.accM x.2 l n entry.toNat) else if rop = 2 then max a (s1.accM x.2 l n entry.toNat)
                else a + s1.accM x.2 l n entry.toNat) (s1.accM x.2 dl n entry.toNat))
          else if n = aset.toNat ∧ e = entry.toNat ∧ l ∈ ls ∧ keep = false then (gridOf (s1.setCfgM x.2 n)).start rop.toNat
          else s1.accM x.2 l n e) ∧
    ((Instr.minj h aset entry vsrc msk).wf = true →
      (∀ x ∈ s1.opCores h, cfgWide (s1.setCfgM x.2 aset.toNat) = true → entry.toNat ≤ 31) →
      ∃ t, exec (.minj h aset entry vsrc msk) s = .next t ∧ s1.ActsOnly t h.table Core.AlikeButMatrix [] ∧
        ∀ x ∈ s1.opCores h, ∀ l n e, l < 64 → n < 8 → e < 64 → t.accM x.2 l n e =
          if n = aset.toNat ∧ e = entry.toNat ∧ l ∈ s1.maskLanes x.2 msk then
            wrapS (gridOf (s1.setCfgM x.2 n)).width (s1.accM x.2 l n e + s1.rawValue x.2 vsrc ((gridOf (s1.setCfgM x.2 n)).width / 32) l)
          else s1.accM x.2 l n e)) ∧
  (∀ (s s1 : State) (h : Hdr) (desc : BitVec 2) (off : Bool), s.Canonical → s.issue h slotM = .go s1 →
    ∃ t, exec (.warm h desc off) s = .next t ∧
      { t with cores := s1.cores, tables := s1.tables } = s1 ∧ (∀ m, m ≠ h.table → t.table m = s1.table m) ∧
      t.table h.table = { s1.table h.table with busyUntil :=
        if off then (s1.table h.table).busyUntil else Nat.max (s1.table h.table).busyUntil (s1.cyc h.table + 8) } ∧
      ∀ k, t.core k =
        if (s1.opCores h).any (fun x => x.2 == k) then { s1.core k with streamer :=
          if off then { (s1.core k).streamer with armed := false, warming := false, land := [] }
          else { (s1.core k).streamer with
            armed := true, desc := BitVec.ofNat 128 (s1.csrWide (coreReg k (0x300 + 0x10 * desc.toNat)) 4), head := 0, nextN := 8,
            warming := true, warmCyc := s1.cyc h.table, land := [] } }
        else s1.core k)

/-! ### The L slot and stores -/

/-- HLOAD (R42 to R47) of a descriptor with a format of R40 whose bytes are served: 5 cc after issue the pair of lanes 2P and 2P + 1 of
the half hold the 64 bytes of their elements and their scales, or padding, and the descriptor state has moved on at once.
LDV, LDS, CBLOAD and CTLOAD (R76, R120, R121, R143 to R146) whose bytes are served: 3, 4 or 5 cc after issue by the banks that an
LDV or LDS reads, 5 cc for the tables. -/
def Obligations.Loads : Prop :=
  (∀ (s s1 : State) (h : Hdr) (desc : BitVec 2) (half adv : Bool) (d : Nat → BitVec 256) (f : Nat → Fmt), s.Canonical →
    s.issue h slotL = .go s1 → (∀ k, d k = BitVec.ofNat 256 (s1.csrWide (coreReg k (0x200 + 0x20 * desc.toNat)) 8)) →
    (∀ x ∈ s1.actors h, laneFmt (field (d x.2) 51 48) = some (f x.2) ∧
      ∀ i < 2, ∀ off, holdOff (d x.2) (s1.csrAt (coreReg x.2 (0x280 + 4 * desc.toNat)))
          (2 * field (s1.csrAt (coreReg x.2 (0x280 + 4 * desc.toNat))) 4 0 + i) = some off →
        (∀ o < holdChunk (field (d x.2) 51 48), s1.serves h x.1 x.2 [spdOffset (field (d x.2) 18 0) (off + o)]) ∧
        ∀ o < (blockScales (field (d x.2) 51 48)).1, s1.serves h x.1 x.2
          [spdOffset (field (d x.2) 37 19) (off / (4 * (blockScales (field (d x.2) 51 48)).2 : Nat) + o)]) →
    ∃ t, exec (.hload h desc half adv) s = .next t ∧
      s1.ActsOwes t h.table Core.AlikeButReads ((s1.actors h).map (fun x => coreReg x.2 (0x280 + 4 * desc.toNat)))
        (s1.inActors h (fun k => (List.range 2).map (fun i =>
          let l := 2 * field (s1.csrAt (coreReg k (0x280 + 4 * desc.toNat))) 4 0 + i
          match holdOff (d k) (s1.csrAt (coreReg k (0x280 + 4 * desc.toNat))) l with
          | none => (5, .hold k ((List.range 64).map (fun b => (4096 * b2n half + 64 * l + b, 0)))
              ((List.range 4).map (fun b => (256 * b2n half + 4 * l + b, 0x7F))))
          | some off => (5, .hold k
              ((List.range 64).map (fun b => (4096 * b2n half + 64 * l + b,
                s1.holdByte k (f k) (fun o => SMap.get 0 (s1.core k).spd (spdOffset (field (d k) 18 0) (off + o))) (fun _ => false) b)))
              ((List.range 4).map (fun b => (256 * b2n half + 4 * l + b,
                if b < (blockScales (field (d k) 51 48)).1 then SMap.get 0 (s1.core k).spd
                  (spdOffset (field (d k) 37 19) (off / (4 * (blockScales (field (d k) 51 48)).2 : Nat) + b)) else 0x7F))))))) ∧
      ∀ x ∈ s1.actors h, t.csrAt (coreReg x.2 (0x280 + 4 * desc.toNat)) =
        holdAdvance (d x.2) (s1.csrAt (coreReg x.2 (0x280 + 4 * desc.toNat))) adv) ∧
  (∀ (s s1 : State) (h : Hdr) (vd sd sa sb : BitVec 5) (w : BitVec 3) (mode q : BitVec 2) (off : BitVec 19) (book commit : Bool)
    (tab : BitVec 3) (grp : BitVec 6), s.Canonical → s.issue h slotL = .go s1 →
    (ldvOk w mode sb = true → (∀ x ∈ s1.actors h, s1.serves h x.1 x.2 (s1.opVecAddrs x.2 w mode sa sb off)) →
      ∃ t, exec (.ldv h vd w mode sa sb off) s = .next t ∧
        s1.ActsOwes t h.table Core.AlikeButReads [] (s1.inActors h (fun k =>
          [(classLat (s1.opVecAddrs k w mode sa sb off), .lanes k vd.toNat
            (loadLanes w.toNat mode.toNat (s1.spdBytes k (s1.opVecAddrs k w mode sa sb off))))]))) ∧
    ((∀ x ∈ s1.actors h, s1.serves h x.1 x.2 (spdSpan (s1.opAddr x.2 sa off 2) 4)) →
      ∃ t, exec (.lds h sd sa off) s = .next t ∧
        s1.ActsOwes t h.table Core.AlikeButReads [] (s1.inActors h (fun k =>
          [(classLat (spdSpan (s1.opAddr k sa off 2) 4), .sreg k sd.toNat
            (BitVec.ofNat 32 (leNat (s1.spdBytes k (spdSpan (s1.opAddr k sa off 2) 4)))))]))) ∧
    ((∀ x ∈ s1.actors h, s1.serves h x.1 x.2 (spdSpan (s1.opAddr x.2 sa off 7) 128)) →
      (∃ t, exec (.cbload h book q commit sa off) s = .next t ∧
        s1.ActsOwes t h.table Core.AlikeButReads [] (s1.inActors h (fun k => [(5, .codebook k book q.toNat
          ((List.range 64).map (fun i => BitVec.ofNat 16 (rdLe (s1.spdBytes k (spdSpan (s1.opAddr k sa off 7) 128)) (2 * i) 2))) commit)]))) ∧
      (grp.toNat ≤ 32 → ∃ t, exec (.ctload h tab grp sa off) s = .next t ∧
        s1.ActsOwes t h.table Core.AlikeButReads [] (s1.inActors h (fun k => [(5, .curve k (curveWords tab.toNat grp.toNat
          (s1.spdBytes k (spdSpan (s1.opAddr k sa off 7) 128))))])))))

/-- GTH and SHLD (R121, R145, R151): each unmasked lane gathers an element of its own, 16 cc after issue, and 23 cc after issue 32 B of
the task's shelf window come to the scratchpad. -/
def Obligations.GatherAndShelfLoad : Prop :=
  ∀ (s s1 : State) (h : Hdr) (vd vo sa ssh : BitVec 5) (w msk : BitVec 2) (off : BitVec 19), s.Canonical → s.issue h slotL = .go s1 →
    ((Instr.gth h vd vo sa w msk).wf = true →
      (∀ x ∈ s1.actors h, ∀ l ∈ s1.maskLanes x.2 msk, s1.serves h x.1 x.2 (spdSpan (s1.gthAddr x.2 sa vo w.toNat l) (2 ^ w.toNat))) →
      ∃ t, exec (.gth h vd vo sa w msk) s = .next t ∧
        s1.ActsOwes t h.table Core.AlikeButReads [] (s1.inActors h (fun k => [(16, s1.toLanes k msk vd (fun l =>
          BitVec.ofNat 32 (leNat (s1.spdBytes k (spdSpan (s1.gthAddr k sa vo w.toNat l) (2 ^ w.toNat))))))]))) ∧
    ((∀ x ∈ s1.actors h, alignDown 5 (s1.sreg x.2 ssh).toNat + 32 ≤ s1.shfBound h.table ∧
        ∀ i < 32, SMap.get none s1.mem.shelfErr
          ((shareBase h.table + s1.shfBase h.table + alignDown 5 (s1.sreg x.2 ssh).toNat + i) / 8) = none) →
      ∃ t, exec (.shld h ssh sa off) s = .next t ∧
        s1.ActsOwes t h.table Core.AlikeButReads [] [(23, .spdTouch ((s1.actors h).map (fun x =>
          { core := x.2, lcore := x.1, banks := banksOf (spdSpan (s1.opAddr x.2 sa off 5) 32), landing := true
            bits := (List.range 32).map (fun i => (spdAddr (s1.opAddr x.2 sa off 5 + i), 0xFF,
              SMap.get 0 s1.mem.shelf (shareBase h.table + s1.shfBase h.table + alignDown 5 (s1.sreg x.2 ssh).toNat + i))) })))])

/-- STV, STS and SHST (R122, R143, R144, R151): a store touches its banks 1 cc after issue with the bytes and the masks of its elements;
SHST reads 32 B that are served and writes them to the task's shelf window 2 cc after issue.
A store of one core that passes its check (R146) is written in the cycle after it touches its banks: the bits under the masks, and
no other byte of any scratchpad. -/
def Obligations.Stores : Prop :=
  (∀ (s s1 : State) (h : Hdr) (msk mode : BitVec 2) (vs ss sa sb ssh : BitVec 5) (w : BitVec 3) (off : BitVec 19),
    s.Canonical → s.issue h slotT = .go s1 →
    ((Instr.stv h msk vs w mode sa sb off).wf = true →
      ∃ t, exec (.stv h msk vs w mode sa sb off) s = .next t ∧
        s1.Owes t h.table [(1, .spdTouch ((s1.actors h).map (fun x =>
          { core := x.2, lcore := x.1, banks := banksOf (s1.opVecAddrs x.2 w mode sa sb off), landing := false
            bits := storeBits w.toNat mode.toNat (s1.opVecAddrs x.2 w mode sa sb off) (s1.maskLanes x.2 msk) (s1.vlane x.2 vs) })))]) ∧
    (∃ t, exec (.sts h ss sa off) s = .next t ∧
      s1.Owes t h.table [(1, .spdTouch ((s1.actors h).map (fun x =>
        { core := x.2, lcore := x.1, banks := banksOf (spdSpan (s1.opAddr x.2 sa off 2) 4), landing := false
          bits := (List.range 4).map (fun i => (spdAddr (s1.opAddr x.2 sa off 2 + i), 0xFF,
            (s1.sreg x.2 ss).extractLsb' (8 * i) 8)) })))]) ∧
    (s1.actors h ≠ [] →
      (∀ x ∈ s1.actors h, s1.serves h x.1 x.2 (spdSpan (s1.opAddr x.2 sa off 5) 32) ∧
        alignDown 5 (s1.sreg x.2 ssh).toNat + 32 ≤ s1.shfBound h.table) →
      ∃ t, exec (.shst h ssh sa off) s = .next t ∧
        s1.ActsOwes t h.table Core.AlikeButReads [] [(2, .shelf ((s1.actors h).map (fun x =>
          (x.1, alignDown 5 (s1.sreg x.2 ssh).toNat, s1.spdBytes x.2 (spdSpan (s1.opAddr x.2 sa off 5) 32)))))])) ∧
  (∀ (s : State) (n c : Nat) (w : SpdWrite), s.Canonical → s.owed n = [(c, .spdTouch [w])] → s.touchFault n w = none →
    (w.bits.map (·.1)).Nodup → (∀ b ∈ w.bits, SMap.get none (s.core w.core).spdErr (b.1 / 4) = none) →
    ∀ k a, SMap.get 0 (((s.applyDue n c).applyDue n (c + 1)).core k).spd a =
      if k = w.core then
        match w.bits.find? (fun b => b.1 == a) with
        | some b => (SMap.get 0 (s.core k).spd a &&& ~~~b.2.1) ||| (b.2.2 &&& b.2.1)
        | none => SMap.get 0 (s.core k).spd a
      else SMap.get 0 (s.core k).spd a)

/-- An LDS or a store outside the task's window (R154, R222): the load gives zero, SPD_FAULT records the access, SPD_BOUND (0x2201) is raised
and the job is aborted; the store touches its banks all the same, its fault falls in the cycle in which it does, and nothing is stored. -/
def Obligations.WindowFaults : Prop :=
  ∀ (s s1 : State) (h : Hdr) (sd sa : BitVec 5) (off : BitVec 19) (x : Nat × Nat), s.Canonical →
    (s.issue h slotL = .go s1 → s1.actors h = [x] → s1.spdBound h.table ≤ s1.opAddr x.2 sa off 2 →
      ∃ u, s1.Owes u h.table [(classLat (spdSpan (s1.opAddr x.2 sa off 2) 4), .sreg x.2 sd.toNat 0)] ∧
        exec (.lds h sd sa off) s = .next (u.accFault h.table false (.bound x.1 (s1.opAddr x.2 sa off 2)))) ∧
    (∀ (w : SpdWrite) (n c : Nat) (b : Nat × Byte × Byte), s.owed n = [(c, .spdTouch [w])] → w.bits.head? = some b → s.spdBound n ≤ b.1 →
      (∃ u : State, s.applyDue n c = u.accFault n false (.bound w.lcore b.1) ∧ { u with tables := s.tables } = s ∧
        (∀ m, m ≠ n → u.table m = s.table m) ∧ { u.table n with pend := (s.table n).pend } = s.table n ∧
        u.owed n = [(c + 1, .spdWrite [{ w with bits := [] }])]) ∧
      ∀ k i, SMap.get 0 (((s.applyDue n c).applyDue n (c + 1)).core k).spd i = SMap.get 0 (s.core k).spd i) ∧
    (∀ n lc a, (s.csrAt (spdReg n 8)).getLsbD 31 = false → lc < 64 → a < 2 ^ 19 →
      s.accFault n false (.bound lc a) =
        ((s.setCsr (spdReg n 8) (BitVec.ofNat 32 (a + 2 ^ 19 * lc + 2 ^ 25 + 2 ^ 31))).mark (spdReg n 8) 0x80000000).faultTable n 0x2201
          (a + 2 ^ 19 * lc + 2 ^ 25 + 2 ^ 31))

/-- QREQ and QREL (R216, R219, R220) with entries enough: inbound entries leave FREE for PENDING, outbound ones HELD, and their granules go
out 2 cc after issue; released entries become FREE.
A QREQ or QREL that finds too few entries moves none (R222): QUE_MISUSE (0x2401) is raised and the job is aborted. -/
def Obligations.QueueOperations : Prop :=
  (∀ (s s1 : State) (h : Hdr) (q : BitVec 4) (sp : BitVec 5) (n1 : BitVec 4) (n : BitVec 6) (es : Nat → List (Nat × Eff)),
    s.Canonical → s.issue h slotT = .go s1 →
    ((Instr.qreq h q sp n1).wf = true →
      (∀ x ∈ s1.actors h,
        let c := s1.qcfg x.2 q.toNat
        let v := s1.qst x.2 q.toNat
        let a := alignDown 6 ((s1.sreg x.2 (sp + 1)).toNat * 2 ^ 32 + (s1.sreg x.2 sp).toNat)
        n1.toNat + 1 ≤ (if c.out then v.held else v.free) ∧
        (∀ tier, c.tier = some tier → a + (n1.toNat + 1) * c.esize ≤ s1.winBound tier h.table) ∧
        es x.2 = [(1, if c.out then .qmove x.2 q.toNat 0 (n1.toNat + 1 : Nat) 0 (-(n1.toNat + 1 : Nat)) 0 (n1.toNat + 1)
            else .qmove x.2 q.toNat (-(n1.toNat + 1 : Nat)) (n1.toNat + 1 : Nat) 0 0 (n1.toNat + 1) 0),
          (2, .request x.2 q.toNat (if c.out then n1.toNat + 1 else 0) (match c.tier with
            | none => []
            | some tier => requestGranules h.table x.2 q.toNat (s1.cyc h.table) c tier (s1.winBase tier h.table)
                (if c.out then v.old else v.next) (n1.toNat + 1) a))]) →
      s1.goneUnit (s1.inActors h es) = none →
      ∃ t, exec (.qreq h q sp n1) s = .next t ∧ s1.Owes t h.table (s1.inActors h es)) ∧
    (n ≠ 0 → (∀ x ∈ s1.actors h, n.toNat ≤ (s1.qst x.2 q.toNat).held) →
      ∃ t, exec (.qrel h q n) s = .next t ∧
        s1.Owes t h.table (s1.inActors h (fun k => [(1, .qmove k q.toNat n.toNat 0 0 (-n.toNat : Int) 0 n.toNat)])))) ∧
  (∀ (s s1 : State) (h : Hdr) (q : BitVec 4) (sp : BitVec 5) (n1 : BitVec 4) (n : BitVec 6) (x : Nat × Nat),
    s.Canonical → s.issue h slotT = .go s1 → s1.actors h = [x] →
    ((Instr.qreq h q sp n1).wf = true →
      (if (s1.qcfg x.2 q.toNat).out then (s1.qst x.2 q.toNat).held else (s1.qst x.2 q.toNat).free) < n1.toNat + 1 →
      ∃ u, s1.Owes u h.table [] ∧
        exec (.qreq h q sp n1) s = .next (u.accFault h.table false (.misuse x.1 q.toNat (s1.qcfg x.2 q.toNat).base 2))) ∧
    (n ≠ 0 → (s1.qst x.2 q.toNat).held < n.toNat →
      ∃ u, s1.Owes u h.table [] ∧
        exec (.qrel h q n) s = .next (u.accFault h.table false (.misuse x.1 q.toNat (s1.qcfg x.2 q.toNat).base 3))))

/-- SEND (R18, R124, R195, R196) by its acting cores: the channel's next sequence number is taken, a dynamic channel opens if it can, the
message waits in order for its credit, and the wait resolves 2 cc after issue. With no acting core there is only a wait that is met; to a table out of service the event
NO_UNIT (0x1040) takes the place of the message (R134). -/
def Obligations.MessageSends : Prop :=
  ∀ (s s1 : State) (h : Hdr) (chn hidx : BitVec 6) (sa : BitVec 5) (off : BitVec 19) (f1 : BitVec 4), s.Canonical →
    s.issue h slotT = .go s1 →
    (s1.actors h = [] → exec (.send h chn hidx sa off f1) s = .next (s1.addWait h .absent)) ∧
    (s1.actors h ≠ [] → s1.sendGone h.table chn.toNat = true → ∃ u, s1.OwesOnly u h.table ∧
      exec (.send h chn hidx sa off f1) s =
        .next ((u.absentUnit h.table slotT 6 1 (s1.snd h.table chn.toNat).dlt h.pc).addWait h .absent)) ∧
    (s1.actors h ≠ [] → s1.sendGone h.table chn.toNat = false → ∃ u, s1.OwesOnly u h.table ∧
      exec (.send h chn hidx sa off f1) s = .next ((((u.modTable h.table (fun b => { b with
        snd := SMap.modify SndChan.reset b.snd chn.toNat (fun c => { c with seq := c.seq + 1 }) })).tryOpen h.table chn.toNat).modTable
          h.table (fun b => { b with
        sends := b.sends ++ [{ chn := chn.toNat, seq := (s1.snd h.table chn.toNat).seq.toNat, hidx := hidx.toNat, started := false,
                               parts := [], signal := none, ready := 0, pc := h.pc }] })).addWait h
        (.credit chn.toNat hidx.toNat (s1.snd h.table chn.toNat).seq.toNat (f1.toNat + 1)
          ((s1.actors h).map (fun x => (x.1, spdAddr ((s1.sreg x.2 sa).toNat + off.toNat)))))))

/-! ### The Y slot -/

/-- NOP, END, LOOP, SETLC and BR (R123 to R128, R132): what each changes of its sequencer, whatever the guard.
END in Taper mode (R132, R137): the issuing core issues nothing further, and the task ends with its last core.
HRET (R205): the operand queues are emptied, the message's records are freed, and the window goes on to its next message; outside a
window it does nothing. -/
def Obligations.SequencerOperations : Prop :=
  ((∀ (s s1 : State) (h : Hdr) (lvl cmode : BitVec 2) (addr : BitVec 17) (src neg : Bool) (val : BitVec 23) (pred : BitVec 3) (l : Loop)
    (x : Nat × Nat), s.Canonical → s.issue h slotY = .go s1 → (s1.seqOf h.table (s1.issuer h)).loops[lvl.toNat]? = some l →
    (s1.opCores h).head? = some x →
    exec (.nop h) s = .next s1 ∧
    ((s1.table h.table).taper = false → exec (.endTask h) s = .next (s1.modTable h.table (fun b => { b with
      seq := { b.seq with ended := true }, busyUntil := Nat.max b.busyUntil (s1.cyc h.table), ending := true }))) ∧
    (exec (.loop h lvl addr) s = .next (s1.modSeq h.table (s1.issuer h) (fun q =>
      if l.pending = 0 then { q with
        loops := q.loops.modify lvl.toNat (fun l => { l with active := false, remaining := 0 }), nextPc := s1.afterWord h.table (s1.issuer h) addr }
      else { q with loops := q.loops.modify lvl.toNat (fun l =>
        { l with active := true, remaining := l.pending, start := q.nextPc, last := addr }) }))) ∧
    ((src = true → val.toNat < 32) → ∃ t, exec (.setlc h lvl src val) s = .next t ∧
      s1.Owes t h.table [(1, .loopPending (s1.issuer h) lvl.toNat
        (if src then s1.sreg x.2 (val.truncate 5) else val.zeroExtend 32))]) ∧
    (∃ u, s1.Owes u h.table [] ∧ exec (.br h cmode pred neg addr) s = .next (u.modSeq h.table (s1.issuer h) (fun q =>
      if cmode = 0 ∨ (cmode = 1 ∧ ∃ y ∈ s1.opCores h, s1.predBit y.2 pred ≠ neg) ∨
          (cmode = 2 ∧ ∀ y ∈ s1.opCores h, s1.predBit y.2 pred ≠ neg) ∨ (cmode = 3 ∧ s1.predBit x.2 pred ≠ neg) then
        { q with hold := h.idle.toNat + 2, nextPc := addr, loopDue := none, loops := q.loops.map (fun l =>
          if l.active ∧ ¬ (l.start.toNat ≤ addr.toNat ∧ addr.toNat ≤ l.last.toNat) then { l with active := false, remaining := 0 } else l) }
      else { q with hold := h.idle.toNat + 2 })))) ∧
  (∀ (s s1 : State) (h : Hdr) (k : Nat), s.Canonical → s.issue h slotY = .go s1 → s1.issuer h = some k →
    ∃ t, exec (.endTask h) s = .next t ∧ { t with cores := s1.cores, tables := s1.tables } = s1 ∧
      (∀ j, t.core j = if j = k then { s1.core k with taper := { (s1.core k).taper with ended := true } } else s1.core j) ∧
      (∀ m, m ≠ h.table → t.table m = s1.table m) ∧
      t.table h.table = { s1.table h.table with
        busyUntil := Nat.max (s1.table h.table).busyUntil (s1.cyc h.table)
        ending := (s1.tableCores h.table).all (fun x => x.2 == k || (s1.core x.2).taper.ended) })) ∧
  (∀ (s s1 : State) (h : Hdr) (w : Window), s.Canonical → s.issue h slotY = .go s1 →
    ((s1.table h.table).seq.window = none → exec (.hret h) s = .next s1) ∧
    ((s1.table h.table).seq.window = some w → ∃ t, exec (.hret h) s = .next t ∧
      { t with cores := s1.cores, tables := s1.tables } = s1 ∧ (∀ m, m ≠ h.table → t.table m = s1.table m) ∧
      t.table h.table = { s1.table h.table with
        seq := { (s1.table h.table).seq with window := some { w with running := false, left := w.left - 1 } }
        rcv := SMap.modify RcvChan.reset (s1.table h.table).rcv w.chn (fun c => c.handled ((s1.tableCores h.table).map (·.1))) } ∧
      ∀ k, t.core k = if (s1.tableCores h.table).any (fun x => x.2 == k) then { s1.core k with squeue := [], vqueue := [] } else s1.core k))

/-- WAIT, QWAIT, DWAIT and HWIN (R124, R129, R164, R219, R234): a wait of the issuing sequencer that resolves 2 cc after issue; the idle
cycles of an HWIN fall after its window.
SIG (R161, R162, R173, R207): to a counter of the own table or of the host, 1 cc after issue; to a counter at the far end of a channel,
by a signal that enters the L input 2 cc after issue, in the channel's order. -/
def Obligations.WaitsAndSignals : Prop :=
  (∀ (s s1 : State) (h : Hdr) (dst : BitVec 2) (ctr amt : BitVec 8) (tsel q : BitVec 4) (space : Bool) (n cnt chn : BitVec 6) (ch : BitVec 7)
    (wlen : BitVec 12), s.Canonical → s.issue h slotY = .go s1 →
    ∀ p ∈ ([(.wait h dst ctr amt tsel, if dst = 0 then .counter ctr.toNat amt.toNat tsel.toNat
          else .host ctr.toNat amt.toNat tsel.toNat, none),
        (.qwait h q space n, .queue q.toNat n.toNat space, none), (.dwait h ch, .dma ch.toNat, none),
        (.hwin h chn cnt wlen, .window chn.toNat cnt.toNat wlen.toNat h.idle.toNat, some 2)]
        : List (Instr × WaitFor × Option Nat)), p.1.wf = true →
      ∃ t, exec p.1 s = .next t ∧ { t with tables := s1.tables, cores := s1.cores } = s1 ∧
        (∀ m, m ≠ h.table → t.table m = s1.table m) ∧
        t.seqOf h.table (s1.issuer h) = { s1.seqOf h.table (s1.issuer h) with
          hold := p.2.2.getD (s1.seqOf h.table (s1.issuer h)).hold
          waits := (s1.seqOf h.table (s1.issuer h)).waits ++ [⟨p.2.1, s1.cyc h.table + 2, false⟩] } ∧
        { t.table h.table with seq := (s1.table h.table).seq, busyUntil := (s1.table h.table).busyUntil } = s1.table h.table ∧
        (∀ k, { t.core k with taper := (s1.core k).taper } = s1.core k)) ∧
  (∀ (s s1 : State) (h : Hdr) (dst : BitVec 2) (ctr amt : BitVec 8) (chn : BitVec 6), s.Canonical → s.issue h slotY = .go s1 →
    (Instr.sig h dst ctr amt chn).wf = true →
    (dst = 0 → ∃ t, exec (.sig h dst ctr amt chn) s = .next t ∧ s1.Owes t h.table [(1, .counterAdd ctr.toNat amt.toNat)]) ∧
    (dst = 2 → ∃ t, exec (.sig h dst ctr amt chn) s = .next t ∧ s1.Owes t h.table [(1, .hostAdd ctr.toNat amt.toNat)]) ∧
    (dst = 1 → s1.sendGone h.table chn.toNat = false → exec (.sig h dst ctr amt chn) s =
      .next ((s1.tryOpen h.table chn.toNat).modTable h.table (fun b => { b with sends := b.sends ++
        [{ chn := chn.toNat, seq := (s1.snd h.table chn.toNat).seq.toNat, hidx := 0, started := true, parts := [],
           signal := some (signalTag (s1.dptOf (s1.snd h.table chn.toNat)) (s1.snd h.table chn.toNat).rchn
             (s1.snd h.table chn.toNat).seq.toNat ctr.toNat amt.toNat), ready := s1.cyc h.table + 2, pc := h.pc }] }))) ∧
    (dst = 1 → s1.sendGone h.table chn.toNat = true → exec (.sig h dst ctr amt chn) s =
      .next (s1.absentUnit h.table slotY 7 1 (s1.snd h.table chn.toNat).dlt h.pc)))

/-- TRICK (R131, R252) of a task without dynamic channels: it is recorded and counted. At the point that a pause has armed a quiet table
stops, so that at its resume the next word issues at the next count, and its DMA channels are told to; one that is not quiet raises PAUSE_FAILED (0x1042) and the pause fails. -/
def Obligations.TricksCount : Prop :=
  ∀ (s s1 s2 : State) (h : Hdr) (id : BitVec 12) (repart armed : Bool), s.Canonical → s.issue h slotY = .go s1 →
    (∀ kv ∈ (s1.table h.table).snd, kv.2.dyn = false) →
    s2 = s1.modTable h.table (fun b => { b with
      trick := BitVec.ofNat 13 (id.toNat + if repart then 4096 else 0), trickN := satIncr b.trickN }) →
    armed = ((s1.table h.table).pause.getLsbD 12 && decide ((s1.table h.table).pause.truncate 12 = id) &&
      decide (satIncr (s1.table h.table).trickN = (s1.table h.table).pauseN)) →
    (armed = false → exec (.trick h id repart) s = .next s2) ∧
    (armed = true → s1.quiet h.table = true → ∃ t, exec (.trick h id repart) s = .next t ∧
      { t with tables := s2.tables, dma := s2.dma } = s2 ∧ (∀ m, m ≠ h.table → t.table m = s2.table m) ∧
      t.table h.table = { s2.table h.table with
        run := 2, pause := (s2.table h.table).pause &&& 0xFFF, tcc := (s2.table h.table).tcc + 1
        phase := est16 (s2.cycleEnd h.table) % 3120
        seq := ({ (s2.table h.table).seq with hold := 0, slots := 0 } : Seq).turn } ∧
      ∀ k, t.dmaCh k = if (s2.dmaCh k).job.isSome ∧ (s2.dmaCh k).job = (s2.table h.table).job ∧ (s2.dmaCh k).home = (s2.table h.table).jobTable
        then (s2.dmaCh k).stop else s2.dmaCh k) ∧
    (∀ j, armed = true → s1.quiet h.table = false → (s1.table h.table).job = some j →
      exec (.trick h id repart) s = .next ((s2.raiseTable h.table 0x1042 clsNote
        (id.toNat + 2 ^ 12 * (satIncr (s1.table h.table).trickN).toNat)).pauseFails j))

/-! ### Dealer and task events -/

/-- A late wait of a running dealer is met in the cycle in which its condition holds (R129, R164, R196, R219, R220, R234), and issue goes on:
a counter is reduced, queue entries are taken, a completion is consumed, a message starts, a handler window opens in the next cycle.
`pre` and `post` are the other waits, none of them late.
A timed wait that is unmet at its expiry raises SYN_TIMEOUT (0x1102) and aborts the job (R167), whatever comes later; a SEND that lacks
credit for CHN_STALLTO cycles raises CHN_STALL (0x2301) and aborts it (R203). Before that, nothing happens. -/
def Obligations.WaitsResolve : Prop :=
  (∀ (s : State) (n : Nat) (pre post : List Wait) (w : Wait), s.Canonical → (s.table n).run = 1 → (s.table n).taper = false →
    s.stopped n = false → (s.table n).seq.waits = pre ++ w :: post → w.late = true → (∀ v ∈ pre ++ post, v.late = false) →
    (∀ c a k, w.what = .counter c a k → (k = 0 ∨ s.cyc n ≤ w.resolve + (SMap.get 0 (s.table n).tout k).toNat) → a ≤ s.counter n c →
      exec (.waitMet n) s = .next (s.modTable n (fun b => { b with
      ctr := SMap.set 0 b.ctr c (BitVec.ofNat 24 (s.counter n c - a)), seq := { b.seq with waits := pre ++ post } }))) ∧
    (∀ c a k j, w.what = .host c a k → (k = 0 ∨ s.cyc n ≤ w.resolve + (SMap.get 0 (s.table n).tout k).toNat) →
      (s.table n).job = some j → a ≤ s.hostVisible n j c → exec (.waitMet n) s = .next
      ((s.setHostCounter j c (s.hostCounter j c - a)).modTable n (fun b => { b with seq := { b.seq with waits := pre ++ post } }))) ∧
    (∀ q e space, w.what = .queue q e space → (∀ x ∈ s.tableCores n, s.entryReady n x.2 q = false) →
      (∀ x ∈ s.tableCores n, e ≤ if space then (s.qst x.2 q).free else (s.qst x.2 q).full) → exec (.qwaitMet n) s = .next
      (((s.tableCores n).foldl (fun acc x => if space then acc.qmove x.2 q (-e) 0 0 e e 0 else acc.qmove x.2 q 0 0 (-e) e 0 0) s).modTable n
        (fun b => { b with seq := { b.seq with waits := pre ++ post } }))) ∧
    (∀ ch k, w.what = .dma ch → s.taskChannel n ch = some k → (s.dmaCh k).cmpTask ≠ 0 → exec (.dwaitMet n) s = .next
      ((s.modDma k (fun d => { d with cmpTask := d.cmpTask - 1 })).modTable n
        (fun b => { b with seq := { b.seq with waits := pre ++ post } }))) ∧
    (∀ chn hidx seq f parts s', w.what = .credit chn hidx seq f parts → s.cyc n ≤ w.resolve + (s.csrAt (chnReg n 0x900)).toNat →
      (s.tryOpen n chn).creditMet n chn seq f parts = some s' →
      exec (.sendCreditMet n) s = .next (s'.modTable n (fun b => { b with seq := { b.seq with waits := pre ++ post } }))) ∧
    (∀ chn m wlen idle, w.what = .window chn m wlen idle → m ≤ (s.rcv n chn).present → exec (.hwinOpen n) s = .next
      (s.modTable n (fun b => { b with seq := { b.seq with
        waits := pre ++ post, loopDue := none
        window := some { chn := chn, left := m, running := false, openCyc := s.cyc n + 1, endCyc := s.cyc n + 1 + wlen,
                         retPc := b.seq.nextPc, idle := idle, due := b.seq.loopDue } } })))) ∧
  (∀ (s : State) (n : Nat) (w : Wait), s.Canonical → (s.table n).run = 1 → (s.table n).taper = false → s.stopped n = false →
    (s.table n).seq.waits = [w] → w.late = true →
    (∀ c a k lim, w.what = .counter c a k → 0 < k → lim = w.resolve + (SMap.get 0 (s.table n).tout k).toNat →
      ((lim < s.cyc n ∨ (lim = s.cyc n ∧ s.counter n c < a)) →
        exec (.synTimeout n) s = .next ((s.synFault n c false 2).faultTable n 0x1102 (c + 2 ^ 9 * k))) ∧
      ((s.cyc n < lim ∨ (s.cyc n = lim ∧ a ≤ s.counter n c)) → exec (.synTimeout n) s = .next s) ∧
      (lim < s.cyc n → exec (.waitMet n) s = .next s)) ∧
    (∀ c a k j lim, w.what = .host c a k → 0 < k → (s.table n).job = some j → lim = w.resolve + (SMap.get 0 (s.table n).tout k).toNat →
      ((lim < s.cyc n ∨ (lim = s.cyc n ∧ s.hostVisible n j c < a)) →
        exec (.synTimeout n) s = .next ((s.synFault n c true 2).faultTable n 0x1102 (c + 2 ^ 8 + 2 ^ 9 * k))) ∧
      ((s.cyc n < lim ∨ (s.cyc n = lim ∧ a ≤ s.hostVisible n j c)) → exec (.synTimeout n) s = .next s)) ∧
    (∀ chn hidx seq f parts lim, w.what = .credit chn hidx seq f parts → lim = w.resolve + (s.csrAt (chnReg n 0x900)).toNat →
      ((lim < s.cyc n ∨ (lim = s.cyc n ∧ (s.tryOpen n chn).creditMet n chn seq f parts = none)) → exec (.chnStall n) s = .next
        ((s.recordFault (chnReg n 0x904) (BitVec.ofNat 32 (chn + 2 ^ 6))).faultTable n 0x2301 (chn + 2 ^ 6 * seq))) ∧
      (s.cyc n < lim → exec (.chnStall n) s = .next s)))

/-- TASK_RELEASE and TASK_RESUME (R27, R249, R253): at its tick the task's dealer runs, its channels open, and its DMA channels await
their starts; nothing happens before.
TASK_END (R132, R275) of a task over in a job that is not pausing and whose channels are not declared: the table has ended, and its counts
go to the job's completion record. A task that is not over goes on. -/
def Obligations.TasksBeginAndEnd : Prop :=
  (∀ (s : State) (n j r : Nat) (b : Job), s.Canonical → (s.table n).release = some r → (s.table n).job = some j → s.job j = some b →
    s.stopped n = false →
    ((s.table n).run = 0 → r ≤ s.beacon → ∃ t, exec (.taskRelease n) s = .next t ∧
      { t with tables := s.tables, dma := s.dma, jobs := s.jobs } = s ∧ (t.table n).run = 1 ∧ (t.table n).release = none ∧
      (t.table n).started = true ∧ (t.table n).seq = (s.table n).seq ∧ (∀ x ∈ b.opens, (t.snd x.1 x.2).isOpen = true) ∧
      t.job j = some { b with opens := [], state := if b.state = .admitted then .running else b.state } ∧
      ∀ k, (s.dmaCh k).job = some j → (s.dmaCh k).home = (s.table n).jobTable → (t.dmaCh k).ctl.getLsbD 10 = true ∧
        (t.dmaCh k).ctl.getLsbD 11 = false) ∧
    ((s.table n).run = 2 → 16 * r + (s.table n).phase ≤ est16 s.now11 → ∃ t, exec (.taskResume n) s = .next t ∧
      { t with tables := s.tables, dma := s.dma, jobs := s.jobs, cores := s.cores } = s ∧ (t.table n).run = 1 ∧
      (t.table n).release = none ∧ (t.table n).tcc = (s.table n).tcc ∧
      ((s.table n).taper = false → (t.table n).seq = (s.table n).seq.enter false)) ∧
    ((s.table n).run = 0 → s.beacon < r → exec (.taskRelease n) s = .next s) ∧
    ((s.table n).run = 2 → est16 s.now11 < 16 * r + (s.table n).phase → exec (.taskResume n) s = .next s)) ∧
  (∀ (s : State) (n j : Nat) (b : Job), s.Canonical → (s.table n).run = 1 → s.stopped n = false → (s.table n).job = some j →
    s.job j = some b → b.state ≠ .pausing → b.undelivered = 0 → (∀ u, ∀ kv ∈ (s.table u).rcv, kv.2.rsize = 0) →
    (s.taskOver n (s.cyc n) = false → exec (.taskEnd n) s = .next s) ∧
    (s.taskOver n (s.cyc n) = true → exec (.taskEnd n) s = .next
      ((s.modTable n (fun x => { x with run := 3, hostHeld := 0 })).modJob j (fun x => { x with
        tasks := SMap.set ⟨0, 0, 0⟩ x.tasks (s.table n).jobTable ⟨(s.table n).tcc, (s.table n).late, (s.table n).lateCc⟩
        summary := x.summary ||| s.summary n, hostTicks := x.hostTicks + (s.table n).hostHeld }))))

/-- TAPER_LINE_FILL (R136): the line that the core waits for comes from the code in HBM (the place of that copy is the model's choice,
assumption 53) into its instruction cache of 4 ways, which never holds more than 4 lines of a set. -/
def Obligations.CacheLinesFill : Prop :=
  ∀ (s : State) (n c p l j : Nat) (b : Job), s.Canonical → s.physCore n c = some p → (s.core (34 * n + p)).missLine = some l →
    (s.table n).job = some j → s.job j = some b →
    ∃ x, exec (.taperLineFill n c) s = .next (s.modCore (34 * n + p) (fun _ => x)) ∧ x.missLine = none ∧
      { x with missLine := some l, cache := (s.core (34 * n + p)).cache, taper := (s.core (34 * n + p)).taper } = s.core (34 * n + p) ∧
      x.taper = { (s.core (34 * n + p)).taper with slots := 0x3F } ∧
      (∃ y ∈ x.cache, y.line = l ∧ y.code.length = 64 ∧ ∀ i, i < 64 → ∀ h : i < y.code.length, y.code[i] =
        SMap.get 0 s.mem.hbm (b.ctxBase + 0x40000 * (s.table n).jobTable + 128 * l + 2 * i + 1) ++
          SMap.get 0 s.mem.hbm (b.ctxBase + 0x40000 * (s.table n).jobTable + 128 * l + 2 * i)) ∧
      (((s.core (34 * n + p)).cache.map (·.age)).Nodup →
        (∀ m, ((s.core (34 * n + p)).cache.filter (fun y => y.line % 128 == m)).length ≤ 4) →
          ∀ m, (x.cache.filter (fun y => y.line % 128 == m)).length ≤ 4)

/-- SIGNAL_APPLY and SYN_RESIDUE (R169, R175): the oldest signal of a channel is applied once every earlier message has been received (or
discarded, where it came from another device to a task that has ended); once a job's tasks have ended and none of its signals is on its
way, its counters that do not stand at their initial values are reported, and its channels take no more.
A signal to a table counter adds its amount; one that would pass 2^24 - 1 leaves the counter there, raises SYN_OVF (0x1101) and aborts
the job (R161, R163). -/
def Obligations.CountersAndResidue : Prop :=
  (∀ (s : State) (n m : Nat) (tag : BitVec 64) (rest : List (BitVec 64)), s.Canonical →
    ((s.rcv n m).signals = tag :: rest → s.stopped n = false →
      ((((s.rcv n m).seq - tag.extractLsb' 14 21).toNat < 2 ^ 20 ∨ ((s.rcv n m).xdev = true ∧ (s.table n).run = 3)) → exec (.signalApply n m) s = .next
        ((s.modRcv n m (fun c => { c with signals := rest })).addCounter n (tag.extractLsb' 35 8).toNat (tag.extractLsb' 43 8).toNat)) ∧
      (2 ^ 20 ≤ ((s.rcv n m).seq - tag.extractLsb' 14 21).toNat → ((s.rcv n m).xdev = false ∨ (s.table n).run ≠ 3) → exec (.signalApply n m) s = .next s)) ∧
    (∀ (j : Nat) (b : Job) (all : List (BitVec 64)), s.job j = some b → (b.state = .running ∨ b.state = .pausing) → b.trapped = false →
      b.residueTaken = false → (∀ u ∈ b.tables, (s.table u).run = 3) → s.signalInFlight j b = false →
      all = b.tables.flatMap s.tableResidue ++ s.hostResidue j b →
      ∃ t, exec (.synResidue j) s = .next t ∧ { t with csr := s.csr, jobs := s.jobs, log := s.log, tables := s.tables } = s ∧
        (∀ u, { t.table u with snd := (s.table u).snd } = s.table u ∧
          ∀ i, t.snd u i = if u ∈ b.tables then { s.snd u i with cfg := (s.snd u i).cfg &&& 0xFEFFFFFF } else s.snd u i) ∧
        t.job j = some { b with residue := all.take 16, rcount := all.length, residueTaken := true } ∧
        (∀ u ∈ b.tables, t.csrAt (synReg u 0x844) = BitVec.ofNat 32 (s.tableResidue u).length) ∧
        (all = [] → t.log = s.log) ∧
        (all ≠ [] → t.log = s.log.raise s.now11 (s.evRecord ⟨0x1103, clsContained, some j, none, none, all.length⟩)))) ∧
  (∀ (s : State) (n c a : Nat), s.Canonical →
    (s.counter n c + a ≤ 0xFFFFFF → s.addCounter n c a = s.modTable n (fun b => { b with
      ctr := SMap.set 0 b.ctr c (BitVec.ofNat 24 (s.counter n c + a)) }) ∧
      ∀ i, (s.addCounter n c a).counter n i = if i = c then s.counter n c + a else s.counter n i) ∧
    (0xFFFFFF < s.counter n c + a → (s.csrAt (synReg n 0x840)).getLsbD 31 = false → c < 256 →
      s.addCounter n c a = ((((s.modTable n (fun b => { b with ctr := SMap.set 0 b.ctr c 0xFFFFFF })).setCsr (synReg n 0x840)
        (BitVec.ofNat 32 (c + 2 ^ 9 + 2 ^ 31))).mark (synReg n 0x840) 0x80000000).faultTable n 0x1101 c)))

/-! ### The network (R183 to R191, R199 to R207) -/

/-- FLIT_DEPART and FLIT_ARRIVE (R183, R187, R191): in a network cycle in which the output has not sent, the oldest flit of the queue that the slot's
entry names goes on the link to the neighbour, where it arrives after the hop's latency and joins the queue for its next output.
Beside the network only stop causes, their counts and the room of a send buffer can change.
What the L output hands to its table (R199, R206, R207): a signal waits at its receive channel, a credit flit sets what the sender knows, and
a part flit that is not its part's last stays in the crossing buffer. -/
def Obligations.FlitsMoveAndLand : Prop :=
  (∀ (s : State) (r o m i n : Nat) (q : Bool × Nat × Nat) (f : Flit), s.Canonical → r < 64 →
    (o < 4 → s.stopped (dieRegion r) = false → neighbour r o = some (m, i) → s.departure r o = some (n, q, f) →
      (s.outputFull r o (some f)).1 = false →
      ∃ t, exec (.flitDepart r o) s = .next t ∧
        { t with noc := s.noc, regions := s.regions, csr := s.csr, marks := s.marks, cores := s.cores } = s ∧
        t.noc = { (s.popFlit q).noc with
          sent := SMap.set 0 s.noc.sent (8 * r + o) (n + 1)
          links := SMap.modify [] s.noc.links (8 * m + i) (· ++ [{ f with
            slot := ((if q.1 then n % s.slots else f.slot) + hopLat r o) % s.slots, dueReg := dieRegion r, dueNet := n + hopLat r o }]) } ∧
        ∀ k, { t.core k with sendBuf := (s.core k).sendBuf } = s.core k) ∧
    (o < 6 → s.stopped (dieRegion r) = false → s.departure r o = none → exec (.flitDepart r o) s = .next s) ∧
    (∀ pre post, i < 5 → (isCrossing r i = true ∨ s.stopped (dieRegion r) = false) →
      SMap.get [] s.noc.links (8 * r + i) = pre ++ f :: post → f.dueNet ≤ s.net f.dueReg → (∀ g ∈ pre, s.net g.dueReg < g.dueNet) →
      ∃ t, exec (.flitArrive r i) s = .next t ∧ { t with noc := s.noc, regions := s.regions, csr := s.csr, marks := s.marks } = s ∧
        t.noc = { s.noc with
          links := SMap.set [] s.noc.links (8 * r + i) (pre ++ post)
          queues := SMap.modify [] s.noc.queues (queueKey r i (State.flitOut r f)) (· ++ [f]) })) ∧
  (∀ (s : State) (r n : Nat) (q : Bool × Nat × Nat) (f : Flit), s.Canonical → r < 64 → s.stopped (dieRegion r) = false →
    s.departure r portL = some (n, q, f) → (s.outputFull r portL (some f)).1 = false → s.outOfService r = false →
    s.hasCause r causeFault = false → f.gran = none →
    ∃ t, exec (.flitDepart r portL) s = .next t ∧
      t.noc = { (s.popFlit q).noc with sent := SMap.set 0 s.noc.sent (8 * r + portL) (n + 1) } ∧
      { t with noc := s.noc, regions := s.regions, csr := s.csr, marks := s.marks, cores := s.cores, tables := s.tables, mem := s.mem } = s ∧
      (∀ u, u ≠ r → t.table u = s.table u) ∧
      (f.kind = 1 → t.table r = { s.table r with
        rcv := SMap.modify RcvChan.reset (s.table r).rcv f.rchn (fun c => { c with signals := c.signals ++ [f.tag] }) }) ∧
      (f.kind = 2 → t.table r = { s.table r with
        snd := SMap.modify SndChan.reset (s.table r).snd f.rchn (fun c => c.credited s.fuses.cores (s.ringSize c) f) }) ∧
      ((f.kind = 0 ∨ f.kind = 3) → f.tag.extractLsb' 58 4 ≠ f.tag.extractLsb' 54 4 → t.mem = s.mem ∧
        t.table r = { s.table r with landing := (s.table r).landing ++ [f] }))

/-- PART_RETIRE, SPILL_MOVE and CREDIT_RETURN (R199, R200, R202, R206): a part whose record is wholly written is received; a spilled record moves from
the shelf into the ring once there is room and the core's shelf path is free; a credit flit that is due leaves in a slot of its flow. -/
def Obligations.PartsAndCredit : Prop :=
  ∀ (s : State) (n m c : Nat), s.Canonical → s.stopped n = false →
    (∀ p k r, (s.rcv n m).arriving.find? (fun p => field p.tag 40 35 == c) = some p → s.physCore n c = some k →
      (SMap.get [] (s.rcv n m).records c).find? (fun r => decide (r.tag = p.tag)) = some r →
      (s.core (34 * n + k)).written m (s.rcv n m).rbase r = true →
      exec (.partRetire n m c) s = .next (s.modRcv n m (fun x => { x with
        arriving := x.arriving.erase p
        retired := if x.retired.any (fun r => decide (r.1 = p.tag.extractLsb' 14 21)) then
          x.retired.map (fun r => if r.1 = p.tag.extractLsb' 14 21 then (r.1, r.2.1 - 1, s.cyc n) else r)
          else x.retired ++ [(p.tag.extractLsb' 14 21, field p.tag 53 48 - 1, s.cyc n)] }))) ∧
    (∀ p rest k, SMap.get [] (s.rcv n m).spilled c = p :: rest → field p.tag 40 35 = c → s.physCore n c = some k →
      (s.core (34 * n + k)).pathFree true = true → p.cells ≠ [] →
      (∀ i ∈ p.cells, ∀ o < 64, SMap.get none s.mem.shelfErr (((s.rcv n m).cellAddr n i + o) / 8) = none) →
      SMap.get 0 (s.rcv n m).writePos c + ringTake (s.rcv n m).rsize (SMap.get 0 (s.rcv n m).writePos c) p.cells.length -
        SMap.get 0 (s.rcv n m).readPos c ≤ (s.rcv n m).rsize →
      ∃ t, exec (.spillMove n m c) s = .next t ∧
        { t with tables := s.tables, cores := s.cores, host := s.host } = s ∧ SMap.get [] (t.rcv n m).spilled c = rest ∧
        (t.rcv n m).creditDue = true ∧ (t.rcv n m).arriving = (s.rcv n m).arriving ++ [⟨p.tag, (p.cells.map (fun i =>
          (List.range 64).map (fun o => SMap.get 0 s.mem.shelf ((s.rcv n m).cellAddr n i + o)))).drop 1⟩] ∧
        SMap.get 0 (t.rcv n m).writePos c = SMap.get 0 (s.rcv n m).writePos c +
          ringTake (s.rcv n m).rsize (SMap.get 0 (s.rcv n m).writePos c) p.cells.length ∧
        ((SMap.get [] (t.rcv n m).records c).getLast?.map (·.tag)) = some p.tag) ∧
    (∀ i j cyc, n < 64 → (s.rcv n m).creditDue = true → s.stopped (dieRegion n) = false →
      (s.openCycles n ((s.rcvEnd n m).next n)).find? (fun x => s.creditSlot n ((s.rcvEnd n m).next n) m (x % s.slots)) = some cyc →
      (s.rcvEnd n m).next n < 4 → neighbour n ((s.rcvEnd n m).next n) = some (i, j) →
      (s.outputFull n ((s.rcvEnd n m).next n) (some (s.creditFlit n m))).1 = false →
      ∃ t, exec (.creditReturn n m) s = .next t ∧
        { t with noc := s.noc, regions := s.regions, csr := s.csr, marks := s.marks, tables := s.tables } = s ∧
        t.noc = { s.noc with
          sent := SMap.set 0 s.noc.sent (8 * n + (s.rcvEnd n m).next n) (cyc + 1)
          links := SMap.modify [] s.noc.links (8 * i + j) (· ++ [{ s.creditFlit n m with
            slot := (cyc % s.slots + hopLat n ((s.rcvEnd n m).next n)) % s.slots, dueReg := dieRegion n
            dueNet := cyc + hopLat n ((s.rcvEnd n m).next n) }]) } ∧
        (t.rcv n m) = { s.rcv n m with creditDue := false })

/-! ### Memory and DMA -/

/-- SHAPER_FORWARD and GRANULE_RETIRE (R215, R221, R225, R236): the first granule that waits at a shaper with credit for it goes on; a granule from a tier
is read and its bytes go to the fill port of a scratchpad or to another tier, and an uncorrectable error delivers zeros, stays with its
granules and aborts the job.
DECOUPLED_FILL (R141, R146): the port serves at the end of the cycle; one waiting fill that it takes whole then has its bytes written,
and no other byte changes.
QUEUE_ENTRY_FULL and QUEUE_ENTRY_FREE (R219, R220): the oldest PEND entry of a tier queue, none of whose bytes is on its way, becomes FULL or FREE, and
the last entry of a QREQ signals the queue's counter in the next cycle (R171); while bytes are on their way nothing happens. -/
def Obligations.GranulesAndEntries : Prop :=
  ((∀ (s : State) (i a d k : Nat) (g : Granule), s.Canonical → s.mem.granules[i]? = some g →
    (∀ n tier, g.owner = .queue n k d a → g.tier = some tier → g.forwarded = false → (∀ e w o, g.src ≠ .host e w o) → s.stopped n = false →
      (∀ x < i, ∀ y, s.mem.granules[x]? = some y → shaperServes (.table n tier) y = false ∨ y.forwarded = true) →
      (1024 ≤ s.tableCredit n tier → ∃ t, exec (.shaperForward (.table n tier)) s = .next t ∧
        { t with mem := s.mem, tables := s.tables } = s ∧
        t.mem = { s.mem with granules := s.mem.granules.modify i (fun g => { g with forwarded := true }) } ∧
        t.tableCredit n tier = s.tableCredit n tier - 1024) ∧
      (s.tableCredit n tier < 1024 → exec (.shaperForward (.table n tier)) s = .next s)) ∧
    (g.forwarded = true → inOrder s.pinnedMode (s.mem.granules.take i) g = true → s.granuleFree g = true → ∀ data, g.src = .hbm a →
      s.mem.hbmGone a = false →
      (g.dst = .spd k d → (∀ o < g.len, s.mem.isBad .hbm ((a + o) / 32) = false) → exec (.granuleRetire i .clean data) s = .next
        (({ s with mem := { s.mem with granules := s.mem.granules.eraseIdx i } }).modCore k (fun c => { c with
          fills := c.fills ++ [(⟨g.owner.fill, d, SMap.bytes s.mem.hbm a g.len⟩ : Fill)] }))) ∧
      (g.dst = .ddr d → s.mem.ddrGone d = false →
        (∀ o < g.len, s.mem.isBad .hbm ((a + o) / 32) = false ∧ s.mem.isBad .ddr ((d + o) / 64) = false) → exec (.granuleRetire i .clean data) s = .next { s with
        mem := { s.mem with granules := s.mem.granules.eraseIdx i, ddr := SMap.store s.mem.ddr d (SMap.bytes s.mem.hbm a g.len) } }) ∧
      (∀ n q e, g.owner = .queue n k q e → g.dst = .spd k d → 0 < g.len → exec (.granuleRetire i .uncorrectable data) s = .next
        ((({ s with mem := ({ s.mem with granules := s.mem.granules.eraseIdx i } : MemSys).markBad .hbm (unitsOf 32 a g.len) true }).memUe g
          (a / 32 * 32)).modCore k (fun c => { c with
          fills := c.fills ++ [(⟨.queue q e, d, List.replicate g.len 0⟩ : Fill)] }))))) ∧
  (∀ (s : State) (n c p : Nat) (f : Fill), s.Canonical → s.physCore n c = some p → (c, 34 * n + p) ∈ s.tableCores n → s.stopped n = false →
    (∀ x ∈ s.tableCores n, x.2 ≠ 34 * n + p → (s.core x.2).fillReq = false) →
    (s.core (34 * n + p)).fills = [f] → 0 < f.data.length → f.data.length ≤ s.fillRoom n (34 * n + p) → f.addr < 0x80000 →
    f.addr % 0x8000 + f.data.length ≤ 0x8000 →
    (s.busyBanks n (34 * n + p)).getLsbD (bankOf f.addr) = false →
    (∀ w, SMap.get none (s.core (34 * n + p)).spdErr w = none) →
    (s.core (34 * n + p)).fillReq = false →
    ∃ u t, exec (.decoupledFill n c) s = .next u ∧ u = s.modCore (34 * n + p) (fun x => { x with fillReq := true }) ∧ t = u.serveTable n ∧
      { t with cores := s.cores } = s ∧ (∀ k, k ≠ 34 * n + p → t.core k = s.core k) ∧
      { t.core (34 * n + p) with fills := [f], spd := (s.core (34 * n + p)).spd } = s.core (34 * n + p) ∧ (t.core (34 * n + p)).fills = [] ∧
      ∀ a, SMap.get 0 (t.core (34 * n + p)).spd a =
        if f.addr ≤ a ∧ a < f.addr + f.data.length then f.data.getD (a - f.addr) 0 else SMap.get 0 (s.core (34 * n + p)).spd a)) ∧
  (∀ (s : State) (n c p q k : Nat), s.Canonical → s.physCore n c = some p → k = 34 * n + p → s.stopped n = false →
    (s.qcfg k q).tier.isSome = true → 0 < (s.qst k q).pend →
    ((s.qcfg k q).out = false → s.entryBusy n k q (s.oldestPend k q) = false →
      exec (.queueEntryFull n c q) s = .next (s.qmove k q 0 (-1) 1 0 0 0)) ∧
    ((s.qcfg k q).out = false → s.entryBusy n k q (s.oldestPend k q) = true → exec (.queueEntryFull n c q) s = .next s) ∧
    ((s.qcfg k q).out = true → s.entryBusy n k q (s.oldestPend k q) = false → ∀ m rest, (s.core k).reqs = (q, m) :: rest →
      (2 ≤ m → exec (.queueEntryFree n c q) s = .next ((s.qmove k q 1 (-1) 0 0 0 0).modCore k (fun x => { x with reqs := (q, m - 1) :: rest }))) ∧
      (m = 1 → ∀ i, (s.qcfg k q).ctr = some i → ∃ t, exec (.queueEntryFree n c q) s = .next t ∧
        t.owed n = s.owed n ++ [(s.cyc n + 1, .counterAdd i 1)] ∧ (∀ x, x ≠ n → t.table x = s.table x) ∧
        { t.table n with pend := (s.table n).pend } = s.table n ∧
        { t with tables := s.tables } = (s.qmove k q 1 (-1) 0 0 0 0).modCore k (fun x => { x with reqs := rest }))))

/-- REFRESH, HBM_SPARE, HBM_LOST and DDR_LOST (R26, R212, R226, R227, R372): refresh changes no byte and no register,
and in pinned mode comes only in its ticks; a copied channel switches to its spare; a lost
HBM channel loses its bytes and returns on a spare or not at all; a lost DDR5 channel leaves holes. Here no job holds a granule of
the lost channel. -/
def Obligations.ChannelsFail : Prop :=
  ∀ (s : State) (tier : Tier) (ctl st ch n : Nat), s.Canonical → st < 16 → ch < 32 → (∀ j, s.job j = none) →
    n = field (s.csrAt (stkStat st)) 1 0 →
    (∀ o, o = (match tier with | .hbm => s.recs.hbmOfs | .ddr => s.recs.ddrOfs).getD ctl 0 →
      (ctl < 16 → (s.pinnedMode = false ∨ (o ≤ s.beacon ∧ (s.beacon - o) % 195 = 0)) → exec (.refresh tier ctl) s = .next { s with
        mem := { s.mem with refreshed := SMap.set 0 s.mem.refreshed (16 * (match tier with | .hbm => 0 | .ddr => 1) + ctl) (s.beacon + 1) } }) ∧
      (s.pinnedMode = true → (s.beacon < o ∨ (s.beacon - o) % 195 ≠ 0) → exec (.refresh tier ctl) s = .next s)) ∧
    (s.mem.copying.contains (st, ch) = true → n < 2 → s.mem.copyDue.any (fun c => c.1 == st) = false → exec (.hbmSpare st ch) s = .next
      ((({ s with mem := { s.mem with copying := s.mem.copying.erase (st, ch), spares := SMap.set 0 s.mem.spares (32 * st + ch) (n + 1) } }).setCsr
        (stkStat st) ((s.csrAt (stkStat st) &&& 0xFFFFFFFB) + 1)).raise ⟨0x2408, clsCorrected, none, some (72 + st / 2), none, st + 2 ^ 4 * ch + 2 ^ 9 * n⟩)) ∧
    (s.mem.lost.contains (st, ch) = false → s.mem.copying.any (fun c => c.1 == st) = false →
      ∃ t, exec (.hbmLost st ch) s = .next t ∧ { t with mem := s.mem, csr := s.csr, log := s.log } = s ∧
        (∀ a, SMap.get 0 t.mem.hbm a = if hbmMap a = (st, ch) then 0 else SMap.get 0 s.mem.hbm a) ∧
        (n < 2 → t.mem.lost = s.mem.lost ∧ SMap.get 0 t.mem.spares (32 * st + ch) = n + 1) ∧
        (2 ≤ n → t.mem.lost = s.mem.lost ++ [(st, ch)] ∧ (t.csrAt (stkStat st)).getLsbD 3 = true)) ∧
    (s.mem.population.contains ch = true → s.mem.holes.contains ch = false → exec (.ddrLost ch) s = .next
      (({ s with mem := { s.mem with holes := s.mem.holes ++ [ch] } }).raise ⟨0x2409, clsDevice, none, some (if ch < 8 then 80 else 81), none, ch⟩))

/-- DMA_TIMER, DMA_REPETITION_START, DMA_REPETITION_COMPLETE and STOP (R232 to R235): a timer fires in the ticks of its period and phase; a repetition whose
start event has come moves its rows; its completion is counted and the next one awaits its start; STOP takes effect at a
boundary, before a start of its own cycle. -/
def Obligations.DmaRuns : Prop :=
  ∀ (s : State) (blk ch j : Nat) (c : DmaChan) (d : Desc), s.Canonical → blk < 10 → ch < (if blk < 8 then 128 else 16) →
    c = s.dmaCh (dmaKey blk ch) → d = s.headDesc blk ch → c.job = some j →
    (∀ tmr period phase, tmr < 32 → SMap.get (0, 0) s.recs.timers (32 * blk + tmr) = (period, phase) → 0 < period → phase ≤ s.beacon →
      (s.beacon - phase) % period = 0 → SMap.get 0 s.mem.fired (32 * blk + tmr) ≠ s.beacon + 1 → s.stopped (dmaRegion blk) = false →
      c.state = 1 → c.ctl.getLsbD 10 = true → d.start = 1 → d.ev = tmr → (∀ i, i ≠ dmaKey blk ch → (s.dmaCh i).job = none) →
      exec (.dmaTimer blk tmr) s = .next (({ s with mem := { s.mem with
          fired := SMap.set 0 s.mem.fired (32 * blk + tmr) (s.beacon + 1)
          firedNet := SMap.set 0 s.mem.firedNet (32 * blk + tmr) (s.net (dmaRegion blk) + 1) } }).modDma (dmaKey blk ch) (fun c => if s.queueReady j d then { c with evSeen := true }
          else { c with miss := if c.miss = 0xFF then c.miss else c.miss + 1 }))) ∧
    (∀ rows, c.state = 1 → c.ctl.getLsbD 10 = true → c.ctl.getLsbD 11 = false → s.stopped (dmaRegion blk) = false → s.queueReady j d = true →
      d.start = 0 → 0 < d.len → d.dsp ≠ 6 → d.isMsg = false → s.repRows j c.home d c = some rows →
      exec (.dmaRepetitionStart blk ch) s = .next { s.modDma (dmaKey blk ch) (fun c => { c with
          state := 2, evSeen := false, startNet := s.net (dmaRegion blk) + 1 }) with
        mem := { s.mem with granules := s.mem.granules ++ rows.flatMap (fun x =>
          rowGranules (.dma blk ch) none d.len x.1 x.2 (if d.ssp = 0 then some c.sAddr.toNat else none)) } }) ∧
    (c.state = 2 → s.repBusy blk ch = false → s.stopped (dmaRegion blk) = false →
      (d.start ≠ 1 ∨ SMap.get 0 s.mem.firedNet (32 * blk + d.ev) ≠ s.net (dmaRegion blk) + 1) → d.dsp ≠ 6 → d.ssp ≠ 6 → d.sig = false → c.cmpTask.toNat < 0xFFFF → c.cmpChan.toNat < 0xFFFF →
      c.repN.toNat + 1 < d.rep →
      exec (.dmaRepetitionComplete blk ch) s = .next (s.modDma (dmaKey blk ch) (fun c => { c with
        cmpTask := c.cmpTask + 1, cmpChan := c.cmpChan + 1, repN := c.repN + 1, evSeen := false
        sAddr := BitVec.ofNat 64 (wrapN 64 (c.sAddr.toNat + d.srstr)), dAddr := BitVec.ofNat 64 (wrapN 64 (c.dAddr.toNat + d.drstr))
        state := if c.ctl.getLsbD 11 then 3 else 1 }))) ∧
    (c.state = 2 → s.repBusy blk ch = true → exec (.dmaRepetitionComplete blk ch) s = .next s) ∧
    (c.state ≠ 2 ∨ c.startNet ≠ s.net (dmaRegion blk) + 1 → exec (.stop blk ch) s = .next (s.modDma (dmaKey blk ch) (fun c => { c with
      ctl := c.ctl ||| 0x800, state := if c.state = 2 then 2 else 3 }))) ∧
    (c.state = 2 → c.startNet = s.net (dmaRegion blk) + 1 → ∃ t, exec (.stop blk ch) s = .next t ∧ (t.dmaCh (dmaKey blk ch)).state = 3 ∧
      (t.dmaCh (dmaKey blk ch)).ctl = c.ctl ||| 0x800 ∧ ∀ g ∈ t.mem.granules, g.owner ≠ .dma blk ch)


/-! ### Frames of the host -/

/-- The host port takes frame `f` of TYPE `typ` at once (R264, R270, R271, R273, R279, R356): there is link, its queue pair is ready, no frame
there waits and every earlier one has had its reply, no arbitration hold is on, the header is as it should be for a row that fixes `lead` bytes of
the body, and the TYPE is one that the queue pair carries. -/
structure Sys2Proof.FrameTaken (s : State) (typ : BitVec 8) (lead : Nat) (f : HostFrame) : Prop where
  link   : s.host.link = true
  ready  : (s.qp f.qpn.toNat).state = 1
  calm   : s.mgt.hold = false
  first  : (s.qp f.qpn.toNat).order = []
  unheld : s.qpBlocked f.qpn.toNat = false
  header : f.len.toNat = 16 + lead + f.body.length ∧ f.ver = 1 ∧ f.status = 0 ∧ f.rsv = 0
  fits   : 16 + lead + f.body.length ≤ if f.qpn = 0x10 then 4096 else 16384
  path   : (f.qpn = 0x10 ∧ typ.toNat ∈ [1, 2, 3, 4, 5, 6, 9, 10]) ∨ (f.qpn.toNat = 256 + f.job.toNat ∧ 3 ≤ typ.toNat ∧ typ.toNat ≤ 8)

/-- The device with its reply to frame `f` sent: the TYPE with bit 7 set, the frame's TAG and JOB, a status and a body. -/
def Sys2Proof.replied (s : State) (typ : BitVec 8) (f : HostFrame) (status : BitVec 16) (body : List Byte) : State :=
  { s with host := { s.host with tx := s.host.tx ++ [.frame f.qpn (typ ||| 0x80) f.tag f.job status body] } }

/-- The state that a QUERY reports (R273): 0 admitted, 1 running, 2 paused, 3 ended. -/
def Sys2Proof.queryState (b : Job) : Nat :=
  match b.state with
  | .loading | .admitted => 0
  | .running | .pausing | .aborting => 1
  | .paused => 2
  | .ended => 3

/-- The checks of a frame (R264, R270, R271, R279, R280, R356) and the QUERY frames (R273): no frame comes without link; on a closed queue pair its
packets are dropped and counted; in an arbitration hold, and behind a frame that waits, it is kept while a receive buffer is free and
answered with RNR NAK otherwise; a malformed one, one of an unknown TYPE, and one on the wrong queue pair are refused with 0x0053, 0x0054
and 0x0055. A device QUERY tells the part, the tables and the beacon; a job QUERY tells the state of the job. -/
def Obligations.FramesAreChecked : Prop :=
  ∀ (s : State) (typ : BitVec 8) (f : HostFrame), s.Canonical →
    (s.host.link = false → exec (.queryDevice f) s = .next s ∧ exec (.unknownType typ f) s = .next s) ∧
    (s.host.link = true → (s.qp f.qpn.toNat).state = 0 →
      ∃ t, exec (.queryDevice f) s = .next t ∧ { t with host := s.host, marks := s.marks } = s ∧
        t.host = { s.host with drop := satAdd s.host.drop (Nat.max 1 (ceilDiv (17 + f.body.length) 4096)) }) ∧
    (s.host.link = true → (s.qp f.qpn.toNat).state = 1 → (s.mgt.hold = true ∨ s.qpBlocked f.qpn.toNat = true) →
      exec (.queryJob f) s = .next { s with host := if s.heldCount f.qpn.toNat < (if f.qpn = 0x10 then 16 else 4)
        then { s.host with heldFrames := s.host.heldFrames ++ [(s.beacon, .queryJob f)] }
        else { s.host with tx := s.host.tx ++ [.rnrNak f.qpn] } }) ∧
    (s.host.link = true → (s.qp f.qpn.toNat).state = 1 → s.mgt.hold = false → s.qpBlocked f.qpn.toNat = false →
      (s.qp f.qpn.toNat).order = [] →
      (typ = 2 ∨ typ = 7 → f.ver = 1 → f.status = 0 → f.rsv = 0 → f.len.toNat = 16 + f.body.length →
        16 + f.body.length ≤ (if f.qpn = 0x10 then 4096 else 16384) → (if typ = 2 then f.qpn = 0x10 else f.qpn.toNat = 256 + f.job.toNat) →
        (f.body = [] ∨ ∃ b rest, f.body = b :: rest ∧ 2 ≤ b.toNat) → exec (.unknownType typ f) s = .next (replied s typ f 0x0053 [])) ∧
      (f.ver ≠ 1 ∨ f.len.toNat ≠ 17 + f.body.length → exec (.queryDevice f) s = .next (replied s 2 f 0x0053 [])) ∧
      (f.ver = 1 → f.status = 0 → f.rsv = 0 → f.len.toNat = 16 + f.body.length →
        16 + f.body.length ≤ (if f.qpn = 0x10 then 4096 else 16384) → (typ.toNat = 0 ∨ 10 < typ.toNat) →
        exec (.unknownType typ f) s = .next (replied s typ f 0x0054 [])) ∧
      (f.ver = 1 → f.status = 0 → f.rsv = 0 → f.len.toNat = 17 + f.body.length → 17 + f.body.length ≤ 16384 → f.qpn ≠ 0x10 →
        exec (.queryDevice f) s = .next (replied s 2 f 0x0055 []))) ∧
    (FrameTaken s 2 1 f → f.body = List.replicate 15 0 → f.job = 0xFF →
      exec (.queryDevice f) s = .next (replied s 2 f 0 (wordLe s.partId ++
        natLe 1 ((List.range 64).filter (fun n => field (s.tblStat n) 1 0 == 0)).length ++
        natLe 1 ((List.range 64).filter (fun n => field (s.tblStat n) 1 0 == 0 && (s.table (s.physTable n)).job.isNone)).length ++
        natLe 8 s.beacon ++ natLe 1 (b2n s.host.mode)))) ∧
    (∀ b, FrameTaken s 2 1 f → f.body = List.replicate 15 0 → f.job.toNat < 64 → s.job f.job.toNat = some b →
      exec (.queryJob f) s = .next (if b.state = .loading ∨ b.state = .aborting then replied s 2 f 0x0056 []
        else replied s 2 f 0 (natLe 1 (queryState b) ++ natLe 8 s.beacon ++ b.record)))

/-- PAUSE, RESUME, DETACH and ABORT of a job that can take them (R251 to R253, R259, R273), and JOB_PAUSED. A PAUSE arms every dealer of the job with
the trick and its occurrence; a RESUME names the first multiple of 195 ticks at least 200 ticks away; an ABORT stops every dealer; each
waits for its reply. Once all has paused, the context stands in the job's context area. -/
def Obligations.JobsPauseAndEnd : Prop :=
  ∀ (s : State) (f : HostFrame) (j : Nat) (b : Job), s.Canonical → j = f.job.toNat → j < 64 → s.job j = some b →
    (FrameTaken s 3 0 f → f.body.length = 144 → rdLe f.body 0 2 ≤ 0xFFF → (f.body.drop 8).take 133 = List.replicate 133 0 → b.taper = false →
      (b.state = .running ∨ b.state = .admitted) → (∀ u ∈ b.tables, (s.table u).run ≠ 3) →
      ∃ t, exec (.pause f) s = .next t ∧ { t with tables := s.tables, jobs := s.jobs, host := s.host } = s ∧
        { t.host with qps := s.host.qps } = s.host ∧ (t.qp f.qpn.toNat).order = [⟨0x83, f.tag, false, none⟩] ∧
        t.job j = some { b with state := .pausing, pauseTrick := rdLe f.body 0 2, pauseFrom := s.beacon, recipient := List.replicate 133 0
                                waiters := b.waiters ++ [⟨3, f.qpn, f.tag⟩] } ∧
        ∀ u, t.table u = if u ∈ b.tables then { s.table u with
          pause := BitVec.ofNat 13 (rdLe f.body 0 2 + 0x1000), pauseN := BitVec.ofNat 32 (rdLe f.body 4 4) } else s.table u) ∧
    (b.state = .pausing → s.allPaused j b = false → exec (.jobPaused j) s = .next s) ∧
    (∀ img, b.state = .pausing → s.allPaused j b = true → b.varDecl = some img →
      (∀ a, b.ctxBase ≤ a → a < b.ctxBase + b.ctxSize → s.mem.isBad .hbm (a / 32) = false) →
      ∃ (t : State) (bytes out : List Byte) (repart : Bool), exec (.jobPaused j) s = .next t ∧
        t.job j = some { b with state := .paused, context := some bytes, readOut := out, pauseRepart := repart, waiters := b.waiters.filter (fun w => w.typ != 3) } ∧
        (∀ i, i < bytes.length → i < b.ctxSize → SMap.get 0 t.mem.hbm (b.ctxBase + i) = bytes.getD i 0) ∧
        (∀ a, (a < b.ctxBase ∨ b.ctxBase + b.ctxSize ≤ a) → SMap.get 0 t.mem.hbm a = SMap.get 0 s.mem.hbm a)) ∧
    (FrameTaken s 4 0 f → f.body = [] → b.state = .paused → b.detaching = false →
      ∃ (t : State) (r : Nat), exec (.resume f) s = .next t ∧ { t with tables := s.tables, jobs := s.jobs, host := s.host } = s ∧
        r % 195 = 0 ∧ s.beacon + 200 ≤ r ∧ r < s.beacon + 395 ∧
        t.job j = some { b with state := .running, readOut := [], pauseTicks := b.pauseTicks + (r - b.pauseFrom), waiters := b.waiters ++ [⟨4, f.qpn, f.tag⟩] } ∧
        ∀ u, t.table u = if u ∈ b.tables then { s.table u with release := some r, pause := (s.table u).pause &&& 0xFFF } else s.table u) ∧
    (FrameTaken s 5 0 f → f.body = [] → b.state = .paused → b.detaching = false →
      ∃ t, exec (.detach f) s = .next t ∧ { t with jobs := s.jobs, host := s.host } = s ∧ { t.host with qps := s.host.qps } = s.host ∧
        t.job j = some { b with detaching := true, waiters := b.waiters ++ [⟨5, f.qpn, f.tag⟩] }) ∧
    (FrameTaken s 4 0 f → f.body = [] → b.state = .running → exec (.resume f) s = .next (replied s 4 f 0x0057 [])) ∧
    (FrameTaken s 6 0 f → f.body = [] → b.state = .running → b.waiters = [] → b.trapped = false → (∃ u ∈ b.tables, (s.table u).run ≠ 3) →
      ∃ t, exec (.abort f) s = .next t ∧ { t with tables := s.tables, jobs := s.jobs, host := s.host, dma := s.dma, noc := s.noc, ports := s.ports } = s ∧
        t.job j = some { b with state := .aborting, abortTick := s.now11, firstEvent := 0, waiters := [⟨6, f.qpn, f.tag⟩] } ∧
        ∀ u, if u ∈ b.tables then (t.table u).run = (if (s.table u).run = 0 then 0 else 3) ∧ (t.table u).ending = true ∧
            (t.table u).sends = [] ∧ (t.table u).seq.waits = [] ∧ (t.table u).pend = (s.table u).pend
          else t.table u = s.table u)

/-- COMPLETION_RECORD (R275): the record of a job whose tasks have ended and whose residue has been taken goes to the host in two writes, its first 8
bytes last, and in a frame where the submission asks for one; the job has ended, and its tables are free. -/
def Obligations.RecordsAreSent : Prop :=
  ∀ (s : State) (j : Nat) (b : Job), s.Canonical → j < 64 → s.job j = some b → (s.qp (256 + j)).state = 1 → s.host.link = true →
    (b.state = .running → b.residueTaken = true → (b.violated = true ∨ s.beacon ≤ b.stamp + b.bound + s.hostTime b + s.pausedTime b) → b.slotDirty = [] → s.requestsOpen j b = false → s.dmaStill j = true → b.waiters = [] →
      ∃ (t : State) (record : List Byte), exec (.completionRecord j) s = .next t ∧
        record.length = 1280 ∧ record.take 1 = [1] ∧ (record.drop 8).take 8 = natLe 8 b.stamp ∧ (record.drop 16).take 8 = natLe 8 s.beacon ∧
        t.job j = some { b with state := .ended, record := record, context := none } ∧
        t.host.tx = s.host.tx ++ [.write (BitVec.ofNat 24 (256 + j)) b.body.cmplRkey (b.body.cmplAddr + 8) (record.drop 8),
            .write (BitVec.ofNat 24 (256 + j)) b.body.cmplRkey b.body.cmplAddr (record.take 8)] ++
          (if b.body.flags.getLsbD 3 then [.frame (BitVec.ofNat 24 (256 + j)) 0xC1 0 (BitVec.ofNat 8 j) 0 record] else []) ∧
        (∀ u ∈ b.tables, (t.table u).job = none ∧ (t.table u).release = none) ∧ (t.qp (256 + j)).state = 0) ∧
    (b.state = .running → b.residueTaken = false → exec (.completionRecord j) s = .next s)

/-- SUBMIT, ADMISSION, ADMISSION_REPLY and READMISSION (R246, R248, R249, R260, R272): a free admission unit reads the image of a submission from the
host, a busy one lets it wait; a plan that fails a check is refused with its code, and one that passes is placed, to be replied to
when it has been loaded; the reply releases every task 200 ticks or more from then. A job that asked for it is admitted again, its image
fetched again, unless a dealer failure has taken its table away. -/
def Obligations.JobsAreAdmitted : Prop :=
  ∀ (s : State) (f : HostFrame) (b : SubmitBody) (inp : AdmissionInput), s.Canonical →
    (FrameTaken s 1 0 f → readSubmit f = some b → s.adm.current = none → s.adm.waiting = [] → (s.mgt.handover && s.mgt.leaseValid) = false →
      s.freeJob.isSome = true →
      ∃ t, exec (.submit f) s = .next t ∧ { t with adm := s.adm, host := s.host } = s ∧
        t.adm = { s.adm with current := some b } ∧ t.host.tx = s.host.tx ++ [.read 0x10 b.imgRkey b.imgAddr b.imgLen] ∧
        (t.qp 0x10).order = [⟨0x81, f.tag, false, none⟩]) ∧
    (∀ c, FrameTaken s 1 0 f → readSubmit f = some b → s.adm.current = some c →
      ∃ t, exec (.submit f) s = .next t ∧ { t with adm := s.adm, host := s.host } = s ∧
        t.adm = { s.adm with waiting := s.adm.waiting ++ [b] } ∧ t.host.tx = s.host.tx) ∧
    (FrameTaken s 1 0 f → readSubmit f = none → exec (.submit f) s = .next (replied s 1 f 0x0053 [])) ∧
    (s.adm.current = none → exec (.admission inp) s = .next s) ∧
    (∀ code, s.adm.current = some b → s.adm.loading = none → s.adm.waiting = [] → (s.mgt.handover && s.mgt.leaseValid) = false →
      s.plan b inp.image (inp.context.map s.openContext) = .error code → s.host.link = true → (s.qp 0x10).state = 1 → (s.qp 0x10).order = [⟨0x81, b.tag, false, none⟩] →
      ∃ t, exec (.admission inp) s = .next t ∧ { t with adm := s.adm, host := s.host } = s ∧
        t.adm = { s.adm with current := none, loading := none } ∧ t.host.tx = s.host.tx ++ [.frame 0x10 0x81 b.tag 0xFF code []] ∧
        (t.qp 0x10).order = []) ∧
    (∀ pl, s.adm.current = some b → s.adm.loading = none → s.plan b inp.image (inp.context.map s.openContext) = .ok pl → pl.resume = none →
      ∃ (t : State) (x : Job), exec (.admission inp) s = .next t ∧
        t.adm = { s.adm with current := some b, loading := some (pl.job, s.beacon + pl.load), count := s.adm.count + 1 } ∧
        t.job pl.job = some x ∧ x.state = .loading ∧ x.body = b ∧ x.tables = pl.tabs ∧ x.stamp = s.beacon ∧ x.bound = pl.bound ∧
        (∀ i, i ≠ pl.job → t.job i = s.job i) ∧ (t.qp (256 + pl.job)).state = 1 ∧ (t.qp (256 + pl.job)).hqpn = b.hqpn) ∧
    (s.adm.loading = none → exec .admissionReply s = .next s) ∧
    (∀ j due x, s.adm.loading = some (j, due) → s.job j = some x → x.state = .loading → x.readmitted = none → s.adm.waiting = [] →
      (s.mgt.handover && s.mgt.leaseValid) = false → s.host.link = true → (s.qp 0x10).state = 1 →
      (s.qp 0x10).order = [⟨0x81, x.body.tag, false, none⟩] →
      ∃ (t : State) (r : Nat) (body : List Byte), exec .admissionReply s = .next t ∧ s.beacon + 200 ≤ r ∧ r < s.beacon + 395 ∧
        t.adm = { s.adm with current := none, loading := none } ∧ t.job j = some { x with state := .admitted, release := r, replied := true } ∧
        body.take 24 = natLe 8 x.stamp ++ natLe 8 x.bound ++ natLe 8 r ∧
        t.host.tx = s.host.tx ++ [.frame 0x10 0x81 x.body.tag (BitVec.ofNat 8 j) 0 body] ∧
        ∀ u, t.table u = if u ∈ x.tables then { s.table u with release := some r } else s.table u) ∧
    (∀ (j : Nat) (x : Job) (s1 : State), s.job j = some x → s.readmitDue x = true → s.adm.current = none → s.mgt.hold = false → s.host.link = true →
      (s.qp 0x10).state = 1 →
      s1 = s.modJob j (fun y => { y with context := none, body := { y.body with flags := y.body.flags &&& 0xFFFFFFFB } }) →
      (s.dealerGone x = true → exec (.readmission j inp) s = .next { s1 with host := { s.host with
        tx := s.host.tx ++ [.frame 0x10 0x81 x.body.tag (BitVec.ofNat 8 j) 0x0016 []] } }) ∧
      ∀ (s2 : State) (pl : Plan), s.dealerGone x = false →
        s2 = { s1 with host := { s.host with tx := s.host.tx ++ [.read 0x10 x.body.imgRkey x.body.imgAddr x.body.imgLen] } } →
        s2.plan x.body inp.image (x.context.map s2.openContext) = .ok pl → pl.resume = none →
        ∃ t, exec (.readmission j inp) s = .next t ∧ t.adm.loading = some (pl.job, s.beacon + pl.load) ∧ s2.host.tx <+: t.host.tx ∧
          (t.job pl.job).map (·.readmitted) = some (some (x.readmitted.getD j))) ∧
    (∀ j x, s.job j = some x → s.readmitDue x = false → exec (.readmission j inp) s = .next s)

/-! ### The host port -/

/-- SIGNAL (R163, R172, R173), COUNTER_SLOT_WRITE (R276), TASK_MSG and REBIND (R273, R283) for a job that frames may name. An increment adds to an
inbound counter, which the job's tables see from their next cycles on; a consume takes from an outbound one and makes its slot due; a sum that does not fit, a counter that holds too
little, and one of the other direction are refused with 0x0050, 0x0051 and 0x0059. A slot write carries the value and the number of
writes. A message waits for credit and then enters the mesh; to a channel that the host does not feed it is refused with 0x005A. A
REBIND makes the queue pair ready again, sends again the last operations that were not acknowledged (how many is a free value, assumption
61) and then what had been kept, and answers with a PSN that is a free value. -/
def Obligations.HostCountersAndMessages : Prop :=
  ∀ (s : State) (f : HostFrame) (j n a : Nat) (b : Job), s.Canonical → j = f.job.toNat → j < 64 → s.job j = some b →
    b.state ∈ [.admitted, .running, .pausing, .paused] →
    (FrameTaken s 7 1 f → f.body.length = 7 → n = rdLe f.body 0 1 → a = rdLe f.body 3 4 → n < 64 → 1 ≤ a → a ≤ 0xFFFFFF →
      (SMap.get 0 b.ctrDir n = 1 → s.hostCounter j n + a ≤ 0xFFFFFF →
        ∃ t, exec (.signalIncrement f) s = .next t ∧ t.hostCounter j n = s.hostCounter j n + a ∧
          (∀ i, i ≠ 64 * j + n → SMap.get 0 t.hctr i = SMap.get 0 s.hctr i) ∧ { t with hctr := s.hctr, host := s.host } = s ∧
          { t.host with fresh := s.host.fresh } = s.host ∧ ∀ u ∈ b.tables, t.hostVisible u j n = s.hostVisible u j n) ∧
      (SMap.get 0 b.ctrDir n = 1 → 0xFFFFFF < s.hostCounter j n + a → exec (.signalIncrement f) s = .next (replied s 7 f 0x0050 [])) ∧
      (SMap.get 0 b.ctrDir n = 2 → a ≤ s.hostCounter j n → ∃ t, exec (.signalConsume f) s = .next t ∧
        t.hostCounter j n = s.hostCounter j n - a ∧ (∀ i, i ≠ 64 * j + n → SMap.get 0 t.hctr i = SMap.get 0 s.hctr i) ∧
        { t with hctr := s.hctr, jobs := s.jobs } = s ∧
        t.job j = some { b with slotDirty := b.slotDirty.filter (fun x => x.1 != n) ++ [(n, s.hostWrites j)] }) ∧
      (SMap.get 0 b.ctrDir n = 2 → s.hostCounter j n < a → exec (.signalConsume f) s = .next (replied s 7 f 0x0051 [])) ∧
      (SMap.get 0 b.ctrDir n ≠ 1 → exec (.signalIncrement f) s = .next (replied s 7 f 0x0059 []))) ∧
    (∀ ws, b.slotDirty.find? (fun x => x.1 == n) = some (n, ws) → s.slotBehind j ws = false → (s.qp (256 + j)).state = 1 → s.host.link = true →
      ∃ t, exec (.counterSlotWrite j n) s = .next t ∧ { t with jobs := s.jobs, host := s.host } = s ∧
        t.job j = some { b with slotDirty := b.slotDirty.filter (fun x => x.1 != n)
                                slotWrites := SMap.set 0 b.slotWrites n (SMap.get 0 b.slotWrites n + 1) } ∧
        t.host = { s.host with tx := s.host.tx ++ [.write (BitVec.ofNat 24 (256 + j)) b.body.ctrRkey
          (b.body.ctrAddr + BitVec.ofNat 64 (8 * n)) (natLe 4 (s.hostCounter j n) ++ wordLe (SMap.get 0 b.slotWrites n + 1))] }) ∧
    (b.slotDirty = [] → exec (.counterSlotWrite j n) s = .next s) ∧
    (FrameTaken s 8 0 f → taskMsgLayout f s.fuses.cores = true → n = rdLe f.body 0 1 →
      (s.hostChannel b n = none → exec (.taskMsg f) s = .next (replied s 8 f 0x005A [])) ∧
      (∀ u c parts, s.hostChannel b n = some u → c = SMap.get SndChan.reset s.host.chans (64 * u + n) → s.host.msgs = [] →
        rdLe f.body 2 1 ≤ field c.cfg 21 18 + 1 →
        parts = (chunks (64 * rdLe f.body 2 1) (f.body.drop 4) (rdLe f.body 3 1)).zipIdx.map (fun x => (x.2, chunks 64 x.1 (rdLe f.body 2 1))) →
        (c.credit (s.rcv u n).rsize (rdLe f.body 2 1) (parts.map (·.1)) = none →
          exec (.taskMsg f) s = .next { s with host := { s.host with msgs := [⟨j, u, n, rdLe f.body 1 1, parts⟩] } }) ∧
        (∀ spills c', c.credit (s.rcv u n).rsize (rdLe f.body 2 1) (parts.map (·.1)) = some (spills, c') →
          ∃ t, exec (.taskMsg f) s = .next t ∧ { t with noc := s.noc, host := s.host } = s ∧
            { t.noc with links := s.noc.links } = s.noc ∧
            t.host = { s.host with chans := SMap.set SndChan.reset s.host.chans (64 * u + n) { c' with seq := c.seq + 1 } }))) ∧
    (FrameTaken s 10 0 f → f.body.length = 8 → rdLe f.body 0 1 = j → rdLe f.body 7 1 = 0 → s.hostGone j = false →
      (∀ x ∈ (s.qp (256 + j)).kept, x.qpn = BitVec.ofNat 24 (256 + j)) →
      ∃ (t : State) (psn : BitVec 24) (again : List HostTx), exec (.rebind f) s = .next t ∧ { t with host := s.host, free := s.free } = s ∧
        t.free = s.free + 2 ∧
        t.qp (256 + j) = { s.qp (256 + j) with
          state := 1, hqpn := BitVec.ofNat 24 (rdLe f.body 1 3), psn := BitVec.ofNat 24 (rdLe f.body 4 3), devPsn := psn, retries := 0
          retryTick := s.beacon, txBase := s.host.tx.length, kept := [] } ∧
        again <:+ (s.host.tx.drop (s.qp (256 + j)).txBase).filter (fun x => x.kept && x.qpn.toNat == 256 + j) ∧
        t.host.tx = s.host.tx ++ again ++ (s.qp (256 + j)).kept ++
          [.frame f.qpn 0x8A f.tag f.job 0 (natLe 4 psn.toNat)])

/-- Host RDMA (R268), INVALID_REQUEST_NAK and HST_DROP (R264): a WRITE with the rkey of a region of its job changes the region's bytes and no other, and a READ is
answered with them; any other access is answered with a NAK and HST_ACCESS (0x2504), and a refused operation puts its queue pair in
error. -/
def Obligations.HostMemoryAccess : Prop :=
  ∀ (s : State) (qpn : BitVec 24) (rkey : BitVec 32) (va : BitVec 64) (len : BitVec 32) (data : List Byte) (j : Nat), s.Canonical →
    s.host.link = true → (s.qp qpn.toNat).state = 1 → qpn.toNat = 256 + j → j < 64 →
    (∀ b i r, s.job j = some b → b.state = .running → i < 16 → b.regions[i]? = some r → rkey.toNat = rkeyOf j i b.admCount →
      (va.toNat + data.length ≤ r.len → (∀ o < data.length, s.mem.isBad r.tier ((r.base + va.toNat + o) / tierUnit r.tier) = false) →
        ∃ t, exec (.hostRdmaWrite qpn rkey va data) s = .next t ∧ { t with mem := s.mem } = s ∧
          { t.mem with hbm := s.mem.hbm, ddr := s.mem.ddr } = s.mem ∧
          (∀ x, SMap.get 0 t.mem.hbm x = if r.tier = .hbm ∧ r.base + va.toNat ≤ x ∧ x < r.base + va.toNat + data.length
            then data.getD (x - (r.base + va.toNat)) 0 else SMap.get 0 s.mem.hbm x) ∧
          (∀ x, SMap.get 0 t.mem.ddr x = if r.tier = .ddr ∧ r.base + va.toNat ≤ x ∧ x < r.base + va.toNat + data.length
            then data.getD (x - (r.base + va.toNat)) 0 else SMap.get 0 s.mem.ddr x)) ∧
      (va.toNat + len.toNat ≤ r.len → (∀ o < len.toNat, s.mem.isBad r.tier ((r.base + va.toNat + o) / tierUnit r.tier) = false) →
        exec (.hostRdmaRead qpn rkey va len) s = .next { s with host := { s.host with tx := s.host.tx ++ [.response qpn
          ((List.range len.toNat).map (fun k => SMap.get 0 (if r.tier = .hbm then s.mem.hbm else s.mem.ddr) (r.base + va.toNat + k)))] } }) ∧
      (r.len < va.toNat + data.length → exec (.hostRdmaWrite qpn rkey va data) s = .next
        (State.raise { s with host := { s.host with tx := s.host.tx ++ [.nakAccess qpn] } }
          ⟨0x2504, clsNote, some j, none, none, rkey.toNat + 2 ^ 32 * qpn.toNat⟩))) ∧
    (field rkey 31 24 ≠ j → exec (.hostRdmaRead qpn rkey va len) s = .next
      (State.raise { s with host := { s.host with tx := s.host.tx ++ [.nakAccess qpn] } }
        ⟨0x2504, clsNote, some j, none, none, rkey.toNat + 2 ^ 32 * qpn.toNat⟩)) ∧
    (∃ t, exec (.invalidRequestNak qpn) s = .next t ∧ { t with host := s.host, log := s.log } = s ∧
      t.host.tx = s.host.tx ++ [.nakInvalid qpn] ∧ t.qp (256 + j) = { s.qp (256 + j) with state := 2, errTick := s.beacon } ∧
      t.log = s.log.raise s.now11 (s.evRecord ⟨0x2503, clsNote, some j, none, none, (s.qp (256 + j)).hqpn.toNat⟩)) ∧
    ∃ t, exec .hstDrop s = .next t ∧ { t with host := s.host, marks := s.marks } = s ∧
      t.host = { s.host with drop := satAdd s.host.drop 1 }

/-- Queue pairs and the link (R262, R265, R267, R278, R282 to R284). The rate of a queue pair is halved by a CNP and grows back by 1/16 of the share;
the eighth timeout puts it in error, as HST_QP_ERROR does; the control queue pair recovers 1 s later, and a job whose host stays away is
aborted. A port that keeps four lanes goes on at half its rate, and with fewer its link goes down, until lanes are healed (which, is a free value:
assumption 62). -/
def Obligations.QueuePairsAndLink : Prop :=
  ∀ (s : State) (qpn : BitVec 24) (n : Nat) (q : QueuePair) (lane : BitVec 3) (cause : BitVec 2), s.Canonical → n = qpn.toNat → q = s.qp n →
    (q.state = 1 → s.host.link = true → (q.cnpTick = none ∨ ∃ c, q.cnpTick = some c ∧ c + 5000 ≤ s.beacon) →
      ∃ t, exec (.cnpSend qpn) s = .next t ∧ { t with host := s.host } = s ∧ t.host.tx = s.host.tx ++ [.cnp qpn] ∧
        t.qp n = { q with cnpTick := some s.beacon }) ∧
    (∀ c, q.cnpTick = some c → s.beacon < c + 5000 → exec (.cnpSend qpn) s = .next s) ∧
    (q.state = 1 → s.host.link = true → exec (.cnpReceive qpn) s = .next (s.modQp n (fun q => { q with rate := q.rate / 2, rateTick := s.beacon }))) ∧
    (q.state = 1 → q.rate < 0x100000 → q.rateTick + 5500 ≤ s.beacon → exec (.rateRecovery qpn) s = .next
      (s.modQp n (fun q => { q with rate := min 0x100000 (q.rate + 0x10000), rateTick := s.beacon }))) ∧
    (s.beacon < q.retryTick + 6710887 → exec (.localAckTimeout qpn) s = .next s) ∧
    (q.state = 1 → s.host.link = true → q.retryTick + 6710887 ≤ s.beacon → s.beacon ≤ q.retryTick + 4 * 6710887 → q.retries < 7 → ∃ t, exec (.localAckTimeout qpn) s = .next t ∧ { t with host := s.host } = s ∧
      t.host.tx = s.host.tx ++ [.retransmit qpn] ∧ t.qp n = { q with retries := q.retries + 1, retryTick := s.beacon }) ∧
    (∀ j, n = 256 + j → j < 64 → q.state = 1 → q.retryTick + 6710887 ≤ s.beacon → s.beacon ≤ q.retryTick + 4 * 6710887 → 7 ≤ q.retries →
      exec (.localAckTimeout qpn) s = exec (.hstQpError j) s ∧
      exec (.hstQpError j) s = .next ((s.modQp n (fun q => { q with state := 2, errTick := s.beacon })).raise
        ⟨0x2503, clsNote, some j, none, none, q.hqpn.toNat⟩)) ∧
    (q.state = 1 → s.host.link = true → exec (.rnrNak qpn) s = .next { s with host := { s.host with tx := s.host.tx ++ [.retransmit qpn] } }) ∧
    (n = 16 → q.state = 2 → q.errTick + 100000000 ≤ s.beacon → exec .controlQpRecovery s = .next
      (s.modQp 16 (fun q => { q with
        state := 1, retries := 0, retryTick := s.beacon, txBase := s.host.tx.length, kept := [], order := [] }))) ∧
    (∀ j b, n = 256 + j → s.job j = some b → b.state = .running → q.state = 2 → q.errTick + 100000000 * s.recs.hostLoss ≤ s.beacon →
      exec (.hostLost j) s = .next ((s.raise ⟨0x2505, clsContained, some j, none, none, q.hqpn.toNat⟩).abortJob j 0x2505)) ∧
    (s.host.link = true → exec .hstLinkDown s = .next (State.raise { s with host := { s.host with link := false } } ⟨0x2501, clsNote, none, none, none, 0⟩)) ∧
    (s.ready = true → s.host.link = false → s.host.healthy < 4 → ∃ (t : State) (heal : BitVec 8), exec .hstLinkUp s = .next t ∧
      t.free = s.free + 1 ∧ t.host.lanes = s.host.lanes ||| heal ∧ t.host.link = decide (4 ≤ t.host.healthy)) ∧
    (s.ready = true → s.host.link = false → 4 ≤ s.host.healthy → (∀ m, (s.qp m).kept = []) → exec .hstLinkUp s = .next
      (State.raise { s with host := { s.host with link := true } } ⟨0x2502, clsNote, none, none, none, 0⟩)) ∧
    (s.host.lanes.getLsbD lane.toNat = false → exec (.hstLaneLost lane cause) s = .next s) ∧
    (s.host.lanes.getLsbD lane.toNat = true → ∃ t, exec (.hstLaneLost lane cause) s = .next t ∧
      (∀ i, i < 8 → t.host.lanes.getLsbD i = (s.host.lanes.getLsbD i && decide (i ≠ lane.toNat))) ∧
      (5 ≤ s.host.healthy → t.host.link = s.host.link ∧ t.host.mode = true ∧
        ∀ j, (t.job j).map (·.share) = (s.job j).map (fun b => if s.host.mode then b.share else b.share / 2)) ∧
      (s.host.healthy ≤ 4 → t.host.link = false ∧ t.host.mode = s.host.mode))

/-! ### Benrax Link -/

/-- CELL_TRANSMIT, REPLAY, ALIGNMENT_CELL_SEND and REPLAY_TIMEOUT (R294, R300, R301, R306) at a port whose next position has come: a queued cell takes the
position that names its source, with the next LSEQ, and is kept for replay; a cell to be replayed, then the alignment cell, then an
idle cell take it otherwise. Every cell sent holds its CRC. -/
def Obligations.CellsAreSent : Prop :=
  ∀ (s : State) (q pos : Nat) (p : Port), s.Canonical → q < 16 → p = s.port q →
    (s.portPos q = none → exec (.cellTransmit q) s = .next s) ∧
    (s.portPos q = some pos →
      (∀ src r c, p.outQ = [(src, r, c)] → r ≤ s.portNet q → p.holdIn = false → p.replayBuf.length < 16384 → p.replayDue = [] →
        (p.degraded = true ∨ entryNames q (s.cellEntry q (pos % s.roundCells p.nact.toNat)) src = true) →
        ∃ (t : State) (x : Cell), exec (.cellTransmit q) s = .next t ∧ { t with ports := s.ports } = s ∧ (∀ i, i ≠ q → t.port i = s.port i) ∧
          cellOk x = true ∧ { x with hold := c.hold, nmask := c.nmask, crc := c.crc } =
            { c with ckind := 0, lseq := p.sendSeq, lack := p.recvSeq, nak := p.nakDue } ∧
          t.port q = { p with outQ := [], sendSeq := p.sendSeq + 1, position := pos + 1, nakDue := false, holdOut := x.hold, sent := some x
                              replayBuf := p.replayBuf ++ [({ c with ckind := 0, lseq := p.sendSeq }, s.portNet q, 0)] }) ∧
      (∀ c d m k, p.outQ = [] → p.replayDue = [(c.lseq, d)] → p.replayBuf = [(c, m, k)] → d ≤ pos → k < 14 →
        pos ≤ d + (s.kint - 1 - d % s.kint) →
        ∃ (t : State) (x : Cell), exec (.replay q) s = .next t ∧ exec (.cellTransmit q) s = .next t ∧
          { t with ports := s.ports, marks := s.marks } = s ∧ (∀ i, i ≠ q → t.port i = s.port i) ∧ cellOk x = true ∧
          { x with hold := c.hold, nmask := c.nmask, crc := c.crc } = { c with ckind := 3, lack := p.recvSeq, nak := p.nakDue } ∧
          t.port q = { p with retry := satIncr p.retry, replayDue := [], replayBuf := [(c, s.portNet q, k + 1)], position := pos + 1
                              nakDue := false, holdOut := x.hold, sent := some x }) ∧
      (p.outQ = [] → p.replayDue = [] → exec (.replay q) s = .next s ∧
        ∃ (t : State) (x : Cell), exec (.cellTransmit q) s = .next t ∧ { t with ports := s.ports } = s ∧ (∀ i, i ≠ q → t.port i = s.port i) ∧
          cellOk x = true ∧ x.ckind = (if p.alignDue then 2 else 1) ∧ x.lack = p.recvSeq ∧ x.nak = p.nakDue ∧
          x.data = (if p.alignDue then s.alignData q else List.replicate 64 0) ∧
          t.port q = { p with alignDue := false, position := pos + 1, nakDue := false, holdOut := x.hold, sent := some x } ∧
          (p.alignDue = true → exec (.alignmentCellSend q) s = .next t) ∧ (p.alignDue = false → exec (.alignmentCellSend q) s = .next s))) ∧
    (∀ c m k, p.replayBuf = [(c, m, k)] → p.replayDue = [] → p.state = 2 →
      (m + 2 * (SMap.get (false, 0, 0, 0) s.recs.fabric.ports q).2.2.2.toNat + 64 ≤ s.portNet q →
        exec (.replayTimeout q c.lseq) s = .next (s.modPort q (fun p => { p with replayDue := [(c.lseq, p.positionAt (s.portNet q))] }))) ∧
      (s.portNet q < m + 2 * (SMap.get (false, 0, 0, 0) s.recs.fabric.ports q).2.2.2.toNat + 64 → exec (.replayTimeout q c.lseq) s = .next s))

/-- CELL_RECEIVE and ALIGNMENT_CELL_RECEIVE (R288, R291, R298, R300 to R302, R306, R307) at a port that is up: a cell in a bad codeword or of a bad CRC is
lost; every other one frees the cells that it acknowledges; the next data cell in sequence is delivered to its port or rejected, one
after a gap is held and the gap is named, and one seen before is dropped; an alignment cell gives the latency and the leader. -/
def Obligations.CellsAreReceived : Prop :=
  ∀ (s : State) (q : Nat) (c : Cell) (fec : Bool) (p p1 : Port) (buf : List (Cell × Nat × Nat)), s.Canonical → q < 16 → p = s.port q →
    (p.state ≠ 2 ∨ fec = false ∨ cellOk c = false → exec (.cellReceive q c fec) s = .next s) ∧
    (p.state = 2 → cellOk c = true → c.nak = false → p.ahead = [] → p.lost = [] →
      buf = p.replayBuf.filter (fun x => decide (0 < (x.1.lseq - c.lack).toNat) && decide ((x.1.lseq - c.lack).toNat < 0x8000)) →
      p1 = { p with replayBuf := buf, replayDue := p.replayDue.filter (fun d => buf.any (fun x => x.1.lseq == d.1)), holdIn := c.hold } →
      (c.ckind = 1 → exec (.cellReceive q c true) s = .next (s.modPort q (fun _ => p1))) ∧
      ((c.ckind = 0 ∨ c.ckind = 3) → (c.lseq = p.recvSeq ∨ 0x8000 ≤ (c.lseq - p.recvSeq).toNat) →
        exec (.cellReceive q c true) s = .next (s.modPort q (fun _ => p1))) ∧
      ((c.ckind = 0 ∨ c.ckind = 3) → 2 ≤ (c.lseq - p.recvSeq).toNat → (c.lseq - p.recvSeq).toNat < 0x8000 →
        ∃ lost, exec (.cellReceive q c true) s = .next (s.modPort q (fun _ => { p1 with ahead := [c], lost := lost, nakDue := true })) ∧
          ∀ l : BitVec 16, l ∈ lost ↔ 0 < (l - p.recvSeq).toNat ∧ (l - p.recvSeq).toNat < (c.lseq - p.recvSeq).toNat) ∧
      ((c.ckind = 0 ∨ c.ckind = 3) → c.lseq = p.recvSeq + 1 → c.ddev ≠ s.recs.fabric.addr →
        (∀ o, s.routePort c.ddev.toNat = o → o < 16 → o ≠ q → (s.port o).discard = false →
          exec (.cellReceive q c true) s = .next ((s.modPort q (fun _ => { p1 with recvSeq := c.lseq })).modPort o (fun x =>
            { x with outQ := x.outQ ++ [((if portEdge o = portEdge q then 0x8000 else 0x8010) + q,
              if portEdge o = portEdge q then s.portNet o + 8 else s.transitCycle (portEdge o) (s.portNet o + 32), c)] }))) ∧
        (16 < s.routePort c.ddev.toNat →
          exec (.cellReceive q c true) s = .next (State.raise ((s.modPort q (fun _ => { p1 with recvSeq := c.lseq, rej := satIncr p.rej })).mark
            (portReg q 6) (s.marked (portReg q 6) + 1)) ⟨0x2603, clsNote, none, none, none, q + 2 ^ 4 * c.sdev.toNat + 2 ^ 16 * c.ddev.toNat⟩)))) ∧
    (p.state = 2 → cellOk c = true → c.ckind = 2 → s.ftime.valid = false →
      ∃ t, exec (.alignmentCellReceive q c) s = .next t ∧ exec (.cellReceive q c true) s = .next t ∧
        { t with ports := s.ports, ftime := s.ftime } = s ∧ (∀ i, i ≠ q → t.port i = s.port i) ∧
        (t.port q).lastAlign = rdLe c.data 0 8 ∧ (t.port q).alignTick = est16 s.now11 ∧
        (t.port q).plat = (if rdLe c.data 32 8 = 0 then p.plat
          else BitVec.ofNat 16 ((est16 s.now11 - rdLe c.data 32 8 - rdLe c.data 40 8) * 33 / 64)) ∧
        (s.leadRank (BitVec.ofNat 12 (rdLe c.data 24 2)) = none → t.ftime = s.ftime) ∧
        (∀ r, s.leadRank (BitVec.ofNat 12 (rdLe c.data 24 2)) = some r → s.leadRank s.recs.fabric.addr = none → rdLe c.data 23 1 < 14 →
          t.ftime.valid = true ∧ t.ftime.leader = BitVec.ofNat 12 (rdLe c.data 24 2) ∧ t.ftime.hops.toNat = rdLe c.data 23 1 + 1 ∧
          t.ftime.via = BitVec.ofNat 12 (rdLe c.data 20 2) ∧ t.ftime.pon = BitVec.ofNat 32 (rdLe c.data 26 4)))

/-- Port `q` gone down (R33, R34, R303 to R305, R307): the event BXL_PORT_DOWN (0x2604), a condition outside rating for every job with cell
positions on it, and no fabric time through it any longer. -/
def Sys2Proof.portLost (s : State) (q : Nat) : State :=
  let u := (State.raise (s.modPort q (fun p => { p with state := 3, downTick := s.beacon, returning := false }))
    ⟨0x2604, clsDevice, none, none, none, q⟩).excursions 0x2604 (fun b => b.cells.any (fun k => k / 8192 == q))
  if u.ftime.valid = true ∧ u.ftime.hops ≠ 0 ∧ u.ftime.via = (s.port q).nbr.extractLsb' 0 12 then u.leadAlone else u

/-- Port `q` up on `n` lanes, 4 to 7 (R304): the event BXL_PORT_DEGRADED (0x4403), and a condition outside rating for every job with cell
positions on it. -/
def Sys2Proof.portReduced (s : State) (q n : Nat) : State :=
  (State.raise (s.modPort q (fun p => { p with
    state := 2, nact := BitVec.ofNat 4 n, spared := false, degraded := true, returning := false, discard := false
    position := (n * s.portNet q + 5) / 6 })) ⟨0x4403, clsDevice, none, none, none, q + 2 ^ 4 * n⟩).excursions 0x4403
      (fun b => b.cells.any (fun k => k / 8192 == q))

/-- PORT_TRAINING, BXL_LANE_LOST, BXL_PORT_UP and BXL_DISCARD (R303 to R305): a port whose neighbour and latency are as recorded comes up on its
healthy lanes, at 4 to 7 of them degraded, and with fewer not at all; a wrong neighbour address or port (0x4404) or a latency above
DPLAT (0x4405) holds it down; the spare takes the place of the first lost lane, and then the port trains again; after a further loss it
goes on with the lanes that are left; a port that is healthy again trains on its configured lanes, and says so once it is up; what
waits at a port that stays down is discarded. -/
def Obligations.PortsTrain : Prop :=
  ∀ (s s1 : State) (q n m : Nat) (p : Port) (tr : TrainingResult) (lane : BitVec 4) (cause : BitVec 2)
    (r : Bool × BitVec 12 × BitVec 4 × BitVec 16),
    s.Canonical → q < 16 → p = s.port q → r = SMap.get (false, 0, 0, 0) s.recs.fabric.ports q →
    (p.state ≠ 1 → exec (.portTraining q tr) s = .next s) ∧
    (p.state = 1 → n = popCount 9 tr.lanes.toNat →
      s1 = s.modPort q (fun p => { p with nbr := tr.nport ++ tr.naddr, plat := tr.plat, lanes := tr.lanes }) →
      (tr.naddr = r.2.1 → tr.nport = r.2.2.1 → tr.plat ≤ r.2.2.2 →
        (8 ≤ n → ∀ u, u = s1.modPort q (fun p => { p with
            state := 2, nact := 8, spared := decide (tr.lanes.toNat % 256 ≠ 255), degraded := false, returning := false, discard := false
            position := (8 * s.portNet q + 5) / 6 }) →
          exec (.portTraining q tr) s = .next (if p.returning then u.raise ⟨0x2605, clsNote, none, none, none, q⟩ else u)) ∧
        (4 ≤ n → n < 8 → exec (.portTraining q tr) s = .next (portReduced s1 q n)) ∧
        (n < 4 → exec (.portTraining q tr) s = .next (portLost s1 q))) ∧
      (tr.naddr ≠ r.2.1 ∨ tr.nport ≠ r.2.2.1 → exec (.portTraining q tr) s = .next (portLost ((s1.raise
        ⟨0x4404, clsDevice, none, none, none, q + 2 ^ 4 * tr.naddr.toNat + 2 ^ 16 * tr.nport.toNat⟩).modPort q
          (fun p => { p with heldDown := true })) q)) ∧
      (tr.naddr = r.2.1 → tr.nport = r.2.2.1 → r.2.2.2 < tr.plat → exec (.portTraining q tr) s = .next (portLost ((s1.raise
        ⟨0x4405, clsDevice, none, none, none, q + 2 ^ 16 * tr.plat.toNat⟩).modPort q (fun p => { p with heldDown := true })) q))) ∧
    (p.state = 2 → p.heldDown = false → p.lanes.getLsbD lane.toNat = true → lane.toNat < 9 → ∀ ev,
      ev = q + 2 ^ 4 * lane.toNat + 2 ^ 8 * cause.toNat → m = popCount 9 (p.lanes &&& ~~~(1#9 <<< lane.toNat)).toNat →
      s1 = s.modPort q (fun p => { p with lanes := p.lanes &&& ~~~(1#9 <<< lane.toNat) }) →
      (lane.toNat < 8 → p.lanes = 0x1FF → p.spared = false → exec (.bxlLaneLost q lane cause) s = .next
        ((s1.raise ⟨0x4402, clsCorrected, none, none, none, ev + 2 ^ 10⟩).modPort q (fun p => { p with state := 1, spared := true }))) ∧
      (lane.toNat = 8 → p.spared = false → p.degraded = false → exec (.bxlLaneLost q lane cause) s = .next
        (s1.raise ⟨0x4402, clsDevice, none, none, none, ev⟩)) ∧
      ((lane.toNat < 8 ∧ p.lanes ≠ 0x1FF) ∨ p.spared = true ∨ (lane.toNat = 8 ∧ p.degraded = true) →
        (4 ≤ m → m < 8 → exec (.bxlLaneLost q lane cause) s = .next
          (portReduced (s1.raise ⟨0x4402, clsDevice, none, none, none, ev⟩) q m)) ∧
        (m < 4 → exec (.bxlLaneLost q lane cause) s = .next (portLost (s1.raise ⟨0x4402, clsDevice, none, none, none, ev⟩) q)))) ∧
    (p.lanes.getLsbD lane.toNat = false ∨ p.heldDown = true → exec (.bxlLaneLost q lane cause) s = .next s) ∧
    ((p.state = 2 ∨ p.state = 3) → p.heldDown = false → p.lanes ≠ 0x1FF →
      exec (.bxlPortUp q) s = .next (s.modPort q (fun p => { p with state := 1, lanes := 0x1FF, returning := true }))) ∧
    (p.heldDown = true ∨ p.lanes = 0x1FF → exec (.bxlPortUp q) s = .next s) ∧
    (p.state = 3 → p.discard = false →
      (s.beacon < p.downTick + 100000 * s.recs.portDown → exec (.bxlDiscard q) s = .next s) ∧
      (p.downTick + 100000 * s.recs.portDown ≤ s.beacon → ∃ t, exec (.bxlDiscard q) s = .next t ∧
        { t with ports := s.ports, marks := s.marks, log := s.log } = s ∧ (∀ i, i ≠ q → t.port i = s.port i) ∧
        t.port q = { p with rej := satAdd p.rej p.outQ.length, outQ := [], discard := true } ∧
        t.log = s.log.raise s.now11 (s.evRecord ⟨0x2606, clsDevice, none, none, none, q⟩)))

/-! ### Clocks and temperature -/

/-- STEP_CHANGE and DIMMER_STEP (R317, R318), THERMAL_HOLD, HOLD_END and HOLD_BUDGET (R321, R322), REGION_RESTART (R186, R314) of a region: a permitted
step of another frequency stops the region and takes effect 150 ticks after the stop, unless a change runs, the region has not run
since the last, or an arbitration hold lasts (R356); one not permitted is refused and counted; a hold stops the region for its length, or until the budget of its window is
spent; without a cause left the region runs again, and a step change that waited for that begins outside HOLDOVER and holds.
BEACON_PULSE (R325), TEMPERATURE_SAMPLE (R320, R323), REFCLK_LOST and REFCLK_BACK (R329) of a running device without jobs: a pulse makes an alignment
cell due at every enabled port; a sample at the trip point stops its region, until one more than 5 degrees below it. -/
def Obligations.ClockRegions : Prop :=
  (∀ (s : State) (r : Nat) (tgt : BitVec 3) (us : BitVec 16) (g : Region), s.Canonical → r < 72 → g = s.region r →
    (s.ready = true → tgt.toNat ≤ 5 → s.recs.permit.getLsbD tgt.toNat = true → (s.recs.scope = 0 ∨ tgt = s.recs.pin) →
      s.pins.holdover = false →
      (s.mgt.hold = true ∨ g.changing = true ∨ g.reached = true ∨ g.step = tgt →
        exec (.stepChange r tgt) s = .next (s.modRegion r (fun g => { g with tgt := tgt }))) ∧
      (s.mgt.hold = false → g.changing = false → g.reached = false → g.step ≠ tgt → ∃ t, exec (.stepChange r tgt) s = .next t ∧ { t with regions := s.regions } = s ∧
        (∀ i, i ≠ r → t.region i = s.region i) ∧ (t.region r).changing = true ∧ (t.region r).goal = tgt ∧ (t.region r).tgt = tgt ∧
        (t.region r).step = g.step ∧ (t.region r).cause = g.cause ||| 1 ∧ (t.region r).stopAt = some (g.stopAt.getD (s.cycleEnd r)))) ∧
    (s.ready = true → tgt.toNat ≤ 5 → s.recs.permit.getLsbD tgt.toNat = false →
      ∃ t, exec (.stepChange r tgt) s = .next t ∧ { t with stepsRef := s.stepsRef, marks := s.marks, log := s.log } = s ∧
        t.stepsRef.toNat = min 0xFFFFFFFF (s.stepsRef.toNat + 1) ∧
        t.log = s.log.raise s.now11 (s.evRecord ⟨0x3104, clsNote, none, some r, none, r + 2 ^ 7 * tgt.toNat + 2 ^ 10⟩)) ∧
    (11 * s.beacon < g.stepFrom + 1650 ∨ s.pins.holdover = true → exec (.dimmerStep r) s = .next s) ∧
    (g.changing = true → s.pins.holdover = false → g.stepFrom + 1650 ≤ 11 * s.beacon → ∃ t, exec (.dimmerStep r) s = .next t ∧
      { t with regions := s.regions, log := s.log } = s ∧ (∀ i, i ≠ r → t.region i = s.region i) ∧ (t.region r).step = g.goal ∧
      (t.region r).changing = false ∧ (t.region r).reached = true ∧ (t.region r).cause = g.cause &&& 0x1E ∧ (t.region r).steps.toNat = min 0xFFFF (g.steps.toNat + 1) ∧
      t.log = s.log.raise s.now11 (s.evRecord ⟨0x3101, clsCorrected, none, some r, none, r + 2 ^ 7 * g.step.toNat + 2 ^ 10 * g.goal.toNat⟩)) ∧
    (s.ready = true → us ≠ 0 →
      (g.cause.getLsbD 1 = true → exec (.thermalHold r us) s = .next (s.modRegion r (fun g => { g with
        holdEnd := s.now11 + 1100 * min us.toNat 1000 }))) ∧
      (g.cause.getLsbD 1 = false → ∃ t, exec (.thermalHold r us) s = .next t ∧ { t with regions := s.regions, log := s.log } = s ∧
        (∀ i, i ≠ r → t.region i = s.region i) ∧ (t.region r).cause = g.cause ||| 2 ∧ (t.region r).holdEnd = s.now11 + 1100 * min us.toNat 1000 ∧
        (t.region r).stopAt = some (g.stopAt.getD (s.cycleEnd r)) ∧
        t.log = s.log.raise s.now11 (s.evRecord ⟨0x4101, clsCorrected, none, some r, none,
          r + 2 ^ 7 * g.temp.toNat + 2 ^ 15 * min us.toNat 1000⟩))) ∧
    (g.cause.getLsbD 1 = true → s.now11 < g.holdEnd → exec (.holdEnd r) s = .next s) ∧
    (g.cause.getLsbD 1 = true → g.holdEnd ≤ s.now11 → ∃ t, exec (.holdEnd r) s = .next t ∧ { t with regions := s.regions } = s ∧
      (∀ i, i ≠ r → t.region i = s.region i) ∧ (t.region r).cause = g.cause &&& 0x1D) ∧
    (g.heldNow s.beacon < 100 * s.recs.allow → exec (.holdBudget r) s = .next s) ∧
    (g.cause.getLsbD 1 = true → 100 * s.recs.allow ≤ g.heldNow s.beacon → ∃ t, exec (.holdBudget r) s = .next t ∧
      { t with regions := s.regions, log := s.log } = s ∧ (t.region r).cause = g.cause &&& 0x1D ∧
      t.log = s.log.raise s.now11 (s.evRecord ⟨0x3102, clsNote, none, some r, none, r⟩)) ∧
    (g.cause.getLsbD 1 = false → g.cause.getLsbD 0 = true → g.budgetWin = none → 100 * s.recs.allow ≤ g.heldNow s.beacon →
      exec (.holdBudget r) s = .next (State.raise (s.modRegion r (fun g => { g with budgetWin := some (s.beacon / 100000) }))
        ⟨0x3102, clsNote, none, some r, none, r + 2 ^ 7⟩)) ∧
    (g.cause ≠ 0 → exec (.regionRestart r) s = .next s) ∧
    (∀ b, 64 ≤ r → g.cause = 0 → g.stopAt = some b → b ≤ s.now11 → s.recs.scope = 0 → g.timersHeld = [] →
      (g.tgt = g.step ∨ s.pins.holdover = true ∨ s.mgt.hold = true → exec (.regionRestart r) s = .next (s.modRegion r (fun g => { g with
        stopAt := none, cyc := g.cyc + 1, frac := 0, net := g.net + 1, nfrac := 0, since := s.now11
        total := satAdd g.total ((s.now11 - b) / 11), reached := false }))) ∧
      (g.changing = false → g.tgt ≠ g.step → s.pins.holdover = false → s.mgt.hold = false → ∃ t, exec (.regionRestart r) s = .next t ∧
        { t with regions := s.regions } = s ∧ (∀ i, i ≠ r → t.region i = s.region i) ∧ (t.region r).changing = true ∧
        (t.region r).goal = g.tgt ∧ (t.region r).cause = 1))) ∧
  (∀ (s : State) (temps : List (BitVec 8)), s.Canonical → s.running = true → (∀ j, s.job j = none) →
    (s.beacon % 100 = 0 → ∃ t, exec .beaconPulse s = .next t ∧ { t with ports := s.ports } = s ∧
      ∀ q, t.port q = if (s.port q).state = 0 then s.port q else { s.port q with alignDue := true }) ∧
    (s.beacon % 100 ≠ 0 → exec .beaconPulse s = .next s) ∧
    (s.beacon % 1000 ≠ 0 → exec (.temperatureSample temps) s = .next s) ∧
    (s.beacon % 1000 = 0 → ∃ t, exec (.temperatureSample temps) s = .next t ∧ { t with regions := s.regions, log := s.log } = s ∧
      (∀ r, (72 ≤ r ∨ temps.length ≤ r) → t.region r = s.region r) ∧
      ∀ r x, r < 72 → temps[r]? = some x → (t.region r).temp = x ∧ (t.region r).step = (s.region r).step ∧
        (t.region r).cause = (if s.recs.ttrip ≤ x.toNat then (s.region r).cause ||| 4
          else if x.toNat + 5 < s.recs.ttrip then (s.region r).cause &&& 0x1B else (s.region r).cause)) ∧
    (s.pins.holdover = false → exec .refclkLost s = .next (State.raise { s with pins := { s.pins with refPresent := false, holdover := true } }
      ⟨0x4501, clsContained, none, none, none, 0⟩)) ∧
    (s.pins.holdover = true → (∀ r, (s.region r).tgt = (s.region r).step) → exec .refclkBack s = .next (State.raise { s with pins := { s.pins with refPresent := true, holdover := false } }
      ⟨0x4502, clsNote, none, none, none, 0⟩)))

/-! ### Power, boot and management -/

/-- RESET_RELEASE, NRST, MGT_RESET, POWER_LOSS, PWR_RANGE, PWR_OVERLIMIT and FLICKER_HEALTH (R105, R345, R373, R381, R384 to R386): a reset leaves only the
fuses, the configuration memory, the DIMMs and the sideband; a loss of power takes the DIMMs too. -/
def Obligations.PowerAndReset : Prop :=
  ∀ (s : State) (low mv ma us : Nat) (half die test : Bool) (v i w : BitVec 16), s.Canonical →
    (s.running = true → exec .resetRelease s = .next s) ∧
    (s.pins.inReset = true → exec .resetRelease s = .next { s with pins := { s.pins with
      powered := true, inReset := false, warmNext := false, warmBoot := s.pins.powered && s.pins.warmNext } }) ∧
    (low < 1000 → exec (.nrst low) s = .next s) ∧
    (s.pins.powered = true → 10000 ≤ low → ∃ t, exec (.nrst low) s = .next t ∧ t.running = false ∧ t.pins.powered = true ∧
      t.pins.warmNext = (!s.pins.outside && (!s.pins.inReset || s.pins.warmNext)) ∧ t.pins.outside = s.pins.outside ∧
      { t with pins := State.reset.pins, fuses := State.reset.fuses } =
        { State.reset with nor := s.nor, free := s.free, pending := s.pending, mem := { State.reset.mem with ddr := s.mem.ddr } } ∧
      { t.fuses with tblStat := s.fuses.tblStat } = s.fuses) ∧
    (s.holds half = true → s.running = true → exec (.mgtReset half 0x52534554) s = exec (.nrst 10000) s) ∧
    (∀ x : BitVec 32, x ≠ 0x52534554 → exec (.mgtReset half x) s = .next s) ∧
    (s.pins.powered = true → (mv < 38000 ∨ 63000 < mv) → 10 ≤ us → ∃ t, exec (.powerLoss mv ma us) s = .next t ∧ t.pins.powered = false ∧
      t.running = false ∧ { t with pins := State.reset.pins, fuses := State.reset.fuses } =
        { State.reset with nor := s.nor, free := s.free, pending := s.pending } ∧ { t.fuses with tblStat := s.fuses.tblStat } = s.fuses) ∧
    (38000 ≤ mv → mv ≤ 63000 → ma ≤ 80000 → exec (.powerLoss mv ma us) s = .next s) ∧
    (40000 ≤ mv → mv ≤ 60000 → exec (.pwrRange mv us) s = .next s) ∧
    (s.running = true → (∀ j, s.job j = none) → (38000 ≤ mv ∧ mv < 40000) ∨ (60000 < mv ∧ mv ≤ 63000) → 10 ≤ us → exec (.pwrRange mv us) s = .next
      (State.raise { s with pins := { s.pins with inRange := false, outside := true, warmNext := false } }
        ⟨0x4002, clsContained, none, none, none, mv / 10⟩)) ∧
    (s.running = true → w.toNat ≤ s.recs.plim → exec (.pwrOverlimit v i w) s = .next { s with pins := { s.pins with
      vin := v, iin := i, pin := w, peak := if s.pins.peak < w then w else s.pins.peak, isOver := false
      inRange := decide (4000 ≤ v.toNat) && decide (v.toNat ≤ 6000)
      outside := decide (v.toNat < 4000) || decide (6000 < v.toNat) } }) ∧
    (s.running = true → s.recs.plim < w.toNat → s.pins.overTick = none → ∃ t, exec (.pwrOverlimit v i w) s = .next t ∧
      { t with pins := s.pins, log := s.log } = s ∧ t.pins.isOver = true ∧ t.pins.overTick = some s.beacon ∧
      t.log = s.log.raise s.now11 (s.evRecord ⟨0x4003, clsNote, none, none, none, w.toNat + 2 ^ 16 * s.recs.plim⟩)) ∧
    (s.running = true → exec (.flickerHealth die test) s = .next (State.raise { s with mgt := { s.mgt with
        flickerBad := (s.mgt.flickerBad.1 || !die, s.mgt.flickerBad.2 || die) } }
      ⟨0x3201, clsDevice, none, none, none, b2n die + 2 * b2n test⟩))

/-- BOOT (R338 to R342) of a device out of reset whose command area is erased: it stops at the first step that fails, and with every step done it is
ready at a multiple of 100 ticks, with the record set in force, the senior half leading and the near tier wiped. -/
def Obligations.BootsRunOrStop : Prop :=
  ∀ (s : State) (b : BootInput) (d : Directory) (f o : Signed) (r : RecordSet), s.Canonical → s.running = true → s.ready = false →
    s.mgt.bootStat = 0 →
    (readDirectory s.nor = none → exec (.boot b) s = .next { s with
      mgt := { s.mgt with bootStat := 0x11 }, pins := { s.pins with refPresent := !s.pins.holdover } }) ∧
    (readDirectory s.nor = some d → readCommand s.nor = none →
      (s.fuses.life = 4 → exec (.boot b) s = .next { s with
        mgt := { s.mgt with bootStat := 0x62 }, pins := { s.pins with refPresent := !s.pins.holdover } }) ∧
      (s.fuses.life ≠ 4 → s.readObject true false = none → s.readObject true true = none → exec (.boot b) s = .next { s with
        mgt := { s.mgt with bootStat := 0x22 }, pins := { s.pins with refPresent := !s.pins.holdover } }) ∧
      (s.fuses.life ≠ 4 → s.readObject true (d.sel.getLsbD 0) = some f → s.readRecordCopy false = none → s.readRecordCopy true = none →
        ∃ t, exec (.boot b) s = .next t ∧ t.ready = false ∧ field t.mgt.bootStat 7 0 = 0x33) ∧
      (s.fuses.life ≠ 4 → s.readObject true (d.sel.getLsbD 0) = some f → s.readRecordCopy (d.sel.getLsbD 1) = some (o, r) →
        (b.ponOk = false → ∃ t, exec (.boot b) s = .next t ∧ t.ready = false ∧ field t.mgt.bootStat 7 0 = 0x44) ∧
        (b.ponOk = true → b.hostLanes = 0xFF →
          (b.hbmOk = false → ∃ t, exec (.boot b) s = .next t ∧ t.ready = false ∧ field t.mgt.bootStat 7 0 = 0x57) ∧
          (b.hbmOk = true → ∃ t, exec (.boot b) s = .next t ∧ t.ready = true ∧ field t.mgt.bootStat 7 0 = 0x0A ∧
            t.mgt.bootStat.getLsbD 8 = d.sel.getLsbD 0 ∧ t.mgt.bootStat.getLsbD 9 = d.sel.getLsbD 1 ∧
            t.beacon % 100 = 0 ∧ s.beacon ≤ t.beacon ∧ t.beacon < s.beacon + 100 ∧ t.round0 = t.beacon ∧ t.recs = r.recs ∧
            t.pon = BitVec.ofNat 32 (nextCount s.nor) ∧ t.mgt.holder = s.fuses.seniorSouth ∧ t.mgt.leaseValid = true ∧
            t.mem.hbm = [] ∧ t.mem.shelf = [] ∧ (s.pins.warmBoot = false → t.mem.ddr = []))))) ∧
    (∀ s' : State, s'.ready = true → exec (.boot b) s' = .next s')

/-- LIFE_CYCLE_COMMAND and RECORD_STAGING (R340, R344), FIRMWARE_UPDATE and UPDATE_FAILED (R357, R358): what each writes into the configuration memory, and
what the halves then run. An update reloads first the half that follows, then the one that led; each has 2 s to become healthy. That
the update goes on one half at a command is the model's choice (assumption 44). -/
def Obligations.StagingAndUpdates : Prop :=
  ∀ (s : State) (cmd img : List Byte) (o : Signed) (copy spare : Bool), s.Canonical → s.ready = true → s.mgt.leaseValid = true →
    s.pins.i3cFault = false → s.pins.i3cAddr ≠ none → s.pins.xspiFault = false → copy = !s.mgt.bootStat.getLsbD 9 → spare = !s.mgt.bootStat.getLsbD 8 →
    (∃ t, exec (.lifeCycleCommand cmd) s = .next t ∧ { t with nor := s.nor } = s ∧
      ∀ a, norGet t.nor a = if 0x30000 ≤ a ∧ a < 0x31000 then (if a - 0x30000 < 484 then (cmd[a - 0x30000]?).getD 0xFF else 0xFF)
        else norGet s.nor a) ∧
    (∀ s1 : State, { s1 with nor := s.nor } = s →
      (∀ a, norGet s1.nor a = if recordArea copy ≤ a ∧ a < recordArea copy + 0x800000 then (img[a - recordArea copy]?).getD 0xFF else norGet s.nor a) →
      SMap.wf 0xFF s1.nor = true →
      (s1.readRecordCopy copy = none → exec (.recordStaging img) s = .next s1) ∧
      (∀ x d, s1.readRecordCopy copy = some x → readDirectory s1.nor = some d → exec (.recordStaging img) s = .next { s1 with
        nor := writeDirectory s1.nor ⟨!d.copy, d.seq + 1, selBit d.sel 1 copy⟩ })) ∧
    (s.mgt.update = none → s.mgt.north = { s.mgt.north with health := true, reload := false } →
      s.mgt.south = { s.mgt.south with health := true, reload := false } →
      (∀ d, (s.stageSlot img).readObject true spare = none → readDirectory (s.stageSlot img).nor = some d →
        exec (.firmwareUpdate img) s = exec (.updateFailed img false) s ∧ ∃ t, exec (.firmwareUpdate img) s = .next t ∧
          { t with nor := s.nor, log := s.log } = s ∧
          t.nor = writeDirectory (s.stageSlot img).nor ⟨!d.copy, d.seq + 1, selBit d.sel (2 + b2n spare) true⟩ ∧
          t.log = s.log.raise s.now11 (s.evRecord ⟨0x3305, clsNote, none, none, none, rdLe img 8 4⟩)) ∧
      ((s.stageSlot img).readObject true spare = some o → exec (.updateFailed img false) s = .next s ∧
        ∃ t, exec (.firmwareUpdate img) s = .next t ∧ { t with mgt := s.mgt } = s.stageSlot img ∧ t.mgt.holder = s.mgt.holder ∧
          t.mgt.half s.mgt.holder = s.mgt.half s.mgt.holder ∧ (t.mgt.half !s.mgt.holder).health = false ∧
          (t.mgt.half !s.mgt.holder).reload = true ∧ t.mgt.update = some ⟨false, o.version.toNat, s.beacon, false⟩)) ∧
    (∀ u : Update, s.mgt.update = some u → s.adm.current = none → s.readObject true spare = some o →
      (u.second = false → ∃ t, exec (.firmwareUpdate img) s = .next t ∧ { t with mgt := s.mgt } = s ∧ t.mgt.holder = (!s.mgt.holder) ∧
        (t.mgt.half !s.mgt.holder).fwver = o.version ∧ (t.mgt.half !s.mgt.holder).digest = o.digest ∧
        (t.mgt.half !s.mgt.holder).health = true ∧ (t.mgt.half !s.mgt.holder).reload = false ∧
        (t.mgt.half s.mgt.holder).health = false ∧ (t.mgt.half s.mgt.holder).reload = true ∧
        t.mgt.update = some ⟨true, u.version, s.beacon, false⟩) ∧
      (u.second = true → ∃ t, exec (.firmwareUpdate img) s = .next t ∧ { t with mgt := s.mgt, nor := s.nor, log := s.log } = s ∧
        t.mgt.holder = (!s.mgt.holder) ∧ t.mgt.update = none ∧ (t.mgt.half !s.mgt.holder).fwver = o.version ∧
        (t.mgt.half !s.mgt.holder).health = true ∧ t.mgt.bootStat.getLsbD 8 = spare ∧
        (∀ d, readDirectory s.nor = some d → t.nor = writeDirectory s.nor
          ⟨!d.copy, d.seq + 1, selBit (selBit d.sel 0 spare) (2 + b2n spare) false⟩) ∧
        t.log = s.log.raise s.now11 (s.evRecord ⟨0x3304, clsNote, none, none, none, u.version⟩))) ∧
    (∀ u : Update, s.mgt.update = some u →
      (s.beacon < u.since + 200000000 → exec (.updateFailed img u.second) s = .next s) ∧
      (u.since + 200000000 ≤ s.beacon → u.second = false → ∃ t, exec (.updateFailed img false) s = .next t ∧
        { t with mgt := s.mgt, nor := s.nor, log := s.log } = s ∧ t.mgt.update = none ∧
        ((s.mgt.half !s.mgt.holder).reload = true →
          (t.mgt.half !s.mgt.holder).health = true ∧ (t.mgt.half !s.mgt.holder).fwver = (s.mgt.half !s.mgt.holder).fwver) ∧
        t.log = s.log.raise s.now11 (s.evRecord ⟨0x3305, clsNote, none, none, none, u.version + 2 ^ 32 * b2n (!s.mgt.holder)⟩)) ∧
      (u.since + 200000000 ≤ s.beacon → u.second = true → u.retried = false → exec (.updateFailed img true) s =
        .next { s with mgt := { s.mgt with update := some ⟨true, u.version, s.beacon, true⟩ } }) ∧
      (u.since + 200000000 ≤ s.beacon → u.second = true → u.retried = true → ∃ t, exec (.updateFailed img true) s = .next t ∧
        { t with mgt := s.mgt, nor := s.nor, log := s.log } = s ∧ t.mgt.update = none ∧ t.mgt.holder = s.mgt.holder ∧
        (t.mgt.half !s.mgt.holder).health = (s.mgt.half !s.mgt.holder).health ∧ t.mgt.bootStat.getLsbD 8 = spare ∧
        t.log = s.log.raise s.now11 (s.evRecord ⟨0x3304, clsNote, none, none, none, u.version⟩)))

/-- LEASE_HANDOVER, LEASE_CLAIM, HALF_UNHEALTHY, LEASE_DISPUTE, LEADER_CHANGE and NO_LEADER (R353 to R355) of a ready device with no submission and no
frame waiting: the holder hands the lease over or renews it; after 50,000 ticks without renewal a healthy half takes it, the senior
half before the other; a dispute begins a hold of at most 100,000 ticks, after which the senior half leads if it is healthy. -/
def Obligations.HalvesLead : Prop :=
  ∀ (s : State) (h wd north south both : Bool) (senior : Bool), s.Canonical → s.ready = true → senior = s.fuses.seniorSouth →
    s.adm.current = none → s.adm.waiting = [] → s.adm.loading = none → s.host.heldFrames = [] →
    (s.mgt.leaseValid = true → s.mgt.holder = h → ∃ t, exec (.leaseHandover h (!h)) s = .next t ∧ { t with mgt := s.mgt } = s ∧
      t.mgt.holder = (!h) ∧ t.mgt.leaseValid = true ∧ t.mgt.renewed = s.beacon ∧ t.mgt.handover = false ∧ (t.mgt.half (!h)).role = 2) ∧
    (s.mgt.leaseValid = true → s.mgt.holder = h → exec (.leaseHandover h h) s = .next { s with mgt := { s.mgt with renewed := s.beacon } }) ∧
    (s.mgt.holder = (!h) → exec (.leaseHandover h wd) s = .next s) ∧
    (s.mgt.leaseValid = true → s.beacon < s.mgt.renewed + 50000 → exec (.leaseClaim north south) s = .next s) ∧
    (s.mgt.leaseValid = true → s.mgt.renewed + 50000 ≤ s.beacon → north = s.canClaim false → south = s.canClaim true →
      (north || south) = true → ∃ t, exec (.leaseClaim north south) s = .next t ∧ { t with mgt := s.mgt } = s ∧
        t.mgt.holder = (if north && south then senior else south) ∧ t.mgt.leaseValid = true ∧ t.mgt.renewed = s.beacon) ∧
    ((s.mgt.half h).health = true → (wd = true → (s.mgt.half h).beat + 20000 ≤ s.beacon) →
      exec (.halfUnhealthy h wd) s = .next (State.raise (s.modHalf h (fun x => { x with health := false })) ⟨0x3403, clsDevice, none, none, none, b2n h⟩)) ∧
    ((s.mgt.half h).health = true → s.beacon < (s.mgt.half h).beat + 20000 → exec (.halfUnhealthy h true) s = .next s) ∧
    (s.mgt.leaseValid = true → s.mgt.update = none → (both = true ∨ s.mgt.renewed + 50000 ≤ s.beacon) → exec (.leaseDispute both) s = .next
      (State.raise { s with mgt := { s.mgt with
        disputeFrom := s.beacon, told := false, leaseValid := false, handover := false, hold := true, holdFrom := s.beacon
        north := { s.mgt.north with posted := false, role := 0 }, south := { s.mgt.south with posted := false, role := 0 } } }
        ⟨0x3401, clsNote, none, none, none, 0⟩)) ∧
    (s.mgt.hold = true → s.beacon < s.mgt.holdFrom + 100000 → (s.mgt.north.posted && s.mgt.south.posted) = false →
      exec .leaderChange s = .next s) ∧
    (s.mgt.hold = true → (s.mgt.holdFrom + 100000 ≤ s.beacon ∨ (s.mgt.north.posted = true ∧ s.mgt.south.posted = true)) →
      ((s.mgt.half senior).health = true ∨ (s.mgt.half (!senior)).health = true) → (∀ r, (s.region r).tgt = (s.region r).step) →
      ∃ (t : State) (lead : Bool), exec .leaderChange s = .next t ∧ { t with mgt := s.mgt, log := s.log } = s ∧
        lead = (if (s.mgt.half senior).health then senior else !senior) ∧ t.mgt.holder = lead ∧ t.mgt.hold = false ∧ t.mgt.leaseValid = true ∧
        t.log = s.log.raise s.now11 (s.evRecord ⟨0x3402, clsNote, none, none, none, b2n lead⟩)) ∧
    (s.mgt.hold = true → s.mgt.told = false → s.mgt.disputeFrom + 1000000 < s.beacon → exec .noLeader s = .next
      (State.raise { s with mgt := { s.mgt with told := true } } ⟨0x3404, clsDevice, none, none, none, 0⟩)) ∧
    (s.beacon ≤ s.mgt.disputeFrom + 1000000 → exec .noLeader s = .next s)

/-! ### Attestation and the sideband -/

/-- The device with response `r` sent over MCTP, and its connection of that path changed to `c`. -/
def Sys2Proof.mctpAnswered (s : State) (c : SpdmCon) (r : List Byte) : State :=
  { s with mgt := { s.mgt with mctpCon := c, spdmOut := s.mgt.spdmOut ++ [r] } }

/-- The SPDM responder over MCTP (R349 to R351), of a message `m` whose code is the row's: GET_VERSION begins a connection of version 1.3, the algorithms must
include P-521 and SHA-512, GET_DIGESTS, GET_CERTIFICATE, CHALLENGE and GET_MEASUREMENTS need a negotiated connection, GET_CSR and
SET_CERTIFICATE the PROVISIONED state; every other request is answered by ERROR. An ATTEST frame carries the same over the host port. -/
def Obligations.RequestsAreAnswered : Prop :=
  ∀ (s : State) (m : List Byte) (c : SpdmCon) (cert : List Byte), s.Canonical → s.ready = true → s.pins.i3cFault = false →
    s.pins.i3cAddr.isSome = true → s.mgt.hold = false → c = s.mgt.mctpCon →
    (rdLe m 1 1 = 0x84 → exec (.getVersion (.mctp m)) s = .next (mctpAnswered s
      { state := 1, vca := m ++ [0x10, 4, 0, 0, 0, 1, 0, 0x13], certs := [], meas := [] } [0x10, 4, 0, 0, 0, 1, 0, 0x13])) ∧
    (rdLe m 1 1 = 0xE1 → rdLe m 0 1 = 0x13 → c.state ≠ 0 → ∃ r, exec (.getCapabilities (.mctp m)) s =
      .next (mctpAnswered s { c with vca := c.vca ++ m ++ r } r) ∧ r.take 2 = [0x13, 0x61]) ∧
    (rdLe m 1 1 = 0xE3 → rdLe m 0 1 = 0x13 → c.state ≠ 0 →
      ((rdLe m 8 4).testBit 8 = true → (rdLe m 12 4).testBit 2 = true → ∃ r, exec (.negotiateAlgorithms (.mctp m)) s =
        .next (mctpAnswered s { c with state := 2, vca := c.vca ++ m ++ r } r) ∧ r.length = 36 ∧ r.take 2 = [0x13, 0x63]) ∧
      ((rdLe m 8 4).testBit 8 = false → exec (.negotiateAlgorithms (.mctp m)) s = .next (mctpAnswered s c [0x13, 0x7F, 1, 0]))) ∧
    (rdLe m 1 1 = 0xE3 → rdLe m 0 1 = 0x12 → exec (.negotiateAlgorithms (.mctp m)) s = .next (mctpAnswered s c [0x13, 0x7F, 0x41, 0])) ∧
    (rdLe m 1 1 = 0x81 → rdLe m 0 1 = 0x13 → c.state.toNat ≤ 1 → exec (.getDigests (.mctp m)) s = .next (mctpAnswered s c [0x13, 0x7F, 4, 0])) ∧
    (rdLe m 0 1 = 0x13 → 2 ≤ c.state.toNat → certificate s.nor = some cert →
      (rdLe m 1 1 = 0x81 → ∃ r, exec (.getDigests (.mctp m)) s = .next (mctpAnswered s { c with certs := c.certs ++ m ++ r } r) ∧
        r = [0x13, 0x01, 1, 1] ++ natLe 64 (sha512 cert).toNat) ∧
      (rdLe m 1 1 = 0x82 → rdLe m 2 1 = 0 → rdLe m 4 2 < cert.length → ∃ r, exec (.getCertificate (.mctp m)) s =
        .next (mctpAnswered s { c with certs := c.certs ++ m ++ r } r) ∧ r.drop 8 = (cert.drop (rdLe m 4 2)).take (rdLe m 6 2)) ∧
      (rdLe m 1 1 = 0x83 → rdLe m 2 1 = 0 → ∃ (r sig : List Byte), exec (.challenge (.mctp m)) s = .next
        { mctpAnswered s { c with certs := [] } (r ++ sig) with
          free := s.free + 14, mgt := { s.mgt with mctpCon := { c with certs := [] }, spdmOut := s.mgt.spdmOut ++ [r ++ sig]
                                                   sigCount := satIncr s.mgt.sigCount } } ∧
        (∃ k, sig = ecdsaSign s.fuses.scalar k (sha512 (signedMessage useChallenge (c.vca ++ c.certs ++ m ++ r)))) ∧
        r.take 68 = [0x13, 0x03, 0, 1] ++ natLe 64 (sha512 cert).toNat) ∧
      (rdLe m 1 1 = 0xE0 → rdLe m 3 1 = 0xFF → (byteAt m 2).getLsbD 0 = false → ∃ r, exec (.getMeasurements (.mctp m)) s = .next
        { mctpAnswered s { c with meas := c.meas ++ m ++ r } r with free := s.free + 4 } ∧ r.take 5 = [0x13, 0x60, 0, 0, 11] ∧
        (r.drop 8).take s.measurements.flatten.length = s.measurements.flatten)) ∧
    (s.fuses.life = 1 → rdLe m 0 1 = 0x13 → 2 ≤ c.state.toNat →
      (rdLe m 1 1 = 0xED → ∃ (r : List Byte) (k : Nat), exec (.getCsr (.mctp m)) s = .next { mctpAnswered s c r with
        free := s.free + 10, mgt := { s.mgt with spdmOut := s.mgt.spdmOut ++ [r], sigCount := satIncr s.mgt.sigCount } } ∧
        r.drop 8 = signedRequest s.fuses.scalar k Config.csrSubject Config.csrAttributes) ∧
      (rdLe m 1 1 = 0xEE → rdLe m 2 1 % 16 = 0 → m.drop 4 ≠ [] → m.length ≤ 65536 → leafKey (m.drop 4) = some s.publicKey →
        s.pins.xspiFault = false → ∃ t, exec (.setCertificate (.mctp m)) s = .next t ∧ { t with nor := s.nor, mgt := s.mgt } = s ∧
          certificate t.nor = some (m.drop 4) ∧ t.mgt.certOk = true ∧ t.mgt.spdmOut = s.mgt.spdmOut ++ [[0x13, 0x6E, 0, 0]]) ∧
      (rdLe m 1 1 = 0xEE → m.drop 4 ≠ [] → leafKey (m.drop 4) ≠ some s.publicKey →
        exec (.setCertificate (.mctp m)) s = .next (mctpAnswered s c [0x13, 0x7F, 1, 0]))) ∧
    (s.fuses.life ≠ 1 → rdLe m 1 1 = 0xED → exec (.getCsr (.mctp m)) s = .next (mctpAnswered s c [0x13, 0x7F, 7, 0xED])) ∧
    (rdLe m 1 1 ∉ [0x81, 0x82, 0x83, 0x84, 0xE0, 0xE1, 0xE3, 0xED, 0xEE] →
      exec (.unsupportedRequest (.mctp m)) s = .next (mctpAnswered s c [0x13, 0x7F, 7, BitVec.ofNat 8 (rdLe m 1 1)])) ∧
    (∀ f : HostFrame, FrameTaken s 9 0 f → f.job = 0xFF → rdLe f.body 1 1 = 0x84 → exec (.getVersion (.host f)) s =
      .next (replied { s with mgt := { s.mgt with hostCon :=
        { state := 1, vca := f.body ++ [0x10, 4, 0, 0, 0, 1, 0, 0x13], certs := [], meas := [] } } } 9 f 0 [0x10, 4, 0, 0, 0, 1, 0, 0x13]))

/-- The sideband pins (R373, R389) and the test port (R391): the I3C target takes an address once; a line fault is recorded and tried again every 100 ms;
the test port takes an instruction while there is power and TRST_N is high, and none of its instructions changes the device. -/
def Obligations.SidebandAndTestPort : Prop :=
  ∀ (s : State) (addr stat : BitVec 7) (line : BitVec 4) (sda high cleared : Bool) (balls load : List Bool), s.Canonical →
    (s.running = true → s.pins.i3cFault = false →
      (s.pins.i3cAddr = none → exec (.entdaa addr) s = .next { s with pins := { s.pins with i3cAddr := some addr } }) ∧
      (s.pins.i3cAddr = none → exec (.setdasa 0x3A addr) s = .next { s with pins := { s.pins with i3cAddr := some addr } }) ∧
      (s.pins.i3cAddr ≠ none ∨ stat ≠ 0x3A → exec (.setdasa stat addr) s = .next s) ∧
      (s.pins.i3cAddr ≠ none → exec (.entdaa addr) s = .next s) ∧
      exec (.i3cFault sda high) s = .next (State.raise { s with pins := { s.pins with i3cFault := true, i3cTick := s.beacon } }
        ⟨0x4601, clsNote, none, none, none, b2n sda + 2 ^ 4 * b2n high⟩)) ∧
    (s.running = true → s.pins.i3cFault = true →
      (s.pins.i3cTick + 10000000 ≤ s.beacon → exec (.i3cBusRetry cleared) s = .next { s with pins := { s.pins with
        i3cFault := !cleared, i3cTick := if cleared then s.pins.i3cTick else s.beacon } }) ∧
      (s.beacon < s.pins.i3cTick + 10000000 → exec (.i3cBusRetry cleared) s = .next s)) ∧
    (s.running = true → s.ready = true → s.pins.xspiFault = false → line.toNat ≤ 11 → exec (.xspiFault line high) s = .next
      (State.raise { s with pins := { s.pins with xspiFault := true } } ⟨0x4602, clsNote, none, none, none, line.toNat + 2 ^ 4 * b2n high⟩)) ∧
    (s.running = true → s.pins.alertFault = false → exec (.alertFault high) s = .next
      (State.raise { s with pins := { s.pins with alertFault := true } } ⟨0x4603, clsNote, none, none, none, 2 ^ 4 * b2n high⟩)) ∧
    (s.pins.powered = true → s.pins.tapReset = false →
      exec .bypass s = .next { s with pins := { s.pins with tapInstr := 15, tapData := [false], driven := [] } } ∧
      (∃ v : BitVec 32, exec .idcode s = .next { s with pins := { s.pins with
          tapInstr := 1, tapData := (List.range 32).map (fun i => v.getLsbD i), driven := [] } } ∧
        v.extractLsb' 28 4 = s.fuses.stepping ∧ v.extractLsb' 12 16 = 0x58A8 ∧ v.extractLsb' 1 11 = 0x2D7 ∧ v.getLsbD 0 = true) ∧
      exec (.samplePreload balls load) s = .next { s with pins := { s.pins with
        tapInstr := 2, tapData := chainOf balls, driven := [], boundary := chainOf load } } ∧
      ∃ (n : Nat) (levels : List Bool), levels.length = chainLength ∧ exec .extest s = .next { s with
        free := n, pins := { s.pins with tapInstr := 0, tapData := levels, driven := s.pins.boundary } }) ∧
    (s.pins.tapReset = true → exec .bypass s = .next s ∧ exec .idcode s = .next s ∧ exec .extest s = .next s ∧
      exec (.samplePreload balls load) s = .next s) ∧
    exec (.trstN true) s = .next { s with pins := { s.pins with tapReset := true, tapInstr := 1, tapData := [], driven := [] } } ∧
    exec (.trstN false) s = .next { s with pins := { s.pins with tapReset := false } }

/-! ### Faults, the event log, registers by address -/

/-- CORE_FAILED, DLR_FAILED, SPARE_SUBSTITUTION and BOUND_VIOLATION (R34, R362, R366 to R370, R374): a core that fails on a table without a job sets FAULT for
the table's region and sends the table to repair, where the lowest tested spare takes its place (FAULT then lasts until the table is
back in service: assumption 65); a dealer that fails takes its table out of service, and a core failure of the same cycle out of the
log; a job that passes its bound is marked, and its host told. -/
def Obligations.UnitsFail : Prop :=
  ∀ (s : State) (t c lc : Nat) (chk : BitVec 2), s.Canonical → t < 64 → c < 34 → s.running = true → lc = s.logCore t c →
    (field (s.pcore t c) 1 0 = 0 → s.outOfService t = false → lc ∉ (s.table t).failed → (s.table t).job = none →
      ∃ u, exec (.coreFailed t c chk) s = .next u ∧
        { u with tables := s.tables, cores := s.cores, regions := s.regions, mem := s.mem, fuses := s.fuses, log := s.log } = s ∧
        (u.region t).cause = (s.region t).cause ||| 0x10 ∧ (∀ i, i ≠ t → u.region i = s.region i) ∧ u.mem.hbm = s.mem.hbm ∧
        u.mem.ddr = s.mem.ddr ∧ u.mem.shelf = s.mem.shelf ∧ (∀ k, (u.core k).spd = (s.core k).spd) ∧
        u.table t = { s.table t with failed := (s.table t).failed ++ [lc], landing := [] } ∧ (∀ i, i ≠ t → u.table i = s.table i) ∧
        field (u.tblStat (s.logTable t)) 1 0 = 1 ∧ (∀ n, n ≠ s.logTable t → u.tblStat n = s.tblStat n) ∧
        u.log = s.log.raise s.now11 (s.evRecord ⟨0x2001, clsContained, none, some t, some (s.logTable t),
          lc + 2 ^ 6 * c + 2 ^ 12 * chk.toNat⟩)) ∧
    (field (s.pcore t c) 1 0 ≠ 0 → exec (.coreFailed t c chk) s = .next s) ∧
    (s.outOfService t = false → (s.table t).job = none → ∃ u, exec (.dlrFailed t chk) s = .next u ∧
      { u with tables := s.tables, cores := s.cores, regions := s.regions, mem := s.mem, fuses := s.fuses, log := s.log } = s ∧
      field (u.tblStat (s.logTable t)) 1 0 = 2 ∧ (u.tblStat (s.logTable t)).getLsbD 8 = true ∧ (u.region t).cause.getLsbD 4 = true ∧
      (u.table t).failed = [] ∧ (∀ i, i ≠ t → u.table i = s.table i) ∧
      u.log = (s.log.unraise s.now11 (fun r => field r 15 0 == 0x2001 && field r 38 32 == t)).raise s.now11 (s.evRecord
        ⟨0x1001, clsTable, none, some t, some (s.logTable t), chk.toNat + 2 ^ 2 * (s.shownSeq t).pc.toNat⟩)) ∧
    (s.outOfService t = true → exec (.dlrFailed t chk) s = .next s) ∧
    (∀ old sp rest, field (s.tblStat (s.logTable t)) 1 0 = 1 → (s.table t).failed = [lc] → lc < 34 → s.physCore t lc = some old →
      (List.range 34).filter (fun x => field (s.pcore t x) 1 0 == 1) = sp :: rest →
      ∃ u, exec (.spareSubstitution t lc []) s = .next u ∧
        { u with tables := s.tables, regions := s.regions, fuses := s.fuses, log := s.log } = s ∧
        (∀ i, i ≠ t → u.region i = s.region i) ∧
        (u.region t).cause = (if (s.table t).job = none then (s.region t).cause &&& 0x0F else (s.region t).cause) ∧
        u.pcore t old = 2 ∧ u.pcore t sp = BitVec.ofNat 8 (4 * lc) ∧ (∀ x, x ≠ old → x ≠ sp → u.pcore t x = s.pcore t x) ∧
        field (u.tblStat (s.logTable t)) 1 0 = 0 ∧ (u.table t).failed = [] ∧
        u.log = s.log.raise s.now11 (s.evRecord ⟨0x1003, clsNote, none, some t, some (s.logTable t), lc + 2 ^ 6 * sp⟩)) ∧
    ((s.table t).failed = [] → exec (.spareSubstitution t lc []) s = .next s) ∧
    (∀ j b, j < 64 → s.job j = some b → b.state = .running → b.violated = false → (s.qp (256 + j)).state = 1 → s.host.link = true →
      (s.beacon ≤ b.stamp + b.bound + s.hostTime b + s.pausedTime b → exec (.boundViolation j) s = .next s) ∧
      (b.stamp + b.bound + s.hostTime b + s.pausedTime b < s.beacon → s.recs.boundAbort = false →
        ∃ u, exec (.boundViolation j) s = .next u ∧ { u with jobs := s.jobs, log := s.log, host := s.host } = s ∧
          u.job j = some { b with violated := true } ∧ (∀ i, i ≠ j → u.job i = s.job i) ∧
          u.host = { s.host with tx := s.host.tx ++ [.frame (BitVec.ofNat 24 (256 + j)) 0xC3 0 (BitVec.ofNat 8 j) 0
            (natLe 8 0x1201 ++ natLe 8 s.beacon)] } ∧
          u.log = s.log.raise s.now11 (s.evRecord ⟨0x1201, clsContained, some j, none, none, b.bound⟩)))

/-- Registers and memories by physical address (R7, R20, R180, R310, R330, R364, R400, R401) of a ready device: a counter, a channel count and a core register
hold what is written to them, a table counter only while no task runs, a channel count with what the port counted up in the same cycle
on top; a read of a _LO register latches its upper half (a _HI register with such a value shows it: assumption 66); the event log's
tail moves; bytes of the near and the far tier are stored where no granule holds an error; an absent table raises ABSENT_UNIT
(0x1040). -/
def Obligations.RegistersByAddress : Prop :=
  ∀ (s : State) (a : Nat) (v : BitVec 32) (t q n : Nat) (data : List Byte), s.Canonical → s.ready = true → s.running = true → t < 64 →
    q < 16 → exec (.evtTailWrite v) s = .next { s with log := { s.log with tail := v.extractLsb' 0 10 } } ∧
    (∃ u, exec (.latchingRead (BitVec.ofNat 52 bcnBase)) s = .next u ∧ { u with latch := s.latch } = s ∧
      u.readWord (bcnBase + 4) = BitVec.ofNat 32 (s.beacon / 2 ^ 32) ∧ ∀ b, b ≠ bcnBase + 4 → u.readWord b = s.readWord b) ∧
    exec (.latchingRead (BitVec.ofNat 52 (bcnBase + 8))) s = .next s ∧
    (s.outOfService t = false → n < 256 →
      ((s.table t).run ≠ 1 → SMap.get none s.latch (synReg t (4 * n)) = none →
        ∃ u, exec (.registerWrite (BitVec.ofNat 52 (synReg t (4 * n))) v) s = .next u ∧
          u.readWord (synReg t (4 * n)) = v &&& 0xFFFFFF ∧ { u with tables := s.tables } = s ∧ (∀ i, i ≠ t → u.table i = s.table i)) ∧
      ((s.table t).run = 1 → exec (.registerWrite (BitVec.ofNat 52 (synReg t (4 * n))) v) s = .next s)) ∧
    (s.outOfService t = true → n < 1024 → exec (.registerWrite (BitVec.ofNat 52 (synReg t (4 * n))) v) s =
      .next (s.raise ⟨0x1040, clsNote, none, none, none, synReg t (4 * n) + 2 ^ 63⟩)) ∧
    (∃ u, exec (.registerWrite (BitVec.ofNat 52 (bxlBase (q / 8) + 0x100 + 0x40 * (q % 8) + 0xC)) v) s = .next u ∧
      u.port q = { s.port q with retry := BitVec.ofNat 32 (min 0xFFFFFFFF (v.toNat + s.marked (portReg q 3))) } ∧
      { u with ports := s.ports } = s ∧ ∀ i, i ≠ q → u.port i = s.port i) ∧
    (∀ k d w, k < 2176 → d < 4 → w < 8 → s.absent (.core k) = false → SMap.get none s.latch (coreReg k (0x200 + 0x20 * d + 4 * w)) = none →
      ∃ u, exec (.registerWrite (BitVec.ofNat 52 (coreReg k (0x200 + 0x20 * d + 4 * w))) v) s = .next u ∧ { u with csr := s.csr } = s ∧
        u.readWord (coreReg k (0x200 + 0x20 * d + 4 * w)) = v &&& taskRegMask (.hldDesc d w) ∧
        ∀ b, b ≠ coreReg k (0x200 + 0x20 * d + 4 * w) → (b ≠ coreReg k (0x280 + 4 * d) ∨ 2 ≤ w) → u.csrAt b = s.csrAt b) ∧
    (a + data.length ≤ 0x14000000000 → (∀ i < data.length, s.mem.hbmGone (a + i) = false ∧ s.mem.isBad .hbm ((a + i) / 32) = false) →
      ∃ u, exec (.physicalAddressWrite (BitVec.ofNat 52 a) data) s = .next u ∧ { u with mem := s.mem } = s ∧
        { u.mem with hbm := s.mem.hbm } = s.mem ∧
        ∀ x, SMap.get 0 u.mem.hbm x = if a ≤ x ∧ x < a + data.length then data.getD (x - a) 0 else SMap.get 0 s.mem.hbm x) ∧
    (a + data.length ≤ 0x40000000000 → (∀ i < data.length, s.mem.ddrGone (a + i) = false ∧ s.mem.isBad .ddr ((a + i) / 64) = false) →
      ∃ u, exec (.physicalAddressWrite (BitVec.ofNat 52 (0x100000000000 + a)) data) s = .next u ∧ { u with mem := s.mem } = s ∧
        { u.mem with ddr := s.mem.ddr } = s.mem ∧
        ∀ x, SMap.get 0 u.mem.ddr x = if a ≤ x ∧ x < a + data.length then data.getD (x - a) 0 else SMap.get 0 s.mem.ddr x)

/-! ### Single rules of the specification -/

/-- R71: a conversion whose result is a NaN, of a NaN, or of an overflow or an infinity where R81 gives a NaN, writes the canonical NaN of the
destination format. -/
def Obligations.CanonicalNans : Prop :=
  ∀ p ∈ ([(.f32, 0x7FC00000), (.f16, 0x7E00), (.bf16, 0x7FC0), (.e4m3, 0x7F), (.e5m2, 0x7E)] : List (Fmt × Nat)),
    ∀ (m : RMode) (sat : Bool),
      (∀ v, v = .nan ∨ p.1.decode (p.1.convert m sat v).bits = .nan → (p.1.convert m sat v).bits = p.2) ∧
      (∀ (sf : Fmt) (entry : Nat → BitVec 16) (x : Nat),
        (if sf = .c8 then Fmt.f16.decode (entry (x % 256)).toNat else sf.decode (x % 2 ^ sf.bits)) = .nan ∨
          p.1.decode (cvtLane sf p.1 m sat entry x).bits = .nan →
        (cvtLane sf p.1 m sat entry x).bits = p.2) ∧
      (∀ neg, (Fmt.e4m3.convert m false (.inf neg)).bits = 0x7F) ∧
      ∀ v, (Fmt.e4m3.convert .rne false v).ovf = true → (Fmt.e4m3.convert .rne false v).bits = 0x7F

/-- R61: each lane mask register holds one bit per lane, 1 meaning that the lane is fed, in a low and a high half at their offsets; it
reads and writes, and every bit is 1 at reset. -/
def Obligations.LaneMasks : Prop :=
  (∀ (s : State) (k n l : Nat), n < 2 → l < 64 →
    (l ∈ s.maskLanes k (BitVec.ofNat 2 (n + 1)) ↔ (s.csrAt (coreReg k (0x100 + 8 * n + 4 * (l / 32)))).getLsbD (l % 32) = true)) ∧
  (∀ (k n hi : Nat), k < 2176 → n < 2 → hi < 2 → State.reset.csrAt (coreReg k (0x100 + 8 * n + 4 * hi)) = 0xFFFFFFFF) ∧
  (∀ (s : State) (k n hi : Nat) (v : Word), s.Canonical → s.ready = true → k < 2176 → n < 2 → hi < 2 → s.absent (.core k) = false →
    SMap.get none s.latch (coreReg k (0x100 + 8 * n + 4 * hi)) = none → ∃ t, exec (.registerWrite (BitVec.ofNat 52 (coreReg k (0x100 + 8 * n + 4 * hi))) v) s = .next t ∧
      t.readWord (coreReg k (0x100 + 8 * n + 4 * hi)) = v)

/-- R46: a write to the first 8 bytes of a hold descriptor clears its state; an advancing HLOAD whose pair counter wraps moves the state on in the
order CC, KX, KY, each wrapping at CCNT, WX and WY; an HLOAD that does not advance leaves the three. `cn`, `wx` and `wy` are the counts
as their fields are read. -/
def Obligations.HoldStateAdvances : Prop :=
  (∀ (s : State) (k n j : Nat) (v : Word), s.Canonical → n < 4 → j < 2 →
    (s.taskRegWrite (coreReg k (0x200 + 0x20 * n + 4 * j)) v).csrAt (coreReg k (0x280 + 4 * n)) = 0) ∧
  (∀ (d : BitVec 256) (st : Word) (adv : Bool) (cn wx wy : Nat), cn = (if field d 235 224 = 0 then 4096 else field d 235 224) →
    wx = (if field d 219 216 = 0 then 1 else field d 219 216) → wy = (if field d 223 220 = 0 then 1 else field d 223 220) →
    field st 24 13 < cn → field st 8 5 < wx → field st 12 9 < wy →
    field (holdAdvance d st adv) 4 0 = (field st 4 0 + 1) % 32 ∧
    (adv = false ∨ field st 4 0 ≠ 31 → field (holdAdvance d st adv) 24 13 = field st 24 13 ∧
      field (holdAdvance d st adv) 8 5 = field st 8 5 ∧ field (holdAdvance d st adv) 12 9 = field st 12 9) ∧
    (adv = true → field st 4 0 = 31 →
      field (holdAdvance d st adv) 24 13 = (field st 24 13 + 1) % cn ∧
      field (holdAdvance d st adv) 8 5 = (if field st 24 13 + 1 = cn then (field st 8 5 + 1) % wx else field st 8 5) ∧
      field (holdAdvance d st adv) 12 9 = (if field st 24 13 + 1 = cn ∧ field st 8 5 + 1 = wx then (field st 12 9 + 1) % wy
        else field st 12 9)))

/-- The values that the specification gives for reset (R20, R133, R181, R208, R237, R266, R285, R310, R319, R324, R330, R364): the beacon at 0 and every region at D0,
no stop cause, every dealer idle and every count 0, every queue pair closed, every port down, the log empty. -/
def Obligations.ResetValues : Prop :=
  State.reset.beacon = 0 ∧ State.reset.ready = false ∧ State.reset.log.head = 0 ∧ State.reset.log.tail = 0 ∧ State.reset.log.lost = 0 ∧
    State.reset.host.drop = 0 ∧ (∀ r, r < 82 → (State.reset.region r).step = 0 ∧ (State.reset.region r).cause = 0 ∧
      (State.reset.region r).stopAt = none) ∧
    (∀ t, t < 64 → (State.reset.table t).run = 0 ∧ (State.reset.table t).tcc = 0 ∧ (State.reset.table t).late = 0 ∧
      (State.reset.table t).job = none ∧ (∀ n, State.reset.counter t n = 0) ∧ (∀ n, State.reset.snd t n = SndChan.reset)) ∧
    (∀ k, (State.reset.dmaCh k).ctl = 0 ∧ (State.reset.dmaCh k).state = 0) ∧ (∀ n, (State.reset.qp n).state = 0) ∧
    (∀ q, (State.reset.port q).state = 0 ∧ (State.reset.port q).retry = 0) ∧ (∀ j, State.reset.job j = none) ∧
    ∀ k n, State.reset.sreg k (BitVec.ofNat 5 n) = 0
end

