-- ==== Sys2Proof/Laws/SMap.lean ====
section
/-!
SUPPORT. Sparse maps: what a read gives after a write, and that every operation keeps the canonical form.
-/
namespace Sys2Proof.SMap

variable {α : Type}

/-- Every key of a canonical map is at or above its first key. -/
theorem wf_tail [DecidableEq α] {d : α} {kv : Nat × α} {m : SMap α} (h : SMap.wf d (kv :: m) = true) : SMap.wf d m = true := by
  obtain ⟨k, v⟩ := kv
  simp [SMap.wf] at h
  exact h.2

/-- The empty map is canonical. -/
@[simp] theorem wf_nil [DecidableEq α] (d : α) : SMap.wf d ([] : SMap α) = true := rfl

/-- A canonical map: its first key is below all later ones, and no value is the default. -/
theorem wf_cons [DecidableEq α] {d : α} {k : Nat} {v : α} {m : SMap α} :
    SMap.wf d ((k, v) :: m) = true ↔ v ≠ d ∧ (∀ x ∈ m, k < x.1) ∧ SMap.wf d m = true := by
  induction m generalizing k v with
  | nil => simp [SMap.wf]
  | cons y m ih =>
    obtain ⟨j, w⟩ := y
    constructor
    · intro h
      have h' : v ≠ d ∧ k < j ∧ SMap.wf d ((j, w) :: m) = true := by
        simpa [SMap.wf, and_assoc] using h
      refine ⟨h'.1, ?_, h'.2.2⟩
      intro x hx
      rcases List.mem_cons.1 hx with rfl | hx
      · exact h'.2.1
      · exact lt_trans h'.2.1 ((ih.1 h'.2.2).2.1 x hx)
    · rintro ⟨h1, h2, h3⟩
      have : k < j := h2 (j, w) (by simp)
      have h3' := h3
      simp only [SMap.wf, Bool.and_eq_true, decide_eq_true_eq] at h3' ⊢
      exact ⟨⟨h1, this⟩, h3'⟩

/-- A key below every listed key reads as the default. -/
theorem get_of_lt (d : α) {m : SMap α} {k : Nat} (h : ∀ x ∈ m, k < x.1) : SMap.get d m k = d := by
  cases m with
  | nil => rfl
  | cons y m =>
    obtain ⟨j, w⟩ := y
    have : k < j := h (j, w) (by simp)
    simp [SMap.get, Nat.ne_of_lt this, this]

/-- The keys of a map after a write. -/
theorem mem_set [DecidableEq α] {d : α} {m : SMap α} {k : Nat} {v : α} {x : Nat × α} (hx : x ∈ SMap.set d m k v) :
    x.1 = k ∨ x ∈ m := by
  induction m with
  | nil => simp only [SMap.set] at hx; split at hx <;> simp_all
  | cons y m ih =>
    obtain ⟨j, w⟩ := y
    simp only [SMap.set] at hx
    split at hx
    · split at hx
      · exact .inr (List.mem_cons_of_mem _ hx)
      · rcases List.mem_cons.1 hx with rfl | hx
        · exact .inl rfl
        · exact .inr (List.mem_cons_of_mem _ hx)
    · split at hx
      · split at hx
        · exact .inr hx
        · rcases List.mem_cons.1 hx with rfl | hx
          · exact .inl rfl
          · exact .inr hx
      · rcases List.mem_cons.1 hx with rfl | hx
        · exact .inr (by simp)
        · exact (ih hx).imp id (List.mem_cons_of_mem _)

/-- A write keeps the canonical form. -/
theorem wf_set [DecidableEq α] {d : α} {m : SMap α} (k : Nat) (v : α) (h : SMap.wf d m = true) :
    SMap.wf d (SMap.set d m k v) = true := by
  induction m with
  | nil => simp only [SMap.set]; split <;> simp_all [SMap.wf]
  | cons y m ih =>
    obtain ⟨j, w⟩ := y
    obtain ⟨h1, h2, h3⟩ := wf_cons.1 h
    simp only [SMap.set]
    split
    · rename_i he
      subst he
      split
      · exact h3
      · exact wf_cons.2 ⟨by assumption, h2, h3⟩
    · rename_i he
      split
      · rename_i hl
        split
        · exact h
        · refine wf_cons.2 ⟨by assumption, ?_, h⟩
          intro x hx
          rcases List.mem_cons.1 hx with rfl | hx
          · exact hl
          · exact lt_trans hl (h2 x hx)
      · rename_i hl
        refine wf_cons.2 ⟨h1, ?_, ih h3⟩
        intro x hx
        rcases mem_set hx with hk | hx
        · omega
        · exact h2 x hx

/-- A read after a write: the value written at its key, what was there before at any other. -/
theorem get_set [DecidableEq α] {d : α} {m : SMap α} (h : SMap.wf d m = true) (k j : Nat) (v : α) :
    SMap.get d (SMap.set d m k v) j = if j = k then v else SMap.get d m j := by
  induction m with
  | nil =>
    simp only [SMap.set]
    split <;> simp_all [SMap.get]
  | cons y m ih =>
    obtain ⟨i, w⟩ := y
    obtain ⟨h1, h2, h3⟩ := wf_cons.1 h
    simp only [SMap.set]
    split
    · rename_i he
      subst he
      split
      · rename_i hv
        subst hv
        by_cases hj : j = k
        · subst hj; simp [get_of_lt _ h2]
        · by_cases hjk : j < k
          · simp [SMap.get, hj, hjk, get_of_lt v (fun x hx => lt_trans hjk (h2 x hx))]
          · simp [SMap.get, hj, hjk]
      · by_cases hj : j = k <;> simp [SMap.get, hj]
    · rename_i he
      split
      · rename_i hl
        split
        · rename_i hv
          subst hv
          by_cases hj : j = k
          · subst hj; simp [SMap.get, he, hl]
          · simp [hj]
        · by_cases hj : j = k
          · simp [SMap.get, hj]
          · by_cases hjk : j < k
            · have : j < i := lt_trans hjk hl
              simp [SMap.get, hj, hjk, Nat.ne_of_lt this, this]
            · simp [SMap.get, hj, hjk]
      · rename_i hl
        simp only [SMap.get]
        rw [ih h3]
        by_cases hj : j = k
        · subst hj; simp [he, hl]
        · simp [hj]

/-- Reading back what was written, in a map of any form. -/
@[simp] theorem get_set_same [DecidableEq α] {d : α} {m : SMap α} (h : SMap.wf d m = true) (k : Nat) (v : α) :
    SMap.get d (SMap.set d m k v) k = v := by simp [get_set h]

/-- A change keeps the canonical form. -/
theorem wf_modify [DecidableEq α] {d : α} {m : SMap α} (k : Nat) (f : α → α) (h : SMap.wf d m = true) :
    SMap.wf d (SMap.modify d m k f) = true := wf_set k _ h

/-- Several writes keep the canonical form. -/
theorem wf_setAll [DecidableEq α] {d : α} (kvs : List (Nat × α)) {m : SMap α} (h : SMap.wf d m = true) :
    SMap.wf d (SMap.setAll d m kvs) = true := by
  unfold SMap.setAll
  induction kvs generalizing m with
  | nil => exact h
  | cons x kvs ih => exact ih (wf_set _ _ h)

/-- A fold of changes each of which keeps the canonical form keeps it. -/
theorem wf_foldl [DecidableEq α] {β : Type} {d : α} {f : SMap α → β → SMap α} {l : List β} {m : SMap α} (h : SMap.wf d m = true)
    (hf : ∀ (m : SMap α) (b : β), SMap.wf d m = true → SMap.wf d (f m b) = true) : SMap.wf d (l.foldl f m) = true := by
  induction l generalizing m with
  | nil => exact h
  | cons b l ih => exact ih (hf m b h)

/-- Any part of a canonical map is canonical. -/
theorem wf_filter [DecidableEq α] {d : α} (p : Nat × α → Bool) {m : SMap α} (h : SMap.wf d m = true) :
    SMap.wf d (m.filter p) = true := by
  induction m with
  | nil => rfl
  | cons y m ih =>
    obtain ⟨i, w⟩ := y
    obtain ⟨h1, h2, h3⟩ := wf_cons.1 h
    simp only [List.filter_cons]
    split
    · exact wf_cons.2 ⟨h1, fun x hx => h2 x (List.mem_of_mem_filter hx), ih h3⟩
    · exact ih h3

/-- Changing every entry keeps the canonical form. -/
theorem wf_mapAll [DecidableEq α] {d : α} (f : Nat → α → α) {m : SMap α} (h : SMap.wf d m = true) :
    SMap.wf d (SMap.mapAll d m f) = true := by
  induction m with
  | nil => rfl
  | cons y m ih =>
    obtain ⟨i, w⟩ := y
    obtain ⟨h1, h2, h3⟩ := wf_cons.1 h
    simp only [SMap.mapAll, List.map_cons, List.filter_cons]
    split
    · refine wf_cons.2 ⟨by simp_all, ?_, ih h3⟩
      intro x hx
      obtain ⟨z, hz, rfl⟩ := List.mem_map.1 (List.mem_of_mem_filter hx)
      exact h2 z hz
    · exact ih h3

/-- Changing every entry and keeping some of those that are not the default keeps the canonical form. -/
theorem wf_mapFilter [DecidableEq α] {d : α} (f : α → α) (p : Nat × α → Bool) {m : SMap α}
    (hp : ∀ kv, p kv = true → kv.2 ≠ d) (h : SMap.wf d m = true) :
    SMap.wf d ((m.map (fun kv => (kv.1, f kv.2))).filter p) = true := by
  induction m with
  | nil => rfl
  | cons y m ih =>
    obtain ⟨i, w⟩ := y
    obtain ⟨h1, h2, h3⟩ := wf_cons.1 h
    simp only [List.map_cons, List.filter_cons]
    split
    · rename_i hq
      refine wf_cons.2 ⟨hp _ hq, ?_, ih h3⟩
      intro x hx
      obtain ⟨z, hz, rfl⟩ := List.mem_map.1 (List.mem_of_mem_filter hx)
      exact h2 z hz
    · exact ih h3

/-- Clearing a range keeps the canonical form. -/
theorem wf_clearRange [DecidableEq α] {d : α} {m : SMap α} (lo hi : Nat) (h : SMap.wf d m = true) :
    SMap.wf d (SMap.clearRange m lo hi) = true := wf_filter _ h

/-- Storing bytes keeps the canonical form. -/
theorem wf_store (bs : List Byte) {m : SMap Byte} (a : Nat) (h : SMap.wf 0 m = true) : SMap.wf 0 (SMap.store m a bs) = true := by
  induction bs generalizing m a with
  | nil => exact h
  | cons b bs ih => exact ih _ (wf_set _ _ h)

/-- Storing bytes changes the bytes stored to and no other. -/
theorem get_store (bs : List Byte) {m : SMap Byte} (a j : Nat) (h : SMap.wf 0 m = true) :
    SMap.get 0 (SMap.store m a bs) j = if a ≤ j ∧ j < a + bs.length then (bs.drop (j - a)).headD 0 else SMap.get 0 m j := by
  induction bs generalizing m a with
  | nil => simp [SMap.store]
  | cons b bs ih =>
    rw [SMap.store, ih _ (wf_set _ _ h), get_set h]
    by_cases h1 : j = a
    · subst h1; simp
    · by_cases h2 : a + 1 ≤ j ∧ j < a + 1 + bs.length
      · have : j - a = (j - (a + 1)) + 1 := by omega
        have h3 : a ≤ j ∧ j < a + (b :: bs).length := by simp; omega
        rw [if_pos h2, if_pos h3, this, List.drop_succ_cons]
      · have h3 : ¬ (a ≤ j ∧ j < a + (b :: bs).length) := by simp; omega
        rw [if_neg h2, if_neg h3, if_neg h1]

end Sys2Proof.SMap
end

