-- ==== Sys2Proof/Laws/Canonical.lean ====
section
/-!
SUPPORT. The canonical form of the state: its parts, that the state at reset has it, that a fold keeps what each of its steps keeps, and
that an update of one part keeps it when the new part has it. The files named Canon… show it of every operation.
-/
namespace Sys2Proof.Machine

/-- The canonical form, said of the parts of a state (`State.Canonical` of a state with these parts). -/
structure SParts (cmds : List Instr) (pending : List Instr) (csr : SMap Word) (latch : SMap (Option Word)) (marks : SMap (Nat ×
    Nat)) (fslots : SMap (BitVec 16)) (routes : SMap (BitVec 5)) (tables : SMap Table) (cores : SMap Core) (slots : SMap (BitVec
    16)) (queues : SMap (List Flit)) (chanQ : SMap (List Flit)) (links : SMap (List Flit)) (sent : SMap Nat) (hbm : SMap Byte)
    (ddr : SMap Byte) (shelf : SMap Byte) (shelfErr : SMap (Option Bool)) (ceSeen : SMap (List Nat)) (spares : SMap Nat) (bad :
    SMap Bool) (refreshed : SMap Nat) (fired : SMap Nat) (firedNet : SMap Nat) (dma : SMap DmaChan) (descs : SMap (BitVec 512))
    (jobs : SMap (Option Job)) (qps : SMap QueuePair) (chans : SMap SndChan) (hctr : SMap (BitVec 24)) (ports : SMap Port)
    (regions : SMap Region) (logRecs : SMap (BitVec 256)) (recCurve : SMap Word) (recHdr : SMap Word) (nor : SMap Byte) (lmap :
    SMap (BitVec 6)) (pcore : SMap (BitVec 8)) (tblStat : SMap (BitVec 9)) (keyHash : SMap (BitVec 512)) (life : BitVec 3) (few :
    Nat) : Prop where
  pending_ : pending = cmds
  csr_ : SMap.wf 0 csr = true
  latch_ : SMap.wf none latch = true
  marks_ : SMap.wf (0, 0) marks = true
  fslots_ : SMap.wf 0 fslots = true
  routes_ : SMap.wf 0 routes = true
  tables_ : SMap.wf Table.reset tables = true ∧ ∀ t, (SMap.get Table.reset tables t).Canonical
  cores_ : SMap.wf Core.reset cores = true ∧ ∀ k, (SMap.get Core.reset cores k).Canonical
  slots_ : SMap.wf 0 slots = true
  queues_ : SMap.wf [] queues = true
  chanQ_ : SMap.wf [] chanQ = true
  links_ : SMap.wf [] links = true
  sent_ : SMap.wf 0 sent = true
  hbm_ : SMap.wf 0 hbm = true
  ddr_ : SMap.wf 0 ddr = true
  shelf_ : SMap.wf 0 shelf = true
  shelfErr_ : SMap.wf none shelfErr = true
  ceSeen_ : SMap.wf [] ceSeen = true
  spares_ : SMap.wf 0 spares = true
  bad_ : SMap.wf false bad = true
  refreshed_ : SMap.wf 0 refreshed = true
  fired_ : SMap.wf 0 fired = true
  firedNet_ : SMap.wf 0 firedNet = true
  dma_ : SMap.wf DmaChan.reset dma = true
  descs_ : SMap.wf 0 descs = true
  jobs_ : SMap.wf none jobs = true
  qps_ : SMap.wf QueuePair.reset qps = true
  chans_ : SMap.wf SndChan.reset chans = true
  hctr_ : SMap.wf 0 hctr = true
  ports_ : SMap.wf Port.reset ports = true
  regions_ : SMap.wf Region.reset regions = true ∧ ∀ r, (SMap.get Region.reset regions r).Legal
  logRecs_ : SMap.wf 0 logRecs = true
  recCurve_ : SMap.wf 0 recCurve = true
  recHdr_ : SMap.wf 0 recHdr = true
  nor_ : SMap.wf 0xFF nor = true
  lmap_ : SMap.wf 0 lmap = true
  pcore_ : SMap.wf 0 pcore = true
  tblStat_ : SMap.wf 0 tblStat = true
  keyHash_ : SMap.wf 0 keyHash = true
  life_ : life ≤ 4
  few_ : few ≤ 34

/-- The same of the parts of a core. -/
structure CParts (sreg : SMap Word) (vreg : SMap Word) (accM : SMap Int) (accV : SMap Int) (cfgM : SMap Word) (hold : SMap Byte)
    (scale : SMap Byte) (tk : SMap (List (Word × Word))) (codebook : SMap (BitVec 16)) (curve : SMap Word) (curveHdr : SMap Word)
    (spd : SMap Byte) (outReg : SMap Word) (spdErr : SMap (Option Bool)) (fifo : SMap WVec) : Prop where
  sreg_ : SMap.wf 0 sreg = true
  vreg_ : SMap.wf 0 vreg = true
  accM_ : SMap.wf 0 accM = true
  accV_ : SMap.wf 0 accV = true
  cfgM_ : SMap.wf 0 cfgM = true
  hold_ : SMap.wf 0 hold = true
  scale_ : SMap.wf 0x7F scale = true
  tk_ : SMap.wf [] tk = true
  codebook_ : SMap.wf 0 codebook = true
  curve_ : SMap.wf 0 curve = true
  curveHdr_ : SMap.wf 0 curveHdr = true
  spd_ : SMap.wf 0 spd = true
  outReg_ : SMap.wf 0 outReg = true
  spdErr_ : SMap.wf none spdErr = true
  fifo_ : SMap.wf WVec.zero fifo = true

/-- The same of the parts of a table. -/
structure TParts (prog : SMap (BitVec 16)) (ctr : SMap (BitVec 24)) (ctrInit : SMap (BitVec 24)) (tout : SMap Word) (htab : SMap
    Word) (seeds : SMap (BitVec 64)) (snd : SMap SndChan) (rcv : SMap RcvChan) (credit : SMap Nat) (undrained : SMap (Option
    Word)) : Prop where
  prog_ : SMap.wf 0 prog = true
  ctr_ : SMap.wf 0 ctr = true
  ctrInit_ : SMap.wf 0 ctrInit = true
  tout_ : SMap.wf 0 tout = true
  htab_ : SMap.wf 0 htab = true
  seeds_ : SMap.wf 0 seeds = true
  snd_ : SMap.wf SndChan.reset snd = true
  rcv_ : SMap.wf RcvChan.reset rcv = true
  credit_ : SMap.wf 0 credit = true
  undrained_ : SMap.wf none undrained = true

/-- The same of the parts of a region. -/
structure RParts (step : BitVec 3) (tgt : BitVec 3) (goal : BitVec 3) : Prop where
  step_ : step ≤ 5
  tgt_ : tgt ≤ 5
  goal_ : goal ≤ 5

/-- Ok of s: the parts of it that the canonical form is about. -/
@[reducible] def Ok (cmds : List Instr) (s : State) : Prop := SParts cmds s.pending s.csr s.latch s.marks s.fslots s.routes s.tables s.cores s.noc.slots s.noc.queues s.noc.chanQ s.noc.links
    s.noc.sent s.mem.hbm s.mem.ddr s.mem.shelf s.mem.shelfErr s.mem.ceSeen s.mem.spares s.mem.bad s.mem.refreshed s.mem.fired
    s.mem.firedNet s.dma s.descs s.jobs s.host.qps s.host.chans s.hctr s.ports s.regions s.log.recs s.recs.curve s.recs.curveHdr
    s.nor s.fuses.lmap s.fuses.pcore s.fuses.tblStat s.fuses.keyHash s.fuses.life s.fuses.cores

/-- CoreOk of c: the parts of it that the canonical form is about. -/
@[reducible] def CoreOk (c : Core) : Prop := CParts c.sreg c.vreg c.accM c.accV c.cfgM c.hold c.scale c.tk c.codebook c.curve c.curveHdr c.spd c.outReg c.spdErr
    c.streamer.fifo

/-- TableOk of t: the parts of it that the canonical form is about. -/
@[reducible] def TableOk (t : Table) : Prop := TParts t.prog t.ctr t.ctrInit t.tout t.htab t.seeds t.snd t.rcv t.credit t.undrained

/-- RegionOk of r: the parts of it that the canonical form is about. -/
@[reducible] def RegionOk (r : Region) : Prop := RParts r.step r.tgt r.goal

variable {cmds : List Instr}

theorem State.Canonical.ok {s : State} (h : s.Canonical) : Ok s.pending s :=
  ⟨rfl, h.csr, h.latch, h.marks, h.fslots, h.routes, h.tables, h.cores, h.noc.slots, h.noc.queues, h.noc.chanQ, h.noc.links, h.noc.sent,
   h.mem.hbm, h.mem.ddr, h.mem.shelf, h.mem.shelfErr, h.mem.ceSeen, h.mem.spares, h.mem.bad, h.mem.refreshed, h.mem.fired, h.mem.firedNet, h.dma, h.descs, h.jobs, h.qps, h.chans,
   h.hctr, h.ports, h.regions, h.log, h.recCurve, h.recHdr, h.nor, h.fuses.lmap, h.fuses.pcore, h.fuses.tblStat, h.fuses.keyHash, h.fuses.life, h.fuses.few⟩

theorem Ok.canonical {s : State} (h : Ok cmds s) : s.Canonical :=
  ⟨h.csr_, h.latch_, h.marks_, h.fslots_, h.routes_, h.tables_, h.cores_, ⟨h.slots_, h.queues_, h.chanQ_, h.links_, h.sent_⟩,
   ⟨h.hbm_, h.ddr_, h.shelf_, h.shelfErr_, h.ceSeen_, h.spares_, h.bad_, h.refreshed_, h.fired_, h.firedNet_⟩, h.dma_, h.descs_, h.jobs_, h.qps_, h.chans_, h.hctr_,
   h.ports_, h.regions_, h.logRecs_, h.recCurve_, h.recHdr_, h.nor_, ⟨h.lmap_, h.pcore_, h.tblStat_, h.keyHash_, h.life_, h.few_⟩⟩

theorem Core.Canonical.ok {c : Core} (h : c.Canonical) : CoreOk c :=
  ⟨h.sreg, h.vreg, h.accM, h.accV, h.cfgM, h.hold, h.scale, h.tk, h.codebook, h.curve, h.curveHdr, h.spd, h.outReg, h.spdErr, h.fifo⟩

theorem CoreOk.canonical {c : Core} (h : CoreOk c) : c.Canonical :=
  ⟨h.sreg_, h.vreg_, h.accM_, h.accV_, h.cfgM_, h.hold_, h.scale_, h.tk_, h.codebook_, h.curve_, h.curveHdr_, h.spd_, h.outReg_,
   h.spdErr_, h.fifo_⟩

theorem Table.Canonical.ok {t : Table} (h : t.Canonical) : TableOk t :=
  ⟨h.prog, h.ctr, h.ctrInit, h.tout, h.htab, h.seeds, h.snd, h.rcv, h.credit, h.undrained⟩

theorem TableOk.canonical {t : Table} (h : TableOk t) : t.Canonical :=
  ⟨h.prog_, h.ctr_, h.ctrInit_, h.tout_, h.htab_, h.seeds_, h.snd_, h.rcv_, h.credit_, h.undrained_⟩

theorem Region.Legal.ok {r : Region} (h : r.Legal) : RegionOk r := ⟨h.1, h.2.1, h.2.2⟩
theorem RegionOk.legal {r : Region} (h : RegionOk r) : r.Legal := ⟨h.step_, h.tgt_, h.goal_⟩

/-- A fold keeps what each of its steps keeps. -/
theorem foldl_keeps {α β : Type} {P : α → Prop} {f : α → β → α} {l : List β} {a : α} (h : P a)
    (hf : ∀ (a : α) (b : β), P a → P (f a b)) : P (l.foldl f a) := by
  induction l generalizing a with
  | nil => exact h
  | cons b l ih => exact ih (hf a b h)

theorem ok_foldl {β : Type} {f : State → β → State} {l : List β} {a : State} (h : Ok cmds a)
    (hf : ∀ (a : State) (b : β), Ok cmds a → Ok cmds (f a b)) : Ok cmds (l.foldl f a) := foldl_keeps (P := Ok cmds) h hf

theorem ok_foldr {β : Type} {f : β → State → State} {l : List β} {a : State} (h : Ok cmds a)
    (hf : ∀ (b : β) (a : State), Ok cmds a → Ok cmds (f b a)) : Ok cmds (l.foldr f a) := by
  induction l with
  | nil => exact h
  | cons b l ih => exact hf b _ ih

theorem ok_foldl_fst {β γ : Type} {f : State × γ → β → State × γ} {l : List β} {a : State × γ} (h : Ok cmds a.1)
    (hf : ∀ (a : State × γ) (b : β), Ok cmds a.1 → Ok cmds (f a b).1) : Ok cmds (l.foldl f a).1 :=
  foldl_keeps (P := fun x : State × γ => Ok cmds x.1) h hf

theorem ok_foldl_snd {β γ : Type} {f : γ × State → β → γ × State} {l : List β} {a : γ × State} (h : Ok cmds a.2)
    (hf : ∀ (a : γ × State) (b : β), Ok cmds a.2 → Ok cmds (f a b).2) : Ok cmds (l.foldl f a).2 :=
  foldl_keeps (P := fun x : γ × State => Ok cmds x.2) h hf

/-- What a local definition has may be shown of its value and used of it. -/
theorem keep_let {P Q : Prop} (h : P) (hq : P → Q) : Q := hq h

/-- What an outcome keeps: the state it goes on to, if it goes on. -/
structure Keeps (cmds : List Instr) (o : Host.Outcome State Fault Refusal) : Prop where
  go : ∀ t, o = .next t → Ok cmds t

theorem keeps_next {s : State} (h : Ok cmds s) : Keeps cmds (.next s) := by
  constructor; intro t e; cases e; exact h

theorem keeps_refused {r : Refusal} : Keeps cmds (.refused r) := by constructor; intro t e; cases e

theorem coreOk_reset : CoreOk Core.reset := by constructor <;> rfl
theorem tableOk_reset : TableOk Table.reset := by constructor <;> rfl
theorem regionOk_reset : RegionOk Region.reset := by constructor <;> decide

/-- At reset no memory and no register file lists anything. -/
theorem ok_reset : Ok [] State.reset := by
  constructor
  case tables_ => exact ⟨rfl, fun _ => tableOk_reset.canonical⟩
  case cores_ => exact ⟨rfl, fun _ => coreOk_reset.canonical⟩
  case regions_ => exact ⟨rfl, fun _ => regionOk_reset.legal⟩
  case life_ => decide
  case few_ => decide
  all_goals rfl

/-- The state at reset is canonical. -/
theorem canonical_reset : State.reset.Canonical := ok_reset.canonical

/-- A map of which every entry has a property, after one entry is written. -/
theorem each_set {α : Type} [DecidableEq α] {d : α} {P : α → Prop} {m : SMap α} (h : SMap.wf d m = true ∧ ∀ k, P (SMap.get d m k))
    (k : Nat) {v : α} (hv : P v) : SMap.wf d (SMap.set d m k v) = true ∧ ∀ j, P (SMap.get d (SMap.set d m k v) j) := by
  refine ⟨SMap.wf_set k v h.1, fun j => ?_⟩
  rw [SMap.get_set h.1]
  split
  · exact hv
  · exact h.2 j

/-- A map of which every entry has a property, after one entry is changed. -/
theorem each_modify {α : Type} [DecidableEq α] {d : α} {P : α → Prop} {m : SMap α} (h : SMap.wf d m = true ∧ ∀ k, P (SMap.get d m k))
    (k : Nat) {f : α → α} (hf : ∀ a, P a → P (f a)) :
    SMap.wf d (SMap.modify d m k f) = true ∧ ∀ j, P (SMap.get d (SMap.modify d m k f) j) := each_set h k (hf _ (h.2 k))

theorem ok_bad {s : State} {bad : SMap Bool} (h : Ok cmds s) (hbad : SMap.wf false bad = true) :
    Ok cmds { s with mem := { s.mem with bad := bad } } :=
  { h with bad_ := hbad }

theorem ok_ceSeen {s : State} {ceSeen : SMap (List Nat)} (h : Ok cmds s) (hceSeen : SMap.wf [] ceSeen = true) :
    Ok cmds { s with mem := { s.mem with ceSeen := ceSeen } } :=
  { h with ceSeen_ := hceSeen }

theorem ok_chanQ {s : State} {chanQ : SMap (List Flit)} (h : Ok cmds s) (hchanQ : SMap.wf [] chanQ = true) :
    Ok cmds { s with noc := { s.noc with chanQ := chanQ } } :=
  { h with chanQ_ := hchanQ }

theorem ok_chans {s : State} {chans : SMap SndChan} (h : Ok cmds s) (hchans : SMap.wf SndChan.reset chans = true) :
    Ok cmds { s with host := { s.host with chans := chans } } :=
  { h with chans_ := hchans }

theorem ok_cores {s : State} {cores : SMap Core} (h : Ok cmds s) (hcores : SMap.wf Core.reset cores = true ∧ ∀ k, (SMap.get Core.reset
    cores k).Canonical) :
    Ok cmds { s with cores := cores } :=
  { h with cores_ := hcores }

theorem ok_csr {s : State} {csr : SMap Word} (h : Ok cmds s) (hcsr : SMap.wf 0 csr = true) :
    Ok cmds { s with csr := csr } :=
  { h with csr_ := hcsr }

theorem ok_ddr {s : State} {ddr : SMap Byte} (h : Ok cmds s) (hddr : SMap.wf 0 ddr = true) :
    Ok cmds { s with mem := { s.mem with ddr := ddr } } :=
  { h with ddr_ := hddr }

theorem ok_descs {s : State} {descs : SMap (BitVec 512)} (h : Ok cmds s) (hdescs : SMap.wf 0 descs = true) :
    Ok cmds { s with descs := descs } :=
  { h with descs_ := hdescs }

theorem ok_dma {s : State} {dma : SMap DmaChan} (h : Ok cmds s) (hdma : SMap.wf DmaChan.reset dma = true) :
    Ok cmds { s with dma := dma } :=
  { h with dma_ := hdma }

theorem ok_fired {s : State} {fired : SMap Nat} (h : Ok cmds s) (hfired : SMap.wf 0 fired = true) :
    Ok cmds { s with mem := { s.mem with fired := fired } } :=
  { h with fired_ := hfired }

theorem ok_firedNet {s : State} {firedNet : SMap Nat} (h : Ok cmds s) (hfiredNet : SMap.wf 0 firedNet = true) :
    Ok cmds { s with mem := { s.mem with firedNet := firedNet } } :=
  { h with firedNet_ := hfiredNet }

theorem ok_hbm {s : State} {hbm : SMap Byte} (h : Ok cmds s) (hhbm : SMap.wf 0 hbm = true) :
    Ok cmds { s with mem := { s.mem with hbm := hbm } } :=
  { h with hbm_ := hhbm }

theorem ok_hctr {s : State} {hctr : SMap (BitVec 24)} (h : Ok cmds s) (hhctr : SMap.wf 0 hctr = true) :
    Ok cmds { s with hctr := hctr } :=
  { h with hctr_ := hhctr }

theorem ok_jobs {s : State} {jobs : SMap (Option Job)} (h : Ok cmds s) (hjobs : SMap.wf none jobs = true) :
    Ok cmds { s with jobs := jobs } :=
  { h with jobs_ := hjobs }

theorem ok_keyHash {s : State} {keyHash : SMap (BitVec 512)} (h : Ok cmds s) (hkeyHash : SMap.wf 0 keyHash = true) :
    Ok cmds { s with fuses := { s.fuses with keyHash := keyHash } } :=
  { h with keyHash_ := hkeyHash }

theorem ok_latch {s : State} {latch : SMap (Option Word)} (h : Ok cmds s) (hlatch : SMap.wf none latch = true) :
    Ok cmds { s with latch := latch } :=
  { h with latch_ := hlatch }

theorem ok_life {s : State} {life : BitVec 3} (h : Ok cmds s) (hlife : life ≤ 4) :
    Ok cmds { s with fuses := { s.fuses with life := life } } :=
  { h with life_ := hlife }

theorem ok_links {s : State} {links : SMap (List Flit)} (h : Ok cmds s) (hlinks : SMap.wf [] links = true) :
    Ok cmds { s with noc := { s.noc with links := links } } :=
  { h with links_ := hlinks }

theorem ok_logRecs {s : State} {logRecs : SMap (BitVec 256)} (h : Ok cmds s) (hlogRecs : SMap.wf 0 logRecs = true) :
    Ok cmds { s with log := { s.log with recs := logRecs } } :=
  { h with logRecs_ := hlogRecs }

theorem ok_marks {s : State} {marks : SMap (Nat × Nat)} (h : Ok cmds s) (hmarks : SMap.wf (0, 0) marks = true) :
    Ok cmds { s with marks := marks } :=
  { h with marks_ := hmarks }

theorem ok_nor {s : State} {nor : SMap Byte} (h : Ok cmds s) (hnor : SMap.wf 0xFF nor = true) :
    Ok cmds { s with nor := nor } :=
  { h with nor_ := hnor }

theorem ok_pcore {s : State} {pcore : SMap (BitVec 8)} (h : Ok cmds s) (hpcore : SMap.wf 0 pcore = true) :
    Ok cmds { s with fuses := { s.fuses with pcore := pcore } } :=
  { h with pcore_ := hpcore }

theorem ok_pending {s : State} {pending : List Instr} (h : Ok cmds s) (hpending : pending = cmds) :
    Ok cmds { s with pending := pending } :=
  { h with pending_ := hpending }

theorem ok_ports {s : State} {ports : SMap Port} (h : Ok cmds s) (hports : SMap.wf Port.reset ports = true) :
    Ok cmds { s with ports := ports } :=
  { h with ports_ := hports }

theorem ok_qps {s : State} {qps : SMap QueuePair} (h : Ok cmds s) (hqps : SMap.wf QueuePair.reset qps = true) :
    Ok cmds { s with host := { s.host with qps := qps } } :=
  { h with qps_ := hqps }

theorem ok_queues {s : State} {queues : SMap (List Flit)} (h : Ok cmds s) (hqueues : SMap.wf [] queues = true) :
    Ok cmds { s with noc := { s.noc with queues := queues } } :=
  { h with queues_ := hqueues }

theorem ok_refreshed {s : State} {refreshed : SMap Nat} (h : Ok cmds s) (hrefreshed : SMap.wf 0 refreshed = true) :
    Ok cmds { s with mem := { s.mem with refreshed := refreshed } } :=
  { h with refreshed_ := hrefreshed }

theorem ok_regions {s : State} {regions : SMap Region} (h : Ok cmds s) (hregions : SMap.wf Region.reset regions = true ∧ ∀ r,
    (SMap.get Region.reset regions r).Legal) :
    Ok cmds { s with regions := regions } :=
  { h with regions_ := hregions }

theorem ok_sent {s : State} {sent : SMap Nat} (h : Ok cmds s) (hsent : SMap.wf 0 sent = true) :
    Ok cmds { s with noc := { s.noc with sent := sent } } :=
  { h with sent_ := hsent }

theorem ok_shelf {s : State} {shelf : SMap Byte} (h : Ok cmds s) (hshelf : SMap.wf 0 shelf = true) :
    Ok cmds { s with mem := { s.mem with shelf := shelf } } :=
  { h with shelf_ := hshelf }

theorem ok_slots {s : State} {slots : SMap (BitVec 16)} (h : Ok cmds s) (hslots : SMap.wf 0 slots = true) :
    Ok cmds { s with noc := { s.noc with slots := slots } } :=
  { h with slots_ := hslots }

theorem ok_spares {s : State} {spares : SMap Nat} (h : Ok cmds s) (hspares : SMap.wf 0 spares = true) :
    Ok cmds { s with mem := { s.mem with spares := spares } } :=
  { h with spares_ := hspares }

theorem ok_tables {s : State} {tables : SMap Table} (h : Ok cmds s) (htables : SMap.wf Table.reset tables = true ∧ ∀ t, (SMap.get
    Table.reset tables t).Canonical) :
    Ok cmds { s with tables := tables } :=
  { h with tables_ := htables }

theorem ok_tblStat {s : State} {tblStat : SMap (BitVec 9)} (h : Ok cmds s) (htblStat : SMap.wf 0 tblStat = true) :
    Ok cmds { s with fuses := { s.fuses with tblStat := tblStat } } :=
  { h with tblStat_ := htblStat }

theorem ok_csr_cores {s : State} {csr : SMap Word} {cores : SMap Core} (h : Ok cmds s) (hcsr : SMap.wf 0 csr = true) (hcores : SMap.wf
    Core.reset cores = true ∧ ∀ k, (SMap.get Core.reset cores k).Canonical) :
    Ok cmds { s with csr := csr, cores := cores } :=
  { h with csr_ := hcsr, cores_ := hcores }

theorem ok_dma_ports {s : State} {dma : SMap DmaChan} {ports : SMap Port} (h : Ok cmds s) (hdma : SMap.wf DmaChan.reset dma = true)
    (hports : SMap.wf Port.reset ports = true) :
    Ok cmds { s with dma := dma, ports := ports } :=
  { h with dma_ := hdma, ports_ := hports }

theorem ok_fslots_hctr {s : State} {fslots : SMap (BitVec 16)} {hctr : SMap (BitVec 24)} (h : Ok cmds s) (hfslots : SMap.wf 0 fslots =
    true) (hhctr : SMap.wf 0 hctr = true) :
    Ok cmds { s with fslots := fslots, hctr := hctr } :=
  { h with fslots_ := hfslots, hctr_ := hhctr }

theorem ok_hbm_bad {s : State} {hbm : SMap Byte} {bad : SMap Bool} (h : Ok cmds s) (hhbm : SMap.wf 0 hbm = true) (hbad : SMap.wf false
    bad = true) :
    Ok cmds { s with mem := { s.mem with hbm := hbm, bad := bad } } :=
  { h with hbm_ := hhbm, bad_ := hbad }

theorem ok_pending_nor {s : State} {pending : List Instr} {nor : SMap Byte} (h : Ok cmds s) (hpending : pending = cmds) (hnor :
    SMap.wf 0xFF nor = true) :
    Ok cmds { s with pending := pending, nor := nor } :=
  { h with pending_ := hpending, nor_ := hnor }

theorem ok_qps_chans {s : State} {qps : SMap QueuePair} {chans : SMap SndChan} (h : Ok cmds s) (hqps : SMap.wf QueuePair.reset qps =
    true) (hchans : SMap.wf SndChan.reset chans = true) :
    Ok cmds { s with host := { s.host with qps := qps, chans := chans } } :=
  { h with qps_ := hqps, chans_ := hchans }

theorem ok_shelf_shelfErr {s : State} {shelf : SMap Byte} {shelfErr : SMap (Option Bool)} (h : Ok cmds s) (hshelf : SMap.wf 0 shelf =
    true) (hshelfErr : SMap.wf none shelfErr = true) :
    Ok cmds { s with mem := { s.mem with shelf := shelf, shelfErr := shelfErr } } :=
  { h with shelf_ := hshelf, shelfErr_ := hshelfErr }

theorem ok_fslots_slots_hctr {s : State} {fslots : SMap (BitVec 16)} {slots : SMap (BitVec 16)} {hctr : SMap (BitVec 24)} (h : Ok cmds
    s) (hfslots : SMap.wf 0 fslots = true) (hslots : SMap.wf 0 slots = true) (hhctr : SMap.wf 0 hctr = true) :
    Ok cmds { s with fslots := fslots, hctr := hctr, noc := { s.noc with slots := slots } } :=
  { h with fslots_ := hfslots, slots_ := hslots, hctr_ := hhctr }

theorem ok_hbm_ddr_jobs {s : State} {hbm : SMap Byte} {ddr : SMap Byte} {jobs : SMap (Option Job)} (h : Ok cmds s) (hhbm : SMap.wf 0
    hbm = true) (hddr : SMap.wf 0 ddr = true) (hjobs : SMap.wf none jobs = true) :
    Ok cmds { s with mem := { s.mem with hbm := hbm, ddr := ddr }, jobs := jobs } :=
  { h with hbm_ := hhbm, ddr_ := hddr, jobs_ := hjobs }

theorem ok_hbm_ddr_shelf {s : State} {hbm : SMap Byte} {ddr : SMap Byte} {shelf : SMap Byte} (h : Ok cmds s) (hhbm : SMap.wf 0 hbm =
    true) (hddr : SMap.wf 0 ddr = true) (hshelf : SMap.wf 0 shelf = true) :
    Ok cmds { s with mem := { s.mem with hbm := hbm, ddr := ddr, shelf := shelf } } :=
  { h with hbm_ := hhbm, ddr_ := hddr, shelf_ := hshelf }

theorem ok_queues_chanQ_links {s : State} {queues : SMap (List Flit)} {chanQ : SMap (List Flit)} {links : SMap (List Flit)} (h :
    Ok cmds s) (hqueues : SMap.wf [] queues = true) (hchanQ : SMap.wf [] chanQ = true) (hlinks : SMap.wf [] links = true) :
    Ok cmds { s with noc := { s.noc with queues := queues, chanQ := chanQ, links := links } } :=
  { h with queues_ := hqueues, chanQ_ := hchanQ, links_ := hlinks }

theorem ok_fslots_routes_cores_ports {s : State} {fslots : SMap (BitVec 16)} {routes : SMap (BitVec 5)} {cores : SMap Core}
    {ports : SMap Port} (h : Ok cmds s) (hfslots : SMap.wf 0 fslots = true) (hroutes : SMap.wf 0 routes = true) (hcores : SMap.wf
    Core.reset cores = true ∧ ∀ k, (SMap.get Core.reset cores k).Canonical) (hports : SMap.wf Port.reset ports = true) :
    Ok cmds { s with fslots := fslots, routes := routes, cores := cores, ports := ports } :=
  { h with fslots_ := hfslots, routes_ := hroutes, cores_ := hcores, ports_ := hports }

theorem ok_hbm_ddr_shelf_jobs {s : State} {hbm : SMap Byte} {ddr : SMap Byte} {shelf : SMap Byte} {jobs : SMap (Option Job)} (h :
    Ok cmds s) (hhbm : SMap.wf 0 hbm = true) (hddr : SMap.wf 0 ddr = true) (hshelf : SMap.wf 0 shelf = true) (hjobs : SMap.wf none
    jobs = true) :
    Ok cmds { s with mem := { s.mem with hbm := hbm, ddr := ddr, shelf := shelf }, jobs := jobs } :=
  { h with hbm_ := hhbm, ddr_ := hddr, shelf_ := hshelf, jobs_ := hjobs }

theorem ok_hbm_ddr_shelf_shelfErr {s : State} {hbm : SMap Byte} {ddr : SMap Byte} {shelf : SMap Byte} {shelfErr : SMap (Option
    Bool)} (h : Ok cmds s) (hhbm : SMap.wf 0 hbm = true) (hddr : SMap.wf 0 ddr = true) (hshelf : SMap.wf 0 shelf = true) (hshelfErr :
    SMap.wf none shelfErr = true) :
    Ok cmds { s with mem := { s.mem with hbm := hbm, ddr := ddr, shelf := shelf, shelfErr := shelfErr } } :=
  { h with hbm_ := hhbm, ddr_ := hddr, shelf_ := hshelf, shelfErr_ := hshelfErr }

theorem ok_fslots_dma_descs_hctr_ports {s : State} {fslots : SMap (BitVec 16)} {dma : SMap DmaChan} {descs : SMap (BitVec 512)}
    {hctr : SMap (BitVec 24)} {ports : SMap Port} (h : Ok cmds s) (hfslots : SMap.wf 0 fslots = true) (hdma : SMap.wf DmaChan.reset
    dma = true) (hdescs : SMap.wf 0 descs = true) (hhctr : SMap.wf 0 hctr = true) (hports : SMap.wf Port.reset ports = true) :
    Ok cmds { s with fslots := fslots, dma := dma, descs := descs, hctr := hctr, ports := ports } :=
  { h with fslots_ := hfslots, dma_ := hdma, descs_ := hdescs, hctr_ := hhctr, ports_ := hports }

theorem ok_hbm_ddr_shelf_shelfErr_jobs {s : State} {hbm : SMap Byte} {ddr : SMap Byte} {shelf : SMap Byte} {shelfErr : SMap
    (Option Bool)} {jobs : SMap (Option Job)} (h : Ok cmds s) (hhbm : SMap.wf 0 hbm = true) (hddr : SMap.wf 0 ddr = true) (hshelf :
    SMap.wf 0 shelf = true) (hshelfErr : SMap.wf none shelfErr = true) (hjobs : SMap.wf none jobs = true) :
    Ok cmds { s with mem := { s.mem with hbm := hbm, ddr := ddr, shelf := shelf, shelfErr := shelfErr }, jobs := jobs } :=
  { h with hbm_ := hhbm, ddr_ := hddr, shelf_ := hshelf, shelfErr_ := hshelfErr, jobs_ := hjobs }

theorem ok_queues_chanQ_links_dma_ports {s : State} {queues : SMap (List Flit)} {chanQ : SMap (List Flit)} {links : SMap (List
    Flit)} {dma : SMap DmaChan} {ports : SMap Port} (h : Ok cmds s) (hqueues : SMap.wf [] queues = true) (hchanQ : SMap.wf [] chanQ =
    true) (hlinks : SMap.wf [] links = true) (hdma : SMap.wf DmaChan.reset dma = true) (hports : SMap.wf Port.reset ports = true)
    :
    Ok cmds { s with noc := { s.noc with queues := queues, chanQ := chanQ, links := links }, dma := dma, ports := ports } :=
  { h with queues_ := hqueues, chanQ_ := hchanQ, links_ := hlinks, dma_ := hdma, ports_ := hports }

theorem ok_slots_queues_chanQ_links_sent {s : State} {slots : SMap (BitVec 16)} {queues : SMap (List Flit)} {chanQ : SMap (List
    Flit)} {links : SMap (List Flit)} {sent : SMap Nat} (h : Ok cmds s) (hslots : SMap.wf 0 slots = true) (hqueues : SMap.wf [] queues
    = true) (hchanQ : SMap.wf [] chanQ = true) (hlinks : SMap.wf [] links = true) (hsent : SMap.wf 0 sent = true) :
    Ok cmds { s with noc := { s.noc with slots := slots, queues := queues, chanQ := chanQ, links := links, sent := sent } } :=
  { h with slots_ := hslots, queues_ := hqueues, chanQ_ := hchanQ, links_ := hlinks, sent_ := hsent }

theorem ok_fslots_slots_dma_descs_hctr_ports {s : State} {fslots : SMap (BitVec 16)} {slots : SMap (BitVec 16)} {dma : SMap
    DmaChan} {descs : SMap (BitVec 512)} {hctr : SMap (BitVec 24)} {ports : SMap Port} (h : Ok cmds s) (hfslots : SMap.wf 0 fslots =
    true) (hslots : SMap.wf 0 slots = true) (hdma : SMap.wf DmaChan.reset dma = true) (hdescs : SMap.wf 0 descs = true) (hhctr :
    SMap.wf 0 hctr = true) (hports : SMap.wf Port.reset ports = true) :
    Ok cmds { s with fslots := fslots, dma := dma, descs := descs, hctr := hctr, ports := ports, noc := { s.noc with slots := slots } } :=
  { h with fslots_ := hfslots, slots_ := hslots, dma_ := hdma, descs_ := hdescs, hctr_ := hhctr, ports_ := hports }

theorem coreOk_accM {c : Core} {accM : SMap Int} (h : CoreOk c) (haccM : SMap.wf 0 accM = true) :
    CoreOk { c with accM := accM } :=
  { h with accM_ := haccM }

theorem coreOk_accV {c : Core} {accV : SMap Int} (h : CoreOk c) (haccV : SMap.wf 0 accV = true) :
    CoreOk { c with accV := accV } :=
  { h with accV_ := haccV }

theorem coreOk_cfgM {c : Core} {cfgM : SMap Word} (h : CoreOk c) (hcfgM : SMap.wf 0 cfgM = true) :
    CoreOk { c with cfgM := cfgM } :=
  { h with cfgM_ := hcfgM }

theorem coreOk_codebook {c : Core} {codebook : SMap (BitVec 16)} (h : CoreOk c) (hcodebook : SMap.wf 0 codebook = true) :
    CoreOk { c with codebook := codebook } :=
  { h with codebook_ := hcodebook }

theorem coreOk_curve {c : Core} {curve : SMap Word} (h : CoreOk c) (hcurve : SMap.wf 0 curve = true) :
    CoreOk { c with curve := curve } :=
  { h with curve_ := hcurve }

theorem coreOk_curveHdr {c : Core} {curveHdr : SMap Word} (h : CoreOk c) (hcurveHdr : SMap.wf 0 curveHdr = true) :
    CoreOk { c with curveHdr := curveHdr } :=
  { h with curveHdr_ := hcurveHdr }

theorem coreOk_fifo {c : Core} {fifo : SMap WVec} (h : CoreOk c) (hfifo : SMap.wf WVec.zero fifo = true) :
    CoreOk { c with streamer := { c.streamer with fifo := fifo } } :=
  { h with fifo_ := hfifo }

theorem coreOk_hold {c : Core} {hold : SMap Byte} (h : CoreOk c) (hhold : SMap.wf 0 hold = true) :
    CoreOk { c with hold := hold } :=
  { h with hold_ := hhold }

theorem coreOk_outReg {c : Core} {outReg : SMap Word} (h : CoreOk c) (houtReg : SMap.wf 0 outReg = true) :
    CoreOk { c with outReg := outReg } :=
  { h with outReg_ := houtReg }

theorem coreOk_scale {c : Core} {scale : SMap Byte} (h : CoreOk c) (hscale : SMap.wf 0x7F scale = true) :
    CoreOk { c with scale := scale } :=
  { h with scale_ := hscale }

theorem coreOk_spd {c : Core} {spd : SMap Byte} (h : CoreOk c) (hspd : SMap.wf 0 spd = true) :
    CoreOk { c with spd := spd } :=
  { h with spd_ := hspd }

theorem coreOk_spdErr {c : Core} {spdErr : SMap (Option Bool)} (h : CoreOk c) (hspdErr : SMap.wf none spdErr = true) :
    CoreOk { c with spdErr := spdErr } :=
  { h with spdErr_ := hspdErr }

theorem coreOk_sreg {c : Core} {sreg : SMap Word} (h : CoreOk c) (hsreg : SMap.wf 0 sreg = true) :
    CoreOk { c with sreg := sreg } :=
  { h with sreg_ := hsreg }

theorem coreOk_tk {c : Core} {tk : SMap (List (Word × Word))} (h : CoreOk c) (htk : SMap.wf [] tk = true) :
    CoreOk { c with tk := tk } :=
  { h with tk_ := htk }

theorem coreOk_vreg {c : Core} {vreg : SMap Word} (h : CoreOk c) (hvreg : SMap.wf 0 vreg = true) :
    CoreOk { c with vreg := vreg } :=
  { h with vreg_ := hvreg }

theorem coreOk_accM_accV {c : Core} {accM : SMap Int} {accV : SMap Int} (h : CoreOk c) (haccM : SMap.wf 0 accM = true) (haccV :
    SMap.wf 0 accV = true) :
    CoreOk { c with accM := accM, accV := accV } :=
  { h with accM_ := haccM, accV_ := haccV }

theorem coreOk_accM_cfgM {c : Core} {accM : SMap Int} {cfgM : SMap Word} (h : CoreOk c) (haccM : SMap.wf 0 accM = true) (hcfgM :
    SMap.wf 0 cfgM = true) :
    CoreOk { c with accM := accM, cfgM := cfgM } :=
  { h with accM_ := haccM, cfgM_ := hcfgM }

theorem coreOk_curve_curveHdr {c : Core} {curve : SMap Word} {curveHdr : SMap Word} (h : CoreOk c) (hcurve : SMap.wf 0 curve =
    true) (hcurveHdr : SMap.wf 0 curveHdr = true) :
    CoreOk { c with curve := curve, curveHdr := curveHdr } :=
  { h with curve_ := hcurve, curveHdr_ := hcurveHdr }

theorem coreOk_hold_scale {c : Core} {hold : SMap Byte} {scale : SMap Byte} (h : CoreOk c) (hhold : SMap.wf 0 hold = true)
    (hscale : SMap.wf 0x7F scale = true) :
    CoreOk { c with hold := hold, scale := scale } :=
  { h with hold_ := hhold, scale_ := hscale }

theorem tableOk_credit {t : Table} {credit : SMap Nat} (h : TableOk t) (hcredit : SMap.wf 0 credit = true) :
    TableOk { t with credit := credit } :=
  { h with credit_ := hcredit }

theorem tableOk_ctr {t : Table} {ctr : SMap (BitVec 24)} (h : TableOk t) (hctr : SMap.wf 0 ctr = true) :
    TableOk { t with ctr := ctr } :=
  { h with ctr_ := hctr }

theorem tableOk_ctrInit {t : Table} {ctrInit : SMap (BitVec 24)} (h : TableOk t) (hctrInit : SMap.wf 0 ctrInit = true) :
    TableOk { t with ctrInit := ctrInit } :=
  { h with ctrInit_ := hctrInit }

theorem tableOk_rcv {t : Table} {rcv : SMap RcvChan} (h : TableOk t) (hrcv : SMap.wf RcvChan.reset rcv = true) :
    TableOk { t with rcv := rcv } :=
  { h with rcv_ := hrcv }

theorem tableOk_seeds {t : Table} {seeds : SMap (BitVec 64)} (h : TableOk t) (hseeds : SMap.wf 0 seeds = true) :
    TableOk { t with seeds := seeds } :=
  { h with seeds_ := hseeds }

theorem tableOk_snd {t : Table} {snd : SMap SndChan} (h : TableOk t) (hsnd : SMap.wf SndChan.reset snd = true) :
    TableOk { t with snd := snd } :=
  { h with snd_ := hsnd }

theorem tableOk_tout {t : Table} {tout : SMap Word} (h : TableOk t) (htout : SMap.wf 0 tout = true) :
    TableOk { t with tout := tout } :=
  { h with tout_ := htout }

theorem tableOk_undrained {t : Table} {undrained : SMap (Option Word)} (h : TableOk t) (hundrained : SMap.wf none undrained =
    true) :
    TableOk { t with undrained := undrained } :=
  { h with undrained_ := hundrained }

theorem tableOk_ctr_ctrInit {t : Table} {ctr : SMap (BitVec 24)} {ctrInit : SMap (BitVec 24)} (h : TableOk t) (hctr : SMap.wf 0
    ctr = true) (hctrInit : SMap.wf 0 ctrInit = true) :
    TableOk { t with ctr := ctr, ctrInit := ctrInit } :=
  { h with ctr_ := hctr, ctrInit_ := hctrInit }

theorem tableOk_snd_rcv {t : Table} {snd : SMap SndChan} {rcv : SMap RcvChan} (h : TableOk t) (hsnd : SMap.wf SndChan.reset snd =
    true) (hrcv : SMap.wf RcvChan.reset rcv = true) :
    TableOk { t with snd := snd, rcv := rcv } :=
  { h with snd_ := hsnd, rcv_ := hrcv }

theorem tableOk_prog_ctr_ctrInit_tout_htab {t : Table} {prog : SMap (BitVec 16)} {ctr : SMap (BitVec 24)} {ctrInit : SMap (BitVec
    24)} {tout : SMap Word} {htab : SMap Word} (h : TableOk t) (hprog : SMap.wf 0 prog = true) (hctr : SMap.wf 0 ctr = true)
    (hctrInit : SMap.wf 0 ctrInit = true) (htout : SMap.wf 0 tout = true) (hhtab : SMap.wf 0 htab = true) :
    TableOk { t with prog := prog, ctr := ctr, ctrInit := ctrInit, tout := tout, htab := htab } :=
  { h with prog_ := hprog, ctr_ := hctr, ctrInit_ := hctrInit, tout_ := htout, htab_ := hhtab }

theorem regionOk_goal {r : Region} {goal : BitVec 3} (h : RegionOk r) (hgoal : goal ≤ 5) :
    RegionOk { r with goal := goal } :=
  { h with goal_ := hgoal }

theorem regionOk_step {r : Region} {step : BitVec 3} (h : RegionOk r) (hstep : step ≤ 5) :
    RegionOk { r with step := step } :=
  { h with step_ := hstep }

theorem regionOk_tgt {r : Region} {tgt : BitVec 3} (h : RegionOk r) (htgt : tgt ≤ 5) :
    RegionOk { r with tgt := tgt } :=
  { h with tgt_ := htgt }

theorem regionOk_step_tgt {r : Region} {step : BitVec 3} {tgt : BitVec 3} (h : RegionOk r) (hstep : step ≤ 5) (htgt : tgt ≤ 5) :
    RegionOk { r with step := step, tgt := tgt } :=
  { h with step_ := hstep, tgt_ := htgt }

theorem Ok.noc {s : State} (h : Ok cmds s) : s.noc.Canonical := h.canonical.noc
theorem Ok.mem {s : State} (h : Ok cmds s) : s.mem.Canonical := h.canonical.mem
theorem Ok.fuses {s : State} (h : Ok cmds s) : s.fuses.Canonical := h.canonical.fuses

theorem ok_noc {s : State} {n : Noc} (h : Ok cmds s) (hn : n.Canonical) : Ok cmds { s with noc := n } :=
  { h with slots_ := hn.slots, queues_ := hn.queues, chanQ_ := hn.chanQ, links_ := hn.links, sent_ := hn.sent }

theorem ok_mem {s : State} {m : MemSys} (h : Ok cmds s) (hm : m.Canonical) : Ok cmds { s with mem := m } :=
  { h with hbm_ := hm.hbm, ddr_ := hm.ddr, shelf_ := hm.shelf, shelfErr_ := hm.shelfErr, ceSeen_ := hm.ceSeen,
           spares_ := hm.spares, bad_ := hm.bad, refreshed_ := hm.refreshed, fired_ := hm.fired, firedNet_ := hm.firedNet }

theorem ok_fuses {s : State} {f : Fuses} (h : Ok cmds s) (hf : f.Canonical) : Ok cmds { s with fuses := f } :=
  { h with lmap_ := hf.lmap, pcore_ := hf.pcore, tblStat_ := hf.tblStat, keyHash_ := hf.keyHash, life_ := hf.life, few_ := hf.few }

theorem ok_host {s : State} {p : HostPort} (h : Ok cmds s) (hq : SMap.wf QueuePair.reset p.qps = true)
    (hc : SMap.wf SndChan.reset p.chans = true) : Ok cmds { s with host := p } :=
  { h with qps_ := hq, chans_ := hc }

theorem ok_dma_noc_ports {s : State} {d : SMap DmaChan} {n : Noc} {p : SMap Port} (h : Ok cmds s) (hd : SMap.wf DmaChan.reset d = true)
    (hn : n.Canonical) (hp : SMap.wf Port.reset p = true) : Ok cmds { s with dma := d, noc := n, ports := p } :=
  { h with dma_ := hd, ports_ := hp, slots_ := hn.slots, queues_ := hn.queues, chanQ_ := hn.chanQ, links_ := hn.links, sent_ := hn.sent }

theorem of_ite_some {α : Type} {c : Prop} [Decidable c] {a b : α} (h : (if c then some a else none) = some b) : c ∧ a = b := by
  by_cases hc : c
  · rw [if_pos hc] at h; cases h; exact ⟨hc, rfl⟩
  · rw [if_neg hc] at h; cases h

theorem ok_log {s : State} {l : EventLog} (h : Ok cmds s) (hl : SMap.wf 0 l.recs = true) : Ok cmds { s with log := l } :=
  { h with logRecs_ := hl }

theorem ok_recs {s : State} {r : Records} (h : Ok cmds s) (h1 : SMap.wf 0 r.curve = true) (h2 : SMap.wf 0 r.curveHdr = true) :
    Ok cmds { s with recs := r } :=
  { h with recCurve_ := h1, recHdr_ := h2 }

theorem ok_foldl_mem {β : Type} {f : State → β → State} {l : List β} {a : State} (h : Ok cmds a)
    (hf : ∀ (a : State) (b : β), b ∈ l → Ok cmds a → Ok cmds (f a b)) : Ok cmds (l.foldl f a) := by
  induction l generalizing a with
  | nil => exact h
  | cons b l ih => exact ih (hf a b (by simp) h) (fun a b' hb => hf a b' (by simp [hb]))

theorem ok_id {s : State} (h : Ok cmds s) : Ok cmds (id s) := h

theorem ok_elim {α : Type} {o : Option α} {s : State} {f : α → State} (h : Ok cmds s) (hf : ∀ r, Ok cmds (f r)) : Ok cmds (o.elim s f) := by
  cases o with
  | none => exact h
  | some r => exact hf r

/-- A map written out with rising keys and no entry at the default. -/
theorem wf_ranged {α : Type} [DecidableEq α] {d v : α} (hv : v ≠ d) (n : Nat) :
    ∀ m, SMap.wf d ((List.range' m n).map (fun k => (k, v))) = true := by
  induction n with
  | zero => intro m; rfl
  | succ n ih =>
    intro m
    rw [List.range'_succ, List.map_cons]
    refine SMap.wf_cons.2 ⟨hv, ?_, ih (m + 1)⟩
    intro x hx
    obtain ⟨y, hy, rfl⟩ := List.mem_map.1 hx
    have := (List.mem_range'_1.1 hy).1
    dsimp only
    omega

/-- Every entry of such a map, and what it reads elsewhere, has a property that both values have. -/
theorem get_ranged {α : Type} {P : α → Prop} {d v : α} (hd : P d) (hv : P v) (l : List Nat) (k : Nat) :
    P (SMap.get d (l.map (fun k => (k, v))) k) := by
  induction l with
  | nil => exact hd
  | cons j l ih =>
    simp only [List.map_cons, SMap.get]
    split
    · exact hv
    · split
      · exact hd
      · exact ih

end Sys2Proof.Machine
end

