-- ==== Sys2Proof/Laws/CanonOps.lean ====
section
/-!
SUPPORT. Every operation of Machine/Ops.lean keeps the canonical form.
-/
namespace Sys2Proof.Machine

variable {cmds : List Instr}

theorem State.modTable_ok {s : State} {t : Nat} {f : Table → Table} (h : Ok cmds s) (hf : ∀ x, TableOk x → TableOk (f x)) : Ok cmds (s.modTable t f) := by
  unfold State.modTable
  exact ok_tables h (each_modify h.tables_ t (fun x hx => (hf x hx.ok).canonical))

theorem State.table_ok {s : State} {t : Nat} (h : Ok cmds s) : TableOk (s.table t) := (h.tables_.2 t).ok

theorem State.modCore_ok {s : State} {t : Nat} {f : Core → Core} (h : Ok cmds s) (hf : ∀ x, CoreOk x → CoreOk (f x)) : Ok cmds (s.modCore t f) := by
  unfold State.modCore
  exact ok_cores h (each_modify h.cores_ t (fun x hx => (hf x hx.ok).canonical))

theorem State.core_ok {s : State} {t : Nat} (h : Ok cmds s) : CoreOk (s.core t) := (h.cores_.2 t).ok

theorem State.modRegion_ok {s : State} {t : Nat} {f : Region → Region} (h : Ok cmds s) (hf : ∀ x, RegionOk x → RegionOk (f x)) : Ok cmds (s.modRegion t f) := by
  unfold State.modRegion
  exact ok_regions h (each_modify h.regions_ t (fun x hx => (hf x hx.ok).legal))

theorem State.region_ok {s : State} {t : Nat} (h : Ok cmds s) : RegionOk (s.region t) := (h.regions_.2 t).ok

theorem State.modJob_ok {s : State} {j : Nat} {f : Job → Job} (hs : Ok cmds s) : Ok cmds (State.modJob s j f) := by
  unfold State.modJob
  repeat any_goals first
    | with_reducible assumption
    | with_reducible apply hf
    | (with_reducible refine ok_jobs (by with_reducible assumption) ?_)
    | with_reducible apply SMap.wf_modify
    | (with_reducible exact SParts.jobs_ (by with_reducible assumption))

theorem State.modDma_ok {s : State} {k : Nat} {f : DmaChan → DmaChan} (hs : Ok cmds s) : Ok cmds (State.modDma s k f) := by
  unfold State.modDma
  repeat any_goals first
    | with_reducible assumption
    | with_reducible apply hf
    | (with_reducible refine ok_dma (by with_reducible assumption) ?_)
    | with_reducible apply SMap.wf_modify
    | (with_reducible exact SParts.dma_ (by with_reducible assumption))

theorem State.modPort_ok {s : State} {q : Nat} {f : Port → Port} (hs : Ok cmds s) : Ok cmds (State.modPort s q f) := by
  unfold State.modPort
  repeat any_goals first
    | with_reducible assumption
    | with_reducible apply hf
    | (with_reducible refine ok_ports (by with_reducible assumption) ?_)
    | with_reducible apply SMap.wf_modify
    | (with_reducible exact SParts.ports_ (by with_reducible assumption))

theorem State.modQp_ok {s : State} {n : Nat} {f : QueuePair → QueuePair} (hs : Ok cmds s) : Ok cmds (State.modQp s n f) := by
  unfold State.modQp
  repeat any_goals first
    | with_reducible assumption
    | with_reducible apply hf
    | ((try lift_lets); intro (x : HostPort); dsimp only [x]; clear x)
    | (with_reducible refine ok_qps (by with_reducible assumption) ?_)
    | with_reducible apply SMap.wf_modify
    | (with_reducible exact SParts.qps_ (by with_reducible assumption))

theorem State.send_ok {s : State} {x : HostTx} (hs : Ok cmds s) : Ok cmds (State.send s x) := by
  unfold State.send
  repeat any_goals first
    | with_reducible assumption
    | with_reducible refine fun _ => ?_
    | ((try lift_lets); intro (x : HostPort); dsimp only [x]; clear x)
    | with_reducible apply State.modQp_ok
    | split

theorem State.expect_ok {s : State} {n : Nat} {typ : BitVec 8} {tag : BitVec 32} (hs : Ok cmds s) : Ok cmds (State.expect s n typ tag) := by
  unfold State.expect
  repeat any_goals first
    | with_reducible assumption
    | with_reducible refine fun _ => ?_
    | with_reducible apply State.modQp_ok

theorem State.settle_ok {s : State} {n : Nat} {typ : BitVec 8} {tag : BitVec 32} {x : Option HostTx} (hs : Ok cmds s) : Ok cmds (State.settle s n typ tag x) := by
  unfold State.settle
  repeat any_goals first
    | with_reducible assumption
    | with_reducible refine fun _ => ?_
    | ((try lift_lets); intro x; refine keep_let (P := Ok cmds x) ?_ (fun hx => ?_); rotate_left; clear_value x; rotate_right; unfold x; clear x)
    | ((try lift_lets); intro x; clear_value x)
    | with_reducible apply State.modQp_ok
    | with_reducible apply State.send_ok
    | with_reducible apply ok_foldl
    | split

theorem State.answer_ok {s : State} {qpn : BitVec 24} {typ : BitVec 8} {tag : BitVec 32} {job : BitVec 8} {status : BitVec 16} {body : List Byte} (hs : Ok cmds s) : Ok cmds (State.answer s qpn typ tag job status body) := by
  unfold State.answer
  repeat any_goals first
    | with_reducible assumption
    | with_reducible apply State.settle_ok

theorem State.syncRegion_ok {s : State} {r : Nat} (hs : Ok cmds s) : Ok cmds (State.syncRegion s r) := by
  unfold State.syncRegion
  repeat any_goals first
    | with_reducible assumption
    | with_reducible refine fun _ => ?_
    | ((try lift_lets); intro x; refine keep_let (P := RegionOk x) ?_ (fun hx => ?_); rotate_left; clear_value x; rotate_right; unfold x; clear x)
    | ((try lift_lets); intro x; clear_value x)
    | with_reducible apply State.modRegion_ok
    | with_reducible apply State.region_ok
    | split

theorem State.setPcore_ok {s : State} {t c : Nat} {v : Byte} (hs : Ok cmds s) : Ok cmds (State.setPcore s t c v) := by
  unfold State.setPcore
  repeat any_goals first
    | with_reducible assumption
    | ((try lift_lets); intro (x : Fuses); dsimp only [x]; clear x)
    | ((try lift_lets); intro x; clear_value x)
    | (with_reducible refine ok_pcore (by with_reducible assumption) ?_)
    | with_reducible apply SMap.wf_set
    | (with_reducible exact SParts.pcore_ (by with_reducible assumption))

theorem State.setTblStat_ok {s : State} {n : Nat} {v : BitVec 9} (hs : Ok cmds s) : Ok cmds (State.setTblStat s n v) := by
  unfold State.setTblStat
  repeat any_goals first
    | with_reducible assumption
    | ((try lift_lets); intro (x : Fuses); dsimp only [x]; clear x)
    | ((try lift_lets); intro x; clear_value x)
    | (with_reducible refine ok_tblStat (by with_reducible assumption) ?_)
    | with_reducible apply SMap.wf_set
    | (with_reducible exact SParts.tblStat_ (by with_reducible assumption))

theorem State.setCsr_ok {s : State} {a : Nat} {v : Word} (hs : Ok cmds s) : Ok cmds (State.setCsr s a v) := by
  unfold State.setCsr
  repeat any_goals first
    | with_reducible assumption
    | (with_reducible refine ok_csr (by with_reducible assumption) ?_)
    | with_reducible apply SMap.wf_set
    | (with_reducible exact SParts.csr_ (by with_reducible assumption))

theorem State.modCsr_ok {s : State} {a : Nat} {f : Word → Word} (hs : Ok cmds s) : Ok cmds (State.modCsr s a f) := by
  unfold State.modCsr
  repeat any_goals first
    | with_reducible assumption
    | with_reducible apply hf
    | with_reducible apply State.setCsr_ok

theorem State.setCsrs_ok {s : State} {a : Nat} {ws : List Word} (hs : Ok cmds s) : Ok cmds (s.setCsrs a ws) := by
  induction ws generalizing s a with
  | nil => exact hs
  | cons w ws ih => exact ih (State.setCsr_ok hs)

theorem State.mark_ok {s : State} {a v : Nat} (hs : Ok cmds s) : Ok cmds (State.mark s a v) := by
  unfold State.mark
  repeat any_goals first
    | with_reducible assumption
    | (with_reducible refine ok_marks (by with_reducible assumption) ?_)
    | with_reducible apply SMap.wf_set
    | (with_reducible exact SParts.marks_ (by with_reducible assumption))
    | split

theorem State.countUp_ok {s : State} {a n : Nat} (hs : Ok cmds s) : Ok cmds (State.countUp s a n) := by
  unfold State.countUp
  repeat any_goals first
    | with_reducible assumption
    | with_reducible refine fun _ => ?_
    | with_reducible apply State.mark_ok
    | with_reducible apply State.modCsr_ok

theorem State.setFlags_ok {s : State} {a : Nat} {v : Word} (hs : Ok cmds s) : Ok cmds (State.setFlags s a v) := by
  unfold State.setFlags
  repeat any_goals first
    | with_reducible assumption
    | with_reducible refine fun _ => ?_
    | with_reducible apply State.mark_ok
    | with_reducible apply State.modCsr_ok

theorem State.countPort_ok {s : State} {q i n : Nat} (hs : Ok cmds s) : Ok cmds (State.countPort s q i n) := by
  unfold State.countPort
  repeat any_goals first
    | with_reducible assumption
    | with_reducible refine fun _ => ?_
    | with_reducible apply State.mark_ok
    | with_reducible apply State.modPort_ok

theorem State.setCsr64_ok {s : State} {a : Nat} {v : BitVec 64} (hs : Ok cmds s) : Ok cmds (State.setCsr64 s a v) := by
  unfold State.setCsr64
  repeat any_goals first
    | with_reducible assumption
    | with_reducible apply State.setCsr_ok

theorem EventLog.write_recs {l : EventLog} (r : BitVec 256) (h : SMap.wf 0 l.recs = true) : SMap.wf 0 (l.write r).recs = true := by
  unfold EventLog.write
  dsimp only
  split
  · exact h
  · exact SMap.wf_set _ _ h

theorem EventLog.raise_recs {l : EventLog} (now : Nat) (r : BitVec 256) (h : SMap.wf 0 l.recs = true) :
    SMap.wf 0 (l.raise now r).recs = true := by
  unfold EventLog.raise
  refine foldl_keeps (P := fun l : EventLog => SMap.wf 0 l.recs = true) ?_ (fun l r h => EventLog.write_recs r h)
  dsimp only
  split <;> exact h

theorem State.raise_ok {s : State} {e : Ev} (hs : Ok cmds s) : Ok cmds (s.raise e) := ok_log hs (EventLog.raise_recs _ _ hs.logRecs_)

theorem EventLog.unraise_recs {l : EventLog} {now : Nat} {p : BitVec 256 → Bool} (h : SMap.wf 0 l.recs = true) :
    SMap.wf 0 (l.unraise now p).recs = true := by
  unfold EventLog.unraise
  split
  · exact h
  · exact foldl_keeps (P := fun l : EventLog => SMap.wf 0 l.recs = true) h (fun l r h => EventLog.write_recs r h)

theorem State.raiseTable_ok {s : State} {t code cls detail : Nat} (hs : Ok cmds s) : Ok cmds (State.raiseTable s t code cls detail) := by
  unfold State.raiseTable
  repeat any_goals first
    | with_reducible assumption
    | with_reducible apply State.raise_ok

theorem State.raiseDev_ok {s : State} {code cls detail : Nat} (hs : Ok cmds s) : Ok cmds (State.raiseDev s code cls detail) := by
  unfold State.raiseDev
  repeat any_goals first
    | with_reducible assumption
    | with_reducible apply State.raise_ok

theorem Noc.discard_ok {n : Noc} {ts : List Nat} (h : n.Canonical) : (n.discard ts).Canonical :=
  ⟨h.slots, SMap.wf_mapFilter _ _ (by simp) h.queues, SMap.wf_filter _ h.chanQ, SMap.wf_mapFilter _ _ (by simp) h.links, h.sent⟩

theorem dropCells_ok {ports : SMap Port} {ts : List Nat} (h : SMap.wf Port.reset ports = true) :
    SMap.wf Port.reset (dropCells ports ts) = true := SMap.wf_mapAll _ h

theorem Table.stop_ok {t : Table} (ht : TableOk t) : TableOk (Table.stop t) := by
  unfold Table.stop
  repeat any_goals first
    | with_reducible assumption
    | with_reducible refine fun _ => ?_
    | ((try lift_lets); intro x; clear_value x)
    | with_reducible apply Noc.discard_ok
    | (with_reducible refine tableOk_snd_rcv (by with_reducible assumption) ?_ ?_)
    | with_reducible apply SMap.wf_mapAll
    | with_reducible exact SMap.wf_nil _
    | (with_reducible exact TParts.snd_ (by with_reducible assumption))
    | (with_reducible exact TParts.rcv_ (by with_reducible assumption))

theorem stopDma_ok {dma : SMap DmaChan} {j : Nat} (h : SMap.wf DmaChan.reset dma = true) : SMap.wf DmaChan.reset (stopDma dma j) = true :=
  SMap.wf_mapAll _ h

theorem State.failPause_ok {s : State} {j : Nat} {b : Job} (hs : Ok cmds s) : Ok cmds (State.failPause s j b) := by
  unfold State.failPause
  repeat any_goals first
    | with_reducible assumption
    | with_reducible refine fun _ => ?_
    | with_reducible apply State.answer_ok
    | with_reducible apply ok_foldl
    | with_reducible exact SMap.wf_nil _
    | split

theorem State.endWaiters_ok {s : State} {j : Nat} {b : Job} (hs : Ok cmds s) : Ok cmds (State.endWaiters s j b) := by
  unfold State.endWaiters
  repeat any_goals first
    | with_reducible assumption
    | with_reducible refine fun _ => ?_
    | ((try lift_lets); intro x; refine keep_let (P := Ok cmds x) ?_ (fun hx => ?_); rotate_left; clear_value x; rotate_right; unfold x; clear x)
    | with_reducible apply State.answer_ok
    | with_reducible apply State.failPause_ok
    | with_reducible apply ok_foldl
    | with_reducible exact SMap.wf_nil _
    | split

theorem State.abortJob_ok {s : State} {j code : Nat} (hs : Ok cmds s) : Ok cmds (s.abortJob j code) := by
  unfold State.abortJob
  split
  · exact hs
  · next b _ =>
    split
    · exact hs
    · split
      · exact State.modJob_ok hs
      · exact hs
    · have h1 : Ok cmds (b.tables.foldl (fun acc t => acc.modTable t Table.stop) (s.endWaiters j b)) :=
        ok_foldl (State.endWaiters_ok hs) (fun a t h => State.modTable_ok h (fun x hx => Table.stop_ok hx))
      exact State.modJob_ok (ok_dma_noc_ports h1 (SMap.wf_mapAll _ h1.dma_) (Noc.discard_ok h1.noc) (SMap.wf_mapAll _ h1.ports_))

theorem State.faultTable_ok {s : State} {t code detail : Nat} (hs : Ok cmds s) : Ok cmds (State.faultTable s t code detail) := by
  unfold State.faultTable
  repeat any_goals first
    | with_reducible assumption
    | ((try lift_lets); intro x; refine keep_let (P := Ok cmds x) ?_ (fun hx => ?_); rotate_left; clear_value x; rotate_right; unfold x; clear x)
    | with_reducible apply State.abortJob_ok
    | with_reducible apply State.raiseTable_ok
    | with_reducible apply State.table_ok
    | split

theorem State.excursion_ok {s : State} {code j : Nat} (hs : Ok cmds s) : Ok cmds (State.excursion s code j) := by
  unfold State.excursion
  repeat any_goals first
    | with_reducible assumption
    | with_reducible refine fun _ => ?_
    | ((try lift_lets); intro x; refine keep_let (P := Ok cmds x) ?_ (fun hx => ?_); rotate_left; clear_value x; rotate_right; unfold x; clear x)
    | with_reducible apply State.modJob_ok
    | with_reducible apply State.raise_ok
    | with_reducible apply State.send_ok
    | split

theorem State.excursions_ok {s : State} {code : Nat} {p : Job → Bool} (hs : Ok cmds s) : Ok cmds (State.excursions s code p) := by
  unfold State.excursions
  repeat any_goals first
    | with_reducible assumption
    | with_reducible apply hp
    | with_reducible refine fun _ => ?_
    | with_reducible apply State.excursion_ok
    | with_reducible apply ok_foldl
    | split

theorem State.takeFree_ok {s : State} (hs : Ok cmds s) : Ok cmds (State.takeFree s).2 := by
  unfold State.takeFree
  repeat any_goals first
    | with_reducible assumption

end Sys2Proof.Machine
end

