-- ==== Sys2Proof/Laws/CanonIssue.lean ====
section
/-!
SUPPORT. Every operation of Machine/Hazard.lean, Machine/Scratch.lean, Machine/Effects.lean, Machine/Stops.lean, Machine/Noc.lean, Machine/Chan.lean, Machine/Streamer.lean, Machine/Time.lean, Machine/Issue.lean keeps the canonical form.
-/
namespace Sys2Proof.Machine

variable {cmds : List Instr}

theorem State.hazard_ok {s : State} {t : Nat} {z : Hazard} (hs : Ok cmds s) : Ok cmds (State.hazard s t z) := by
  unfold State.hazard
  repeat any_goals first
    | with_reducible assumption
    | ((try lift_lets); intro x; clear_value x)
    | with_reducible apply State.core_ok
    | with_reducible apply State.mark_ok
    | with_reducible apply State.setCsrs_ok
    | with_reducible apply State.table_ok
    | split

theorem State.noteReads_ok {s : State} {t slot : Nat} {pc : BitVec 17} {ls : List Loc} (hs : Ok cmds s) : Ok cmds (State.noteReads s t slot pc ls) := by
  unfold State.noteReads
  repeat any_goals first
    | with_reducible assumption
    | with_reducible refine fun _ => ?_
    | ((try lift_lets); intro x; refine keep_let (P := Ok cmds x) ?_ (fun hx => ?_); rotate_left; clear_value x; rotate_right; unfold x; clear x)
    | ((try lift_lets); intro x; refine keep_let (P := TableOk x) ?_ (fun hx => ?_); rotate_left; clear_value x; rotate_right; unfold x; clear x)
    | ((try lift_lets); intro x; clear_value x)
    | with_reducible apply State.hazard_ok
    | with_reducible apply State.modTable_ok
    | with_reducible apply State.table_ok
    | with_reducible apply ok_foldl
    | (with_reducible refine tableOk_undrained (by with_reducible assumption) ?_)
    | with_reducible apply SMap.wf_set
    | with_reducible apply SMap.wf_foldl
    | (with_reducible exact TParts.undrained_ (by with_reducible assumption))
    | split

theorem State.noteMReads_ok {s : State} {t : Nat} {rewrites : Bool} {ls : List Loc} (hs : Ok cmds s) : Ok cmds (State.noteMReads s t rewrites ls) := by
  unfold State.noteMReads
  repeat any_goals first
    | with_reducible assumption
    | with_reducible refine fun _ => ?_
    | with_reducible apply State.modTable_ok
    | with_reducible apply ok_foldl
    | (with_reducible refine tableOk_undrained (by with_reducible assumption) ?_)
    | with_reducible apply SMap.wf_set
    | with_reducible apply SMap.wf_filter
    | with_reducible apply SMap.wf_foldl
    | (with_reducible exact TParts.undrained_ (by with_reducible assumption))
    | split

theorem State.noteVisible_ok {s : State} {t : Nat} {p : Pend} (hs : Ok cmds s) : Ok cmds (State.noteVisible s t p) := by
  unfold State.noteVisible
  repeat any_goals first
    | with_reducible assumption
    | with_reducible refine fun _ => ?_
    | ((try lift_lets); intro x; refine keep_let (P := Ok cmds x) ?_ (fun hx => ?_); rotate_left; clear_value x; rotate_right; unfold x; clear x)
    | with_reducible apply State.hazard_ok
    | with_reducible apply State.modTable_ok
    | with_reducible apply State.table_ok
    | with_reducible apply ok_foldl
    | (with_reducible refine tableOk_undrained (by with_reducible assumption) ?_)
    | with_reducible apply SMap.wf_set
    | with_reducible apply SMap.wf_foldl
    | (with_reducible exact TParts.undrained_ (by with_reducible assumption))
    | split

theorem State.noteConflict_ok {s : State} {t slot : Nat} {pc : BitVec 17} {k addr : Nat} {w : Pend} (hs : Ok cmds s) : Ok cmds (State.noteConflict s t slot pc k addr w) := by
  unfold State.noteConflict
  repeat any_goals first
    | with_reducible assumption
    | with_reducible apply State.hazard_ok
    | with_reducible apply State.table_ok
    | split

theorem State.recordFault_ok {s : State} {a : Nat} {v : Word} (hs : Ok cmds s) : Ok cmds (State.recordFault s a v) := by
  unfold State.recordFault
  repeat any_goals first
    | with_reducible assumption
    | with_reducible apply State.mark_ok
    | with_reducible apply State.setCsr_ok
    | split

theorem State.accFault_ok {s : State} {t : Nat} {streamer : Bool} {f : AccFault} (hs : Ok cmds s) : Ok cmds (State.accFault s t streamer f) := by
  unfold State.accFault
  repeat any_goals first
    | with_reducible assumption
    | ((try lift_lets); intro x; refine keep_let (P := Ok cmds x) ?_ (fun hx => ?_); rotate_left; clear_value x; rotate_right; unfold x; clear x)
    | ((try lift_lets); intro x; clear_value x)
    | with_reducible apply State.faultTable_ok
    | with_reducible apply State.recordFault_ok
    | with_reducible apply State.setCsr_ok
    | split

theorem State.accFaults_ok {s : State} {t : Nat} {streamer : Bool} {fs : List AccFault} (hs : Ok cmds s) : Ok cmds (State.accFaults s t streamer fs) := by
  unfold State.accFaults
  repeat any_goals first
    | with_reducible assumption
    | with_reducible refine fun _ => ?_
    | with_reducible apply State.accFault_ok
    | with_reducible apply ok_foldl
    | split

theorem Core.touch_ok {c : Core} {cyc : Nat} {banks : BitVec 16} (hc : CoreOk c) : CoreOk (c.touch cyc banks) := by
  unfold Core.touch
  split <;> exact hc

theorem fetch_ok {c : Core} {cyc port : Nat} {busy : BitVec 16} {as : List Nat} (hc : CoreOk c) : CoreOk (fetch c cyc port busy as).core := by
  refine Core.touch_ok (coreOk_outReg hc ?_)
  exact SMap.wf_foldl hc.outReg_ (fun m w h => SMap.wf_set _ _ h)

theorem State.countCe_ok {s : State} {a n : Nat} (hs : Ok cmds s) : Ok cmds (State.countCe s a n) := by
  unfold State.countCe
  repeat any_goals first
    | with_reducible assumption
    | with_reducible apply State.countUp_ok
    | split

theorem State.noteSpdRead_ok {s : State} {t slot : Nat} {pc : BitVec 17} {k : Nat} {as : List Nat} (hs : Ok cmds s) : Ok cmds (State.noteSpdRead s t slot pc k as) := by
  unfold State.noteSpdRead
  repeat any_goals first
    | with_reducible assumption
    | with_reducible refine fun _ => ?_
    | ((try lift_lets); intro x; refine keep_let (P := Ok cmds x) ?_ (fun hx => ?_); rotate_left; clear_value x; rotate_right; unfold x; clear x)
    | with_reducible apply State.noteConflict_ok
    | with_reducible apply State.noteReads_ok
    | split

theorem State.spdFetch_ok {s : State} {t slot : Nat} {pc : BitVec 17} {lc k port : Nat} {as : List Nat} (hs : Ok cmds s) : Ok cmds (State.spdFetch s t slot pc lc k port as).2.1 := by
  unfold State.spdFetch
  refine State.countCe_ok ?_
  exact State.modCore_ok (State.noteSpdRead_ok hs) (fun _ _ => fetch_ok (State.core_ok hs))

theorem State.spdRead_ok {s : State} {t slot : Nat} {pc : BitVec 17} {lc k port : Nat} {as : List Nat} (hs : Ok cmds s) : Ok cmds (State.spdRead s t slot pc lc k port as).2.1 := by
  unfold State.spdRead
  repeat any_goals first
    | with_reducible assumption
    | with_reducible refine fun _ => ?_
    | with_reducible apply State.spdFetch_ok
    | split

theorem Core.putBits_ok {c : Core} {a : Nat} {m v : Byte} (hc : CoreOk c) : CoreOk (Core.putBits c a m v) := by
  unfold Core.putBits
  repeat any_goals first
    | with_reducible assumption
    | (with_reducible refine coreOk_spd (by with_reducible assumption) ?_)
    | with_reducible apply SMap.wf_set
    | (with_reducible exact CParts.spd_ (by with_reducible assumption))

theorem Core.putWord_ok {c : Core} {w : Nat} {bs : List (Nat × Byte × Byte)} (hc : CoreOk c) : CoreOk (c.putWord w bs).1 := by
  have h : CoreOk (bs.foldl (fun c b => c.putBits b.1 b.2.1 b.2.2) { c with spdErr := SMap.set none c.spdErr w none }) :=
    foldl_keeps (P := fun c => CoreOk c) (coreOk_spdErr hc (SMap.wf_set _ _ hc.spdErr_)) (fun c b h => Core.putBits_ok h)
  unfold Core.putWord
  dsimp only
  split
  · exact h
  · split
    · exact h
    · split
      · exact hc
      · exact h

theorem Core.putAll_ok {c : Core} {bs : List (Nat × Byte × Byte)} (hc : CoreOk c) : CoreOk (c.putAll bs).1 :=
  foldl_keeps (P := fun x : Core × Option Nat × Nat => CoreOk x.1) hc (fun x w h => Core.putWord_ok h)

theorem State.spdWrites_ok {s : State} {t : Nat} {ws : List SpdWrite} (hs : Ok cmds s) : Ok cmds (State.spdWrites s t ws) := by
  refine State.accFaults_ok (ok_foldl_fst hs (fun a w h => ?_))
  exact State.countCe_ok (State.modCore_ok h (fun _ _ => Core.putAll_ok (State.core_ok h)))

theorem MemSys.shelfPut_ok {m : MemSys} {u : Nat} {bs : List (Nat × Byte)} (hm : m.Canonical) : (m.shelfPut u bs).1.Canonical := by
  have h : ({ m with shelf := SMap.setAll 0 m.shelf bs, shelfErr := SMap.set none m.shelfErr u none } : MemSys).Canonical :=
    { hm with shelf := SMap.wf_setAll _ hm.shelf, shelfErr := SMap.wf_set _ _ hm.shelfErr }
  unfold MemSys.shelfPut
  dsimp only
  split
  · exact h
  · split
    · exact h
    · split
      · exact hm
      · exact h

theorem MemSys.shelfWrite_ok {m : MemSys} {a : Nat} {bs : List Byte} (hm : m.Canonical) : (m.shelfWrite a bs).1.Canonical :=
  foldl_keeps (P := fun x : MemSys × Option Nat × Nat => x.1.Canonical) hm (fun x u h => MemSys.shelfPut_ok h)

theorem State.shelfWrites_ok {s : State} {t : Nat} {ws : List (Nat × Nat × List Byte)} (hs : Ok cmds s) : Ok cmds (State.shelfWrites s t ws) := by
  refine State.accFaults_ok (ok_foldl_fst hs (fun a w h => ?_))
  exact State.countCe_ok (ok_mem h (MemSys.shelfWrite_ok h.mem))

theorem State.setCounter_ok {s : State} {t n v : Nat} (hs : Ok cmds s) : Ok cmds (State.setCounter s t n v) := by
  unfold State.setCounter
  repeat any_goals first
    | with_reducible assumption
    | with_reducible refine fun _ => ?_
    | with_reducible apply State.modTable_ok
    | (with_reducible refine tableOk_ctr (by with_reducible assumption) ?_)
    | with_reducible apply SMap.wf_set
    | (with_reducible exact TParts.ctr_ (by with_reducible assumption))

theorem State.synFault_ok {s : State} {t n : Nat} {host : Bool} {cause : Nat} (hs : Ok cmds s) : Ok cmds (State.synFault s t n host cause) := by
  unfold State.synFault
  repeat any_goals first
    | with_reducible assumption
    | with_reducible apply State.recordFault_ok

theorem State.addCounter_ok {s : State} {t n a : Nat} (hs : Ok cmds s) : Ok cmds (State.addCounter s t n a) := by
  unfold State.addCounter
  repeat any_goals first
    | with_reducible assumption
    | ((try lift_lets); intro x; clear_value x)
    | with_reducible apply State.faultTable_ok
    | with_reducible apply State.setCounter_ok
    | with_reducible apply State.synFault_ok
    | split

theorem State.setHostCounter_ok {s : State} {j n v : Nat} (hs : Ok cmds s) : Ok cmds (State.setHostCounter s j n v) := by
  unfold State.setHostCounter
  repeat any_goals first
    | with_reducible assumption
    | (with_reducible refine ok_hctr (by with_reducible assumption) ?_)
    | with_reducible apply SMap.wf_set
    | (with_reducible exact SParts.hctr_ (by with_reducible assumption))

theorem State.markSlot_ok {s : State} {j n : Nat} (hs : Ok cmds s) : Ok cmds (State.markSlot s j n) := by
  unfold State.markSlot
  repeat any_goals first
    | with_reducible assumption
    | with_reducible refine fun _ => ?_
    | ((try lift_lets); intro x; clear_value x)
    | with_reducible apply State.modJob_ok

theorem State.addHost_ok {s : State} {t n a : Nat} (hs : Ok cmds s) : Ok cmds (State.addHost s t n a) := by
  unfold State.addHost
  repeat any_goals first
    | with_reducible assumption
    | ((try lift_lets); intro x; clear_value x)
    | with_reducible apply State.faultTable_ok
    | with_reducible apply State.markSlot_ok
    | with_reducible apply State.setHostCounter_ok
    | with_reducible apply State.synFault_ok
    | with_reducible apply State.table_ok
    | split

theorem State.setQst_ok {s : State} {k q : Nat} {v : QState} (hs : Ok cmds s) : Ok cmds (State.setQst s k q v) := by
  unfold State.setQst
  repeat any_goals first
    | with_reducible assumption
    | with_reducible apply State.setCsr_ok

theorem State.qmove_ok {s : State} {k q : Nat} {free pend full held : Int} {next old : Nat} (hs : Ok cmds s) : Ok cmds (State.qmove s k q free pend full held next old) := by
  unfold State.qmove
  repeat any_goals first
    | with_reducible assumption
    | ((try lift_lets); intro x; clear_value x)
    | with_reducible apply State.setQst_ok

theorem Core.offer_ok {c : Core} {list : Nat} {cands : List (Nat × Word)} {idx : Word} (hc : CoreOk c) : CoreOk (Core.offer c list cands idx) := by
  unfold Core.offer
  repeat any_goals first
    | with_reducible assumption
    | with_reducible refine fun _ => ?_
    | with_reducible apply ok_foldl
    | with_reducible apply ok_foldl_fst
    | with_reducible apply ok_foldl_snd
    | (with_reducible refine coreOk_tk (by with_reducible assumption) ?_)
    | with_reducible apply SMap.wf_modify
    | with_reducible apply SMap.wf_foldl
    | with_reducible exact SMap.wf_nil _
    | (with_reducible exact CParts.tk_ (by with_reducible assumption))
    | split

theorem State.setAccFlags_ok {s : State} {k : Nat} {fs : List (Nat × BitVec 5)} (hs : Ok cmds s) : Ok cmds (State.setAccFlags s k fs) := by
  unfold State.setAccFlags
  repeat any_goals first
    | with_reducible assumption
    | with_reducible refine fun _ => ?_
    | ((try lift_lets); intro x; refine keep_let (P := Ok cmds x) ?_ (fun hx => ?_); rotate_left; clear_value x; rotate_right; unfold x; clear x)
    | ((try lift_lets); intro x; clear_value x)
    | with_reducible apply State.modCsr_ok
    | with_reducible apply State.setFlags_ok
    | with_reducible apply ok_foldl

theorem State.taskRegWrite_ok {s : State} {a : Nat} {v : Word} (hs : Ok cmds s) : Ok cmds (State.taskRegWrite s a v) := by
  unfold State.taskRegWrite
  repeat any_goals first
    | with_reducible assumption
    | ((try lift_lets); intro x; refine keep_let (P := Ok cmds x) ?_ (fun hx => ?_); rotate_left; clear_value x; rotate_right; unfold x; clear x)
    | ((try lift_lets); intro x; clear_value x)
    | with_reducible apply State.setCsr_ok
    | split

theorem State.putCodebook_ok {s : State} {k : Nat} {book : Bool} {q : Nat} {vals : List (BitVec 16)} {commit : Bool} (hs : Ok cmds s) : Ok cmds (State.putCodebook s k book q vals commit) := by
  unfold State.putCodebook
  refine State.modCsr_ok (State.modCore_ok hs (fun c hc => coreOk_codebook hc ?_))
  split
  · exact SMap.wf_setAll _ (SMap.wf_setAll _ hc.codebook_)
  · exact SMap.wf_setAll _ hc.codebook_

theorem State.applyEff_ok {s : State} {t : Nat} {p : Pend} (hs : Ok cmds s) : Ok cmds (State.applyEff s t p) := by
  unfold State.applyEff
  repeat any_goals first
    | with_reducible assumption
    | with_reducible refine fun _ => ?_
    | ((try lift_lets); intro (x : MemSys); dsimp only [x]; clear x)
    | with_reducible apply Core.offer_ok
    | with_reducible apply Core.putAll_ok
    | with_reducible apply State.accFaults_ok
    | with_reducible apply State.addCounter_ok
    | with_reducible apply State.addHost_ok
    | with_reducible apply State.modCore_ok
    | with_reducible apply State.modCsr_ok
    | with_reducible apply State.modTable_ok
    | with_reducible apply State.putCodebook_ok
    | with_reducible apply State.qmove_ok
    | with_reducible apply State.setAccFlags_ok
    | with_reducible apply State.setCsr64_ok
    | with_reducible apply State.setCsr_ok
    | with_reducible apply State.setFlags_ok
    | with_reducible apply State.shelfWrites_ok
    | with_reducible apply State.spdWrites_ok
    | with_reducible apply State.taskRegWrite_ok
    | with_reducible apply ok_foldl
    | with_reducible apply ok_foldl_fst
    | with_reducible apply ok_foldl_snd
    | (with_reducible refine coreOk_sreg (by with_reducible assumption) ?_)
    | (with_reducible refine coreOk_vreg (by with_reducible assumption) ?_)
    | (with_reducible refine coreOk_accV (by with_reducible assumption) ?_)
    | (with_reducible refine coreOk_hold_scale (by with_reducible assumption) ?_ ?_)
    | (with_reducible refine coreOk_curve_curveHdr (by with_reducible assumption) ?_ ?_)
    | (with_reducible refine coreOk_tk (by with_reducible assumption) ?_)
    | (with_reducible refine ok_pending (by with_reducible assumption) ?_)
    | with_reducible apply SMap.wf_set
    | with_reducible apply SMap.wf_setAll
    | with_reducible apply SMap.wf_filter
    | with_reducible apply SMap.wf_foldl
    | with_reducible exact SMap.wf_nil _
    | (with_reducible exact CParts.sreg_ (by with_reducible assumption))
    | (with_reducible exact CParts.vreg_ (by with_reducible assumption))
    | (with_reducible exact CParts.accV_ (by with_reducible assumption))
    | (with_reducible exact CParts.hold_ (by with_reducible assumption))
    | (with_reducible exact CParts.scale_ (by with_reducible assumption))
    | (with_reducible exact CParts.curve_ (by with_reducible assumption))
    | (with_reducible exact CParts.curveHdr_ (by with_reducible assumption))
    | (with_reducible exact CParts.tk_ (by with_reducible assumption))
    | (with_reducible exact SParts.pending_ (by with_reducible assumption))
    | split

theorem State.applyDue_ok {s : State} {t c : Nat} (hs : Ok cmds s) : Ok cmds (State.applyDue s t c) := by
  unfold State.applyDue
  repeat any_goals first
    | with_reducible assumption
    | with_reducible refine fun _ => ?_
    | ((try lift_lets); intro x; refine keep_let (P := Ok cmds x) ?_ (fun hx => ?_); rotate_left; clear_value x; rotate_right; unfold x; clear x)
    | ((try lift_lets); intro (x : _ → _); unfold x; clear x; try beta_reduce)
    | ((try lift_lets); intro x; clear_value x)
    | with_reducible apply State.applyEff_ok
    | with_reducible apply State.modTable_ok
    | with_reducible apply State.noteVisible_ok
    | with_reducible apply State.table_ok
    | with_reducible apply ok_foldl
    | with_reducible apply SMap.wf_filter
    | with_reducible exact SMap.wf_nil _
    | split

theorem State.signalNext_ok {s : State} {t n a : Nat} (hs : Ok cmds s) : Ok cmds (State.signalNext s t n a) := by
  unfold State.signalNext
  repeat any_goals first
    | with_reducible assumption
    | with_reducible refine fun _ => ?_
    | ((try lift_lets); intro x; clear_value x)
    | with_reducible apply State.modTable_ok

theorem State.post_ok {s : State} {t slot : Nat} {pc : BitVec 17} {checked : Bool} {es : List (Nat × Eff)} (hs : Ok cmds s) : Ok cmds (State.post s t slot pc checked es) := by
  unfold State.post
  repeat any_goals first
    | with_reducible assumption
    | with_reducible refine fun _ => ?_
    | ((try lift_lets); intro x; clear_value x)
    | with_reducible apply State.modTable_ok

theorem State.busyFor_ok {s : State} {t n : Nat} (hs : Ok cmds s) : Ok cmds (State.busyFor s t n) := by
  unfold State.busyFor
  repeat any_goals first
    | with_reducible assumption
    | with_reducible refine fun _ => ?_
    | ((try lift_lets); intro x; clear_value x)
    | with_reducible apply State.modTable_ok

theorem State.busyWith_ok {s : State} {t : Nat} {es : List (Nat × Eff)} (hs : Ok cmds s) : Ok cmds (State.busyWith s t es) := by
  unfold State.busyWith
  repeat any_goals first
    | with_reducible assumption
    | with_reducible refine fun _ => ?_
    | ((try lift_lets); intro x; clear_value x)
    | with_reducible apply State.modTable_ok

theorem Region.countHeld_ok {g : Region} {now : Nat} {on : Bool} (hg : RegionOk g) : RegionOk (Region.countHeld g now on) := by
  unfold Region.countHeld
  repeat any_goals first
    | with_reducible assumption

theorem State.setCause_ok {s : State} {r c : Nat} (hs : Ok cmds s) : Ok cmds (State.setCause s r c) := by
  unfold State.setCause
  repeat any_goals first
    | with_reducible assumption
    | with_reducible refine fun _ => ?_
    | ((try lift_lets); intro x; refine keep_let (P := Ok cmds x) ?_ (fun hx => ?_); rotate_left; clear_value x; rotate_right; unfold x; clear x)
    | ((try lift_lets); intro x; refine keep_let (P := RegionOk x) ?_ (fun hx => ?_); rotate_left; clear_value x; rotate_right; unfold x; clear x)
    | ((try lift_lets); intro x; clear_value x)
    | with_reducible apply Region.countHeld_ok
    | with_reducible apply State.modRegion_ok
    | with_reducible apply State.region_ok
    | with_reducible apply State.syncRegion_ok
    | split

theorem State.clearCause_ok {s : State} {r c : Nat} (hs : Ok cmds s) : Ok cmds (State.clearCause s r c) := by
  unfold State.clearCause
  refine State.modRegion_ok hs (fun g hg => ?_)
  dsimp only
  split <;> exact ⟨hg.step_, hg.tgt_, hg.goal_⟩

theorem State.modSnd_ok {s : State} {t n : Nat} {f : SndChan → SndChan} (hs : Ok cmds s) : Ok cmds (State.modSnd s t n f) := by
  unfold State.modSnd
  repeat any_goals first
    | with_reducible assumption
    | with_reducible apply hf
    | with_reducible refine fun _ => ?_
    | with_reducible apply State.modTable_ok
    | (with_reducible refine tableOk_snd (by with_reducible assumption) ?_)
    | with_reducible apply SMap.wf_modify
    | (with_reducible exact TParts.snd_ (by with_reducible assumption))

theorem State.modRcv_ok {s : State} {t n : Nat} {f : RcvChan → RcvChan} (hs : Ok cmds s) : Ok cmds (State.modRcv s t n f) := by
  unfold State.modRcv
  repeat any_goals first
    | with_reducible assumption
    | with_reducible apply hf
    | with_reducible refine fun _ => ?_
    | with_reducible apply State.modTable_ok
    | (with_reducible refine tableOk_rcv (by with_reducible assumption) ?_)
    | with_reducible apply SMap.wf_modify
    | (with_reducible exact TParts.rcv_ (by with_reducible assumption))

theorem State.tryOpen_ok {s : State} {t n : Nat} (hs : Ok cmds s) : Ok cmds (State.tryOpen s t n) := by
  unfold State.tryOpen
  repeat any_goals first
    | with_reducible assumption
    | with_reducible refine fun _ => ?_
    | ((try lift_lets); intro x; clear_value x)
    | with_reducible apply State.modSnd_ok
    | split

theorem State.countStop_ok {s : State} {d : Nat} (hs : Ok cmds s) : Ok cmds (State.countStop s d) := by
  unfold State.countStop
  repeat any_goals first
    | with_reducible assumption
    | with_reducible refine fun _ => ?_
    | with_reducible apply State.countUp_ok
    | with_reducible apply State.modRegion_ok
    | with_reducible apply State.region_ok
    | split

theorem State.checkFull_ok {s : State} {d : Nat} (hs : Ok cmds s) : Ok cmds (State.checkFull s d) := by
  unfold State.checkFull
  repeat any_goals first
    | with_reducible assumption
    | with_reducible refine fun _ => ?_
    | ((try lift_lets); intro x; clear_value x)
    | with_reducible apply State.clearCause_ok
    | with_reducible apply State.countStop_ok
    | with_reducible apply State.modRegion_ok
    | with_reducible apply State.setCause_ok
    | split

theorem State.recheckFull_ok {s : State} (hs : Ok cmds s) : Ok cmds (State.recheckFull s) := by
  unfold State.recheckFull
  repeat any_goals first
    | with_reducible assumption
    | with_reducible refine fun _ => ?_
    | with_reducible apply State.checkFull_ok
    | with_reducible apply State.countStop_ok
    | with_reducible apply ok_foldl
    | split

theorem State.checkFeeder_ok {s : State} {r i : Nat} (hs : Ok cmds s) : Ok cmds (State.checkFeeder s r i) := by
  unfold State.checkFeeder
  repeat any_goals first
    | with_reducible assumption
    | with_reducible apply State.checkFull_ok
    | split

theorem State.pushL_ok {s : State} {t n : Nat} {rev : Bool} {fs : List Flit} (hs : Ok cmds s) : Ok cmds (State.pushL s t n rev fs) := by
  unfold State.pushL
  repeat any_goals first
    | with_reducible assumption
    | with_reducible refine fun _ => ?_
    | ((try lift_lets); intro (x : Noc); dsimp only [x]; clear x)
    | ((try lift_lets); intro x; clear_value x)
    | with_reducible apply State.table_ok
    | (with_reducible refine ok_chanQ (by with_reducible assumption) ?_)
    | with_reducible apply SMap.wf_modify
    | with_reducible exact SMap.wf_nil _
    | with_reducible apply Ok.noc
    | (with_reducible exact SParts.chanQ_ (by with_reducible assumption))

theorem State.creditMet_ok {s : State} {t chn seq f : Nat} {parts : List (Nat × Nat)} (hs : Ok cmds s) :
    ∀ s', s.creditMet t chn seq f parts = some s' → Ok cmds s' := by
  intro s' h
  unfold State.creditMet at h
  dsimp only at h
  split at h
  · cases h
  · split at h
    · cases h
    · cases h
      exact State.accFaults_ok (State.modTable_ok hs (fun x hx => tableOk_snd hx (SMap.wf_set _ _ hx.snd_)))

theorem State.freeEntry_ok {s : State} {t k q : Nat} (hs : Ok cmds s) : Ok cmds (State.freeEntry s t k q) := by
  unfold State.freeEntry
  repeat any_goals first
    | with_reducible assumption
    | with_reducible refine fun _ => ?_
    | ((try lift_lets); intro x; refine keep_let (P := Ok cmds x) ?_ (fun hx => ?_); rotate_left; clear_value x; rotate_right; unfold x; clear x)
    | ((try lift_lets); intro x; clear_value x)
    | with_reducible apply State.core_ok
    | with_reducible apply State.modCore_ok
    | with_reducible apply State.qmove_ok
    | with_reducible apply State.signalNext_ok
    | split

theorem State.endEntry_ok {s : State} {t k q : Nat} (hs : Ok cmds s) : Ok cmds (State.endEntry s t k q) := by
  unfold State.endEntry
  repeat any_goals first
    | with_reducible assumption
    | with_reducible apply State.freeEntry_ok
    | with_reducible apply State.qmove_ok
    | split

theorem State.settleQueue_ok {s : State} {t k q n : Nat} (hs : Ok cmds s) : Ok cmds (s.settleQueue t k q n) := by
  induction n generalizing s with
  | zero => exact hs
  | succ n ih =>
    unfold State.settleQueue
    split
    · exact ih (State.endEntry_ok hs)
    · exact hs

theorem State.meet_ok {s : State} {t : Nat} {core : Option Nat} {w : WaitFor} (hs : Ok cmds s) : ∀ s', s.meet t core w = some s' → Ok cmds s' := by
  intro s' h
  unfold State.meet at h
  split at h
  · split at h
    · cases h; exact State.setCounter_ok hs
    · cases h
  · split at h
    · cases h
    · split at h
      · cases h; exact State.setHostCounter_ok hs
      · cases h
  · obtain ⟨_, rfl⟩ := of_ite_some h
    exact ok_foldl (ok_foldl hs (fun a k h => State.settleQueue_ok h)) (fun a k h => by split <;> exact State.qmove_ok h)
  · split at h
    · cases h
    · split at h
      · cases h
      · cases h; exact State.modDma_ok hs
  · exact State.creditMet_ok hs _ h
  · split at h
    · cases h; exact hs
    · cases h
  · cases h; exact hs

theorem State.modSeq_ok {s : State} {t : Nat} {core : Option Nat} {f : Seq → Seq} (hs : Ok cmds s) : Ok cmds (State.modSeq s t core f) := by
  unfold State.modSeq
  repeat any_goals first
    | with_reducible assumption
    | with_reducible apply hf
    | with_reducible refine fun _ => ?_
    | with_reducible apply State.core_ok
    | with_reducible apply State.modCore_ok
    | with_reducible apply State.modTable_ok
    | split

theorem State.openFor_ok {s : State} {t : Nat} {w : WaitFor} (hs : Ok cmds s) : Ok cmds (State.openFor s t w) := by
  unfold State.openFor
  repeat any_goals first
    | with_reducible assumption
    | with_reducible apply State.tryOpen_ok
    | split

theorem State.resolveWaits_ok {s : State} {t : Nat} {core : Option Nat} {c : Nat} (hs : Ok cmds s) : Ok cmds (State.resolveWaits s t core c) := by
  unfold State.resolveWaits
  repeat any_goals first
    | with_reducible assumption
    | with_reducible refine fun _ => ?_
    | ((try lift_lets); intro x; refine keep_let (P := Ok cmds x) ?_ (fun hx => ?_); rotate_left; clear_value x; rotate_right; unfold x; clear x)
    | ((try lift_lets); intro x; refine keep_let (P := Ok cmds x.1) ?_ (fun hx => ?_); rotate_left; clear_value x; rotate_right; unfold x; clear x)
    | ((try lift_lets); intro x; clear_value x)
    | with_reducible apply State.core_ok
    | (with_reducible refine State.meet_ok ?_ _ (by assumption))
    | with_reducible apply State.modSeq_ok
    | with_reducible apply State.openFor_ok
    | with_reducible apply ok_foldl
    | with_reducible apply ok_foldl_fst
    | with_reducible apply ok_foldl_snd
    | with_reducible exact SMap.wf_nil _
    | split

theorem State.resolveUpTo_ok {s : State} {t : Nat} {core : Option Nat} {c : Nat} (hs : Ok cmds s) : Ok cmds (State.resolveUpTo s t core c) := by
  unfold State.resolveUpTo
  repeat any_goals first
    | with_reducible assumption
    | with_reducible refine fun _ => ?_
    | with_reducible apply State.core_ok
    | with_reducible apply State.resolveWaits_ok
    | with_reducible apply ok_foldl
    | with_reducible apply ok_foldl_fst
    | with_reducible apply ok_foldl_snd
    | with_reducible apply SMap.wf_filter
    | split

theorem State.markHeld_ok {s : State} {t : Nat} {w : WaitFor} (hs : Ok cmds s) : Ok cmds (State.markHeld s t w) := by
  unfold State.markHeld
  repeat any_goals first
    | with_reducible assumption
    | with_reducible refine fun _ => ?_
    | with_reducible apply State.modSnd_ok
    | split

theorem State.dropPart_ok {s : State} {t k i p read : Nat} (hs : Ok cmds s) : Ok cmds (State.dropPart s t k i p read) := by
  unfold State.dropPart
  repeat any_goals first
    | with_reducible assumption
    | with_reducible refine fun _ => ?_
    | with_reducible apply State.modCore_ok
    | with_reducible apply State.modTable_ok

theorem State.readFlit_ok {s : State} {t c k : Nat} (hs : Ok cmds s) : Ok cmds (State.readFlit s t c k) := by
  unfold State.readFlit
  repeat any_goals first
    | with_reducible assumption
    | with_reducible refine fun _ => ?_
    | ((try lift_lets); intro x; refine keep_let (P := Ok cmds x) ?_ (fun hx => ?_); rotate_left; clear_value x; rotate_right; unfold x; clear x)
    | ((try lift_lets); intro x; refine keep_let (P := Ok cmds x.2.1) ?_ (fun hx => ?_); rotate_left; clear_value x; rotate_right; unfold x; clear x)
    | ((try lift_lets); intro x; clear_value x)
    | with_reducible apply State.accFaults_ok
    | with_reducible apply State.core_ok
    | with_reducible apply State.dropPart_ok
    | with_reducible apply State.modCore_ok
    | with_reducible apply State.modTable_ok
    | with_reducible apply State.spdFetch_ok
    | with_reducible apply State.table_ok
    | split

theorem State.readPayloads_ok {s : State} {t c : Nat} (hs : Ok cmds s) : Ok cmds (State.readPayloads s t c) := by
  unfold State.readPayloads
  repeat any_goals first
    | with_reducible assumption
    | with_reducible refine fun _ => ?_
    | ((try lift_lets); intro x; clear_value x)
    | with_reducible apply State.core_ok
    | with_reducible apply State.readFlit_ok
    | with_reducible apply State.table_ok
    | with_reducible apply ok_foldl

theorem State.enterL_ok {s : State} {t c : Nat} (hs : Ok cmds s) : Ok cmds (State.enterL s t c) := by
  unfold State.enterL
  repeat any_goals first
    | with_reducible assumption
    | with_reducible refine fun _ => ?_
    | ((try lift_lets); intro x; refine keep_let (P := Ok cmds x) ?_ (fun hx => ?_); rotate_left; clear_value x; rotate_right; unfold x; clear x)
    | ((try lift_lets); intro x; refine keep_let (P := Ok cmds x.1) ?_ (fun hx => ?_); rotate_left; clear_value x; rotate_right; unfold x; clear x)
    | ((try lift_lets); intro x; clear_value x)
    | with_reducible apply State.modTable_ok
    | with_reducible apply State.pushL_ok
    | with_reducible apply State.table_ok
    | with_reducible apply State.tryOpen_ok
    | with_reducible apply ok_foldl
    | with_reducible apply ok_foldl_fst
    | with_reducible apply ok_foldl_snd
    | with_reducible exact SMap.wf_nil _
    | split

theorem State.streamRead_ok {s : State} {t : Nat} {pc : BitVec 17} {lc k n : Nat} {d : BitVec 128} (hs : Ok cmds s) : Ok cmds (State.streamRead s t pc lc k n d).2.1 := by
  unfold State.streamRead
  repeat any_goals first
    | with_reducible assumption
    | with_reducible refine fun _ => ?_
    | ((try lift_lets); intro x; refine keep_let (P := Ok cmds x.2.1) ?_ (fun hx => ?_); rotate_left; clear_value x; rotate_right; unfold x; clear x)
    | ((try lift_lets); intro x; clear_value x)
    | with_reducible apply State.spdFetch_ok
    | with_reducible exact SMap.wf_nil _
    | split

theorem State.warmRead_ok {s : State} {t c lc k : Nat} (hs : Ok cmds s) : Ok cmds (State.warmRead s t c lc k).1 := by
  unfold State.warmRead
  repeat any_goals first
    | with_reducible assumption
    | with_reducible refine fun _ => ?_
    | ((try lift_lets); intro x; refine keep_let (P := Ok cmds x.2.1) ?_ (fun hx => ?_); rotate_left; clear_value x; rotate_right; unfold x; clear x)
    | ((try lift_lets); intro x; clear_value x)
    | with_reducible apply State.core_ok
    | with_reducible apply State.modCore_ok
    | with_reducible apply State.streamRead_ok
    | with_reducible apply State.table_ok
    | with_reducible exact SMap.wf_nil _
    | split

theorem Core.warmLand_ok {x : Core} {c : Nat} (hx : CoreOk x) : CoreOk (Core.warmLand x c) := by
  unfold Core.warmLand
  repeat any_goals first
    | with_reducible assumption
    | with_reducible refine fun _ => ?_
    | ((try lift_lets); intro x; clear_value x)
    | (with_reducible refine coreOk_fifo (by with_reducible assumption) ?_)
    | with_reducible apply SMap.wf_setAll
    | with_reducible exact SMap.wf_nil _
    | (with_reducible exact CParts.fifo_ (by with_reducible assumption))
    | split

theorem FillWork.chunk_ok {w : FillWork} (h : CoreOk w.core) : CoreOk w.chunk.core := by
  unfold FillWork.chunk
  split
  · exact h
  · split
    · exact h
    · exact Core.putAll_ok h

theorem FillWork.run_ok {w : FillWork} {n : Nat} (h : CoreOk w.core) : CoreOk (w.run n).core := by
  induction n generalizing w with
  | zero => exact h
  | succ n ih => exact ih (FillWork.chunk_ok h)

theorem State.serveFills_ok {s : State} {t lc k : Nat} (hs : Ok cmds s) : Ok cmds (State.serveFills s t lc k).1 := by
  have h : ∀ n, CoreOk (({ core := { s.core k with fillReq := false }, ue := none, ce := 0, room := s.fillRoom t k, busy := s.busyBanks t k } : FillWork).run n).core :=
    fun n => FillWork.run_ok (State.core_ok (t := k) hs)
  unfold State.serveFills
  dsimp only
  exact State.countCe_ok (State.modCore_ok hs (fun _ _ => h 32))

theorem State.serveTable_ok {s : State} {t : Nat} (hs : Ok cmds s) : Ok cmds (State.serveTable s t) := by
  unfold State.serveTable
  repeat any_goals first
    | with_reducible assumption
    | with_reducible refine fun _ => ?_
    | ((try lift_lets); intro x; refine keep_let (P := Ok cmds x.1) ?_ (fun hx => ?_); rotate_left; clear_value x; rotate_right; unfold x; clear x)
    | with_reducible apply State.accFaults_ok
    | with_reducible apply State.core_ok
    | with_reducible apply State.serveFills_ok
    | with_reducible apply ok_foldl
    | with_reducible apply ok_foldl_fst

theorem Core.settlePorts_ok {c : Core} (hc : CoreOk c) : CoreOk (Core.settlePorts c) := by
  unfold Core.settlePorts
  repeat any_goals first
    | with_reducible assumption

theorem State.settlePorts_ok {s : State} {t : Nat} (hs : Ok cmds s) : Ok cmds (State.settlePorts s t) := by
  unfold State.settlePorts
  repeat any_goals first
    | with_reducible assumption
    | with_reducible refine fun _ => ?_
    | ((try lift_lets); intro x; refine keep_let (P := CoreOk x) ?_ (fun hx => ?_); rotate_left; clear_value x; rotate_right; unfold x; clear x)
    | with_reducible apply Core.settlePorts_ok
    | with_reducible apply State.core_ok
    | with_reducible apply State.modCore_ok
    | with_reducible apply ok_foldl
    | with_reducible apply ok_foldl_fst
    | with_reducible apply ok_foldl_snd
    | split

theorem State.fillQueue_ok {s : State} {t : Nat} {c : RcvChan} {q : BitVec 21} {entry : Word} {lc k : Nat} (hs : Ok cmds s) : Ok cmds (State.fillQueue s t c q entry lc k).1 := by
  unfold State.fillQueue
  repeat any_goals first
    | with_reducible assumption
    | with_reducible refine fun _ => ?_
    | ((try lift_lets); intro x; refine keep_let (P := Ok cmds x) ?_ (fun hx => ?_); rotate_left; clear_value x; rotate_right; unfold x; clear x)
    | ((try lift_lets); intro x; clear_value x)
    | with_reducible apply State.core_ok
    | with_reducible apply State.countCe_ok
    | with_reducible apply State.modCore_ok
    | with_reducible exact SMap.wf_nil _
    | split

theorem State.beginHandler_ok {s : State} {t : Nat} {w : Window} (hs : Ok cmds s) : Ok cmds (State.beginHandler s t w) := by
  unfold State.beginHandler
  repeat any_goals first
    | with_reducible assumption
    | with_reducible refine fun _ => ?_
    | ((try lift_lets); intro x; refine keep_let (P := Ok cmds x) ?_ (fun hx => ?_); rotate_left; clear_value x; rotate_right; unfold x; clear x)
    | ((try lift_lets); intro x; refine keep_let (P := Ok cmds x.1) ?_ (fun hx => ?_); rotate_left; clear_value x; rotate_right; unfold x; clear x)
    | ((try lift_lets); intro (x : SMap _); unfold x; clear x)
    | ((try lift_lets); intro x; clear_value x)
    | with_reducible apply State.accFaults_ok
    | with_reducible apply State.fillQueue_ok
    | with_reducible apply State.modTable_ok
    | with_reducible apply State.table_ok
    | with_reducible apply ok_foldl
    | with_reducible apply ok_foldl_fst
    | with_reducible apply ok_foldl_snd
    | with_reducible apply SMap.wf_foldl
    | with_reducible exact SMap.wf_nil _
    | split

theorem State.runWindow_ok {s : State} {t c : Nat} (hs : Ok cmds s) : Ok cmds (State.runWindow s t c) := by
  unfold State.runWindow
  repeat any_goals first
    | with_reducible assumption
    | with_reducible refine fun _ => ?_
    | with_reducible apply State.beginHandler_ok
    | with_reducible apply State.modTable_ok
    | with_reducible apply State.table_ok
    | split

theorem State.endSeq_ok {s : State} {t c : Nat} {core : Option Nat} (hs : Ok cmds s) : Ok cmds (State.endSeq s t c core) := by
  unfold State.endSeq
  repeat any_goals first
    | with_reducible assumption
    | with_reducible refine fun _ => ?_
    | ((try lift_lets); intro x; refine keep_let (P := Ok cmds x) ?_ (fun hx => ?_); rotate_left; clear_value x; rotate_right; unfold x; clear x)
    | ((try lift_lets); intro x; clear_value x)
    | with_reducible apply State.core_ok
    | with_reducible apply State.markHeld_ok
    | with_reducible apply State.modSeq_ok
    | with_reducible apply State.modTable_ok
    | with_reducible apply State.resolveWaits_ok
    | with_reducible apply State.table_ok
    | with_reducible apply ok_foldl
    | with_reducible apply SMap.wf_filter
    | split

theorem State.trapEnd_ok {s : State} {t : Nat} (hs : Ok cmds s) : Ok cmds (State.trapEnd s t) := by
  unfold State.trapEnd
  repeat any_goals first
    | with_reducible assumption
    | with_reducible refine fun _ => ?_
    | ((try lift_lets); intro x; refine keep_let (P := Ok cmds x) ?_ (fun hx => ?_); rotate_left; clear_value x; rotate_right; unfold x; clear x)
    | ((try lift_lets); intro x; clear_value x)
    | with_reducible apply State.modJob_ok
    | with_reducible apply State.modTable_ok
    | with_reducible apply State.raiseTable_ok
    | with_reducible apply State.setFlags_ok
    | with_reducible apply State.table_ok
    | with_reducible apply stopDma_ok
    | with_reducible apply ok_foldl
    | (with_reducible refine ok_dma (by with_reducible assumption) ?_)
    | (with_reducible exact SParts.dma_ (by with_reducible assumption))
    | split

theorem State.endCycle_ok {s : State} {t c : Nat} (hs : Ok cmds s) : Ok cmds (State.endCycle s t c) := by
  unfold State.endCycle
  repeat any_goals first
    | with_reducible assumption
    | with_reducible refine fun _ => ?_
    | ((try lift_lets); intro x; refine keep_let (P := Ok cmds x) ?_ (fun hx => ?_); rotate_left; clear_value x; rotate_right; unfold x; clear x)
    | ((try lift_lets); intro x; refine keep_let (P := Ok cmds x.1) ?_ (fun hx => ?_); rotate_left; clear_value x; rotate_right; unfold x; clear x)
    | with_reducible apply Core.settlePorts_ok
    | with_reducible apply State.accFaults_ok
    | with_reducible apply State.endSeq_ok
    | with_reducible apply State.readPayloads_ok
    | with_reducible apply State.serveTable_ok
    | with_reducible apply State.settlePorts_ok
    | with_reducible apply State.trapEnd_ok
    | with_reducible apply State.warmRead_ok
    | with_reducible apply ok_foldl
    | with_reducible apply ok_foldl_fst

theorem State.beginCycle_ok {s : State} {t c : Nat} (hs : Ok cmds s) : Ok cmds (State.beginCycle s t c) := by
  unfold State.beginCycle
  repeat any_goals first
    | with_reducible assumption
    | with_reducible refine fun _ => ?_
    | ((try lift_lets); intro x; refine keep_let (P := Ok cmds x) ?_ (fun hx => ?_); rotate_left; clear_value x; rotate_right; unfold x; clear x)
    | ((try lift_lets); intro x; clear_value x)
    | with_reducible apply Core.warmLand_ok
    | with_reducible apply State.applyDue_ok
    | with_reducible apply State.core_ok
    | with_reducible apply State.enterL_ok
    | with_reducible apply State.modCore_ok
    | with_reducible apply State.modSeq_ok
    | with_reducible apply State.modTable_ok
    | with_reducible apply State.runWindow_ok
    | with_reducible apply State.table_ok
    | with_reducible apply ok_foldl
    | with_reducible apply ok_foldl_fst
    | with_reducible apply ok_foldl_snd
    | (with_reducible refine tableOk_rcv (by with_reducible assumption) ?_)
    | with_reducible apply SMap.wf_mapAll
    | with_reducible apply SMap.wf_foldl
    | (with_reducible exact TParts.rcv_ (by with_reducible assumption))
    | split

theorem State.later_ok {s : State} (hs : Ok cmds s) : Ok cmds (State.later s) := by
  unfold State.later
  repeat any_goals first
    | with_reducible assumption
    | split

theorem State.tellReleased_ok {s : State} {j : Nat} (hs : Ok cmds s) : Ok cmds (State.tellReleased s j) := by
  unfold State.tellReleased
  repeat any_goals first
    | with_reducible assumption
    | with_reducible refine fun _ => ?_
    | with_reducible apply State.answer_ok
    | with_reducible apply State.modJob_ok
    | with_reducible apply State.table_ok
    | with_reducible apply ok_foldl
    | with_reducible apply SMap.wf_filter
    | with_reducible exact SMap.wf_nil _
    | split

theorem State.tick_ok {s : State} (hs : Ok cmds s) : Ok cmds (State.tick s) := by
  unfold State.tick
  repeat any_goals first
    | with_reducible assumption
    | with_reducible refine fun _ => ?_
    | ((try lift_lets); intro x; refine keep_let (P := Ok cmds x) ?_ (fun hx => ?_); rotate_left; clear_value x; rotate_right; unfold x; clear x)
    | ((try lift_lets); intro x; clear_value x)
    | with_reducible apply State.beginCycle_ok
    | with_reducible apply State.endCycle_ok
    | with_reducible apply State.later_ok
    | with_reducible apply State.recheckFull_ok
    | with_reducible apply State.tellReleased_ok
    | with_reducible apply ok_foldl
    | with_reducible apply ok_foldl_fst
    | with_reducible apply ok_foldl_snd
    | with_reducible apply SMap.wf_filter
    | split

theorem State.awaitIssue_ok {s : State} {t : Nat} {core : Option Nat} {pc : BitVec 17} {n : Nat} (hs : Ok cmds s) :
    ∀ s', s.awaitIssue t core pc n = some s' → Ok cmds s' := by
  intro s' h
  induction n generalizing s with
  | zero => cases h
  | succ n ih =>
    unfold State.awaitIssue at h
    split at h
    · cases h; exact hs
    · exact ih (State.tick_ok hs) h

theorem State.begin_ok {s : State} {h : Hdr} {core : Option Nat} (hs : Ok cmds s) : Ok cmds (State.begin s h core) := by
  unfold State.begin
  repeat any_goals first
    | with_reducible assumption
    | with_reducible refine fun _ => ?_
    | ((try lift_lets); intro x; refine keep_let (P := Ok cmds x) ?_ (fun hx => ?_); rotate_left; clear_value x; rotate_right; unfold x; clear x)
    | ((try lift_lets); intro x; clear_value x)
    | with_reducible apply State.core_ok
    | with_reducible apply State.modSeq_ok
    | with_reducible apply State.modTable_ok
    | with_reducible apply State.resolveUpTo_ok

theorem State.issue_miss_ok {s s' : State} {h : Hdr} {slot : Nat} (hs : Ok cmds s) (e : s.issue h slot = .miss s') : Ok cmds s' := by
  unfold State.issue at e
  dsimp only at e
  split at e
  · cases e
  · split at e
    · split at e
      · cases e
      · next s1 h1 =>
        have h2 := State.awaitIssue_ok hs _ h1
        split at e
        · cases e
        · split at e
          · cases e
            exact State.modCore_ok h2 (fun _ hx => hx)
          · cases e
    · split at e <;> cases e

theorem State.issue_go_ok {s s' : State} {h : Hdr} {slot : Nat} (hs : Ok cmds s) (e : s.issue h slot = .go s') : Ok cmds s' := by
  unfold State.issue at e
  dsimp only at e
  split at e
  · cases e
  · split at e
    · split at e
      · cases e
      · next s1 h1 =>
        have h2 := State.awaitIssue_ok hs _ h1
        split at e
        · cases e
          exact State.modSeq_ok (State.begin_ok h2)
        · split at e
          · cases e
          · cases e
            exact State.modSeq_ok (State.begin_ok h2)
    · split at e
      · cases e
        exact State.modSeq_ok hs
      · cases e

theorem slotOp_ok {wf : Bool} {h : Hdr} {slot : Nat} {body : State → State} {s : State} (hbody : ∀ x, Ok cmds x → Ok cmds (body x)) (hs : Ok cmds s) : Keeps cmds (slotOp wf h slot body s) := by
  unfold slotOp
  split
  · split
    · exact keeps_next hs
    · next e => exact keeps_next (State.issue_miss_ok hs e)
    · next e => exact keeps_next (hbody _ (State.issue_go_ok hs e))
  · exact keeps_refused

theorem State.eachCore_ok {s : State} {h : Hdr} {slot : Nat} {f : Nat → Nat → CoreAct} (hs : Ok cmds s) : Ok cmds (State.eachCore s h slot f) := by
  unfold State.eachCore
  repeat any_goals first
    | with_reducible assumption
    | with_reducible apply hf
    | with_reducible refine fun _ => ?_
    | ((try lift_lets); intro x; clear_value x)
    | with_reducible apply State.busyWith_ok
    | with_reducible apply State.noteReads_ok
    | with_reducible apply State.post_ok

end Sys2Proof.Machine
end

