-- ==== Sys2Proof/Laws/CanonSlot.lean ====
section
/-!
SUPPORT. Every operation of Machine/Scalar.lean, Machine/Vector.lean, Machine/Convert.lean, Machine/LaneRow.lean, Machine/Tiers.lean, Machine/Load.lean, Machine/Store.lean, Machine/Dealer.lean keeps the canonical form.
-/
namespace Sys2Proof.Machine

variable {cmds : List Instr}

theorem opSR_ok {h : Hdr} {sd sa sb : BitVec 5} {f : Word → Word → Word} {s : State} (hs : Ok cmds s) : Ok cmds (opSR h sd sa sb f s) := by
  unfold opSR
  repeat any_goals first
    | with_reducible assumption
    | with_reducible apply hf
    | with_reducible refine fun _ => ?_
    | with_reducible apply State.eachCore_ok

theorem opSI_ok {h : Hdr} {sd sa : BitVec 5} {f : Word → Word} {s : State} (hs : Ok cmds s) : Ok cmds (opSI h sd sa f s) := by
  unfold opSI
  repeat any_goals first
    | with_reducible assumption
    | with_reducible apply hf
    | with_reducible refine fun _ => ?_
    | with_reducible apply State.eachCore_ok

theorem opPred_ok {h : Hdr} {slot lat : Nat} {pd : BitVec 3} {reads : Nat → List Loc} {f : Nat → Bool} {s : State} (hs : Ok cmds s) : Ok cmds (opPred h slot lat pd reads f s) := by
  unfold opPred
  repeat any_goals first
    | with_reducible assumption
    | with_reducible apply hreads
    | with_reducible apply hf
    | with_reducible refine fun _ => ?_
    | with_reducible apply State.eachCore_ok

theorem execAdd_ok {h : Hdr} {sd sa sb : BitVec 5} {s : State} (hs : Ok cmds s) : Keeps cmds (execAdd h sd sa sb s) := by
  unfold execAdd
  repeat any_goals first
    | with_reducible assumption
    | with_reducible apply opSR_ok
    | with_reducible apply slotOp_ok

theorem execSub_ok {h : Hdr} {sd sa sb : BitVec 5} {s : State} (hs : Ok cmds s) : Keeps cmds (execSub h sd sa sb s) := by
  unfold execSub
  repeat any_goals first
    | with_reducible assumption
    | with_reducible apply opSR_ok
    | with_reducible apply slotOp_ok

theorem execAnd_ok {h : Hdr} {sd sa sb : BitVec 5} {s : State} (hs : Ok cmds s) : Keeps cmds (execAnd h sd sa sb s) := by
  unfold execAnd
  repeat any_goals first
    | with_reducible assumption
    | with_reducible apply opSR_ok
    | with_reducible apply slotOp_ok

theorem execOr_ok {h : Hdr} {sd sa sb : BitVec 5} {s : State} (hs : Ok cmds s) : Keeps cmds (execOr h sd sa sb s) := by
  unfold execOr
  repeat any_goals first
    | with_reducible assumption
    | with_reducible apply opSR_ok
    | with_reducible apply slotOp_ok

theorem execXor_ok {h : Hdr} {sd sa sb : BitVec 5} {s : State} (hs : Ok cmds s) : Keeps cmds (execXor h sd sa sb s) := by
  unfold execXor
  repeat any_goals first
    | with_reducible assumption
    | with_reducible apply opSR_ok
    | with_reducible apply slotOp_ok

theorem execShl_ok {h : Hdr} {sd sa sb : BitVec 5} {s : State} (hs : Ok cmds s) : Keeps cmds (execShl h sd sa sb s) := by
  unfold execShl
  repeat any_goals first
    | with_reducible assumption
    | with_reducible apply opSR_ok
    | with_reducible apply slotOp_ok

theorem execShr_ok {h : Hdr} {sd sa sb : BitVec 5} {s : State} (hs : Ok cmds s) : Keeps cmds (execShr h sd sa sb s) := by
  unfold execShr
  repeat any_goals first
    | with_reducible assumption
    | with_reducible apply opSR_ok
    | with_reducible apply slotOp_ok

theorem execSar_ok {h : Hdr} {sd sa sb : BitVec 5} {s : State} (hs : Ok cmds s) : Keeps cmds (execSar h sd sa sb s) := by
  unfold execSar
  repeat any_goals first
    | with_reducible assumption
    | with_reducible apply opSR_ok
    | with_reducible apply slotOp_ok

theorem execMul_ok {h : Hdr} {sd sa sb : BitVec 5} {s : State} (hs : Ok cmds s) : Keeps cmds (execMul h sd sa sb s) := by
  unfold execMul
  repeat any_goals first
    | with_reducible assumption
    | with_reducible apply opSR_ok
    | with_reducible apply slotOp_ok

theorem execMin_ok {h : Hdr} {sd sa sb : BitVec 5} {s : State} (hs : Ok cmds s) : Keeps cmds (execMin h sd sa sb s) := by
  unfold execMin
  repeat any_goals first
    | with_reducible assumption
    | with_reducible apply opSR_ok
    | with_reducible apply slotOp_ok

theorem execMax_ok {h : Hdr} {sd sa sb : BitVec 5} {s : State} (hs : Ok cmds s) : Keeps cmds (execMax h sd sa sb s) := by
  unfold execMax
  repeat any_goals first
    | with_reducible assumption
    | with_reducible apply opSR_ok
    | with_reducible apply slotOp_ok

theorem execAddi_ok {h : Hdr} {sd sa : BitVec 5} {imm : BitVec 16} {s : State} (hs : Ok cmds s) : Keeps cmds (execAddi h sd sa imm s) := by
  unfold execAddi
  repeat any_goals first
    | with_reducible assumption
    | with_reducible apply opSI_ok
    | with_reducible apply slotOp_ok

theorem execAndi_ok {h : Hdr} {sd sa : BitVec 5} {imm : BitVec 16} {s : State} (hs : Ok cmds s) : Keeps cmds (execAndi h sd sa imm s) := by
  unfold execAndi
  repeat any_goals first
    | with_reducible assumption
    | with_reducible apply opSI_ok
    | with_reducible apply slotOp_ok

theorem execOri_ok {h : Hdr} {sd sa : BitVec 5} {imm : BitVec 16} {s : State} (hs : Ok cmds s) : Keeps cmds (execOri h sd sa imm s) := by
  unfold execOri
  repeat any_goals first
    | with_reducible assumption
    | with_reducible apply opSI_ok
    | with_reducible apply slotOp_ok

theorem execXori_ok {h : Hdr} {sd sa : BitVec 5} {imm : BitVec 16} {s : State} (hs : Ok cmds s) : Keeps cmds (execXori h sd sa imm s) := by
  unfold execXori
  repeat any_goals first
    | with_reducible assumption
    | with_reducible apply opSI_ok
    | with_reducible apply slotOp_ok

theorem execShli_ok {h : Hdr} {sd sa : BitVec 5} {imm : BitVec 16} {s : State} (hs : Ok cmds s) : Keeps cmds (execShli h sd sa imm s) := by
  unfold execShli
  repeat any_goals first
    | with_reducible assumption
    | with_reducible refine fun _ => ?_
    | with_reducible apply opSI_ok
    | with_reducible apply slotOp_ok

theorem execShri_ok {h : Hdr} {sd sa : BitVec 5} {imm : BitVec 16} {s : State} (hs : Ok cmds s) : Keeps cmds (execShri h sd sa imm s) := by
  unfold execShri
  repeat any_goals first
    | with_reducible assumption
    | with_reducible refine fun _ => ?_
    | with_reducible apply opSI_ok
    | with_reducible apply slotOp_ok

theorem execSari_ok {h : Hdr} {sd sa : BitVec 5} {imm : BitVec 16} {s : State} (hs : Ok cmds s) : Keeps cmds (execSari h sd sa imm s) := by
  unfold execSari
  repeat any_goals first
    | with_reducible assumption
    | with_reducible refine fun _ => ?_
    | with_reducible apply opSI_ok
    | with_reducible apply slotOp_ok

theorem execLui_ok {h : Hdr} {sd : BitVec 5} {imm : BitVec 16} {s : State} (hs : Ok cmds s) : Keeps cmds (execLui h sd imm s) := by
  unfold execLui
  repeat any_goals first
    | with_reducible assumption
    | with_reducible refine fun _ => ?_
    | with_reducible apply State.eachCore_ok
    | with_reducible apply slotOp_ok

theorem execCmp_ok {h : Hdr} {pd cond : BitVec 3} {sa sb : BitVec 5} {s : State} (hs : Ok cmds s) : Keeps cmds (execCmp h pd cond sa sb s) := by
  unfold execCmp
  repeat any_goals first
    | with_reducible assumption
    | with_reducible refine fun _ => ?_
    | with_reducible apply opPred_ok
    | with_reducible apply slotOp_ok

theorem execCmpi_ok {h : Hdr} {pd cond : BitVec 3} {sa : BitVec 5} {imm : BitVec 15} {s : State} (hs : Ok cmds s) : Keeps cmds (execCmpi h pd cond sa imm s) := by
  unfold execCmpi
  repeat any_goals first
    | with_reducible assumption
    | with_reducible refine fun _ => ?_
    | with_reducible apply opPred_ok
    | with_reducible apply slotOp_ok

theorem execPlog_ok {h : Hdr} {pd pa pb : BitVec 3} {op : BitVec 2} {s : State} (hs : Ok cmds s) : Keeps cmds (execPlog h pd pa pb op s) := by
  unfold execPlog
  repeat any_goals first
    | with_reducible assumption
    | with_reducible refine fun _ => ?_
    | with_reducible apply opPred_ok
    | with_reducible apply slotOp_ok

theorem execMfr_ok {h : Hdr} {sr : BitVec 5} {blk : BitVec 2} {off : BitVec 12} {s : State} (hs : Ok cmds s) : Keeps cmds (execMfr h sr blk off s) := by
  unfold execMfr
  repeat any_goals first
    | with_reducible assumption
    | with_reducible refine fun _ => ?_
    | with_reducible apply State.eachCore_ok
    | with_reducible apply State.table_ok
    | with_reducible apply slotOp_ok
    | with_reducible apply keeps_next
    | with_reducible exact SMap.wf_nil _
    | split

theorem execMtr_ok {h : Hdr} {sr : BitVec 5} {blk : BitVec 2} {off : BitVec 12} {s : State} (hs : Ok cmds s) : Keeps cmds (execMtr h sr blk off s) := by
  unfold execMtr
  repeat any_goals first
    | with_reducible assumption
    | with_reducible refine fun _ => ?_
    | ((try lift_lets); intro x; refine keep_let (P := Ok cmds x) ?_ (fun hx => ?_); rotate_left; clear_value x; rotate_right; unfold x; clear x)
    | with_reducible apply State.busyFor_ok
    | with_reducible apply State.eachCore_ok
    | with_reducible apply State.noteReads_ok
    | with_reducible apply State.post_ok
    | with_reducible apply State.table_ok
    | with_reducible apply slotOp_ok
    | with_reducible apply keeps_next
    | split

theorem State.emptyPops_ok {s : State} {h : Hdr} {queue : Nat} {cs : List (Nat × Nat)} (hs : Ok cmds s) : Ok cmds (State.emptyPops s h queue cs) := by
  unfold State.emptyPops
  repeat any_goals first
    | with_reducible assumption
    | with_reducible refine fun _ => ?_
    | with_reducible apply State.faultTable_ok
    | with_reducible apply State.table_ok
    | with_reducible apply ok_foldl

theorem execSqpop_ok {h : Hdr} {sd : BitVec 5} {s : State} (hs : Ok cmds s) : Keeps cmds (execSqpop h sd s) := by
  unfold execSqpop
  repeat any_goals first
    | with_reducible assumption
    | with_reducible refine fun _ => ?_
    | ((try lift_lets); intro x; refine keep_let (P := Ok cmds x) ?_ (fun hx => ?_); rotate_left; clear_value x; rotate_right; unfold x; clear x)
    | ((try lift_lets); intro x; clear_value x)
    | with_reducible apply State.core_ok
    | with_reducible apply State.eachCore_ok
    | with_reducible apply State.emptyPops_ok
    | with_reducible apply State.modCore_ok
    | with_reducible apply slotOp_ok
    | with_reducible apply ok_foldl

theorem opLanes_ok {h : Hdr} {lat : Nat} {msk : BitVec 2} {vd : BitVec 5} {reads : Nat → List Loc} {f : Nat → Nat → Word} {s : State} (hs : Ok cmds s) : Ok cmds (opLanes h lat msk vd reads f s) := by
  unfold opLanes
  repeat any_goals first
    | with_reducible assumption
    | with_reducible apply hreads
    | with_reducible apply hf
    | with_reducible refine fun _ => ?_
    | with_reducible apply State.eachCore_ok

theorem opVV_ok {h : Hdr} {msk : BitVec 2} {vd va vb : BitVec 5} {f : Word → Word → Word} {s : State} (hs : Ok cmds s) : Ok cmds (opVV h msk vd va vb f s) := by
  unfold opVV
  repeat any_goals first
    | with_reducible assumption
    | with_reducible apply hf
    | with_reducible refine fun _ => ?_
    | with_reducible apply opLanes_ok

theorem opV_ok {h : Hdr} {msk : BitVec 2} {vd va : BitVec 5} {f : Word → Word} {s : State} (hs : Ok cmds s) : Ok cmds (opV h msk vd va f s) := by
  unfold opV
  repeat any_goals first
    | with_reducible assumption
    | with_reducible apply hf
    | with_reducible refine fun _ => ?_
    | with_reducible apply opLanes_ok

theorem opRed_ok {h : Hdr} {msk : BitVec 2} {vd va : BitVec 5} {one : Word → Word} {f : Word → Word → Word} {s : State} (hs : Ok cmds s) : Ok cmds (opRed h msk vd va one f s) := by
  unfold opRed
  repeat any_goals first
    | with_reducible assumption
    | with_reducible apply hone
    | with_reducible apply hf
    | with_reducible refine fun _ => ?_
    | with_reducible apply opLanes_ok

theorem execVaddf_ok {h : Hdr} {msk : BitVec 2} {vd va vb : BitVec 5} {s : State} (hs : Ok cmds s) : Keeps cmds (execVaddf h msk vd va vb s) := by
  unfold execVaddf
  repeat any_goals first
    | with_reducible assumption
    | with_reducible apply opVV_ok
    | with_reducible apply slotOp_ok

theorem execVsubf_ok {h : Hdr} {msk : BitVec 2} {vd va vb : BitVec 5} {s : State} (hs : Ok cmds s) : Keeps cmds (execVsubf h msk vd va vb s) := by
  unfold execVsubf
  repeat any_goals first
    | with_reducible assumption
    | with_reducible apply opVV_ok
    | with_reducible apply slotOp_ok

theorem execVmulf_ok {h : Hdr} {msk : BitVec 2} {vd va vb : BitVec 5} {s : State} (hs : Ok cmds s) : Keeps cmds (execVmulf h msk vd va vb s) := by
  unfold execVmulf
  repeat any_goals first
    | with_reducible assumption
    | with_reducible apply opVV_ok
    | with_reducible apply slotOp_ok

theorem execVfmaf_ok {h : Hdr} {msk : BitVec 2} {vd va vb vc : BitVec 5} {s : State} (hs : Ok cmds s) : Keeps cmds (execVfmaf h msk vd va vb vc s) := by
  unfold execVfmaf
  repeat any_goals first
    | with_reducible assumption
    | with_reducible refine fun _ => ?_
    | with_reducible apply opLanes_ok
    | with_reducible apply slotOp_ok

theorem execVminf_ok {h : Hdr} {msk : BitVec 2} {vd va vb : BitVec 5} {s : State} (hs : Ok cmds s) : Keeps cmds (execVminf h msk vd va vb s) := by
  unfold execVminf
  repeat any_goals first
    | with_reducible assumption
    | with_reducible apply opVV_ok
    | with_reducible apply slotOp_ok

theorem execVmaxf_ok {h : Hdr} {msk : BitVec 2} {vd va vb : BitVec 5} {s : State} (hs : Ok cmds s) : Keeps cmds (execVmaxf h msk vd va vb s) := by
  unfold execVmaxf
  repeat any_goals first
    | with_reducible assumption
    | with_reducible apply opVV_ok
    | with_reducible apply slotOp_ok

theorem execVabsf_ok {h : Hdr} {msk : BitVec 2} {vd va : BitVec 5} {s : State} (hs : Ok cmds s) : Keeps cmds (execVabsf h msk vd va s) := by
  unfold execVabsf
  repeat any_goals first
    | with_reducible assumption
    | with_reducible apply opV_ok
    | with_reducible apply slotOp_ok

theorem execVnegf_ok {h : Hdr} {msk : BitVec 2} {vd va : BitVec 5} {s : State} (hs : Ok cmds s) : Keeps cmds (execVnegf h msk vd va s) := by
  unfold execVnegf
  repeat any_goals first
    | with_reducible assumption
    | with_reducible apply opV_ok
    | with_reducible apply slotOp_ok

theorem execVcmpf_ok {h : Hdr} {msk : BitVec 2} {vd va vb : BitVec 5} {cond : BitVec 3} {s : State} (hs : Ok cmds s) : Keeps cmds (execVcmpf h msk vd va vb cond s) := by
  unfold execVcmpf
  repeat any_goals first
    | with_reducible assumption
    | with_reducible refine fun _ => ?_
    | with_reducible apply opVV_ok
    | with_reducible apply slotOp_ok

theorem execVaddi_ok {h : Hdr} {msk : BitVec 2} {vd va vb : BitVec 5} {s : State} (hs : Ok cmds s) : Keeps cmds (execVaddi h msk vd va vb s) := by
  unfold execVaddi
  repeat any_goals first
    | with_reducible assumption
    | with_reducible apply opVV_ok
    | with_reducible apply slotOp_ok

theorem execVsubi_ok {h : Hdr} {msk : BitVec 2} {vd va vb : BitVec 5} {s : State} (hs : Ok cmds s) : Keeps cmds (execVsubi h msk vd va vb s) := by
  unfold execVsubi
  repeat any_goals first
    | with_reducible assumption
    | with_reducible apply opVV_ok
    | with_reducible apply slotOp_ok

theorem execVmuli_ok {h : Hdr} {msk : BitVec 2} {vd va vb : BitVec 5} {s : State} (hs : Ok cmds s) : Keeps cmds (execVmuli h msk vd va vb s) := by
  unfold execVmuli
  repeat any_goals first
    | with_reducible assumption
    | with_reducible apply opVV_ok
    | with_reducible apply slotOp_ok

theorem execVmini_ok {h : Hdr} {msk : BitVec 2} {vd va vb : BitVec 5} {s : State} (hs : Ok cmds s) : Keeps cmds (execVmini h msk vd va vb s) := by
  unfold execVmini
  repeat any_goals first
    | with_reducible assumption
    | with_reducible apply opVV_ok
    | with_reducible apply slotOp_ok

theorem execVmaxi_ok {h : Hdr} {msk : BitVec 2} {vd va vb : BitVec 5} {s : State} (hs : Ok cmds s) : Keeps cmds (execVmaxi h msk vd va vb s) := by
  unfold execVmaxi
  repeat any_goals first
    | with_reducible assumption
    | with_reducible apply opVV_ok
    | with_reducible apply slotOp_ok

theorem execVand_ok {h : Hdr} {msk : BitVec 2} {vd va vb : BitVec 5} {s : State} (hs : Ok cmds s) : Keeps cmds (execVand h msk vd va vb s) := by
  unfold execVand
  repeat any_goals first
    | with_reducible assumption
    | with_reducible apply opVV_ok
    | with_reducible apply slotOp_ok

theorem execVor_ok {h : Hdr} {msk : BitVec 2} {vd va vb : BitVec 5} {s : State} (hs : Ok cmds s) : Keeps cmds (execVor h msk vd va vb s) := by
  unfold execVor
  repeat any_goals first
    | with_reducible assumption
    | with_reducible apply opVV_ok
    | with_reducible apply slotOp_ok

theorem execVxor_ok {h : Hdr} {msk : BitVec 2} {vd va vb : BitVec 5} {s : State} (hs : Ok cmds s) : Keeps cmds (execVxor h msk vd va vb s) := by
  unfold execVxor
  repeat any_goals first
    | with_reducible assumption
    | with_reducible apply opVV_ok
    | with_reducible apply slotOp_ok

theorem execVshl_ok {h : Hdr} {msk : BitVec 2} {vd va vb : BitVec 5} {s : State} (hs : Ok cmds s) : Keeps cmds (execVshl h msk vd va vb s) := by
  unfold execVshl
  repeat any_goals first
    | with_reducible assumption
    | with_reducible apply opVV_ok
    | with_reducible apply slotOp_ok

theorem execVshr_ok {h : Hdr} {msk : BitVec 2} {vd va vb : BitVec 5} {s : State} (hs : Ok cmds s) : Keeps cmds (execVshr h msk vd va vb s) := by
  unfold execVshr
  repeat any_goals first
    | with_reducible assumption
    | with_reducible apply opVV_ok
    | with_reducible apply slotOp_ok

theorem execVsar_ok {h : Hdr} {msk : BitVec 2} {vd va vb : BitVec 5} {s : State} (hs : Ok cmds s) : Keeps cmds (execVsar h msk vd va vb s) := by
  unfold execVsar
  repeat any_goals first
    | with_reducible assumption
    | with_reducible apply opVV_ok
    | with_reducible apply slotOp_ok

theorem execVcmpi_ok {h : Hdr} {msk : BitVec 2} {vd va vb : BitVec 5} {cond : BitVec 3} {s : State} (hs : Ok cmds s) : Keeps cmds (execVcmpi h msk vd va vb cond s) := by
  unfold execVcmpi
  repeat any_goals first
    | with_reducible assumption
    | with_reducible refine fun _ => ?_
    | with_reducible apply opVV_ok
    | with_reducible apply slotOp_ok

theorem execVsel_ok {h : Hdr} {msk : BitVec 2} {vd va vb vc : BitVec 5} {s : State} (hs : Ok cmds s) : Keeps cmds (execVsel h msk vd va vb vc s) := by
  unfold execVsel
  repeat any_goals first
    | with_reducible assumption
    | with_reducible refine fun _ => ?_
    | with_reducible apply opLanes_ok
    | with_reducible apply slotOp_ok

theorem execVmov_ok {h : Hdr} {msk : BitVec 2} {vd va _vb : BitVec 5} {s : State} (hs : Ok cmds s) : Keeps cmds (execVmov h msk vd va _vb s) := by
  unfold execVmov
  repeat any_goals first
    | with_reducible assumption
    | with_reducible apply opV_ok
    | with_reducible apply slotOp_ok

theorem execVbcst_ok {h : Hdr} {msk : BitVec 2} {vd sb : BitVec 5} {s : State} (hs : Ok cmds s) : Keeps cmds (execVbcst h msk vd sb s) := by
  unfold execVbcst
  repeat any_goals first
    | with_reducible assumption
    | with_reducible refine fun _ => ?_
    | with_reducible apply opLanes_ok
    | with_reducible apply slotOp_ok

theorem execVrot_ok {h : Hdr} {msk : BitVec 2} {vd va sb : BitVec 5} {s : State} (hs : Ok cmds s) : Keeps cmds (execVrot h msk vd va sb s) := by
  unfold execVrot
  repeat any_goals first
    | with_reducible assumption
    | with_reducible refine fun _ => ?_
    | with_reducible apply opLanes_ok
    | with_reducible apply slotOp_ok

theorem execVtom_ok {h : Hdr} {sel : Bool} {va : BitVec 5} {s : State} (hs : Ok cmds s) : Keeps cmds (execVtom h sel va s) := by
  unfold execVtom
  repeat any_goals first
    | with_reducible assumption
    | with_reducible refine fun _ => ?_
    | with_reducible apply State.eachCore_ok
    | with_reducible apply slotOp_ok

theorem execVtop_ok {h : Hdr} {msk : BitVec 2} {pd : BitVec 3} {va : BitVec 5} {s : State} (hs : Ok cmds s) : Keeps cmds (execVtop h msk pd va s) := by
  unfold execVtop
  repeat any_goals first
    | with_reducible assumption
    | with_reducible refine fun _ => ?_
    | with_reducible apply opPred_ok
    | with_reducible apply slotOp_ok

theorem execVidx_ok {h : Hdr} {msk : BitVec 2} {vd : BitVec 5} {s : State} (hs : Ok cmds s) : Keeps cmds (execVidx h msk vd s) := by
  unfold execVidx
  repeat any_goals first
    | with_reducible assumption
    | with_reducible refine fun _ => ?_
    | with_reducible apply opLanes_ok
    | with_reducible apply slotOp_ok

theorem execVget_ok {h : Hdr} {sd va sb : BitVec 5} {s : State} (hs : Ok cmds s) : Keeps cmds (execVget h sd va sb s) := by
  unfold execVget
  repeat any_goals first
    | with_reducible assumption
    | with_reducible refine fun _ => ?_
    | with_reducible apply State.eachCore_ok
    | with_reducible apply slotOp_ok

theorem execVredmaxf_ok {h : Hdr} {msk : BitVec 2} {vd va _vb : BitVec 5} {s : State} (hs : Ok cmds s) : Keeps cmds (execVredmaxf h msk vd va _vb s) := by
  unfold execVredmaxf
  repeat any_goals first
    | with_reducible assumption
    | with_reducible refine fun _ => ?_
    | with_reducible apply opRed_ok
    | with_reducible apply slotOp_ok

theorem execVredminf_ok {h : Hdr} {msk : BitVec 2} {vd va _vb : BitVec 5} {s : State} (hs : Ok cmds s) : Keeps cmds (execVredminf h msk vd va _vb s) := by
  unfold execVredminf
  repeat any_goals first
    | with_reducible assumption
    | with_reducible refine fun _ => ?_
    | with_reducible apply opRed_ok
    | with_reducible apply slotOp_ok

theorem execVredi_ok {h : Hdr} {msk : BitVec 2} {vd va _vb : BitVec 5} {s : State} (hs : Ok cmds s) : Keeps cmds (execVredi h msk vd va _vb s) := by
  unfold execVredi
  repeat any_goals first
    | with_reducible assumption
    | with_reducible apply opRed_ok
    | with_reducible apply slotOp_ok

theorem execVqpop_ok {h : Hdr} {vd : BitVec 5} {s : State} (hs : Ok cmds s) : Keeps cmds (execVqpop h vd s) := by
  unfold execVqpop
  repeat any_goals first
    | with_reducible assumption
    | with_reducible refine fun _ => ?_
    | ((try lift_lets); intro x; refine keep_let (P := Ok cmds x) ?_ (fun hx => ?_); rotate_left; clear_value x; rotate_right; unfold x; clear x)
    | ((try lift_lets); intro x; clear_value x)
    | with_reducible apply State.core_ok
    | with_reducible apply State.eachCore_ok
    | with_reducible apply State.emptyPops_ok
    | with_reducible apply State.modCore_ok
    | with_reducible apply slotOp_ok
    | with_reducible apply ok_foldl

theorem execCvt_ok {h : Hdr} {msk : BitVec 2} {vd vs sfmt dfmt : BitVec 5} {rm : BitVec 3} {sat cb : Bool} {s : State} (hs : Ok cmds s) : Keeps cmds (execCvt h msk vd vs sfmt dfmt rm sat cb s) := by
  unfold execCvt
  repeat any_goals first
    | with_reducible assumption
    | with_reducible refine fun _ => ?_
    | with_reducible apply State.eachCore_ok
    | with_reducible apply slotOp_ok
    | with_reducible apply keeps_next
    | split

theorem execCvmx_ok {h : Hdr} {vd vs vsc dfmt : BitVec 5} {rm : BitVec 3} {s : State} (hs : Ok cmds s) : Keeps cmds (execCvmx h vd vs vsc dfmt rm s) := by
  unfold execCvmx
  repeat any_goals first
    | with_reducible assumption
    | with_reducible refine fun _ => ?_
    | with_reducible apply State.eachCore_ok
    | with_reducible apply slotOp_ok
    | with_reducible apply keeps_next
    | split

theorem State.accEvent_ok {s : State} {h : Hdr} {code n entry : Nat} {cs : List (Nat × Nat)} (hs : Ok cmds s) : Ok cmds (State.accEvent s h code n entry cs) := by
  unfold State.accEvent
  repeat any_goals first
    | with_reducible assumption
    | with_reducible apply State.raiseTable_ok
    | with_reducible apply State.table_ok
    | with_reducible exact SMap.wf_nil _
    | split

theorem execArd_ok {h : Hdr} {vd : BitVec 5} {aset : BitVec 3} {entry : BitVec 6} {ofmt : BitVec 5} {rm : BitVec 3} {spec : Bool} {j : BitVec 4} {rv : BitVec 5} {s : State} (hs : Ok cmds s) : Keeps cmds (execArd h vd aset entry ofmt rm spec j rv s) := by
  unfold execArd
  repeat any_goals first
    | with_reducible assumption
    | with_reducible refine fun _ => ?_
    | ((try lift_lets); intro x; refine keep_let (P := Ok cmds x) ?_ (fun hx => ?_); rotate_left; clear_value x; rotate_right; unfold x; clear x)
    | ((try lift_lets); intro (x : _ → _); unfold x; clear x; try beta_reduce)
    | ((try lift_lets); intro x; clear_value x)
    | with_reducible apply State.accEvent_ok
    | with_reducible apply State.core_ok
    | with_reducible apply State.eachCore_ok
    | with_reducible apply slotOp_ok
    | with_reducible apply keeps_next
    | with_reducible apply SMap.wf_filter
    | with_reducible exact SMap.wf_nil _
    | split

theorem execArdr_ok {h : Hdr} {vd : BitVec 5} {aset : BitVec 3} {entry : BitVec 6} {s : State} (hs : Ok cmds s) : Keeps cmds (execArdr h vd aset entry s) := by
  unfold execArdr
  repeat any_goals first
    | with_reducible assumption
    | with_reducible refine fun _ => ?_
    | ((try lift_lets); intro x; refine keep_let (P := Ok cmds x) ?_ (fun hx => ?_); rotate_left; clear_value x; rotate_right; unfold x; clear x)
    | ((try lift_lets); intro (x : _ → _); unfold x; clear x; try beta_reduce)
    | ((try lift_lets); intro x; clear_value x)
    | with_reducible apply State.accEvent_ok
    | with_reducible apply State.core_ok
    | with_reducible apply State.eachCore_ok
    | with_reducible apply slotOp_ok

theorem execGmx_ok {h : Hdr} {msk : BitVec 2} {vd vx : BitVec 5} {seed : BitVec 4} {sstr seb suse : BitVec 5} {s : State} (hs : Ok cmds s) : Keeps cmds (execGmx h msk vd vx seed sstr seb suse s) := by
  unfold execGmx
  repeat any_goals first
    | with_reducible assumption
    | with_reducible refine fun _ => ?_
    | ((try lift_lets); intro x; clear_value x)
    | with_reducible apply State.eachCore_ok
    | with_reducible apply State.table_ok
    | with_reducible apply slotOp_ok

theorem execCurv_ok {h : Hdr} {msk : BitVec 2} {vd va : BitVec 5} {tab : BitVec 3} {s : State} (hs : Ok cmds s) : Keeps cmds (execCurv h msk vd va tab s) := by
  unfold execCurv
  repeat any_goals first
    | with_reducible assumption
    | with_reducible refine fun _ => ?_
    | with_reducible apply State.core_ok
    | with_reducible apply opLanes_ok
    | with_reducible apply slotOp_ok

theorem execTkcfg_ok {h : Hdr} {two : Bool} {depth : BitVec 5} {desc int32 : Bool} {s : State} (hs : Ok cmds s) : Keeps cmds (execTkcfg h two depth desc int32 s) := by
  unfold execTkcfg
  repeat any_goals first
    | with_reducible assumption
    | with_reducible refine fun _ => ?_
    | with_reducible apply State.eachCore_ok
    | with_reducible apply slotOp_ok

theorem execTkins_ok {h : Hdr} {msk : BitVec 2} {list : Bool} {vs sidx : BitVec 5} {s : State} (hs : Ok cmds s) : Keeps cmds (execTkins h msk list vs sidx s) := by
  unfold execTkins
  repeat any_goals first
    | with_reducible assumption
    | with_reducible refine fun _ => ?_
    | with_reducible apply State.eachCore_ok
    | with_reducible apply slotOp_ok

theorem execTkrd_ok {h : Hdr} {list : Bool} {rank : BitVec 4} {vds vdi : BitVec 5} {s : State} (hs : Ok cmds s) : Keeps cmds (execTkrd h list rank vds vdi s) := by
  unfold execTkrd
  repeat any_goals first
    | with_reducible assumption
    | with_reducible refine fun _ => ?_
    | ((try lift_lets); intro x; refine keep_let (P := Ok cmds x) ?_ (fun hx => ?_); rotate_left; clear_value x; rotate_right; unfold x; clear x)
    | ((try lift_lets); intro (x : _ → _); unfold x; clear x; try beta_reduce)
    | with_reducible apply State.core_ok
    | with_reducible apply State.eachCore_ok
    | with_reducible apply slotOp_ok

theorem State.putAcc_ok {s : State} {h : Hdr} {checked : Bool} {lat k : Nat} {es : List (Nat × Int)} {fs : List (Nat × BitVec 5)} (hs : Ok cmds s) : Ok cmds (State.putAcc s h checked lat k es fs) := by
  unfold State.putAcc
  repeat any_goals first
    | with_reducible assumption
    | with_reducible refine fun _ => ?_
    | ((try lift_lets); intro (x : SMap _); unfold x; clear x)
    | with_reducible apply State.busyFor_ok
    | with_reducible apply State.modCore_ok
    | with_reducible apply State.post_ok
    | with_reducible apply State.table_ok
    | (with_reducible refine coreOk_accM (by with_reducible assumption) ?_)
    | with_reducible apply SMap.wf_setAll
    | with_reducible apply SMap.wf_filter
    | with_reducible exact SMap.wf_nil _
    | (with_reducible exact CParts.accM_ (by with_reducible assumption))

theorem State.consume_ok {s : State} {h : Hdr} {wf lc k : Nat} (hs : Ok cmds s) : Ok cmds (State.consume s h wf lc k).1 := by
  unfold State.consume
  dsimp only
  split
  · exact State.modCore_ok (State.streamRead_ok hs) (fun c hc => { hc with fifo_ := SMap.wf_set _ _ hc.fifo_ })
  · exact State.modCore_ok hs (fun c hc => hc)

theorem State.mdotCore_ok {s : State} {h : Hdr} {o : MdotOp} {hf wf : Fmt} {k : Nat} (hs : Ok cmds s) : Ok cmds (State.mdotCore s h o hf wf k) := by
  unfold State.mdotCore
  repeat any_goals first
    | with_reducible assumption
    | with_reducible refine fun _ => ?_
    | ((try lift_lets); intro x; refine keep_let (P := Ok cmds x) ?_ (fun hx => ?_); rotate_left; clear_value x; rotate_right; unfold x; clear x)
    | ((try lift_lets); intro x; clear_value x)
    | with_reducible apply State.noteMReads_ok
    | with_reducible apply State.noteReads_ok
    | with_reducible apply State.putAcc_ok

theorem execMdot_ok {h : Hdr} {o : MdotOp} {s : State} (hs : Ok cmds s) : Keeps cmds (execMdot h o s) := by
  unfold execMdot
  repeat any_goals first
    | with_reducible assumption
    | with_reducible refine fun _ => ?_
    | ((try lift_lets); intro x; refine keep_let (P := Ok cmds x) ?_ (fun hx => ?_); rotate_left; clear_value x; rotate_right; unfold x; clear x)
    | ((try lift_lets); intro x; refine keep_let (P := Ok cmds x.1) ?_ (fun hx => ?_); rotate_left; clear_value x; rotate_right; unfold x; clear x)
    | ((try lift_lets); intro (x : _ → _); unfold x; clear x; try beta_reduce)
    | ((try lift_lets); intro x; clear_value x)
    | with_reducible apply State.accEvent_ok
    | with_reducible apply State.accFaults_ok
    | with_reducible apply State.consume_ok
    | with_reducible apply State.mdotCore_ok
    | with_reducible apply State.table_ok
    | with_reducible apply slotOp_ok
    | with_reducible apply ok_foldl
    | with_reducible apply ok_foldl_fst
    | with_reducible apply ok_foldl_snd
    | with_reducible apply keeps_next
    | with_reducible apply SMap.wf_filter
    | with_reducible exact SMap.wf_nil _
    | split

theorem execMclr_ok {h : Hdr} {val : BitVec 2} {aset : BitVec 3} {first last : BitVec 6} {msk : BitVec 2} {s : State} (hs : Ok cmds s) : Keeps cmds (execMclr h val aset first last msk s) := by
  unfold execMclr
  repeat any_goals first
    | with_reducible assumption
    | with_reducible refine fun _ => ?_
    | ((try lift_lets); intro x; refine keep_let (P := Ok cmds x) ?_ (fun hx => ?_); rotate_left; clear_value x; rotate_right; unfold x; clear x)
    | ((try lift_lets); intro (x : _ → _); unfold x; clear x; try beta_reduce)
    | ((try lift_lets); intro x; clear_value x)
    | with_reducible apply State.accEvent_ok
    | with_reducible apply State.putAcc_ok
    | with_reducible apply slotOp_ok
    | with_reducible apply ok_foldl

theorem execMsetw_ok {h : Hdr} {aset : BitVec 3} {wide : Bool} {anchor : BitVec 10} {s : State} (hs : Ok cmds s) : Keeps cmds (execMsetw h aset wide anchor s) := by
  unfold execMsetw
  repeat any_goals first
    | with_reducible assumption
    | with_reducible refine fun _ => ?_
    | ((try lift_lets); intro x; clear_value x)
    | with_reducible apply State.modCore_ok
    | with_reducible apply State.post_ok
    | with_reducible apply State.table_ok
    | with_reducible apply slotOp_ok
    | with_reducible apply ok_foldl
    | with_reducible apply ok_foldl_fst
    | with_reducible apply ok_foldl_snd
    | with_reducible apply keeps_next
    | (with_reducible refine coreOk_accM_cfgM (by with_reducible assumption) ?_ ?_)
    | with_reducible apply SMap.wf_set
    | with_reducible apply SMap.wf_filter
    | with_reducible apply SMap.wf_foldl
    | (with_reducible exact CParts.accM_ (by with_reducible assumption))
    | (with_reducible exact CParts.cfgM_ (by with_reducible assumption))

theorem execMred_ok {h : Hdr} {aset : BitVec 3} {entry dentry : BitVec 6} {msk : BitVec 2} {keep : Bool} {rop : BitVec 2} {s : State} (hs : Ok cmds s) : Keeps cmds (execMred h aset entry dentry msk keep rop s) := by
  unfold execMred
  repeat any_goals first
    | with_reducible assumption
    | with_reducible refine fun _ => ?_
    | ((try lift_lets); intro x; refine keep_let (P := Ok cmds x) ?_ (fun hx => ?_); rotate_left; clear_value x; rotate_right; unfold x; clear x)
    | ((try lift_lets); intro x; clear_value x)
    | with_reducible apply State.accEvent_ok
    | with_reducible apply State.busyFor_ok
    | with_reducible apply State.noteMReads_ok
    | with_reducible apply State.putAcc_ok
    | with_reducible apply State.table_ok
    | with_reducible apply slotOp_ok
    | with_reducible apply ok_foldl
    | with_reducible apply ok_foldl_fst
    | with_reducible apply ok_foldl_snd
    | with_reducible apply keeps_next
    | with_reducible apply SMap.wf_filter
    | with_reducible exact SMap.wf_nil _
    | split

theorem execMinj_ok {h : Hdr} {aset : BitVec 3} {entry : BitVec 6} {vsrc : BitVec 5} {msk : BitVec 2} {s : State} (hs : Ok cmds s) : Keeps cmds (execMinj h aset entry vsrc msk s) := by
  unfold execMinj
  repeat any_goals first
    | with_reducible assumption
    | with_reducible refine fun _ => ?_
    | ((try lift_lets); intro x; refine keep_let (P := Ok cmds x) ?_ (fun hx => ?_); rotate_left; clear_value x; rotate_right; unfold x; clear x)
    | ((try lift_lets); intro x; clear_value x)
    | with_reducible apply State.accEvent_ok
    | with_reducible apply State.noteMReads_ok
    | with_reducible apply State.noteReads_ok
    | with_reducible apply State.putAcc_ok
    | with_reducible apply State.table_ok
    | with_reducible apply slotOp_ok
    | with_reducible apply ok_foldl

theorem execWarm_ok {h : Hdr} {desc : BitVec 2} {off : Bool} {s : State} (hs : Ok cmds s) : Keeps cmds (execWarm h desc off s) := by
  unfold execWarm
  repeat any_goals first
    | with_reducible assumption
    | with_reducible refine fun _ => ?_
    | ((try lift_lets); intro (x : Streamer); dsimp only [x]; clear x)
    | ((try lift_lets); intro x; clear_value x)
    | with_reducible apply State.modCore_ok
    | with_reducible apply State.modTable_ok
    | with_reducible apply State.table_ok
    | with_reducible apply slotOp_ok
    | with_reducible apply ok_foldl
    | with_reducible apply ok_foldl_fst
    | with_reducible apply ok_foldl_snd
    | with_reducible apply keeps_next
    | with_reducible exact SMap.wf_nil _
    | split

theorem State.holdLane_ok {s : State} {t : Nat} {pc : BitVec 17} {lc k : Nat} {d : BitVec 256} {f : Fmt} {off : Int} (hs : Ok cmds s) : Ok cmds (State.holdLane s t pc lc k d f off).2.1 := by
  unfold State.holdLane
  repeat any_goals first
    | with_reducible assumption
    | with_reducible refine fun _ => ?_
    | ((try lift_lets); intro x; refine keep_let (P := Ok cmds x.2.1) ?_ (fun hx => ?_); rotate_left; clear_value x; rotate_right; unfold x; clear x)
    | ((try lift_lets); intro (x : SMap _); unfold x; clear x)
    | ((try lift_lets); intro (x : _ → _); unfold x; clear x; try beta_reduce)
    | ((try lift_lets); intro x; clear_value x)
    | with_reducible apply State.spdFetch_ok
    | with_reducible apply SMap.wf_filter
    | split

theorem State.hloadCore_ok {s : State} {h : Hdr} {n half : Nat} {adv : Bool} {lc k : Nat} (hs : Ok cmds s) : Ok cmds (State.hloadCore s h n half adv lc k).1 := by
  have lane : ∀ (acc : State × List AccFault) (r : LaneFill × State × List AccFault) (es : List (Nat × Eff)), Ok cmds r.2.1 →
      Ok cmds ((r.2.1.post h.table slotL h.pc true es, acc.2 ++ r.2.2) : State × List AccFault).1 := fun acc r es hr => State.post_ok hr
  unfold State.hloadCore
  refine State.setCsr_ok (lane _ _ _ ?_)
  split
  · exact State.holdLane_ok (lane (s, []) _ _ (by split; exacts [State.holdLane_ok hs, hs]))
  · exact lane (s, []) _ _ (by split; exacts [State.holdLane_ok hs, hs])

theorem execHload_ok {h : Hdr} {desc : BitVec 2} {half adv : Bool} {s : State} (hs : Ok cmds s) : Keeps cmds (execHload h desc half adv s) := by
  unfold execHload
  repeat any_goals first
    | with_reducible assumption
    | with_reducible refine fun _ => ?_
    | ((try lift_lets); intro x; refine keep_let (P := Ok cmds x.1) ?_ (fun hx => ?_); rotate_left; clear_value x; rotate_right; unfold x; clear x)
    | with_reducible apply State.accFaults_ok
    | with_reducible apply State.busyFor_ok
    | with_reducible apply State.hloadCore_ok
    | with_reducible apply State.table_ok
    | with_reducible apply slotOp_ok
    | with_reducible apply ok_foldl
    | with_reducible apply ok_foldl_fst

theorem State.absentUnit_ok {s : State} {t slot opcode kind unit : Nat} {pc : BitVec 17} (hs : Ok cmds s) : Ok cmds (State.absentUnit s t slot opcode kind unit pc) := by
  unfold State.absentUnit
  repeat any_goals first
    | with_reducible assumption
    | with_reducible apply State.raiseTable_ok

theorem State.eachLoad_ok {s : State} {h : Hdr} {reads : Nat → List Loc} {as : Nat → List Nat} {eff : State → Nat → List Byte → Option AccFault → List (Nat × Eff)} (hs : Ok cmds s) : Ok cmds (State.eachLoad s h reads as eff) := by
  unfold State.eachLoad
  repeat any_goals first
    | with_reducible assumption
    | with_reducible apply hreads
    | with_reducible apply has
    | with_reducible apply heff
    | with_reducible refine fun _ => ?_
    | ((try lift_lets); intro x; refine keep_let (P := Ok cmds x.1) ?_ (fun hx => ?_); rotate_left; clear_value x; rotate_right; unfold x; clear x)
    | ((try lift_lets); intro x; refine keep_let (P := Ok cmds x.2.1) ?_ (fun hx => ?_); rotate_left; clear_value x; rotate_right; unfold x; clear x)
    | ((try lift_lets); intro x; clear_value x)
    | with_reducible apply State.accFaults_ok
    | with_reducible apply State.busyWith_ok
    | with_reducible apply State.noteReads_ok
    | with_reducible apply State.post_ok
    | with_reducible apply State.spdRead_ok
    | with_reducible apply State.table_ok
    | with_reducible apply ok_foldl
    | with_reducible apply ok_foldl_fst

theorem execLdv_ok {h : Hdr} {vd : BitVec 5} {w : BitVec 3} {mode : BitVec 2} {sa sb : BitVec 5} {off : BitVec 19} {s : State} (hs : Ok cmds s) : Keeps cmds (execLdv h vd w mode sa sb off s) := by
  unfold execLdv
  repeat any_goals first
    | with_reducible assumption
    | with_reducible refine fun _ => ?_
    | ((try lift_lets); intro (x : _ → _); unfold x; clear x; try beta_reduce)
    | with_reducible apply State.eachLoad_ok
    | with_reducible apply slotOp_ok

theorem execLds_ok {h : Hdr} {sd sa : BitVec 5} {off : BitVec 19} {s : State} (hs : Ok cmds s) : Keeps cmds (execLds h sd sa off s) := by
  unfold execLds
  repeat any_goals first
    | with_reducible assumption
    | with_reducible refine fun _ => ?_
    | ((try lift_lets); intro (x : _ → _); unfold x; clear x; try beta_reduce)
    | with_reducible apply State.eachLoad_ok
    | with_reducible apply slotOp_ok

theorem execCbload_ok {h : Hdr} {book : Bool} {q : BitVec 2} {commit : Bool} {sa : BitVec 5} {off : BitVec 19} {s : State} (hs : Ok cmds s) : Keeps cmds (execCbload h book q commit sa off s) := by
  unfold execCbload
  repeat any_goals first
    | with_reducible assumption
    | with_reducible refine fun _ => ?_
    | with_reducible apply State.eachLoad_ok
    | with_reducible apply slotOp_ok

theorem execCtload_ok {h : Hdr} {tab : BitVec 3} {grp : BitVec 6} {sa : BitVec 5} {off : BitVec 19} {s : State} (hs : Ok cmds s) : Keeps cmds (execCtload h tab grp sa off s) := by
  unfold execCtload
  repeat any_goals first
    | with_reducible assumption
    | with_reducible refine fun _ => ?_
    | with_reducible apply State.eachLoad_ok
    | with_reducible apply slotOp_ok

theorem State.gthCore_ok {s : State} {h : Hdr} {vd vo sa : BitVec 5} {w msk : BitVec 2} {lc k : Nat} (hs : Ok cmds s) : Ok cmds (State.gthCore s h vd vo sa w msk lc k).1 := by
  unfold State.gthCore
  repeat any_goals first
    | with_reducible assumption
    | with_reducible refine fun _ => ?_
    | ((try lift_lets); intro x; refine keep_let (P := Ok cmds x) ?_ (fun hx => ?_); rotate_left; clear_value x; rotate_right; unfold x; clear x)
    | ((try lift_lets); intro x; refine keep_let (P := Ok cmds x.2.1) ?_ (fun hx => ?_); rotate_left; clear_value x; rotate_right; unfold x; clear x)
    | ((try lift_lets); intro (x : SMap _); unfold x; clear x)
    | ((try lift_lets); intro (x : _ → _); unfold x; clear x; try beta_reduce)
    | ((try lift_lets); intro x; clear_value x)
    | with_reducible apply State.noteReads_ok
    | with_reducible apply State.post_ok
    | with_reducible apply State.spdFetch_ok

theorem execGth_ok {h : Hdr} {vd vo sa : BitVec 5} {w msk : BitVec 2} {s : State} (hs : Ok cmds s) : Keeps cmds (execGth h vd vo sa w msk s) := by
  unfold execGth
  repeat any_goals first
    | with_reducible assumption
    | with_reducible refine fun _ => ?_
    | ((try lift_lets); intro x; refine keep_let (P := Ok cmds x.1) ?_ (fun hx => ?_); rotate_left; clear_value x; rotate_right; unfold x; clear x)
    | with_reducible apply State.accFaults_ok
    | with_reducible apply State.busyFor_ok
    | with_reducible apply State.gthCore_ok
    | with_reducible apply State.table_ok
    | with_reducible apply slotOp_ok
    | with_reducible apply ok_foldl
    | with_reducible apply ok_foldl_fst

theorem State.shelfFetch_ok {s : State} {t lc o : Nat} (hs : Ok cmds s) : Ok cmds (State.shelfFetch s t lc o).2.1 := by
  unfold State.shelfFetch
  repeat any_goals first
    | with_reducible assumption
    | with_reducible refine fun _ => ?_
    | ((try lift_lets); intro x; clear_value x)
    | with_reducible apply State.countCe_ok
    | split

theorem execShld_ok {h : Hdr} {ssh sa : BitVec 5} {off : BitVec 19} {s : State} (hs : Ok cmds s) : Keeps cmds (execShld h ssh sa off s) := by
  unfold execShld
  repeat any_goals first
    | with_reducible assumption
    | with_reducible refine fun _ => ?_
    | ((try lift_lets); intro x; refine keep_let (P := Ok cmds x) ?_ (fun hx => ?_); rotate_left; clear_value x; rotate_right; unfold x; clear x)
    | ((try lift_lets); intro x; refine keep_let (P := Ok cmds x.1) ?_ (fun hx => ?_); rotate_left; clear_value x; rotate_right; unfold x; clear x)
    | ((try lift_lets); intro x; refine keep_let (P := Ok cmds x.2.1) ?_ (fun hx => ?_); rotate_left; clear_value x; rotate_right; unfold x; clear x)
    | ((try lift_lets); intro x; clear_value x)
    | with_reducible apply State.accFaults_ok
    | with_reducible apply State.modCore_ok
    | with_reducible apply State.noteReads_ok
    | with_reducible apply State.post_ok
    | with_reducible apply State.shelfFetch_ok
    | with_reducible apply State.table_ok
    | with_reducible apply slotOp_ok
    | with_reducible apply ok_foldl
    | with_reducible apply ok_foldl_fst

theorem execStv_ok {h : Hdr} {msk : BitVec 2} {vs : BitVec 5} {w : BitVec 3} {mode : BitVec 2} {sa sb : BitVec 5} {off : BitVec 19} {s : State} (hs : Ok cmds s) : Keeps cmds (execStv h msk vs w mode sa sb off s) := by
  unfold execStv
  repeat any_goals first
    | with_reducible assumption
    | with_reducible refine fun _ => ?_
    | ((try lift_lets); intro x; refine keep_let (P := Ok cmds x) ?_ (fun hx => ?_); rotate_left; clear_value x; rotate_right; unfold x; clear x)
    | ((try lift_lets); intro (x : SMap _); unfold x; clear x)
    | with_reducible apply State.core_ok
    | with_reducible apply State.noteReads_ok
    | with_reducible apply State.post_ok
    | with_reducible apply State.table_ok
    | with_reducible apply slotOp_ok

theorem execSts_ok {h : Hdr} {ss sa : BitVec 5} {off : BitVec 19} {s : State} (hs : Ok cmds s) : Keeps cmds (execSts h ss sa off s) := by
  unfold execSts
  repeat any_goals first
    | with_reducible assumption
    | with_reducible refine fun _ => ?_
    | ((try lift_lets); intro x; refine keep_let (P := Ok cmds x) ?_ (fun hx => ?_); rotate_left; clear_value x; rotate_right; unfold x; clear x)
    | ((try lift_lets); intro (x : SMap _); unfold x; clear x)
    | with_reducible apply State.noteReads_ok
    | with_reducible apply State.post_ok
    | with_reducible apply State.table_ok
    | with_reducible apply slotOp_ok

theorem execShst_ok {h : Hdr} {ssh sa : BitVec 5} {off : BitVec 19} {s : State} (hs : Ok cmds s) : Keeps cmds (execShst h ssh sa off s) := by
  unfold execShst
  repeat any_goals first
    | with_reducible assumption
    | with_reducible refine fun _ => ?_
    | ((try lift_lets); intro x; refine keep_let (P := Ok cmds x) ?_ (fun hx => ?_); rotate_left; clear_value x; rotate_right; unfold x; clear x)
    | ((try lift_lets); intro x; refine keep_let (P := Ok cmds x.1) ?_ (fun hx => ?_); rotate_left; clear_value x; rotate_right; unfold x; clear x)
    | ((try lift_lets); intro x; refine keep_let (P := Ok cmds x.2.1) ?_ (fun hx => ?_); rotate_left; clear_value x; rotate_right; unfold x; clear x)
    | ((try lift_lets); intro x; clear_value x)
    | with_reducible apply State.accFaults_ok
    | with_reducible apply State.busyFor_ok
    | with_reducible apply State.modCore_ok
    | with_reducible apply State.noteReads_ok
    | with_reducible apply State.post_ok
    | with_reducible apply State.spdRead_ok
    | with_reducible apply State.table_ok
    | with_reducible apply slotOp_ok
    | with_reducible apply ok_foldl
    | with_reducible apply ok_foldl_fst

theorem State.queueFaults_ok {s : State} {t : Nat} {fs : List AccFault} (hs : Ok cmds s) : Ok cmds (State.queueFaults s t fs) := by
  unfold State.queueFaults
  split
  · exact State.accFaults_ok hs
  · refine State.faultTable_ok (State.recordFault_ok ?_)
    split
    · exact State.accFaults_ok hs
    · exact State.setCsr_ok (State.accFaults_ok hs)

theorem execQreq_ok {h : Hdr} {q : BitVec 4} {sp : BitVec 5} {n1 : BitVec 4} {s : State} (hs : Ok cmds s) : Keeps cmds (execQreq h q sp n1 s) := by
  unfold execQreq
  repeat any_goals first
    | with_reducible assumption
    | with_reducible refine fun _ => ?_
    | ((try lift_lets); intro x; refine keep_let (P := Ok cmds x) ?_ (fun hx => ?_); rotate_left; clear_value x; rotate_right; unfold x; clear x)
    | ((try lift_lets); intro x; clear_value x)
    | with_reducible apply State.absentUnit_ok
    | with_reducible apply State.busyFor_ok
    | with_reducible apply State.noteReads_ok
    | with_reducible apply State.post_ok
    | with_reducible apply State.queueFaults_ok
    | with_reducible apply State.table_ok
    | with_reducible apply slotOp_ok
    | with_reducible apply keeps_next
    | with_reducible apply SMap.wf_filter
    | with_reducible exact SMap.wf_nil _
    | split

theorem execQrel_ok {h : Hdr} {q : BitVec 4} {n : BitVec 6} {s : State} (hs : Ok cmds s) : Keeps cmds (execQrel h q n s) := by
  unfold execQrel
  repeat any_goals first
    | with_reducible assumption
    | with_reducible refine fun _ => ?_
    | ((try lift_lets); intro (x : _ → _); unfold x; clear x; try beta_reduce)
    | ((try lift_lets); intro x; clear_value x)
    | with_reducible apply State.accFaults_ok
    | with_reducible apply State.busyFor_ok
    | with_reducible apply State.post_ok
    | with_reducible apply State.qmove_ok
    | with_reducible apply State.table_ok
    | with_reducible apply slotOp_ok

theorem State.addWait_ok {s : State} {h : Hdr} {w : WaitFor} (hs : Ok cmds s) : Ok cmds (State.addWait s h w) := by
  unfold State.addWait
  repeat any_goals first
    | with_reducible assumption
    | with_reducible refine fun _ => ?_
    | ((try lift_lets); intro x; clear_value x)
    | with_reducible apply State.busyFor_ok
    | with_reducible apply State.modSeq_ok

theorem execSend_ok {h : Hdr} {chn hidx : BitVec 6} {sa : BitVec 5} {off : BitVec 19} {f1 : BitVec 4} {s : State} (hs : Ok cmds s) : Keeps cmds (execSend h chn hidx sa off f1 s) := by
  unfold execSend
  repeat any_goals first
    | with_reducible assumption
    | with_reducible refine fun _ => ?_
    | ((try lift_lets); intro x; refine keep_let (P := Ok cmds x) ?_ (fun hx => ?_); rotate_left; clear_value x; rotate_right; unfold x; clear x)
    | ((try lift_lets); intro (x : SMap _); unfold x; clear x)
    | ((try lift_lets); intro x; clear_value x)
    | with_reducible apply State.absentUnit_ok
    | with_reducible apply State.addWait_ok
    | with_reducible apply State.modSnd_ok
    | with_reducible apply State.modTable_ok
    | with_reducible apply State.noteReads_ok
    | with_reducible apply State.table_ok
    | with_reducible apply State.tryOpen_ok
    | with_reducible apply slotOp_ok
    | with_reducible apply keeps_next
    | with_reducible exact SMap.wf_nil _
    | split

theorem State.modIssuer_ok {s : State} {h : Hdr} {f : Seq → Seq} (hs : Ok cmds s) : Ok cmds (State.modIssuer s h f) := by
  unfold State.modIssuer
  repeat any_goals first
    | with_reducible assumption
    | with_reducible apply hf
    | with_reducible apply State.modSeq_ok

theorem execNop_ok {h : Hdr} {s : State} (hs : Ok cmds s) : Keeps cmds (execNop h s) :=
  slotOp_ok (fun _ h => h) hs

theorem execEndTask_ok {h : Hdr} {s : State} (hs : Ok cmds s) : Keeps cmds (execEndTask h s) := by
  unfold execEndTask
  repeat any_goals first
    | with_reducible assumption
    | with_reducible refine fun _ => ?_
    | ((try lift_lets); intro x; refine keep_let (P := Ok cmds x) ?_ (fun hx => ?_); rotate_left; clear_value x; rotate_right; unfold x; clear x)
    | ((try lift_lets); intro x; clear_value x)
    | with_reducible apply State.busyFor_ok
    | with_reducible apply State.modIssuer_ok
    | with_reducible apply State.modTable_ok
    | with_reducible apply State.table_ok
    | with_reducible apply slotOp_ok

theorem execLoop_ok {h : Hdr} {lvl : BitVec 2} {addr : BitVec 17} {s : State} (hs : Ok cmds s) : Keeps cmds (execLoop h lvl addr s) := by
  unfold execLoop
  repeat any_goals first
    | with_reducible assumption
    | with_reducible refine fun _ => ?_
    | with_reducible apply State.modIssuer_ok
    | with_reducible apply State.table_ok
    | with_reducible apply slotOp_ok

theorem execSetlc_ok {h : Hdr} {lvl : BitVec 2} {src : Bool} {val : BitVec 23} {s : State} (hs : Ok cmds s) : Keeps cmds (execSetlc h lvl src val s) := by
  unfold execSetlc
  repeat any_goals first
    | with_reducible assumption
    | with_reducible refine fun _ => ?_
    | ((try lift_lets); intro x; clear_value x)
    | with_reducible apply State.noteReads_ok
    | with_reducible apply State.post_ok
    | with_reducible apply State.table_ok
    | with_reducible apply slotOp_ok
    | with_reducible apply keeps_next
    | split

theorem execBr_ok {h : Hdr} {cmode : BitVec 2} {pred : BitVec 3} {neg : Bool} {addr : BitVec 17} {s : State} (hs : Ok cmds s) : Keeps cmds (execBr h cmode pred neg addr s) := by
  unfold execBr
  repeat any_goals first
    | with_reducible assumption
    | with_reducible refine fun _ => ?_
    | ((try lift_lets); intro (x : SMap _); unfold x; clear x)
    | ((try lift_lets); intro x; clear_value x)
    | with_reducible apply State.modIssuer_ok
    | with_reducible apply State.noteReads_ok
    | with_reducible apply State.table_ok
    | with_reducible apply slotOp_ok

theorem execWait_ok {h : Hdr} {dst : BitVec 2} {ctr amt : BitVec 8} {tsel : BitVec 4} {s : State} (hs : Ok cmds s) : Keeps cmds (execWait h dst ctr amt tsel s) := by
  unfold execWait
  repeat any_goals first
    | with_reducible assumption
    | with_reducible refine fun _ => ?_
    | with_reducible apply State.addWait_ok
    | with_reducible apply slotOp_ok

theorem execSig_ok {h : Hdr} {dst : BitVec 2} {ctr amt : BitVec 8} {chn : BitVec 6} {s : State} (hs : Ok cmds s) : Keeps cmds (execSig h dst ctr amt chn s) := by
  unfold execSig
  repeat any_goals first
    | with_reducible assumption
    | with_reducible refine fun _ => ?_
    | ((try lift_lets); intro x; clear_value x)
    | with_reducible apply State.absentUnit_ok
    | with_reducible apply State.modTable_ok
    | with_reducible apply State.post_ok
    | with_reducible apply State.table_ok
    | with_reducible apply State.tryOpen_ok
    | with_reducible apply slotOp_ok
    | with_reducible apply keeps_next
    | with_reducible exact SMap.wf_nil _
    | split

theorem execQwait_ok {h : Hdr} {q : BitVec 4} {space : Bool} {n : BitVec 6} {s : State} (hs : Ok cmds s) : Keeps cmds (execQwait h q space n s) := by
  unfold execQwait
  repeat any_goals first
    | with_reducible assumption
    | with_reducible refine fun _ => ?_
    | with_reducible apply State.addWait_ok
    | with_reducible apply slotOp_ok

theorem execDwait_ok {h : Hdr} {ch : BitVec 7} {s : State} (hs : Ok cmds s) : Keeps cmds (execDwait h ch s) := by
  unfold execDwait
  repeat any_goals first
    | with_reducible assumption
    | with_reducible refine fun _ => ?_
    | with_reducible apply State.addWait_ok
    | with_reducible apply slotOp_ok

theorem execHwin_ok {h : Hdr} {chn cnt : BitVec 6} {wlen : BitVec 12} {s : State} (hs : Ok cmds s) : Keeps cmds (execHwin h chn cnt wlen s) := by
  unfold execHwin
  repeat any_goals first
    | with_reducible assumption
    | with_reducible refine fun _ => ?_
    | with_reducible apply State.addWait_ok
    | with_reducible apply State.modIssuer_ok
    | with_reducible apply slotOp_ok

theorem execHret_ok {h : Hdr} {s : State} (hs : Ok cmds s) : Keeps cmds (execHret h s) := by
  unfold execHret
  repeat any_goals first
    | with_reducible assumption
    | with_reducible refine fun _ => ?_
    | ((try lift_lets); intro x; refine keep_let (P := Ok cmds x) ?_ (fun hx => ?_); rotate_left; clear_value x; rotate_right; unfold x; clear x)
    | ((try lift_lets); intro x; clear_value x)
    | with_reducible apply State.modCore_ok
    | with_reducible apply State.modRcv_ok
    | with_reducible apply State.modTable_ok
    | with_reducible apply State.table_ok
    | with_reducible apply slotOp_ok
    | with_reducible apply ok_foldl
    | with_reducible apply ok_foldl_fst
    | with_reducible apply ok_foldl_snd
    | with_reducible apply keeps_next
    | with_reducible exact SMap.wf_nil _
    | split

theorem State.closeDynamic_ok {s : State} {t : Nat} (hs : Ok cmds s) : Ok cmds (State.closeDynamic s t) := by
  unfold State.closeDynamic
  refine ok_foldl hs (fun a kv ha => ?_)
  dsimp only
  split
  · exact State.modSnd_ok ha
  · exact ha

theorem State.pauseFails_ok {s : State} {j : Nat} (hs : Ok cmds s) : Ok cmds (State.pauseFails s j) := by
  unfold State.pauseFails
  repeat any_goals first
    | with_reducible assumption
    | with_reducible refine fun _ => ?_
    | ((try lift_lets); intro x; refine keep_let (P := Ok cmds x) ?_ (fun hx => ?_); rotate_left; clear_value x; rotate_right; unfold x; clear x)
    | ((try lift_lets); intro x; clear_value x)
    | with_reducible apply State.failPause_ok
    | with_reducible apply State.modJob_ok
    | with_reducible apply State.modTable_ok
    | with_reducible apply ok_foldl
    | with_reducible apply SMap.wf_filter
    | split

theorem execTrick_ok {h : Hdr} {id : BitVec 12} {repart : Bool} {s : State} (hs : Ok cmds s) : Keeps cmds (execTrick h id repart s) := by
  unfold execTrick
  repeat any_goals first
    | with_reducible assumption
    | with_reducible refine fun _ => ?_
    | ((try lift_lets); intro x; refine keep_let (P := Ok cmds x) ?_ (fun hx => ?_); rotate_left; clear_value x; rotate_right; unfold x; clear x)
    | ((try lift_lets); intro x; refine keep_let (P := TableOk x) ?_ (fun hx => ?_); rotate_left; clear_value x; rotate_right; unfold x; clear x)
    | ((try lift_lets); intro x; clear_value x)
    | with_reducible apply State.closeDynamic_ok
    | with_reducible apply State.modTable_ok
    | with_reducible apply State.pauseFails_ok
    | with_reducible apply State.raiseTable_ok
    | with_reducible apply State.table_ok
    | with_reducible apply Table.stop_ok
    | with_reducible apply slotOp_ok
    | with_reducible apply keeps_next
    | (with_reducible refine ok_dma (by with_reducible assumption) ?_)
    | with_reducible apply SMap.wf_mapAll
    | (with_reducible exact SParts.dma_ (by with_reducible assumption))
    | split

end Sys2Proof.Machine
end

