-- ==== Sys2Proof/Laws/CanonNet.lean ====
section
/-!
SUPPORT. Every operation of Machine/Heads.lean, Machine/Waits.lean, Machine/Granule.lean, Machine/Network.lean, Machine/Memory.lean, Machine/Dma.lean keeps the canonical form.
-/
namespace Sys2Proof.Machine

variable {cmds : List Instr}

theorem State.takeFiring_ok {s : State} {blk ch j : Nat} {d : Desc} (hs : Ok cmds s) : Ok cmds (State.takeFiring s blk ch j d) := by
  unfold State.takeFiring
  repeat any_goals first
    | with_reducible assumption
    | with_reducible refine fun _ => ?_
    | with_reducible apply State.modDma_ok
    | split

theorem State.headEvent_ok {s : State} {blk ch : Nat} (hs : Ok cmds s) : Ok cmds (State.headEvent s blk ch) := by
  unfold State.headEvent
  repeat any_goals first
    | with_reducible assumption
    | ((try lift_lets); intro x; clear_value x)
    | with_reducible apply State.takeFiring_ok
    | split

theorem State.meetLate_ok {s : State} {t : Nat} {core : Option Nat} {p : WaitFor → Bool} (hs : Ok cmds s) : Ok cmds (State.meetLate s t core p) := by
  unfold State.meetLate
  repeat any_goals first
    | with_reducible assumption
    | with_reducible apply hp
    | with_reducible refine fun _ => ?_
    | ((try lift_lets); intro x; refine keep_let (P := Ok cmds x) ?_ (fun hx => ?_); rotate_left; clear_value x; rotate_right; unfold x; clear x)
    | ((try lift_lets); intro x; refine keep_let (P := Ok cmds x.1) ?_ (fun hx => ?_); rotate_left; clear_value x; rotate_right; unfold x; clear x)
    | with_reducible apply State.core_ok
    | (with_reducible refine State.meet_ok ?_ _ (by assumption))
    | with_reducible apply State.modSeq_ok
    | with_reducible apply State.openFor_ok
    | with_reducible apply ok_foldl
    | with_reducible apply ok_foldl_fst
    | with_reducible apply ok_foldl_snd
    | with_reducible exact SMap.wf_nil _
    | split

theorem State.meetTable_ok {s : State} {t : Nat} {p : WaitFor → Bool} (hs : Ok cmds s) : Ok cmds (State.meetTable s t p) := by
  unfold State.meetTable
  repeat any_goals first
    | with_reducible assumption
    | with_reducible apply hp
    | with_reducible refine fun _ => ?_
    | with_reducible apply State.meetLate_ok
    | with_reducible apply State.table_ok
    | with_reducible apply ok_foldl
    | split

theorem execWaitMet_ok {t : Nat} {s : State} (hs : Ok cmds s) : Keeps cmds (execWaitMet t s) := by
  unfold execWaitMet
  repeat any_goals first
    | with_reducible assumption
    | with_reducible apply State.meetTable_ok
    | with_reducible apply keeps_next

theorem execQwaitMet_ok {t : Nat} {s : State} (hs : Ok cmds s) : Keeps cmds (execQwaitMet t s) := by
  unfold execQwaitMet
  repeat any_goals first
    | with_reducible assumption
    | with_reducible apply State.meetTable_ok
    | with_reducible apply keeps_next

theorem execDwaitMet_ok {t : Nat} {s : State} (hs : Ok cmds s) : Keeps cmds (execDwaitMet t s) := by
  unfold execDwaitMet
  repeat any_goals first
    | with_reducible assumption
    | with_reducible apply State.meetTable_ok
    | with_reducible apply keeps_next

theorem execSendCreditMet_ok {t : Nat} {s : State} (hs : Ok cmds s) : Keeps cmds (execSendCreditMet t s) := by
  unfold execSendCreditMet
  repeat any_goals first
    | with_reducible assumption
    | with_reducible apply State.meetTable_ok
    | with_reducible apply keeps_next

theorem execHwinOpen_ok {t : Nat} {s : State} (hs : Ok cmds s) : Keeps cmds (execHwinOpen t s) := by
  unfold execHwinOpen
  repeat any_goals first
    | with_reducible assumption
    | with_reducible apply State.meetTable_ok
    | with_reducible apply keeps_next

theorem execSynTimeout_ok {t : Nat} {s : State} (hs : Ok cmds s) : Keeps cmds (execSynTimeout t s) := by
  unfold execSynTimeout
  repeat any_goals first
    | with_reducible assumption
    | with_reducible apply State.faultTable_ok
    | with_reducible apply State.synFault_ok
    | with_reducible apply State.table_ok
    | with_reducible apply keeps_next
    | split

theorem execChnStall_ok {t : Nat} {s : State} (hs : Ok cmds s) : Keeps cmds (execChnStall t s) := by
  unfold execChnStall
  repeat any_goals first
    | with_reducible assumption
    | with_reducible apply State.faultTable_ok
    | with_reducible apply State.recordFault_ok
    | with_reducible apply State.table_ok
    | with_reducible apply keeps_next
    | split

theorem execTaperLineFill_ok {t c : Nat} {s : State} (hs : Ok cmds s) : Keeps cmds (execTaperLineFill t c s) := by
  unfold execTaperLineFill
  repeat any_goals first
    | with_reducible assumption
    | with_reducible refine fun _ => ?_
    | ((try lift_lets); intro x; clear_value x)
    | with_reducible apply State.modCore_ok
    | with_reducible apply State.table_ok
    | with_reducible apply keeps_next
    | (with_reducible refine ok_slots (by with_reducible assumption) ?_)
    | (with_reducible exact SParts.slots_ (by with_reducible assumption))
    | split

theorem State.openChannels_ok {s : State} {j : Nat} {b : Job} (hs : Ok cmds s) : Ok cmds (State.openChannels s j b) := by
  unfold State.openChannels
  repeat any_goals first
    | with_reducible assumption
    | with_reducible refine fun _ => ?_
    | with_reducible apply State.modJob_ok
    | with_reducible apply State.modSnd_ok
    | with_reducible apply ok_foldl

theorem State.runDma_ok {s : State} {k : Nat} (hs : Ok cmds s) : Ok cmds (State.runDma s k) := by
  unfold State.runDma
  repeat any_goals first
    | with_reducible assumption
    | with_reducible refine fun _ => ?_
    | ((try lift_lets); intro x; clear_value x)
    | with_reducible apply State.headEvent_ok
    | with_reducible apply State.modDma_ok

theorem State.runHome_ok {s : State} {t : Nat} (hs : Ok cmds s) : Ok cmds (State.runHome s t) := by
  unfold State.runHome
  repeat any_goals first
    | with_reducible assumption
    | with_reducible refine fun _ => ?_
    | ((try lift_lets); intro x; clear_value x)
    | with_reducible apply State.runDma_ok
    | with_reducible apply State.table_ok
    | with_reducible apply ok_foldl

theorem execTaskRelease_ok {t : Nat} {s : State} (hs : Ok cmds s) : Keeps cmds (execTaskRelease t s) := by
  unfold execTaskRelease
  repeat any_goals first
    | with_reducible assumption
    | with_reducible refine fun _ => ?_
    | ((try lift_lets); intro x; refine keep_let (P := Ok cmds x) ?_ (fun hx => ?_); rotate_left; clear_value x; rotate_right; unfold x; clear x)
    | with_reducible apply State.modTable_ok
    | with_reducible apply State.openChannels_ok
    | with_reducible apply State.runHome_ok
    | with_reducible apply State.table_ok
    | with_reducible apply keeps_next
    | split

theorem execTaskResume_ok {t : Nat} {s : State} (hs : Ok cmds s) : Keeps cmds (execTaskResume t s) := by
  unfold execTaskResume
  repeat any_goals first
    | with_reducible assumption
    | with_reducible refine fun _ => ?_
    | ((try lift_lets); intro x; refine keep_let (P := Ok cmds x) ?_ (fun hx => ?_); rotate_left; clear_value x; rotate_right; unfold x; clear x)
    | with_reducible apply State.modSeq_ok
    | with_reducible apply State.modTable_ok
    | with_reducible apply State.openChannels_ok
    | with_reducible apply State.runHome_ok
    | with_reducible apply State.table_ok
    | with_reducible apply ok_foldl
    | with_reducible apply keeps_next
    | split

theorem State.closeChannel_ok {s : State} {t n : Nat} (hs : Ok cmds s) : Ok cmds (State.closeChannel s t n) := by
  have h1 : Ok cmds { s with noc := { s.noc with
      queues := (s.noc.queues.map (fun kv => (kv.1, kv.2.filter (fun f => !((f.kind == 0 || f.kind == 3) && f.edge.isNone && f.gran.isNone && f.dpt == t && f.rchn == n))))).filter (fun kv => !kv.2.isEmpty)
      links := (s.noc.links.map (fun kv => (kv.1, kv.2.filter (fun f => !((f.kind == 0 || f.kind == 3) && f.edge.isNone && f.gran.isNone && f.dpt == t && f.rchn == n))))).filter (fun kv => !kv.2.isEmpty)
      chanQ := (s.noc.chanQ.map (fun kv => (kv.1, kv.2.filter (fun f => !((f.kind == 0 || f.kind == 3) && f.edge.isNone && f.gran.isNone && f.dpt == t && f.rchn == n))))).filter (fun kv => !kv.2.isEmpty) } } :=
    ok_queues_chanQ_links hs (SMap.wf_mapFilter _ _ (by simp) hs.queues_) (SMap.wf_mapFilter _ _ (by simp) hs.chanQ_)
      (SMap.wf_mapFilter _ _ (by simp) hs.links_)
  refine State.modRcv_ok (State.modTable_ok ?_ (fun x hx => hx))
  split
  · dsimp only
    split
    · exact State.modTable_ok h1 (fun x hx => hx)
    · exact State.modSnd_ok (State.modTable_ok h1 (fun x hx => hx))
  · exact h1

theorem State.shutSends_ok {s : State} {b : Job} (hs : Ok cmds s) : Ok cmds (State.shutSends s b) := by
  unfold State.shutSends
  repeat any_goals first
    | with_reducible assumption
    | with_reducible refine fun _ => ?_
    | with_reducible apply State.modTable_ok
    | with_reducible apply ok_foldl
    | (with_reducible refine tableOk_snd (by with_reducible assumption) ?_)
    | with_reducible apply SMap.wf_mapAll
    | with_reducible apply SMap.wf_foldl
    | (with_reducible exact TParts.snd_ (by with_reducible assumption))

theorem State.closeChannels_ok {s : State} {j : Nat} {b : Job} (hs : Ok cmds s) : Ok cmds (State.closeChannels s j b) := by
  unfold State.closeChannels
  repeat any_goals first
    | with_reducible assumption
    | with_reducible refine fun _ => ?_
    | ((try lift_lets); intro x; clear_value x)
    | with_reducible apply State.closeChannel_ok
    | with_reducible apply State.modJob_ok
    | with_reducible apply ok_foldl

theorem State.endTask_ok {s : State} {t j : Nat} (hs : Ok cmds s) : Ok cmds (State.endTask s t j) := by
  unfold State.endTask
  repeat any_goals first
    | with_reducible assumption
    | with_reducible refine fun _ => ?_
    | ((try lift_lets); intro x; refine keep_let (P := Ok cmds x) ?_ (fun hx => ?_); rotate_left; clear_value x; rotate_right; unfold x; clear x)
    | ((try lift_lets); intro x; refine keep_let (P := TableOk x) ?_ (fun hx => ?_); rotate_left; clear_value x; rotate_right; unfold x; clear x)
    | ((try lift_lets); intro x; clear_value x)
    | with_reducible apply State.closeChannels_ok
    | with_reducible apply State.modJob_ok
    | with_reducible apply State.modTable_ok
    | with_reducible apply State.pauseFails_ok
    | with_reducible apply State.raise_ok
    | with_reducible apply State.table_ok
    | with_reducible apply SMap.wf_set
    | split

theorem execTaskEnd_ok {t : Nat} {s : State} (hs : Ok cmds s) : Keeps cmds (execTaskEnd t s) := by
  unfold execTaskEnd
  repeat any_goals first
    | with_reducible assumption
    | with_reducible refine fun _ => ?_
    | with_reducible apply State.endTask_ok
    | with_reducible apply State.modTable_ok
    | with_reducible apply State.table_ok
    | with_reducible apply keeps_next
    | split

theorem execSignalApply_ok {t rchn : Nat} {s : State} (hs : Ok cmds s) : Keeps cmds (execSignalApply t rchn s) := by
  unfold execSignalApply
  repeat any_goals first
    | with_reducible assumption
    | with_reducible refine fun _ => ?_
    | with_reducible apply State.addCounter_ok
    | with_reducible apply State.modRcv_ok
    | with_reducible apply State.table_ok
    | with_reducible apply keeps_next
    | with_reducible exact SMap.wf_nil _
    | split

theorem State.takeResidue_ok {s : State} {j : Nat} {b : Job} (hs : Ok cmds s) : Ok cmds (State.takeResidue s j b) := by
  unfold State.takeResidue
  repeat any_goals first
    | with_reducible assumption
    | with_reducible refine fun _ => ?_
    | ((try lift_lets); intro x; refine keep_let (P := Ok cmds x) ?_ (fun hx => ?_); rotate_left; clear_value x; rotate_right; unfold x; clear x)
    | ((try lift_lets); intro x; clear_value x)
    | with_reducible apply State.modJob_ok
    | with_reducible apply State.raise_ok
    | with_reducible apply State.setCsr_ok
    | with_reducible apply ok_foldl
    | split

theorem execSynResidue_ok {j : Nat} {s : State} (hs : Ok cmds s) : Keeps cmds (execSynResidue j s) := by
  unfold execSynResidue
  repeat any_goals first
    | with_reducible assumption
    | with_reducible refine fun _ => ?_
    | with_reducible apply State.shutSends_ok
    | with_reducible apply State.table_ok
    | with_reducible apply State.takeResidue_ok
    | with_reducible apply keeps_next
    | split

theorem State.dmaFault_ok {s : State} {blk ch code cause : Nat} (hs : Ok cmds s) : Ok cmds (State.dmaFault s blk ch code cause) := by
  unfold State.dmaFault
  repeat any_goals first
    | with_reducible assumption
    | ((try lift_lets); intro x; refine keep_let (P := Ok cmds x) ?_ (fun hx => ?_); rotate_left; clear_value x; rotate_right; unfold x; clear x)
    | ((try lift_lets); intro x; clear_value x)
    | with_reducible apply State.abortJob_ok
    | with_reducible apply State.raise_ok
    | with_reducible apply State.recordFault_ok
    | split

theorem State.memUe_ok {s : State} {g : Granule} {a : Nat} (hs : Ok cmds s) : Ok cmds (State.memUe s g a) := by
  unfold State.memUe
  repeat any_goals first
    | with_reducible assumption
    | ((try lift_lets); intro x; refine keep_let (P := Ok cmds x) ?_ (fun hx => ?_); rotate_left; clear_value x; rotate_right; unfold x; clear x)
    | ((try lift_lets); intro x; clear_value x)
    | with_reducible apply State.dmaFault_ok
    | with_reducible apply State.faultTable_ok
    | with_reducible apply State.recordFault_ok
    | with_reducible apply State.setCsr_ok
    | split

theorem State.beginCopy_ok {s : State} {stack chan : Nat} (hs : Ok cmds s) : Ok cmds (State.beginCopy s stack chan) := by
  unfold State.beginCopy
  repeat any_goals first
    | with_reducible assumption
    | with_reducible refine fun _ => ?_
    | ((try lift_lets); intro (x : MemSys); dsimp only [x]; clear x)
    | with_reducible apply State.modCsr_ok

theorem State.nextCopy_ok {s : State} {stack : Nat} (hs : Ok cmds s) : Ok cmds (State.nextCopy s stack) := by
  unfold State.nextCopy
  repeat any_goals first
    | with_reducible assumption
    | with_reducible refine fun _ => ?_
    | ((try lift_lets); intro (x : MemSys); dsimp only [x]; clear x)
    | with_reducible apply State.beginCopy_ok
    | split

theorem State.countHbmCe_ok {s : State} {stack chan : Nat} (hs : Ok cmds s) : Ok cmds (State.countHbmCe s stack chan) := by
  have h1 : ∀ {v : List Nat}, Ok cmds { s with mem := { s.mem with ceSeen := SMap.set [] s.mem.ceSeen (32 * stack + chan) v } } :=
    ok_ceSeen hs (SMap.wf_set _ _ hs.ceSeen_)
  unfold State.countHbmCe
  dsimp only
  split
  · exact h1
  · split
    · exact h1
    · split
      · exact h1
      · exact State.beginCopy_ok h1

theorem State.corrected_ok {s : State} {tier : Tier} {a : Nat} {device : BitVec 5} (hs : Ok cmds s) : Ok cmds (State.corrected s tier a device) := by
  unfold State.corrected
  repeat any_goals first
    | with_reducible assumption
    | with_reducible apply State.countHbmCe_ok
    | with_reducible apply State.countUp_ok
    | with_reducible apply State.raise_ok
    | split

theorem MemSys.markBad_ok {m : MemSys} {tier : Tier} {us : List Nat} {v : Bool} (hm : m.Canonical) : (m.markBad tier us v).Canonical :=
  { hm with bad := SMap.wf_setAll _ hm.bad }

theorem MemSys.putTier_ok {m : MemSys} {tier : Tier} {a : Nat} {bs : List Byte} (hm : m.Canonical) : (m.putTier tier a bs).1.Canonical := by
  refine MemSys.markBad_ok ?_
  cases tier
  · exact { hm with hbm := SMap.wf_setAll _ hm.hbm }
  · exact { hm with ddr := SMap.wf_setAll _ hm.ddr }

theorem State.readTier_ok {s : State} {tier : Tier} {g : Granule} {a : Nat} {err : GranuleErr} (hs : Ok cmds s) : Ok cmds (State.readTier s tier g a err).2 := by
  have h1 : Ok cmds (if err = .uncorrectable then { s with mem := s.mem.markBad tier (unitsOf (tierUnit tier) a g.len) true } else s) := by
    split
    · exact ok_mem hs (MemSys.markBad_ok hs.mem)
    · exact hs
  unfold State.readTier
  dsimp only
  split
  · exact State.memUe_ok h1
  · exact State.corrected_ok h1
  · exact h1

theorem State.writeTier_ok {s : State} {tier : Tier} {g : Granule} {err : GranuleErr} {a : Nat} {bs : List Byte} (hs : Ok cmds s) : Ok cmds (State.writeTier s tier g err a bs) := by
  have h1 : Ok cmds { s with mem := ((if err = .uncorrectable then s.mem.markBad tier (narrowUnits tier a bs.length) true else s.mem).putTier tier a bs).1 } := by
    refine ok_mem hs (MemSys.putTier_ok ?_)
    split
    · exact MemSys.markBad_ok hs.mem
    · exact hs.mem
  unfold State.writeTier
  dsimp only
  split
  · exact State.memUe_ok h1
  · exact State.corrected_ok h1
  · exact h1

theorem State.takePorts_ok {s : State} {g : Granule} (hs : Ok cmds s) : Ok cmds (State.takePorts s g) := by
  unfold State.takePorts
  repeat any_goals first
    | with_reducible assumption
    | with_reducible refine fun _ => ?_
    | ((try lift_lets); intro x; refine keep_let (P := Ok cmds x) ?_ (fun hx => ?_); rotate_left; clear_value x; rotate_right; unfold x; clear x)
    | with_reducible apply State.modCore_ok
    | split

theorem State.readGranule_ok {s : State} {g : Granule} {err : GranuleErr} {data : List Byte} (hs : Ok cmds s) : Ok cmds (State.readGranule s g err data).2 := by
  unfold State.readGranule
  dsimp only
  split
  · exact hs
  · split
    · exact State.readTier_ok hs
    · exact State.readTier_ok hs
    · exact State.accFaults_ok (State.countCe_ok hs)
    · exact State.accFaults_ok (State.spdFetch_ok hs)
    · exact hs
    · exact hs
    · exact hs

theorem State.writeGranule_ok {s : State} {g : Granule} {err : GranuleErr} {bs : List Byte} (hs : Ok cmds s) : Ok cmds (State.writeGranule s g err bs) := by
  unfold State.writeGranule
  split
  · split
    · exact hs
    · exact State.writeTier_ok hs
  · split
    · exact hs
    · exact State.writeTier_ok hs
  · exact State.accFaults_ok (State.countCe_ok (ok_mem hs (MemSys.shelfWrite_ok hs.mem)))
  · exact State.modCore_ok hs (fun _ hx => hx)
  · split
    · exact State.send_ok hs
    · exact hs
  · split
    · exact State.modDma_ok hs
    · exact hs
  · exact hs

theorem State.placeRecord_ok {s : State} {t n : Nat} {p : Part} (hs : Ok cmds s) : Ok cmds (State.placeRecord s t n p) := by
  unfold State.placeRecord
  repeat any_goals first
    | with_reducible assumption
    | with_reducible refine fun _ => ?_
    | ((try lift_lets); intro x; refine keep_let (P := Ok cmds x) ?_ (fun hx => ?_); rotate_left; clear_value x; rotate_right; unfold x; clear x)
    | ((try lift_lets); intro x; clear_value x)
    | with_reducible apply State.modCore_ok
    | with_reducible apply State.modRcv_ok
    | with_reducible apply SMap.wf_set
    | with_reducible apply SMap.wf_modify
    | with_reducible exact SMap.wf_nil _
    | split

theorem State.spillPart_ok {s : State} {t n : Nat} {p : Part} (hs : Ok cmds s) : Ok cmds (State.spillPart s t n p) := by
  have h : ∀ (l : List (Nat × List Byte)) (f : Nat → Nat), (l.foldl (fun (m : MemSys) (x : Nat × List Byte) => (m.shelfWrite (f x.1) x.2).1) s.mem).Canonical :=
    fun l f => foldl_keeps hs.mem (fun m x hm => MemSys.shelfWrite_ok hm)
  unfold State.spillPart
  exact State.modRcv_ok (ok_mem hs (h _ _))

theorem State.completePart_ok {s : State} {t : Nat} {f : Flit} (hs : Ok cmds s) : Ok cmds (State.completePart s t f) := by
  unfold State.completePart
  repeat any_goals first
    | with_reducible assumption
    | with_reducible refine fun _ => ?_
    | ((try lift_lets); intro x; refine keep_let (P := Ok cmds x) ?_ (fun hx => ?_); rotate_left; clear_value x; rotate_right; unfold x; clear x)
    | ((try lift_lets); intro (x : _ → _); unfold x; clear x; try beta_reduce)
    | ((try lift_lets); intro x; clear_value x)
    | with_reducible apply State.modTable_ok
    | with_reducible apply State.placeRecord_ok
    | with_reducible apply State.spillPart_ok
    | with_reducible apply State.table_ok
    | with_reducible apply SMap.wf_filter
    | split

theorem State.applyCredit_ok {s : State} {t n : Nat} {f : Flit} (hs : Ok cmds s) : Ok cmds (State.applyCredit s t n f) := by
  unfold State.applyCredit
  repeat any_goals first
    | with_reducible assumption
    | with_reducible refine fun _ => ?_
    | with_reducible apply State.modSnd_ok

theorem State.land_ok {s : State} {t : Nat} {f : Flit} (hs : Ok cmds s) : Ok cmds (State.land s t f) := by
  unfold State.land
  repeat any_goals first
    | with_reducible assumption
    | with_reducible refine fun _ => ?_
    | ((try lift_lets); intro x; refine keep_let (P := Ok cmds x) ?_ (fun hx => ?_); rotate_left; clear_value x; rotate_right; unfold x; clear x)
    | with_reducible apply State.applyCredit_ok
    | with_reducible apply State.completePart_ok
    | with_reducible apply State.modRcv_ok
    | with_reducible apply State.modTable_ok
    | with_reducible apply State.writeGranule_ok
    | split

theorem State.popFlit_ok {s : State} {q : Bool × Nat × Nat} (hs : Ok cmds s) : Ok cmds (State.popFlit s q) := by
  unfold State.popFlit
  repeat any_goals first
    | with_reducible assumption
    | ((try lift_lets); intro (x : Noc); dsimp only [x]; clear x)
    | (with_reducible refine ok_chanQ (by with_reducible assumption) ?_)
    | (with_reducible refine ok_queues (by with_reducible assumption) ?_)
    | with_reducible apply SMap.wf_modify
    | with_reducible exact SMap.wf_nil _
    | with_reducible apply Ok.noc
    | (with_reducible exact SParts.chanQ_ (by with_reducible assumption))
    | (with_reducible exact SParts.queues_ (by with_reducible assumption))
    | split

theorem State.freeSendBuf_ok {s : State} {r : Nat} {f : Flit} (hs : Ok cmds s) : Ok cmds (State.freeSendBuf s r f) := by
  unfold State.freeSendBuf
  repeat any_goals first
    | with_reducible assumption
    | with_reducible refine fun _ => ?_
    | ((try lift_lets); intro x; clear_value x)
    | with_reducible apply State.modCore_ok
    | split

theorem State.putLink_ok {s : State} {r i : Nat} {f : Flit} (hs : Ok cmds s) : Ok cmds (State.putLink s r i f) := by
  unfold State.putLink
  repeat any_goals first
    | with_reducible assumption
    | ((try lift_lets); intro (x : Noc); dsimp only [x]; clear x)
    | (with_reducible refine ok_links (by with_reducible assumption) ?_)
    | with_reducible apply SMap.wf_modify
    | with_reducible exact SMap.wf_nil _
    | with_reducible apply Ok.noc
    | (with_reducible exact SParts.links_ (by with_reducible assumption))

theorem State.forward_ok {s : State} {r o n planned : Nat} {f : Flit} (hs : Ok cmds s) : Ok cmds (State.forward s r o n planned f) := by
  unfold State.forward
  repeat any_goals first
    | with_reducible assumption
    | ((try lift_lets); intro (x : _ → _); unfold x; clear x; try beta_reduce)
    | ((try lift_lets); intro x; clear_value x)
    | with_reducible apply State.land_ok
    | with_reducible apply State.putLink_ok
    | split

theorem execFlitDepart_ok {router out : Nat} {s : State} (hs : Ok cmds s) : Keeps cmds (execFlitDepart router out s) := by
  unfold execFlitDepart
  repeat any_goals first
    | with_reducible assumption
    | ((try lift_lets); intro x; refine keep_let (P := Ok cmds x) ?_ (fun hx => ?_); rotate_left; clear_value x; rotate_right; unfold x; clear x)
    | ((try lift_lets); intro (x : Noc); dsimp only [x]; clear x)
    | ((try lift_lets); intro x; clear_value x)
    | with_reducible apply State.checkFeeder_ok
    | with_reducible apply State.checkFull_ok
    | with_reducible apply State.countUp_ok
    | with_reducible apply State.forward_ok
    | with_reducible apply State.freeSendBuf_ok
    | with_reducible apply State.popFlit_ok
    | with_reducible apply keeps_next
    | (with_reducible refine ok_sent (by with_reducible assumption) ?_)
    | with_reducible apply SMap.wf_set
    | with_reducible apply Ok.noc
    | (with_reducible exact SParts.sent_ (by with_reducible assumption))
    | split

theorem State.enterMesh_ok {s : State} {edge t n wait : Nat} {f : Flit} (hs : Ok cmds s) : Ok cmds (State.enterMesh s edge t n wait f) := by
  unfold State.enterMesh
  repeat any_goals first
    | with_reducible assumption
    | with_reducible refine fun _ => ?_
    | ((try lift_lets); intro x; clear_value x)
    | with_reducible apply State.putLink_ok

theorem State.tryHostMsg_ok {s : State} {m : HostMsg} (hs : Ok cmds s) : ∀ s', s.tryHostMsg m = some s' → Ok cmds s' := by
  intro s' h
  unfold State.tryHostMsg at h
  dsimp only at h
  split at h
  · cases h
  · cases h
    exact ok_foldl (ok_chans hs (SMap.wf_set _ _ hs.chans_)) (fun a f ha => State.enterMesh_ok ha)

theorem State.pumpHost_ok {s : State} (hs : Ok cmds s) : Ok cmds (State.pumpHost s) := by
  unfold State.pumpHost
  repeat any_goals first
    | with_reducible assumption
    | with_reducible refine fun _ => ?_
    | ((try lift_lets); intro x; refine keep_let (P := Ok cmds x.1) ?_ (fun hx => ?_); rotate_left; clear_value x; rotate_right; unfold x; clear x)
    | (with_reducible refine State.tryHostMsg_ok ?_ _ (by assumption))
    | with_reducible apply ok_foldl
    | with_reducible apply ok_foldl_fst
    | with_reducible apply ok_foldl_snd
    | with_reducible exact SMap.wf_nil _
    | split

theorem State.reachIo_ok {s : State} {f : Flit} (hs : Ok cmds s) : Ok cmds (State.reachIo s f) := by
  unfold State.reachIo
  repeat any_goals first
    | with_reducible assumption
    | with_reducible refine fun _ => ?_
    | ((try lift_lets); intro (x : HostPort); dsimp only [x]; clear x)
    | ((try lift_lets); intro x; clear_value x)
    | with_reducible apply Noc.discard_ok
    | with_reducible apply State.countPort_ok
    | with_reducible apply State.modPort_ok
    | with_reducible apply State.pumpHost_ok
    | (with_reducible refine ok_chans (by with_reducible assumption) ?_)
    | with_reducible apply SMap.wf_set
    | (with_reducible exact SParts.chans_ (by with_reducible assumption))
    | split

theorem execFlitArrive_ok {router inp : Nat} {s : State} (hs : Ok cmds s) : Keeps cmds (execFlitArrive router inp s) := by
  unfold execFlitArrive
  refine keeps_next ?_
  split
  · exact hs
  · split
    · exact hs
    · split
      · exact hs
      · have h1 : ∀ {r : List Flit}, Ok cmds { s with noc := { s.noc with links := SMap.set [] s.noc.links (linkKey router inp) r } } :=
          ok_links hs (SMap.wf_set _ _ hs.links_)
        dsimp only
        split
        · exact State.checkFull_ok (State.reachIo_ok h1)
        · exact State.checkFeeder_ok (ok_queues h1 (SMap.wf_modify _ _ hs.queues_))

theorem execPartRetire_ok {t rchn c : Nat} {s : State} (hs : Ok cmds s) : Keeps cmds (execPartRetire t rchn c s) := by
  unfold execPartRetire
  repeat any_goals first
    | with_reducible assumption
    | with_reducible refine fun _ => ?_
    | ((try lift_lets); intro x; clear_value x)
    | with_reducible apply State.core_ok
    | with_reducible apply State.modRcv_ok
    | with_reducible apply keeps_next
    | with_reducible exact SMap.wf_nil _
    | split

theorem State.unspill_ok {s : State} {t n c : Nat} (hs : Ok cmds s) : Ok cmds (State.unspill s t n c) := by
  unfold State.unspill
  repeat any_goals first
    | with_reducible assumption
    | with_reducible refine fun _ => ?_
    | ((try lift_lets); intro (x : HostPort); dsimp only [x]; clear x)
    | ((try lift_lets); intro (x : SMap _); unfold x; clear x)
    | with_reducible apply State.modSnd_ok
    | (with_reducible refine ok_chans (by with_reducible assumption) ?_)
    | with_reducible apply SMap.wf_modify
    | (with_reducible exact SParts.chans_ (by with_reducible assumption))
    | split

theorem State.readSpilled_ok {s : State} {t n lc : Nat} {p : Spilled} (hs : Ok cmds s) : Ok cmds (State.readSpilled s t n lc p).2 := by
  unfold State.readSpilled
  repeat any_goals first
    | with_reducible assumption
    | with_reducible refine fun _ => ?_
    | ((try lift_lets); intro x; clear_value x)
    | with_reducible apply State.accFaults_ok
    | with_reducible apply State.countCe_ok

theorem execSpillMove_ok {t rchn c : Nat} {s : State} (hs : Ok cmds s) : Keeps cmds (execSpillMove t rchn c s) := by
  unfold execSpillMove
  refine keeps_next ?_
  dsimp only
  split
  · split
    · exact State.unspill_ok (State.placeRecord_ok (State.modRcv_ok (State.modCore_ok (State.readSpilled_ok hs) (fun _ hx => hx))))
    · exact hs
  · exact hs

theorem execCreditReturn_ok {t rchn : Nat} {s : State} (hs : Ok cmds s) : Keeps cmds (execCreditReturn t rchn s) := by
  unfold execCreditReturn
  repeat any_goals first
    | with_reducible assumption
    | with_reducible refine fun _ => ?_
    | ((try lift_lets); intro (x : Noc); dsimp only [x]; clear x)
    | ((try lift_lets); intro x; clear_value x)
    | with_reducible apply State.checkFull_ok
    | with_reducible apply State.forward_ok
    | with_reducible apply State.modRcv_ok
    | with_reducible apply keeps_next
    | (with_reducible refine ok_sent (by with_reducible assumption) ?_)
    | with_reducible apply SMap.wf_set
    | with_reducible apply Ok.noc
    | (with_reducible exact SParts.sent_ (by with_reducible assumption))
    | split

theorem execDecoupledFill_ok {t c : Nat} {s : State} (hs : Ok cmds s) : Keeps cmds (execDecoupledFill t c s) := by
  unfold execDecoupledFill
  repeat any_goals first
    | with_reducible assumption
    | with_reducible refine fun _ => ?_
    | with_reducible apply State.modCore_ok
    | with_reducible apply keeps_next
    | split

theorem State.spendCredit_ok {s : State} {sh : ShaperId} (hs : Ok cmds s) : Ok cmds (State.spendCredit s sh) := by
  unfold State.spendCredit
  repeat any_goals first
    | with_reducible assumption
    | with_reducible refine fun _ => ?_
    | ((try lift_lets); intro (x : SMap _); unfold x; clear x)
    | ((try lift_lets); intro x; clear_value x)
    | with_reducible apply State.modDma_ok
    | with_reducible apply State.modTable_ok
    | with_reducible apply State.table_ok
    | (with_reducible refine tableOk_credit (by with_reducible assumption) ?_)
    | with_reducible apply SMap.wf_set
    | with_reducible exact SMap.wf_nil _
    | (with_reducible exact TParts.credit_ (by with_reducible assumption))
    | split

theorem State.askHost_ok {s : State} {g : Granule} (hs : Ok cmds s) : Ok cmds (State.askHost s g) := by
  unfold State.askHost
  repeat any_goals first
    | with_reducible assumption
    | with_reducible refine fun _ => ?_
    | with_reducible apply State.send_ok
    | split

theorem execShaperForward_ok {sh : ShaperId} {s : State} (hs : Ok cmds s) : Keeps cmds (execShaperForward sh s) := by
  have h1 : ∀ (i : Nat) (g : Option Granule), Ok cmds ((g.map ({ s.spendCredit sh with mem := { (s.spendCredit sh).mem with
      granules := (s.spendCredit sh).mem.granules.modify i (fun g => { g with forwarded := true }) } } : State).askHost).getD
        { s.spendCredit sh with mem := { (s.spendCredit sh).mem with
          granules := (s.spendCredit sh).mem.granules.modify i (fun g => { g with forwarded := true }) } }) := by
    intro i g
    have h := State.spendCredit_ok (sh := sh) hs
    cases g with
    | none => exact h
    | some g => exact State.askHost_ok h
  unfold execShaperForward
  refine keeps_next ?_
  cases sh <;>
  · dsimp only
    split
    · exact hs
    · split
      · exact hs
      · exact h1 _ _

theorem State.hostMsg_ok {s : State} {k : Nat} (hs : Ok cmds s) : Ok cmds (State.hostMsg s k) := by
  unfold State.hostMsg
  repeat any_goals first
    | with_reducible assumption
    | with_reducible refine fun _ => ?_
    | ((try lift_lets); intro x; clear_value x)
    | with_reducible apply State.modDma_ok
    | with_reducible apply State.send_ok
    | with_reducible exact SMap.wf_nil _
    | split

theorem State.endMsg_ok {s : State} {g : Granule} (hs : Ok cmds s) : Ok cmds (State.endMsg s g) := by
  unfold State.endMsg
  repeat any_goals first
    | with_reducible assumption
    | with_reducible refine fun _ => ?_
    | with_reducible apply State.hostMsg_ok
    | split

theorem State.enterDma_ok {s : State} {g : Granule} {a b rel : Nat} {bs : List Byte} (hs : Ok cmds s) : Ok cmds (State.enterDma s g a b rel bs) := by
  unfold State.enterDma
  repeat any_goals first
    | with_reducible assumption
    | ((try lift_lets); intro (x : Noc); dsimp only [x]; clear x)
    | ((try lift_lets); intro x; clear_value x)
    | (with_reducible refine ok_chanQ (by with_reducible assumption) ?_)
    | with_reducible apply SMap.wf_modify
    | with_reducible exact SMap.wf_nil _
    | with_reducible apply Ok.noc
    | (with_reducible exact SParts.chanQ_ (by with_reducible assumption))

theorem execGranuleRetire_ok {k : Nat} {err : GranuleErr} {data : List Byte} {s : State} (hs : Ok cmds s) : Keeps cmds (execGranuleRetire k err data s) := by
  unfold execGranuleRetire
  repeat any_goals first
    | with_reducible assumption
    | ((try lift_lets); intro (x : MemSys); dsimp only [x]; clear x)
    | with_reducible apply State.endMsg_ok
    | with_reducible apply State.enterDma_ok
    | with_reducible apply State.readGranule_ok
    | with_reducible apply State.takePorts_ok
    | with_reducible apply State.writeGranule_ok
    | with_reducible apply keeps_next
    | with_reducible exact SMap.wf_nil _
    | split

theorem execQueueEntryFull_ok {t c q : Nat} {s : State} (hs : Ok cmds s) : Keeps cmds (execQueueEntryFull t c q s) := by
  unfold execQueueEntryFull
  repeat any_goals first
    | with_reducible assumption
    | ((try lift_lets); intro x; clear_value x)
    | with_reducible apply State.endEntry_ok
    | with_reducible apply keeps_next
    | split

theorem execQueueEntryFree_ok {t c q : Nat} {s : State} (hs : Ok cmds s) : Keeps cmds (execQueueEntryFree t c q s) := by
  unfold execQueueEntryFree
  repeat any_goals first
    | with_reducible assumption
    | ((try lift_lets); intro x; clear_value x)
    | with_reducible apply State.endEntry_ok
    | with_reducible apply keeps_next
    | split

theorem execRefresh_ok {tier : Tier} {ctl : Nat} {s : State} (hs : Ok cmds s) : Keeps cmds (execRefresh tier ctl s) := by
  unfold execRefresh
  repeat any_goals first
    | with_reducible assumption
    | ((try lift_lets); intro (x : MemSys); dsimp only [x]; clear x)
    | ((try lift_lets); intro x; clear_value x)
    | with_reducible apply keeps_next
    | (with_reducible refine ok_refreshed (by with_reducible assumption) ?_)
    | with_reducible apply SMap.wf_set
    | (with_reducible exact SParts.refreshed_ (by with_reducible assumption))
    | split

theorem State.useSpare_ok {s : State} {stack chan : Nat} (hs : Ok cmds s) : Ok cmds (State.useSpare s stack chan) := by
  unfold State.useSpare
  repeat any_goals first
    | with_reducible assumption
    | with_reducible refine fun _ => ?_
    | ((try lift_lets); intro x; refine keep_let (P := Ok cmds x) ?_ (fun hx => ?_); rotate_left; clear_value x; rotate_right; unfold x; clear x)
    | ((try lift_lets); intro (x : MemSys); dsimp only [x]; clear x)
    | ((try lift_lets); intro x; clear_value x)
    | with_reducible apply State.modCsr_ok
    | (with_reducible refine ok_spares (by with_reducible assumption) ?_)
    | with_reducible apply SMap.wf_set
    | (with_reducible exact SParts.spares_ (by with_reducible assumption))

theorem execHbmSpare_ok {stack chan : Nat} {s : State} (hs : Ok cmds s) : Keeps cmds (execHbmSpare stack chan s) := by
  unfold execHbmSpare
  repeat any_goals first
    | with_reducible assumption
    | with_reducible refine fun _ => ?_
    | ((try lift_lets); intro (x : MemSys); dsimp only [x]; clear x)
    | ((try lift_lets); intro x; clear_value x)
    | with_reducible apply State.modCsr_ok
    | with_reducible apply State.nextCopy_ok
    | with_reducible apply State.raise_ok
    | with_reducible apply State.useSpare_ok
    | with_reducible apply keeps_next
    | split

theorem State.abortJobs_ok {s : State} {code : Nat} {p : Job → Bool} (hs : Ok cmds s) : Ok cmds (State.abortJobs s code p) := by
  unfold State.abortJobs
  repeat any_goals first
    | with_reducible assumption
    | with_reducible apply hp
    | with_reducible refine fun _ => ?_
    | with_reducible apply State.abortJob_ok
    | with_reducible apply ok_foldl
    | split

theorem execHbmLost_ok {stack chan : Nat} {s : State} (hs : Ok cmds s) : Keeps cmds (execHbmLost stack chan s) := by
  unfold execHbmLost
  repeat any_goals first
    | with_reducible assumption
    | with_reducible refine fun _ => ?_
    | ((try lift_lets); intro (x : MemSys); dsimp only [x]; clear x)
    | ((try lift_lets); intro (x : SMap _); unfold x; clear x)
    | ((try lift_lets); intro x; clear_value x)
    | with_reducible apply State.abortJobs_ok
    | with_reducible apply State.modCsr_ok
    | with_reducible apply State.nextCopy_ok
    | with_reducible apply State.raise_ok
    | with_reducible apply State.useSpare_ok
    | with_reducible apply keeps_next
    | (with_reducible refine ok_hbm_bad (by with_reducible assumption) ?_ ?_)
    | with_reducible apply SMap.wf_filter
    | (with_reducible exact SParts.hbm_ (by with_reducible assumption))
    | (with_reducible exact SParts.bad_ (by with_reducible assumption))
    | split

theorem execDdrLost_ok {chan : Nat} {s : State} (hs : Ok cmds s) : Keeps cmds (execDdrLost chan s) := by
  unfold execDdrLost
  repeat any_goals first
    | with_reducible assumption
    | with_reducible refine fun _ => ?_
    | ((try lift_lets); intro (x : MemSys); dsimp only [x]; clear x)
    | with_reducible apply State.abortJobs_ok
    | with_reducible apply State.raise_ok
    | with_reducible apply keeps_next
    | split

theorem State.fireTimer_ok {s : State} {blk n : Nat} (hs : Ok cmds s) : Ok cmds (State.fireTimer s blk n) := by
  unfold State.fireTimer
  repeat any_goals first
    | with_reducible assumption
    | with_reducible refine fun _ => ?_
    | ((try lift_lets); intro (x : MemSys); dsimp only [x]; clear x)
    | with_reducible apply State.takeFiring_ok
    | with_reducible apply ok_foldl
    | (with_reducible refine ok_firedNet (by with_reducible assumption) ?_)
    | with_reducible apply SMap.wf_set
    | with_reducible apply SMap.wf_foldl
    | (with_reducible exact SParts.firedNet_ (by with_reducible assumption))
    | split

theorem State.missTimer_ok {s : State} {blk n : Nat} (hs : Ok cmds s) : Ok cmds (State.missTimer s blk n) := by
  unfold State.missTimer
  repeat any_goals first
    | with_reducible assumption
    | with_reducible refine fun _ => ?_
    | ((try lift_lets); intro x; clear_value x)
    | with_reducible apply State.modDma_ok
    | with_reducible apply ok_foldl
    | split

theorem execDmaTimer_ok {die tmr : Nat} {s : State} (hs : Ok cmds s) : Keeps cmds (execDmaTimer die tmr s) := by
  have h1 : ∀ {n k : Nat}, Ok cmds { s with mem := { s.mem with fired := SMap.set 0 s.mem.fired k n } } :=
    ok_fired hs (SMap.wf_set _ _ hs.fired_)
  unfold execDmaTimer
  refine keeps_next ?_
  dsimp only
  split
  · exact hs
  · split
    · exact State.fireTimer_ok h1
    · split
      · exact State.missTimer_ok h1
      · exact State.modRegion_ok h1 (fun _ hx => hx)

theorem State.takeEntries_ok {s : State} {j : Nat} {d : Desc} (hs : Ok cmds s) : Ok cmds (State.takeEntries s j d) := by
  unfold State.takeEntries
  repeat any_goals first
    | with_reducible assumption
    | with_reducible refine fun _ => ?_
    | with_reducible apply State.qmove_ok
    | with_reducible apply ok_foldl
    | with_reducible apply ok_foldl_fst
    | with_reducible apply ok_foldl_snd
    | split

theorem State.doneEntries_ok {s : State} {j : Nat} {d : Desc} (hs : Ok cmds s) : Ok cmds (State.doneEntries s j d) := by
  unfold State.doneEntries
  repeat any_goals first
    | with_reducible assumption
    | with_reducible refine fun _ => ?_
    | ((try lift_lets); intro x; refine keep_let (P := Ok cmds x) ?_ (fun hx => ?_); rotate_left; clear_value x; rotate_right; unfold x; clear x)
    | with_reducible apply State.freeEntry_ok
    | with_reducible apply State.qmove_ok
    | with_reducible apply ok_foldl
    | with_reducible apply ok_foldl_fst
    | with_reducible apply ok_foldl_snd
    | split

theorem State.loadHead_ok {s : State} {blk ch n : Nat} (hs : Ok cmds s) : Ok cmds (State.loadHead s blk ch n) := by
  unfold State.loadHead
  repeat any_goals first
    | with_reducible assumption
    | with_reducible refine fun _ => ?_
    | ((try lift_lets); intro x; clear_value x)
    | with_reducible apply State.modDma_ok

theorem State.nextRep_ok {s : State} {blk ch : Nat} {d : Desc} (hs : Ok cmds s) : Ok cmds (State.nextRep s blk ch d) := by
  unfold State.nextRep
  repeat any_goals first
    | with_reducible assumption
    | with_reducible refine fun _ => ?_
    | ((try lift_lets); intro x; refine keep_let (P := Ok cmds x) ?_ (fun hx => ?_); rotate_left; clear_value x; rotate_right; unfold x; clear x)
    | ((try lift_lets); intro x; clear_value x)
    | with_reducible apply State.headEvent_ok
    | with_reducible apply State.loadHead_ok
    | with_reducible apply State.modDma_ok
    | split

theorem State.countCompletion_ok {s : State} {blk ch : Nat} (hs : Ok cmds s) : Ok cmds (State.countCompletion s blk ch) := by
  unfold State.countCompletion
  dsimp only
  split
  · exact State.dmaFault_ok (State.modDma_ok hs)
  · exact State.modDma_ok hs

theorem State.completeRep_ok {s : State} {blk ch j : Nat} {d : Desc} (hs : Ok cmds s) : Ok cmds (State.completeRep s blk ch j d) := by
  unfold State.completeRep
  repeat any_goals first
    | with_reducible assumption
    | ((try lift_lets); intro x; refine keep_let (P := Ok cmds x) ?_ (fun hx => ?_); rotate_left; clear_value x; rotate_right; unfold x; clear x)
    | with_reducible apply State.countCompletion_ok
    | with_reducible apply State.doneEntries_ok
    | with_reducible apply State.nextRep_ok
    | with_reducible apply State.signalNext_ok
    | split

theorem State.startEvent_ok {s : State} {blk ch j : Nat} {d : Desc} (hs : Ok cmds s) : ∀ s', s.startEvent blk ch j d = some s' → Ok cmds s' := by
  intro s' h
  unfold State.startEvent at h
  split at h
  · cases h; exact hs
  · obtain ⟨_, rfl⟩ := of_ite_some h
    exact hs
  · split at h
    · cases h
    · split at h
      · cases h
      · cases h; exact State.modDma_ok hs

theorem execDmaRepetitionStart_ok {blk ch : Nat} {s : State} (hs : Ok cmds s) : Keeps cmds (execDmaRepetitionStart blk ch s) := by
  unfold execDmaRepetitionStart
  repeat any_goals first
    | with_reducible assumption
    | with_reducible refine fun _ => ?_
    | ((try lift_lets); intro x; refine keep_let (P := Ok cmds x) ?_ (fun hx => ?_); rotate_left; clear_value x; rotate_right; unfold x; clear x)
    | ((try lift_lets); intro x; clear_value x)
    | with_reducible apply State.completeRep_ok
    | with_reducible apply State.dmaFault_ok
    | with_reducible apply State.hostMsg_ok
    | with_reducible apply State.modDma_ok
    | (with_reducible refine State.startEvent_ok ?_ _ (by assumption))
    | with_reducible apply State.takeEntries_ok
    | with_reducible apply keeps_next
    | split

theorem execDmaRepetitionComplete_ok {blk ch : Nat} {s : State} (hs : Ok cmds s) : Keeps cmds (execDmaRepetitionComplete blk ch s) := by
  unfold execDmaRepetitionComplete
  repeat any_goals first
    | with_reducible assumption
    | ((try lift_lets); intro x; clear_value x)
    | with_reducible apply State.completeRep_ok
    | with_reducible apply keeps_next
    | split

theorem State.unstart_ok {s : State} {blk ch j : Nat} {d : Desc} (hs : Ok cmds s) : Ok cmds (State.unstart s blk ch j d) := by
  unfold State.unstart
  repeat any_goals first
    | with_reducible assumption
    | with_reducible refine fun _ => ?_
    | ((try lift_lets); intro (x : MemSys); dsimp only [x]; clear x)
    | ((try lift_lets); intro x; clear_value x)
    | with_reducible apply State.modDma_ok
    | with_reducible apply State.qmove_ok
    | with_reducible apply ok_foldl
    | with_reducible apply ok_foldl_fst
    | with_reducible apply ok_foldl_snd
    | with_reducible apply SMap.wf_filter
    | with_reducible exact SMap.wf_nil _
    | split

theorem execStop_ok {blk ch : Nat} {s : State} (hs : Ok cmds s) : Keeps cmds (execStop blk ch s) := by
  unfold execStop
  repeat any_goals first
    | with_reducible assumption
    | ((try lift_lets); intro x; refine keep_let (P := Ok cmds x) ?_ (fun hx => ?_); rotate_left; clear_value x; rotate_right; unfold x; clear x)
    | ((try lift_lets); intro x; clear_value x)
    | with_reducible apply State.modDma_ok
    | with_reducible apply State.unstart_ok
    | with_reducible apply Table.stop_ok
    | with_reducible apply keeps_next
    | split

end Sys2Proof.Machine
end

