-- ==== Sys2Proof/Laws/CanonJob.lean ====
section
/-!
SUPPORT. Every operation of Machine/Install.lean, Machine/Context.lean, Machine/Frames.lean, Machine/Jobs.lean, Machine/HostPort.lean keeps the canonical form.
-/
namespace Sys2Proof.Machine

variable {cmds : List Instr}

theorem State.startCore_ok {s : State} {v : VarDecl} {j : Nat} {curve : SMap Word × SMap Word} {k : Nat} (hs : Ok cmds s) (hc : SMap.wf 0 curve.1 = true ∧ SMap.wf 0 curve.2 = true) : Ok cmds (State.startCore s v j curve k) := by
  unfold State.startCore
  refine ok_foldl ?_ (fun a q h => State.setQst_ok (State.setCsr_ok (State.setCsr_ok h)))
  exact ok_csr_cores hs (SMap.wf_clearRange _ _ hs.csr_)
    (each_set hs.cores_ k (coreOk_curve_curveHdr coreOk_reset hc.1 hc.2).canonical)

theorem State.setWindow_ok {s : State} {tier : Tier} {t base bound rate : Nat} (hs : Ok cmds s) : Ok cmds (State.setWindow s tier t base bound rate) := by
  unfold State.setWindow
  repeat any_goals first
    | with_reducible assumption
    | with_reducible apply State.setCsr64_ok
    | with_reducible apply State.setCsr_ok

theorem curveOf_ok {bs : List Byte} : SMap.wf 0 (curveOf bs).1 = true ∧ SMap.wf 0 (curveOf bs).2 = true := by
  unfold curveOf
  constructor
  · with_reducible exact SMap.wf_setAll _ (SMap.wf_nil _)
  · with_reducible exact SMap.wf_setAll _ (SMap.wf_nil _)

theorem wf_numbered {n k : Nat} (hk : n = 2 ^ k) (c : Nat) (vs : List Nat) :
    ∀ m, SMap.wf 0 (((vs.zipIdx m).filter (fun x => x.1 % n != 0)).map (fun x => (c + x.2, BitVec.ofNat k x.1))) = true := by
  induction vs with
  | nil => intro m; rfl
  | cons v vs ih =>
    intro m
    simp only [List.zipIdx_cons, List.filter_cons]
    split
    · next hv =>
      refine SMap.wf_cons.2 ⟨?_, ?_, ih (m + 1)⟩
      · intro h
        have h' := congrArg BitVec.toNat h
        rw [BitVec.toNat_ofNat, ← hk] at h'
        simp_all
      · intro x hx
        obtain ⟨y, hy, rfl⟩ := List.mem_map.1 hx
        have := (List.le_snd_of_mem_zipIdx (List.mem_of_mem_filter hy) : m + 1 ≤ y.2)
        dsimp only
        omega
    · exact ih (m + 1)

theorem Plan.table_ok {p : Plan} {n : Nat} : TableOk (p.table n) := by
  unfold Plan.table
  refine tableOk_prog_ctr_ctrInit_tout_htab tableOk_reset ?_ ?_ ?_ ?_ ?_
  · simpa [progOf] using wf_numbered (n := 65536) (k := 16) rfl 0 ((p.progs.drop n).headD []) 0
  · simpa [ctrsOf] using wf_numbered (n := 2 ^ 24) (k := 24) rfl 0 _ 0
  · simpa [ctrsOf] using wf_numbered (n := 2 ^ 24) (k := 24) rfl 0 _ 0
  · exact wf_numbered (n := 2 ^ 32) (k := 32) rfl 1 _ 0
  · exact wf_numbered (n := 2 ^ 32) (k := 32) rfl 0 _ 0

theorem State.clearTaskFaults_ok {s : State} {t : Nat} (hs : Ok cmds s) : Ok cmds (State.clearTaskFaults s t) := by
  unfold State.clearTaskFaults
  repeat any_goals first
    | with_reducible assumption
    | with_reducible apply State.setCsrs_ok

theorem State.startTable_ok {s : State} {p : Plan} {curve : SMap Word × SMap Word} {n : Nat} (hs : Ok cmds s) (hc : SMap.wf 0 curve.1 = true ∧ SMap.wf 0 curve.2 = true) : Ok cmds (State.startTable s p curve n) := by
  unfold State.startTable
  refine ok_foldl ?_ (fun a x h => State.startCore_ok h hc)
  refine State.setWindow_ok (State.setWindow_ok (State.setCsr_ok (State.setCsr_ok (State.setCsr_ok ?_))))
  have h1 := State.modTable_ok (f := fun _ => { p.table n with creditCyc := s.cyc ((p.tabs.drop n).headD 0) })
    (t := (p.tabs.drop n).headD 0) (State.clearTaskFaults_ok (t := (p.tabs.drop n).headD 0) hs) (fun _ _ => Plan.table_ok)
  exact ok_shelf_shelfErr h1 (SMap.wf_clearRange _ _ h1.shelf_) (SMap.wf_clearRange _ _ h1.shelfErr_)

theorem State.placeData_ok {s : State} {p : Plan} {r : DataRec} (hs : Ok cmds s) : Ok cmds (State.placeData s p r) := by
  unfold State.placeData
  repeat any_goals first
    | with_reducible assumption
    | with_reducible refine fun _ => ?_
    | ((try lift_lets); intro (x : MemSys); dsimp only [x]; clear x)
    | ((try lift_lets); intro x; clear_value x)
    | with_reducible apply State.core_ok
    | with_reducible apply State.modCore_ok
    | with_reducible apply ok_foldl
    | (with_reducible refine ok_hbm (by with_reducible assumption) ?_)
    | (with_reducible refine ok_ddr (by with_reducible assumption) ?_)
    | (with_reducible refine ok_shelf (by with_reducible assumption) ?_)
    | (with_reducible refine coreOk_spd (by with_reducible assumption) ?_)
    | with_reducible apply SMap.wf_store
    | with_reducible apply SMap.wf_foldl
    | (with_reducible exact SParts.hbm_ (by with_reducible assumption))
    | (with_reducible exact SParts.ddr_ (by with_reducible assumption))
    | (with_reducible exact SParts.shelf_ (by with_reducible assumption))
    | (with_reducible exact CParts.spd_ (by with_reducible assumption))
    | split

theorem State.sendEnd_ok {s : State} {p : Plan} {c : ChanDecl} (hs : Ok cmds s) : Ok cmds (State.sendEnd s p c) := by
  unfold State.sendEnd
  repeat any_goals first
    | with_reducible assumption
    | with_reducible refine fun _ => ?_
    | ((try lift_lets); intro x; refine keep_let (P := Ok cmds x) ?_ (fun hx => ?_); rotate_left; clear_value x; rotate_right; unfold x; clear x)
    | ((try lift_lets); intro x; clear_value x)
    | with_reducible apply State.modSnd_ok
    | split

theorem State.hostEnd_ok {s : State} {p : Plan} {c : ChanDecl} (hs : Ok cmds s) : Ok cmds (State.hostEnd s p c) := by
  unfold State.hostEnd
  repeat any_goals first
    | with_reducible assumption
    | ((try lift_lets); intro (x : HostPort); dsimp only [x]; clear x)
    | ((try lift_lets); intro x; clear_value x)
    | (with_reducible refine ok_chans (by with_reducible assumption) ?_)
    | with_reducible apply SMap.wf_set
    | (with_reducible exact SParts.chans_ (by with_reducible assumption))

theorem State.receiveEnd_ok {s : State} {p : Plan} {c : ChanDecl} (hs : Ok cmds s) : Ok cmds (State.receiveEnd s p c) := by
  unfold State.receiveEnd
  repeat any_goals first
    | with_reducible assumption
    | with_reducible refine fun _ => ?_
    | ((try lift_lets); intro x; clear_value x)
    | with_reducible apply Plan.table_ok
    | with_reducible apply State.modRcv_ok

theorem State.placeChannel_ok {s : State} {p : Plan} {c : ChanDecl} (hs : Ok cmds s) : Ok cmds (State.placeChannel s p c) := by
  unfold State.placeChannel
  repeat any_goals first
    | with_reducible assumption
    | ((try lift_lets); intro x; refine keep_let (P := Ok cmds x) ?_ (fun hx => ?_); rotate_left; clear_value x; rotate_right; unfold x; clear x)
    | with_reducible apply State.hostEnd_ok
    | with_reducible apply State.receiveEnd_ok
    | with_reducible apply State.sendEnd_ok
    | split

theorem State.placeDesc_ok {s : State} {p : Plan} {x : Nat × Nat × Nat} (hs : Ok cmds s) : Ok cmds (State.placeDesc s p x) := by
  unfold State.placeDesc
  repeat any_goals first
    | with_reducible assumption
    | ((try lift_lets); intro x; clear_value x)
    | (with_reducible refine ok_descs (by with_reducible assumption) ?_)
    | with_reducible apply SMap.wf_set
    | (with_reducible exact SParts.descs_ (by with_reducible assumption))

theorem State.placeDma_ok {s : State} {p : Plan} {d : DmaDecl} {at_ : Nat × Nat} (hs : Ok cmds s) : Ok cmds (State.placeDma s p d at_) := by
  unfold State.placeDma
  repeat any_goals first
    | with_reducible assumption
    | with_reducible refine fun _ => ?_
    | ((try lift_lets); intro x; refine keep_let (P := Ok cmds x) ?_ (fun hx => ?_); rotate_left; clear_value x; rotate_right; unfold x; clear x)
    | ((try lift_lets); intro x; clear_value x)
    | with_reducible apply State.loadHead_ok
    | with_reducible apply State.modDma_ok

theorem State.drawSeeds_ok {s : State} {img : Image} {b : SubmitBody} (hs : Ok cmds s) : Ok cmds (State.drawSeeds s img b).2 := by
  unfold State.drawSeeds
  repeat any_goals first
    | with_reducible assumption
    | with_reducible refine fun _ => ?_
    | ((try lift_lets); intro x; refine keep_let (P := Ok cmds x) ?_ (fun hx => ?_); rotate_left; clear_value x; rotate_right; unfold x; clear x)
    | with_reducible apply ok_foldl
    | with_reducible apply ok_foldl_fst
    | with_reducible apply ok_foldl_snd
    | with_reducible exact SMap.wf_nil _
    | split

theorem MemSys.zeroTier_ok {m : MemSys} {tier : Tier} {lo hi : Nat} (hm : m.Canonical) : (m.zeroTier tier lo hi).Canonical := by
  cases tier
  · exact { hm with hbm := SMap.wf_clearRange _ _ hm.hbm, bad := SMap.wf_filter _ hm.bad }
  · exact { hm with ddr := SMap.wf_clearRange _ _ hm.ddr, bad := SMap.wf_filter _ hm.bad }

theorem State.placeCode_ok {s : State} {p : Plan} (hs : Ok cmds s) : Ok cmds (State.placeCode s p) := by
  unfold State.placeCode
  repeat any_goals first
    | with_reducible assumption
    | with_reducible refine fun _ => ?_
    | ((try lift_lets); intro (x : MemSys); dsimp only [x]; clear x)
    | with_reducible apply ok_foldl
    | with_reducible apply ok_foldl_fst
    | with_reducible apply ok_foldl_snd
    | (with_reducible refine ok_hbm (by with_reducible assumption) ?_)
    | with_reducible apply SMap.wf_store
    | with_reducible apply SMap.wf_foldl
    | (with_reducible exact SParts.hbm_ (by with_reducible assumption))
    | split

theorem State.openQp_ok {s : State} {j : Nat} {b : SubmitBody} (hs : Ok cmds s) : Ok cmds (State.openQp s j b) := by
  unfold State.openQp
  repeat any_goals first
    | with_reducible assumption
    | with_reducible refine fun _ => ?_
    | ((try lift_lets); intro x; clear_value x)
    | with_reducible apply State.modQp_ok

theorem State.install_ok {s : State} {b : SubmitBody} {bytes : List Byte} {p : Plan} {readm : Option Nat} (hs : Ok cmds s) : Ok cmds (State.install s b bytes p readm) := by
  unfold State.install
  have hc : ∀ (s : State), Ok cmds s → SMap.wf 0 (s.curveInEffect p.img).1 = true ∧ SMap.wf 0 (s.curveInEffect p.img).2 = true := by
    intro s hs
    unfold State.curveInEffect
    split
    · exact curveOf_ok
    · exact ⟨hs.recCurve_, hs.recHdr_⟩
  refine State.openQp_ok ?_
  have h1 : ∀ {x : State}, Ok cmds x → Ok cmds { x with
      noc := { x.noc with slots := SMap.setAll 0 x.noc.slots p.slots }
      fslots := SMap.setAll 0 x.fslots p.cells
      hctr := SMap.clearRange x.hctr (64 * p.job) (64 * p.job + 64) } := fun h =>
    ok_fslots_slots_hctr h (SMap.wf_setAll _ h.fslots_) (SMap.wf_setAll _ h.slots_) (SMap.wf_clearRange _ _ h.hctr_)
  have h2 : Ok cmds { s with adm := { s.adm with count := s.adm.count + 1 } } := hs
  have h3 := ok_jobs h2 (SMap.wf_set p.job (some (State.newJob { s with adm := { s.adm with count := s.adm.count + 1 } } p b bytes readm)) h2.jobs_)
  have h4 := State.placeCode_ok (p := p) (ok_mem h3 (MemSys.zeroTier_ok (tier := .ddr) (lo := p.ddr) (hi := p.ddr + 4096 * p.v.res.ddr)
    (MemSys.zeroTier_ok (tier := .hbm) (lo := p.ctx) (hi := p.ctx + contextSize p.img p.v)
      (MemSys.zeroTier_ok (tier := .hbm) (lo := p.hbm) (hi := p.hbm + 4096 * p.v.res.hbm) h3.mem))))
  refine h1 (ok_foldl (ok_foldl (ok_foldl (ok_foldl ?_ ?_) (fun a c h => State.placeChannel_ok h)) (fun a x h => State.placeDesc_ok h))
    (fun a x h => State.placeDma_ok h))
  · exact State.drawSeeds_ok (ok_foldl (ok_foldl h4 (fun a n h => State.startTable_ok h (hc _ h4))) (fun a r h => State.placeData_ok h))
  · exact fun a t h => State.modTable_ok h (fun x hx => tableOk_seeds hx (SMap.wf_setAll _ (SMap.wf_nil _)))

/-- Every write of an array keeps the canonical form. -/
def Arr.Keeps (a : Arr) : Prop := ∀ (cmds : List Instr) (i v : Nat) (s : State), Ok cmds s → Ok cmds (a.put i v s)

theorem Arr.restore_ok {a : Arr} {s : State} {bs : List Byte} (ha : a.Keeps) (hs : Ok cmds s) : Ok cmds (a.restore s bs) :=
  ok_foldl hs (fun _ _ h => ha _ _ _ _ h)

theorem restoreArrs_ok {as : List Arr} {s : State} {bs : List Byte} (ha : ∀ a ∈ as, a.Keeps) (hs : Ok cmds s) : Ok cmds (restoreArrs as s bs).1 := by
  unfold restoreArrs
  induction as generalizing s bs with
  | nil => exact hs
  | cons a as ih => exact ih (fun x hx => ha x (by simp [hx])) (Arr.restore_ok (ha a (by simp)) hs)

theorem coreWords_keeps {k n : Nat} {sel : Core → SMap Word} {upd : Core → SMap Word → Core}
    (h : ∀ c m, CoreOk c → (SMap.wf 0 (sel c) = true → SMap.wf 0 m = true) → CoreOk (upd c m)) : (coreWords k n sel upd).Keeps :=
  fun _ _ _ _ hs => State.modCore_ok hs (fun c hc => h c _ hc (SMap.wf_set _ _))

theorem coreBytes_keeps {k n : Nat} {d : Byte} {sel : Core → SMap Byte} {upd : Core → SMap Byte → Core}
    (h : ∀ c m, CoreOk c → (SMap.wf d (sel c) = true → SMap.wf d m = true) → CoreOk (upd c m)) : (coreBytes k n d sel upd).Keeps :=
  fun _ _ _ _ hs => State.modCore_ok hs (fun c hc => h c _ hc (SMap.wf_set _ _))

theorem coreNat_keeps {k w : Nat} {sel : Core → Nat} {upd : Core → Nat → Core} (h : ∀ c v, CoreOk c → CoreOk (upd c v)) :
    (coreNat k w sel upd).Keeps := fun _ _ _ _ hs => State.modCore_ok hs (fun c hc => h c _ hc)

theorem tableNat_keeps {t w : Nat} {sel : Table → Nat} {upd : Table → Nat → Table} (h : ∀ b v, TableOk b → TableOk (upd b v)) :
    (tableNat t w sel upd).Keeps := fun _ _ _ _ hs => State.modTable_ok hs (fun c hc => h c _ hc)

theorem regWords_keeps {a n : Nat} : (regWords a n).Keeps := fun _ _ _ _ hs => State.setCsr_ok hs

theorem coreArrs_keeps {k win : Nat} : ∀ a ∈ coreArrs k win, a.Keeps := by
  intro a ha
  simp only [coreArrs, List.mem_cons, List.not_mem_nil, or_false] at ha
  rcases ha with rfl | rfl | rfl | rfl | rfl | rfl | rfl | rfl | rfl | rfl | rfl | rfl | rfl | rfl | rfl | rfl | rfl | rfl | rfl | rfl |
    rfl | rfl
  · exact coreWords_keeps (fun c m hc hm => coreOk_sreg hc (hm hc.sreg_))
  · exact coreNat_keeps (fun _ _ hc => hc)
  · exact coreWords_keeps (fun c m hc hm => coreOk_vreg hc (hm hc.vreg_))
  · exact fun _ _ _ _ hs => State.modCore_ok hs (fun c hc => coreOk_accM_accV hc (SMap.wf_set _ _ hc.accM_) (SMap.wf_set _ _ hc.accV_))
  · exact coreWords_keeps (fun c m hc hm => coreOk_cfgM hc (hm hc.cfgM_))
  · exact regWords_keeps
  · exact coreBytes_keeps (fun c m hc hm => coreOk_hold hc (hm hc.hold_))
  · exact coreBytes_keeps (fun c m hc hm => coreOk_scale hc (hm hc.scale_))
  · exact regWords_keeps
  · exact coreNat_keeps (fun _ _ hc => hc)
  · exact coreNat_keeps (fun _ _ hc => hc)
  · exact coreNat_keeps (fun _ _ hc => hc)
  · exact coreNat_keeps (fun _ _ hc => hc)
  · exact fun _ _ _ _ hs => State.modCore_ok hs (fun c hc => coreOk_fifo hc (SMap.wf_set _ _ hc.fifo_))
  · refine coreNat_keeps (fun c v hc => ?_)
    have : ∀ w, CoreOk { c with streamer := { c.streamer with operand := w } } := fun _ => hc
    exact this _
  · exact coreNat_keeps (fun _ _ hc => hc)
  · exact fun _ _ _ _ hs => State.modCore_ok hs (fun c hc => coreOk_tk hc (SMap.wf_modify _ _ hc.tk_))
  · exact fun _ _ _ _ hs => State.modCore_ok hs (fun c hc => coreOk_codebook hc (SMap.wf_set _ _ hc.codebook_))
  · exact coreWords_keeps (fun c m hc hm => coreOk_curve hc (hm hc.curve_))
  · exact coreWords_keeps (fun c m hc hm => coreOk_curveHdr hc (hm hc.curveHdr_))
  · exact coreWords_keeps (fun c m hc hm => coreOk_outReg hc (hm hc.outReg_))
  · exact coreBytes_keeps (fun c m hc hm => coreOk_spd hc (hm hc.spd_))

theorem ctrArrs_keeps {t : Nat} : ∀ a ∈ ctrArrs t, a.Keeps := by
  intro a ha
  simp only [ctrArrs, List.mem_cons, List.not_mem_nil, or_false] at ha
  rcases ha with rfl | rfl | rfl <;> intro _ i v s hs
  · exact State.modTable_ok hs (fun b hb => tableOk_ctr hb (SMap.wf_set _ _ hb.ctr_))
  · exact State.modTable_ok hs (fun b hb => tableOk_ctrInit hb (SMap.wf_set _ _ hb.ctrInit_))
  · exact State.modTable_ok hs (fun b hb => tableOk_tout hb (SMap.wf_set _ _ hb.tout_))

theorem dealerArrs_keeps {t : Nat} : ∀ a ∈ dealerArrs t, a.Keeps := by
  intro a ha
  simp only [dealerArrs, List.mem_cons, List.not_mem_nil, or_false] at ha
  rcases ha with rfl | rfl | rfl | rfl | rfl | rfl | rfl | rfl | rfl | rfl | rfl | rfl | rfl | rfl | rfl | rfl <;>
    first
    | exact fun _ _ _ _ hs => State.modTable_ok hs (fun _ hb => hb)
    | exact fun _ _ _ _ hs => ok_latch hs (SMap.wf_set _ _ hs.latch_)

theorem hostChanArrs_keeps {t : Nat} : ∀ a ∈ hostChanArrs t, a.Keeps := by
  intro a ha
  simp only [hostChanArrs, List.mem_cons, List.not_mem_nil, or_false] at ha
  rcases ha with rfl | rfl | rfl | rfl <;> intro _ i v s hs <;> dsimp only <;> split <;>
    first
    | exact hs
    | exact ok_chans hs (SMap.wf_modify _ _ hs.chans_)

theorem dmaArrs_keeps {s : State} {j n : Nat} {v : VarDecl} {m : List (Nat × Nat × Nat)} : ∀ a ∈ dmaArrs s j n v m, a.Keeps := by
  intro a ha
  obtain ⟨k, _, ha⟩ := List.mem_flatMap.1 ha
  simp only [List.mem_cons, List.not_mem_nil, or_false] at ha
  rcases ha with rfl | rfl | rfl | rfl | rfl | rfl | rfl | rfl <;> exact fun _ _ _ _ hs => State.modDma_ok hs

theorem chanArrs_keeps {t : Nat} : ∀ a ∈ chanArrs t, a.Keeps := by
  intro a ha
  simp only [chanArrs, List.mem_cons, List.not_mem_nil, or_false] at ha
  rcases ha with rfl | rfl | rfl | rfl | rfl | rfl | rfl | rfl
  · exact fun _ _ _ _ hs => State.modSnd_ok hs
  · exact fun _ _ _ _ hs => State.modSnd_ok hs
  · exact fun _ _ _ _ hs => State.modSnd_ok hs
  · exact fun _ _ _ _ hs => State.modSnd_ok hs
  · exact fun _ _ _ _ hs => State.modSnd_ok hs
  · exact fun _ _ _ _ hs => State.modRcv_ok hs
  · exact fun _ _ _ _ hs => State.modRcv_ok hs
  · exact fun _ _ _ _ hs => State.modRcv_ok hs

theorem State.tableArrs_keeps {s : State} {j n : Nat} {v : VarDecl} {b : Job} : ∀ a ∈ s.tableArrs j n v b, a.Keeps := by
  intro a ha
  simp only [State.tableArrs, List.mem_append, List.mem_singleton] at ha
  rcases ha with (((((ha | ha) | ha) | ha) | ha) | rfl) | ha
  · exact dealerArrs_keeps a ha
  · exact ctrArrs_keeps a ha
  · exact dmaArrs_keeps a ha
  · exact chanArrs_keeps a ha
  · exact hostChanArrs_keeps a ha
  · exact fun _ _ _ _ hs => ok_shelf hs (SMap.wf_set _ _ hs.shelf_)
  · obtain ⟨x, _, ha⟩ := List.mem_flatMap.1 ha
    exact coreArrs_keeps a ha

theorem jobArrs_keeps {j t0 : Nat} : ∀ a ∈ jobArrs j t0, a.Keeps := by
  intro a ha
  simp only [jobArrs, List.mem_cons, List.not_mem_nil, or_false] at ha
  rcases ha with rfl | rfl | rfl | rfl | rfl
  · exact fun _ _ _ _ hs => State.setHostCounter_ok hs
  · exact tableNat_keeps (fun _ _ hb => hb)
  · exact fun _ _ _ _ hs => State.modJob_ok hs
  · exact fun _ _ _ _ hs => State.modJob_ok hs
  · exact fun _ _ _ _ hs => State.modJob_ok hs

theorem liveArrs_keeps {hbm ddr : Nat} {tr : Option TrickDecl} : ∀ a ∈ liveArrs hbm ddr tr, a.Keeps := by
  intro a ha
  obtain ⟨r, _, rfl⟩ := List.mem_map.1 ha
  intro _ i v s hs
  split
  · exact ok_ddr hs (SMap.wf_set _ _ hs.ddr_)
  · exact ok_hbm hs (SMap.wf_set _ _ hs.hbm_)

theorem tkPut_ok {c : Core} {i v : Nat} (hc : CoreOk c) : CoreOk (tkPut c i v) := by
  unfold tkPut
  repeat any_goals first
    | with_reducible assumption
    | with_reducible refine fun _ => ?_
    | (with_reducible refine coreOk_tk (by with_reducible assumption) ?_)
    | with_reducible apply SMap.wf_modify
    | with_reducible exact SMap.wf_nil _
    | (with_reducible exact CParts.tk_ (by with_reducible assumption))

theorem State.setPieceMem_ok {s : State} {b : Job} {p : PieceDecl} {m : SMap Byte} (hs : Ok cmds s) (hm : SMap.wf 0 m = true) : Ok cmds (State.setPieceMem s b p m) := by
  unfold State.setPieceMem
  repeat any_goals first
    | with_reducible assumption
    | with_reducible refine fun _ => ?_
    | ((try lift_lets); intro (x : MemSys); dsimp only [x]; clear x)
    | ((try lift_lets); intro x; clear_value x)
    | with_reducible apply State.core_ok
    | with_reducible apply State.modCore_ok
    | (with_reducible refine ok_hbm (by with_reducible assumption) ?_)
    | (with_reducible refine ok_ddr (by with_reducible assumption) ?_)
    | (with_reducible refine ok_shelf (by with_reducible assumption) ?_)
    | (with_reducible refine coreOk_spd (by with_reducible assumption) ?_)
    | (with_reducible exact SParts.hbm_ (by with_reducible assumption))
    | (with_reducible exact SParts.ddr_ (by with_reducible assumption))
    | (with_reducible exact SParts.shelf_ (by with_reducible assumption))
    | (with_reducible exact CParts.spd_ (by with_reducible assumption))
    | split

theorem State.putTensor_ok {s : State} {b : Job} {t : TensorDecl} {v : Nat} (hs : Ok cmds s) : Ok cmds (State.putTensor s b t v) := by
  have hm : ∀ {a : State} {p : PieceDecl}, Ok cmds a → SMap.wf 0 (a.pieceMem b p).1 = true := by
    intro a p h
    unfold State.pieceMem
    dsimp only
    split
    · exact h.hbm_
    · exact h.ddr_
    · exact h.shelf_
    · cases a.physCore ((b.tables.drop p.jt).headD 0) p.core with
      | none => exact SMap.wf_nil _
      | some c => exact (State.core_ok h).spd_
  unfold State.putTensor
  refine ok_foldl hs (fun a p h => ?_)
  have h1 := ok_foldl h (fun a i h => State.setPieceMem_ok h (SMap.wf_store _ _ (hm h))) (l := List.range p.n) (f := fun acc i =>
    acc.setPieceMem b p (putBitsAt (acc.pieceMem b p).1 (8 * (acc.pieceMem b p).2 + p.bit t.ebits (p.e0 + i)) t.ebits (v >>> (t.ebits * (p.e0 + i)))))
  dsimp only
  split
  · exact h1
  · exact State.setPieceMem_ok h1 (SMap.wf_store _ _ (hm h1))

theorem State.takeFrees_ok {s : State} {n : Nat} (hs : Ok cmds s) : Ok cmds (State.takeFrees s n).2 := by
  unfold State.takeFrees
  repeat any_goals first
    | with_reducible assumption

theorem State.sealContext_ok {s : State} {j : Nat} {b : Job} {v : VarDecl} {repart detach : Bool} (hs : Ok cmds s) : Ok cmds (State.sealContext s j b v repart detach).2 := by
  unfold State.sealContext
  repeat any_goals first
    | with_reducible assumption
    | with_reducible refine fun _ => ?_
    | ((try lift_lets); intro x; refine keep_let (P := Ok cmds x.2) ?_ (fun hx => ?_); rotate_left; clear_value x; rotate_right; unfold x; clear x)
    | with_reducible apply Plan.table_ok
    | with_reducible apply State.table_ok
    | with_reducible apply State.takeFrees_ok

theorem Table.toResume_ok {t : Table} (ht : TableOk t) : TableOk (Table.toResume t) := by
  unfold Table.toResume
  repeat any_goals first
    | with_reducible assumption

theorem Table.toEntry_ok {t : Table} {entry tcc occ : Nat} (ht : TableOk t) : TableOk (Table.toEntry t entry tcc occ) := by
  unfold Table.toEntry
  repeat any_goals first
    | with_reducible assumption

theorem State.restoreContext_ok {s : State} {p : Plan} {r : Resumed} (hs : Ok cmds s) : Ok cmds (State.restoreContext s p r) := by
  unfold State.restoreContext
  split
  · exact hs
  · rename_i b hb
    dsimp only
    have h1 : Ok cmds (restoreArrs (jobArrs p.job (p.tabs.headD 0)) (p.tabs.foldl (fun acc t => acc.modTable t (fun x =>
        { x with seeds := SMap.setAll 0 [] (r.seeds.zipIdx.map (fun x => (x.2, x.1))) })) s) r.body).1 :=
      restoreArrs_ok jobArrs_keeps (ok_foldl hs (fun a t h => State.modTable_ok h (fun x hx =>
        tableOk_seeds hx (SMap.wf_setAll _ (SMap.wf_nil _)))))
    split
    · refine ok_foldl (ok_foldl ?_ (fun a x h => State.putTensor_ok h)) (fun a x h => State.modTable_ok h (fun _ hx => hx))
      have h2 : ∀ {s : State} {bs : List Byte}, Ok cmds s → Ok cmds (if r.key = p.v.key then
          p.tabs.foldl (fun acc t => restoreArrs (ctrArrs t) acc.1 acc.2) (s, bs) else (s, bs.drop (ctrPartSize * r.key.t))).1 := by
        intro s bs h
        split
        · exact ok_foldl_fst h (fun a t h => restoreArrs_ok ctrArrs_keeps h)
        · exact h
      have h3 : ∀ {c : Prop} [Decidable c] {x y : State}, Ok cmds x → Ok cmds y → Ok cmds (if c then x else y) := fun hx hy => by split; exacts [hx, hy]
      exact h3 (restoreArrs_ok liveArrs_keeps (h2 h1)) (h2 h1)
    · refine ok_foldl ?_ (fun a t h => State.modTable_ok h (fun _ hx => hx))
      have h2 := ok_foldl_fst h1 (fun a n h => restoreArrs_ok State.tableArrs_keeps h) (l := List.range p.v.key.t)
        (f := fun acc n => restoreArrs (acc.1.tableArrs p.job n p.v b) acc.1 acc.2) (a := (_, r.body.drop 512))
      split
      · exact h2
      · exact restoreArrs_ok liveArrs_keeps h2

theorem State.refuse_ok {s : State} {typ : BitVec 8} {f : HostFrame} {code : BitVec 16} (hs : Ok cmds s) : Ok cmds (State.refuse s typ f code) := by
  unfold State.refuse
  repeat any_goals first
    | with_reducible assumption
    | with_reducible apply State.answer_ok

theorem State.silent_ok {s : State} {typ : BitVec 8} {f : HostFrame} (hs : Ok cmds s) : Ok cmds (State.silent s typ f) := by
  unfold State.silent
  repeat any_goals first
    | with_reducible assumption
    | with_reducible apply State.settle_ok

theorem State.dropPackets_ok {s : State} {k : Nat} (hs : Ok cmds s) : Ok cmds (State.dropPackets s k) := by
  unfold State.dropPackets
  repeat any_goals first
    | with_reducible assumption
    | ((try lift_lets); intro (x : HostPort); dsimp only [x]; clear x)
    | with_reducible apply State.mark_ok

theorem State.takeFrame_ok {s : State} {typ : BitVec 8} {lead : Nat} {f : HostFrame} {act : State → State} (hs : Ok cmds s) (hact : ∀ x, Ok cmds x → Ok cmds (act x)) : Ok cmds (State.takeFrame s typ lead f act) := by
  unfold State.takeFrame
  repeat any_goals first
    | with_reducible assumption
    | with_reducible apply hact
    | ((try lift_lets); intro x; refine keep_let (P := Ok cmds x) ?_ (fun hx => ?_); rotate_left; clear_value x; rotate_right; unfold x; clear x)
    | ((try lift_lets); intro x; clear_value x)
    | with_reducible apply State.expect_ok
    | with_reducible apply State.refuse_ok
    | split

theorem State.arrived_ok {s : State} {qpn : BitVec 24} {n : Nat} {act : State → State} (hs : Ok cmds s) (hact : ∀ x, Ok cmds x → Ok cmds (act x)) : Ok cmds (State.arrived s qpn n act) := by
  unfold State.arrived
  repeat any_goals first
    | with_reducible assumption
    | with_reducible apply hact
    | with_reducible apply State.dropPackets_ok
    | split

theorem State.keepFrame_ok {s : State} {i : Instr} {qpn : BitVec 24} (hs : Ok cmds s) : Ok cmds (State.keepFrame s i qpn) := by
  unfold State.keepFrame
  repeat any_goals first
    | with_reducible assumption
    | ((try lift_lets); intro (x : HostPort); dsimp only [x]; clear x)
    | with_reducible apply State.send_ok
    | split

theorem State.hostFrame_ok {s : State} {i : Instr} {typ : BitVec 8} {lead : Nat} {f : HostFrame} {act : State → State} (hs : Ok cmds s) (hact : ∀ x, Ok cmds x → Ok cmds (act x)) : Ok cmds (State.hostFrame s i typ lead f act) := by
  unfold State.hostFrame
  repeat any_goals first
    | with_reducible assumption
    | with_reducible apply hact
    | with_reducible refine fun _ => ?_
    | with_reducible apply State.arrived_ok
    | with_reducible apply State.keepFrame_ok
    | with_reducible apply State.takeFrame_ok
    | split

theorem State.forJob_ok {s : State} {typ : BitVec 8} {f : HostFrame} {layout : Bool} {act : Nat → Job → State} (hs : Ok cmds s) (hact : ∀ a0 a1, Ok cmds (act a0 a1)) : Ok cmds (State.forJob s typ f layout act) := by
  unfold State.forJob
  split
  · exact State.refuse_ok hs
  · split
    · exact State.refuse_ok hs
    · exact hact _ _

theorem execUnknownType_ok {typ : BitVec 8} {f : HostFrame} {s : State} (hs : Ok cmds s) : Keeps cmds (execUnknownType typ f s) := by
  unfold execUnknownType
  refine keeps_next ?_
  split
  · split
    · exact hs
    · exact State.hostFrame_ok hs (fun _ h => State.refuse_ok h)
  · split
    · exact hs
    · exact State.hostFrame_ok hs (fun _ h => h)

theorem State.refuseSubmit_ok {s : State} {b : SubmitBody} {code : BitVec 16} (hs : Ok cmds s) : Ok cmds (State.refuseSubmit s b code) := by
  unfold State.refuseSubmit
  repeat any_goals first
    | with_reducible assumption
    | with_reducible apply State.answer_ok

theorem State.takeNext_ok {s : State} {ws : List SubmitBody} (hs : Ok cmds s) : Ok cmds (State.takeNext s ws) := by
  induction ws generalizing s with
  | nil => exact hs
  | cons b rest ih =>
    unfold State.takeNext
    split
    · exact ih (State.refuseSubmit_ok hs)
    · split
      · exact ih (State.refuseSubmit_ok hs)
      · exact State.send_ok (s := { s with adm := _ }) hs

theorem State.lead_ok {s : State} {h : Bool} (hs : Ok cmds s) : Ok cmds (State.lead s h) := by
  unfold State.lead
  repeat any_goals first
    | with_reducible assumption

theorem State.passLease_ok {s : State} (hs : Ok cmds s) : Ok cmds (State.passLease s) := by
  unfold State.passLease
  repeat any_goals first
    | with_reducible assumption
    | with_reducible apply State.lead_ok
    | split

theorem State.startNext_ok {s : State} (hs : Ok cmds s) : Ok cmds (State.startNext s) := by
  unfold State.startNext
  repeat any_goals first
    | with_reducible assumption
    | ((try lift_lets); intro x; refine keep_let (P := Ok cmds x) ?_ (fun hx => ?_); rotate_left; clear_value x; rotate_right; unfold x; clear x)
    | with_reducible apply State.passLease_ok
    | with_reducible apply State.takeNext_ok
    | split

theorem State.submitFrame_ok {s : State} {f : HostFrame} (hs : Ok cmds s) : Ok cmds (State.submitFrame s f) := by
  unfold State.submitFrame
  repeat any_goals first
    | with_reducible assumption
    | ((try lift_lets); intro x; clear_value x)
    | with_reducible apply State.refuse_ok
    | with_reducible apply State.startNext_ok
    | split

theorem execSubmit_ok {f : HostFrame} {s : State} (hs : Ok cmds s) : Keeps cmds (execSubmit f s) := by
  unfold execSubmit
  repeat any_goals first
    | with_reducible assumption
    | with_reducible refine fun _ => ?_
    | with_reducible apply State.hostFrame_ok
    | with_reducible apply State.submitFrame_ok
    | with_reducible apply keeps_next

theorem State.placeJob_ok {s : State} {b : SubmitBody} {bytes : List Byte} {pl : Plan} {readm : Option Nat} (hs : Ok cmds s) : Ok cmds (State.placeJob s b bytes pl readm) := by
  unfold State.placeJob
  repeat any_goals first
    | with_reducible assumption
    | ((try lift_lets); intro x; refine keep_let (P := Ok cmds x) ?_ (fun hx => ?_); rotate_left; clear_value x; rotate_right; unfold x; clear x)
    | with_reducible apply State.install_ok
    | with_reducible apply State.restoreContext_ok
    | split

theorem execAdmission_ok {inp : AdmissionInput} {s : State} (hs : Ok cmds s) : Keeps cmds (execAdmission inp s) := by
  unfold execAdmission
  repeat any_goals first
    | with_reducible assumption
    | with_reducible apply State.placeJob_ok
    | with_reducible apply State.refuseSubmit_ok
    | with_reducible apply State.startNext_ok
    | with_reducible apply keeps_next
    | with_reducible exact SMap.wf_nil _
    | split

theorem State.replyAdmission_ok {s : State} {j : Nat} {b : Job} (hs : Ok cmds s) : Ok cmds (State.replyAdmission s j b) := by
  unfold State.replyAdmission
  repeat any_goals first
    | with_reducible assumption
    | with_reducible refine fun _ => ?_
    | ((try lift_lets); intro x; refine keep_let (P := Ok cmds x) ?_ (fun hx => ?_); rotate_left; clear_value x; rotate_right; unfold x; clear x)
    | ((try lift_lets); intro x; clear_value x)
    | with_reducible apply Plan.table_ok
    | with_reducible apply State.answer_ok
    | with_reducible apply State.modJob_ok
    | with_reducible apply State.modTable_ok
    | with_reducible apply State.send_ok
    | with_reducible apply State.table_ok
    | with_reducible apply ok_foldl
    | split

theorem execAdmissionReply_ok {s : State} (hs : Ok cmds s) : Keeps cmds (execAdmissionReply s) := by
  unfold execAdmissionReply
  repeat any_goals first
    | with_reducible assumption
    | ((try lift_lets); intro x; refine keep_let (P := Ok cmds x) ?_ (fun hx => ?_); rotate_left; clear_value x; rotate_right; unfold x; clear x)
    | with_reducible apply State.replyAdmission_ok
    | with_reducible apply State.startNext_ok
    | with_reducible apply keeps_next
    | split

theorem State.queryDeviceFrame_ok {s : State} {f : HostFrame} (hs : Ok cmds s) : Ok cmds (State.queryDeviceFrame s f) := by
  unfold State.queryDeviceFrame
  repeat any_goals first
    | with_reducible assumption
    | with_reducible apply State.answer_ok
    | with_reducible apply State.refuse_ok
    | split

theorem execQueryDevice_ok {f : HostFrame} {s : State} (hs : Ok cmds s) : Keeps cmds (execQueryDevice f s) := by
  unfold execQueryDevice
  repeat any_goals first
    | with_reducible assumption
    | with_reducible refine fun _ => ?_
    | with_reducible apply State.hostFrame_ok
    | with_reducible apply State.queryDeviceFrame_ok
    | with_reducible apply keeps_next

theorem State.queryJobFrame_ok {s : State} {f : HostFrame} (hs : Ok cmds s) : Ok cmds (State.queryJobFrame s f) := by
  unfold State.queryJobFrame
  repeat any_goals first
    | with_reducible assumption
    | with_reducible refine fun _ => ?_
    | with_reducible apply State.answer_ok
    | with_reducible apply State.refuse_ok
    | with_reducible apply SMap.wf_filter
    | split

theorem execQueryJob_ok {f : HostFrame} {s : State} (hs : Ok cmds s) : Keeps cmds (execQueryJob f s) := by
  unfold execQueryJob
  repeat any_goals first
    | with_reducible assumption
    | with_reducible refine fun _ => ?_
    | with_reducible apply State.hostFrame_ok
    | with_reducible apply State.queryJobFrame_ok
    | with_reducible apply keeps_next

theorem State.pauseFrame_ok {s : State} {f : HostFrame} {arrival : Nat} (hs : Ok cmds s) : Ok cmds (State.pauseFrame s f arrival) := by
  unfold State.pauseFrame
  repeat any_goals first
    | with_reducible assumption
    | with_reducible refine fun _ => ?_
    | ((try lift_lets); intro x; refine keep_let (P := Ok cmds x) ?_ (fun hx => ?_); rotate_left; clear_value x; rotate_right; unfold x; clear x)
    | ((try lift_lets); intro x; clear_value x)
    | with_reducible apply Plan.table_ok
    | with_reducible apply State.forJob_ok
    | with_reducible apply State.modJob_ok
    | with_reducible apply State.modTable_ok
    | with_reducible apply State.refuse_ok
    | with_reducible apply State.table_ok
    | with_reducible apply ok_foldl
    | split

theorem execPause_ok {f : HostFrame} {s : State} (hs : Ok cmds s) : Keeps cmds (execPause f s) := by
  unfold execPause
  repeat any_goals first
    | with_reducible assumption
    | with_reducible refine fun _ => ?_
    | with_reducible apply State.hostFrame_ok
    | with_reducible apply State.pauseFrame_ok
    | with_reducible apply keeps_next

theorem State.tell_ok {s : State} {j : Nat} {b : Job} {typ : Nat} {body : List Byte} (hs : Ok cmds s) : Ok cmds (State.tell s j b typ body) := by
  unfold State.tell
  repeat any_goals first
    | with_reducible assumption
    | with_reducible refine fun _ => ?_
    | with_reducible apply State.answer_ok
    | with_reducible apply State.modJob_ok
    | with_reducible apply ok_foldl
    | with_reducible apply SMap.wf_filter
    | split

theorem State.writeContext_ok {s : State} {j : Nat} {b : Job} (hs : Ok cmds s) : Ok cmds (State.writeContext s j b) := by
  unfold State.writeContext
  split
  · exact hs
  · have h : ∀ v r, Ok cmds ((s.sealContext j b v r true).2.sealContext j b v r false).2 := fun v r => State.sealContext_ok (State.sealContext_ok hs)
    exact State.tell_ok (State.modJob_ok (ok_mem (h _ _) (MemSys.putTier_ok (h _ _).mem)))

theorem execJobPaused_ok {j : Nat} {s : State} (hs : Ok cmds s) : Keeps cmds (execJobPaused j s) := by
  unfold execJobPaused
  repeat any_goals first
    | with_reducible assumption
    | with_reducible apply State.writeContext_ok
    | with_reducible apply keeps_next
    | split

theorem State.forPaused_ok {s : State} {typ : BitVec 8} {f : HostFrame} {act : Nat → Job → State} (hs : Ok cmds s) (hact : ∀ a0 a1, Ok cmds (act a0 a1)) : Ok cmds (State.forPaused s typ f act) := by
  unfold State.forPaused
  repeat any_goals first
    | with_reducible assumption
    | with_reducible apply hact
    | with_reducible refine fun _ => ?_
    | with_reducible apply State.forJob_ok
    | with_reducible apply State.refuse_ok
    | with_reducible exact SMap.wf_nil _
    | split

theorem State.resumeFrame_ok {s : State} {f : HostFrame} (hs : Ok cmds s) : Ok cmds (State.resumeFrame s f) := by
  unfold State.resumeFrame
  repeat any_goals first
    | with_reducible assumption
    | with_reducible refine fun _ => ?_
    | ((try lift_lets); intro x; refine keep_let (P := Ok cmds x) ?_ (fun hx => ?_); rotate_left; clear_value x; rotate_right; unfold x; clear x)
    | ((try lift_lets); intro x; clear_value x)
    | with_reducible apply State.forPaused_ok
    | with_reducible apply State.modJob_ok
    | with_reducible apply State.modTable_ok
    | with_reducible apply ok_foldl

theorem execResume_ok {f : HostFrame} {s : State} (hs : Ok cmds s) : Keeps cmds (execResume f s) := by
  unfold execResume
  repeat any_goals first
    | with_reducible assumption
    | with_reducible refine fun _ => ?_
    | with_reducible apply State.hostFrame_ok
    | with_reducible apply State.resumeFrame_ok
    | with_reducible apply keeps_next

theorem State.detachFrame_ok {s : State} {f : HostFrame} (hs : Ok cmds s) : Ok cmds (State.detachFrame s f) := by
  unfold State.detachFrame
  repeat any_goals first
    | with_reducible assumption
    | with_reducible refine fun _ => ?_
    | with_reducible apply State.answer_ok
    | with_reducible apply State.forPaused_ok
    | with_reducible apply State.modJob_ok
    | with_reducible exact SMap.wf_nil _
    | split

theorem execDetach_ok {f : HostFrame} {s : State} (hs : Ok cmds s) : Keeps cmds (execDetach f s) := by
  unfold execDetach
  repeat any_goals first
    | with_reducible assumption
    | with_reducible refine fun _ => ?_
    | with_reducible apply State.detachFrame_ok
    | with_reducible apply State.hostFrame_ok
    | with_reducible apply keeps_next

theorem State.abortFrame_ok {s : State} {f : HostFrame} (hs : Ok cmds s) : Ok cmds (State.abortFrame s f) := by
  unfold State.abortFrame
  repeat any_goals first
    | with_reducible assumption
    | with_reducible refine fun _ => ?_
    | with_reducible apply Plan.table_ok
    | with_reducible apply State.abortJob_ok
    | with_reducible apply State.forJob_ok
    | with_reducible apply State.modJob_ok
    | with_reducible apply State.refuse_ok
    | with_reducible apply State.table_ok
    | with_reducible exact SMap.wf_nil _
    | split

theorem execAbort_ok {f : HostFrame} {s : State} (hs : Ok cmds s) : Keeps cmds (execAbort f s) := by
  unfold execAbort
  repeat any_goals first
    | with_reducible assumption
    | with_reducible refine fun _ => ?_
    | with_reducible apply State.abortFrame_ok
    | with_reducible apply State.hostFrame_ok
    | with_reducible apply keeps_next

theorem State.passBound_ok {s : State} {j : Nat} {b : Job} (hs : Ok cmds s) : Ok cmds (State.passBound s j b) := by
  unfold State.passBound
  split
  · exact hs
  · have h := fun d (m : HostTx) => State.modJob_ok (j := j) (f := fun b => { b with violated := true }) (State.send_ok (x := m) (State.raise_ok (e := ⟨0x1201, clsContained, some j, none, none, d⟩) hs))
    dsimp only
    split
    · exact State.abortJob_ok (h _ _)
    · exact h _ _

theorem State.sendRecord_ok {s : State} {j : Nat} {b : Job} {record : List Byte} (hs : Ok cmds s) : Ok cmds (State.sendRecord s j b record) := by
  unfold State.sendRecord
  repeat any_goals first
    | with_reducible assumption
    | ((try lift_lets); intro x; refine keep_let (P := Ok cmds x) ?_ (fun hx => ?_); rotate_left; clear_value x; rotate_right; unfold x; clear x)
    | ((try lift_lets); intro x; clear_value x)
    | with_reducible apply State.send_ok
    | split

theorem State.freeTable_ok {reported : Bool} {s : State} {t : Nat} (hs : Ok cmds s) : Ok cmds (State.freeTable reported s t) := by
  unfold State.freeTable
  repeat any_goals first
    | with_reducible assumption
    | with_reducible refine fun _ => ?_
    | ((try lift_lets); intro x; refine keep_let (P := Ok cmds x) ?_ (fun hx => ?_); rotate_left; clear_value x; rotate_right; unfold x; clear x)
    | with_reducible apply Noc.discard_ok
    | with_reducible apply Plan.table_ok
    | with_reducible apply State.clearCause_ok
    | with_reducible apply State.modTable_ok
    | with_reducible apply State.setCsr_ok
    | with_reducible apply State.setTblStat_ok
    | with_reducible apply State.table_ok
    | (with_reducible refine tableOk_snd_rcv (by with_reducible assumption) ?_ ?_)
    | (with_reducible refine tableOk_ctr_ctrInit (by with_reducible assumption) ?_ ?_)
    | with_reducible apply SMap.wf_mapAll
    | with_reducible exact SMap.wf_nil _
    | (with_reducible exact TParts.snd_ (by with_reducible assumption))
    | (with_reducible exact TParts.rcv_ (by with_reducible assumption))
    | (with_reducible exact TParts.ctr_ (by with_reducible assumption))
    | (with_reducible exact TParts.ctrInit_ (by with_reducible assumption))
    | split

theorem State.freeReservations_ok {s : State} {j : Nat} {b : Job} (hs : Ok cmds s) : Ok cmds (State.freeReservations s j b) := by
  have h1 : Ok cmds { s with
      noc := { s.noc.discard b.tables with slots := SMap.setAll 0 s.noc.slots (b.claims.map (·, 0)) }
      fslots := SMap.setAll 0 s.fslots (b.cells.map (·, 0))
      ports := dropCells s.ports b.tables
      descs := SMap.setAll 0 s.descs (b.descMap.map (fun x => (1024 * x.1 + x.2.2, 0)))
      dma := s.dma.filter (fun kv => kv.2.job != some j)
      hctr := SMap.clearRange s.hctr (64 * j) (64 * j + 64) } :=
    have hn := Noc.discard_ok (ts := b.tables) hs.noc
    { hs with
      slots_ := SMap.wf_setAll _ hs.slots_, queues_ := hn.queues, chanQ_ := hn.chanQ, links_ := hn.links, sent_ := hn.sent
      fslots_ := SMap.wf_setAll _ hs.fslots_, ports_ := dropCells_ok hs.ports_, descs_ := SMap.wf_setAll _ hs.descs_
      dma_ := SMap.wf_filter _ hs.dma_, hctr_ := SMap.wf_clearRange _ _ hs.hctr_ }
  unfold State.freeReservations
  have h2 := ok_foldl h1 (fun a t h => State.freeTable_ok (reported := b.residueTaken) (t := t) h) (l := b.tables)
  exact ok_qps_chans h2 (SMap.wf_set _ _ h2.qps_) (SMap.wf_filter _ h2.chans_)

theorem State.endJob_ok {s : State} {j : Nat} {b : Job} {status : Nat} (hs : Ok cmds s) : Ok cmds (State.endJob s j b status) := by
  unfold State.endJob
  repeat any_goals first
    | with_reducible assumption
    | with_reducible refine fun _ => ?_
    | ((try lift_lets); intro x; refine keep_let (P := Ok cmds x) ?_ (fun hx => ?_); rotate_left; clear_value x; rotate_right; unfold x; clear x)
    | ((try lift_lets); intro x; clear_value x)
    | with_reducible apply State.freeReservations_ok
    | with_reducible apply State.modJob_ok
    | with_reducible apply State.sendRecord_ok
    | with_reducible apply State.tell_ok
    | with_reducible exact SMap.wf_nil _
    | split

theorem State.complete_ok {s : State} {j : Nat} (hs : Ok cmds s) : Ok cmds (State.complete s j) := by
  unfold State.complete
  repeat any_goals first
    | with_reducible assumption
    | with_reducible apply State.endJob_ok
    | split

theorem execCompletionRecord_ok {j : Nat} {s : State} (hs : Ok cmds s) : Keeps cmds (execCompletionRecord j s) := by
  unfold execCompletionRecord
  repeat any_goals first
    | with_reducible assumption
    | with_reducible apply State.complete_ok
    | with_reducible apply State.passBound_ok
    | with_reducible apply keeps_next
    | split

theorem State.withdraw_ok {s : State} {j : Nat} (hs : Ok cmds s) : Ok cmds (State.withdraw s j) := by
  unfold State.withdraw
  split
  · exact hs
  · next b _ =>
    have h1 := ok_foldl (State.freeReservations_ok (j := j) (b := b) hs) (l := b.tables) (f := fun acc t =>
      let acc := (acc.modTable t (fun _ => Table.reset)).setCsrs (spdReg t 4) [0]
      (acc.tableCores t).foldl (fun acc x => { acc with
        cores := SMap.set Core.reset acc.cores x.2 Core.reset
        csr := SMap.clearRange acc.csr (coreBase x.2) (coreBase x.2 + 0x40000) }) acc) (fun a t h =>
        ok_foldl (State.setCsrs_ok (State.modTable_ok h (fun _ _ => tableOk_reset))) (fun a x h =>
          ok_csr_cores h (SMap.wf_clearRange _ _ h.csr_) (each_set h.cores_ _ coreOk_reset.canonical)))
    exact ok_mem (ok_jobs h1 (SMap.wf_set _ _ h1.jobs_)) (MemSys.zeroTier_ok (MemSys.zeroTier_ok (MemSys.zeroTier_ok
      { h1.mem with shelf := SMap.wf_foldl h1.shelf_ (fun m t h => SMap.wf_clearRange _ _ h) })))

theorem State.dropAdmission_ok {s : State} (hs : Ok cmds s) : Ok cmds (State.dropAdmission s) := by
  unfold State.dropAdmission
  repeat any_goals first
    | with_reducible assumption
    | ((try lift_lets); intro x; refine keep_let (P := Ok cmds x) ?_ (fun hx => ?_); rotate_left; clear_value x; rotate_right; unfold x; clear x)
    | with_reducible apply State.withdraw_ok
    | split

theorem execReadmission_ok {j : Nat} {inp : AdmissionInput} {s : State} (hs : Ok cmds s) : Keeps cmds (execReadmission j inp s) := by
  unfold execReadmission
  repeat any_goals first
    | with_reducible assumption
    | with_reducible refine fun _ => ?_
    | ((try lift_lets); intro x; refine keep_let (P := Ok cmds x) ?_ (fun hx => ?_); rotate_left; clear_value x; rotate_right; unfold x; clear x)
    | with_reducible apply State.modJob_ok
    | with_reducible apply State.placeJob_ok
    | with_reducible apply State.send_ok
    | with_reducible apply keeps_next
    | with_reducible exact SMap.wf_nil _
    | split

theorem State.signalFrame_ok {s : State} {f : HostFrame} {dir : BitVec 2} {act : Nat → Nat → Nat → State} (hs : Ok cmds s) (hact : ∀ a0 a1 a2, Ok cmds (act a0 a1 a2)) : Ok cmds (State.signalFrame s f dir act) := by
  unfold State.signalFrame
  repeat any_goals first
    | with_reducible assumption
    | with_reducible apply hact
    | with_reducible refine fun _ => ?_
    | with_reducible apply State.forJob_ok
    | with_reducible apply State.refuse_ok
    | split

theorem State.increment_ok {s : State} {j n a : Nat} (hs : Ok cmds s) : Ok cmds (State.increment s j n a) := by
  unfold State.increment
  repeat any_goals first
    | with_reducible assumption
    | with_reducible refine fun _ => ?_
    | ((try lift_lets); intro x; refine keep_let (P := Ok cmds x) ?_ (fun hx => ?_); rotate_left; clear_value x; rotate_right; unfold x; clear x)
    | ((try lift_lets); intro x; clear_value x)
    | with_reducible apply State.setHostCounter_ok

theorem State.incrementFrame_ok {s : State} {f : HostFrame} (hs : Ok cmds s) : Ok cmds (State.incrementFrame s f) := by
  unfold State.incrementFrame
  repeat any_goals first
    | with_reducible assumption
    | with_reducible refine fun _ => ?_
    | with_reducible apply State.increment_ok
    | with_reducible apply State.refuse_ok
    | with_reducible apply State.signalFrame_ok
    | with_reducible apply State.silent_ok
    | split

theorem execSignalIncrement_ok {f : HostFrame} {s : State} (hs : Ok cmds s) : Keeps cmds (execSignalIncrement f s) := by
  unfold execSignalIncrement
  repeat any_goals first
    | with_reducible assumption
    | with_reducible refine fun _ => ?_
    | with_reducible apply State.hostFrame_ok
    | with_reducible apply State.incrementFrame_ok
    | with_reducible apply keeps_next

theorem State.consumeFrame_ok {s : State} {f : HostFrame} (hs : Ok cmds s) : Ok cmds (State.consumeFrame s f) := by
  unfold State.consumeFrame
  repeat any_goals first
    | with_reducible assumption
    | with_reducible refine fun _ => ?_
    | with_reducible apply State.markSlot_ok
    | with_reducible apply State.refuse_ok
    | with_reducible apply State.setHostCounter_ok
    | with_reducible apply State.signalFrame_ok
    | with_reducible apply State.silent_ok
    | split

theorem execSignalConsume_ok {f : HostFrame} {s : State} (hs : Ok cmds s) : Keeps cmds (execSignalConsume f s) := by
  unfold execSignalConsume
  repeat any_goals first
    | with_reducible assumption
    | with_reducible refine fun _ => ?_
    | with_reducible apply State.consumeFrame_ok
    | with_reducible apply State.hostFrame_ok
    | with_reducible apply keeps_next

theorem execCounterSlotWrite_ok {j n : Nat} {s : State} (hs : Ok cmds s) : Keeps cmds (execCounterSlotWrite j n s) := by
  unfold execCounterSlotWrite
  repeat any_goals first
    | with_reducible assumption
    | with_reducible refine fun _ => ?_
    | ((try lift_lets); intro x; refine keep_let (P := Ok cmds x) ?_ (fun hx => ?_); rotate_left; clear_value x; rotate_right; unfold x; clear x)
    | ((try lift_lets); intro x; clear_value x)
    | with_reducible apply State.modJob_ok
    | with_reducible apply State.send_ok
    | with_reducible apply keeps_next
    | with_reducible apply SMap.wf_set
    | with_reducible apply SMap.wf_filter
    | split

theorem State.taskMsgFrame_ok {s : State} {f : HostFrame} (hs : Ok cmds s) : Ok cmds (State.taskMsgFrame s f) := by
  unfold State.taskMsgFrame
  repeat any_goals first
    | with_reducible assumption
    | with_reducible refine fun _ => ?_
    | ((try lift_lets); intro (x : HostPort); dsimp only [x]; clear x)
    | ((try lift_lets); intro (x : SMap _); unfold x; clear x)
    | ((try lift_lets); intro x; clear_value x)
    | with_reducible apply State.forJob_ok
    | with_reducible apply State.pumpHost_ok
    | with_reducible apply State.refuse_ok
    | with_reducible apply State.silent_ok
    | split

theorem execTaskMsg_ok {f : HostFrame} {s : State} (hs : Ok cmds s) : Keeps cmds (execTaskMsg f s) := by
  unfold execTaskMsg
  repeat any_goals first
    | with_reducible assumption
    | with_reducible refine fun _ => ?_
    | with_reducible apply State.hostFrame_ok
    | with_reducible apply State.taskMsgFrame_ok
    | with_reducible apply keeps_next

theorem State.qpError_ok {s : State} {n : Nat} (hs : Ok cmds s) : Ok cmds (State.qpError s n) := by
  unfold State.qpError
  repeat any_goals first
    | with_reducible assumption
    | with_reducible refine fun _ => ?_
    | ((try lift_lets); intro x; refine keep_let (P := Ok cmds x) ?_ (fun hx => ?_); rotate_left; clear_value x; rotate_right; unfold x; clear x)
    | ((try lift_lets); intro x; clear_value x)
    | with_reducible apply State.dropAdmission_ok
    | with_reducible apply State.modQp_ok
    | with_reducible apply State.raise_ok
    | with_reducible exact SMap.wf_nil _
    | split

theorem execHstQpError_ok {j : Nat} {s : State} (hs : Ok cmds s) : Keeps cmds (execHstQpError j s) := by
  unfold execHstQpError
  repeat any_goals first
    | with_reducible assumption
    | with_reducible apply State.qpError_ok
    | with_reducible apply keeps_next
    | split

theorem execHostLost_ok {j : Nat} {s : State} (hs : Ok cmds s) : Keeps cmds (execHostLost j s) := by
  unfold execHostLost
  repeat any_goals first
    | with_reducible assumption
    | with_reducible apply State.abortJob_ok
    | with_reducible apply State.raise_ok
    | with_reducible apply keeps_next
    | split

theorem execControlQpRecovery_ok {s : State} (hs : Ok cmds s) : Keeps cmds (execControlQpRecovery s) := by
  unfold execControlQpRecovery
  repeat any_goals first
    | with_reducible assumption
    | with_reducible refine fun _ => ?_
    | with_reducible apply State.modQp_ok
    | with_reducible apply keeps_next
    | with_reducible exact SMap.wf_nil _
    | split

theorem State.rebindFrame_ok {s : State} {f : HostFrame} (hs : Ok cmds s) : Ok cmds (State.rebindFrame s f) := by
  unfold State.rebindFrame
  repeat any_goals first
    | with_reducible assumption
    | with_reducible refine fun _ => ?_
    | ((try lift_lets); intro x; clear_value x)
    | with_reducible apply State.answer_ok
    | with_reducible apply State.forJob_ok
    | with_reducible apply State.modQp_ok
    | with_reducible apply State.refuse_ok
    | with_reducible apply State.send_ok
    | with_reducible apply ok_foldl
    | with_reducible exact SMap.wf_nil _
    | split

theorem execRebind_ok {f : HostFrame} {s : State} (hs : Ok cmds s) : Keeps cmds (execRebind f s) := by
  unfold execRebind
  repeat any_goals first
    | with_reducible assumption
    | with_reducible refine fun _ => ?_
    | with_reducible apply State.hostFrame_ok
    | with_reducible apply State.rebindFrame_ok
    | with_reducible apply keeps_next

theorem execLocalAckTimeout_ok {qpn : BitVec 24} {s : State} (hs : Ok cmds s) : Keeps cmds (execLocalAckTimeout qpn s) := by
  unfold execLocalAckTimeout
  repeat any_goals first
    | with_reducible assumption
    | with_reducible refine fun _ => ?_
    | ((try lift_lets); intro x; clear_value x)
    | with_reducible apply State.modQp_ok
    | with_reducible apply State.qpError_ok
    | with_reducible apply State.send_ok
    | with_reducible apply keeps_next
    | split

theorem execRnrNak_ok {qpn : BitVec 24} {s : State} (hs : Ok cmds s) : Keeps cmds (execRnrNak qpn s) := by
  unfold execRnrNak
  repeat any_goals first
    | with_reducible assumption
    | with_reducible apply State.send_ok
    | with_reducible apply keeps_next
    | split

theorem State.denyAccess_ok {s : State} {qpn : BitVec 24} {rkey : BitVec 32} (hs : Ok cmds s) : Ok cmds (State.denyAccess s qpn rkey) := by
  unfold State.denyAccess
  repeat any_goals first
    | with_reducible assumption
    | ((try lift_lets); intro x; clear_value x)
    | with_reducible apply State.raise_ok
    | with_reducible apply State.send_ok

theorem State.hostUe_ok {s : State} {j : Nat} (hs : Ok cmds s) : Ok cmds (State.hostUe s j) := by
  unfold State.hostUe
  repeat any_goals first
    | with_reducible assumption
    | with_reducible apply State.abortJob_ok
    | with_reducible apply State.raise_ok

theorem State.hostWrite_ok {s : State} {j : Nat} {tier : Tier} {a : Nat} {bs : List Byte} (hs : Ok cmds s) : Ok cmds (State.hostWrite s j tier a bs) := by
  unfold State.hostWrite
  dsimp only
  split
  · exact State.hostUe_ok (ok_mem hs (MemSys.putTier_ok hs.mem))
  · exact ok_mem hs (MemSys.putTier_ok hs.mem)

theorem State.hostRead_ok {s : State} {j : Nat} {tier : Tier} {a n : Nat} (hs : Ok cmds s) : Ok cmds (State.hostRead s j tier a n).2 := by
  unfold State.hostRead
  repeat any_goals first
    | with_reducible assumption
    | with_reducible apply State.hostUe_ok
    | split

theorem execHostRdmaWrite_ok {qpn : BitVec 24} {rkey : BitVec 32} {va : BitVec 64} {data : List Byte} {s : State} (hs : Ok cmds s) : Keeps cmds (execHostRdmaWrite qpn rkey va data s) := by
  unfold execHostRdmaWrite
  repeat any_goals first
    | with_reducible assumption
    | with_reducible refine fun _ => ?_
    | with_reducible apply State.arrived_ok
    | with_reducible apply State.denyAccess_ok
    | with_reducible apply State.hostWrite_ok
    | with_reducible apply keeps_next
    | split

theorem execHostRdmaRead_ok {qpn : BitVec 24} {rkey : BitVec 32} {va : BitVec 64} {len : BitVec 32} {s : State} (hs : Ok cmds s) : Keeps cmds (execHostRdmaRead qpn rkey va len s) := by
  unfold execHostRdmaRead
  repeat any_goals first
    | with_reducible assumption
    | with_reducible refine fun _ => ?_
    | ((try lift_lets); intro x; refine keep_let (P := Ok cmds x.2) ?_ (fun hx => ?_); rotate_left; clear_value x; rotate_right; unfold x; clear x)
    | with_reducible apply State.arrived_ok
    | with_reducible apply State.denyAccess_ok
    | with_reducible apply State.hostRead_ok
    | with_reducible apply State.send_ok
    | with_reducible apply keeps_next
    | split

theorem execInvalidRequestNak_ok {qpn : BitVec 24} {s : State} (hs : Ok cmds s) : Keeps cmds (execInvalidRequestNak qpn s) := by
  unfold execInvalidRequestNak
  repeat any_goals first
    | with_reducible assumption
    | with_reducible refine fun _ => ?_
    | with_reducible apply State.arrived_ok
    | with_reducible apply State.qpError_ok
    | with_reducible apply State.send_ok
    | with_reducible apply keeps_next
    | split

theorem execHstDrop_ok {s : State} (hs : Ok cmds s) : Keeps cmds (execHstDrop s) := by
  unfold execHstDrop
  repeat any_goals first
    | with_reducible assumption
    | with_reducible apply State.dropPackets_ok
    | with_reducible apply keeps_next
    | split

theorem execCnpSend_ok {qpn : BitVec 24} {s : State} (hs : Ok cmds s) : Keeps cmds (execCnpSend qpn s) := by
  unfold execCnpSend
  repeat any_goals first
    | with_reducible assumption
    | with_reducible refine fun _ => ?_
    | ((try lift_lets); intro x; clear_value x)
    | with_reducible apply State.modQp_ok
    | with_reducible apply State.send_ok
    | with_reducible apply keeps_next
    | split

theorem execCnpReceive_ok {qpn : BitVec 24} {s : State} (hs : Ok cmds s) : Keeps cmds (execCnpReceive qpn s) := by
  unfold execCnpReceive
  repeat any_goals first
    | with_reducible assumption
    | with_reducible refine fun _ => ?_
    | with_reducible apply State.arrived_ok
    | with_reducible apply State.modQp_ok
    | with_reducible apply keeps_next
    | split

theorem execRateRecovery_ok {qpn : BitVec 24} {s : State} (hs : Ok cmds s) : Keeps cmds (execRateRecovery qpn s) := by
  unfold execRateRecovery
  repeat any_goals first
    | with_reducible assumption
    | with_reducible refine fun _ => ?_
    | ((try lift_lets); intro x; clear_value x)
    | with_reducible apply State.modQp_ok
    | with_reducible apply keeps_next
    | split

theorem execHstLinkDown_ok {s : State} (hs : Ok cmds s) : Keeps cmds (execHstLinkDown s) := by
  unfold execHstLinkDown
  repeat any_goals first
    | with_reducible assumption
    | ((try lift_lets); intro (x : HostPort); dsimp only [x]; clear x)
    | with_reducible apply State.raiseDev_ok
    | with_reducible apply keeps_next
    | split

theorem State.findLanes_ok {s : State} (hs : Ok cmds s) : Ok cmds (State.findLanes s) := by
  unfold State.findLanes
  repeat any_goals first
    | with_reducible assumption
    | ((try lift_lets); intro (x : HostPort); dsimp only [x]; clear x)
    | split

theorem State.sendKept_ok {s : State} {n : Nat} (hs : Ok cmds s) : Ok cmds (State.sendKept s n) := by
  unfold State.sendKept
  repeat any_goals first
    | with_reducible assumption
    | with_reducible refine fun _ => ?_
    | with_reducible apply State.modQp_ok
    | with_reducible apply State.send_ok
    | with_reducible apply ok_foldl
    | with_reducible exact SMap.wf_nil _
    | split

theorem execHstLinkUp_ok {s : State} (hs : Ok cmds s) : Keeps cmds (execHstLinkUp s) := by
  unfold execHstLinkUp
  repeat any_goals first
    | with_reducible assumption
    | ((try lift_lets); intro x; refine keep_let (P := Ok cmds x) ?_ (fun hx => ?_); rotate_left; clear_value x; rotate_right; unfold x; clear x)
    | ((try lift_lets); intro (x : HostPort); dsimp only [x]; clear x)
    | with_reducible apply State.findLanes_ok
    | with_reducible apply State.raiseDev_ok
    | with_reducible apply State.sendKept_ok
    | with_reducible apply ok_foldl
    | with_reducible apply ok_foldl_fst
    | with_reducible apply ok_foldl_snd
    | with_reducible apply keeps_next
    | split

theorem State.halvePort_ok {s : State} (hs : Ok cmds s) : Ok cmds (State.halvePort s) := by
  unfold State.halvePort
  split
  · exact hs
  · have h := State.excursions_ok (s := { s with host := { s.host with mode := true } }) (code := 0x4401)
      (p := fun b => decide (0 < b.share)) hs
    exact ok_jobs h (SMap.wf_mapAll _ h.jobs_)

theorem State.loseHostLane_ok {s : State} {lane : BitVec 3} {cause : BitVec 2} (hs : Ok cmds s) : Ok cmds (State.loseHostLane s lane cause) := by
  unfold State.loseHostLane
  repeat any_goals first
    | with_reducible assumption
    | ((try lift_lets); intro (x : HostPort); dsimp only [x]; clear x)
    | with_reducible apply State.halvePort_ok
    | with_reducible apply State.raiseDev_ok
    | split

theorem execHstLaneLost_ok {lane : BitVec 3} {cause : BitVec 2} {s : State} (hs : Ok cmds s) : Keeps cmds (execHstLaneLost lane cause s) := by
  unfold execHstLaneLost
  repeat any_goals first
    | with_reducible assumption
    | with_reducible apply State.loseHostLane_ok
    | with_reducible apply keeps_next

end Sys2Proof.Machine
end

