-- ==== Sys2Proof/Laws/CanonDev.lean ====
section
/-!
SUPPORT. Every operation of Machine/Fabric.lean, Machine/Clocks.lean, Machine/Faults.lean keeps the canonical form.
-/
namespace Sys2Proof.Machine

variable {cmds : List Instr}

theorem State.emit_ok {s : State} {q pos : Nat} {c : Cell} (hs : Ok cmds s) : Ok cmds (State.emit s q pos c) := by
  unfold State.emit
  repeat any_goals first
    | with_reducible assumption
    | with_reducible refine fun _ => ?_
    | ((try lift_lets); intro x; clear_value x)
    | with_reducible apply State.modPort_ok

theorem State.sendData_ok {s : State} {q pos i : Nat} (hs : Ok cmds s) : Ok cmds (State.sendData s q pos i) := by
  unfold State.sendData
  repeat any_goals first
    | with_reducible assumption
    | with_reducible refine fun _ => ?_
    | ((try lift_lets); intro x; clear_value x)
    | with_reducible apply State.emit_ok
    | with_reducible apply State.modPort_ok
    | split

theorem State.sendReplay_ok {s : State} {q pos : Nat} {lseq : BitVec 16} (hs : Ok cmds s) : Ok cmds (State.sendReplay s q pos lseq) := by
  unfold State.sendReplay
  repeat any_goals first
    | with_reducible assumption
    | with_reducible refine fun _ => ?_
    | ((try lift_lets); intro x; refine keep_let (P := Ok cmds x) ?_ (fun hx => ?_); rotate_left; clear_value x; rotate_right; unfold x; clear x)
    | ((try lift_lets); intro x; clear_value x)
    | with_reducible apply State.countPort_ok
    | with_reducible apply State.emit_ok
    | with_reducible apply State.modPort_ok
    | with_reducible apply State.raiseDev_ok
    | with_reducible apply SMap.wf_filter
    | split

theorem State.sendCell_ok {s : State} {q pos : Nat} {ch : CellChoice} (hs : Ok cmds s) : Ok cmds (State.sendCell s q pos ch) := by
  unfold State.sendCell
  repeat any_goals first
    | with_reducible assumption
    | with_reducible refine fun _ => ?_
    | with_reducible apply State.emit_ok
    | with_reducible apply State.modPort_ok
    | with_reducible apply State.sendData_ok
    | with_reducible apply State.sendReplay_ok
    | split

theorem State.sendIf_ok {s : State} {q : Nat} {p : CellChoice → Bool} (hs : Ok cmds s) : Ok cmds (State.sendIf s q p) := by
  unfold State.sendIf
  repeat any_goals first
    | with_reducible assumption
    | with_reducible apply hp
    | with_reducible apply State.sendCell_ok
    | split

theorem execCellTransmit_ok {port : Nat} {s : State} (hs : Ok cmds s) : Keeps cmds (execCellTransmit port s) := by
  unfold execCellTransmit
  repeat any_goals first
    | with_reducible assumption
    | with_reducible refine fun _ => ?_
    | with_reducible apply State.sendIf_ok
    | with_reducible apply keeps_next

theorem execReplay_ok {port : Nat} {s : State} (hs : Ok cmds s) : Keeps cmds (execReplay port s) := by
  unfold execReplay
  repeat any_goals first
    | with_reducible assumption
    | with_reducible refine fun _ => ?_
    | with_reducible apply State.sendIf_ok
    | with_reducible apply keeps_next

theorem execAlignmentCellSend_ok {port : Nat} {s : State} (hs : Ok cmds s) : Keeps cmds (execAlignmentCellSend port s) := by
  unfold execAlignmentCellSend
  repeat any_goals first
    | with_reducible assumption
    | with_reducible apply State.sendIf_ok
    | with_reducible apply keeps_next

theorem execReplayTimeout_ok {port : Nat} {lseq : BitVec 16} {s : State} (hs : Ok cmds s) : Keeps cmds (execReplayTimeout port lseq s) := by
  unfold execReplayTimeout
  repeat any_goals first
    | with_reducible assumption
    | with_reducible refine fun _ => ?_
    | ((try lift_lets); intro x; clear_value x)
    | with_reducible apply State.modPort_ok
    | with_reducible apply keeps_next
    | split

theorem State.leadAlone_ok {s : State} (hs : Ok cmds s) : Ok cmds (State.leadAlone s) := by
  unfold State.leadAlone
  repeat any_goals first
    | with_reducible assumption
    | split

theorem State.hearLeader_ok {s : State} {q : Nat} {bs : List Byte} (hs : Ok cmds s) : Ok cmds (State.hearLeader s q bs) := by
  unfold State.hearLeader
  repeat any_goals first
    | with_reducible assumption
    | with_reducible refine fun _ => ?_
    | ((try lift_lets); intro x; clear_value x)
    | with_reducible apply State.leadAlone_ok
    | split

theorem State.hearAlign_ok {s : State} {q : Nat} {bs : List Byte} (hs : Ok cmds s) : Ok cmds (State.hearAlign s q bs) := by
  unfold State.hearAlign
  repeat any_goals first
    | with_reducible assumption
    | with_reducible refine fun _ => ?_
    | ((try lift_lets); intro x; refine keep_let (P := Ok cmds x) ?_ (fun hx => ?_); rotate_left; clear_value x; rotate_right; unfold x; clear x)
    | ((try lift_lets); intro x; clear_value x)
    | with_reducible apply State.hearLeader_ok
    | with_reducible apply State.modPort_ok

theorem State.reject_ok {s : State} {q kind : Nat} {c : Cell} (hs : Ok cmds s) : Ok cmds (State.reject s q kind c) := by
  unfold State.reject
  repeat any_goals first
    | with_reducible assumption
    | with_reducible apply State.countPort_ok
    | with_reducible apply State.raiseDev_ok

theorem State.judgeLate_ok {s : State} {q : Nat} (hs : Ok cmds s) : Ok cmds (State.judgeLate s q) := by
  unfold State.judgeLate
  repeat any_goals first
    | with_reducible assumption
    | with_reducible refine fun _ => ?_
    | ((try lift_lets); intro x; refine keep_let (P := Ok cmds x) ?_ (fun hx => ?_); rotate_left; clear_value x; rotate_right; unfold x; clear x)
    | ((try lift_lets); intro x; refine keep_let (P := Ok cmds x.2) ?_ (fun hx => ?_); rotate_left; clear_value x; rotate_right; unfold x; clear x)
    | ((try lift_lets); intro x; clear_value x)
    | with_reducible apply State.countPort_ok
    | with_reducible apply State.modPort_ok
    | with_reducible apply State.raiseDev_ok
    | with_reducible apply State.takeFree_ok
    | split

theorem State.deliverHere_ok {s : State} {q : Nat} {c : Cell} (hs : Ok cmds s) : Ok cmds (State.deliverHere s q c) := by
  unfold State.deliverHere
  repeat any_goals first
    | with_reducible assumption
    | ((try lift_lets); intro x; refine keep_let (P := Ok cmds x) ?_ (fun hx => ?_); rotate_left; clear_value x; rotate_right; unfold x; clear x)
    | ((try lift_lets); intro x; clear_value x)
    | with_reducible apply State.enterMesh_ok
    | with_reducible apply State.judgeLate_ok
    | with_reducible apply State.reject_ok
    | split

theorem State.routeCell_ok {s : State} {q : Nat} {c : Cell} (hs : Ok cmds s) : Ok cmds (State.routeCell s q c) := by
  unfold State.routeCell
  repeat any_goals first
    | with_reducible assumption
    | with_reducible refine fun _ => ?_
    | ((try lift_lets); intro x; clear_value x)
    | with_reducible apply Noc.discard_ok
    | with_reducible apply State.countPort_ok
    | with_reducible apply State.deliverHere_ok
    | with_reducible apply State.modPort_ok
    | with_reducible apply State.reject_ok
    | split

theorem State.takeCell_ok {s : State} {q : Nat} {c : Cell} (hs : Ok cmds s) : Ok cmds (State.takeCell s q c) := by
  have drain : ∀ (n : Nat) {s : State}, Ok cmds s → Ok cmds (s.drainAhead q n) := by
    intro n
    induction n with
    | zero => exact fun h => h
    | succ n ih =>
      intro s h
      unfold State.drainAhead
      dsimp only
      split
      · exact h
      · exact ih (State.routeCell_ok (State.modPort_ok h))
  unfold State.takeCell
  dsimp only
  split
  · exact hs
  · have h := drain ((s.port q).ahead.length + 1) (State.modPort_ok (q := q) (f := fun p => { p with ahead := p.ahead ++ [c] }) hs)
    exact State.modPort_ok h

theorem State.takeLink_ok {s : State} {q : Nat} {c : Cell} (hs : Ok cmds s) : Ok cmds (State.takeLink s q c) := by
  unfold State.takeLink
  repeat any_goals first
    | with_reducible assumption
    | with_reducible refine fun _ => ?_
    | ((try lift_lets); intro x; clear_value x)
    | with_reducible apply State.modPort_ok

theorem State.receiveCell_ok {s : State} {q : Nat} {c : Cell} {fecOk : Bool} (hs : Ok cmds s) : Ok cmds (State.receiveCell s q c fecOk) := by
  unfold State.receiveCell
  repeat any_goals first
    | with_reducible assumption
    | ((try lift_lets); intro x; refine keep_let (P := Ok cmds x) ?_ (fun hx => ?_); rotate_left; clear_value x; rotate_right; unfold x; clear x)
    | with_reducible apply State.hearAlign_ok
    | with_reducible apply State.takeCell_ok
    | with_reducible apply State.takeLink_ok
    | split

theorem execCellReceive_ok {port : Nat} {c : Cell} {fecOk : Bool} {s : State} (hs : Ok cmds s) : Keeps cmds (execCellReceive port c fecOk s) := by
  unfold execCellReceive
  repeat any_goals first
    | with_reducible assumption
    | with_reducible apply State.receiveCell_ok
    | with_reducible apply keeps_next
    | split

theorem execAlignmentCellReceive_ok {port : Nat} {c : Cell} {s : State} (hs : Ok cmds s) : Keeps cmds (execAlignmentCellReceive port c s) := by
  unfold execAlignmentCellReceive
  repeat any_goals first
    | with_reducible assumption
    | with_reducible apply State.receiveCell_ok
    | with_reducible apply keeps_next
    | split

theorem State.portDown_ok {s : State} {q : Nat} (hs : Ok cmds s) : Ok cmds (State.portDown s q) := by
  unfold State.portDown
  repeat any_goals first
    | with_reducible assumption
    | with_reducible refine fun _ => ?_
    | ((try lift_lets); intro x; refine keep_let (P := Ok cmds x) ?_ (fun hx => ?_); rotate_left; clear_value x; rotate_right; unfold x; clear x)
    | with_reducible apply State.excursions_ok
    | with_reducible apply State.leadAlone_ok
    | with_reducible apply State.modPort_ok
    | with_reducible apply State.raiseDev_ok
    | split

theorem State.runLanes_ok {s : State} {q : Nat} (hs : Ok cmds s) : Ok cmds (State.runLanes s q) := by
  unfold State.runLanes
  repeat any_goals first
    | with_reducible assumption
    | with_reducible refine fun _ => ?_
    | ((try lift_lets); intro x; refine keep_let (P := Ok cmds x) ?_ (fun hx => ?_); rotate_left; clear_value x; rotate_right; unfold x; clear x)
    | ((try lift_lets); intro (x : _ → _); unfold x; clear x; try beta_reduce)
    | ((try lift_lets); intro x; clear_value x)
    | with_reducible apply Noc.discard_ok
    | with_reducible apply State.excursions_ok
    | with_reducible apply State.modPort_ok
    | with_reducible apply State.portDown_ok
    | with_reducible apply State.raiseDev_ok
    | split

theorem execPortTraining_ok {port : Nat} {tr : TrainingResult} {s : State} (hs : Ok cmds s) : Keeps cmds (execPortTraining port tr s) := by
  unfold execPortTraining
  repeat any_goals first
    | with_reducible assumption
    | with_reducible refine fun _ => ?_
    | ((try lift_lets); intro x; refine keep_let (P := Ok cmds x) ?_ (fun hx => ?_); rotate_left; clear_value x; rotate_right; unfold x; clear x)
    | ((try lift_lets); intro (x : _ → _); unfold x; clear x; try beta_reduce)
    | ((try lift_lets); intro x; clear_value x)
    | with_reducible apply State.modPort_ok
    | with_reducible apply State.portDown_ok
    | with_reducible apply State.raiseDev_ok
    | with_reducible apply State.runLanes_ok
    | with_reducible apply keeps_next
    | split

theorem execBxlLaneLost_ok {port : Nat} {lane : BitVec 4} {cause : BitVec 2} {s : State} (hs : Ok cmds s) : Keeps cmds (execBxlLaneLost port lane cause s) := by
  unfold execBxlLaneLost
  repeat any_goals first
    | with_reducible assumption
    | with_reducible refine fun _ => ?_
    | ((try lift_lets); intro x; clear_value x)
    | with_reducible apply State.modPort_ok
    | with_reducible apply State.raiseDev_ok
    | with_reducible apply State.runLanes_ok
    | with_reducible apply keeps_next
    | split

theorem execBxlPortUp_ok {port : Nat} {s : State} (hs : Ok cmds s) : Keeps cmds (execBxlPortUp port s) := by
  unfold execBxlPortUp
  repeat any_goals first
    | with_reducible assumption
    | with_reducible refine fun _ => ?_
    | ((try lift_lets); intro x; clear_value x)
    | with_reducible apply State.modPort_ok
    | with_reducible apply keeps_next
    | split

theorem execBxlDiscard_ok {port : Nat} {s : State} (hs : Ok cmds s) : Keeps cmds (execBxlDiscard port s) := by
  unfold execBxlDiscard
  repeat any_goals first
    | with_reducible assumption
    | with_reducible refine fun _ => ?_
    | ((try lift_lets); intro x; refine keep_let (P := Ok cmds x) ?_ (fun hx => ?_); rotate_left; clear_value x; rotate_right; unfold x; clear x)
    | ((try lift_lets); intro x; clear_value x)
    | with_reducible apply Noc.discard_ok
    | with_reducible apply State.countPort_ok
    | with_reducible apply State.modPort_ok
    | with_reducible apply State.portDown_ok
    | with_reducible apply State.raiseDev_ok
    | with_reducible apply keeps_next
    | with_reducible exact SMap.wf_nil _
    | split

theorem execBeaconPulse_ok {s : State} (hs : Ok cmds s) : Keeps cmds (execBeaconPulse s) := by
  unfold execBeaconPulse
  repeat any_goals first
    | with_reducible assumption
    | with_reducible refine fun _ => ?_
    | with_reducible apply keeps_next
    | (with_reducible refine ok_ports (by with_reducible assumption) ?_)
    | with_reducible apply SMap.wf_mapAll
    | (with_reducible exact SParts.ports_ (by with_reducible assumption))
    | split

theorem State.beginStep_ok {s : State} {r : Nat} {tgt : BitVec 3} (hs : Ok cmds s) (ht : tgt ≤ 5) : Ok cmds (State.beginStep s r tgt) := by
  unfold State.beginStep
  exact State.modRegion_ok (State.setCause_ok hs) (fun g hg => regionOk_goal hg ht)

theorem State.startDeferred_ok {s : State} {r : Nat} (hs : Ok cmds s) : Ok cmds (State.startDeferred s r) := by
  unfold State.startDeferred
  dsimp only
  split
  · exact hs
  · exact State.beginStep_ok hs (State.region_ok hs).tgt_

theorem execStepChange_ok {r : Nat} {tgt : BitVec 3} {s : State} (hs : Ok cmds s) : Keeps cmds (execStepChange r tgt s) := by
  unfold execStepChange
  refine keeps_next ?_
  split
  · exact hs
  · split
    · exact State.raise_ok (State.mark_ok (s := { s with stepsRef := satIncr s.stepsRef }) hs)
    · next h =>
      have ht : tgt ≤ 5 := by
        unfold State.stepRefusal at h
        split at h
        · cases h
        · split at h
          · cases h
          · rw [BitVec.le_def]
            simp only [BitVec.reduceToNat]
            omega
      have h1 := State.modRegion_ok (t := r) (f := fun g => { g with tgt := tgt }) hs (fun g hg => regionOk_tgt hg ht)
      dsimp only
      split
      · exact h1
      · exact State.beginStep_ok h1 ht

theorem execDimmerStep_ok {r : Nat} {s : State} (hs : Ok cmds s) : Keeps cmds (execDimmerStep r s) := by
  unfold execDimmerStep
  refine keeps_next ?_
  dsimp only
  split
  · exact hs
  · refine State.raise_ok (State.clearCause_ok (State.modRegion_ok hs (fun g hg => ?_)))
    exact ⟨hg.goal_, hg.tgt_, hg.goal_⟩

theorem execThermalHold_ok {r : Nat} {us : BitVec 16} {s : State} (hs : Ok cmds s) : Keeps cmds (execThermalHold r us s) := by
  unfold execThermalHold
  repeat any_goals first
    | with_reducible assumption
    | with_reducible refine fun _ => ?_
    | ((try lift_lets); intro x; clear_value x)
    | with_reducible apply State.modRegion_ok
    | with_reducible apply State.raise_ok
    | with_reducible apply State.region_ok
    | with_reducible apply State.setCause_ok
    | with_reducible apply keeps_next
    | split

theorem execHoldEnd_ok {r : Nat} {s : State} (hs : Ok cmds s) : Keeps cmds (execHoldEnd r s) := by
  unfold execHoldEnd
  repeat any_goals first
    | with_reducible assumption
    | with_reducible apply State.clearCause_ok
    | with_reducible apply State.region_ok
    | with_reducible apply keeps_next
    | split

theorem execHoldBudget_ok {r : Nat} {s : State} (hs : Ok cmds s) : Keeps cmds (execHoldBudget r s) := by
  unfold execHoldBudget
  repeat any_goals first
    | with_reducible assumption
    | with_reducible refine fun _ => ?_
    | ((try lift_lets); intro x; refine keep_let (P := RegionOk x) ?_ (fun hx => ?_); rotate_left; clear_value x; rotate_right; unfold x; clear x)
    | ((try lift_lets); intro (x : _ → _); unfold x; clear x; try beta_reduce)
    | with_reducible apply State.clearCause_ok
    | with_reducible apply State.modRegion_ok
    | with_reducible apply State.raise_ok
    | with_reducible apply State.region_ok
    | with_reducible apply keeps_next
    | split

theorem State.sample_ok {s : State} {r : Nat} {temp : BitVec 8} (hs : Ok cmds s) : Ok cmds (State.sample s r temp) := by
  unfold State.sample
  repeat any_goals first
    | with_reducible assumption
    | with_reducible refine fun _ => ?_
    | ((try lift_lets); intro x; refine keep_let (P := Ok cmds x) ?_ (fun hx => ?_); rotate_left; clear_value x; rotate_right; unfold x; clear x)
    | ((try lift_lets); intro x; clear_value x)
    | with_reducible apply State.clearCause_ok
    | with_reducible apply State.excursions_ok
    | with_reducible apply State.modRegion_ok
    | with_reducible apply State.raise_ok
    | with_reducible apply State.setCause_ok
    | split

theorem execTemperatureSample_ok {temps : List (BitVec 8)} {s : State} (hs : Ok cmds s) : Keeps cmds (execTemperatureSample temps s) := by
  unfold execTemperatureSample
  repeat any_goals first
    | with_reducible assumption
    | with_reducible refine fun _ => ?_
    | with_reducible apply State.sample_ok
    | with_reducible apply ok_foldl
    | with_reducible apply ok_foldl_fst
    | with_reducible apply ok_foldl_snd
    | with_reducible apply keeps_next
    | split

theorem State.realign_ok {s : State} {r : Nat} (hs : Ok cmds s) : Ok cmds (State.realign s r) := by
  unfold State.realign
  repeat any_goals first
    | with_reducible assumption
    | with_reducible refine fun _ => ?_
    | ((try lift_lets); intro x; clear_value x)
    | with_reducible apply State.modRegion_ok
    | split

theorem State.restart_ok {s : State} {r : Nat} (hs : Ok cmds s) : Ok cmds (State.restart s r) := by
  unfold State.restart
  have h1 : Ok cmds (if r < 64 then s.endCycle r (s.cyc r) else s) := by
    split
    · exact State.endCycle_ok hs
    · exact hs
  have h3 : ∀ {x : State} {c : Nat}, Ok cmds x → Ok cmds (if r < 64 then x.beginCycle r c else x) := by
    intro x c h
    split
    · exact State.beginCycle_ok h
    · exact h
  have h4 : ∀ {x : State} {l : List Nat} {b : Nat}, Ok cmds x → Ok cmds (if r < 64 then x else l.foldl (fun acc n => acc.fireTimer b n) x) := by
    intro x l b h
    split
    · exact h
    · exact ok_foldl h (fun a n h => State.fireTimer_ok h)
  have h5 := h4 (l := (s.region r).timersHeld) (b := if r < 72 then r - 64 else r - 72) (h3 (c := s.cyc r + 1) (State.realign_ok (r := r)
    (State.modRegion_ok (t := r) (f := fun g => { g with
      stopAt := none, cyc := g.cyc + 1, frac := 0, net := g.net + 1, nfrac := 0
      since := (if r < 64 then s.endCycle r (s.cyc r) else s).now11
      total := satAdd g.total ((s.now11 - (s.region r).stopAt.getD s.now11) / 11), timersHeld := [], reached := false }) h1 (fun _ hg => hg))))
  exact State.startDeferred_ok h5

theorem execRegionRestart_ok {r : Nat} {s : State} (hs : Ok cmds s) : Keeps cmds (execRegionRestart r s) := by
  unfold execRegionRestart
  repeat any_goals first
    | with_reducible assumption
    | with_reducible refine fun _ => ?_
    | with_reducible apply State.region_ok
    | with_reducible apply State.restart_ok
    | with_reducible apply keeps_next
    | split

theorem execRefclkLost_ok {s : State} (hs : Ok cmds s) : Keeps cmds (execRefclkLost s) := by
  unfold execRefclkLost
  repeat any_goals first
    | with_reducible assumption
    | with_reducible refine fun _ => ?_
    | ((try lift_lets); intro (x : Pins); dsimp only [x]; clear x)
    | with_reducible apply State.excursions_ok
    | with_reducible apply State.raiseDev_ok
    | with_reducible apply keeps_next
    | split

theorem State.startAllDeferred_ok {s : State} (hs : Ok cmds s) : Ok cmds (State.startAllDeferred s) := by
  unfold State.startAllDeferred
  repeat any_goals first
    | with_reducible assumption
    | with_reducible apply State.startDeferred_ok
    | with_reducible apply ok_foldl

theorem execRefclkBack_ok {s : State} (hs : Ok cmds s) : Keeps cmds (execRefclkBack s) := by
  unfold execRefclkBack
  repeat any_goals first
    | with_reducible assumption
    | ((try lift_lets); intro (x : Pins); dsimp only [x]; clear x)
    | with_reducible apply State.raiseDev_ok
    | with_reducible apply State.startAllDeferred_ok
    | with_reducible apply keeps_next
    | split

theorem State.contain_ok {s : State} {t : Nat} (hs : Ok cmds s) : Ok cmds (State.contain s t) := by
  have h1 := State.setCause_ok (r := t) (c := causeFault) hs
  have h2 := ok_foldl h1 (l := (s.setCause t causeFault).tableCores t) (f := fun acc x => acc.modCore x.2 (fun c => { c with fills := [] }))
    (fun a x h => State.modCore_ok h (fun _ hc => hc))
  have h3 := State.modTable_ok (t := t) (f := fun b => { b with landing := [] }) h2 (fun _ hb => hb)
  exact ok_mem (s := _) h3 ⟨h2.hbm_, h2.ddr_, h2.shelf_, h2.shelfErr_, h2.ceSeen_, h2.spares_, h2.bad_, h2.refreshed_, h2.fired_, h2.firedNet_⟩

theorem State.setStat_ok {s : State} {t st spares repairs : Nat} {dlr : Bool} (hs : Ok cmds s) : Ok cmds (State.setStat s t st spares repairs dlr) := by
  unfold State.setStat
  repeat any_goals first
    | with_reducible assumption
    | with_reducible apply State.setTblStat_ok

theorem execCoreFailed_ok {t c : Nat} {chk : BitVec 2} {s : State} (hs : Ok cmds s) : Keeps cmds (execCoreFailed t c chk s) := by
  unfold execCoreFailed
  repeat any_goals first
    | with_reducible assumption
    | with_reducible refine fun _ => ?_
    | ((try lift_lets); intro x; refine keep_let (P := Ok cmds x) ?_ (fun hx => ?_); rotate_left; clear_value x; rotate_right; unfold x; clear x)
    | ((try lift_lets); intro x; clear_value x)
    | with_reducible apply Plan.table_ok
    | with_reducible apply State.abortJob_ok
    | with_reducible apply State.contain_ok
    | with_reducible apply State.modTable_ok
    | with_reducible apply State.raiseTable_ok
    | with_reducible apply State.setStat_ok
    | with_reducible apply State.table_ok
    | with_reducible apply keeps_next
    | split

theorem State.retire_ok {s : State} {t : Nat} {dlr : Bool} (hs : Ok cmds s) : Ok cmds (State.retire s t dlr) := by
  unfold State.retire
  repeat any_goals first
    | with_reducible assumption
    | with_reducible refine fun _ => ?_
    | ((try lift_lets); intro x; clear_value x)
    | with_reducible apply State.contain_ok
    | with_reducible apply State.modTable_ok
    | with_reducible apply State.setStat_ok

theorem execDlrFailed_ok {t : Nat} {chk : BitVec 2} {s : State} (hs : Ok cmds s) : Keeps cmds (execDlrFailed t chk s) := by
  have h1 : ∀ p, Ok cmds { s with log := s.log.unraise s.now11 p } := fun p => ok_log hs (EventLog.unraise_recs hs.logRecs_)
  unfold execDlrFailed
  refine keeps_next ?_
  split
  · exact hs
  · refine State.retire_ok ?_
    have h2 := fun p d => State.raiseTable_ok (t := t) (code := 0x1001) (cls := clsTable) (detail := d) (h1 p)
    split
    · exact State.abortJob_ok (h2 _ _)
    · exact h2 _ _

theorem State.substitute_ok {s : State} {t lc : Nat} {bad : List Nat} (hs : Ok cmds s) : Ok cmds (State.substitute s t lc bad) := by
  unfold State.substitute
  repeat any_goals first
    | with_reducible assumption
    | with_reducible refine fun _ => ?_
    | ((try lift_lets); intro x; refine keep_let (P := Ok cmds x) ?_ (fun hx => ?_); rotate_left; clear_value x; rotate_right; unfold x; clear x)
    | ((try lift_lets); intro x; clear_value x)
    | with_reducible apply Plan.table_ok
    | with_reducible apply State.clearCause_ok
    | with_reducible apply State.modTable_ok
    | with_reducible apply State.raise_ok
    | with_reducible apply State.retire_ok
    | with_reducible apply State.setPcore_ok
    | with_reducible apply State.setStat_ok
    | with_reducible apply State.table_ok
    | with_reducible apply ok_foldl
    | with_reducible apply SMap.wf_filter
    | split

theorem execSpareSubstitution_ok {t lc : Nat} {failed : List Nat} {s : State} (hs : Ok cmds s) : Keeps cmds (execSpareSubstitution t lc failed s) := by
  unfold execSpareSubstitution
  repeat any_goals first
    | with_reducible assumption
    | with_reducible apply Plan.table_ok
    | with_reducible apply State.substitute_ok
    | with_reducible apply State.table_ok
    | with_reducible apply keeps_next
    | split

theorem execBoundViolation_ok {j : Nat} {s : State} (hs : Ok cmds s) : Keeps cmds (execBoundViolation j s) := by
  unfold execBoundViolation
  repeat any_goals first
    | with_reducible assumption
    | with_reducible apply State.passBound_ok
    | with_reducible apply keeps_next
    | split

theorem execEvtTailWrite_ok {v : BitVec 32} {s : State} (hs : Ok cmds s) : Keeps cmds (execEvtTailWrite v s) := by
  unfold execEvtTailWrite
  repeat any_goals first
    | with_reducible assumption
    | ((try lift_lets); intro (x : EventLog); dsimp only [x]; clear x)
    | with_reducible apply keeps_next
    | split

end Sys2Proof.Machine
end

