-- ==== Sys2Proof/Laws/CanonBoot.lean ====
section
/-!
SUPPORT. Every operation of Machine/Nor.lean, Machine/Boot.lean keeps the canonical form.
-/
namespace Sys2Proof.Machine

variable {cmds : List Instr}

theorem wf_norStore (bs : List Byte) {m : SMap Byte} (a : Nat) (h : SMap.wf 0xFF m = true) : SMap.wf 0xFF (norStore m a bs) = true := by
  induction bs generalizing m a with
  | nil => exact h
  | cons b bs ih => exact ih _ (SMap.wf_set _ _ h)

theorem wf_norErase {m : SMap Byte} (a n : Nat) (h : SMap.wf 0xFF m = true) : SMap.wf 0xFF (norErase m a n) = true :=
  SMap.wf_clearRange _ _ h

theorem wf_placeAfter {m : SMap Byte} {l : Option Nat} (h : SMap.wf 0xFF m = true) : SMap.wf 0xFF (placeAfter m l).2 = true := by
  unfold placeAfter
  split
  · exact h
  · split
    · exact wf_norErase _ _ h
    · split
      · exact wf_norErase _ _ h
      · exact h

theorem wf_nextEntry {m : SMap Byte} (h : SMap.wf 0xFF m = true) : SMap.wf 0xFF (nextEntry m).2 = true := wf_placeAfter h

theorem wf_writeDirectory {m : SMap Byte} {d : Directory} (h : SMap.wf 0xFF m = true) : SMap.wf 0xFF (writeDirectory m d) = true :=
  wf_norStore _ _ (wf_norErase _ _ h)

/-- What a record set that has been read holds: canonical curves, and under a determinism scope a legal pin step (R120, R25). -/
def RecordSet.Sound (r : RecordSet) : Prop :=
  SMap.wf 0 r.recs.curve = true ∧ SMap.wf 0 r.recs.curveHdr = true ∧ (r.recs.scope = 0 ∨ r.recs.pin ≤ 5)

theorem of_guarded {α : Type} {c : Bool} {a b : α} (h : guarded c a = some b) : c = true ∧ a = b := of_ite_some h

theorem RecordSet.withCurve_sound {r : RecordSet} {c : SMap Word × SMap Word} (hr : r.Sound) (h1 : SMap.wf 0 c.1 = true)
    (h2 : SMap.wf 0 c.2 = true) : (r.withCurve c).Sound := ⟨h1, h2, hr.2.2⟩

theorem curveRecord_sound {r r' : RecordSet} {b : List Byte} (h : curveRecord r b = some r') (hr : r.Sound) : r'.Sound := by
  unfold curveRecord at h
  obtain ⟨_, rfl⟩ := of_guarded h
  exact RecordSet.withCurve_sound hr curveOf_ok.1 curveOf_ok.2

theorem takeRecord_sound {r r' : RecordSet} {x : Nat × List Byte} (h : takeRecord r x = some r') (hr : r.Sound) : r'.Sound := by
  unfold takeRecord at h
  split at h
  · obtain ⟨_, rfl⟩ := of_guarded h; exact hr
  · obtain ⟨_, rfl⟩ := of_guarded h; exact hr
  · obtain ⟨hc, rfl⟩ := of_guarded h
    refine ⟨hr.1, hr.2.1, ?_⟩
    simp only [Bool.and_eq_true, Bool.or_eq_true, beq_iff_eq, decide_eq_true_eq] at hc
    rcases hc.1.1.1.2 with h0 | h1
    · exact .inl (by simp [h0])
    · refine .inr ?_
      rw [BitVec.le_def]
      have := h1.1.1
      simp only [BitVec.toNat_ofNat, BitVec.reduceToNat]
      omega
  · unfold fabricRecord at h
    dsimp only at h
    split at h
    · cases h
    · split at h
      · split at h
        · cases h
        · cases h; exact hr
      · cases h
  · obtain ⟨_, rfl⟩ := of_guarded h; exact hr
  · unfold timerRecord at h
    dsimp only at h
    split at h
    · cases h
    · obtain ⟨_, rfl⟩ := of_guarded h; exact hr
  · exact curveRecord_sound h hr
  · obtain ⟨_, rfl⟩ := of_guarded h; exact hr
  · obtain ⟨_, rfl⟩ := of_guarded h; exact hr
  · cases h

theorem foldlM_sound {l : List (Nat × List Byte)} {r r' : RecordSet} (h : l.foldlM takeRecord r = some r') (hr : r.Sound) : r'.Sound := by
  induction l generalizing r with
  | nil => cases h; exact hr
  | cons x l ih =>
    rw [List.foldlM_cons] at h
    cases hx : takeRecord r x with
    | none => rw [hx] at h; cases h
    | some r1 => rw [hx] at h; exact ih h (takeRecord_sound hx hr)

theorem readRecordSet_sound {dep : Bool} {p : List Byte} {r : RecordSet} (h : readRecordSet dep p = some r) : r.Sound := by
  unfold readRecordSet at h
  split at h
  · cases h
  · split at h
    · cases h
    · exact foldlM_sound h ⟨rfl, rfl, .inl rfl⟩

theorem State.readRecordCopy_sound {s : State} {c : Bool} {x : Signed × RecordSet} (h : s.readRecordCopy c = some x) : x.2.Sound := by
  unfold State.readRecordCopy at h
  obtain ⟨o, _, h⟩ := Option.bind_eq_some_iff.1 h
  obtain ⟨r, hr, rfl⟩ := Option.map_eq_some_iff.1 h
  exact readRecordSet_sound hr

theorem State.enterReset_ok {s : State} {warm : Bool} (hs : Ok cmds s) : Ok cmds (State.enterReset s warm) := by
  have hm : SMap.wf 0 (endRepairs s.fuses.tblStat) = true := by
    refine SMap.wf_mapFilter (fun v => if field v 1 0 = 1 then v &&& 0x1FC else v) _ (by simp) hs.tblStat_
  have h := ok_reset
  exact { h with
    pending_ := hs.pending_, lmap_ := hs.lmap_, pcore_ := hs.pcore_, tblStat_ := hm, keyHash_ := hs.keyHash_, life_ := hs.life_, few_ := hs.few_, nor_ := hs.nor_, ddr_ := hs.ddr_ }

theorem execResetRelease_ok {s : State} (hs : Ok cmds s) : Keeps cmds (execResetRelease s) := by
  unfold execResetRelease
  repeat any_goals first
    | with_reducible assumption
    | ((try lift_lets); intro x; refine keep_let (P := Ok cmds x) ?_ (fun hx => ?_); rotate_left; clear_value x; rotate_right; unfold x; clear x)
    | ((try lift_lets); intro (x : Pins); dsimp only [x]; clear x)
    | ((try lift_lets); intro x; clear_value x)
    | with_reducible apply State.enterReset_ok
    | with_reducible apply keeps_next
    | split

theorem execNrst_ok {lowNs : Nat} {s : State} (hs : Ok cmds s) : Keeps cmds (execNrst lowNs s) := by
  unfold execNrst
  repeat any_goals first
    | with_reducible assumption
    | ((try lift_lets); intro x; refine keep_let (P := Ok cmds x.2) ?_ (fun hx => ?_); rotate_left; clear_value x; rotate_right; unfold x; clear x)
    | ((try lift_lets); intro x; clear_value x)
    | with_reducible apply State.enterReset_ok
    | with_reducible apply State.takeFree_ok
    | with_reducible apply keeps_next
    | split

theorem execMgtReset_ok {half : Bool} {val : BitVec 32} {s : State} (hs : Ok cmds s) : Keeps cmds (execMgtReset half val s) := by
  unfold execMgtReset
  repeat any_goals first
    | with_reducible assumption
    | with_reducible apply State.enterReset_ok
    | with_reducible apply keeps_next
    | split

theorem execPowerLoss_ok {mv ma us : Nat} {s : State} (hs : Ok cmds s) : Keeps cmds (execPowerLoss mv ma us s) := by
  unfold execPowerLoss
  refine keeps_next ?_
  split
  · have h := State.enterReset_ok (s := { s with pins := { s.pins with powered := false } }) (warm := false) hs
    exact ok_ddr (s := { State.enterReset _ false with pins := _ }) h rfl
  · exact hs

theorem execPwrRange_ok {mv us : Nat} {s : State} (hs : Ok cmds s) : Keeps cmds (execPwrRange mv us s) := by
  unfold execPwrRange
  repeat any_goals first
    | with_reducible assumption
    | with_reducible refine fun _ => ?_
    | ((try lift_lets); intro (x : Pins); dsimp only [x]; clear x)
    | with_reducible apply State.excursions_ok
    | with_reducible apply State.raiseDev_ok
    | with_reducible apply keeps_next
    | split

theorem execPwrOverlimit_ok {mv ma w : BitVec 16} {s : State} (hs : Ok cmds s) : Keeps cmds (execPwrOverlimit mv ma w s) := by
  unfold execPwrOverlimit
  repeat any_goals first
    | with_reducible assumption
    | with_reducible refine fun _ => ?_
    | ((try lift_lets); intro (x : Pins); dsimp only [x]; clear x)
    | ((try lift_lets); intro x; clear_value x)
    | with_reducible apply State.raiseDev_ok
    | with_reducible apply keeps_next
    | split

theorem execFlickerHealth_ok {die test : Bool} {s : State} (hs : Ok cmds s) : Keeps cmds (execFlickerHealth die test s) := by
  unfold execFlickerHealth
  repeat any_goals first
    | with_reducible assumption
    | ((try lift_lets); intro (x : Mgt); dsimp only [x]; clear x)
    | ((try lift_lets); intro x; clear_value x)
    | with_reducible apply State.raiseDev_ok
    | with_reducible apply keeps_next
    | split

theorem State.makeIdentity_ok {s : State} (hs : Ok cmds s) : Ok cmds (State.makeIdentity s) := by
  unfold State.makeIdentity
  repeat any_goals first
    | with_reducible assumption
    | ((try lift_lets); intro x; refine keep_let (P := Ok cmds x.2) ?_ (fun hx => ?_); rotate_left; clear_value x; rotate_right; unfold x; clear x)
    | with_reducible apply State.takeFrees_ok

theorem State.executeCommand_ok {s : State} {c : LifeCommand} (hs : Ok cmds s) (ht : c.op ≠ 2 → c.target ≤ 4) : Ok cmds (State.executeCommand s c) := by
  unfold State.executeCommand
  split
  · exact hs
  · next h2 =>
    have hl : BitVec.ofNat 3 c.target ≤ 4 := by
      have := ht h2
      rw [BitVec.le_def]
      simp only [BitVec.toNat_ofNat, BitVec.reduceToNat]
      omega
    have h1 : Ok cmds { s with fuses := { s.fuses with life := BitVec.ofNat 3 c.target } } := ok_life hs hl
    have erase : SMap.wf 0xFF (eraseRecords s.nor) = true := wf_norErase _ _ (wf_norErase _ _ hs.nor_)
    dsimp only
    split
    · exact State.makeIdentity_ok h1
    · refine ok_fuses hs ?_
      exact foldl_keeps (P := fun f : Fuses => f.Canonical) h1.fuses (fun f i hf => by
        dsimp only
        split
        · exact hf
        · exact { hf with keyHash := SMap.wf_set _ _ hf.keyHash })
    · exact ok_nor h1 erase
    · exact h1
    · exact ok_nor (s := { s with fuses := { s.fuses with life := _, identity := _ } }) h1 erase
    · exact h1

theorem State.lifeCycle_ok {s : State} (hs : Ok cmds s) : Ok cmds (State.lifeCycle s).1 := by
  unfold State.lifeCycle
  split
  · exact hs
  · next c _ =>
    have h1 : Ok cmds (match s.commandRefusal c with
        | some cause => ((s, [Ev.mk 0x3303 clsNote none none none (c.detail s.fuses.life.toNat cause)]) : State × List Ev)
        | none => ((s.executeCommand c).raiseDev 0x3302 clsNote (c.detail s.fuses.life.toNat 0), [])).1 := by
      split
      · exact hs
      · next h =>
        refine State.raiseDev_ok (State.executeCommand_ok hs (fun h2 => ?_))
        unfold State.commandRefusal at h
        split at h
        · cases h
        · split at h
          · cases h
          · split at h
            · cases h
            · split at h
              · cases h
              · next hp =>
                have hp := Classical.not_not.1 hp
                unfold LifeCommand.permitted at hp
                split at hp
                · unfold transitionOk at hp
                  dsimp only at hp
                  split at hp <;> first | omega | (rename_i h3; omega) | cases hp
                · exact absurd (by assumption) h2
                · cases hp
    exact ok_nor h1 (wf_norErase _ _ h1.nor_)

theorem State.setStage_ok {s : State} {stage fail : Nat} (hs : Ok cmds s) : Ok cmds (State.setStage s stage fail) := by
  unfold State.setStage
  repeat any_goals first
    | with_reducible assumption

theorem State.bootBit_ok {s : State} {i : Nat} {v : Bool} (hs : Ok cmds s) : Ok cmds (State.bootBit s i v) := by
  unfold State.bootBit
  repeat any_goals first
    | with_reducible assumption
    | ((try lift_lets); intro (x : Mgt); dsimp only [x]; clear x)
    | split

theorem State.pick_ok {α : Type} {s : State} {d : Directory} {kind : Nat} {read : Bool → Option α}
    {x : α × Directory × List Ev × State} (hs : Ok cmds s) (h : s.pick d kind read = some x) :
    Ok cmds x.2.2.2 ∧ ∃ c, read c = some x.1 := by
  unfold State.pick at h
  dsimp only at h
  split at h
  · next hr => cases h; exact ⟨State.bootBit_ok hs, _, hr⟩
  · obtain ⟨y, hy, rfl⟩ := Option.map_eq_some_iff.1 h
    exact ⟨State.bootBit_ok (State.bootBit_ok (ok_nor hs (wf_writeDirectory hs.nor_))), _, hy⟩

theorem State.recordPowerOn_ok {s : State} {count : Nat} {p : Nat × SMap Byte} (hs : Ok cmds s) (hp : SMap.wf 0xFF p.2 = true) : Ok cmds (State.recordPowerOn s count p) := by
  unfold State.recordPowerOn
  have h1 : ∀ {bs : List Byte} {a n : Nat} {q : Pins} {w : Word}, Ok cmds { s with
      nor := norStore p.2 a bs, pon := w, pins := q, fuses := { s.fuses with svn := n, svnDue := 0 } } :=
    { hs with nor_ := wf_norStore _ _ hp }
  dsimp only
  split
  · exact State.raiseDev_ok h1
  · exact h1

theorem ok_ite_fst {β : Type} {c : Prop} [Decidable c] {a b : State × β} (ha : Ok cmds a.1) (hb : Ok cmds b.1) : Ok cmds (if c then a else b).1 := by
  by_cases h : c
  · rw [if_pos h]; exact ha
  · rw [if_neg h]; exact hb

theorem of_some_fst {α β : Type} {P : α → Prop} {c : Bool} {a : α} {b : β} {x : α × β}
    (h : (if c = true then none else some (a, b)) = some x) (ha : P a) : P x.1 := by
  cases c
  · cases h; exact ha
  · cases h

theorem State.countPowerOn_ok {s : State} {ok : Bool} {x : State × Nat} (hs : Ok cmds s) (h : s.countPowerOn ok = some x) : Ok cmds x.1 :=
  of_some_fst (P := fun x : State => Ok cmds x) (a := s.recordPowerOn (nextCount s.nor) (nextEntry s.nor)) h
    (State.recordPowerOn_ok hs (wf_nextEntry hs.nor_))

theorem State.startFirmware_ok {s : State} {f : Signed} (hs : Ok cmds s) : Ok cmds (State.startFirmware s f) := by
  unfold State.startFirmware
  repeat any_goals first
    | with_reducible assumption

theorem curveCores_ok {curve hdr : SMap Word} (h1 : SMap.wf 0 curve = true) (h2 : SMap.wf 0 hdr = true) :
    SMap.wf Core.reset (curveCores curve hdr) = true ∧ ∀ k, (SMap.get Core.reset (curveCores curve hdr) k).Canonical := by
  have hc : CoreOk { Core.reset with curve := curve, curveHdr := hdr } := coreOk_curve_curveHdr coreOk_reset h1 h2
  unfold curveCores
  dsimp only
  split
  · exact ⟨rfl, fun _ => coreOk_reset.canonical⟩
  · next h =>
    rw [List.range_eq_range']
    exact ⟨wf_ranged h _ _, get_ranged (P := fun c : Core => c.Canonical) coreOk_reset.canonical hc.canonical _⟩

theorem State.applyRecords_ok {s : State} {o : Signed} {r : RecordSet} (hs : Ok cmds s) (hr : r.Sound) : Ok cmds (State.applyRecords s o r) := by
  unfold State.applyRecords
  have hp : (if r.recs.scope = 0 then 0 else r.recs.pin) ≤ 5 := by
    split
    · simp [BitVec.le_def]
    · next h => exact hr.2.2.resolve_left h
  have hc := curveCores_ok hr.1 hr.2.1
  have h1 : Ok cmds { s with
      recs := r.recs
      fslots := SMap.setAll 0 [] r.transit
      routes := SMap.setAll 0 [] (r.routes.zipIdx.map (fun x => (x.2, BitVec.ofNat 5 x.1 ^^^ 0x1F)))
      cores := curveCores r.recs.curve r.recs.curveHdr
      ports := SMap.setAll Port.reset [] ((r.recs.fabric.ports.filter (fun kv => kv.2.1)).map (fun kv => (kv.1, { Port.reset with state := 1 })))
      host := { s.host with mode := r.recs.fabric.hmode, lanes := 0xFF, link := true }
      mgt := { s.mgt with recDigest := o.digest } } :=
    { hs with
      recCurve_ := hr.1, recHdr_ := hr.2.1, fslots_ := SMap.wf_setAll _ (SMap.wf_nil _), routes_ := SMap.wf_setAll _ (SMap.wf_nil _)
      cores_ := hc, ports_ := SMap.wf_setAll _ (SMap.wf_nil _) }
  have h2 := ok_foldl h1 (l := List.range 64) (f := fun acc t => acc.setCsr (chnReg t 0x900) (BitVec.ofNat 32 r.recs.stallTo))
    (fun a t h => State.setCsr_ok h)
  dsimp only
  generalize (if r.recs.scope = 0 then 0 else r.recs.pin) = p at hp ⊢
  split
  · exact h2
  · exact ok_foldl h2 (fun a t h => State.modRegion_ok h (fun g hg => regionOk_step_tgt hg hp hp))

theorem State.trainFar_ok {s : State} {b : BootInput} (hs : Ok cmds s) : Ok cmds (State.trainFar s b) := by
  unfold State.trainFar
  repeat any_goals first
    | with_reducible assumption
    | with_reducible refine fun _ => ?_
    | ((try lift_lets); intro x; refine keep_let (P := Ok cmds x) ?_ (fun hx => ?_); rotate_left; clear_value x; rotate_right; unfold x; clear x)
    | ((try lift_lets); intro (x : MemSys); dsimp only [x]; clear x)
    | ((try lift_lets); intro (x : SMap _); unfold x; clear x)
    | ((try lift_lets); intro x; clear_value x)
    | with_reducible apply State.raiseDev_ok
    | with_reducible apply ok_foldl
    | with_reducible apply ok_foldl_fst
    | with_reducible apply ok_foldl_snd
    | with_reducible apply SMap.wf_filter
    | split

theorem State.wipe_ok {s : State} {keep : Bool} (hs : Ok cmds s) : Ok cmds (State.wipe s keep) := by
  unfold State.wipe
  repeat any_goals first
    | with_reducible assumption
    | ((try lift_lets); intro (x : MemSys); dsimp only [x]; clear x)
    | with_reducible apply State.bootBit_ok
    | with_reducible apply State.raiseDev_ok
    | (with_reducible refine ok_hbm_ddr_shelf (by with_reducible assumption) ?_ ?_ ?_)
    | with_reducible exact SMap.wf_nil _
    | (with_reducible exact SParts.hbm_ (by with_reducible assumption))
    | (with_reducible exact SParts.ddr_ (by with_reducible assumption))
    | (with_reducible exact SParts.shelf_ (by with_reducible assumption))
    | split

theorem State.selfTest_ok {s : State} {bad : List (Nat × Nat)} (hs : Ok cmds s) : Ok cmds (State.selfTest s bad) := by
  unfold State.selfTest
  repeat any_goals first
    | with_reducible assumption
    | with_reducible refine fun _ => ?_
    | ((try lift_lets); intro x; refine keep_let (P := Ok cmds x) ?_ (fun hx => ?_); rotate_left; clear_value x; rotate_right; unfold x; clear x)
    | ((try lift_lets); intro (x : _ → _); unfold x; clear x; try beta_reduce)
    | ((try lift_lets); intro x; clear_value x)
    | with_reducible apply State.modRegion_ok
    | with_reducible apply State.setPcore_ok
    | with_reducible apply State.setStat_ok
    | with_reducible apply State.substitute_ok
    | with_reducible apply ok_foldl
    | with_reducible apply ok_foldl_fst
    | with_reducible apply ok_foldl_snd
    | with_reducible exact SMap.wf_nil _
    | split

theorem State.beginRounds_ok {s : State} (hs : Ok cmds s) : Ok cmds (State.beginRounds s) := by
  unfold State.beginRounds
  repeat any_goals first
    | with_reducible assumption
    | with_reducible refine fun _ => ?_
    | ((try lift_lets); intro x; refine keep_let (P := Ok cmds x) ?_ (fun hx => ?_); rotate_left; clear_value x; rotate_right; unfold x; clear x)
    | ((try lift_lets); intro x; clear_value x)
    | with_reducible apply State.modRegion_ok
    | with_reducible apply ok_foldl
    | split

theorem State.becomeReady_ok {s : State} (hs : Ok cmds s) : Ok cmds (State.becomeReady s) := by
  unfold State.becomeReady
  repeat any_goals first
    | with_reducible assumption
    | with_reducible refine fun _ => ?_
    | ((try lift_lets); intro x; refine keep_let (P := Ok cmds x) ?_ (fun hx => ?_); rotate_left; clear_value x; rotate_right; unfold x; clear x)
    | ((try lift_lets); intro (x : Mgt); dsimp only [x]; clear x)
    | ((try lift_lets); intro x; clear_value x)
    | with_reducible apply State.leadAlone_ok
    | with_reducible apply State.lead_ok
    | with_reducible apply State.modQp_ok
    | with_reducible apply State.setStage_ok
    | split

theorem State.bootRecords_ok {s : State} {b : BootInput} {f o : Signed} {r : RecordSet} {last : Option PonEntry} {at_ : Nat} (hs : Ok cmds s) (hr : r.Sound) : Ok cmds (State.bootRecords s b f o r last at_) := by
  unfold State.bootRecords
  have h0 := State.applyRecords_ok (o := o) hs hr
  have h1 : Ok cmds (if b.hostLanes = 0xFF then s.applyRecords o r else
      (List.range 8).foldl (fun acc k => if b.hostLanes.getLsbD k then acc else acc.loseHostLane (BitVec.ofNat 3 k) 1) (s.applyRecords o r)) := by
    split
    · exact h0
    · refine ok_foldl h0 (fun a k h => ?_)
      split
      · exact h
      · exact State.loseHostLane_ok h
  dsimp only
  split
  · exact State.setStage_ok h1
  · have h2 := State.trainFar_ok (b := b) h1
    generalize State.trainFar _ b = t at h2 ⊢
    have h3 : ∀ {k : Bool} {p : List Byte} {m : Mgt}, Ok cmds ((((State.wipe { t with
        nor := norStore t.nor (ponArea + 16 * at_ + 9) p, mgt := m } k).selfTest b.coresBad).beginRounds).becomeReady) :=
      State.becomeReady_ok (State.beginRounds_ok (State.selfTest_ok (State.wipe_ok { h2 with nor_ := wf_norStore _ _ h2.nor_ })))
    split
    · exact h3
    · exact h3

theorem State.bootFrom_ok {s : State} {b : BootInput} {d : Directory} {evs : List Ev} (hs : Ok cmds s) : Ok cmds (State.bootFrom s b d evs) := by
  unfold State.bootFrom
  split
  · exact State.setStage_ok hs
  · next h1 =>
    have h1 := State.pick_ok hs h1
    split
    · exact State.setStage_ok h1.1
    · next h2 =>
      have h2 := State.pick_ok h1.1 h2
      obtain ⟨c, hc⟩ := h2.2
      dsimp only
      split
      · exact State.setStage_ok h2.1
      · next h3 =>
        exact State.bootRecords_ok (ok_foldl (State.startFirmware_ok (State.countPowerOn_ok h2.1 h3)) (fun a e h => State.raise_ok h))
          (State.readRecordCopy_sound hc)

theorem execBoot_ok {b : BootInput} {s : State} (hs : Ok cmds s) : Keeps cmds (execBoot b s) := by
  unfold execBoot
  refine keeps_next ?_
  split
  · exact hs
  · have hs' : Ok cmds { s with pins := { s.pins with refPresent := !s.pins.holdover } } := hs
    dsimp only
    split
    · exact State.setStage_ok hs'
    · split
      · exact State.setStage_ok (State.lifeCycle_ok hs')
      · exact State.bootFrom_ok (State.lifeCycle_ok hs')

theorem execLifeCycleCommand_ok {cmd : List Byte} {s : State} (hs : Ok cmds s) : Keeps cmds (execLifeCycleCommand cmd s) := by
  unfold execLifeCycleCommand
  refine keeps_next ?_
  split
  · exact hs
  · exact ok_nor hs (wf_norStore _ _ (wf_norErase _ _ hs.nor_))

theorem State.rewriteDirectory_ok {s : State} {f : BitVec 8 → BitVec 8} (hs : Ok cmds s) : Ok cmds (State.rewriteDirectory s f) := by
  unfold State.rewriteDirectory
  split
  · exact hs
  · exact ok_nor hs (wf_writeDirectory hs.nor_)

theorem execRecordStaging_ok {img : List Byte} {s : State} (hs : Ok cmds s) : Keeps cmds (execRecordStaging img s) := by
  unfold execRecordStaging
  refine keeps_next ?_
  split
  · exact hs
  · have h1 : ∀ {a n : Nat} {bs : List Byte}, Ok cmds { s with nor := norStore (norErase s.nor a n) a bs } :=
      ok_nor hs (wf_norStore _ _ (wf_norErase _ _ hs.nor_))
    dsimp only
    split
    · exact State.rewriteDirectory_ok h1
    · exact h1

end Sys2Proof.Machine
end

