-- ==== Sys2Proof/Laws/CanonMgt.lean ====
section
/-!
SUPPORT. Every operation of Machine/Spdm.lean, Machine/Halves.lean, Machine/Pins.lean, Machine/Regs.lean keeps the canonical form.
-/
namespace Sys2Proof.Machine

variable {cmds : List Instr}

theorem State.modCon_ok {s : State} {host : Bool} {f : SpdmCon → SpdmCon} (hs : Ok cmds s) : Ok cmds (State.modCon s host f) := by
  unfold State.modCon
  repeat any_goals first
    | with_reducible assumption
    | with_reducible apply hf
    | ((try lift_lets); intro (x : Mgt); dsimp only [x]; clear x)
    | split

theorem State.sign_ok {s : State} {use msgs : List Byte} (hs : Ok cmds s) : Ok cmds (State.sign s use msgs).2 := by
  unfold State.sign
  repeat any_goals first
    | with_reducible assumption
    | ((try lift_lets); intro x; refine keep_let (P := Ok cmds x.2) ?_ (fun hx => ?_); rotate_left; clear_value x; rotate_right; unfold x; clear x)
    | with_reducible apply State.takeFrees_ok

theorem State.spdmVersion_ok {s : State} {host : Bool} {m : List Byte} (hs : Ok cmds s) : Ok cmds (State.spdmVersion s host m).1 := by
  unfold State.spdmVersion
  repeat any_goals first
    | with_reducible assumption
    | with_reducible refine fun _ => ?_
    | ((try lift_lets); intro x; clear_value x)
    | with_reducible apply State.modCon_ok

theorem State.spdmCapabilities_ok {s : State} {host : Bool} {m : List Byte} (hs : Ok cmds s) : Ok cmds (State.spdmCapabilities s host m).1 := by
  unfold State.spdmCapabilities
  repeat any_goals first
    | with_reducible assumption
    | with_reducible refine fun _ => ?_
    | ((try lift_lets); intro x; clear_value x)
    | with_reducible apply State.modCon_ok

theorem State.spdmAlgorithms_ok {s : State} {host : Bool} {m : List Byte} (hs : Ok cmds s) : Ok cmds (State.spdmAlgorithms s host m).1 := by
  unfold State.spdmAlgorithms
  repeat any_goals first
    | with_reducible assumption
    | with_reducible refine fun _ => ?_
    | ((try lift_lets); intro x; clear_value x)
    | with_reducible apply State.modCon_ok
    | split

theorem State.spdmDigests_ok {s : State} {host : Bool} {m : List Byte} (hs : Ok cmds s) : Ok cmds (State.spdmDigests s host m).1 := by
  unfold State.spdmDigests
  repeat any_goals first
    | with_reducible assumption
    | with_reducible refine fun _ => ?_
    | ((try lift_lets); intro x; clear_value x)
    | with_reducible apply State.modCon_ok

theorem State.spdmCertificate_ok {s : State} {host : Bool} {m : List Byte} (hs : Ok cmds s) : Ok cmds (State.spdmCertificate s host m).1 := by
  unfold State.spdmCertificate
  repeat any_goals first
    | with_reducible assumption
    | with_reducible refine fun _ => ?_
    | ((try lift_lets); intro x; clear_value x)
    | with_reducible apply State.modCon_ok
    | split

theorem State.spdmMeasurements_ok {s : State} {host : Bool} {m : List Byte} (hs : Ok cmds s) : Ok cmds (State.spdmMeasurements s host m).1 := by
  unfold State.spdmMeasurements
  repeat any_goals first
    | with_reducible assumption
    | with_reducible refine fun _ => ?_
    | ((try lift_lets); intro x; refine keep_let (P := Ok cmds x.2) ?_ (fun hx => ?_); rotate_left; clear_value x; rotate_right; unfold x; clear x)
    | ((try lift_lets); intro x; clear_value x)
    | with_reducible apply State.modCon_ok
    | with_reducible apply State.sign_ok
    | with_reducible apply State.takeFrees_ok
    | with_reducible exact SMap.wf_nil _
    | split

theorem State.spdmChallenge_ok {s : State} {host : Bool} {m : List Byte} (hs : Ok cmds s) : Ok cmds (State.spdmChallenge s host m).1 := by
  unfold State.spdmChallenge
  repeat any_goals first
    | with_reducible assumption
    | with_reducible refine fun _ => ?_
    | ((try lift_lets); intro x; refine keep_let (P := Ok cmds x.2) ?_ (fun hx => ?_); rotate_left; clear_value x; rotate_right; unfold x; clear x)
    | ((try lift_lets); intro x; clear_value x)
    | with_reducible apply State.modCon_ok
    | with_reducible apply State.sign_ok
    | with_reducible apply State.takeFrees_ok
    | with_reducible exact SMap.wf_nil _
    | split

theorem State.spdmCsr_ok {s : State} (hs : Ok cmds s) : Ok cmds (State.spdmCsr s).1 := by
  unfold State.spdmCsr
  repeat any_goals first
    | with_reducible assumption
    | ((try lift_lets); intro x; refine keep_let (P := Ok cmds x.2) ?_ (fun hx => ?_); rotate_left; clear_value x; rotate_right; unfold x; clear x)
    | with_reducible apply State.takeFrees_ok

theorem State.spdmSetCertificate_ok {s : State} {m : List Byte} (hs : Ok cmds s) : Ok cmds (State.spdmSetCertificate s m).1 := by
  unfold State.spdmSetCertificate
  dsimp only
  split
  · exact hs
  · split
    · exact hs
    · exact ok_nor (s := { s with mgt := _ }) hs (wf_norStore _ _ (wf_norErase _ _ hs.nor_))

theorem State.spdmRespond_ok {s : State} {host : Bool} {m : List Byte} (hs : Ok cmds s) : Ok cmds (State.spdmRespond s host m).1 := by
  unfold State.spdmRespond
  exact ok_ite_fst hs (ok_ite_fst (State.spdmVersion_ok hs) (ok_ite_fst hs (ok_ite_fst hs (ok_ite_fst (State.spdmCapabilities_ok hs)
    (ok_ite_fst (State.spdmAlgorithms_ok hs) (ok_ite_fst hs (ok_ite_fst (State.spdmDigests_ok hs) (ok_ite_fst (State.spdmCertificate_ok hs)
    (ok_ite_fst (State.spdmChallenge_ok hs) (ok_ite_fst (State.spdmMeasurements_ok hs) (ok_ite_fst (State.spdmCsr_ok hs)
    (State.spdmSetCertificate_ok hs))))))))))))

theorem State.attestFrame_ok {s : State} {f : HostFrame} (hs : Ok cmds s) : Ok cmds (State.attestFrame s f) := by
  unfold State.attestFrame
  repeat any_goals first
    | with_reducible assumption
    | ((try lift_lets); intro x; refine keep_let (P := Ok cmds x.1) ?_ (fun hx => ?_); rotate_left; clear_value x; rotate_right; unfold x; clear x)
    | with_reducible apply State.answer_ok
    | with_reducible apply State.refuse_ok
    | with_reducible apply State.spdmRespond_ok
    | with_reducible exact SMap.wf_nil _
    | split

theorem State.mctpRequest_ok {s : State} {m : List Byte} (hs : Ok cmds s) : Ok cmds (State.mctpRequest s m) := by
  unfold State.mctpRequest
  repeat any_goals first
    | with_reducible assumption
    | ((try lift_lets); intro x; refine keep_let (P := Ok cmds x.1) ?_ (fun hx => ?_); rotate_left; clear_value x; rotate_right; unfold x; clear x)
    | with_reducible apply State.spdmRespond_ok

theorem State.spdm_ok {s : State} {i : Instr} {q : SpdmReq} (hs : Ok cmds s) : Ok cmds (State.spdm s i q) := by
  unfold State.spdm
  repeat any_goals first
    | with_reducible assumption
    | with_reducible refine fun _ => ?_
    | ((try lift_lets); intro (x : HostPort); dsimp only [x]; clear x)
    | with_reducible apply State.attestFrame_ok
    | with_reducible apply State.hostFrame_ok
    | with_reducible apply State.mctpRequest_ok
    | split

theorem State.spdmRow_ok {s : State} {i : Instr} {q : SpdmReq} {code : Nat} (hs : Ok cmds s) : Ok cmds (State.spdmRow s i q code) := by
  unfold State.spdmRow
  repeat any_goals first
    | with_reducible assumption
    | with_reducible apply State.spdm_ok
    | split

theorem execGetVersion_ok {q : SpdmReq} {s : State} (hs : Ok cmds s) : Keeps cmds (execGetVersion q s) := by
  unfold execGetVersion
  repeat any_goals first
    | with_reducible assumption
    | with_reducible apply State.spdmRow_ok
    | with_reducible apply keeps_next

theorem execGetCapabilities_ok {q : SpdmReq} {s : State} (hs : Ok cmds s) : Keeps cmds (execGetCapabilities q s) := by
  unfold execGetCapabilities
  repeat any_goals first
    | with_reducible assumption
    | with_reducible apply State.spdmRow_ok
    | with_reducible apply keeps_next

theorem execNegotiateAlgorithms_ok {q : SpdmReq} {s : State} (hs : Ok cmds s) : Keeps cmds (execNegotiateAlgorithms q s) := by
  unfold execNegotiateAlgorithms
  repeat any_goals first
    | with_reducible assumption
    | with_reducible apply State.spdmRow_ok
    | with_reducible apply keeps_next

theorem execGetDigests_ok {q : SpdmReq} {s : State} (hs : Ok cmds s) : Keeps cmds (execGetDigests q s) := by
  unfold execGetDigests
  repeat any_goals first
    | with_reducible assumption
    | with_reducible apply State.spdmRow_ok
    | with_reducible apply keeps_next

theorem execGetCertificate_ok {q : SpdmReq} {s : State} (hs : Ok cmds s) : Keeps cmds (execGetCertificate q s) := by
  unfold execGetCertificate
  repeat any_goals first
    | with_reducible assumption
    | with_reducible apply State.spdmRow_ok
    | with_reducible apply keeps_next

theorem execChallenge_ok {q : SpdmReq} {s : State} (hs : Ok cmds s) : Keeps cmds (execChallenge q s) := by
  unfold execChallenge
  repeat any_goals first
    | with_reducible assumption
    | with_reducible apply State.spdmRow_ok
    | with_reducible apply keeps_next

theorem execGetMeasurements_ok {q : SpdmReq} {s : State} (hs : Ok cmds s) : Keeps cmds (execGetMeasurements q s) := by
  unfold execGetMeasurements
  repeat any_goals first
    | with_reducible assumption
    | with_reducible apply State.spdmRow_ok
    | with_reducible apply keeps_next

theorem execGetCsr_ok {q : SpdmReq} {s : State} (hs : Ok cmds s) : Keeps cmds (execGetCsr q s) := by
  unfold execGetCsr
  repeat any_goals first
    | with_reducible assumption
    | with_reducible apply State.spdmRow_ok
    | with_reducible apply keeps_next

theorem execSetCertificate_ok {q : SpdmReq} {s : State} (hs : Ok cmds s) : Keeps cmds (execSetCertificate q s) := by
  unfold execSetCertificate
  repeat any_goals first
    | with_reducible assumption
    | with_reducible apply State.spdmRow_ok
    | with_reducible apply keeps_next

theorem execUnsupportedRequest_ok {q : SpdmReq} {s : State} (hs : Ok cmds s) : Keeps cmds (execUnsupportedRequest q s) := by
  unfold execUnsupportedRequest
  repeat any_goals first
    | with_reducible assumption
    | with_reducible apply State.spdm_ok
    | with_reducible apply keeps_next
    | split

theorem State.modHalf_ok {s : State} {h : Bool} {f : Half → Half} (hs : Ok cmds s) : Ok cmds (State.modHalf s h f) := by
  unfold State.modHalf
  repeat any_goals first
    | with_reducible assumption
    | with_reducible apply hf
    | ((try lift_lets); intro (x : Mgt); dsimp only [x]; clear x)
    | split

theorem execHalfUnhealthy_ok {half watchdog : Bool} {s : State} (hs : Ok cmds s) : Keeps cmds (execHalfUnhealthy half watchdog s) := by
  unfold execHalfUnhealthy
  repeat any_goals first
    | with_reducible assumption
    | with_reducible refine fun _ => ?_
    | ((try lift_lets); intro x; clear_value x)
    | with_reducible apply State.modHalf_ok
    | with_reducible apply State.raiseDev_ok
    | with_reducible apply keeps_next
    | split

theorem State.writeHolder_ok {s : State} {target : Bool} (hs : Ok cmds s) : Ok cmds (State.writeHolder s target) := by
  unfold State.writeHolder
  repeat any_goals first
    | with_reducible assumption
    | ((try lift_lets); intro (x : Mgt); dsimp only [x]; clear x)
    | with_reducible apply State.passLease_ok
    | split

theorem execLeaseHandover_ok {holder target : Bool} {s : State} (hs : Ok cmds s) : Keeps cmds (execLeaseHandover holder target s) := by
  unfold execLeaseHandover
  repeat any_goals first
    | with_reducible assumption
    | with_reducible apply State.writeHolder_ok
    | with_reducible apply keeps_next
    | split

theorem execLeaseClaim_ok {north south : Bool} {s : State} (hs : Ok cmds s) : Keeps cmds (execLeaseClaim north south s) := by
  unfold execLeaseClaim
  repeat any_goals first
    | with_reducible assumption
    | ((try lift_lets); intro x; clear_value x)
    | with_reducible apply State.lead_ok
    | with_reducible apply keeps_next
    | split

theorem State.refuseCurrent_ok {s : State} (hs : Ok cmds s) : Ok cmds (State.refuseCurrent s) := by
  unfold State.refuseCurrent
  repeat any_goals first
    | with_reducible assumption
    | with_reducible refine fun _ => ?_
    | ((try lift_lets); intro x; refine keep_let (P := Ok cmds x) ?_ (fun hx => ?_); rotate_left; clear_value x; rotate_right; unfold x; clear x)
    | ((try lift_lets); intro x; clear_value x)
    | with_reducible apply State.dropAdmission_ok
    | with_reducible apply State.refuseSubmit_ok
    | with_reducible apply State.send_ok
    | with_reducible exact SMap.wf_nil _
    | split

theorem State.endReload_ok {s : State} {h : Bool} (hs : Ok cmds s) : Ok cmds (State.endReload s h) := by
  unfold State.endReload
  repeat any_goals first
    | with_reducible assumption
    | with_reducible refine fun _ => ?_
    | with_reducible apply State.modHalf_ok

theorem State.abandonUpdate_ok {s : State} {version : Nat} {half : Bool} (hs : Ok cmds s) : Ok cmds (State.abandonUpdate s version half) := by
  unfold State.abandonUpdate
  repeat any_goals first
    | with_reducible assumption
    | ((try lift_lets); intro x; refine keep_let (P := Ok cmds x) ?_ (fun hx => ?_); rotate_left; clear_value x; rotate_right; unfold x; clear x)
    | ((try lift_lets); intro (x : Mgt); dsimp only [x]; clear x)
    | with_reducible apply State.endReload_ok
    | with_reducible apply State.raiseDev_ok
    | with_reducible apply State.rewriteDirectory_ok

theorem State.disputeUpdate_ok {s : State} (hs : Ok cmds s) : Ok cmds (State.disputeUpdate s) := by
  unfold State.disputeUpdate
  repeat any_goals first
    | with_reducible assumption
    | with_reducible apply State.abandonUpdate_ok
    | split

theorem State.beginHold_ok {s : State} (hs : Ok cmds s) : Ok cmds (State.beginHold s) := by
  unfold State.beginHold
  repeat any_goals first
    | with_reducible assumption
    | ((try lift_lets); intro (x : Mgt); dsimp only [x]; clear x)
    | ((try lift_lets); intro (x : _ → _); unfold x; clear x; try beta_reduce)
    | with_reducible apply State.raiseDev_ok
    | with_reducible apply State.refuseCurrent_ok
    | with_reducible apply State.startNext_ok

theorem execLeaseDispute_ok {both : Bool} {s : State} (hs : Ok cmds s) : Keeps cmds (execLeaseDispute both s) := by
  unfold execLeaseDispute
  repeat any_goals first
    | with_reducible assumption
    | ((try lift_lets); intro x; refine keep_let (P := Ok cmds x) ?_ (fun hx => ?_); rotate_left; clear_value x; rotate_right; unfold x; clear x)
    | ((try lift_lets); intro (x : Mgt); dsimp only [x]; clear x)
    | with_reducible apply State.beginHold_ok
    | with_reducible apply State.disputeUpdate_ok
    | with_reducible apply keeps_next
    | split

theorem State.handleHeld_ok {s : State} {x : Nat × Instr} (hs : Ok cmds s) : Ok cmds (State.handleHeld s x) := by
  unfold State.handleHeld
  repeat any_goals first
    | with_reducible assumption
    | with_reducible refine fun _ => ?_
    | ((try lift_lets); intro (x : _ → _); unfold x; clear x; try beta_reduce)
    | with_reducible apply State.abortFrame_ok
    | with_reducible apply State.arrived_ok
    | with_reducible apply State.attestFrame_ok
    | with_reducible apply State.consumeFrame_ok
    | with_reducible apply State.detachFrame_ok
    | with_reducible apply State.incrementFrame_ok
    | with_reducible apply State.lead_ok
    | with_reducible apply State.mctpRequest_ok
    | with_reducible apply State.pauseFrame_ok
    | with_reducible apply State.queryDeviceFrame_ok
    | with_reducible apply State.queryJobFrame_ok
    | with_reducible apply State.rebindFrame_ok
    | with_reducible apply State.resumeFrame_ok
    | with_reducible apply State.takeFrame_ok
    | with_reducible apply State.taskMsgFrame_ok
    | with_reducible apply ok_id
    | split

theorem State.takeHeldOne_ok {s : State} {x : Nat × Instr} (hs : Ok cmds s) : Ok cmds (State.takeHeldOne s x) := by
  unfold State.takeHeldOne
  repeat any_goals first
    | with_reducible assumption
    | with_reducible refine fun _ => ?_
    | ((try lift_lets); intro (x : HostPort); dsimp only [x]; clear x)
    | with_reducible apply State.handleHeld_ok
    | split

theorem State.takeHeld_ok {s : State} (hs : Ok cmds s) : Ok cmds (State.takeHeld s) := by
  unfold State.takeHeld
  repeat any_goals first
    | with_reducible assumption
    | ((try lift_lets); intro (x : HostPort); dsimp only [x]; clear x)
    | with_reducible apply State.takeHeldOne_ok
    | with_reducible apply ok_foldl
    | with_reducible exact SMap.wf_nil _
    | split

theorem State.grant_ok {s : State} {h : Bool} (hs : Ok cmds s) : Ok cmds (State.grant s h) := by
  unfold State.grant
  repeat any_goals first
    | with_reducible assumption
    | ((try lift_lets); intro (x : Mgt); dsimp only [x]; clear x)
    | with_reducible apply State.lead_ok
    | with_reducible apply State.raiseDev_ok
    | with_reducible apply State.startAllDeferred_ok
    | with_reducible apply State.startNext_ok
    | with_reducible apply State.takeHeld_ok

theorem execLeaderChange_ok {s : State} (hs : Ok cmds s) : Keeps cmds (execLeaderChange s) := by
  unfold execLeaderChange
  repeat any_goals first
    | with_reducible assumption
    | ((try lift_lets); intro x; clear_value x)
    | with_reducible apply State.beginHold_ok
    | with_reducible apply State.grant_ok
    | with_reducible apply keeps_next
    | split

theorem execNoLeader_ok {s : State} (hs : Ok cmds s) : Keeps cmds (execNoLeader s) := by
  unfold execNoLeader
  repeat any_goals first
    | with_reducible assumption
    | ((try lift_lets); intro (x : Mgt); dsimp only [x]; clear x)
    | with_reducible apply State.raiseDev_ok
    | with_reducible apply keeps_next
    | split

theorem State.stageSlot_ok {s : State} {img : List Byte} (hs : Ok cmds s) : Ok cmds (State.stageSlot s img) :=
  ok_nor hs (wf_norStore _ _ (wf_norErase _ _ hs.nor_))

theorem State.completeUpdate_ok {s : State} {version : Nat} (hs : Ok cmds s) : Ok cmds (State.completeUpdate s version) := by
  unfold State.completeUpdate
  repeat any_goals first
    | with_reducible assumption
    | with_reducible refine fun _ => ?_
    | ((try lift_lets); intro x; refine keep_let (P := Ok cmds x) ?_ (fun hx => ?_); rotate_left; clear_value x; rotate_right; unfold x; clear x)
    | ((try lift_lets); intro (x : Mgt); dsimp only [x]; clear x)
    | ((try lift_lets); intro x; clear_value x)
    | with_reducible apply State.raiseDev_ok
    | with_reducible apply State.rewriteDirectory_ok

theorem State.reload_ok {s : State} {h : Bool} {o : Signed} (hs : Ok cmds s) : Ok cmds (State.reload s h o) := by
  unfold State.reload
  repeat any_goals first
    | with_reducible assumption
    | with_reducible refine fun _ => ?_
    | with_reducible apply State.modHalf_ok

theorem State.enterReload_ok {s : State} {h second : Bool} {version : Nat} (hs : Ok cmds s) : Ok cmds (State.enterReload s h second version) := by
  unfold State.enterReload
  repeat any_goals first
    | with_reducible assumption
    | with_reducible refine fun _ => ?_
    | ((try lift_lets); intro x; refine keep_let (P := Ok cmds x) ?_ (fun hx => ?_); rotate_left; clear_value x; rotate_right; unfold x; clear x)
    | with_reducible apply State.modHalf_ok

theorem State.endUpdate_ok {s : State} {h : Bool} {version : Nat} (hs : Ok cmds s) : Ok cmds (State.endUpdate s h version) := by
  unfold State.endUpdate
  repeat any_goals first
    | with_reducible assumption
    | ((try lift_lets); intro (x : Mgt); dsimp only [x]; clear x)
    | with_reducible apply State.completeUpdate_ok
    | with_reducible apply State.lead_ok

theorem execFirmwareUpdate_ok {img : List Byte} {s : State} (hs : Ok cmds s) : Keeps cmds (execFirmwareUpdate img s) := by
  unfold execFirmwareUpdate
  repeat any_goals first
    | with_reducible assumption
    | ((try lift_lets); intro x; refine keep_let (P := Ok cmds x) ?_ (fun hx => ?_); rotate_left; clear_value x; rotate_right; unfold x; clear x)
    | ((try lift_lets); intro x; clear_value x)
    | with_reducible apply State.abandonUpdate_ok
    | with_reducible apply State.endUpdate_ok
    | with_reducible apply State.enterReload_ok
    | with_reducible apply State.lead_ok
    | with_reducible apply State.reload_ok
    | with_reducible apply State.stageSlot_ok
    | with_reducible apply keeps_next
    | split

theorem execUpdateFailed_ok {img : List Byte} {second : Bool} {s : State} (hs : Ok cmds s) : Keeps cmds (execUpdateFailed img second s) := by
  unfold execUpdateFailed
  repeat any_goals first
    | with_reducible assumption
    | with_reducible refine fun _ => ?_
    | ((try lift_lets); intro (x : Mgt); dsimp only [x]; clear x)
    | ((try lift_lets); intro x; clear_value x)
    | with_reducible apply State.abandonUpdate_ok
    | with_reducible apply State.endUpdate_ok
    | with_reducible apply State.modHalf_ok
    | with_reducible apply State.reload_ok
    | with_reducible apply State.stageSlot_ok
    | with_reducible apply keeps_next
    | split

theorem State.setI3cAddr_ok {s : State} {addr : BitVec 7} (hs : Ok cmds s) : Ok cmds (State.setI3cAddr s addr) := by
  unfold State.setI3cAddr
  repeat any_goals first
    | with_reducible assumption

theorem execEntdaa_ok {addr : BitVec 7} {s : State} (hs : Ok cmds s) : Keeps cmds (execEntdaa addr s) := by
  unfold execEntdaa
  repeat any_goals first
    | with_reducible assumption
    | with_reducible apply State.setI3cAddr_ok
    | with_reducible apply keeps_next
    | split

theorem execSetdasa_ok {statAddr addr : BitVec 7} {s : State} (hs : Ok cmds s) : Keeps cmds (execSetdasa statAddr addr s) := by
  unfold execSetdasa
  repeat any_goals first
    | with_reducible assumption
    | with_reducible apply State.setI3cAddr_ok
    | with_reducible apply keeps_next
    | split

theorem execI3cFault_ok {line high : Bool} {s : State} (hs : Ok cmds s) : Keeps cmds (execI3cFault line high s) := by
  unfold execI3cFault
  repeat any_goals first
    | with_reducible assumption
    | ((try lift_lets); intro (x : Pins); dsimp only [x]; clear x)
    | with_reducible apply State.raiseDev_ok
    | with_reducible apply keeps_next
    | split

theorem execI3cBusRetry_ok {cleared : Bool} {s : State} (hs : Ok cmds s) : Keeps cmds (execI3cBusRetry cleared s) := by
  unfold execI3cBusRetry
  repeat any_goals first
    | with_reducible assumption
    | ((try lift_lets); intro (x : Pins); dsimp only [x]; clear x)
    | with_reducible apply keeps_next
    | split

theorem execXspiFault_ok {line : BitVec 4} {high : Bool} {s : State} (hs : Ok cmds s) : Keeps cmds (execXspiFault line high s) := by
  unfold execXspiFault
  repeat any_goals first
    | with_reducible assumption
    | ((try lift_lets); intro (x : Pins); dsimp only [x]; clear x)
    | with_reducible apply State.raiseDev_ok
    | with_reducible apply State.setStage_ok
    | with_reducible apply keeps_next
    | split

theorem execAlertFault_ok {high : Bool} {s : State} (hs : Ok cmds s) : Keeps cmds (execAlertFault high s) := by
  unfold execAlertFault
  repeat any_goals first
    | with_reducible assumption
    | ((try lift_lets); intro (x : Pins); dsimp only [x]; clear x)
    | with_reducible apply State.raiseDev_ok
    | with_reducible apply keeps_next
    | split

theorem execBypass_ok {s : State} (hs : Ok cmds s) : Keeps cmds (execBypass s) := by
  unfold execBypass
  repeat any_goals first
    | with_reducible assumption
    | with_reducible apply keeps_next
    | with_reducible exact SMap.wf_nil _
    | split

theorem execIdcode_ok {s : State} (hs : Ok cmds s) : Keeps cmds (execIdcode s) := by
  unfold execIdcode
  repeat any_goals first
    | with_reducible assumption
    | with_reducible apply keeps_next
    | with_reducible exact SMap.wf_nil _
    | split

theorem execSamplePreload_ok {pins load : List Bool} {s : State} (hs : Ok cmds s) : Keeps cmds (execSamplePreload pins load s) := by
  unfold execSamplePreload
  repeat any_goals first
    | with_reducible assumption
    | ((try lift_lets); intro (x : Pins); dsimp only [x]; clear x)
    | with_reducible apply keeps_next
    | with_reducible exact SMap.wf_nil _
    | split

theorem execExtest_ok {s : State} (hs : Ok cmds s) : Keeps cmds (execExtest s) := by
  unfold execExtest
  repeat any_goals first
    | with_reducible assumption
    | ((try lift_lets); intro x; refine keep_let (P := Ok cmds x) ?_ (fun hx => ?_); rotate_left; clear_value x; rotate_right; unfold x; clear x)
    | ((try lift_lets); intro x; refine keep_let (P := Ok cmds x.2) ?_ (fun hx => ?_); rotate_left; clear_value x; rotate_right; unfold x; clear x)
    | with_reducible apply State.takeFrees_ok
    | with_reducible apply keeps_next
    | split

theorem execTrstN_ok {low : Bool} {s : State} (hs : Ok cmds s) : Keeps cmds (execTrstN low s) := by
  unfold execTrstN
  repeat any_goals first
    | with_reducible assumption
    | ((try lift_lets); intro (x : Pins); dsimp only [x]; clear x)
    | with_reducible apply keeps_next
    | with_reducible exact SMap.wf_nil _
    | split

theorem State.firmwareUe_ok {s : State} (hs : Ok cmds s) : Ok cmds (State.firmwareUe s) := by
  unfold State.firmwareUe
  repeat any_goals first
    | with_reducible assumption
    | with_reducible apply State.raiseDev_ok

theorem State.readTierBytes_ok {s : State} {tier : Tier} {a n : Nat} (hs : Ok cmds s) : Ok cmds (State.readTierBytes s tier a n).2 := by
  unfold State.readTierBytes
  repeat any_goals first
    | with_reducible assumption
    | with_reducible apply State.firmwareUe_ok
    | split

theorem State.readWindow_ok {s : State} {o n : Nat} (hs : Ok cmds s) : Ok cmds (State.readWindow s o n).2 := by
  unfold State.readWindow
  repeat any_goals first
    | with_reducible assumption
    | ((try lift_lets); intro x; clear_value x)
    | with_reducible apply State.accFaults_ok
    | with_reducible apply State.core_ok
    | with_reducible apply State.countCe_ok
    | with_reducible apply fetch_ok
    | split

theorem State.readUnit_ok {s : State} {a n : Nat} (hs : Ok cmds s) : Ok cmds (State.readUnit s a n).2 := by
  unfold State.readUnit
  repeat any_goals first
    | with_reducible assumption
    | with_reducible refine fun _ => ?_
    | ((try lift_lets); intro x; clear_value x)
    | with_reducible apply State.accFaults_ok
    | with_reducible apply State.countCe_ok
    | with_reducible apply State.readTierBytes_ok
    | with_reducible apply State.readWindow_ok
    | split

theorem State.absentAccess_ok {s : State} {a : Nat} (hs : Ok cmds s) : Ok cmds (State.absentAccess s a) := by
  unfold State.absentAccess
  repeat any_goals first
    | with_reducible assumption
    | with_reducible apply State.raiseDev_ok

theorem execLatchingRead_ok {addr : BitVec 52} {s : State} (hs : Ok cmds s) : Keeps cmds (execLatchingRead addr s) := by
  unfold execLatchingRead
  repeat any_goals first
    | with_reducible assumption
    | ((try lift_lets); intro x; clear_value x)
    | with_reducible apply State.absentAccess_ok
    | with_reducible apply State.readUnit_ok
    | with_reducible apply keeps_next
    | (with_reducible refine ok_latch (by with_reducible assumption) ?_)
    | with_reducible apply SMap.wf_set
    | (with_reducible exact SParts.latch_ (by with_reducible assumption))
    | split

theorem State.clearBits_ok {s : State} {a : Nat} {v : Word} (hs : Ok cmds s) : Ok cmds (State.clearBits s a v) := by
  unfold State.clearBits
  repeat any_goals first
    | with_reducible assumption
    | with_reducible refine fun _ => ?_
    | with_reducible apply State.modCsr_ok

theorem State.clearValid_ok {s : State} {a : Nat} {v : Word} (hs : Ok cmds s) : Ok cmds (State.clearValid s a v) := by
  unfold State.clearValid
  repeat any_goals first
    | with_reducible assumption
    | with_reducible apply State.clearBits_ok

theorem State.writeCount_ok {s : State} {a : Nat} {v : Word} (hs : Ok cmds s) : Ok cmds (State.writeCount s a v) := by
  unfold State.writeCount
  repeat any_goals first
    | with_reducible assumption
    | with_reducible apply State.setCsr_ok

theorem State.writeHalf_ok {s : State} {h : Bool} {v : Word} (hs : Ok cmds s) : Ok cmds (State.writeHalf s h v) := by
  unfold State.writeHalf
  repeat any_goals first
    | with_reducible assumption
    | with_reducible refine fun _ => ?_
    | ((try lift_lets); intro x; refine keep_let (P := Ok cmds x) ?_ (fun hx => ?_); rotate_left; clear_value x; rotate_right; unfold x; clear x)
    | ((try lift_lets); intro x; clear_value x)
    | with_reducible apply State.modHalf_ok
    | with_reducible apply State.raiseDev_ok
    | with_reducible apply State.reload_ok
    | split

theorem State.writeMgt_ok {s : State} {off : Nat} {v : Word} (hs : Ok cmds s) : Ok cmds (State.writeMgt s off v) := by
  unfold State.writeMgt
  repeat any_goals first
    | with_reducible assumption
    | with_reducible apply State.enterReset_ok
    | with_reducible apply State.writeHalf_ok
    | with_reducible apply State.writeHolder_ok
    | split

theorem State.after_ok {s : State} {o : Host.Outcome State Fault Refusal} (hs : Ok cmds s) (ho : Keeps cmds o) : Ok cmds (s.after o) := by
  unfold State.after
  split
  · exact ho.go _ rfl
  · exact hs

theorem State.writeHst_ok {s : State} {off : Nat} {v : Word} (hs : Ok cmds s) : Ok cmds (State.writeHst s off v) := by
  unfold State.writeHst
  repeat any_goals first
    | with_reducible assumption
    | with_reducible refine fun _ => ?_
    | ((try lift_lets); intro (x : HostPort); dsimp only [x]; clear x)
    | with_reducible apply Plan.table_ok
    | with_reducible apply State.table_ok
    | (with_reducible refine ok_hctr (by with_reducible assumption) ?_)
    | with_reducible apply SMap.wf_set
    | (with_reducible exact SParts.hctr_ (by with_reducible assumption))
    | split

theorem State.writeTierReg_ok {s : State} {base off : Nat} {v : Word} (hs : Ok cmds s) : Ok cmds (State.writeTierReg s base off v) := by
  unfold State.writeTierReg
  repeat any_goals first
    | with_reducible assumption
    | with_reducible apply State.setCsr_ok
    | with_reducible apply State.writeCount_ok
    | split

theorem State.writePort_ok {s : State} {q i : Nat} {v : Word} (hs : Ok cmds s) : Ok cmds (State.writePort s q i v) := by
  unfold State.writePort
  repeat any_goals first
    | with_reducible assumption
    | with_reducible refine fun _ => ?_
    | with_reducible apply State.modPort_ok
    | split

theorem State.writeSyn_ok {s : State} {t off : Nat} {v : Word} (hs : Ok cmds s) : Ok cmds (State.writeSyn s t off v) := by
  unfold State.writeSyn
  repeat any_goals first
    | with_reducible assumption
    | with_reducible refine fun _ => ?_
    | with_reducible apply Plan.table_ok
    | with_reducible apply State.clearValid_ok
    | with_reducible apply State.modTable_ok
    | with_reducible apply State.table_ok
    | (with_reducible refine tableOk_ctr (by with_reducible assumption) ?_)
    | (with_reducible refine tableOk_ctrInit (by with_reducible assumption) ?_)
    | (with_reducible refine tableOk_tout (by with_reducible assumption) ?_)
    | with_reducible apply SMap.wf_set
    | (with_reducible exact TParts.ctr_ (by with_reducible assumption))
    | (with_reducible exact TParts.ctrInit_ (by with_reducible assumption))
    | (with_reducible exact TParts.tout_ (by with_reducible assumption))
    | split

theorem State.writeSpd_ok {s : State} {t off : Nat} {v : Word} (hs : Ok cmds s) : Ok cmds (State.writeSpd s t off v) := by
  unfold State.writeSpd
  repeat any_goals first
    | with_reducible assumption
    | with_reducible apply State.clearValid_ok
    | with_reducible apply State.setCsr_ok
    | with_reducible apply State.writeCount_ok
    | split

theorem State.writeShf_ok {s : State} {t off : Nat} {v : Word} (hs : Ok cmds s) : Ok cmds (State.writeShf s t off v) := by
  unfold State.writeShf
  repeat any_goals first
    | with_reducible assumption
    | with_reducible apply State.clearValid_ok
    | with_reducible apply State.setCsr_ok
    | with_reducible apply State.writeCount_ok
    | split

theorem State.writeTaskReg_ok {s : State} {k : Nat} {r : TaskReg} {v : Word} (hs : Ok cmds s) : Ok cmds (State.writeTaskReg s k r v) := by
  unfold State.writeTaskReg
  repeat any_goals first
    | with_reducible assumption
    | with_reducible refine fun _ => ?_
    | ((try lift_lets); intro x; refine keep_let (P := Ok cmds x) ?_ (fun hx => ?_); rotate_left; clear_value x; rotate_right; unfold x; clear x)
    | ((try lift_lets); intro x; clear_value x)
    | with_reducible apply State.clearBits_ok
    | with_reducible apply State.modCsr_ok
    | with_reducible apply State.setCsr_ok
    | with_reducible apply State.taskRegWrite_ok
    | split

theorem State.writeBlock_ok {s : State} {b : Blk} {off : Nat} {v : Word} (hs : Ok cmds s) : Ok cmds (State.writeBlock s b off v) := by
  unfold State.writeBlock
  repeat' split
  all_goals first
    | exact hs
    | exact State.writeMgt_ok hs
    | exact State.after_ok hs (execEvtTailWrite_ok hs)
    | exact { hs with }
    | exact ok_log hs (by unfold EventLog.writeLost; split <;> exact hs.logRecs_)
    | exact ok_elim hs (fun _ => State.after_ok hs (execStepChange_ok hs))
    | exact ok_elim hs (fun _ => State.after_ok hs (execThermalHold_ok hs))
    | exact State.writeHst_ok hs
    | exact State.writeTierReg_ok hs
    | exact State.setCsr_ok hs
    | exact State.clearValid_ok hs
    | exact ok_elim hs (fun _ => State.writePort_ok hs)
    | exact State.writeSyn_ok hs
    | exact State.writeSpd_ok hs
    | exact State.writeShf_ok hs
    | exact ok_elim hs (fun _ => State.writeTaskReg_ok hs)
    | exact ok_elim hs (fun _ => State.after_ok hs (execStop_ok hs))
    | exact ok_elim hs (fun _ => hs)

theorem execRegisterWrite_ok {addr : BitVec 52} {v : BitVec 32} {s : State} (hs : Ok cmds s) : Keeps cmds (execRegisterWrite addr v s) := by
  unfold execRegisterWrite
  repeat any_goals first
    | with_reducible assumption
    | ((try lift_lets); intro x; clear_value x)
    | with_reducible apply State.absentAccess_ok
    | with_reducible apply State.writeBlock_ok
    | with_reducible apply keeps_next
    | split

theorem State.writeWindow_ok {s : State} {o : Nat} {bs : List Byte} (hs : Ok cmds s) : Ok cmds (State.writeWindow s o bs) := by
  unfold State.writeWindow
  dsimp only
  split
  · exact hs
  · exact State.accFaults_ok (State.countCe_ok (State.modCore_ok hs (fun _ _ => Core.putAll_ok (State.core_ok hs))))

theorem State.writeTierBytes_ok {s : State} {tier : Tier} {a : Nat} {bs : List Byte} (hs : Ok cmds s) : Ok cmds (State.writeTierBytes s tier a bs) := by
  unfold State.writeTierBytes
  dsimp only
  split
  · exact State.firmwareUe_ok (ok_mem hs (MemSys.putTier_ok hs.mem))
  · exact ok_mem hs (MemSys.putTier_ok hs.mem)

theorem State.writeUnit_ok {s : State} {a : Nat} {bs : List Byte} (hs : Ok cmds s) : Ok cmds (State.writeUnit s a bs) := by
  unfold State.writeUnit
  dsimp only
  repeat' split
  · exact hs
  · exact State.writeTierBytes_ok hs
  · exact hs
  · exact State.writeTierBytes_ok hs
  · exact State.accFaults_ok (State.countCe_ok (ok_mem hs (MemSys.shelfWrite_ok hs.mem)))
  · exact State.writeWindow_ok hs
  · exact hs

theorem State.writeUnits_ok {s : State} {fuel a : Nat} {bs : List Byte} (hs : Ok cmds s) : Ok cmds (State.writeUnits s fuel a bs) := by
  induction fuel generalizing s a bs with
  | zero => exact hs
  | succ n ih =>
    unfold State.writeUnits
    dsimp only
    split
    · exact hs
    · exact ih (State.writeUnit_ok hs)

theorem execPhysicalAddressWrite_ok {addr : BitVec 52} {data : List Byte} {s : State} (hs : Ok cmds s) : Keeps cmds (execPhysicalAddressWrite addr data s) := by
  unfold execPhysicalAddressWrite
  repeat any_goals first
    | with_reducible assumption
    | with_reducible apply State.writeUnits_ok
    | with_reducible apply keeps_next
    | split

end Sys2Proof.Machine
end

