-- ==== Sys2Proof/Laws/CanonStep.lean ====
section
/-!
SUPPORT. Every command keeps the canonical form, and so does the passing of time.
-/
namespace Sys2Proof.Machine

theorem exec_ok (i : Instr) {cmds : List Instr} {s : State} (hs : Ok cmds s) : Keeps cmds (exec i s) := by
  cases i
  · exact execAdd_ok hs
  · exact execSub_ok hs
  · exact execAnd_ok hs
  · exact execOr_ok hs
  · exact execXor_ok hs
  · exact execShl_ok hs
  · exact execShr_ok hs
  · exact execSar_ok hs
  · exact execMul_ok hs
  · exact execMin_ok hs
  · exact execMax_ok hs
  · exact execAddi_ok hs
  · exact execAndi_ok hs
  · exact execOri_ok hs
  · exact execXori_ok hs
  · exact execShli_ok hs
  · exact execShri_ok hs
  · exact execSari_ok hs
  · exact execLui_ok hs
  · exact execCmp_ok hs
  · exact execCmpi_ok hs
  · exact execPlog_ok hs
  · exact execMfr_ok hs
  · exact execMtr_ok hs
  · exact execSqpop_ok hs
  · exact execVaddf_ok hs
  · exact execVsubf_ok hs
  · exact execVmulf_ok hs
  · exact execVfmaf_ok hs
  · exact execVminf_ok hs
  · exact execVmaxf_ok hs
  · exact execVabsf_ok hs
  · exact execVnegf_ok hs
  · exact execVcmpf_ok hs
  · exact execVaddi_ok hs
  · exact execVsubi_ok hs
  · exact execVmuli_ok hs
  · exact execVmini_ok hs
  · exact execVmaxi_ok hs
  · exact execVand_ok hs
  · exact execVor_ok hs
  · exact execVxor_ok hs
  · exact execVshl_ok hs
  · exact execVshr_ok hs
  · exact execVsar_ok hs
  · exact execVcmpi_ok hs
  · exact execVsel_ok hs
  · exact execVmov_ok (_vb := 0) hs
  · exact execVbcst_ok hs
  · exact execVrot_ok hs
  · exact execVtom_ok hs
  · exact execVtop_ok hs
  · exact execVidx_ok hs
  · exact execVget_ok hs
  · exact execVredmaxf_ok (_vb := 0) hs
  · exact execVredminf_ok (_vb := 0) hs
  · exact execVredi_ok (_vb := 0) hs
  · exact execVqpop_ok hs
  · exact execCvt_ok hs
  · exact execCvmx_ok hs
  · exact execArd_ok hs
  · exact execArdr_ok hs
  · exact execGmx_ok hs
  · exact execCurv_ok hs
  · exact execTkcfg_ok hs
  · exact execTkins_ok hs
  · exact execTkrd_ok hs
  · exact execMdot_ok hs
  · exact execMclr_ok hs
  · exact execMsetw_ok hs
  · exact execMred_ok hs
  · exact execMinj_ok hs
  · exact execWarm_ok hs
  · exact execHload_ok hs
  · exact execCbload_ok hs
  · exact execCtload_ok hs
  · exact execLdv_ok hs
  · exact execLds_ok hs
  · exact execGth_ok hs
  · exact execShld_ok hs
  · exact execStv_ok hs
  · exact execSts_ok hs
  · exact execShst_ok hs
  · exact execQreq_ok hs
  · exact execQrel_ok hs
  · exact execSend_ok hs
  · exact execNop_ok hs
  · exact execEndTask_ok hs
  · exact execLoop_ok hs
  · exact execSetlc_ok hs
  · exact execBr_ok hs
  · exact execWait_ok hs
  · exact execSig_ok hs
  · exact execQwait_ok hs
  · exact execDwait_ok hs
  · exact execHwin_ok hs
  · exact execHret_ok hs
  · exact execTrick_ok hs
  · exact execWaitMet_ok hs
  · exact execSynTimeout_ok hs
  · exact execQwaitMet_ok hs
  · exact execDwaitMet_ok hs
  · exact execSendCreditMet_ok hs
  · exact execChnStall_ok hs
  · exact execHwinOpen_ok hs
  · exact execTaperLineFill_ok hs
  · exact execTaskRelease_ok hs
  · exact execTaskEnd_ok hs
  · exact execSignalApply_ok hs
  · exact execSynResidue_ok hs
  · exact execDecoupledFill_ok hs
  · exact execFlitDepart_ok hs
  · exact execFlitArrive_ok hs
  · exact execPartRetire_ok hs
  · exact execCreditReturn_ok hs
  · exact execSpillMove_ok hs
  · exact execShaperForward_ok hs
  · exact execGranuleRetire_ok hs
  · exact execQueueEntryFull_ok hs
  · exact execQueueEntryFree_ok hs
  · exact @execRefresh_ok _ (by assumption) (by assumption) _ hs
  · exact execHbmSpare_ok hs
  · exact execHbmLost_ok hs
  · exact execDdrLost_ok hs
  · exact execDmaTimer_ok hs
  · exact execDmaRepetitionStart_ok hs
  · exact execDmaRepetitionComplete_ok hs
  · exact execStop_ok hs
  · exact execSubmit_ok hs
  · exact execAdmission_ok hs
  · exact execAdmissionReply_ok hs
  · exact execQueryDevice_ok hs
  · exact execQueryJob_ok hs
  · exact execPause_ok hs
  · exact execJobPaused_ok hs
  · exact execResume_ok hs
  · exact execTaskResume_ok hs
  · exact execDetach_ok hs
  · exact execAbort_ok hs
  · exact execCompletionRecord_ok hs
  · exact execSignalIncrement_ok hs
  · exact execSignalConsume_ok hs
  · exact execCounterSlotWrite_ok hs
  · exact execTaskMsg_ok hs
  · exact execRebind_ok hs
  · exact execHostRdmaWrite_ok hs
  · exact execHostRdmaRead_ok hs
  · exact execInvalidRequestNak_ok hs
  · exact execHstDrop_ok hs
  · exact execCnpSend_ok hs
  · exact execCnpReceive_ok hs
  · exact execRateRecovery_ok hs
  · exact execHstLinkDown_ok hs
  · exact execHstLinkUp_ok hs
  · exact execHstLaneLost_ok hs
  · exact execHstQpError_ok hs
  · exact execHostLost_ok hs
  · exact execControlQpRecovery_ok hs
  · exact execCellTransmit_ok hs
  · exact execCellReceive_ok hs
  · exact execReplay_ok hs
  · exact execReplayTimeout_ok hs
  · exact execPortTraining_ok hs
  · exact execBxlLaneLost_ok hs
  · exact execBxlPortUp_ok hs
  · exact execBxlDiscard_ok hs
  · exact execAlignmentCellSend_ok hs
  · exact execAlignmentCellReceive_ok hs
  · exact execBeaconPulse_ok hs
  · exact execStepChange_ok hs
  · exact execDimmerStep_ok hs
  · exact execThermalHold_ok hs
  · exact execHoldEnd_ok hs
  · exact execHoldBudget_ok hs
  · exact execTemperatureSample_ok hs
  · exact execRegionRestart_ok hs
  · exact execRefclkLost_ok hs
  · exact execRefclkBack_ok hs
  · exact execResetRelease_ok hs
  · exact execBoot_ok hs
  · exact execNrst_ok hs
  · exact execMgtReset_ok hs
  · exact execPowerLoss_ok hs
  · exact execPwrRange_ok hs
  · exact execPwrOverlimit_ok hs
  · exact execFlickerHealth_ok hs
  · exact execLifeCycleCommand_ok hs
  · exact execRecordStaging_ok hs
  · dsimp only [exec]; exact execFirmwareUpdate_ok hs
  · dsimp only [exec]; exact execUpdateFailed_ok hs
  · exact execLeaseHandover_ok hs
  · exact execLeaseClaim_ok hs
  · exact execHalfUnhealthy_ok hs
  · exact execLeaseDispute_ok hs
  · exact execLeaderChange_ok hs
  · exact execNoLeader_ok hs
  · exact execGetVersion_ok hs
  · exact execGetCapabilities_ok hs
  · exact execNegotiateAlgorithms_ok hs
  · exact execGetDigests_ok hs
  · exact execGetCertificate_ok hs
  · exact execChallenge_ok hs
  · exact execGetMeasurements_ok hs
  · exact execGetCsr_ok hs
  · exact execSetCertificate_ok hs
  · exact execUnsupportedRequest_ok hs
  · exact execEntdaa_ok hs
  · exact execSetdasa_ok hs
  · exact execI3cFault_ok hs
  · exact execXspiFault_ok hs
  · exact execAlertFault_ok hs
  · exact execBypass_ok hs
  · exact execIdcode_ok hs
  · exact execSamplePreload_ok hs
  · exact execExtest_ok hs
  · exact execTrstN_ok hs
  · exact execCoreFailed_ok hs
  · exact execDlrFailed_ok hs
  · exact execSpareSubstitution_ok hs
  · exact execReadmission_ok hs
  · exact execBoundViolation_ok hs
  · exact execEvtTailWrite_ok hs
  · exact execLatchingRead_ok hs
  · exact execRegisterWrite_ok hs
  · exact execLocalAckTimeout_ok hs
  · exact execRnrNak_ok hs
  · exact execUnknownType_ok hs
  · exact execPhysicalAddressWrite_ok hs
  · exact execI3cBusRetry_ok hs

end Sys2Proof.Machine
end

