-- ==== Sys2Proof/Laws/Nor.lean ====
section
/-!
SUPPORT. What programming and erasing the configuration memory do to a later read of it.
-/
namespace Sys2Proof.Machine

/-- Programming bytes changes those bytes alone. -/
theorem norGet_norStore (bs : List Byte) {m : SMap Byte} (a j : Nat) (h : SMap.wf 0xFF m = true) :
    norGet (norStore m a bs) j = if a ≤ j ∧ j < a + bs.length then bs.getD (j - a) 0xFF else norGet m j := by
  induction bs generalizing m a with
  | nil => simp [norStore]
  | cons b bs ih =>
    rw [norStore, ih _ (SMap.wf_set _ _ h), norGet, SMap.get_set h]
    by_cases h1 : j = a
    · subst h1; simp
    · by_cases h2 : a + 1 ≤ j ∧ j < a + 1 + bs.length
      · have h4 : j - a = (j - (a + 1)) + 1 := by omega
        have h3 : a ≤ j ∧ j < a + (b :: bs).length := by simp; omega
        rw [if_pos h2, if_pos h3, h4, List.getD_cons_succ]
      · have h3 : ¬ (a ≤ j ∧ j < a + (b :: bs).length) := by simp; omega
        rw [if_neg h2, if_neg h3, if_neg h1]; rfl

/-- A read of what has just been programmed. -/
theorem norBytes_norStore_same (bs : List Byte) {m : SMap Byte} (a n : Nat) (h : SMap.wf 0xFF m = true) (hn : n ≤ bs.length) :
    norBytes (norStore m a bs) a n = bs.take n := by
  apply List.ext_getElem (by simp [norBytes, hn])
  intro i h1 h2
  have h3 : i < n := by simpa [norBytes] using h1
  simp only [norBytes, List.getElem_map, List.getElem_range, List.getElem_take]
  rw [norGet_norStore _ _ _ h, if_pos (by omega), Nat.add_sub_cancel_left, List.getD_eq_getElem _ _ (by omega)]

/-- A read away from what has just been programmed. -/
theorem norBytes_norStore_apart (bs : List Byte) {m : SMap Byte} (a b n : Nat) (h : SMap.wf 0xFF m = true)
    (hab : b + n ≤ a ∨ a + bs.length ≤ b) : norBytes (norStore m a bs) b n = norBytes m b n := by
  unfold norBytes
  apply List.map_congr_left
  intro i hi
  rw [List.mem_range] at hi
  rw [norGet_norStore _ _ _ h, if_neg (by omega)]

/-- An object whose length field is zero is verified as its first 512 bytes. -/
theorem readObject_empty {s : State} {fw copy : Bool} {bs : List Byte}
    (h : norBytes s.nor (if fw then slotArea copy else recordArea copy) 512 = bs) (h0 : rdLe bs 16 8 = 0) :
    s.readObject fw copy = s.fuses.verify fw (if fw then slotLimit else recordLimit) (bs ++ []) := by
  simp only [State.readObject, h, h0, Nat.zero_le, ite_true]
  rfl

end Sys2Proof.Machine
end

