-- ==== Sys2Proof/Laws/State.lean ====
section
/-!
SUPPORT. The named updates of one part of the state leave the other parts as they are, and what the changed part then reads as.
-/
namespace Sys2Proof.Machine

@[simp] theorem State.setCsr_beacon (s : State) (a : Nat) (v : Word) : (s.setCsr a v).beacon = s.beacon := rfl
@[simp] theorem State.setCsr_sub (s : State) (a : Nat) (v : Word) : (s.setCsr a v).sub = s.sub := rfl
@[simp] theorem State.setCsr_pon (s : State) (a : Nat) (v : Word) : (s.setCsr a v).pon = s.pon := rfl
@[simp] theorem State.setCsr_round0 (s : State) (a : Nat) (v : Word) : (s.setCsr a v).round0 = s.round0 := rfl
@[simp] theorem State.setCsr_ready (s : State) (a : Nat) (v : Word) : (s.setCsr a v).ready = s.ready := rfl
@[simp] theorem State.setCsr_fuses (s : State) (a : Nat) (v : Word) : (s.setCsr a v).fuses = s.fuses := rfl
@[simp] theorem State.setCsr_recs (s : State) (a : Nat) (v : Word) : (s.setCsr a v).recs = s.recs := rfl
@[simp] theorem State.setCsr_latch (s : State) (a : Nat) (v : Word) : (s.setCsr a v).latch = s.latch := rfl
@[simp] theorem State.setCsr_marks (s : State) (a : Nat) (v : Word) : (s.setCsr a v).marks = s.marks := rfl
@[simp] theorem State.setCsr_fslots (s : State) (a : Nat) (v : Word) : (s.setCsr a v).fslots = s.fslots := rfl
@[simp] theorem State.setCsr_routes (s : State) (a : Nat) (v : Word) : (s.setCsr a v).routes = s.routes := rfl
@[simp] theorem State.setCsr_tables (s : State) (a : Nat) (v : Word) : (s.setCsr a v).tables = s.tables := rfl
@[simp] theorem State.setCsr_cores (s : State) (a : Nat) (v : Word) : (s.setCsr a v).cores = s.cores := rfl
@[simp] theorem State.setCsr_noc (s : State) (a : Nat) (v : Word) : (s.setCsr a v).noc = s.noc := rfl
@[simp] theorem State.setCsr_mem (s : State) (a : Nat) (v : Word) : (s.setCsr a v).mem = s.mem := rfl
@[simp] theorem State.setCsr_dma (s : State) (a : Nat) (v : Word) : (s.setCsr a v).dma = s.dma := rfl
@[simp] theorem State.setCsr_descs (s : State) (a : Nat) (v : Word) : (s.setCsr a v).descs = s.descs := rfl
@[simp] theorem State.setCsr_jobs (s : State) (a : Nat) (v : Word) : (s.setCsr a v).jobs = s.jobs := rfl
@[simp] theorem State.setCsr_adm (s : State) (a : Nat) (v : Word) : (s.setCsr a v).adm = s.adm := rfl
@[simp] theorem State.setCsr_host (s : State) (a : Nat) (v : Word) : (s.setCsr a v).host = s.host := rfl
@[simp] theorem State.setCsr_hctr (s : State) (a : Nat) (v : Word) : (s.setCsr a v).hctr = s.hctr := rfl
@[simp] theorem State.setCsr_ports (s : State) (a : Nat) (v : Word) : (s.setCsr a v).ports = s.ports := rfl
@[simp] theorem State.setCsr_ftime (s : State) (a : Nat) (v : Word) : (s.setCsr a v).ftime = s.ftime := rfl
@[simp] theorem State.setCsr_regions (s : State) (a : Nat) (v : Word) : (s.setCsr a v).regions = s.regions := rfl
@[simp] theorem State.setCsr_stepsRef (s : State) (a : Nat) (v : Word) : (s.setCsr a v).stepsRef = s.stepsRef := rfl
@[simp] theorem State.setCsr_log (s : State) (a : Nat) (v : Word) : (s.setCsr a v).log = s.log := rfl
@[simp] theorem State.setCsr_nor (s : State) (a : Nat) (v : Word) : (s.setCsr a v).nor = s.nor := rfl
@[simp] theorem State.setCsr_mgt (s : State) (a : Nat) (v : Word) : (s.setCsr a v).mgt = s.mgt := rfl
@[simp] theorem State.setCsr_pins (s : State) (a : Nat) (v : Word) : (s.setCsr a v).pins = s.pins := rfl
@[simp] theorem State.setCsr_free (s : State) (a : Nat) (v : Word) : (s.setCsr a v).free = s.free := rfl
@[simp] theorem State.setCsr_pending (s : State) (a : Nat) (v : Word) : (s.setCsr a v).pending = s.pending := rfl

@[simp] theorem State.modTable_beacon (s : State) (n : Nat) (f : Table → Table) : (s.modTable n f).beacon = s.beacon := rfl
@[simp] theorem State.modTable_sub (s : State) (n : Nat) (f : Table → Table) : (s.modTable n f).sub = s.sub := rfl
@[simp] theorem State.modTable_pon (s : State) (n : Nat) (f : Table → Table) : (s.modTable n f).pon = s.pon := rfl
@[simp] theorem State.modTable_round0 (s : State) (n : Nat) (f : Table → Table) : (s.modTable n f).round0 = s.round0 := rfl
@[simp] theorem State.modTable_ready (s : State) (n : Nat) (f : Table → Table) : (s.modTable n f).ready = s.ready := rfl
@[simp] theorem State.modTable_fuses (s : State) (n : Nat) (f : Table → Table) : (s.modTable n f).fuses = s.fuses := rfl
@[simp] theorem State.modTable_recs (s : State) (n : Nat) (f : Table → Table) : (s.modTable n f).recs = s.recs := rfl
@[simp] theorem State.modTable_csr (s : State) (n : Nat) (f : Table → Table) : (s.modTable n f).csr = s.csr := rfl
@[simp] theorem State.modTable_latch (s : State) (n : Nat) (f : Table → Table) : (s.modTable n f).latch = s.latch := rfl
@[simp] theorem State.modTable_marks (s : State) (n : Nat) (f : Table → Table) : (s.modTable n f).marks = s.marks := rfl
@[simp] theorem State.modTable_fslots (s : State) (n : Nat) (f : Table → Table) : (s.modTable n f).fslots = s.fslots := rfl
@[simp] theorem State.modTable_routes (s : State) (n : Nat) (f : Table → Table) : (s.modTable n f).routes = s.routes := rfl
@[simp] theorem State.modTable_cores (s : State) (n : Nat) (f : Table → Table) : (s.modTable n f).cores = s.cores := rfl
@[simp] theorem State.modTable_noc (s : State) (n : Nat) (f : Table → Table) : (s.modTable n f).noc = s.noc := rfl
@[simp] theorem State.modTable_mem (s : State) (n : Nat) (f : Table → Table) : (s.modTable n f).mem = s.mem := rfl
@[simp] theorem State.modTable_dma (s : State) (n : Nat) (f : Table → Table) : (s.modTable n f).dma = s.dma := rfl
@[simp] theorem State.modTable_descs (s : State) (n : Nat) (f : Table → Table) : (s.modTable n f).descs = s.descs := rfl
@[simp] theorem State.modTable_jobs (s : State) (n : Nat) (f : Table → Table) : (s.modTable n f).jobs = s.jobs := rfl
@[simp] theorem State.modTable_adm (s : State) (n : Nat) (f : Table → Table) : (s.modTable n f).adm = s.adm := rfl
@[simp] theorem State.modTable_host (s : State) (n : Nat) (f : Table → Table) : (s.modTable n f).host = s.host := rfl
@[simp] theorem State.modTable_hctr (s : State) (n : Nat) (f : Table → Table) : (s.modTable n f).hctr = s.hctr := rfl
@[simp] theorem State.modTable_ports (s : State) (n : Nat) (f : Table → Table) : (s.modTable n f).ports = s.ports := rfl
@[simp] theorem State.modTable_ftime (s : State) (n : Nat) (f : Table → Table) : (s.modTable n f).ftime = s.ftime := rfl
@[simp] theorem State.modTable_regions (s : State) (n : Nat) (f : Table → Table) : (s.modTable n f).regions = s.regions := rfl
@[simp] theorem State.modTable_stepsRef (s : State) (n : Nat) (f : Table → Table) : (s.modTable n f).stepsRef = s.stepsRef := rfl
@[simp] theorem State.modTable_log (s : State) (n : Nat) (f : Table → Table) : (s.modTable n f).log = s.log := rfl
@[simp] theorem State.modTable_nor (s : State) (n : Nat) (f : Table → Table) : (s.modTable n f).nor = s.nor := rfl
@[simp] theorem State.modTable_mgt (s : State) (n : Nat) (f : Table → Table) : (s.modTable n f).mgt = s.mgt := rfl
@[simp] theorem State.modTable_pins (s : State) (n : Nat) (f : Table → Table) : (s.modTable n f).pins = s.pins := rfl
@[simp] theorem State.modTable_free (s : State) (n : Nat) (f : Table → Table) : (s.modTable n f).free = s.free := rfl
@[simp] theorem State.modTable_pending (s : State) (n : Nat) (f : Table → Table) : (s.modTable n f).pending = s.pending := rfl

@[simp] theorem State.modCore_beacon (s : State) (k : Nat) (f : Core → Core) : (s.modCore k f).beacon = s.beacon := rfl
@[simp] theorem State.modCore_sub (s : State) (k : Nat) (f : Core → Core) : (s.modCore k f).sub = s.sub := rfl
@[simp] theorem State.modCore_pon (s : State) (k : Nat) (f : Core → Core) : (s.modCore k f).pon = s.pon := rfl
@[simp] theorem State.modCore_round0 (s : State) (k : Nat) (f : Core → Core) : (s.modCore k f).round0 = s.round0 := rfl
@[simp] theorem State.modCore_ready (s : State) (k : Nat) (f : Core → Core) : (s.modCore k f).ready = s.ready := rfl
@[simp] theorem State.modCore_fuses (s : State) (k : Nat) (f : Core → Core) : (s.modCore k f).fuses = s.fuses := rfl
@[simp] theorem State.modCore_recs (s : State) (k : Nat) (f : Core → Core) : (s.modCore k f).recs = s.recs := rfl
@[simp] theorem State.modCore_csr (s : State) (k : Nat) (f : Core → Core) : (s.modCore k f).csr = s.csr := rfl
@[simp] theorem State.modCore_latch (s : State) (k : Nat) (f : Core → Core) : (s.modCore k f).latch = s.latch := rfl
@[simp] theorem State.modCore_marks (s : State) (k : Nat) (f : Core → Core) : (s.modCore k f).marks = s.marks := rfl
@[simp] theorem State.modCore_fslots (s : State) (k : Nat) (f : Core → Core) : (s.modCore k f).fslots = s.fslots := rfl
@[simp] theorem State.modCore_routes (s : State) (k : Nat) (f : Core → Core) : (s.modCore k f).routes = s.routes := rfl
@[simp] theorem State.modCore_tables (s : State) (k : Nat) (f : Core → Core) : (s.modCore k f).tables = s.tables := rfl
@[simp] theorem State.modCore_noc (s : State) (k : Nat) (f : Core → Core) : (s.modCore k f).noc = s.noc := rfl
@[simp] theorem State.modCore_mem (s : State) (k : Nat) (f : Core → Core) : (s.modCore k f).mem = s.mem := rfl
@[simp] theorem State.modCore_dma (s : State) (k : Nat) (f : Core → Core) : (s.modCore k f).dma = s.dma := rfl
@[simp] theorem State.modCore_descs (s : State) (k : Nat) (f : Core → Core) : (s.modCore k f).descs = s.descs := rfl
@[simp] theorem State.modCore_jobs (s : State) (k : Nat) (f : Core → Core) : (s.modCore k f).jobs = s.jobs := rfl
@[simp] theorem State.modCore_adm (s : State) (k : Nat) (f : Core → Core) : (s.modCore k f).adm = s.adm := rfl
@[simp] theorem State.modCore_host (s : State) (k : Nat) (f : Core → Core) : (s.modCore k f).host = s.host := rfl
@[simp] theorem State.modCore_hctr (s : State) (k : Nat) (f : Core → Core) : (s.modCore k f).hctr = s.hctr := rfl
@[simp] theorem State.modCore_ports (s : State) (k : Nat) (f : Core → Core) : (s.modCore k f).ports = s.ports := rfl
@[simp] theorem State.modCore_ftime (s : State) (k : Nat) (f : Core → Core) : (s.modCore k f).ftime = s.ftime := rfl
@[simp] theorem State.modCore_regions (s : State) (k : Nat) (f : Core → Core) : (s.modCore k f).regions = s.regions := rfl
@[simp] theorem State.modCore_stepsRef (s : State) (k : Nat) (f : Core → Core) : (s.modCore k f).stepsRef = s.stepsRef := rfl
@[simp] theorem State.modCore_log (s : State) (k : Nat) (f : Core → Core) : (s.modCore k f).log = s.log := rfl
@[simp] theorem State.modCore_nor (s : State) (k : Nat) (f : Core → Core) : (s.modCore k f).nor = s.nor := rfl
@[simp] theorem State.modCore_mgt (s : State) (k : Nat) (f : Core → Core) : (s.modCore k f).mgt = s.mgt := rfl
@[simp] theorem State.modCore_pins (s : State) (k : Nat) (f : Core → Core) : (s.modCore k f).pins = s.pins := rfl
@[simp] theorem State.modCore_free (s : State) (k : Nat) (f : Core → Core) : (s.modCore k f).free = s.free := rfl
@[simp] theorem State.modCore_pending (s : State) (k : Nat) (f : Core → Core) : (s.modCore k f).pending = s.pending := rfl

@[simp] theorem State.modRegion_beacon (s : State) (r : Nat) (f : Region → Region) : (s.modRegion r f).beacon = s.beacon := rfl
@[simp] theorem State.modRegion_sub (s : State) (r : Nat) (f : Region → Region) : (s.modRegion r f).sub = s.sub := rfl
@[simp] theorem State.modRegion_pon (s : State) (r : Nat) (f : Region → Region) : (s.modRegion r f).pon = s.pon := rfl
@[simp] theorem State.modRegion_round0 (s : State) (r : Nat) (f : Region → Region) : (s.modRegion r f).round0 = s.round0 := rfl
@[simp] theorem State.modRegion_ready (s : State) (r : Nat) (f : Region → Region) : (s.modRegion r f).ready = s.ready := rfl
@[simp] theorem State.modRegion_fuses (s : State) (r : Nat) (f : Region → Region) : (s.modRegion r f).fuses = s.fuses := rfl
@[simp] theorem State.modRegion_recs (s : State) (r : Nat) (f : Region → Region) : (s.modRegion r f).recs = s.recs := rfl
@[simp] theorem State.modRegion_csr (s : State) (r : Nat) (f : Region → Region) : (s.modRegion r f).csr = s.csr := rfl
@[simp] theorem State.modRegion_latch (s : State) (r : Nat) (f : Region → Region) : (s.modRegion r f).latch = s.latch := rfl
@[simp] theorem State.modRegion_marks (s : State) (r : Nat) (f : Region → Region) : (s.modRegion r f).marks = s.marks := rfl
@[simp] theorem State.modRegion_fslots (s : State) (r : Nat) (f : Region → Region) : (s.modRegion r f).fslots = s.fslots := rfl
@[simp] theorem State.modRegion_routes (s : State) (r : Nat) (f : Region → Region) : (s.modRegion r f).routes = s.routes := rfl
@[simp] theorem State.modRegion_tables (s : State) (r : Nat) (f : Region → Region) : (s.modRegion r f).tables = s.tables := rfl
@[simp] theorem State.modRegion_cores (s : State) (r : Nat) (f : Region → Region) : (s.modRegion r f).cores = s.cores := rfl
@[simp] theorem State.modRegion_noc (s : State) (r : Nat) (f : Region → Region) : (s.modRegion r f).noc = s.noc := rfl
@[simp] theorem State.modRegion_mem (s : State) (r : Nat) (f : Region → Region) : (s.modRegion r f).mem = s.mem := rfl
@[simp] theorem State.modRegion_dma (s : State) (r : Nat) (f : Region → Region) : (s.modRegion r f).dma = s.dma := rfl
@[simp] theorem State.modRegion_descs (s : State) (r : Nat) (f : Region → Region) : (s.modRegion r f).descs = s.descs := rfl
@[simp] theorem State.modRegion_jobs (s : State) (r : Nat) (f : Region → Region) : (s.modRegion r f).jobs = s.jobs := rfl
@[simp] theorem State.modRegion_adm (s : State) (r : Nat) (f : Region → Region) : (s.modRegion r f).adm = s.adm := rfl
@[simp] theorem State.modRegion_host (s : State) (r : Nat) (f : Region → Region) : (s.modRegion r f).host = s.host := rfl
@[simp] theorem State.modRegion_hctr (s : State) (r : Nat) (f : Region → Region) : (s.modRegion r f).hctr = s.hctr := rfl
@[simp] theorem State.modRegion_ports (s : State) (r : Nat) (f : Region → Region) : (s.modRegion r f).ports = s.ports := rfl
@[simp] theorem State.modRegion_ftime (s : State) (r : Nat) (f : Region → Region) : (s.modRegion r f).ftime = s.ftime := rfl
@[simp] theorem State.modRegion_stepsRef (s : State) (r : Nat) (f : Region → Region) : (s.modRegion r f).stepsRef = s.stepsRef := rfl
@[simp] theorem State.modRegion_log (s : State) (r : Nat) (f : Region → Region) : (s.modRegion r f).log = s.log := rfl
@[simp] theorem State.modRegion_nor (s : State) (r : Nat) (f : Region → Region) : (s.modRegion r f).nor = s.nor := rfl
@[simp] theorem State.modRegion_mgt (s : State) (r : Nat) (f : Region → Region) : (s.modRegion r f).mgt = s.mgt := rfl
@[simp] theorem State.modRegion_pins (s : State) (r : Nat) (f : Region → Region) : (s.modRegion r f).pins = s.pins := rfl
@[simp] theorem State.modRegion_free (s : State) (r : Nat) (f : Region → Region) : (s.modRegion r f).free = s.free := rfl
@[simp] theorem State.modRegion_pending (s : State) (r : Nat) (f : Region → Region) : (s.modRegion r f).pending = s.pending := rfl

@[simp] theorem State.modJob_beacon (s : State) (j : Nat) (f : Job → Job) : (s.modJob j f).beacon = s.beacon := rfl
@[simp] theorem State.modJob_sub (s : State) (j : Nat) (f : Job → Job) : (s.modJob j f).sub = s.sub := rfl
@[simp] theorem State.modJob_pon (s : State) (j : Nat) (f : Job → Job) : (s.modJob j f).pon = s.pon := rfl
@[simp] theorem State.modJob_round0 (s : State) (j : Nat) (f : Job → Job) : (s.modJob j f).round0 = s.round0 := rfl
@[simp] theorem State.modJob_ready (s : State) (j : Nat) (f : Job → Job) : (s.modJob j f).ready = s.ready := rfl
@[simp] theorem State.modJob_fuses (s : State) (j : Nat) (f : Job → Job) : (s.modJob j f).fuses = s.fuses := rfl
@[simp] theorem State.modJob_recs (s : State) (j : Nat) (f : Job → Job) : (s.modJob j f).recs = s.recs := rfl
@[simp] theorem State.modJob_csr (s : State) (j : Nat) (f : Job → Job) : (s.modJob j f).csr = s.csr := rfl
@[simp] theorem State.modJob_latch (s : State) (j : Nat) (f : Job → Job) : (s.modJob j f).latch = s.latch := rfl
@[simp] theorem State.modJob_marks (s : State) (j : Nat) (f : Job → Job) : (s.modJob j f).marks = s.marks := rfl
@[simp] theorem State.modJob_fslots (s : State) (j : Nat) (f : Job → Job) : (s.modJob j f).fslots = s.fslots := rfl
@[simp] theorem State.modJob_routes (s : State) (j : Nat) (f : Job → Job) : (s.modJob j f).routes = s.routes := rfl
@[simp] theorem State.modJob_tables (s : State) (j : Nat) (f : Job → Job) : (s.modJob j f).tables = s.tables := rfl
@[simp] theorem State.modJob_cores (s : State) (j : Nat) (f : Job → Job) : (s.modJob j f).cores = s.cores := rfl
@[simp] theorem State.modJob_noc (s : State) (j : Nat) (f : Job → Job) : (s.modJob j f).noc = s.noc := rfl
@[simp] theorem State.modJob_mem (s : State) (j : Nat) (f : Job → Job) : (s.modJob j f).mem = s.mem := rfl
@[simp] theorem State.modJob_dma (s : State) (j : Nat) (f : Job → Job) : (s.modJob j f).dma = s.dma := rfl
@[simp] theorem State.modJob_descs (s : State) (j : Nat) (f : Job → Job) : (s.modJob j f).descs = s.descs := rfl
@[simp] theorem State.modJob_adm (s : State) (j : Nat) (f : Job → Job) : (s.modJob j f).adm = s.adm := rfl
@[simp] theorem State.modJob_host (s : State) (j : Nat) (f : Job → Job) : (s.modJob j f).host = s.host := rfl
@[simp] theorem State.modJob_hctr (s : State) (j : Nat) (f : Job → Job) : (s.modJob j f).hctr = s.hctr := rfl
@[simp] theorem State.modJob_ports (s : State) (j : Nat) (f : Job → Job) : (s.modJob j f).ports = s.ports := rfl
@[simp] theorem State.modJob_ftime (s : State) (j : Nat) (f : Job → Job) : (s.modJob j f).ftime = s.ftime := rfl
@[simp] theorem State.modJob_regions (s : State) (j : Nat) (f : Job → Job) : (s.modJob j f).regions = s.regions := rfl
@[simp] theorem State.modJob_stepsRef (s : State) (j : Nat) (f : Job → Job) : (s.modJob j f).stepsRef = s.stepsRef := rfl
@[simp] theorem State.modJob_log (s : State) (j : Nat) (f : Job → Job) : (s.modJob j f).log = s.log := rfl
@[simp] theorem State.modJob_nor (s : State) (j : Nat) (f : Job → Job) : (s.modJob j f).nor = s.nor := rfl
@[simp] theorem State.modJob_mgt (s : State) (j : Nat) (f : Job → Job) : (s.modJob j f).mgt = s.mgt := rfl
@[simp] theorem State.modJob_pins (s : State) (j : Nat) (f : Job → Job) : (s.modJob j f).pins = s.pins := rfl
@[simp] theorem State.modJob_free (s : State) (j : Nat) (f : Job → Job) : (s.modJob j f).free = s.free := rfl
@[simp] theorem State.modJob_pending (s : State) (j : Nat) (f : Job → Job) : (s.modJob j f).pending = s.pending := rfl

@[simp] theorem State.modDma_beacon (s : State) (k : Nat) (f : DmaChan → DmaChan) : (s.modDma k f).beacon = s.beacon := rfl
@[simp] theorem State.modDma_sub (s : State) (k : Nat) (f : DmaChan → DmaChan) : (s.modDma k f).sub = s.sub := rfl
@[simp] theorem State.modDma_pon (s : State) (k : Nat) (f : DmaChan → DmaChan) : (s.modDma k f).pon = s.pon := rfl
@[simp] theorem State.modDma_round0 (s : State) (k : Nat) (f : DmaChan → DmaChan) : (s.modDma k f).round0 = s.round0 := rfl
@[simp] theorem State.modDma_ready (s : State) (k : Nat) (f : DmaChan → DmaChan) : (s.modDma k f).ready = s.ready := rfl
@[simp] theorem State.modDma_fuses (s : State) (k : Nat) (f : DmaChan → DmaChan) : (s.modDma k f).fuses = s.fuses := rfl
@[simp] theorem State.modDma_recs (s : State) (k : Nat) (f : DmaChan → DmaChan) : (s.modDma k f).recs = s.recs := rfl
@[simp] theorem State.modDma_csr (s : State) (k : Nat) (f : DmaChan → DmaChan) : (s.modDma k f).csr = s.csr := rfl
@[simp] theorem State.modDma_latch (s : State) (k : Nat) (f : DmaChan → DmaChan) : (s.modDma k f).latch = s.latch := rfl
@[simp] theorem State.modDma_marks (s : State) (k : Nat) (f : DmaChan → DmaChan) : (s.modDma k f).marks = s.marks := rfl
@[simp] theorem State.modDma_fslots (s : State) (k : Nat) (f : DmaChan → DmaChan) : (s.modDma k f).fslots = s.fslots := rfl
@[simp] theorem State.modDma_routes (s : State) (k : Nat) (f : DmaChan → DmaChan) : (s.modDma k f).routes = s.routes := rfl
@[simp] theorem State.modDma_tables (s : State) (k : Nat) (f : DmaChan → DmaChan) : (s.modDma k f).tables = s.tables := rfl
@[simp] theorem State.modDma_cores (s : State) (k : Nat) (f : DmaChan → DmaChan) : (s.modDma k f).cores = s.cores := rfl
@[simp] theorem State.modDma_noc (s : State) (k : Nat) (f : DmaChan → DmaChan) : (s.modDma k f).noc = s.noc := rfl
@[simp] theorem State.modDma_mem (s : State) (k : Nat) (f : DmaChan → DmaChan) : (s.modDma k f).mem = s.mem := rfl
@[simp] theorem State.modDma_descs (s : State) (k : Nat) (f : DmaChan → DmaChan) : (s.modDma k f).descs = s.descs := rfl
@[simp] theorem State.modDma_jobs (s : State) (k : Nat) (f : DmaChan → DmaChan) : (s.modDma k f).jobs = s.jobs := rfl
@[simp] theorem State.modDma_adm (s : State) (k : Nat) (f : DmaChan → DmaChan) : (s.modDma k f).adm = s.adm := rfl
@[simp] theorem State.modDma_host (s : State) (k : Nat) (f : DmaChan → DmaChan) : (s.modDma k f).host = s.host := rfl
@[simp] theorem State.modDma_hctr (s : State) (k : Nat) (f : DmaChan → DmaChan) : (s.modDma k f).hctr = s.hctr := rfl
@[simp] theorem State.modDma_ports (s : State) (k : Nat) (f : DmaChan → DmaChan) : (s.modDma k f).ports = s.ports := rfl
@[simp] theorem State.modDma_ftime (s : State) (k : Nat) (f : DmaChan → DmaChan) : (s.modDma k f).ftime = s.ftime := rfl
@[simp] theorem State.modDma_regions (s : State) (k : Nat) (f : DmaChan → DmaChan) : (s.modDma k f).regions = s.regions := rfl
@[simp] theorem State.modDma_stepsRef (s : State) (k : Nat) (f : DmaChan → DmaChan) : (s.modDma k f).stepsRef = s.stepsRef := rfl
@[simp] theorem State.modDma_log (s : State) (k : Nat) (f : DmaChan → DmaChan) : (s.modDma k f).log = s.log := rfl
@[simp] theorem State.modDma_nor (s : State) (k : Nat) (f : DmaChan → DmaChan) : (s.modDma k f).nor = s.nor := rfl
@[simp] theorem State.modDma_mgt (s : State) (k : Nat) (f : DmaChan → DmaChan) : (s.modDma k f).mgt = s.mgt := rfl
@[simp] theorem State.modDma_pins (s : State) (k : Nat) (f : DmaChan → DmaChan) : (s.modDma k f).pins = s.pins := rfl
@[simp] theorem State.modDma_free (s : State) (k : Nat) (f : DmaChan → DmaChan) : (s.modDma k f).free = s.free := rfl
@[simp] theorem State.modDma_pending (s : State) (k : Nat) (f : DmaChan → DmaChan) : (s.modDma k f).pending = s.pending := rfl

@[simp] theorem State.modPort_beacon (s : State) (q : Nat) (f : Port → Port) : (s.modPort q f).beacon = s.beacon := rfl
@[simp] theorem State.modPort_sub (s : State) (q : Nat) (f : Port → Port) : (s.modPort q f).sub = s.sub := rfl
@[simp] theorem State.modPort_pon (s : State) (q : Nat) (f : Port → Port) : (s.modPort q f).pon = s.pon := rfl
@[simp] theorem State.modPort_round0 (s : State) (q : Nat) (f : Port → Port) : (s.modPort q f).round0 = s.round0 := rfl
@[simp] theorem State.modPort_ready (s : State) (q : Nat) (f : Port → Port) : (s.modPort q f).ready = s.ready := rfl
@[simp] theorem State.modPort_fuses (s : State) (q : Nat) (f : Port → Port) : (s.modPort q f).fuses = s.fuses := rfl
@[simp] theorem State.modPort_recs (s : State) (q : Nat) (f : Port → Port) : (s.modPort q f).recs = s.recs := rfl
@[simp] theorem State.modPort_csr (s : State) (q : Nat) (f : Port → Port) : (s.modPort q f).csr = s.csr := rfl
@[simp] theorem State.modPort_latch (s : State) (q : Nat) (f : Port → Port) : (s.modPort q f).latch = s.latch := rfl
@[simp] theorem State.modPort_marks (s : State) (q : Nat) (f : Port → Port) : (s.modPort q f).marks = s.marks := rfl
@[simp] theorem State.modPort_fslots (s : State) (q : Nat) (f : Port → Port) : (s.modPort q f).fslots = s.fslots := rfl
@[simp] theorem State.modPort_routes (s : State) (q : Nat) (f : Port → Port) : (s.modPort q f).routes = s.routes := rfl
@[simp] theorem State.modPort_tables (s : State) (q : Nat) (f : Port → Port) : (s.modPort q f).tables = s.tables := rfl
@[simp] theorem State.modPort_cores (s : State) (q : Nat) (f : Port → Port) : (s.modPort q f).cores = s.cores := rfl
@[simp] theorem State.modPort_noc (s : State) (q : Nat) (f : Port → Port) : (s.modPort q f).noc = s.noc := rfl
@[simp] theorem State.modPort_mem (s : State) (q : Nat) (f : Port → Port) : (s.modPort q f).mem = s.mem := rfl
@[simp] theorem State.modPort_dma (s : State) (q : Nat) (f : Port → Port) : (s.modPort q f).dma = s.dma := rfl
@[simp] theorem State.modPort_descs (s : State) (q : Nat) (f : Port → Port) : (s.modPort q f).descs = s.descs := rfl
@[simp] theorem State.modPort_jobs (s : State) (q : Nat) (f : Port → Port) : (s.modPort q f).jobs = s.jobs := rfl
@[simp] theorem State.modPort_adm (s : State) (q : Nat) (f : Port → Port) : (s.modPort q f).adm = s.adm := rfl
@[simp] theorem State.modPort_host (s : State) (q : Nat) (f : Port → Port) : (s.modPort q f).host = s.host := rfl
@[simp] theorem State.modPort_hctr (s : State) (q : Nat) (f : Port → Port) : (s.modPort q f).hctr = s.hctr := rfl
@[simp] theorem State.modPort_ftime (s : State) (q : Nat) (f : Port → Port) : (s.modPort q f).ftime = s.ftime := rfl
@[simp] theorem State.modPort_regions (s : State) (q : Nat) (f : Port → Port) : (s.modPort q f).regions = s.regions := rfl
@[simp] theorem State.modPort_stepsRef (s : State) (q : Nat) (f : Port → Port) : (s.modPort q f).stepsRef = s.stepsRef := rfl
@[simp] theorem State.modPort_log (s : State) (q : Nat) (f : Port → Port) : (s.modPort q f).log = s.log := rfl
@[simp] theorem State.modPort_nor (s : State) (q : Nat) (f : Port → Port) : (s.modPort q f).nor = s.nor := rfl
@[simp] theorem State.modPort_mgt (s : State) (q : Nat) (f : Port → Port) : (s.modPort q f).mgt = s.mgt := rfl
@[simp] theorem State.modPort_pins (s : State) (q : Nat) (f : Port → Port) : (s.modPort q f).pins = s.pins := rfl
@[simp] theorem State.modPort_free (s : State) (q : Nat) (f : Port → Port) : (s.modPort q f).free = s.free := rfl
@[simp] theorem State.modPort_pending (s : State) (q : Nat) (f : Port → Port) : (s.modPort q f).pending = s.pending := rfl

@[simp] theorem State.modQp_beacon (s : State) (n : Nat) (f : QueuePair → QueuePair) : (s.modQp n f).beacon = s.beacon := rfl
@[simp] theorem State.modQp_sub (s : State) (n : Nat) (f : QueuePair → QueuePair) : (s.modQp n f).sub = s.sub := rfl
@[simp] theorem State.modQp_pon (s : State) (n : Nat) (f : QueuePair → QueuePair) : (s.modQp n f).pon = s.pon := rfl
@[simp] theorem State.modQp_round0 (s : State) (n : Nat) (f : QueuePair → QueuePair) : (s.modQp n f).round0 = s.round0 := rfl
@[simp] theorem State.modQp_ready (s : State) (n : Nat) (f : QueuePair → QueuePair) : (s.modQp n f).ready = s.ready := rfl
@[simp] theorem State.modQp_fuses (s : State) (n : Nat) (f : QueuePair → QueuePair) : (s.modQp n f).fuses = s.fuses := rfl
@[simp] theorem State.modQp_recs (s : State) (n : Nat) (f : QueuePair → QueuePair) : (s.modQp n f).recs = s.recs := rfl
@[simp] theorem State.modQp_csr (s : State) (n : Nat) (f : QueuePair → QueuePair) : (s.modQp n f).csr = s.csr := rfl
@[simp] theorem State.modQp_latch (s : State) (n : Nat) (f : QueuePair → QueuePair) : (s.modQp n f).latch = s.latch := rfl
@[simp] theorem State.modQp_marks (s : State) (n : Nat) (f : QueuePair → QueuePair) : (s.modQp n f).marks = s.marks := rfl
@[simp] theorem State.modQp_fslots (s : State) (n : Nat) (f : QueuePair → QueuePair) : (s.modQp n f).fslots = s.fslots := rfl
@[simp] theorem State.modQp_routes (s : State) (n : Nat) (f : QueuePair → QueuePair) : (s.modQp n f).routes = s.routes := rfl
@[simp] theorem State.modQp_tables (s : State) (n : Nat) (f : QueuePair → QueuePair) : (s.modQp n f).tables = s.tables := rfl
@[simp] theorem State.modQp_cores (s : State) (n : Nat) (f : QueuePair → QueuePair) : (s.modQp n f).cores = s.cores := rfl
@[simp] theorem State.modQp_noc (s : State) (n : Nat) (f : QueuePair → QueuePair) : (s.modQp n f).noc = s.noc := rfl
@[simp] theorem State.modQp_mem (s : State) (n : Nat) (f : QueuePair → QueuePair) : (s.modQp n f).mem = s.mem := rfl
@[simp] theorem State.modQp_dma (s : State) (n : Nat) (f : QueuePair → QueuePair) : (s.modQp n f).dma = s.dma := rfl
@[simp] theorem State.modQp_descs (s : State) (n : Nat) (f : QueuePair → QueuePair) : (s.modQp n f).descs = s.descs := rfl
@[simp] theorem State.modQp_jobs (s : State) (n : Nat) (f : QueuePair → QueuePair) : (s.modQp n f).jobs = s.jobs := rfl
@[simp] theorem State.modQp_adm (s : State) (n : Nat) (f : QueuePair → QueuePair) : (s.modQp n f).adm = s.adm := rfl
@[simp] theorem State.modQp_hctr (s : State) (n : Nat) (f : QueuePair → QueuePair) : (s.modQp n f).hctr = s.hctr := rfl
@[simp] theorem State.modQp_ports (s : State) (n : Nat) (f : QueuePair → QueuePair) : (s.modQp n f).ports = s.ports := rfl
@[simp] theorem State.modQp_ftime (s : State) (n : Nat) (f : QueuePair → QueuePair) : (s.modQp n f).ftime = s.ftime := rfl
@[simp] theorem State.modQp_regions (s : State) (n : Nat) (f : QueuePair → QueuePair) : (s.modQp n f).regions = s.regions := rfl
@[simp] theorem State.modQp_stepsRef (s : State) (n : Nat) (f : QueuePair → QueuePair) : (s.modQp n f).stepsRef = s.stepsRef := rfl
@[simp] theorem State.modQp_log (s : State) (n : Nat) (f : QueuePair → QueuePair) : (s.modQp n f).log = s.log := rfl
@[simp] theorem State.modQp_nor (s : State) (n : Nat) (f : QueuePair → QueuePair) : (s.modQp n f).nor = s.nor := rfl
@[simp] theorem State.modQp_mgt (s : State) (n : Nat) (f : QueuePair → QueuePair) : (s.modQp n f).mgt = s.mgt := rfl
@[simp] theorem State.modQp_pins (s : State) (n : Nat) (f : QueuePair → QueuePair) : (s.modQp n f).pins = s.pins := rfl
@[simp] theorem State.modQp_free (s : State) (n : Nat) (f : QueuePair → QueuePair) : (s.modQp n f).free = s.free := rfl
@[simp] theorem State.modQp_pending (s : State) (n : Nat) (f : QueuePair → QueuePair) : (s.modQp n f).pending = s.pending := rfl

@[simp] theorem State.raise_beacon (s : State) (e : Ev) : (s.raise e).beacon = s.beacon := rfl
@[simp] theorem State.raise_sub (s : State) (e : Ev) : (s.raise e).sub = s.sub := rfl
@[simp] theorem State.raise_pon (s : State) (e : Ev) : (s.raise e).pon = s.pon := rfl
@[simp] theorem State.raise_round0 (s : State) (e : Ev) : (s.raise e).round0 = s.round0 := rfl
@[simp] theorem State.raise_ready (s : State) (e : Ev) : (s.raise e).ready = s.ready := rfl
@[simp] theorem State.raise_fuses (s : State) (e : Ev) : (s.raise e).fuses = s.fuses := rfl
@[simp] theorem State.raise_recs (s : State) (e : Ev) : (s.raise e).recs = s.recs := rfl
@[simp] theorem State.raise_csr (s : State) (e : Ev) : (s.raise e).csr = s.csr := rfl
@[simp] theorem State.raise_latch (s : State) (e : Ev) : (s.raise e).latch = s.latch := rfl
@[simp] theorem State.raise_marks (s : State) (e : Ev) : (s.raise e).marks = s.marks := rfl
@[simp] theorem State.raise_fslots (s : State) (e : Ev) : (s.raise e).fslots = s.fslots := rfl
@[simp] theorem State.raise_routes (s : State) (e : Ev) : (s.raise e).routes = s.routes := rfl
@[simp] theorem State.raise_tables (s : State) (e : Ev) : (s.raise e).tables = s.tables := rfl
@[simp] theorem State.raise_cores (s : State) (e : Ev) : (s.raise e).cores = s.cores := rfl
@[simp] theorem State.raise_noc (s : State) (e : Ev) : (s.raise e).noc = s.noc := rfl
@[simp] theorem State.raise_mem (s : State) (e : Ev) : (s.raise e).mem = s.mem := rfl
@[simp] theorem State.raise_dma (s : State) (e : Ev) : (s.raise e).dma = s.dma := rfl
@[simp] theorem State.raise_descs (s : State) (e : Ev) : (s.raise e).descs = s.descs := rfl
@[simp] theorem State.raise_jobs (s : State) (e : Ev) : (s.raise e).jobs = s.jobs := rfl
@[simp] theorem State.raise_adm (s : State) (e : Ev) : (s.raise e).adm = s.adm := rfl
@[simp] theorem State.raise_host (s : State) (e : Ev) : (s.raise e).host = s.host := rfl
@[simp] theorem State.raise_hctr (s : State) (e : Ev) : (s.raise e).hctr = s.hctr := rfl
@[simp] theorem State.raise_ports (s : State) (e : Ev) : (s.raise e).ports = s.ports := rfl
@[simp] theorem State.raise_ftime (s : State) (e : Ev) : (s.raise e).ftime = s.ftime := rfl
@[simp] theorem State.raise_regions (s : State) (e : Ev) : (s.raise e).regions = s.regions := rfl
@[simp] theorem State.raise_stepsRef (s : State) (e : Ev) : (s.raise e).stepsRef = s.stepsRef := rfl
@[simp] theorem State.raise_nor (s : State) (e : Ev) : (s.raise e).nor = s.nor := rfl
@[simp] theorem State.raise_mgt (s : State) (e : Ev) : (s.raise e).mgt = s.mgt := rfl
@[simp] theorem State.raise_pins (s : State) (e : Ev) : (s.raise e).pins = s.pins := rfl
@[simp] theorem State.raise_free (s : State) (e : Ev) : (s.raise e).free = s.free := rfl
@[simp] theorem State.raise_pending (s : State) (e : Ev) : (s.raise e).pending = s.pending := rfl

@[simp] theorem State.raiseTable_beacon (s : State) (n code cls d : Nat) : (s.raiseTable n code cls d).beacon = s.beacon := rfl
@[simp] theorem State.raiseTable_sub (s : State) (n code cls d : Nat) : (s.raiseTable n code cls d).sub = s.sub := rfl
@[simp] theorem State.raiseTable_pon (s : State) (n code cls d : Nat) : (s.raiseTable n code cls d).pon = s.pon := rfl
@[simp] theorem State.raiseTable_round0 (s : State) (n code cls d : Nat) : (s.raiseTable n code cls d).round0 = s.round0 := rfl
@[simp] theorem State.raiseTable_ready (s : State) (n code cls d : Nat) : (s.raiseTable n code cls d).ready = s.ready := rfl
@[simp] theorem State.raiseTable_fuses (s : State) (n code cls d : Nat) : (s.raiseTable n code cls d).fuses = s.fuses := rfl
@[simp] theorem State.raiseTable_recs (s : State) (n code cls d : Nat) : (s.raiseTable n code cls d).recs = s.recs := rfl
@[simp] theorem State.raiseTable_csr (s : State) (n code cls d : Nat) : (s.raiseTable n code cls d).csr = s.csr := rfl
@[simp] theorem State.raiseTable_latch (s : State) (n code cls d : Nat) : (s.raiseTable n code cls d).latch = s.latch := rfl
@[simp] theorem State.raiseTable_marks (s : State) (n code cls d : Nat) : (s.raiseTable n code cls d).marks = s.marks := rfl
@[simp] theorem State.raiseTable_fslots (s : State) (n code cls d : Nat) : (s.raiseTable n code cls d).fslots = s.fslots := rfl
@[simp] theorem State.raiseTable_routes (s : State) (n code cls d : Nat) : (s.raiseTable n code cls d).routes = s.routes := rfl
@[simp] theorem State.raiseTable_tables (s : State) (n code cls d : Nat) : (s.raiseTable n code cls d).tables = s.tables := rfl
@[simp] theorem State.raiseTable_cores (s : State) (n code cls d : Nat) : (s.raiseTable n code cls d).cores = s.cores := rfl
@[simp] theorem State.raiseTable_noc (s : State) (n code cls d : Nat) : (s.raiseTable n code cls d).noc = s.noc := rfl
@[simp] theorem State.raiseTable_mem (s : State) (n code cls d : Nat) : (s.raiseTable n code cls d).mem = s.mem := rfl
@[simp] theorem State.raiseTable_dma (s : State) (n code cls d : Nat) : (s.raiseTable n code cls d).dma = s.dma := rfl
@[simp] theorem State.raiseTable_descs (s : State) (n code cls d : Nat) : (s.raiseTable n code cls d).descs = s.descs := rfl
@[simp] theorem State.raiseTable_jobs (s : State) (n code cls d : Nat) : (s.raiseTable n code cls d).jobs = s.jobs := rfl
@[simp] theorem State.raiseTable_adm (s : State) (n code cls d : Nat) : (s.raiseTable n code cls d).adm = s.adm := rfl
@[simp] theorem State.raiseTable_host (s : State) (n code cls d : Nat) : (s.raiseTable n code cls d).host = s.host := rfl
@[simp] theorem State.raiseTable_hctr (s : State) (n code cls d : Nat) : (s.raiseTable n code cls d).hctr = s.hctr := rfl
@[simp] theorem State.raiseTable_ports (s : State) (n code cls d : Nat) : (s.raiseTable n code cls d).ports = s.ports := rfl
@[simp] theorem State.raiseTable_ftime (s : State) (n code cls d : Nat) : (s.raiseTable n code cls d).ftime = s.ftime := rfl
@[simp] theorem State.raiseTable_regions (s : State) (n code cls d : Nat) : (s.raiseTable n code cls d).regions = s.regions := rfl
@[simp] theorem State.raiseTable_stepsRef (s : State) (n code cls d : Nat) : (s.raiseTable n code cls d).stepsRef = s.stepsRef := rfl
@[simp] theorem State.raiseTable_nor (s : State) (n code cls d : Nat) : (s.raiseTable n code cls d).nor = s.nor := rfl
@[simp] theorem State.raiseTable_mgt (s : State) (n code cls d : Nat) : (s.raiseTable n code cls d).mgt = s.mgt := rfl
@[simp] theorem State.raiseTable_pins (s : State) (n code cls d : Nat) : (s.raiseTable n code cls d).pins = s.pins := rfl
@[simp] theorem State.raiseTable_free (s : State) (n code cls d : Nat) : (s.raiseTable n code cls d).free = s.free := rfl
@[simp] theorem State.raiseTable_pending (s : State) (n code cls d : Nat) : (s.raiseTable n code cls d).pending = s.pending := rfl

@[simp] theorem State.raiseDev_beacon (s : State) (code cls d : Nat) : (s.raiseDev code cls d).beacon = s.beacon := rfl
@[simp] theorem State.raiseDev_sub (s : State) (code cls d : Nat) : (s.raiseDev code cls d).sub = s.sub := rfl
@[simp] theorem State.raiseDev_pon (s : State) (code cls d : Nat) : (s.raiseDev code cls d).pon = s.pon := rfl
@[simp] theorem State.raiseDev_round0 (s : State) (code cls d : Nat) : (s.raiseDev code cls d).round0 = s.round0 := rfl
@[simp] theorem State.raiseDev_ready (s : State) (code cls d : Nat) : (s.raiseDev code cls d).ready = s.ready := rfl
@[simp] theorem State.raiseDev_fuses (s : State) (code cls d : Nat) : (s.raiseDev code cls d).fuses = s.fuses := rfl
@[simp] theorem State.raiseDev_recs (s : State) (code cls d : Nat) : (s.raiseDev code cls d).recs = s.recs := rfl
@[simp] theorem State.raiseDev_csr (s : State) (code cls d : Nat) : (s.raiseDev code cls d).csr = s.csr := rfl
@[simp] theorem State.raiseDev_latch (s : State) (code cls d : Nat) : (s.raiseDev code cls d).latch = s.latch := rfl
@[simp] theorem State.raiseDev_marks (s : State) (code cls d : Nat) : (s.raiseDev code cls d).marks = s.marks := rfl
@[simp] theorem State.raiseDev_fslots (s : State) (code cls d : Nat) : (s.raiseDev code cls d).fslots = s.fslots := rfl
@[simp] theorem State.raiseDev_routes (s : State) (code cls d : Nat) : (s.raiseDev code cls d).routes = s.routes := rfl
@[simp] theorem State.raiseDev_tables (s : State) (code cls d : Nat) : (s.raiseDev code cls d).tables = s.tables := rfl
@[simp] theorem State.raiseDev_cores (s : State) (code cls d : Nat) : (s.raiseDev code cls d).cores = s.cores := rfl
@[simp] theorem State.raiseDev_noc (s : State) (code cls d : Nat) : (s.raiseDev code cls d).noc = s.noc := rfl
@[simp] theorem State.raiseDev_mem (s : State) (code cls d : Nat) : (s.raiseDev code cls d).mem = s.mem := rfl
@[simp] theorem State.raiseDev_dma (s : State) (code cls d : Nat) : (s.raiseDev code cls d).dma = s.dma := rfl
@[simp] theorem State.raiseDev_descs (s : State) (code cls d : Nat) : (s.raiseDev code cls d).descs = s.descs := rfl
@[simp] theorem State.raiseDev_jobs (s : State) (code cls d : Nat) : (s.raiseDev code cls d).jobs = s.jobs := rfl
@[simp] theorem State.raiseDev_adm (s : State) (code cls d : Nat) : (s.raiseDev code cls d).adm = s.adm := rfl
@[simp] theorem State.raiseDev_host (s : State) (code cls d : Nat) : (s.raiseDev code cls d).host = s.host := rfl
@[simp] theorem State.raiseDev_hctr (s : State) (code cls d : Nat) : (s.raiseDev code cls d).hctr = s.hctr := rfl
@[simp] theorem State.raiseDev_ports (s : State) (code cls d : Nat) : (s.raiseDev code cls d).ports = s.ports := rfl
@[simp] theorem State.raiseDev_ftime (s : State) (code cls d : Nat) : (s.raiseDev code cls d).ftime = s.ftime := rfl
@[simp] theorem State.raiseDev_regions (s : State) (code cls d : Nat) : (s.raiseDev code cls d).regions = s.regions := rfl
@[simp] theorem State.raiseDev_stepsRef (s : State) (code cls d : Nat) : (s.raiseDev code cls d).stepsRef = s.stepsRef := rfl
@[simp] theorem State.raiseDev_nor (s : State) (code cls d : Nat) : (s.raiseDev code cls d).nor = s.nor := rfl
@[simp] theorem State.raiseDev_mgt (s : State) (code cls d : Nat) : (s.raiseDev code cls d).mgt = s.mgt := rfl
@[simp] theorem State.raiseDev_pins (s : State) (code cls d : Nat) : (s.raiseDev code cls d).pins = s.pins := rfl
@[simp] theorem State.raiseDev_free (s : State) (code cls d : Nat) : (s.raiseDev code cls d).free = s.free := rfl
@[simp] theorem State.raiseDev_pending (s : State) (code cls d : Nat) : (s.raiseDev code cls d).pending = s.pending := rfl

/-! ### What a changed part reads as -/

theorem State.table_modTable {s : State} (h : SMap.wf Table.reset s.tables = true) (n m : Nat) (f : Table → Table) :
    (s.modTable n f).table m = if m = n then f (s.table n) else s.table m := SMap.get_set h n m (f (s.table n))

theorem State.core_modCore {s : State} (h : SMap.wf Core.reset s.cores = true) (k j : Nat) (f : Core → Core) :
    (s.modCore k f).core j = if j = k then f (s.core k) else s.core j := SMap.get_set h k j (f (s.core k))

theorem State.region_modRegion {s : State} (h : SMap.wf Region.reset s.regions = true) (r q : Nat) (f : Region → Region) :
    (s.modRegion r f).region q = if q = r then f (s.region r) else s.region q := SMap.get_set h r q (f (s.region r))

theorem State.job_modJob {s : State} (h : SMap.wf none s.jobs = true) (j i : Nat) (f : Job → Job) :
    (s.modJob j f).job i = if i = j then (s.job j).map f else s.job i := SMap.get_set h j i _

theorem State.dmaCh_modDma {s : State} (h : SMap.wf DmaChan.reset s.dma = true) (k j : Nat) (f : DmaChan → DmaChan) :
    (s.modDma k f).dmaCh j = if j = k then f (s.dmaCh k) else s.dmaCh j := SMap.get_set h k j (f (s.dmaCh k))

theorem State.port_modPort {s : State} (h : SMap.wf Port.reset s.ports = true) (q p : Nat) (f : Port → Port) :
    (s.modPort q f).port p = if p = q then f (s.port q) else s.port p := SMap.get_set h q p (f (s.port q))

theorem State.qp_modQp {s : State} (h : SMap.wf QueuePair.reset s.host.qps = true) (n m : Nat) (f : QueuePair → QueuePair) :
    (s.modQp n f).qp m = if m = n then f (s.qp n) else s.qp m := SMap.get_set h n m (f (s.qp n))

theorem State.csrAt_setCsr {s : State} (h : SMap.wf 0 s.csr = true) (a b : Nat) (v : Word) :
    (s.setCsr a v).csrAt b = if b = a then v else s.csrAt b := by
  unfold State.csrAt State.setCsr
  rw [SMap.get_set h]
  split
  · next e => rw [e, BitVec.xor_assoc, BitVec.xor_self, BitVec.xor_zero]
  · rfl

end Sys2Proof.Machine
end

