-- ==== Sys2Proof/Laws/Owes.lean ====
section
/-!
SUPPORT. What noting reads and posting effects can do: they owe effects and do nothing else.
-/
namespace Sys2Proof.Machine

/-- Nothing done owes nothing. -/
theorem State.OwesOnly.refl (s : State) (n : Nat) : s.OwesOnly s n :=
  ⟨rfl, fun _ _ => rfl, rfl, fun _ _ => ⟨rfl, rfl⟩, fun _ => ⟨rfl, rfl, rfl⟩⟩

/-- One after the other. -/
theorem State.OwesOnly.trans {s t u : State} {n : Nat} (h : s.OwesOnly t n) (g : t.OwesOnly u n) : s.OwesOnly u n := by
  have hr : t.recs = s.recs := by have := congrArg State.recs h.rest; simpa using this
  constructor
  · have := g.rest; rw [← h.rest, ← this]
  · exact fun m hm => (g.others m hm).trans (h.others m hm)
  · have := g.own; rw [← h.own, ← this]
  · exact fun a ha => ⟨(g.regs a ha).1.trans (h.regs a ha).1, (g.regs a ha).2.trans (h.regs a ha).2⟩
  · intro hd
    obtain ⟨h1, h2, h3⟩ := h.calm hd
    obtain ⟨g1, g2, g3⟩ := g.calm (by rw [hr]; exact hd)
    exact ⟨g1.trans h1, g2.trans h2, g3.trans h3⟩

/-- A table changed in what it owes, until when it is busy and what the detector notes. -/
theorem State.OwesOnly.modTable {s : State} (hs : SMap.wf Table.reset s.tables = true) (n : Nat) (f : Table → Table)
    (hf : { f (s.table n) with pend := (s.table n).pend, busyUntil := (s.table n).busyUntil, undrained := (s.table n).undrained } = s.table n)
    (hd : s.recs.debug = false → (f (s.table n)).undrained = (s.table n).undrained) : s.OwesOnly (s.modTable n f) n := by
  have ht := fun m => State.table_modTable hs n m f
  refine ⟨rfl, ?_, ?_, fun _ _ => ⟨rfl, rfl⟩, fun h => ⟨rfl, rfl, ?_⟩⟩
  · intro m hm; rw [ht, if_neg hm]
  · rw [ht, if_pos rfl]; exact hf
  · rw [ht, if_pos rfl]; exact hd h

/-- A register of the hazard detector written in debug mode. -/
theorem State.OwesOnly.setCsr {s : State} (hs : SMap.wf 0 s.csr = true) (hd : s.recs.debug = true) (n a : Nat) (v : Word)
    (ha : a ∈ hazardRegs n) : s.OwesOnly (s.setCsr a v) n := by
  refine ⟨rfl, fun _ _ => rfl, rfl, ?_, ?_⟩
  · intro b hb
    refine ⟨?_, rfl⟩
    rw [State.csrAt_setCsr hs, if_neg]
    rintro rfl; exact hb ha
  · intro h; simp [hd] at h

/-- A register of the hazard detector marked in debug mode. -/
theorem State.OwesOnly.mark {s : State} (hs : SMap.wf (0, 0) s.marks = true) (hd : s.recs.debug = true) (n a v : Nat)
    (ha : a ∈ hazardRegs n) : s.OwesOnly (s.mark a v) n := by
  unfold State.mark
  split
  · exact .refl s n
  · refine ⟨rfl, fun _ _ => rfl, rfl, ?_, ?_⟩
    · intro b hb
      refine ⟨rfl, ?_⟩
      rw [SMap.get_set hs, if_neg]
      rintro rfl; exact hb ha
    · intro h; simp [hd] at h

/-- A value recorded in the detector's registers in debug mode. -/
theorem State.OwesOnly.setCsrs {s : State} (hs : SMap.wf 0 s.csr = true) (hd : s.recs.debug = true) (n a : Nat) (ws : List Word)
    (ha : ∀ i, i < ws.length → a + 4 * i ∈ hazardRegs n) : s.OwesOnly (s.setCsrs a ws) n := by
  induction ws generalizing s a with
  | nil => exact .refl s n
  | cons w ws ih =>
    refine (State.OwesOnly.setCsr hs hd n a w (by simpa using ha 0 (by simp))).trans (@ih (s.setCsr a w) (SMap.wf_set _ _ hs) hd (a + 4) ?_)
    intro i hi
    have := ha (i + 1) (by simpa using hi)
    rwa [show a + 4 * (i + 1) = a + 4 + 4 * i by ring] at this

/-- Registers written one after another leave the tables and the settings as they are. -/
theorem State.setCsrs_tables (s : State) (a : Nat) (ws : List Word) : (s.setCsrs a ws).tables = s.tables := by
  induction ws generalizing s a with
  | nil => rfl
  | cons w ws ih => exact ih _ _

theorem State.setCsrs_recs (s : State) (a : Nat) (ws : List Word) : (s.setCsrs a ws).recs = s.recs := by
  induction ws generalizing s a with
  | nil => rfl
  | cons w ws ih => exact ih _ _

/-- A mark leaves the tables as they are. -/
theorem State.mark_tables (s : State) (a v : Nat) : (s.mark a v).tables = s.tables := by
  unfold State.mark; split <;> rfl

/-- Noting a hazard writes the detector's registers alone. -/
theorem State.hazard_owes {s : State} (hs : Ok cmds s) (hd : s.recs.debug = true) (n : Nat) (z : Hazard) :
    s.OwesOnly (s.hazard n z) n := by
  unfold State.hazard
  dsimp only
  split
  · exact .refl s n
  · refine (State.OwesOnly.setCsrs hs.csr_ hd n _ _ ?_).trans
      (State.OwesOnly.mark (State.setCsrs_ok hs).marks_ (by rw [State.setCsrs_recs]; exact hd) n _ _ (by simp [hazardRegs]))
    intro i hi
    have : i = 0 ∨ i = 1 ∨ i = 2 ∨ i = 3 ∨ i = 4 := by simp at hi; omega
    rcases this with rfl | rfl | rfl | rfl | rfl <;> simp [hazardRegs, dlrReg]

/-- A hazard leaves every table as it is. -/
theorem State.hazard_tables (s : State) (n : Nat) (z : Hazard) : (s.hazard n z).tables = s.tables := by
  unfold State.hazard
  dsimp only
  split
  · rfl
  · rw [State.mark_tables, State.setCsrs_tables]

/-- Noting reads owes nothing. -/
theorem State.noteReads_owes {s : State} (hs : Ok cmds s) (n slot : Nat) (pc : BitVec 17) (ls : List Loc) :
    s.OwesOnly (s.noteReads n slot pc ls) n ∧ ((s.noteReads n slot pc ls).table n).pend = (s.table n).pend ∧
      ((s.noteReads n slot pc ls).table n).busyUntil = (s.table n).busyUntil := by
  unfold State.noteReads
  split
  · exact ⟨.refl s n, rfl, rfl⟩
  · rename_i hd
    have hd : s.recs.debug = true := by simpa using hd
    refine List.foldlRecOn (motive := fun u => Ok cmds u ∧ u.recs.debug = true ∧ s.OwesOnly u n ∧ (u.table n).pend = (s.table n).pend ∧
      (u.table n).busyUntil = (s.table n).busyUntil) ls _ ⟨hs, hd, .refl s n, rfl, rfl⟩ ?_ |>.2.2
    rintro u ⟨hu, hud, ho, hp, hb⟩ l _
    have key : ∀ v, Ok cmds v → v.recs.debug = true → u.OwesOnly v n → v.tables = u.tables →
        Ok cmds (v.modTable n (fun b => { b with undrained := SMap.set none b.undrained l.key none })) ∧ v.recs.debug = true ∧
        s.OwesOnly (v.modTable n (fun b => { b with undrained := SMap.set none b.undrained l.key none })) n ∧
        ((v.modTable n (fun b => { b with undrained := SMap.set none b.undrained l.key none })).table n).pend = (s.table n).pend ∧
        ((v.modTable n (fun b => { b with undrained := SMap.set none b.undrained l.key none })).table n).busyUntil = (s.table n).busyUntil := by
      intro v hv hvd hvo hvt
      have e : v.table n = u.table n := by unfold State.table; rw [hvt]
      refine ⟨?_, hvd, (ho.trans hvo).trans (.modTable hv.tables_.1 n _ rfl (by simp [hvd])), ?_, ?_⟩
      · exact State.modTable_ok hv (fun b hb => tableOk_undrained hb (SMap.wf_set _ _ hb.undrained_))
      · rw [State.table_modTable hv.tables_.1, if_pos rfl, e]; exact hp
      · rw [State.table_modTable hv.tables_.1, if_pos rfl, e]; exact hb
    dsimp only
    split
    · split
      · rename_i p _ _
        have hh := State.hazard_owes hu hud n ⟨2, slot, l, pc, (u.table n).tcc.truncate 32, p.tcc⟩
        refine key _ (State.hazard_ok hu) ?_ hh (State.hazard_tables _ _ _)
        have hr := congrArg State.recs hh.rest
        rw [← hud, ← hr]
      · exact key u hu hud (.refl u n) rfl
    · exact key u hu hud (.refl u n) rfl

/-- An effect whose posting leaves the effects already owed as they are. -/
def Eff.keeps (e : Eff) : Prop := ∀ due p, supersede e due p = p

/-- Posting effects that leave the ones already owed as they are. -/
theorem State.post_owes {s : State} (hs : SMap.wf Table.reset s.tables = true) (n slot : Nat) (pc : BitVec 17) (chk : Bool) (es : List (Nat × Eff))
    (hk : ∀ e ∈ es, e.2.keeps) : s.Owes (s.post n slot pc chk es) n es := by
  unfold State.post
  dsimp only
  refine ⟨.modTable hs n _ rfl (fun _ => rfl), ?_, ?_⟩
  · unfold State.owed
    rw [State.table_modTable hs, if_pos rfl]
    dsimp only
    generalize (s.table n).pend = ps
    induction es generalizing ps with
    | nil => simp
    | cons e es ih =>
      rw [List.foldl_cons, ih (fun x hx => hk x (List.mem_cons_of_mem _ hx))]
      have : ps.map (supersede e.2 (s.cyc n + e.1)) = ps := by
        conv_rhs => rw [← List.map_id ps]
        exact List.map_congr_left (fun p _ => hk e List.mem_cons_self _ _)
      simp [this]
  · rw [State.table_modTable hs, if_pos rfl]
    dsimp only
    generalize (s.table n).busyUntil = m
    have mono : ∀ (l : List (Nat × Eff)) (m : Nat), m ≤ l.foldl (fun m e => Nat.max m (s.cyc n + e.1 + e.2.extra)) m := by
      intro l
      induction l with
      | nil => exact fun m => Nat.le_refl m
      | cons e l ih => exact fun m => Nat.le_trans (Nat.le_max_left _ _) (ih _)
    induction es generalizing m with
    | nil => simp
    | cons x es ih =>
      intro e he
      rcases List.mem_cons.1 he with rfl | he
      · exact Nat.le_trans (Nat.le_max_right _ _) (mono es _)
      · exact ih (fun x hx => hk x (List.mem_cons_of_mem _ hx)) _ e he

/-- Being busy for the latencies of effects owes nothing more. -/
theorem State.Owes.busyWith {s t : State} {n : Nat} {es : List (Nat × Eff)} (h : s.Owes t n es)
    (ht : SMap.wf Table.reset t.tables = true) (fs : List (Nat × Eff)) : s.Owes (t.busyWith n fs) n es := by
  unfold State.busyWith
  dsimp only
  refine ⟨h.only.trans (.modTable ht n _ rfl (fun _ => rfl)), ?_, ?_⟩
  · rw [← h.owed]; unfold State.owed; rw [State.table_modTable ht, if_pos rfl]
  · intro e he
    rw [State.table_modTable ht, if_pos rfl]
    refine (h.busy e he).trans ?_
    dsimp only
    generalize (t.table n).busyUntil = m
    induction fs generalizing m with
    | nil => exact Nat.le_refl m
    | cons x fs ih => exact Nat.le_trans (Nat.le_max_left _ _) (ih _)

/-- The clock of a region after an operation that only owes effects. -/
theorem State.OwesOnly.cyc {s t : State} {n : Nat} (h : s.OwesOnly t n) (r : Nat) : t.cyc r = s.cyc r := by
  rw [← h.rest]; rfl

/-- Effects owed after reads noted. -/
theorem State.Owes.after {s t u : State} {n : Nat} {es : List (Nat × Eff)} (h : s.OwesOnly t n) (hp : (t.table n).pend = (s.table n).pend)
    (g : t.Owes u n es) : s.Owes u n es := by
  refine ⟨h.trans g.only, ?_, ?_⟩
  · rw [g.owed]; unfold State.owed; rw [hp, h.cyc]
  · intro e he; rw [← h.cyc]; exact g.busy e he

/-- An operation that reads and writes registers of each acting core alone. -/
theorem State.eachCore_owes {s : State} (hs : Ok cmds s) (h : Hdr) (slot : Nat) (f : Nat → Nat → CoreAct) (es : List (Nat × Eff))
    (he : es = (s.actors h).flatMap (fun x => (f x.1 x.2).effs)) (hk : ∀ e ∈ es, e.2.keeps) : s.Owes (s.eachCore h slot f) h.table es := by
  unfold State.eachCore
  dsimp only
  obtain ⟨h1, h2, -⟩ := State.noteReads_owes hs h.table slot h.pc (((s.actors h).map (fun x => f x.1 x.2)).flatMap (·.reads))
  refine .after h1 h2 ?_
  have e : ((s.actors h).map (fun x => f x.1 x.2)).flatMap (·.effs) = es := by rw [he, List.flatMap_map]
  rw [e]
  have hn := State.noteReads_ok (t := h.table) (slot := slot) (pc := h.pc) (ls := ((s.actors h).map (fun x => f x.1 x.2)).flatMap (·.reads)) hs
  exact (State.post_owes hn.tables_.1 _ _ _ _ _ hk).busyWith (State.post_ok hn).tables_.1 _

/-- Only updates of accumulators change what is already owed. -/
theorem Eff.keeps_of {e : Eff} (h : match e with | .acc .. => False | .accClear .. => False | _ => True) : e.keeps := by
  intro due p
  cases e <;> simp_all [supersede]

/-- An operation whose word issues has its effect. -/
theorem slotOp_go {wf : Bool} {h : Hdr} {slot : Nat} {body : State → State} {s s1 : State} (hw : wf = true) (hi : s.issue h slot = .go s1) :
    slotOp wf h slot body s = .next (body s1) := by
  unfold slotOp; rw [hw, hi]; rfl

/-- The effects in the acting cores leave what is owed as it is if those of each core do. -/
theorem State.inActors_keeps {s : State} {h : Hdr} {f : Nat → List (Nat × Eff)} (hf : ∀ k, ∀ e ∈ f k, e.2.keeps) :
    ∀ e ∈ s.inActors h f, e.2.keeps := by
  intro e he
  unfold State.inActors at he
  obtain ⟨x, -, hx⟩ := List.mem_flatMap.1 he
  exact hf _ _ hx

/-- An operation that writes registers of each acting core alone: it completes, and owes the writes. -/
theorem slotOp_eachCore {wf : Bool} {h : Hdr} {slot : Nat} {f : Nat → Nat → CoreAct} {g : Nat → List (Nat × Eff)} {s s1 : State} {body : State → State}
    (hs : Ok cmds s) (hw : wf = true) (hi : s.issue h slot = .go s1) (hb : body s1 = s1.eachCore h slot f)
    (hf : ∀ a k, (f a k).effs = g k) (hg : ∀ k, ∀ e ∈ g k, e.2.keeps) :
    ∃ t, slotOp wf h slot body s = .next t ∧ s1.Owes t h.table (s1.inActors h g) := by
  refine ⟨_, slotOp_go hw hi, ?_⟩
  rw [hb]
  refine State.eachCore_owes (State.issue_go_ok hs hi) h slot f _ ?_ (State.inActors_keeps hg)
  unfold State.inActors
  simp only [hf]

end Sys2Proof.Machine
end

