-- ==== Sys2Proof/Laws/Time.lean ====
section
/-!
SUPPORT. Nothing that happens in a table's cycles moves the beacon: the operations that the passing of time is made of leave device time alone.
-/
namespace Sys2Proof.Machine

/-- Device time stands at `u0` elevenths after tick `b0`. -/
def At (b0 u0 : Nat) (s : State) : Prop := s.beacon = b0 ∧ s.sub = u0

variable {b0 u0 : Nat}

theorem at_foldl {β : Type} {f : State → β → State} {l : List β} {a : State} (h : At b0 u0 a)
    (hf : ∀ (a : State) (x : β), At b0 u0 a → At b0 u0 (f a x)) : At b0 u0 (l.foldl f a) := foldl_keeps (P := At b0 u0) h hf

theorem at_foldl_fst {β γ : Type} {f : State × γ → β → State × γ} {l : List β} {a : State × γ} (h : At b0 u0 a.1)
    (hf : ∀ (a : State × γ) (x : β), At b0 u0 a.1 → At b0 u0 (f a x).1) : At b0 u0 (l.foldl f a).1 :=
  foldl_keeps (P := fun x : State × γ => At b0 u0 x.1) h hf

theorem at_foldl_snd {β γ : Type} {f : γ × State → β → γ × State} {l : List β} {a : γ × State} (h : At b0 u0 a.2)
    (hf : ∀ (a : γ × State) (x : β), At b0 u0 a.2 → At b0 u0 (f a x).2) : At b0 u0 (l.foldl f a).2 :=
  foldl_keeps (P := fun x : γ × State => At b0 u0 x.2) h hf

theorem State.modTable_at {s : State} {t : Nat} {f : Table → Table} (hs : At b0 u0 s) : At b0 u0 (State.modTable s t f) := by
  unfold State.modTable
  repeat any_goals first
    | with_reducible assumption
    | assumption

theorem State.modCore_at {s : State} {k : Nat} {f : Core → Core} (hs : At b0 u0 s) : At b0 u0 (State.modCore s k f) := by
  unfold State.modCore
  repeat any_goals first
    | with_reducible assumption
    | assumption

theorem State.modRegion_at {s : State} {r : Nat} {f : Region → Region} (hs : At b0 u0 s) : At b0 u0 (State.modRegion s r f) := by
  unfold State.modRegion
  repeat any_goals first
    | with_reducible assumption
    | assumption

theorem State.modJob_at {s : State} {j : Nat} {f : Job → Job} (hs : At b0 u0 s) : At b0 u0 (State.modJob s j f) := by
  unfold State.modJob
  repeat any_goals first
    | with_reducible assumption
    | assumption

theorem State.modDma_at {s : State} {k : Nat} {f : DmaChan → DmaChan} (hs : At b0 u0 s) : At b0 u0 (State.modDma s k f) := by
  unfold State.modDma
  repeat any_goals first
    | with_reducible assumption
    | assumption

theorem State.modPort_at {s : State} {q : Nat} {f : Port → Port} (hs : At b0 u0 s) : At b0 u0 (State.modPort s q f) := by
  unfold State.modPort
  repeat any_goals first
    | with_reducible assumption
    | assumption

theorem State.modQp_at {s : State} {n : Nat} {f : QueuePair → QueuePair} (hs : At b0 u0 s) : At b0 u0 (State.modQp s n f) := by
  unfold State.modQp
  repeat any_goals first
    | with_reducible assumption
    | ((try lift_lets); intro x; clear_value x)
    | assumption

theorem State.send_at {s : State} {x : HostTx} (hs : At b0 u0 s) : At b0 u0 (State.send s x) := by
  unfold State.send
  repeat any_goals first
    | with_reducible assumption
    | with_reducible refine fun _ => ?_
    | ((try lift_lets); intro x; clear_value x)
    | with_reducible apply State.modQp_at
    | assumption
    | split

theorem State.expect_at {s : State} {n : Nat} {typ : BitVec 8} {tag : BitVec 32} (hs : At b0 u0 s) : At b0 u0 (State.expect s n typ tag) := by
  unfold State.expect
  repeat any_goals first
    | with_reducible assumption
    | with_reducible refine fun _ => ?_
    | with_reducible apply State.modQp_at

theorem State.settle_at {s : State} {n : Nat} {typ : BitVec 8} {tag : BitVec 32} {x : Option HostTx} (hs : At b0 u0 s) : At b0 u0 (State.settle s n typ tag x) := by
  unfold State.settle
  repeat any_goals first
    | with_reducible assumption
    | with_reducible refine fun _ => ?_
    | ((try lift_lets); intro x; refine keep_let (P := At b0 u0 x) ?_ (fun hx => ?_); rotate_left; clear_value x; rotate_right; unfold x; clear x)
    | ((try lift_lets); intro x; clear_value x)
    | with_reducible apply State.modQp_at
    | with_reducible apply State.send_at
    | with_reducible apply at_foldl
    | with_reducible apply at_foldl_fst
    | with_reducible apply at_foldl_snd
    | assumption
    | split

theorem State.answer_at {s : State} {qpn : BitVec 24} {typ : BitVec 8} {tag : BitVec 32} {job : BitVec 8} {status : BitVec 16} {body : List Byte} (hs : At b0 u0 s) : At b0 u0 (State.answer s qpn typ tag job status body) := by
  unfold State.answer
  repeat any_goals first
    | with_reducible assumption
    | with_reducible apply State.settle_at

theorem State.syncRegion_at {s : State} {r : Nat} (hs : At b0 u0 s) : At b0 u0 (State.syncRegion s r) := by
  unfold State.syncRegion
  repeat any_goals first
    | with_reducible assumption
    | with_reducible refine fun _ => ?_
    | ((try lift_lets); intro x; clear_value x)
    | with_reducible apply State.modRegion_at
    | assumption
    | split

theorem State.setPcore_at {s : State} {t c : Nat} {v : Byte} (hs : At b0 u0 s) : At b0 u0 (State.setPcore s t c v) := by
  unfold State.setPcore
  repeat any_goals first
    | with_reducible assumption
    | ((try lift_lets); intro x; clear_value x)
    | assumption

theorem State.setTblStat_at {s : State} {n : Nat} {v : BitVec 9} (hs : At b0 u0 s) : At b0 u0 (State.setTblStat s n v) := by
  unfold State.setTblStat
  repeat any_goals first
    | with_reducible assumption
    | ((try lift_lets); intro x; clear_value x)
    | assumption

theorem State.setCsr_at {s : State} {a : Nat} {v : Word} (hs : At b0 u0 s) : At b0 u0 (State.setCsr s a v) := by
  unfold State.setCsr
  repeat any_goals first
    | with_reducible assumption
    | assumption

theorem State.modCsr_at {s : State} {a : Nat} {f : Word → Word} (hs : At b0 u0 s) : At b0 u0 (State.modCsr s a f) := by
  unfold State.modCsr
  repeat any_goals first
    | with_reducible assumption
    | with_reducible apply State.setCsr_at

theorem State.setCsrs_at {s : State} {a : Nat} {ws : List Word} (hs : At b0 u0 s) : At b0 u0 (s.setCsrs a ws) := by
  induction ws generalizing s a with
  | nil => exact hs
  | cons w ws ih => exact ih (State.setCsr_at hs)

theorem State.mark_at {s : State} {a v : Nat} (hs : At b0 u0 s) : At b0 u0 (State.mark s a v) := by
  unfold State.mark
  repeat any_goals first
    | with_reducible assumption
    | assumption
    | split

theorem State.countUp_at {s : State} {a n : Nat} (hs : At b0 u0 s) : At b0 u0 (State.countUp s a n) := by
  unfold State.countUp
  repeat any_goals first
    | with_reducible assumption
    | with_reducible refine fun _ => ?_
    | with_reducible apply State.mark_at
    | with_reducible apply State.modCsr_at

theorem State.setFlags_at {s : State} {a : Nat} {v : Word} (hs : At b0 u0 s) : At b0 u0 (State.setFlags s a v) := by
  unfold State.setFlags
  repeat any_goals first
    | with_reducible assumption
    | with_reducible refine fun _ => ?_
    | with_reducible apply State.mark_at
    | with_reducible apply State.modCsr_at

theorem State.countPort_at {s : State} {q i n : Nat} (hs : At b0 u0 s) : At b0 u0 (State.countPort s q i n) := by
  unfold State.countPort
  repeat any_goals first
    | with_reducible assumption
    | with_reducible refine fun _ => ?_
    | with_reducible apply State.mark_at
    | with_reducible apply State.modPort_at

theorem State.setCsr64_at {s : State} {a : Nat} {v : BitVec 64} (hs : At b0 u0 s) : At b0 u0 (State.setCsr64 s a v) := by
  unfold State.setCsr64
  repeat any_goals first
    | with_reducible assumption
    | with_reducible apply State.setCsr_at

theorem State.raise_at {s : State} {e : Ev} (hs : At b0 u0 s) : At b0 u0 (State.raise s e) := by
  unfold State.raise
  repeat any_goals first
    | with_reducible assumption
    | assumption

theorem State.raiseTable_at {s : State} {t code cls detail : Nat} (hs : At b0 u0 s) : At b0 u0 (State.raiseTable s t code cls detail) := by
  unfold State.raiseTable
  repeat any_goals first
    | with_reducible assumption
    | with_reducible apply State.raise_at

theorem State.raiseDev_at {s : State} {code cls detail : Nat} (hs : At b0 u0 s) : At b0 u0 (State.raiseDev s code cls detail) := by
  unfold State.raiseDev
  repeat any_goals first
    | with_reducible assumption
    | with_reducible apply State.raise_at

theorem State.failPause_at {s : State} {j : Nat} {b : Job} (hs : At b0 u0 s) : At b0 u0 (State.failPause s j b) := by
  unfold State.failPause
  repeat any_goals first
    | with_reducible assumption
    | with_reducible refine fun _ => ?_
    | with_reducible apply State.answer_at
    | with_reducible apply at_foldl
    | with_reducible apply at_foldl_fst
    | with_reducible apply at_foldl_snd
    | assumption
    | split

theorem State.endWaiters_at {s : State} {j : Nat} {b : Job} (hs : At b0 u0 s) : At b0 u0 (State.endWaiters s j b) := by
  unfold State.endWaiters
  repeat any_goals first
    | with_reducible assumption
    | with_reducible refine fun _ => ?_
    | ((try lift_lets); intro x; refine keep_let (P := At b0 u0 x) ?_ (fun hx => ?_); rotate_left; clear_value x; rotate_right; unfold x; clear x)
    | with_reducible apply State.answer_at
    | with_reducible apply State.failPause_at
    | with_reducible apply at_foldl
    | with_reducible apply at_foldl_fst
    | with_reducible apply at_foldl_snd
    | assumption
    | split

theorem State.abortJob_at {s : State} {j code : Nat} (hs : At b0 u0 s) : At b0 u0 (State.abortJob s j code) := by
  unfold State.abortJob
  repeat any_goals first
    | with_reducible assumption
    | with_reducible refine fun _ => ?_
    | ((try lift_lets); intro x; refine keep_let (P := At b0 u0 x) ?_ (fun hx => ?_); rotate_left; clear_value x; rotate_right; unfold x; clear x)
    | with_reducible apply State.endWaiters_at
    | with_reducible apply State.modJob_at
    | with_reducible apply State.modTable_at
    | with_reducible apply at_foldl
    | with_reducible apply at_foldl_fst
    | with_reducible apply at_foldl_snd
    | assumption
    | split

theorem State.faultTable_at {s : State} {t code detail : Nat} (hs : At b0 u0 s) : At b0 u0 (State.faultTable s t code detail) := by
  unfold State.faultTable
  repeat any_goals first
    | with_reducible assumption
    | ((try lift_lets); intro x; refine keep_let (P := At b0 u0 x) ?_ (fun hx => ?_); rotate_left; clear_value x; rotate_right; unfold x; clear x)
    | with_reducible apply State.abortJob_at
    | with_reducible apply State.raiseTable_at
    | assumption
    | split

theorem State.excursion_at {s : State} {code j : Nat} (hs : At b0 u0 s) : At b0 u0 (State.excursion s code j) := by
  unfold State.excursion
  repeat any_goals first
    | with_reducible assumption
    | with_reducible refine fun _ => ?_
    | ((try lift_lets); intro x; refine keep_let (P := At b0 u0 x) ?_ (fun hx => ?_); rotate_left; clear_value x; rotate_right; unfold x; clear x)
    | with_reducible apply State.modJob_at
    | with_reducible apply State.raise_at
    | with_reducible apply State.send_at
    | assumption
    | split

theorem State.excursions_at {s : State} {code : Nat} {p : Job → Bool} (hs : At b0 u0 s) : At b0 u0 (State.excursions s code p) := by
  unfold State.excursions
  repeat any_goals first
    | with_reducible assumption
    | with_reducible refine fun _ => ?_
    | with_reducible apply State.excursion_at
    | with_reducible apply at_foldl
    | with_reducible apply at_foldl_fst
    | with_reducible apply at_foldl_snd
    | assumption
    | split

theorem State.takeFree_at {s : State} (hs : At b0 u0 s) : At b0 u0 (State.takeFree s).2 := by
  unfold State.takeFree
  repeat any_goals first
    | with_reducible assumption
    | assumption

theorem State.hazard_at {s : State} {t : Nat} {z : Hazard} (hs : At b0 u0 s) : At b0 u0 (State.hazard s t z) := by
  unfold State.hazard
  repeat any_goals first
    | with_reducible assumption
    | ((try lift_lets); intro x; clear_value x)
    | with_reducible apply State.mark_at
    | with_reducible apply State.setCsrs_at
    | assumption
    | split

theorem State.noteReads_at {s : State} {t slot : Nat} {pc : BitVec 17} {ls : List Loc} (hs : At b0 u0 s) : At b0 u0 (State.noteReads s t slot pc ls) := by
  unfold State.noteReads
  repeat any_goals first
    | with_reducible assumption
    | with_reducible refine fun _ => ?_
    | ((try lift_lets); intro x; refine keep_let (P := At b0 u0 x) ?_ (fun hx => ?_); rotate_left; clear_value x; rotate_right; unfold x; clear x)
    | ((try lift_lets); intro x; clear_value x)
    | with_reducible apply State.hazard_at
    | with_reducible apply State.modTable_at
    | with_reducible apply at_foldl
    | with_reducible apply at_foldl_fst
    | with_reducible apply at_foldl_snd
    | assumption
    | split

theorem State.noteMReads_at {s : State} {t : Nat} {rewrites : Bool} {ls : List Loc} (hs : At b0 u0 s) : At b0 u0 (State.noteMReads s t rewrites ls) := by
  unfold State.noteMReads
  repeat any_goals first
    | with_reducible assumption
    | with_reducible refine fun _ => ?_
    | with_reducible apply State.modTable_at
    | with_reducible apply at_foldl
    | with_reducible apply at_foldl_fst
    | with_reducible apply at_foldl_snd
    | assumption
    | split

theorem State.noteVisible_at {s : State} {t : Nat} {p : Pend} (hs : At b0 u0 s) : At b0 u0 (State.noteVisible s t p) := by
  unfold State.noteVisible
  repeat any_goals first
    | with_reducible assumption
    | with_reducible refine fun _ => ?_
    | ((try lift_lets); intro x; refine keep_let (P := At b0 u0 x) ?_ (fun hx => ?_); rotate_left; clear_value x; rotate_right; unfold x; clear x)
    | with_reducible apply State.hazard_at
    | with_reducible apply State.modTable_at
    | with_reducible apply at_foldl
    | with_reducible apply at_foldl_fst
    | with_reducible apply at_foldl_snd
    | assumption
    | split

theorem State.noteConflict_at {s : State} {t slot : Nat} {pc : BitVec 17} {k addr : Nat} {w : Pend} (hs : At b0 u0 s) : At b0 u0 (State.noteConflict s t slot pc k addr w) := by
  unfold State.noteConflict
  repeat any_goals first
    | with_reducible assumption
    | with_reducible apply State.hazard_at
    | assumption
    | split

theorem State.recordFault_at {s : State} {a : Nat} {v : Word} (hs : At b0 u0 s) : At b0 u0 (State.recordFault s a v) := by
  unfold State.recordFault
  repeat any_goals first
    | with_reducible assumption
    | with_reducible apply State.mark_at
    | with_reducible apply State.setCsr_at
    | assumption
    | split

theorem State.accFault_at {s : State} {t : Nat} {streamer : Bool} {f : AccFault} (hs : At b0 u0 s) : At b0 u0 (State.accFault s t streamer f) := by
  unfold State.accFault
  repeat any_goals first
    | with_reducible assumption
    | ((try lift_lets); intro x; refine keep_let (P := At b0 u0 x) ?_ (fun hx => ?_); rotate_left; clear_value x; rotate_right; unfold x; clear x)
    | ((try lift_lets); intro x; clear_value x)
    | with_reducible apply State.faultTable_at
    | with_reducible apply State.recordFault_at
    | with_reducible apply State.setCsr_at
    | assumption
    | split

theorem State.accFaults_at {s : State} {t : Nat} {streamer : Bool} {fs : List AccFault} (hs : At b0 u0 s) : At b0 u0 (State.accFaults s t streamer fs) := by
  unfold State.accFaults
  repeat any_goals first
    | with_reducible assumption
    | with_reducible refine fun _ => ?_
    | with_reducible apply State.accFault_at
    | with_reducible apply at_foldl
    | with_reducible apply at_foldl_fst
    | with_reducible apply at_foldl_snd
    | assumption
    | split

theorem State.countCe_at {s : State} {a n : Nat} (hs : At b0 u0 s) : At b0 u0 (State.countCe s a n) := by
  unfold State.countCe
  repeat any_goals first
    | with_reducible assumption
    | with_reducible apply State.countUp_at
    | assumption
    | split

theorem State.noteSpdRead_at {s : State} {t slot : Nat} {pc : BitVec 17} {k : Nat} {as : List Nat} (hs : At b0 u0 s) : At b0 u0 (State.noteSpdRead s t slot pc k as) := by
  unfold State.noteSpdRead
  repeat any_goals first
    | with_reducible assumption
    | with_reducible refine fun _ => ?_
    | ((try lift_lets); intro x; refine keep_let (P := At b0 u0 x) ?_ (fun hx => ?_); rotate_left; clear_value x; rotate_right; unfold x; clear x)
    | with_reducible apply State.noteConflict_at
    | with_reducible apply State.noteReads_at
    | assumption
    | split

theorem State.spdFetch_at {s : State} {t slot : Nat} {pc : BitVec 17} {lc k port : Nat} {as : List Nat} (hs : At b0 u0 s) : At b0 u0 (State.spdFetch s t slot pc lc k port as).2.1 := by
  unfold State.spdFetch
  repeat any_goals first
    | with_reducible assumption
    | with_reducible refine fun _ => ?_
    | ((try lift_lets); intro x; refine keep_let (P := At b0 u0 x) ?_ (fun hx => ?_); rotate_left; clear_value x; rotate_right; unfold x; clear x)
    | ((try lift_lets); intro x; clear_value x)
    | with_reducible apply State.countCe_at
    | with_reducible apply State.modCore_at
    | with_reducible apply State.noteSpdRead_at

theorem State.spdRead_at {s : State} {t slot : Nat} {pc : BitVec 17} {lc k port : Nat} {as : List Nat} (hs : At b0 u0 s) : At b0 u0 (State.spdRead s t slot pc lc k port as).2.1 := by
  unfold State.spdRead
  repeat any_goals first
    | with_reducible assumption
    | with_reducible refine fun _ => ?_
    | with_reducible apply State.spdFetch_at
    | assumption
    | split

theorem State.spdWrites_at {s : State} {t : Nat} {ws : List SpdWrite} (hs : At b0 u0 s) : At b0 u0 (State.spdWrites s t ws) := by
  unfold State.spdWrites
  repeat any_goals first
    | with_reducible assumption
    | with_reducible refine fun _ => ?_
    | ((try lift_lets); intro x; refine keep_let (P := At b0 u0 x.1) ?_ (fun hx => ?_); rotate_left; clear_value x; rotate_right; unfold x; clear x)
    | ((try lift_lets); intro x; clear_value x)
    | with_reducible apply State.accFaults_at
    | with_reducible apply State.countCe_at
    | with_reducible apply State.modCore_at
    | with_reducible apply at_foldl
    | with_reducible apply at_foldl_fst

theorem State.shelfWrites_at {s : State} {t : Nat} {ws : List (Nat × Nat × List Byte)} (hs : At b0 u0 s) : At b0 u0 (State.shelfWrites s t ws) := by
  unfold State.shelfWrites
  repeat any_goals first
    | with_reducible assumption
    | with_reducible refine fun _ => ?_
    | ((try lift_lets); intro x; refine keep_let (P := At b0 u0 x.1) ?_ (fun hx => ?_); rotate_left; clear_value x; rotate_right; unfold x; clear x)
    | ((try lift_lets); intro x; clear_value x)
    | with_reducible apply State.accFaults_at
    | with_reducible apply State.countCe_at
    | with_reducible apply at_foldl
    | with_reducible apply at_foldl_fst
    | with_reducible apply at_foldl_snd
    | assumption

theorem State.setCounter_at {s : State} {t n v : Nat} (hs : At b0 u0 s) : At b0 u0 (State.setCounter s t n v) := by
  unfold State.setCounter
  repeat any_goals first
    | with_reducible assumption
    | with_reducible refine fun _ => ?_
    | with_reducible apply State.modTable_at

theorem State.synFault_at {s : State} {t n : Nat} {host : Bool} {cause : Nat} (hs : At b0 u0 s) : At b0 u0 (State.synFault s t n host cause) := by
  unfold State.synFault
  repeat any_goals first
    | with_reducible assumption
    | with_reducible apply State.recordFault_at

theorem State.addCounter_at {s : State} {t n a : Nat} (hs : At b0 u0 s) : At b0 u0 (State.addCounter s t n a) := by
  unfold State.addCounter
  repeat any_goals first
    | with_reducible assumption
    | ((try lift_lets); intro x; clear_value x)
    | with_reducible apply State.faultTable_at
    | with_reducible apply State.setCounter_at
    | with_reducible apply State.synFault_at
    | assumption
    | split

theorem State.setHostCounter_at {s : State} {j n v : Nat} (hs : At b0 u0 s) : At b0 u0 (State.setHostCounter s j n v) := by
  unfold State.setHostCounter
  repeat any_goals first
    | with_reducible assumption
    | assumption

theorem State.markSlot_at {s : State} {j n : Nat} (hs : At b0 u0 s) : At b0 u0 (State.markSlot s j n) := by
  unfold State.markSlot
  repeat any_goals first
    | with_reducible assumption
    | with_reducible refine fun _ => ?_
    | ((try lift_lets); intro x; clear_value x)
    | with_reducible apply State.modJob_at

theorem State.addHost_at {s : State} {t n a : Nat} (hs : At b0 u0 s) : At b0 u0 (State.addHost s t n a) := by
  unfold State.addHost
  repeat any_goals first
    | with_reducible assumption
    | ((try lift_lets); intro x; clear_value x)
    | with_reducible apply State.faultTable_at
    | with_reducible apply State.markSlot_at
    | with_reducible apply State.setHostCounter_at
    | with_reducible apply State.synFault_at
    | assumption
    | split

theorem State.setQst_at {s : State} {k q : Nat} {v : QState} (hs : At b0 u0 s) : At b0 u0 (State.setQst s k q v) := by
  unfold State.setQst
  repeat any_goals first
    | with_reducible assumption
    | with_reducible apply State.setCsr_at

theorem State.qmove_at {s : State} {k q : Nat} {free pend full held : Int} {next old : Nat} (hs : At b0 u0 s) : At b0 u0 (State.qmove s k q free pend full held next old) := by
  unfold State.qmove
  repeat any_goals first
    | with_reducible assumption
    | ((try lift_lets); intro x; clear_value x)
    | with_reducible apply State.setQst_at

theorem State.setAccFlags_at {s : State} {k : Nat} {fs : List (Nat × BitVec 5)} (hs : At b0 u0 s) : At b0 u0 (State.setAccFlags s k fs) := by
  unfold State.setAccFlags
  repeat any_goals first
    | with_reducible assumption
    | with_reducible refine fun _ => ?_
    | ((try lift_lets); intro x; refine keep_let (P := At b0 u0 x) ?_ (fun hx => ?_); rotate_left; clear_value x; rotate_right; unfold x; clear x)
    | ((try lift_lets); intro x; clear_value x)
    | with_reducible apply State.modCsr_at
    | with_reducible apply State.setFlags_at
    | with_reducible apply at_foldl

theorem State.taskRegWrite_at {s : State} {a : Nat} {v : Word} (hs : At b0 u0 s) : At b0 u0 (State.taskRegWrite s a v) := by
  unfold State.taskRegWrite
  repeat any_goals first
    | with_reducible assumption
    | ((try lift_lets); intro x; refine keep_let (P := At b0 u0 x) ?_ (fun hx => ?_); rotate_left; clear_value x; rotate_right; unfold x; clear x)
    | ((try lift_lets); intro x; clear_value x)
    | with_reducible apply State.setCsr_at
    | assumption
    | split

theorem State.putCodebook_at {s : State} {k : Nat} {book : Bool} {q : Nat} {vals : List (BitVec 16)} {commit : Bool} (hs : At b0 u0 s) : At b0 u0 (State.putCodebook s k book q vals commit) := by
  unfold State.putCodebook
  repeat any_goals first
    | with_reducible assumption
    | with_reducible refine fun _ => ?_
    | ((try lift_lets); intro x; refine keep_let (P := At b0 u0 x) ?_ (fun hx => ?_); rotate_left; clear_value x; rotate_right; unfold x; clear x)
    | ((try lift_lets); intro x; clear_value x)
    | with_reducible apply State.modCore_at
    | with_reducible apply State.modCsr_at

theorem State.applyEff_at {s : State} {t : Nat} {p : Pend} (hs : At b0 u0 s) : At b0 u0 (State.applyEff s t p) := by
  have flag : ∀ {k n f hi : Nat} {v : Word}, At b0 u0 (if v = 0 then s.setCsr (accReg k (accFlagOff n f + 4 * hi)) v
      else (s.setCsr (accReg k (accFlagOff n f + 4 * hi)) v).modCsr (accReg k 0) (fun w => w ||| (1 <<< f))) := by
    intro k n f hi v
    split
    · exact State.setCsr_at hs
    · exact State.modCsr_at (State.setCsr_at hs)
  have req : ∀ {k q n : Nat} {m : MemSys}, At b0 u0 (if n = 0 then { s with mem := m }
      else State.modCore { s with mem := m } k (fun c => { c with reqs := c.reqs ++ [(q, n)] })) := by
    intro k q n m
    split
    · exact hs
    · exact State.modCore_at (s := { s with mem := m }) hs
  have cvt : ∀ {c : Bool} {a : Nat} {v : Word}, At b0 u0 (if c then s.setFlags a v else s) := by
    intro c a v
    split
    · exact State.setFlags_at hs
    · exact hs
  unfold State.applyEff
  split
  all_goals first
    | with_reducible exact hs
    | with_reducible exact State.modCore_at hs
    | with_reducible exact State.setCsr64_at hs
    | with_reducible exact State.taskRegWrite_at hs
    | with_reducible exact State.modCsr_at hs
    | with_reducible exact flag
    | with_reducible exact State.setAccFlags_at hs
    | with_reducible exact State.setCsr_at (at_foldl (State.modCore_at hs) (fun _ _ h => State.setCsr_at h))
    | with_reducible exact State.putCodebook_at hs
    | with_reducible exact State.accFaults_at (State.modTable_at hs)
    | with_reducible exact State.spdWrites_at hs
    | with_reducible exact State.shelfWrites_at hs
    | with_reducible exact State.addCounter_at hs
    | with_reducible exact State.addHost_at hs
    | with_reducible exact State.modTable_at hs
    | with_reducible exact State.qmove_at hs
    | with_reducible exact cvt
    | with_reducible exact req

theorem State.applyDue_at {s : State} {t c : Nat} (hs : At b0 u0 s) : At b0 u0 (State.applyDue s t c) := by
  unfold State.applyDue
  repeat any_goals first
    | with_reducible assumption
    | with_reducible refine fun _ => ?_
    | ((try lift_lets); intro x; refine keep_let (P := At b0 u0 x) ?_ (fun hx => ?_); rotate_left; clear_value x; rotate_right; unfold x; clear x)
    | ((try lift_lets); intro (x : _ → _); unfold x; clear x; try beta_reduce)
    | ((try lift_lets); intro x; clear_value x)
    | with_reducible apply State.applyEff_at
    | with_reducible apply State.modTable_at
    | with_reducible apply State.noteVisible_at
    | with_reducible apply at_foldl
    | with_reducible apply at_foldl_fst
    | with_reducible apply at_foldl_snd
    | assumption
    | split

theorem State.signalNext_at {s : State} {t n a : Nat} (hs : At b0 u0 s) : At b0 u0 (State.signalNext s t n a) := by
  unfold State.signalNext
  repeat any_goals first
    | with_reducible assumption
    | with_reducible refine fun _ => ?_
    | ((try lift_lets); intro x; clear_value x)
    | with_reducible apply State.modTable_at

theorem State.post_at {s : State} {t slot : Nat} {pc : BitVec 17} {checked : Bool} {es : List (Nat × Eff)} (hs : At b0 u0 s) : At b0 u0 (State.post s t slot pc checked es) := by
  unfold State.post
  repeat any_goals first
    | with_reducible assumption
    | with_reducible refine fun _ => ?_
    | ((try lift_lets); intro x; clear_value x)
    | with_reducible apply State.modTable_at

theorem State.busyFor_at {s : State} {t n : Nat} (hs : At b0 u0 s) : At b0 u0 (State.busyFor s t n) := by
  unfold State.busyFor
  repeat any_goals first
    | with_reducible assumption
    | with_reducible refine fun _ => ?_
    | ((try lift_lets); intro x; clear_value x)
    | with_reducible apply State.modTable_at

theorem State.busyWith_at {s : State} {t : Nat} {es : List (Nat × Eff)} (hs : At b0 u0 s) : At b0 u0 (State.busyWith s t es) := by
  unfold State.busyWith
  repeat any_goals first
    | with_reducible assumption
    | with_reducible refine fun _ => ?_
    | ((try lift_lets); intro x; clear_value x)
    | with_reducible apply State.modTable_at

theorem State.setCause_at {s : State} {r c : Nat} (hs : At b0 u0 s) : At b0 u0 (State.setCause s r c) := by
  unfold State.setCause
  repeat any_goals first
    | with_reducible assumption
    | with_reducible refine fun _ => ?_
    | ((try lift_lets); intro x; refine keep_let (P := At b0 u0 x) ?_ (fun hx => ?_); rotate_left; clear_value x; rotate_right; unfold x; clear x)
    | ((try lift_lets); intro x; clear_value x)
    | with_reducible apply State.modRegion_at
    | with_reducible apply State.syncRegion_at
    | assumption
    | split

theorem State.clearCause_at {s : State} {r c : Nat} (hs : At b0 u0 s) : At b0 u0 (State.clearCause s r c) := by
  unfold State.clearCause
  repeat any_goals first
    | with_reducible assumption
    | with_reducible refine fun _ => ?_
    | with_reducible apply State.modRegion_at

theorem State.modSnd_at {s : State} {t n : Nat} {f : SndChan → SndChan} (hs : At b0 u0 s) : At b0 u0 (State.modSnd s t n f) := by
  unfold State.modSnd
  repeat any_goals first
    | with_reducible assumption
    | with_reducible refine fun _ => ?_
    | with_reducible apply State.modTable_at

theorem State.modRcv_at {s : State} {t n : Nat} {f : RcvChan → RcvChan} (hs : At b0 u0 s) : At b0 u0 (State.modRcv s t n f) := by
  unfold State.modRcv
  repeat any_goals first
    | with_reducible assumption
    | with_reducible refine fun _ => ?_
    | with_reducible apply State.modTable_at

theorem State.tryOpen_at {s : State} {t n : Nat} (hs : At b0 u0 s) : At b0 u0 (State.tryOpen s t n) := by
  unfold State.tryOpen
  repeat any_goals first
    | with_reducible assumption
    | with_reducible refine fun _ => ?_
    | ((try lift_lets); intro x; clear_value x)
    | with_reducible apply State.modSnd_at
    | assumption
    | split

theorem State.countStop_at {s : State} {d : Nat} (hs : At b0 u0 s) : At b0 u0 (State.countStop s d) := by
  unfold State.countStop
  repeat any_goals first
    | with_reducible assumption
    | with_reducible refine fun _ => ?_
    | with_reducible apply State.countUp_at
    | with_reducible apply State.modRegion_at
    | assumption
    | split

theorem State.checkFull_at {s : State} {d : Nat} (hs : At b0 u0 s) : At b0 u0 (State.checkFull s d) := by
  unfold State.checkFull
  repeat any_goals first
    | with_reducible assumption
    | with_reducible refine fun _ => ?_
    | ((try lift_lets); intro x; clear_value x)
    | with_reducible apply State.clearCause_at
    | with_reducible apply State.countStop_at
    | with_reducible apply State.modRegion_at
    | with_reducible apply State.setCause_at
    | assumption
    | split

theorem State.recheckFull_at {s : State} (hs : At b0 u0 s) : At b0 u0 (State.recheckFull s) := by
  unfold State.recheckFull
  repeat any_goals first
    | with_reducible assumption
    | with_reducible refine fun _ => ?_
    | with_reducible apply State.checkFull_at
    | with_reducible apply State.countStop_at
    | with_reducible apply at_foldl
    | with_reducible apply at_foldl_fst
    | with_reducible apply at_foldl_snd
    | assumption
    | split

theorem State.checkFeeder_at {s : State} {r i : Nat} (hs : At b0 u0 s) : At b0 u0 (State.checkFeeder s r i) := by
  unfold State.checkFeeder
  repeat any_goals first
    | with_reducible assumption
    | with_reducible apply State.checkFull_at
    | assumption
    | split

theorem State.pushL_at {s : State} {t n : Nat} {rev : Bool} {fs : List Flit} (hs : At b0 u0 s) : At b0 u0 (State.pushL s t n rev fs) := by
  unfold State.pushL
  repeat any_goals first
    | with_reducible assumption
    | with_reducible refine fun _ => ?_
    | ((try lift_lets); intro x; clear_value x)
    | assumption

theorem State.creditMet_at {s : State} {t chn seq f : Nat} {parts : List (Nat × Nat)} (hs : At b0 u0 s) :
    ∀ s', s.creditMet t chn seq f parts = some s' → At b0 u0 s' := by
  intro s' h
  unfold State.creditMet at h
  dsimp only at h
  split at h
  · cases h
  · split at h
    · cases h
    · cases h
      exact State.accFaults_at (State.modTable_at hs)

theorem State.freeEntry_at {s : State} {t k q : Nat} (hs : At b0 u0 s) : At b0 u0 (State.freeEntry s t k q) := by
  unfold State.freeEntry
  repeat any_goals first
    | with_reducible assumption
    | with_reducible refine fun _ => ?_
    | ((try lift_lets); intro x; refine keep_let (P := At b0 u0 x) ?_ (fun hx => ?_); rotate_left; clear_value x; rotate_right; unfold x; clear x)
    | ((try lift_lets); intro x; clear_value x)
    | with_reducible apply State.modCore_at
    | with_reducible apply State.qmove_at
    | with_reducible apply State.signalNext_at
    | assumption
    | split

theorem State.endEntry_at {s : State} {t k q : Nat} (hs : At b0 u0 s) : At b0 u0 (State.endEntry s t k q) := by
  unfold State.endEntry
  repeat any_goals first
    | with_reducible assumption
    | with_reducible apply State.freeEntry_at
    | with_reducible apply State.qmove_at
    | assumption
    | split

theorem State.settleQueue_at {s : State} {t k q n : Nat} (hs : At b0 u0 s) : At b0 u0 (s.settleQueue t k q n) := by
  induction n generalizing s with
  | zero => exact hs
  | succ n ih =>
    unfold State.settleQueue
    split
    · exact ih (State.endEntry_at hs)
    · exact hs

theorem State.meet_at {s : State} {t : Nat} {core : Option Nat} {w : WaitFor} (hs : At b0 u0 s) :
    ∀ s', s.meet t core w = some s' → At b0 u0 s' := by
  intro s' h
  unfold State.meet at h
  split at h
  · split at h
    · cases h; exact State.setCounter_at hs
    · cases h
  · split at h
    · cases h
    · split at h
      · cases h; exact State.setHostCounter_at hs
      · cases h
  · obtain ⟨_, rfl⟩ := of_ite_some h
    exact at_foldl (at_foldl hs (fun a k h => State.settleQueue_at h)) (fun a k h => by split <;> exact State.qmove_at h)
  · split at h
    · cases h
    · split at h
      · cases h
      · cases h; exact State.modDma_at hs
  · exact State.creditMet_at hs _ h
  · split at h
    · cases h; exact hs
    · cases h
  · cases h; exact hs

theorem State.modSeq_at {s : State} {t : Nat} {core : Option Nat} {f : Seq → Seq} (hs : At b0 u0 s) : At b0 u0 (State.modSeq s t core f) := by
  unfold State.modSeq
  repeat any_goals first
    | with_reducible assumption
    | with_reducible refine fun _ => ?_
    | with_reducible apply State.modCore_at
    | with_reducible apply State.modTable_at
    | assumption
    | split

theorem State.openFor_at {s : State} {t : Nat} {w : WaitFor} (hs : At b0 u0 s) : At b0 u0 (State.openFor s t w) := by
  unfold State.openFor
  repeat any_goals first
    | with_reducible assumption
    | with_reducible apply State.tryOpen_at
    | assumption
    | split

theorem State.resolveWaits_at {s : State} {t : Nat} {core : Option Nat} {c : Nat} (hs : At b0 u0 s) : At b0 u0 (State.resolveWaits s t core c) := by
  unfold State.resolveWaits
  repeat any_goals first
    | with_reducible assumption
    | with_reducible refine fun _ => ?_
    | ((try lift_lets); intro x; refine keep_let (P := At b0 u0 x) ?_ (fun hx => ?_); rotate_left; clear_value x; rotate_right; unfold x; clear x)
    | ((try lift_lets); intro x; refine keep_let (P := At b0 u0 x.1) ?_ (fun hx => ?_); rotate_left; clear_value x; rotate_right; unfold x; clear x)
    | ((try lift_lets); intro x; clear_value x)
    | (with_reducible refine State.meet_at ?_ _ (by assumption))
    | with_reducible apply State.modSeq_at
    | with_reducible apply State.openFor_at
    | with_reducible apply at_foldl
    | with_reducible apply at_foldl_fst
    | with_reducible apply at_foldl_snd
    | assumption
    | split

theorem State.resolveUpTo_at {s : State} {t : Nat} {core : Option Nat} {c : Nat} (hs : At b0 u0 s) : At b0 u0 (State.resolveUpTo s t core c) := by
  unfold State.resolveUpTo
  repeat any_goals first
    | with_reducible assumption
    | with_reducible refine fun _ => ?_
    | with_reducible apply State.resolveWaits_at
    | with_reducible apply at_foldl
    | with_reducible apply at_foldl_fst
    | with_reducible apply at_foldl_snd
    | assumption
    | split

theorem State.markHeld_at {s : State} {t : Nat} {w : WaitFor} (hs : At b0 u0 s) : At b0 u0 (State.markHeld s t w) := by
  unfold State.markHeld
  repeat any_goals first
    | with_reducible assumption
    | with_reducible refine fun _ => ?_
    | with_reducible apply State.modSnd_at
    | assumption
    | split

theorem State.dropPart_at {s : State} {t k i p read : Nat} (hs : At b0 u0 s) : At b0 u0 (State.dropPart s t k i p read) := by
  unfold State.dropPart
  repeat any_goals first
    | with_reducible assumption
    | with_reducible refine fun _ => ?_
    | with_reducible apply State.modCore_at
    | with_reducible apply State.modTable_at

theorem State.readFlit_at {s : State} {t c k : Nat} (hs : At b0 u0 s) : At b0 u0 (State.readFlit s t c k) := by
  unfold State.readFlit
  repeat any_goals first
    | with_reducible assumption
    | with_reducible refine fun _ => ?_
    | ((try lift_lets); intro x; refine keep_let (P := At b0 u0 x) ?_ (fun hx => ?_); rotate_left; clear_value x; rotate_right; unfold x; clear x)
    | ((try lift_lets); intro x; refine keep_let (P := At b0 u0 x.2.1) ?_ (fun hx => ?_); rotate_left; clear_value x; rotate_right; unfold x; clear x)
    | ((try lift_lets); intro x; clear_value x)
    | with_reducible apply State.accFaults_at
    | with_reducible apply State.dropPart_at
    | with_reducible apply State.modCore_at
    | with_reducible apply State.modTable_at
    | with_reducible apply State.spdFetch_at
    | assumption
    | split

theorem State.readPayloads_at {s : State} {t c : Nat} (hs : At b0 u0 s) : At b0 u0 (State.readPayloads s t c) := by
  unfold State.readPayloads
  repeat any_goals first
    | with_reducible assumption
    | with_reducible refine fun _ => ?_
    | ((try lift_lets); intro x; clear_value x)
    | with_reducible apply State.readFlit_at
    | with_reducible apply at_foldl

theorem State.enterL_at {s : State} {t c : Nat} (hs : At b0 u0 s) : At b0 u0 (State.enterL s t c) := by
  unfold State.enterL
  repeat any_goals first
    | with_reducible assumption
    | with_reducible refine fun _ => ?_
    | ((try lift_lets); intro x; refine keep_let (P := At b0 u0 x) ?_ (fun hx => ?_); rotate_left; clear_value x; rotate_right; unfold x; clear x)
    | ((try lift_lets); intro x; refine keep_let (P := At b0 u0 x.1) ?_ (fun hx => ?_); rotate_left; clear_value x; rotate_right; unfold x; clear x)
    | ((try lift_lets); intro x; clear_value x)
    | with_reducible apply State.modTable_at
    | with_reducible apply State.pushL_at
    | with_reducible apply State.tryOpen_at
    | with_reducible apply at_foldl
    | with_reducible apply at_foldl_fst
    | with_reducible apply at_foldl_snd
    | assumption
    | split

theorem State.streamRead_at {s : State} {t : Nat} {pc : BitVec 17} {lc k n : Nat} {d : BitVec 128} (hs : At b0 u0 s) : At b0 u0 (State.streamRead s t pc lc k n d).2.1 := by
  unfold State.streamRead
  repeat any_goals first
    | with_reducible assumption
    | with_reducible refine fun _ => ?_
    | ((try lift_lets); intro x; refine keep_let (P := At b0 u0 x.2.1) ?_ (fun hx => ?_); rotate_left; clear_value x; rotate_right; unfold x; clear x)
    | ((try lift_lets); intro x; clear_value x)
    | with_reducible apply State.spdFetch_at
    | assumption
    | split

theorem State.warmRead_at {s : State} {t c lc k : Nat} (hs : At b0 u0 s) : At b0 u0 (State.warmRead s t c lc k).1 := by
  unfold State.warmRead
  repeat any_goals first
    | with_reducible assumption
    | with_reducible refine fun _ => ?_
    | ((try lift_lets); intro x; refine keep_let (P := At b0 u0 x.2.1) ?_ (fun hx => ?_); rotate_left; clear_value x; rotate_right; unfold x; clear x)
    | ((try lift_lets); intro x; clear_value x)
    | with_reducible apply State.modCore_at
    | with_reducible apply State.streamRead_at
    | assumption
    | split

theorem State.serveFills_at {s : State} {t lc k : Nat} (hs : At b0 u0 s) : At b0 u0 (State.serveFills s t lc k).1 := by
  unfold State.serveFills
  repeat any_goals first
    | with_reducible assumption
    | with_reducible refine fun _ => ?_
    | ((try lift_lets); intro x; clear_value x)
    | with_reducible apply State.countCe_at
    | with_reducible apply State.modCore_at

theorem State.serveTable_at {s : State} {t : Nat} (hs : At b0 u0 s) : At b0 u0 (State.serveTable s t) := by
  unfold State.serveTable
  repeat any_goals first
    | with_reducible assumption
    | with_reducible refine fun _ => ?_
    | ((try lift_lets); intro x; refine keep_let (P := At b0 u0 x.1) ?_ (fun hx => ?_); rotate_left; clear_value x; rotate_right; unfold x; clear x)
    | with_reducible apply State.accFaults_at
    | with_reducible apply State.serveFills_at
    | with_reducible apply at_foldl
    | with_reducible apply at_foldl_fst

theorem State.settlePorts_at {s : State} {t : Nat} (hs : At b0 u0 s) : At b0 u0 (State.settlePorts s t) := by
  unfold State.settlePorts
  repeat any_goals first
    | with_reducible assumption
    | with_reducible refine fun _ => ?_
    | ((try lift_lets); intro x; clear_value x)
    | with_reducible apply State.modCore_at
    | with_reducible apply at_foldl
    | with_reducible apply at_foldl_fst
    | with_reducible apply at_foldl_snd
    | assumption
    | split

theorem State.fillQueue_at {s : State} {t : Nat} {c : RcvChan} {q : BitVec 21} {entry : Word} {lc k : Nat} (hs : At b0 u0 s) : At b0 u0 (State.fillQueue s t c q entry lc k).1 := by
  unfold State.fillQueue
  repeat any_goals first
    | with_reducible assumption
    | with_reducible refine fun _ => ?_
    | ((try lift_lets); intro x; refine keep_let (P := At b0 u0 x) ?_ (fun hx => ?_); rotate_left; clear_value x; rotate_right; unfold x; clear x)
    | ((try lift_lets); intro x; clear_value x)
    | with_reducible apply State.countCe_at
    | with_reducible apply State.modCore_at
    | assumption
    | split

theorem State.beginHandler_at {s : State} {t : Nat} {w : Window} (hs : At b0 u0 s) : At b0 u0 (State.beginHandler s t w) := by
  unfold State.beginHandler
  repeat any_goals first
    | with_reducible assumption
    | with_reducible refine fun _ => ?_
    | ((try lift_lets); intro x; refine keep_let (P := At b0 u0 x) ?_ (fun hx => ?_); rotate_left; clear_value x; rotate_right; unfold x; clear x)
    | ((try lift_lets); intro x; refine keep_let (P := At b0 u0 x.1) ?_ (fun hx => ?_); rotate_left; clear_value x; rotate_right; unfold x; clear x)
    | ((try lift_lets); intro x; clear_value x)
    | with_reducible apply State.accFaults_at
    | with_reducible apply State.fillQueue_at
    | with_reducible apply State.modTable_at
    | with_reducible apply at_foldl
    | with_reducible apply at_foldl_fst
    | with_reducible apply at_foldl_snd
    | assumption
    | split

theorem State.runWindow_at {s : State} {t c : Nat} (hs : At b0 u0 s) : At b0 u0 (State.runWindow s t c) := by
  unfold State.runWindow
  repeat any_goals first
    | with_reducible assumption
    | with_reducible refine fun _ => ?_
    | with_reducible apply State.beginHandler_at
    | with_reducible apply State.modTable_at
    | assumption
    | split

theorem State.endSeq_at {s : State} {t c : Nat} {core : Option Nat} (hs : At b0 u0 s) : At b0 u0 (State.endSeq s t c core) := by
  unfold State.endSeq
  repeat any_goals first
    | with_reducible assumption
    | with_reducible refine fun _ => ?_
    | ((try lift_lets); intro x; refine keep_let (P := At b0 u0 x) ?_ (fun hx => ?_); rotate_left; clear_value x; rotate_right; unfold x; clear x)
    | ((try lift_lets); intro x; clear_value x)
    | with_reducible apply State.markHeld_at
    | with_reducible apply State.modSeq_at
    | with_reducible apply State.modTable_at
    | with_reducible apply State.resolveWaits_at
    | with_reducible apply at_foldl
    | with_reducible apply at_foldl_fst
    | with_reducible apply at_foldl_snd
    | assumption
    | split

theorem State.trapEnd_at {s : State} {t : Nat} (hs : At b0 u0 s) : At b0 u0 (State.trapEnd s t) := by
  unfold State.trapEnd
  repeat any_goals first
    | with_reducible assumption
    | with_reducible refine fun _ => ?_
    | ((try lift_lets); intro x; refine keep_let (P := At b0 u0 x) ?_ (fun hx => ?_); rotate_left; clear_value x; rotate_right; unfold x; clear x)
    | ((try lift_lets); intro x; clear_value x)
    | with_reducible apply State.modJob_at
    | with_reducible apply State.modTable_at
    | with_reducible apply State.raiseTable_at
    | with_reducible apply State.setFlags_at
    | with_reducible apply at_foldl
    | with_reducible apply at_foldl_fst
    | with_reducible apply at_foldl_snd
    | assumption
    | split

theorem State.endCycle_at {s : State} {t c : Nat} (hs : At b0 u0 s) : At b0 u0 (State.endCycle s t c) := by
  unfold State.endCycle
  repeat any_goals first
    | with_reducible assumption
    | with_reducible refine fun _ => ?_
    | ((try lift_lets); intro x; refine keep_let (P := At b0 u0 x) ?_ (fun hx => ?_); rotate_left; clear_value x; rotate_right; unfold x; clear x)
    | ((try lift_lets); intro x; refine keep_let (P := At b0 u0 x.1) ?_ (fun hx => ?_); rotate_left; clear_value x; rotate_right; unfold x; clear x)
    | with_reducible apply State.accFaults_at
    | with_reducible apply State.endSeq_at
    | with_reducible apply State.readPayloads_at
    | with_reducible apply State.serveTable_at
    | with_reducible apply State.settlePorts_at
    | with_reducible apply State.trapEnd_at
    | with_reducible apply State.warmRead_at
    | with_reducible apply at_foldl
    | with_reducible apply at_foldl_fst

theorem State.beginCycle_at {s : State} {t c : Nat} (hs : At b0 u0 s) : At b0 u0 (State.beginCycle s t c) := by
  unfold State.beginCycle
  repeat any_goals first
    | with_reducible assumption
    | with_reducible refine fun _ => ?_
    | ((try lift_lets); intro x; refine keep_let (P := At b0 u0 x) ?_ (fun hx => ?_); rotate_left; clear_value x; rotate_right; unfold x; clear x)
    | ((try lift_lets); intro x; clear_value x)
    | with_reducible apply State.applyDue_at
    | with_reducible apply State.enterL_at
    | with_reducible apply State.modCore_at
    | with_reducible apply State.modSeq_at
    | with_reducible apply State.modTable_at
    | with_reducible apply State.runWindow_at
    | with_reducible apply at_foldl
    | with_reducible apply at_foldl_fst
    | with_reducible apply at_foldl_snd
    | assumption
    | split

theorem State.tellReleased_at {s : State} {j : Nat} (hs : At b0 u0 s) : At b0 u0 (State.tellReleased s j) := by
  unfold State.tellReleased
  repeat any_goals first
    | with_reducible assumption
    | with_reducible refine fun _ => ?_
    | with_reducible apply State.answer_at
    | with_reducible apply State.modJob_at
    | with_reducible apply at_foldl
    | with_reducible apply at_foldl_fst
    | with_reducible apply at_foldl_snd
    | assumption
    | split

end Sys2Proof.Machine
end

