-- ==== Sys2Proof/Tests/Slice0.lean ====
section
/-!
SUPPORT. The model's own tests: ill-formed operations that the checks refuse, small steps, and, for every statement, states and operands
that meet its hypotheses. Every theorem is about one step on a small state.
-/
set_option Elab.async false

namespace Sys2Proof.Tests

open Sys2Proof Sys2Proof.Machine

/-! ### Canonical states, checked by evaluation -/

/-- A map is canonical and every entry of it passes `p`. -/
def mapOk {α : Type} [DecidableEq α] (d : α) (p : α → Bool) (m : SMap α) : Bool := SMap.wf d m && m.all (fun kv => p kv.2)

theorem mapOk_get {α : Type} [DecidableEq α] {d : α} {p : α → Bool} {m : SMap α} (h : mapOk d p m = true) (hd : p d = true) (k : Nat) :
    p (SMap.get d m k) = true := by
  have h2 : ∀ kv ∈ m, p kv.2 = true := by
    simp only [mapOk, Bool.and_eq_true, List.all_eq_true] at h; exact h.2
  clear h
  induction m with
  | nil => exact hd
  | cons x m ih =>
    rw [SMap.get]
    split
    · exact h2 x (by simp)
    · split
      · exact hd
      · exact ih (fun kv hkv => h2 kv (by simp [hkv]))

/-- The maps of a core are canonical. -/
def coreOk (c : Core) : Bool :=
  SMap.wf 0 c.sreg && SMap.wf 0 c.vreg && SMap.wf 0 c.accM && SMap.wf 0 c.accV && SMap.wf 0 c.cfgM && SMap.wf 0 c.hold &&
  SMap.wf 0x7F c.scale && SMap.wf [] c.tk && SMap.wf 0 c.codebook && SMap.wf 0 c.curve && SMap.wf 0 c.curveHdr && SMap.wf 0 c.spd &&
  SMap.wf 0 c.outReg && SMap.wf none c.spdErr && SMap.wf WVec.zero c.streamer.fifo

/-- The maps of a table are canonical. -/
def tableOk (t : Table) : Bool :=
  SMap.wf 0 t.prog && SMap.wf 0 t.ctr && SMap.wf 0 t.ctrInit && SMap.wf 0 t.tout && SMap.wf 0 t.htab && SMap.wf 0 t.seeds &&
  SMap.wf SndChan.reset t.snd && SMap.wf RcvChan.reset t.rcv && SMap.wf 0 t.credit && SMap.wf none t.undrained

/-- The steps of a region are steps of R316. -/
def regionOk (r : Region) : Bool := decide (r.step ≤ 5) && decide (r.tgt ≤ 5) && decide (r.goal ≤ 5)

/-- The state is canonical. -/
def stateOk (s : State) : Bool :=
  SMap.wf 0 s.csr && SMap.wf none s.latch && SMap.wf (0, 0) s.marks && SMap.wf 0 s.fslots && SMap.wf 0 s.routes && mapOk Table.reset tableOk s.tables &&
  mapOk Core.reset coreOk s.cores && SMap.wf 0 s.noc.slots && SMap.wf [] s.noc.queues && SMap.wf [] s.noc.chanQ &&
  SMap.wf [] s.noc.links && SMap.wf 0 s.noc.sent && SMap.wf 0 s.mem.hbm && SMap.wf 0 s.mem.ddr && SMap.wf 0 s.mem.shelf &&
  SMap.wf none s.mem.shelfErr && SMap.wf [] s.mem.ceSeen && SMap.wf 0 s.mem.spares &&
  SMap.wf false s.mem.bad && SMap.wf 0 s.mem.refreshed && SMap.wf 0 s.mem.fired && SMap.wf 0 s.mem.firedNet &&
  SMap.wf DmaChan.reset s.dma && SMap.wf 0 s.descs && SMap.wf none s.jobs && SMap.wf QueuePair.reset s.host.qps &&
  SMap.wf SndChan.reset s.host.chans && SMap.wf 0 s.hctr && SMap.wf Port.reset s.ports && mapOk Region.reset regionOk s.regions &&
  SMap.wf 0 s.log.recs && SMap.wf 0 s.recs.curve && SMap.wf 0 s.recs.curveHdr && SMap.wf 0xFF s.nor && SMap.wf 0 s.fuses.lmap &&
  SMap.wf 0 s.fuses.pcore && SMap.wf 0 s.fuses.tblStat && SMap.wf 0 s.fuses.keyHash && decide (s.fuses.life ≤ 4) &&
  decide (s.fuses.cores ≤ 34)

theorem coreOk_canonical {c : Core} (h : coreOk c = true) : c.Canonical := by
  simp only [coreOk, Bool.and_eq_true, and_assoc] at h
  obtain ⟨h1, h2, h3, h4, h5, h6, h7, h8, h9, h10, h11, h12, h13, h14, h15⟩ := h
  exact ⟨h1, h2, h3, h4, h5, h6, h7, h8, h9, h10, h11, h12, h13, h14, h15⟩

theorem tableOk_canonical {t : Table} (h : tableOk t = true) : t.Canonical := by
  simp only [tableOk, Bool.and_eq_true, and_assoc] at h
  obtain ⟨h1, h2, h3, h4, h5, h6, h7, h8, h9, h10⟩ := h
  exact ⟨h1, h2, h3, h4, h5, h6, h7, h8, h9, h10⟩

theorem regionOk_legal {r : Region} (h : regionOk r = true) : r.Legal := by
  simp only [regionOk, Bool.and_eq_true, decide_eq_true_eq, and_assoc] at h
  exact h

/-- What the check passes is canonical. -/
theorem canonical_of {s : State} (h : stateOk s = true) : s.Canonical := by
  simp only [stateOk, Bool.and_eq_true, decide_eq_true_eq, and_assoc] at h
  obtain ⟨h1, h2, h3, h4, h5, h6, h7, h8, h9, h10, h11, h12, h13, h14, h15, h16, h17, h18, h19, h20, h21, h22, h23, h24, h25, h26, h27,
    h28, h29, h30, h31, h32, h33, h34, h35, h36, h37, h38, h39, h40⟩ := h
  have wfOf : ∀ {α : Type} [DecidableEq α] {d : α} {p : α → Bool} {m : SMap α}, mapOk d p m = true → SMap.wf d m = true := by
    intro α _ d p m hm; simp only [mapOk, Bool.and_eq_true] at hm; exact hm.1
  exact ⟨h1, h2, h3, h4, h5, ⟨wfOf h6, fun t => tableOk_canonical (mapOk_get h6 (by decide) t)⟩,
    ⟨wfOf h7, fun k => coreOk_canonical (mapOk_get h7 (by decide) k)⟩, ⟨h8, h9, h10, h11, h12⟩,
    ⟨h13, h14, h15, h16, h17, h18, h19, h20, h21, h22⟩,
    h23, h24, h25, h26, h27, h28, h29, ⟨wfOf h30, fun r => regionOk_legal (mapOk_get h30 (by decide) r)⟩, h31, h32, h33, h34,
    ⟨h35, h36, h37, h38, h39, h40⟩⟩

/-- An operation issues, and the state that it acts on passes `p`. -/
def issues (s : State) (h : Hdr) (slot : Nat) (p : State → Bool := fun _ => true) : Bool :=
  match s.issue h slot with
  | .go s1 => p s1
  | _ => false

theorem issues_go {s : State} {h : Hdr} {slot : Nat} {p : State → Bool} (hi : issues s h slot p = true) :
    ∃ s1, s.issue h slot = .go s1 ∧ p s1 = true := by
  unfold issues at hi
  split at hi
  · exact ⟨_, by assumption, hi⟩
  · cases hi

/-! ### States to start from -/

/-- A table whose dealer runs at granule 0. -/
def running : Table := { Table.reset with run := 1 }

/-- A device with two enabled cores in every table, whose table 0 is `b` and whose cores are `cs`. -/
def dev (b : Table) (cs : List (Nat × Core) := []) : State :=
  { State.reset with fuses := { Fuses.reset with cores := 2 }, tables := [(0, b)], cores := cs }

/-- The header of the word at granule 0 of table 0, without a guard. -/
def hd : Hdr := ⟨0, 0, 0, 0, false, 0, true⟩

/-- The operation of slot `slot` issues in a canonical state, and the state that it acts on passes `p`. -/
def Issues (s : State) (h : Hdr) (slot : Nat) (p : State → Bool := fun _ => true) : Prop :=
  s.Canonical ∧ ∃ s1, s.issue h slot = .go s1 ∧ p s1 = true

theorem issues_of {s : State} {h : Hdr} {slot : Nat} {p : State → Bool} (hs : (stateOk s && issues s h slot p) = true) :
    Issues s h slot p := by
  simp only [Bool.and_eq_true] at hs
  exact ⟨canonical_of hs.1, issues_go hs.2⟩

/-! ### The hypotheses of the statements are met -/

/-- StepRunsFrontCommand, CommandsLeaveTheQueue, StepKeepsCanonicalForm: a command at the front, which leaves a next state. -/
theorem witness_command : stateOk { State.reset with pending := [.nrst 1] } = true ∧
    ∃ t, step { State.reset with pending := [.nrst 1] } = .next t := ⟨by decide +kernel, _, rfl⟩

/-- EmptyQueuePassesTime: an empty queue, out of reset and in reset. -/
theorem witness_EmptyQueuePassesTime : State.reset.Canonical ∧ State.reset.pending = [] ∧ State.reset.running = true ∧
    ({ State.reset with pins := { Pins.reset with inReset := true } } : State).running = false :=
  ⟨canonical_of (by decide +kernel), rfl, rfl, rfl⟩

/-- CommandsGoOnOrAreRefused: a well-formed and an ill-formed operation. -/
theorem witness_CommandsGoOnOrAreRefused : (Instr.cmp hd 7 5 31 31).wf = true ∧ (Instr.cmp hd 0 5 31 31).wf = false := by decide

/-- ScalarOperations, MatrixProduct and the rest of the statements about issued operations: every slot of a running dealer. -/
theorem witness_issue_slots : ∀ slot < 6, Issues (dev running) hd slot (fun s1 => (s1.actors hd).length == 2) := by
  have h : (List.range 6).all (fun slot => stateOk (dev running) && issues (dev running) hd slot (fun s1 => (s1.actors hd).length == 2)) = true := by
    decide +kernel
  intro slot hs
  rw [List.all_eq_true] at h
  exact issues_of (h slot (by simpa using hs))

/-- RegisterMoves: a register of every kind that an MFR reads; those that an MTR writes. -/
theorem witness_RegisterMoves :
    (taskReg 0 0 = some .lid ∧ taskReg 0 0x10C = some (.lmask 1 true) ∧ taskReg 2 0x8C = some (.loopCount 3)) ∧
    (taskReg 0 0x400 = some .cvtFlags ∧ TaskReg.cvtFlags.writable = true ∧ taskReg 1 0x2E4 = some (.accFlag 7 4 true) ∧
      (TaskReg.accFlag 7 4 true).writable = true ∧ taskReg 0 0x33C = some (.wstDesc 3 3)) := by decide

/-- OperationsIssue: the first and a later operation of a word; in Taper mode a core whose cache holds the word's lines, and one whose
cache does not. -/
theorem witness_OperationsIssue :
    (stateOk (dev running) = true ∧ (dev running).stopped 0 = false ∧ ((dev running).table 0).seq.nextPc = hd.pc) ∧
    (let s := dev { running with seq := { Seq.reset with slots := 31 } }
     stateOk s = true ∧ s.stopped 0 = false ∧ (s.table 0).seq.slots.toNat < 2 ^ slotY) ∧
    (let s := dev { running with taper := true } [(1, { Core.reset with cache := [⟨0, 1, List.replicate 64 0⟩] })]
     let h : Hdr := { hd with core := 1 }
     stateOk s = true ∧ s.stopped 0 = false ∧ s.physCore 0 1 = some 1 ∧
      (s.wordLines 0 1 h.pc).find? (fun l => !((s.core 1).cache.any (fun x => x.line == l))) = none ∧
      (s.wordLines 0 0 h.pc).find? (fun l => !((s.core 0).cache.any (fun x => x.line == l))) = some 0) := by decide +kernel

/-- An effect owed, due in cycle `d`. -/
def due (d : Nat) (e : Eff) : Pend := ⟨d, e, 0, 0, 0, [], []⟩

/-- WritesBecomeVisible: two writes to the last register, one of them due, and a write to the last lane. -/
theorem witness_WritesBecomeVisible :
    let s := dev { running with pend := [due 5 (.sreg 0 31 7), due 6 (.sreg 0 31 8), due 5 (.pred 0 7 true), due 5 (.lanes 0 31 [(63, 9)])] }
    stateOk s = true ∧ (∀ p ∈ s.owed 0, ∀ k' r' vs, p.2 = .lanes k' r' vs → ∀ x ∈ vs, x.1 < 64) ∧
      (∀ p ∈ s.owed 0, p.1 ≤ 5 → p.2.extra = 0) := by
  refine ⟨by decide +kernel, ?_, by decide +kernel⟩
  intro p hp k r vs e x hx
  simp [State.owed, dev, State.table, SMap.get, due, running] at hp
  rcases hp with rfl | rfl | rfl | rfl <;> simp at e
  obtain ⟨-, -, rfl⟩ := e
  simp at hx; subst hx; decide

/-- LoopsTurn: the last level at the end of its body, with one and with two iterations left; windows that close at once and after idle cycles. -/
theorem witness_LoopsTurn : ∀ r ∈ [(1 : Word), 2], ∃ (q : Seq) (l : Loop), q.loopDue = some 9 ∧ q.hold ≤ 1 ∧ q.slots = 0 ∧ q.loops[3]? = some l ∧
    l.active = true ∧ l.last = (9 : BitVec 17) ∧ l.remaining = r ∧ q.window = none ∧ q.waits = [] ∧
    (∀ w ∈ [(⟨0, 1, true, 0, 9, 4, 0, some 9⟩ : Window)], w.due = some 9 ∧ w.idle = 0) ∧
    (∀ m l', q.loops[m]? = some l' → l'.active = true → l'.last = (9 : BitVec 17) → m = 3) := by
  intro r _
  refine ⟨{ Seq.reset with pc := 9, loopDue := some 9, loops := [⟨false, 0, 0, 0, 9⟩, ⟨false, 0, 0, 0, 0⟩, ⟨false, 0, 0, 0, 0⟩, ⟨true, 0, r, 4, 9⟩] },
    ⟨true, 0, r, 4, 9⟩, rfl, Nat.zero_le _, rfl, rfl, rfl, rfl, rfl, rfl, rfl, by decide, ?_⟩
  intro m l' hm ha _
  match m with
  | 0 | 1 | 2 => simp at hm; subst hm; cases ha
  | 3 => rfl
  | m + 4 => simp at hm

/-- A word whose guard holds in core 1 alone, in the states that `cores2` gives. -/
def hd1 : Hdr := { hd with grd := 1 }
def cores2 (a b : Core) : List (Nat × Core) := [(0, { a with sreg := [(1, 4)] }), (1, { b with pred := 3 })]

/-- OperandQueuePops: queues with entries, and one core whose queues are empty. -/
theorem witness_OperandQueuePops :
    (let c : Core := { Core.reset with squeue := [5], vqueue := [List.replicate 64 6] }
     let p (s1 : State) : Bool := (s1.actors hd1).all (fun x => !(s1.core x.2).squeue.isEmpty && !(s1.core x.2).vqueue.isEmpty)
     Issues (dev running (cores2 c c)) hd1 slotS p ∧ Issues (dev running (cores2 c c)) hd1 slotV p) ∧
    (let p (s1 : State) : Bool := s1.actors hd1 == [(1, 1)] && (s1.core 1).squeue.isEmpty && (s1.core 1).vqueue.isEmpty
     Issues (dev running (cores2 Core.reset Core.reset)) hd1 slotS p ∧ Issues (dev running (cores2 Core.reset Core.reset)) hd1 slotV p) :=
  ⟨⟨issues_of (by decide +kernel), issues_of (by decide +kernel)⟩, ⟨issues_of (by decide +kernel), issues_of (by decide +kernel)⟩⟩

/-- ConversionsAndDraws: operations at the ends of their field ranges. -/
theorem witness_ConversionsAndDraws :
    ((Instr.cvt hd 2 31 31 16 16 3 true false).wf = true ∧ (Instr.cvt hd 0 0 0 10 0 0 false true).wf = true ∧
      (Instr.cvmx hd 0 31 31 8 3).wf = true ∧ Fmt.ofCode 16 = some .i32 ∧ Fmt.ofCode 8 = some .i8 ∧ (RMode.ofCode 3).isSome = true) ∧
    ((Instr.gmx hd 2 30 31 15 31 30 31).wf = true) := by decide

/-- AccumulatorReads, AccumulatorOperations: a wide set, its last entry and one above it. -/
theorem witness_accumulator_sets :
    let s := ((dev running).setCsr (accReg 0 0x3C) 1).setCsr (accReg 1 0x3C) 1
    Issues s hd slotV (fun s1 => (s1.actors hd).all (fun x => cfgWide (s1.setCfg x.2 7)) && (s1.actors hd).head? == some (0, 0)) ∧
      (Instr.ard hd 31 7 31 16 4 true 15 30).wf = true ∧ (Instr.ardr hd 24 7 31).wf = true ∧ (Instr.ardr hd 24 7 32).wf = true ∧
      (Instr.mclr hd 2 7 0 31 2).wf = true ∧ (Instr.msetw hd 7 true 1023).wf = true ∧ (Instr.mred hd 7 31 0 2 true 2).wf = true ∧
      (Instr.minj hd 7 31 24 2).wf = true :=
  ⟨issues_of (by decide +kernel), by decide⟩

/-- Trackers: both kinds of lists at their greatest depth. -/
theorem witness_Trackers : (Instr.tkcfg hd true 8 true true).wf = true ∧ (Instr.tkcfg hd false 16 false false).wf = true ∧
    tkHas (tkByte true 8 true true) true 7 = true ∧ tkHas (tkByte false 16 false false) false 15 = true ∧ (30 : BitVec 5) ≠ 31 := by decide

/-- A streamer that is armed and whose vectors are visible. -/
def armed : Streamer := { Streamer.reset with armed := true, nextN := 8, head := 7, fifo := [(7, ⟨[(0, 0x3C)], []⟩)] }

/-- MatrixProduct: a consuming MDOT with an armed streamer and a wide set, and one of the last entry of a narrow set. -/
theorem witness_MatrixProduct :
    (let o : MdotOp := ⟨0, 0, 0, true, false, false, 7, 31, false, 0, false, false, true, 7⟩
     let c : Core := { Core.reset with streamer := armed, cfgM := [(7, 1)] }
     let s := (dev running [(0, c), (1, c)]).setCsr (spdReg 0 4) 0x80000
     o.wf = true ∧ laneFmt 0 = some .f32 ∧ Issues s hd slotM (fun s1 => (s1.opCores hd).all (fun x =>
       cfgWide (s1.setCfgM x.2 7) && (s1.accessFault 0 x.1 x.2 ((wstAddrs armed.desc 8).1 ++ (wstAddrs armed.desc 8).2)).isNone &&
         decide (s1.writeBanks 0 x.2 = 0) && (s1.core x.2).spdErr.isEmpty))) ∧
    (let o : MdotOp := ⟨5, 9, 9, true, true, false, 7, 63, true, 2, false, false, false, 127⟩
     o.wf = true ∧ laneFmt 9 = some .i4 ∧ Issues (dev running) hd slotM (fun s1 => (s1.opCores hd).all (fun x => !cfgWide (s1.setCfgM x.2 7)))) :=
  ⟨⟨by decide, rfl, issues_of (by decide +kernel)⟩, ⟨by decide, rfl, issues_of (by decide +kernel)⟩⟩

/-- A read is served, checked by evaluation. -/
def served (s : State) (h : Hdr) (lc k : Nat) (as : List Nat) : Bool :=
  (s.accessFault h.table lc k as).isNone &&
    as.all (fun a => (SMap.get none (s.core k).spdErr (a / 4)).isNone && !(s.writeBanks h.table k).getLsbD (bankOf a))

theorem served_serves {s : State} {h : Hdr} {lc k : Nat} {as : List Nat} (hs : served s h lc k as = true) : s.serves h lc k as := by
  simp only [served, Bool.and_eq_true, List.all_eq_true, Option.isNone_iff_eq_none, Bool.not_eq_eq_eq_not, Bool.not_true] at hs
  exact hs

/-- A device whose task has the whole scratchpad and one share of the shelf. -/
def spdDev (b : Table) (cs : List (Nat × Core) := []) : State := ((dev b cs).setCsr (spdReg 0 4) 0x80000).setCsr (shfReg 0 4) 0x1000

/-- Loads: an HLOAD of binary32 whose elements are served; a load of the last word of the scratchpad, of a vector and of a table group. -/
theorem witness_Loads :
    (let s := spdDev running
     Issues s hd slotL (fun s1 => (s1.actors hd).all (fun x =>
       let d := BitVec.ofNat 256 (s1.csrWide (coreReg x.2 0x200) 8)
       (laneFmt (field d 51 48)).isSome && (List.range 2).all (fun i =>
         match holdOff d (s1.csrAt (coreReg x.2 0x280)) (2 * field (s1.csrAt (coreReg x.2 0x280)) 4 0 + i) with
         | none => true
         | some off => (List.range (holdChunk (field d 51 48))).all (fun o => served s1 hd x.1 x.2 [spdOffset (field d 18 0) (off + o)]) &&
             (List.range (blockScales (field d 51 48)).1).all (fun o => served s1 hd x.1 x.2
               [spdOffset (field d 37 19) (off / (4 * (blockScales (field d 51 48)).2 : Nat) + o)]))))) ∧
    (ldvOk 5 2 31 = true ∧ Issues (spdDev running) hd slotL (fun s1 => (s1.actors hd).all (fun x =>
      served s1 hd x.1 x.2 (s1.opVecAddrs x.2 5 2 1 31 0x7FF00) && served s1 hd x.1 x.2 (spdSpan (s1.opAddr x.2 1 0x7FFFC 2) 4) &&
        served s1 hd x.1 x.2 (spdSpan (s1.opAddr x.2 1 0x7FF80 7) 128)))) :=
  ⟨issues_of (by decide +kernel), by decide, issues_of (by decide +kernel)⟩

/-- GatherAndShelfLoad: a gather in every lane, and the last 32 bytes of the shelf window. -/
theorem witness_GatherAndShelfLoad :
    let s := spdDev running [(0, { Core.reset with sreg := [(2, 0xFE0)] }), (1, { Core.reset with sreg := [(2, 0xFE0)] })]
    (Instr.gth hd 31 0 0 2 0).wf = true ∧ Issues s hd slotL (fun s1 => (s1.actors hd).all (fun x =>
      (s1.maskLanes x.2 0).all (fun l => served s1 hd x.1 x.2 (spdSpan (s1.gthAddr x.2 0 0 2 l) 4)) &&
        decide (alignDown 5 (s1.sreg x.2 2).toNat + 32 = s1.shfBound 0) && s1.mem.shelfErr.isEmpty)) :=
  ⟨by decide, issues_of (by decide +kernel)⟩

/-- Stores: a store of every form, and one that passes its check at the last byte. -/
theorem witness_Stores :
    ((Instr.stv hd 2 31 5 2 31 31 0).wf = true ∧ Issues (spdDev running) hd slotT (fun s1 => !(s1.actors hd).isEmpty &&
      (s1.actors hd).all (fun x => served s1 hd x.1 x.2 (spdSpan (s1.opAddr x.2 0 0x7FFE0 5) 32) &&
        decide (alignDown 5 (s1.sreg x.2 0).toNat + 32 ≤ s1.shfBound 0)))) ∧
    (let w : SpdWrite := ⟨1, 1, [(0x7FFFF, 0x0F, 7), (0, 0xFF, 9)], 3, false⟩
     let s := spdDev { running with pend := [due 4 (.spdTouch [w])] }
     stateOk s = true ∧ s.owed 0 = [(4, .spdTouch [w])] ∧ s.touchFault 0 w = none ∧ (w.bits.map (·.1)).Nodup ∧
       ∀ b ∈ w.bits, SMap.get none (s.core w.core).spdErr (b.1 / 4) = none) :=
  ⟨⟨by decide, issues_of (by decide +kernel)⟩, by decide +kernel⟩

/-- WindowFaults: one core whose load lies at the first address outside its window; a store there; the record free. -/
theorem witness_WindowFaults :
    (let s := (dev running (cores2 Core.reset Core.reset)).setCsr (spdReg 0 4) 0x7F000
     Issues s hd1 slotL (fun s1 => s1.actors hd1 == [(1, 1)] && decide (s1.spdBound 0 = s1.opAddr 1 0 0x7F000 2))) ∧
    (let w : SpdWrite := ⟨1, 1, [(0x7F000, 0xFF, 7)], 1, false⟩
     let s := (dev { running with pend := [due 4 (.spdTouch [w])] }).setCsr (spdReg 0 4) 0x7F000
     stateOk s = true ∧ s.owed 0 = [(4, .spdTouch [w])] ∧ w.bits.head? = some (0x7F000, 0xFF, 7) ∧ s.spdBound 0 ≤ 0x7F000) ∧
    ((dev running).csrAt (spdReg 63 8)).getLsbD 31 = false :=
  ⟨issues_of (by decide +kernel), by decide +kernel, by decide +kernel⟩

/-- CORE_QCFGq_A of a queue on the HBM with entries of 64 bytes. -/
def queueDev (out : Bool) (b : Table) (cs : List (Nat × Core)) (stat : Word) : State :=
  [0, 1].foldl (fun s k => (s.setCsr (qcfgA k 15) (1 + (if out then 4 else 0) + 3 * 128)).setCsr (qstat k 15) stat)
    ((dev b cs).setCsr (winReg .hbm 0 8) 0x1000)

/-- QueueOperations: an inbound queue with exactly the entries free, an outbound one with exactly the entries held, and one core that asks
for one more. -/
theorem witness_QueueOperations :
    (Issues (queueDev false running [] 4) hd slotT (fun s1 => (s1.actors hd).all (fun x =>
        !(s1.qcfg x.2 15).out && decide ((s1.qst x.2 15).free = 4) && decide (4 * (s1.qcfg x.2 15).esize ≤ s1.winBound .hbm 0)))) ∧
    (Issues (queueDev true running [] 0x800000) hd slotT (fun s1 => (s1.actors hd).all (fun x =>
        (s1.qcfg x.2 15).out && decide ((s1.qst x.2 15).held = 4)))) ∧
    (Issues (queueDev true running (cores2 Core.reset Core.reset) 0x600000) hd1 slotT (fun s1 =>
        s1.actors hd1 == [(1, 1)] && decide ((s1.qst 1 15).held < 4))) :=
  ⟨issues_of (by decide +kernel), issues_of (by decide +kernel), issues_of (by decide +kernel)⟩

/-- MessageSends: no core acts; cores act and the far table is in service, and out of service. -/
theorem witness_MessageSends :
    Issues (dev running) { hd with gneg := true } slotT (fun s1 => (s1.actors { hd with gneg := true }).isEmpty) ∧
    Issues (dev running) hd slotT (fun s1 => !(s1.actors hd).isEmpty && !s1.sendGone 0 63) ∧
    Issues ((dev running).setTblStat 0 2) hd slotT (fun s1 => !(s1.actors hd).isEmpty && s1.sendGone 0 63) :=
  ⟨issues_of (by decide +kernel), issues_of (by decide +kernel), issues_of (by decide +kernel)⟩

/-- SequencerOperations: the last loop level of a dealer, a core in Taper mode, and a handler window. -/
theorem witness_SequencerOperations :
    Issues (dev running) hd slotY (fun s1 => (s1.seqOf 0 (s1.issuer hd)).loops[3]? == some ⟨false, 0, 0, 0, 0⟩ &&
      (s1.opCores hd).head? == some (0, 0) && decide ((s1.table 0).seq.window = none)) ∧
    (let h : Hdr := { hd with core := 1 }
     Issues (dev { running with taper := true } [(1, { Core.reset with cache := [⟨0, 1, List.replicate 64 0⟩] })]) h slotY (fun s1 => decide (s1.issuer h = some 1))) ∧
    Issues (dev { running with seq := { Seq.reset with window := some ⟨63, 1, true, 0, 9, 0, 0, none⟩ } }) hd slotY
      (fun s1 => (s1.table 0).seq.window.isSome) :=
  ⟨issues_of (by decide +kernel), issues_of (by decide +kernel), issues_of (by decide +kernel)⟩

/-- WaitsAndSignals: every form at the ends of its fields, and a channel whose far table is in service and out of it. -/
theorem witness_WaitsAndSignals :
    ((Instr.wait hd 0 255 255 15).wf = true ∧ (Instr.wait hd 2 63 255 0).wf = true ∧ (Instr.qwait hd 15 true 63).wf = true ∧
      (Instr.dwait hd 127).wf = true ∧ (Instr.hwin hd 63 63 4095).wf = true ∧ (Instr.sig hd 0 255 255 0).wf = true ∧
      (Instr.sig hd 2 63 1 0).wf = true ∧ (Instr.sig hd 1 255 255 63).wf = true) ∧
    Issues (dev running) hd slotY (fun s1 => !s1.sendGone 0 63) ∧ Issues ((dev running).setTblStat 0 2) hd slotY (fun s1 => s1.sendGone 0 63) :=
  ⟨by decide, issues_of (by decide +kernel), issues_of (by decide +kernel)⟩

/-- TricksCount: no pause armed; armed at this occurrence in a quiet table; and in one with a message under way. -/
theorem witness_TricksCount :
    let b : Table := { running with job := some 127, pause := 0x1FFF, pauseN := 0xFFFFFFFF, trickN := 0xFFFFFFFF }
    let armed (s1 : State) : Bool := ((s1.table 0).pause.getLsbD 12 && decide ((s1.table 0).pause.truncate 12 = (0xFFF : BitVec 12)) &&
      decide (satIncr (s1.table 0).trickN = (s1.table 0).pauseN))
    Issues (dev running) hd slotY (fun s1 => !armed s1 && (s1.table 0).snd.isEmpty) ∧
    Issues (dev b) hd slotY (fun s1 => armed s1 && s1.quiet 0) ∧
    Issues (dev { b with sends := [⟨0, 0, 0, true, [], none, 0, 0⟩] }) hd slotY (fun s1 => armed s1 && !s1.quiet 0 &&
      decide ((s1.table 0).job = some 127)) :=
  ⟨issues_of (by decide +kernel), issues_of (by decide +kernel), issues_of (by decide +kernel)⟩

/-- A dealer with one late wait between two that are not. -/
def waiting (w : WaitFor) : Table :=
  { running with job := some 4, seq := { Seq.reset with waits := [⟨.absent, 90, false⟩, ⟨w, 3, true⟩, ⟨.absent, 91, false⟩] } }

/-- A dealer with one late wait that has a timeout of 4 cycles, in cycle `c`. -/
def timed (w : WaitFor) (c : Nat) : State :=
  (dev { running with job := some 4, seq := { Seq.reset with waits := [⟨w, 3, true⟩] }, tout := [(15, 4)] }).modRegion 0 (fun r => { r with cyc := c })

/-- WaitsResolve: every late wait whose condition just holds; and one that just fails, in the cycle before its timeout and in that of it. -/
theorem witness_WaitsResolve :
    (let s := dev { waiting (.counter 255 7 0) with ctr := [(255, 7)] }
     stateOk s = true ∧ s.stopped 0 = false ∧ 7 ≤ s.counter 0 255) ∧
    (let s := { dev (waiting (.host 63 7 0)) with hctr := [(64 * 4 + 63, 7)] }
     stateOk s = true ∧ (s.table 0).job = some 4 ∧ 7 ≤ s.hostCounter 4 63) ∧
    (let s := queueDev false (waiting (.queue 15 4 true)) [] 4
     stateOk s = true ∧ ∀ x ∈ s.tableCores 0, 4 ≤ (s.qst x.2 15).free) ∧
    (let s := { dev (waiting (.dma 127)) with dma := [(5, { DmaChan.reset with job := some 4, rel := 127, cmpTask := 1 })] }
     stateOk s = true ∧ s.taskChannel 0 127 = some 5 ∧ (s.dmaCh 5).cmpTask ≠ 0) ∧
    (let s := dev { waiting (.credit 63 0 0 16 [(0, 64)]) with
       sends := [⟨63, 0, 0, false, [], none, 0, 0⟩], rcv := [(63, { RcvChan.reset with ring := 64 * 2 ^ 13 })]
       snd := [(63, { SndChan.reset with cfg := 63 * 2 ^ 6 })] }
     stateOk s = true ∧ (s.creditMet 0 63 0 16 [(0, 64)]).isSome = true) ∧
    (let s := dev { waiting (.window 63 1 4095 0) with rcv := [(63, { RcvChan.reset with present := 1 })] }
     stateOk s = true ∧ 1 ≤ (s.rcv 0 63).present) ∧
    (∀ c ∈ [6, 7], let s := timed (.counter 255 1 15) c
     stateOk s = true ∧ s.stopped 0 = false ∧ s.counter 0 255 < 1 ∧ s.cyc 0 = c ∧ (SMap.get 0 (s.table 0).tout 15).toNat = 4) ∧
    (let s := timed (.host 63 1 15) 7
     stateOk s = true ∧ (s.table 0).job = some 4 ∧ s.hostCounter 4 63 < 1 ∧ s.cyc 0 = 7) ∧
    (∀ c ∈ [0x100002, 0x100003], let s := timed (.credit 63 0 0 16 [(0, 64)]) c
     stateOk s = true ∧ (s.creditMet 0 63 0 16 [(0, 64)]).isNone = true ∧ s.cyc 0 = c ∧ (s.csrAt (chnReg 0 0x900)).toNat = 0x100000) := by
  decide +kernel

/-- A submission and a job of the table 0, in state `st`. -/
def submission : SubmitBody := ⟨1, 0, 0, 0, 0, [], 0, 3, 0, 0, 0, 0, 0, [], [], [], []⟩
def jobIn (st : JobState) : Job :=
  { state := st, body := submission, image := [], variant := 0, tables := [0], cores := 2, taper := false, scope := 0, stamp := 1, bound := 1000,
    release := 0, replied := true, nonrepro := false, readmitted := none, regions := [], admCount := 1, share := 4, hbmBase := 0, hbmSize := 0,
    ddrBase := 0, ddrSize := 0, ctxBase := 0, ctxSize := 0, pool := [], opens := [], claims := [], cells := [], descMap := [], ioFlows := [], dmaSlots := [],
    ctrDir := [], power := 0, bandHbm := 0, bandDdr := 0, firstEvent := 0, excursion := none, violated := false, abortTick := 0, pauseTrick := 0,
    pauseFrom := 0, pauseTicks := 0, hostTicks := 0, pauseRepart := false, recipient := [], context := none, waiters := [], tasks := [],
    summary := 0, residue := [], rcount := 0, residueTaken := false, undelivered := 0, slotWrites := [], slotDirty := [], detaching := false,
    trapped := false, readOut := [], record := [] }

/-- A device with job 127 on its table 0. -/
def jobDev (b : Table) (j : Job) : State := { dev { b with job := some 127 } with jobs := [(127, some j)] }

/-- TasksBeginAndEnd: at the release and the resume tick, one tick before each, and a task that is over and one that is not. -/
theorem witness_TasksBeginAndEnd :
    (∀ x ∈ [((0 : BitVec 2), 9), (0, 10), (2, 9), (2, 10)], let s := { jobDev { Table.reset with run := x.1, release := some x.2 } (jobIn .admitted) with beacon := 9 }
     stateOk s = true ∧ (s.table 0).release = some x.2 ∧ (s.table 0).job = some 127 ∧ s.job 127 = some (jobIn .admitted) ∧ s.stopped 0 = false ∧
       decide (16 * x.2 + (s.table 0).phase ≤ est16 s.now11) = decide (x.2 = 9)) ∧
    (∀ e ∈ [true, false], let s := jobDev { running with ending := e, seq := { Seq.reset with ended := e } } (jobIn .running)
     stateOk s = true ∧ s.taskOver 0 (s.cyc 0) = e ∧ s.job 127 = some (jobIn .running) ∧ (s.tables.all (fun t => t.2.rcv.isEmpty)) = true) := by
  decide +kernel

/-- CacheLinesFill: a core that waits for a line of a set that is full. -/
theorem witness_CacheLinesFill :
    let c : Core := { Core.reset with missLine := some 131, cache := [⟨3, 1, []⟩, ⟨259, 0, []⟩, ⟨387, 7, []⟩, ⟨515, 2, []⟩] }
    let s := { jobDev { running with taper := true } (jobIn .running) with cores := [(1, c)] }
    stateOk s = true ∧ s.job 127 = some (jobIn .running) ∧ (s.table 0).job = some 127 ∧ s.physCore 0 1 = some 1 ∧ (s.core 1).missLine = some 131 ∧ ((s.core 1).cache.map (·.age)).Nodup ∧
      ∀ m < 128, ((s.core 1).cache.filter (fun y => y.line % 128 == m)).length ≤ 4 := by
  decide +kernel

/-- The tag of a flit of `kind` for channel 63 of table `dpt`, message `seq`. -/
def tagOf (kind dpt seq : Nat) (more : Nat := 0) : BitVec 64 := BitVec.ofNat 64 (kind + dpt * 2 ^ 2 + 63 * 2 ^ 8 + seq * 2 ^ 14 + more)

/-- CountersAndResidue: a signal whose earlier messages have been received, and one whose last is still to come; a job whose tasks have ended;
the greatest sum that fits and the least that does not. -/
theorem witness_CountersAndResidue :
    (∀ x ∈ [(3, 3), (3, 4)], let s := dev { running with rcv := [(63, { RcvChan.reset with seq := BitVec.ofNat 21 x.1, signals := [tagOf 1 0 x.2] })] }
     stateOk s = true ∧ (s.rcv 0 63).signals = [tagOf 1 0 x.2] ∧ s.stopped 0 = false ∧
       decide (((s.rcv 0 63).seq - (tagOf 1 0 x.2).extractLsb' 14 21).toNat < 2 ^ 20) = decide (x.2 = 3)) ∧
    (let s := jobDev { Table.reset with run := 3, ctr := [(255, 1)] } (jobIn .running)
     stateOk s = true ∧ s.job 127 = some (jobIn .running) ∧ (s.table 0).run = 3 ∧ s.signalInFlight 127 (jobIn .running) = false ∧ s.tableResidue 0 ≠ []) ∧
    (let s := dev { running with ctr := [(255, 0xFFFF00)] }
     stateOk s = true ∧ s.counter 0 255 + 255 = 0xFFFFFF ∧ 0xFFFFFF < s.counter 0 255 + 256 ∧ (s.csrAt (synReg 0 0x840)).getLsbD 31 = false) := by
  decide +kernel

/-- A flit of table 0 that has reached the router where it stands. -/
def flit (tag : BitVec 64) : Flit := ⟨tag, [1], 5, 64, 0, 126, none, none⟩

/-- FlitsMoveAndLand: a flit at the L input whose slot it is, and no flit at another output; a flit that has come over a link; flits of every kind
for the table. -/
theorem witness_FlitsMoveAndLand :
    (let s := dev running
     let s := { s with noc := { s.noc with slots := [(slotKey 0 portE 0, slotWord portL false 63 false)], chanQ := [(lqKey 0 63 false, [flit (tagOf 0 1 0)])]
                                           links := [(linkKey 1 portW, [{ flit (tagOf 1 1 0) with dueNet := 9 }, flit (tagOf 1 1 0)])] } }
     stateOk s = true ∧ s.stopped (dieRegion 0) = false ∧ neighbour 0 portE = some (1, portW) ∧
       s.departure 0 portE = some (0, (true, lqKey 0 63 false, portL), flit (tagOf 0 1 0)) ∧ (s.outputFull 0 portE (some (flit (tagOf 0 1 0)))).1 = false ∧
       s.departure 0 portS = none ∧ s.net 64 < 9 ∧ (flit (tagOf 1 1 0)).dueNet ≤ s.net 64) ∧
    (∀ k ∈ [1, 2, 0, 3], let f := flit (tagOf k 1 0 (15 * 2 ^ 54))
     let s := { dev running with noc := { State.reset.noc with slots := [(slotKey 1 portL 0, slotWord portW false 0 false)], queues := [(queueKey 1 portW portL, [f])] } }
     stateOk s = true ∧ s.departure 1 portL = some (0, (false, queueKey 1 portW portL, portW), f) ∧ (s.outputFull 1 portL (some f)).1 = false ∧
       s.outOfService 1 = false ∧ s.hasCause 1 causeFault = false ∧ f.kind = k ∧ f.tag.extractLsb' 58 4 ≠ f.tag.extractLsb' 54 4) := by
  decide +kernel

/-- PartsAndCredit: a part whose record is written, a spilled part for which the ring has just room, and a credit flit that is due. -/
theorem witness_PartsAndCredit :
    let p : Part := ⟨tagOf 0 0 3 (2 ^ 35 + 2 ^ 48), [List.replicate 64 7]⟩
    let c : RcvChan := { RcvChan.reset with ring := 4 * 2 ^ 13, arriving := [p], records := [(1, [⟨0, 2, p.tag⟩])], spilled := [(1, [⟨p.tag, [0, 1]⟩])], writePos := [(1, 2)],
                                            creditDue := true }
    let s : State := { dev running with
      tables := [(0, { running with rcv := [(63, c)] }), (1, { running with snd := [(63, { SndChan.reset with cfg := 63 * 2 ^ 6 + 2 ^ 24 })] })]
      noc := { State.reset.noc with slots := [(slotKey 0 portE 0, slotWord portL false 63 true)] } }
    stateOk s = true ∧ s.stopped 0 = false ∧ c.arriving.find? (fun p => field p.tag 40 35 == 1) = some p ∧ s.physCore 0 1 = some 1 ∧
      (s.rcv 0 63) = c ∧ (SMap.get [] c.records 1).find? (fun r => decide (r.tag = p.tag)) = some ⟨0, 2, p.tag⟩ ∧
      (s.core 1).written 63 c.rbase ⟨0, 2, p.tag⟩ = true ∧ field p.tag 40 35 = 1 ∧ (s.core 1).pathFree true = true ∧ s.mem.shelfErr = [] ∧
      SMap.get [] c.spilled 1 = [⟨p.tag, [0, 1]⟩] ∧
      SMap.get 0 c.writePos 1 + ringTake c.rsize (SMap.get 0 c.writePos 1) 2 - SMap.get 0 c.readPos 1 = c.rsize ∧
      s.stopped (dieRegion 0) = false ∧ (s.rcvEnd 0 63).next 0 = portE ∧ neighbour 0 portE = some (1, portW) ∧
      (s.openCycles 0 portE).find? (fun x => s.creditSlot 0 portE 63 (x % s.slots)) = some 0 ∧
      (s.outputFull 0 portE (some (s.creditFlit 0 63))).1 = false := by
  decide +kernel

/-- GranulesAndEntries: credit that just suffices and that just does not; granules for a scratchpad and for the far tier; a fill of the last bytes of
a scratchpad; queues whose oldest PEND entry has all its bytes, or not, and the last entry of a QREQ. -/
theorem witness_GranulesAndEntries :
    (∀ c ∈ [1023, 1024], let g : Granule := ⟨.queue 0 1 15 3, 7, some .hbm, .hbm 100, .spd 1 64, 64, false⟩
     let s := { dev { running with credit := [(0, c)] } with mem := { State.reset.mem with granules := [g] } }
     stateOk s = true ∧ s.mem.granules[0]? = some g ∧ s.stopped 0 = false ∧ s.tableCredit 0 .hbm = c) ∧
    (∀ d ∈ [Place.spd 1 64, .ddr 63], let g : Granule := ⟨.queue 0 1 15 3, 7, some .hbm, .hbm 100, d, 1, true⟩
     let s := { dev running with mem := { State.reset.mem with granules := [g], population := [0], msize := 64 } }
     stateOk s = true ∧ inOrder s.pinnedMode (s.mem.granules.take 0) g = true ∧ s.granuleFree g = true ∧ s.mem.bad = [] ∧ s.mem.hbmGone 100 = false ∧ s.mem.ddrGone 63 = false) ∧
    (let f : Fill := ⟨.queue 15 3, 0x7FFE0, List.replicate 32 1⟩
     let s := dev running [(1, { Core.reset with fills := [f] })]
     stateOk s = true ∧ s.physCore 0 1 = some 1 ∧ (1, 1) ∈ s.tableCores 0 ∧ s.stopped 0 = false ∧
       (∀ x ∈ s.tableCores 0, (s.core x.2).fillReq = false) ∧ (s.core 1).fills = [f] ∧ f.data.length ≤ s.fillRoom 0 1 ∧ f.addr % 0x8000 + f.data.length = 0x8000 ∧
       (s.busyBanks 0 1).getLsbD (bankOf f.addr) = false ∧
       (s.core 1).spdErr = []) ∧
    (∀ x ∈ [(false, false), (false, true), (true, false)],
     let s := queueDev x.1 running [(1, { Core.reset with reqs := [(15, 1)] })] (2 ^ 7)
     let s := (s.setCsr (qcfgA 1 15) (1 + (if x.1 then 4 else 0) + 3 * 128 + 255 * 2 ^ 20 + 2 ^ 28))
     let s := if x.2 then { s with mem := { s.mem with granules := [⟨.queue 0 1 15 (s.oldestPend 1 15), 7, some .hbm, .hbm 100, .spd 1 64, 64, true⟩] } } else s
     stateOk s = true ∧ (s.qcfg 1 15).tier.isSome = true ∧ 0 < (s.qst 1 15).pend ∧ (s.qcfg 1 15).out = x.1 ∧
       s.entryBusy 0 1 15 (s.oldestPend 1 15) = x.2 ∧ (s.qcfg 1 15).ctr = some 255) := by
  decide +kernel

/-- A device with channel 31 of stack 15 in copy, and `n` spares of stacks 14 and 15 used. -/
def spareDev (n : Word) : State :=
  ({ dev running with mem := { State.reset.mem with copying := [(15, 31)], population := [15] } }.setCsr (stkStat 15) n).setCsr (stkStat 14) n

/-- ChannelsFail: a channel in copy with one spare left, a channel with and without a spare, a populated DDR5 channel; pinned memory in a tick
of its refresh and in the next. -/
theorem witness_ChannelsFail :
    (stateOk (spareDev 1) && (spareDev 1).jobs.isEmpty && (spareDev 1).mem.copying.contains (15, 31) &&
      field ((spareDev 1).csrAt (stkStat 15)) 1 0 == 1 && !(spareDev 1).mem.lost.contains (14, 31) &&
      !(spareDev 1).mem.copying.any (fun c => c.1 == 14) && field ((spareDev 1).csrAt (stkStat 14)) 1 0 == 1 &&
      (spareDev 1).mem.population.contains 15 && !(spareDev 1).mem.holes.contains 15 &&
      (spareDev 1).mem.copyDue.isEmpty && stateOk (spareDev 2) && field ((spareDev 2).csrAt (stkStat 14)) 1 0 == 2 &&
      [195, 196].all (fun b => let s := { spareDev 1 with recs := { Records.reset with pinned := true, hbmOfs := List.replicate 16 0 }, beacon := b }
        stateOk s && s.pinnedMode && decide ((s.beacon - s.recs.hbmOfs.getD 15 0) % 195 = 0) == decide (b = 195))) = true := by
  decide +kernel

/-- A device whose last DMA channel of an IO die, of job 127, has descriptor `d`. -/
def dmaDev (st : BitVec 2) (d : List (Nat × Nat)) (gs : List Granule) : State :=
  { jobDev running (jobIn .running) with
    dma := [(dmaKey 9 15, { DmaChan.reset with job := some 127, ctl := 0x400, state := st })]
    descs := [(1024 * 9, BitVec.ofNat 512 ((d.map (fun x => x.2 * 2 ^ x.1)).sum))]
    recs := { Records.reset with timers := [(32 * 9 + 31, (10, 3))] }, beacon := 13, mem := { State.reset.mem with granules := gs } }

/-- DmaRuns: a timer in a tick of its period; a start, a completion with one more repetition to come, and one whose bytes are on their way. -/
theorem witness_DmaRuns :
    (let s := dmaDev 1 [(0, 1), (4, 5), (8, 1), (10, 31)] []
     let d := s.headDesc 9 15
     stateOk s = true ∧ SMap.get (0, 0) s.recs.timers (32 * 9 + 31) = (10, 3) ∧ (s.beacon - 3) % 10 = 0 ∧ SMap.get 0 s.mem.fired (32 * 9 + 31) ≠ s.beacon + 1 ∧
       s.stopped (dmaRegion 9) = false ∧ (s.dmaCh (dmaKey 9 15)).ctl.getLsbD 10 = true ∧ d.start = 1 ∧ d.ev = 31 ∧ s.dma.length = 1) ∧
    (let s := (dmaDev 1 [(0, 0), (4, 1), (192, 8)] []).setCsr (winReg .hbm 0 8) 0x1000
     let d := s.headDesc 9 15
     stateOk s = true ∧ s.queueReady 127 d = true ∧ d.start = 0 ∧ d.len = 8 ∧ d.dsp ≠ 6 ∧ d.isMsg = false ∧
       (s.repRows 127 0 d (s.dmaCh (dmaKey 9 15))).isSome = true) ∧
    (let s := dmaDev 2 [(0, 1), (4, 5), (192, 8), (240, 1)] []
     let d := s.headDesc 9 15
     stateOk s = true ∧ s.repBusy 9 15 = false ∧ d.dsp ≠ 6 ∧ d.ssp ≠ 6 ∧ d.sig = false ∧ (s.dmaCh (dmaKey 9 15)).repN.toNat + 1 < d.rep) ∧
    (let s := dmaDev 2 [(0, 1), (4, 5), (192, 8)] [⟨.dma 9 15, 0, none, .hbm 4, .hbm 5, 3, true⟩]
     stateOk s = true ∧ s.repBusy 9 15 = true) := by
  decide +kernel

/-! ### The host port -/

/-- The host port takes the frame at once, checked by evaluation. -/
def takenB (s : State) (typ : BitVec 8) (lead : Nat) (f : HostFrame) : Bool :=
  s.host.link && decide ((s.qp f.qpn.toNat).state = 1) && !s.mgt.hold && decide ((s.qp f.qpn.toNat).order = []) &&
    !s.qpBlocked f.qpn.toNat && decide (f.len.toNat = 16 + lead + f.body.length ∧ f.ver = 1 ∧ f.status = 0 ∧ f.rsv = 0) &&
    decide (16 + lead + f.body.length ≤ if f.qpn = 0x10 then 4096 else 16384) &&
    decide ((f.qpn = 0x10 ∧ typ.toNat ∈ [1, 2, 3, 4, 5, 6, 9, 10]) ∨ (f.qpn.toNat = 256 + f.job.toNat ∧ 3 ≤ typ.toNat ∧ typ.toNat ≤ 8))

theorem taken_of {s : State} {typ : BitVec 8} {lead : Nat} {f : HostFrame} (h : takenB s typ lead f = true) : FrameTaken s typ lead f := by
  simp only [takenB, Bool.and_eq_true, decide_eq_true_eq, Bool.not_eq_true'] at h
  obtain ⟨⟨⟨⟨⟨⟨⟨h1, h2⟩, h3⟩, h4⟩, h5⟩, h6⟩, h7⟩, h8⟩ := h
  exact ⟨h1, h2, h3, h4, h5, h6, h7, h8⟩

/-- A device with link whose control queue pair and queue pair of job 63 are in state `st`; the job, if any, is on table 0. -/
def hostDev (st : BitVec 2) (b : Table) (j : Option Job) (hold : Bool := false) : State :=
  { dev { b with job := j.map (fun _ => 63) } with
    host := { State.reset.host with link := true, drop := 5, qps := [(16, { QueuePair.reset with state := st, psn := 4 }), (319, { QueuePair.reset with state := st, psn := 5 })] }
    jobs := (j.map (fun j => (63, some j))).toList, mgt := { State.reset.mgt with hold := hold }, beacon := 1000 }

/-- A frame of `extra` bytes beside its body, on the control queue pair or on that of job 63. -/
def frame (control : Bool) (job extra : Nat) (body : List Byte) : HostFrame :=
  { qpn := if control then 16 else 319, len := BitVec.ofNat 16 (16 + extra + body.length), ver := 1, tag := 0x1234, job := BitVec.ofNat 8 job
    status := 0, rsv := 0, body := body }

/-- FramesAreChecked: every path of a frame, and queries of the device and of a job. -/
theorem witness_FramesAreChecked :
    (State.reset.host.link = false ∧ stateOk (hostDev 0 running none) = true ∧ (hostDev 0 running none).host.link = true ∧
      ((hostDev 0 running none).qp 16).state = 0 ∧ stateOk (hostDev 1 running none true) = true ∧ ((hostDev 1 running none true).qp 16).state = 1 ∧
      (hostDev 1 running none true).mgt.hold = true) ∧
    (let s := hostDev 1 running none
     stateOk s = true ∧ s.mgt.hold = false ∧ s.qpBlocked 16 = false ∧ (s.qp 16).order = [] ∧ (s.qp 319).order = [] ∧
       (frame true 0xFF 0 [2]).len.toNat = 17 ∧ (frame false 63 0 []).qpn.toNat = 256 + (frame false 63 0 []).job.toNat ∧
       (frame true 0xFF 0 (List.replicate 15 0)).len.toNat ≠ 17 + 15 ∧ (frame true 0xFF 0 []).body.length = 0 ∧ (frame false 63 1 []).qpn ≠ 0x10) ∧
    FrameTaken (hostDev 1 running none) 2 1 (frame true 0xFF 1 (List.replicate 15 0)) ∧
    FrameTaken (hostDev 1 running (some (jobIn .running))) 2 1 (frame true 63 1 (List.replicate 15 0)) ∧
    (hostDev 1 running (some (jobIn .running))).job 63 = some (jobIn .running) :=
  ⟨by decide +kernel, by decide +kernel, taken_of (by decide +kernel), taken_of (by decide +kernel), rfl⟩

/-- An image of one variant of one core, with an empty program. -/
def smallImage : List Byte :=
  natLe 4 0x31494D44 ++ natLe 2 1 ++ natLe 2 3 ++ natLe 8 312 ++ List.replicate 16 0 ++
  (natLe 4 0xFF01 ++ natLe 4 0 ++ natLe 8 128 ++ natLe 8 4 ++ List.replicate 8 0) ++
  (natLe 4 0xFF02 ++ natLe 4 0 ++ natLe 8 192 ++ natLe 8 6 ++ List.replicate 8 0) ++
  (natLe 4 0xFF0E ++ natLe 4 0 ++ natLe 8 256 ++ natLe 8 56 ++ List.replicate 8 0) ++
  [1, 2, 64, 0] ++ List.replicate 60 0 ++ [0, 4, 0, 8, 0, 0] ++ List.replicate 58 0 ++ List.replicate 48 0 ++ natLe 8 1

/-- A pausing job all of whose tables stand still, and one that runs on. -/
def pausing (run : BitVec 2) : State :=
  hostDev 1 { running with run := run } (some { jobIn .pausing with image := smallImage, ctxBase := 1000, ctxSize := 60 })

/-- JobsPauseAndEnd: a job that runs, one whose tables are paused or not, a paused one. -/
theorem witness_JobsPauseAndEnd :
    (let s := hostDev 1 running (some (jobIn .running))
     let f := frame false 63 0 (natLe 2 0xFFF ++ List.replicate 142 0)
     s.Canonical ∧ FrameTaken s 3 0 f ∧ f.body.length = 144 ∧ rdLe f.body 0 2 = 0xFFF ∧ (f.body.drop 8).take 133 = List.replicate 133 0 ∧
       (jobIn .running).taper = false ∧ (s.table 0).run ≠ 3 ∧ FrameTaken s 4 0 (frame false 63 0 []) ∧ FrameTaken s 6 0 (frame false 63 0 []) ∧
       (jobIn .running).waiters = [] ∧ (jobIn .running).trapped = false) ∧
    (stateOk (pausing 1) && stateOk (pausing 2) && ((pausing 1).job 63).all (fun b => !(pausing 1).allPaused 63 b) &&
      ((pausing 2).job 63).all (fun b => (pausing 2).allPaused 63 b && b.varDecl.isSome) && (pausing 2).mem.bad.isEmpty) = true ∧
    (let s := hostDev 1 { running with run := 2 } (some (jobIn .paused))
     s.Canonical ∧ FrameTaken s 4 0 (frame true 63 0 []) ∧ FrameTaken s 5 0 (frame true 63 0 []) ∧ (jobIn .paused).detaching = false) :=
  ⟨⟨canonical_of (by decide +kernel), taken_of (by decide +kernel), by decide +kernel, by decide +kernel, by decide +kernel, rfl, by decide, taken_of (by decide +kernel),
    taken_of (by decide +kernel), rfl, rfl⟩, by decide +kernel,
    canonical_of (by decide +kernel), taken_of (by decide +kernel), taken_of (by decide +kernel), rfl⟩

/-- RecordsAreSent: a job that can end, and one whose residue has not been taken. -/
theorem witness_RecordsAreSent :
    let b := { jobIn .running with residueTaken := true }
    let s := hostDev 1 { running with run := 3 } (some b)
    stateOk s = true ∧ s.job 63 = some b ∧ (s.qp 319).state = 1 ∧ s.host.link = true ∧
      s.beacon ≤ b.stamp + b.bound + s.hostTime b + s.pausedTime b ∧ b.slotDirty = [] ∧ s.requestsOpen 63 b = false ∧ s.dmaStill 63 = true ∧
      b.waiters = [] ∧ (jobIn .running).residueTaken = false := by
  decide +kernel

/-- A submission of that image for any table, and the frame that carries it. -/
def smallSubmit : SubmitBody := { submission with tag := 0x1234, flags := 4, imgLen := 312, tReq := 1, hqpn := 7, place := List.replicate 64 0xFF, seeds := List.replicate 16 0 }
def submitBody : List Byte :=
  List.replicate 12 0 ++ natLe 4 4 ++ natLe 8 312 ++ List.replicate 64 0 ++ [1] ++ natLe 3 7 ++ List.replicate 28 0 ++ List.replicate 64 0xFF ++ List.replicate 392 0

/-- What an admission is given: the image, and no context. -/
def imageIn (img : List Byte) : AdmissionInput := { image := some img, context := none }

/-- Whether the plan of the submission passes. -/
def planOk (s : State) (b : SubmitBody) (img : List Byte) : Bool :=
  match s.plan b (some img) none with
  | .ok pl => pl.resume.isNone
  | .error _ => false

/-- An ended job that asks to be admitted again, after a failure of its dealer or of a core; its table works again or is gone. -/
def again (code : BitVec 16) (gone : Bool) : State :=
  let s := hostDev 1 { Table.reset with trick := 1 } none
  let s := { s with jobs := [(63, some { jobIn .ended with body := smallSubmit, firstEvent := code })], adm := { s.adm with count := 3 } }
  if gone then s.setTblStat 0 2 else s

/-- JobsAreAdmitted: the frames of a submission and of a body that is none, at a free and at a busy admission unit. -/
theorem witness_JobsAreAdmitted_frames :
    (FrameTaken (hostDev 1 running none) 1 0 (frame true 0xFF 0 submitBody) ∧
      ((readSubmit (frame true 0xFF 0 submitBody)).map (fun b => decide (b.flags = 4 ∧ b.imgLen = 312 ∧ b.hqpn = 7))).getD false = true) ∧
    (FrameTaken (hostDev 1 running none) 1 0 (frame true 0xFF 0 []) ∧ readSubmit (frame true 0xFF 0 []) = none) ∧
    (stateOk (hostDev 1 running none) && (hostDev 1 running none).freeJob.isSome && (hostDev 1 running none).adm.current.isNone) = true :=
  ⟨⟨taken_of (by decide +kernel), by decide +kernel⟩, ⟨taken_of (by decide +kernel), by decide +kernel⟩, by decide +kernel⟩

/-- JobsAreAdmitted: a plan refused and one that passes; a job loaded; one to be admitted again, after a core failure and after a dealer
failure that took its table. -/
theorem witness_JobsAreAdmitted :
    (let s := { hostDev 1 running none with adm := { State.reset.adm with current := some smallSubmit } }.expect 16 0x81 0x1234
     stateOk s && s.adm.loading.isNone && decide ((s.qp 0x10).order = [⟨0x81, smallSubmit.tag, false, none⟩]) && !planOk s smallSubmit [] && planOk s smallSubmit smallImage) = true ∧
    (let x := { jobIn .loading with body := smallSubmit }
     let s := hostDev 1 { Table.reset with trick := 1 } (some x)
     let s := { s with adm := { s.adm with loading := some (63, 900) } }.expect 16 0x81 0x1234
     stateOk s && x.readmitted.isNone && decide (s.adm.loading = some (63, 900)) && decide ((s.qp 0x10).order = [⟨0x81, x.body.tag, false, none⟩])) = true ∧
    [((0x1001 : BitVec 16), true), (0x2001, false)].all (fun x => let s := again x.1 x.2
      stateOk s && s.adm.current.isNone && !s.mgt.hold && ((s.job 63).map (fun b => s.readmitDue b && s.dealerGone b == x.2)).getD false &&
        (x.2 || planOk s smallSubmit smallImage)) = true :=
  ⟨by decide +kernel, by decide +kernel, by decide +kernel⟩

/-- A job whose counter 0 comes from the host and whose counter 63 goes to it, and which the host sends on channel 9. -/
def countJob : Job := { jobIn .running with ctrDir := [(0, 1), (63, 2)], slotDirty := [(63, [])] }

/-- The device with that job; counter 0 holds `v`, counter 63 holds 7, and channel 9 of the host is open. -/
def countDev (v : BitVec 24) : State :=
  let s := hostDev 1 { running with rcv := [(9, { RcvChan.reset with ring := 8 * 2 ^ 13 })] } (some countJob)
  { s with hctr := (if v = 0 then [] else [(64 * 63, v)]) ++ [(64 * 63 + 63, 7)]
           host := { s.host with chans := [(9, { SndChan.reset with cfg := 0x1000000 + 3 * 2 ^ 18 })] } }

/-- The body of a SIGNAL behind its first byte: the counter and the amount. -/
def signalBody (n a : Nat) : List Byte := natLe 1 n ++ [0, 0] ++ natLe 4 a

/-- HostCountersAndMessages: sums that just fit and just do not, amounts that a counter just holds and just does not; messages that have credit,
that lack it, and to a channel that the host does not feed; a queue pair in error. -/
theorem witness_HostCountersAndMessages :
    (∀ v ∈ [(0 : BitVec 24), 1], FrameTaken (countDev v) 7 1 (frame false 63 1 (signalBody 0 0xFFFFFF))) ∧
    (∀ a ∈ [7, 8], FrameTaken (countDev 0) 7 1 (frame false 63 1 (signalBody 63 a))) ∧
    (let f := frame false 63 0 ([9, 63, 4, 1] ++ List.replicate 256 1)
     FrameTaken (countDev 0) 8 0 f ∧ taskMsgLayout f 2 = true) ∧
    ([countDev 0, countDev 1].all (fun s => stateOk s && s.host.msgs.isEmpty && decide ((s.qp 319).state = 1) && !s.slotBehind 63 [] &&
      decide (s.hostChannel countJob 9 = some 0) && decide (s.hostChannel countJob 8 = none) &&
      ((SMap.get SndChan.reset s.host.chans 9).credit 8 4 [0]).isSome && ((SMap.get SndChan.reset s.host.chans 9).credit 4 4 [0]).isNone) = true) ∧
    (let s := countDev 0
     let s := { s with host := { s.host with qps := [(16, { QueuePair.reset with state := 1 }), (319, { QueuePair.reset with state := 2, kept := [.cnp 319] })] } }
     let f := frame true 63 0 [63, 1, 2, 3, 4, 5, 6, 0]
     FrameTaken s 10 0 f ∧ rdLe f.body 0 1 = 63 ∧ rdLe f.body 7 1 = 0 ∧ (!s.hostGone 63 && stateOk s) = true) := by
  refine ⟨?_, ?_, ⟨taken_of (by decide +kernel), by decide +kernel⟩, by decide +kernel, taken_of (by decide +kernel), by decide, by decide, by decide +kernel⟩
  · intro v hv
    simp only [List.mem_cons, List.not_mem_nil, or_false] at hv
    rcases hv with rfl | rfl <;> exact taken_of (by decide +kernel)
  · intro a ha
    simp only [List.mem_cons, List.not_mem_nil, or_false] at ha
    rcases ha with rfl | rfl <;> exact taken_of (by decide +kernel)

/-- HostMemoryAccess: an access of the last bytes of the last region, and one of a byte too many. -/
theorem witness_HostMemoryAccess :
    let b : Job := { jobIn .running with regions := List.replicate 15 ⟨.hbm, 0, 0⟩ ++ [⟨.ddr, 4096, 64⟩] }
    let s := hostDev 1 running (some b)
    stateOk s = true ∧ s.host.link = true ∧ (s.qp 319).state = 1 ∧ s.job 63 = some b ∧ b.regions[15]? = some ⟨.ddr, 4096, 64⟩ ∧
      (BitVec.ofNat 32 (rkeyOf 63 15 b.admCount)).toNat = rkeyOf 63 15 b.admCount ∧ s.mem.bad = [] ∧ (60#64).toNat + [1, 2, 3, 4].length = 64 ∧
      64 < (60#64).toNat + [1, 2, 3, 4, 5].length ∧ field (0x3E000000 : BitVec 32) 31 24 ≠ 63 := by
  decide +kernel

/-- A device whose queue pair of job 63 is `q`, and whose host port has the lanes `l`. -/
def qpDev (q : QueuePair) (link : Bool) (l : BitVec 8) (bc : Nat) : State :=
  let s := hostDev 1 running (some (jobIn .running))
  { s with ready := true, beacon := bc, host := { s.host with link := link, lanes := l, qps := [(16, { QueuePair.reset with state := 2 }), (319, q)] } }

/-- QueuePairsAndLink: times at both sides of their limits, the last retry and the one before, ports of five and of four lanes. -/
theorem witness_QueuePairsAndLink :
    (let q : QueuePair := { QueuePair.reset with state := 1, cnpTick := some 0, rate := 0xF0000, retries := 6 }
     stateOk (qpDev q true 0xFF 5000) && stateOk (qpDev q true 0xFF 4999) && (qpDev q true 0xFF 5000).host.link && decide (q.cnpTick = some 0) &&
       decide (q.rate < 0x100000) && decide (q.retryTick + 6710887 ≤ 6710887) && decide (q.retries < 7) &&
       stateOk (qpDev { q with retries := 7 } true 0xFF (4 * 6710887))) = true ∧
    (let q : QueuePair := { QueuePair.reset with state := 2 }
     stateOk (qpDev q true 0xFF 100000000) && decide (((qpDev q true 0xFF 100000000).qp 16).state = 2) &&
       (((qpDev q true 0xFF 100000000).job 63).map (fun b => decide (b.state = .running))).getD false && decide (((qpDev q true 0xFF 0).qp 319).errTick = 0)) = true ∧
    ([((0xE0 : BitVec 8), 3), (0xF0, 4), (0xF8, 5)].all (fun x => let s := qpDev { QueuePair.reset with psn := 1 } false x.1 9
      stateOk s && decide (s.host.healthy = x.2) && s.host.lanes.getLsbD 7 && !s.host.lanes.getLsbD 0 && s.ready && !s.host.link &&
      s.host.qps.all (fun q => q.2.kept.isEmpty))) = true := by
  decide +kernel

/-- A cell from device 9 to device `ddev`, with the CRC that it needs. -/
def cellTo (ddev : BitVec 12) (kind : BitVec 2) (lseq : BitVec 16) (data : List Byte) : Cell :=
  sealCell ⟨(data ++ List.replicate 64 0).take 64, 0x123456789, kind, lseq, 0, false, false, ddev, 9, 0, 0⟩

/-- A device of address 0x111 whose port 15 is `p`, `net` cycles of its network on. -/
def portDev (p : Port) (net : Nat) : State :=
  let s := dev running
  ({ s with
    recs := { s.recs with fabric := { s.recs.fabric with addr := 0x111, lead := [0x222, 0x333], ports := [(15, (true, 2, 3, 40))] } }
    ports := [(15, p)], fslots := [(cellKey 15 140, 2 + 4 * 5)], routes := [(7, 3 ^^^ 0x1F)]
    ftime := { s.ftime with valid := false } } : State).modRegion (portRegion 15) (fun r => { r with net := net })

/-- A port that is up on eight lanes. -/
def portUp : Port := { Port.reset with state := 2, lanes := 0xFF, nact := 8, position := 140, sendSeq := 0xFFFF, recvSeq := 0x1234 }

set_option maxRecDepth 20000 in
/-- CellsAreSent: a port whose position is taken and one whose position has come; a cell queued for the position, one to be sent again, none; a cell
that waits for its acknowledgement at both sides of the limit. -/
theorem witness_CellsAreSent :
    (let c := cellTo 7 0 0 []
     (portDev portUp 104).portPos 15 = none ∧ stateOk (portDev portUp 104) = true ∧
     (let s := portDev { portUp with outQ := [(0x800D, 105, c)] } 105
      stateOk s = true ∧ s.portPos 15 = some 140 ∧ 105 ≤ s.portNet 15 ∧ (s.port 15).holdIn = false ∧
        entryNames 15 (s.cellEntry 15 (140 % s.roundCells (s.port 15).nact.toNat)) 0x800D = true) ∧
     (let p := { portUp with replayDue := [(c.lseq, 136)], replayBuf := [(c, 3, 13)] }
      let s := portDev p 105
      stateOk s = true ∧ s.portPos 15 = some 140 ∧ (s.port 15) = p ∧ 140 ≤ 136 + (s.kint - 1 - 136 % s.kint)) ∧
     (let s := portDev { portUp with alignDue := true } 105
      stateOk s = true ∧ s.portPos 15 = some 140 ∧ (s.port 15).outQ = [] ∧ (s.port 15).replayDue = []) ∧
     (∀ n ∈ [147, 146], let s := portDev { portUp with replayBuf := [(c, 3, 13)] } n
      stateOk s = true ∧ (s.port 15).replayBuf = [(c, 3, 13)] ∧
        decide (3 + 2 * (SMap.get (false, 0, 0, 0) s.recs.fabric.ports 15).2.2.2.toNat + 64 ≤ s.portNet 15) = decide (n = 147))) := by
  decide +kernel

set_option maxRecDepth 20000 in
/-- CellsAreReceived: a cell of a bad CRC; the next in sequence to another device by a port, and to one without a route; one seen before; one behind
a gap of the least and of the greatest length; an alignment cell from a leader. -/
theorem witness_CellsAreReceived :
    (let s := portDev portUp 105
     let next := cellTo 7 0 0x1235 []
     (stateOk s && decide ((s.port 15).state = 2) && (s.port 15).ahead.isEmpty && (s.port 15).lost.isEmpty && !s.ftime.valid &&
       cellOk next && !cellOk { next with crc := next.crc + 1 } && decide (s.routePort 7 = 3) && !(s.port 3).discard &&
       decide (16 < s.routePort (cellTo 8 0 0x1235 []).ddev.toNat) && decide (s.leadRank 0x111 = none) &&
       [0x1234, 0x9234].all (fun l => decide (l = (s.port 15).recvSeq) || decide (0x8000 ≤ (l - (s.port 15).recvSeq).toNat)) &&
       [0x1236, 0x9233].all (fun l => decide (2 ≤ (l - (s.port 15).recvSeq).toNat) && decide ((l - (s.port 15).recvSeq).toNat < 0x8000)) &&
       [1, 0, 3, 2].all (fun k => cellOk (cellTo 7 k 0x1236 [])))) = true ∧
    (let c := cellTo 0 2 0 (List.replicate 23 0 ++ [13] ++ natLe 2 0x333)
     (cellOk c && decide (rdLe c.data 23 1 < 14) && decide ((portDev portUp 105).leadRank (BitVec.ofNat 12 (rdLe c.data 24 2)) = some 1)) = true) := by
  decide +kernel

/-- PortsTrain: a training port with the neighbour recorded and lanes of every class, with another neighbour, and with a latency one above DPLAT; ports
that lose a first lane, their spare, and one more; a degraded port; a port that is down, at both sides of the time of its discard. -/
theorem witness_PortsTrain :
    (let s := portDev { portUp with state := 1 } 105
     let r := SMap.get (false, 0, 0, 0) s.recs.fabric.ports 15
     stateOk s && decide (r = (true, 2, 3, 40)) && decide ((s.port 15).state = 1) && decide ((portDev portUp 105).port 15 = portUp) &&
       [((0x1FE : BitVec 9), 8), (0x00F, 4), (0x007, 3), (0x07F, 7)].all (fun x => popCount 9 x.1.toNat == x.2) && !decide ((1 : BitVec 12) = r.2.1) &&
       decide (r.2.2.2 < 41) && !decide (r.2.2.2 < 40)) = true ∧
    ([({ portUp with lanes := 0x1FF }, (7 : BitVec 4)), ({ portUp with lanes := 0x1FF }, 8), ({ portUp with lanes := 0x0FF, spared := true }, 0),
      ({ portUp with lanes := 0x0F0, degraded := true }, 7)].all (fun x => let s := portDev x.1 105
        stateOk s && decide ((s.port 15).state = 2) && !(s.port 15).heldDown && (s.port 15).lanes.getLsbD x.2.toNat) = true) ∧
    (let s := portDev { portUp with state := 3, lanes := 0x0F0 } 105
     stateOk s && decide ((s.port 15).lanes ≠ 0x1FF) && !(s.port 15).discard && decide (100000 * s.recs.portDown - 1 < 100000 * s.recs.portDown)) = true := by
  decide +kernel

/-! ### Power, boot and management -/

/-- A signed object with an empty payload: the first 224 bytes, and the object. -/
def signedHead (svn ver : Nat) : List Byte :=
  natLe 4 0x31474953 ++ natLe 1 0 ++ natLe 1 svn ++ natLe 2 1 ++ natLe 8 ver ++ natLe 8 0 ++ publicKeyOf 1 ++ [0, 0, 0] ++ natLe 64 (sha512 []).toNat
def signed : List Byte := signedHead 3 7 ++ ecdsaSign 1 1 (sha512 (signedHead 3 7)) ++ List.replicate 156 0

/-- Fuses that hold the hash of that key; a configuration memory with a directory and the object in slot A and in record copy A. -/
def keyFuses : Fuses := { Fuses.reset with life := 0, kset := 1, keyHash := [(0, sha512 (publicKeyOf 1))], cores := 2, serial := 5 }
def bootDir : Directory := ⟨false, 1, 0⟩
def bootNor : SMap Byte := norStore (norStore (norStore [] 0 bootDir.bytes) (slotArea false) signed) (recordArea false) signed

set_option maxRecDepth 20000 in
/-- That object is verified as firmware and as a record copy, and its record set is empty. -/
theorem signed_verifies : ((keyFuses.verify true slotLimit (signed ++ [])).isSome &&
    ((keyFuses.verify false recordLimit (signed ++ [])).bind (fun o => readRecordSet false o.payload)).isSome &&
    signed.length == 512 && rdLe signed 16 8 == 0 && rdLe bootDir.bytes 0 4 == 0x31524944 && bootDir.bytes.length == 80 &&
    rdLe bootDir.bytes 16 64 == (sha512 (bootDir.bytes.take 16)).toNat && SMap.wf 0 keyFuses.keyHash) = true := by
  decide +kernel

theorem bootNor_wf : SMap.wf 0xFF bootNor = true := wf_norStore _ _ (wf_norStore _ _ (wf_norStore _ _ rfl))

/-- What is read of that configuration memory. -/
theorem bootNor_reads : norBytes bootNor 0 80 = bootDir.bytes ∧ norBytes bootNor (slotArea false) 512 = signed ∧
    norBytes bootNor (recordArea false) 512 = signed ∧ (∀ a n, 80 ≤ a → a + n ≤ 0x100000 → norBytes bootNor a n = norBytes [] a n) ∧
    (∀ a n, 0x100200 ≤ a → a + n ≤ 0x2100000 → norBytes bootNor a n = norBytes [] a n) := by
  have h := signed_verifies
  simp only [Bool.and_eq_true, beq_iff_eq] at h
  obtain ⟨⟨⟨⟨-, hl⟩, -⟩, -⟩, hd⟩ := h.1.1
  have w1 : SMap.wf 0xFF (norStore [] 0 bootDir.bytes) = true := wf_norStore _ _ rfl
  have w2 := wf_norStore signed (slotArea false) w1
  have e1 : slotArea false = 0x100000 := rfl
  have e2 : recordArea false = 0x2100000 := rfl
  refine ⟨?_, ?_, ?_, ?_, ?_⟩
  · rw [bootNor, norBytes_norStore_apart _ _ _ _ w2 (by omega), norBytes_norStore_apart _ _ _ _ w1 (by omega),
      norBytes_norStore_same _ _ _ rfl (by omega), List.take_of_length_le (by omega)]
  · rw [bootNor, norBytes_norStore_apart _ _ _ _ w2 (by omega), norBytes_norStore_same _ _ _ w1 (by omega),
      List.take_of_length_le (by omega)]
  · rw [bootNor, norBytes_norStore_same _ _ _ w2 (by omega), List.take_of_length_le (by omega)]
  · intro a n h1 h2
    rw [bootNor, norBytes_norStore_apart _ _ _ _ w2 (by omega), norBytes_norStore_apart _ _ _ _ w1 (by omega),
      norBytes_norStore_apart _ _ _ _ rfl (by omega)]
  · intro a n h1 h2
    rw [bootNor, norBytes_norStore_apart _ _ _ _ w2 (by omega), norBytes_norStore_apart _ _ _ _ w1 (by omega),
      norBytes_norStore_apart _ _ _ _ rfl (by omega)]

/-- The directory of that memory is its copy 0. -/
theorem bootNor_directory : ∃ d, readDirectory bootNor = some d ∧ d.sel.getLsbD 0 = false ∧ d.sel.getLsbD 1 = false := by
  have h := signed_verifies
  simp only [Bool.and_eq_true, beq_iff_eq] at h
  obtain ⟨⟨⟨-, hm⟩, -⟩, hs⟩ := h.1
  obtain ⟨h1, -, -, h4, -⟩ := bootNor_reads
  have c0 : readCopy bootNor false = some ⟨false, BitVec.ofNat 32 (rdLe bootDir.bytes 4 4), byteAt bootDir.bytes 8⟩ := by
    simp only [readCopy, b2n, Nat.mul_zero, h1, Bool.false_eq_true, ite_false]
    exact if_pos ⟨hm, hs⟩
  have c1 : readCopy bootNor true = none := by
    simp only [readCopy, b2n, Nat.mul_one, ite_true]
    rw [h4 0x1000 80 (by omega) (by omega)]
    decide +kernel
  refine ⟨_, by rw [readDirectory, c0, c1], ?_, ?_⟩ <;> decide +kernel

/-- The firmware and the record copy of a device with those fuses. -/
theorem bootNor_objects (s : State) (hn : s.nor = bootNor) (hf : s.fuses = keyFuses) :
    (s.readObject true false).isSome = true ∧ (s.readRecordCopy false).isSome = true := by
  have h := signed_verifies
  simp only [Bool.and_eq_true, beq_iff_eq] at h
  obtain ⟨⟨⟨hv, hr⟩, -⟩, hl⟩ := h.1.1.1.1
  obtain ⟨-, h2, h3, -, -⟩ := bootNor_reads
  have e1 := readObject_empty (s := s) (fw := true) (copy := false) (by rw [hn]; exact h2) hl
  have e2 := readObject_empty (s := s) (fw := false) (copy := false) (by rw [hn]; exact h3) hl
  refine ⟨by rw [e1, hf]; exact hv, ?_⟩
  obtain ⟨r, hr⟩ := Option.isSome_iff_exists.mp hr
  obtain ⟨o, ho, hr⟩ := Option.bind_eq_some_iff.mp hr
  have hd : (keyFuses.life == 2) = false := rfl
  have e3 : s.readObject false false = some o := by rw [e2, hf]; exact ho
  rw [State.readRecordCopy, e3, hf, hd, Option.bind_some, hr]
  rfl

/-- A device out of reset that has not booted, with configuration memory `nor`. -/
def cold (nor : SMap Byte) : State :=
  { State.reset with nor := nor, beacon := 12345, fuses := keyFuses }

theorem cold_canonical (nor : SMap Byte) (h : SMap.wf 0xFF nor = true) : (cold nor).Canonical := by
  have hk := signed_verifies
  simp only [Bool.and_eq_true] at hk
  have hr : ({ State.reset with beacon := 12345 } : State).Canonical :=
    canonical_of (by decide +kernel)
  exact { hr with nor := h, fuses := ⟨rfl, rfl, rfl, hk.2, Nat.zero_le _, (by decide : (2 : Nat) ≤ 34)⟩ }

/-- BootsRunOrStop: a memory without a directory, one with a directory, firmware and records, and ones where firmware or records are missing. -/
theorem witness_BootsRunOrStop :
    ((cold []).Canonical ∧ (cold []).running = true ∧ (cold []).ready = false ∧ (cold []).mgt.bootStat = 0 ∧ readDirectory (cold []).nor = none) ∧
    ((cold bootNor).Canonical ∧ (∃ d, readDirectory (cold bootNor).nor = some d ∧ d.sel.getLsbD 0 = false ∧ d.sel.getLsbD 1 = false) ∧
      readCommand (cold bootNor).nor = none ∧ (cold bootNor).fuses.life ≠ 4 ∧ ((cold bootNor).readObject true false).isSome = true ∧
      ((cold bootNor).readRecordCopy false).isSome = true ∧ (cold bootNor).pins.warmBoot = false) := by
  refine ⟨⟨cold_canonical _ rfl, rfl, rfl, rfl, by decide +kernel⟩, cold_canonical _ bootNor_wf, bootNor_directory, ?_, by decide,
    (bootNor_objects _ rfl rfl).1, (bootNor_objects _ rfl rfl).2, rfl⟩
  show readCommand bootNor = none
  rw [readCommand, bootNor_reads.2.2.2.1 _ _ (by decide) (by decide)]
  decide +kernel


/-- A ready device in tick `b` whose region `r` is `g`. -/
def regionDev (r b : Nat) (g : Region) : State :=
  { dev running with beacon := b, ready := true, regions := [(r, g)], recs := { Records.reset with permit := 0x0F, allow := 100, ttrip := 90 } }

/-- A region that runs, with a temperature; and one stopped since tick 400 for the causes `c`. -/
def warm : Region := { Region.reset with temp := 77 }
def still (c : BitVec 5) : Region := { warm with cause := c, stopAt := some 4400 }

/-- ClockRegions: a region for every clause about one, each at a boundary of its condition. -/
theorem witness_ClockRegions :
    (let s := regionDev 71 500 warm
     stateOk s && s.running && !s.mgt.hold && s.recs.permit.getLsbD 3 && !s.recs.permit.getLsbD 4 && s.recs.scope == 0 && !s.pins.holdover &&
       !(s.region 71).changing && !(s.region 71).reached && (s.region 71).step != 3 && !(s.region 71).cause.getLsbD 1) = true ∧
    (let s : State := { regionDev 71 500 warm with mgt := { Mgt.reset with hold := true } }
     stateOk s && s.running && s.mgt.hold && (s.region 71).step != 3 && s.recs.permit.getLsbD 3 && !s.pins.holdover) = true ∧
    (let g : Region := { still 1 with changing := true, goal := 2, tgt := 2, stepFrom := 9350 }
     stateOk (regionDev 71 1000 g) && decide (g.stepFrom + 1650 ≤ 11 * (regionDev 71 1000 g).beacon) && stateOk (regionDev 71 999 g) &&
       decide (11 * (regionDev 71 999 g).beacon < g.stepFrom + 1650)) = true ∧
    (let g : Region := { still 2 with holdEnd := 11000 }
     stateOk (regionDev 66 1000 g) && g.cause.getLsbD 1 && decide (g.holdEnd ≤ (regionDev 66 1000 g).now11) && stateOk (regionDev 66 999 g) &&
       decide ((regionDev 66 999 g).now11 < g.holdEnd)) = true ∧
    ([still 2, still 1].all (fun g => let g := { g with heldFrom := some 0 }
      stateOk (regionDev 6 10000 g) && decide (100 * (regionDev 6 10000 g).recs.allow ≤ g.heldNow 10000) && g.budgetWin.isNone &&
        stateOk (regionDev 6 9999 g) && decide (g.heldNow 9999 < 100 * (regionDev 6 9999 g).recs.allow))) = true ∧
    ([({ still 0 with reached := true, step := 2, tgt := 2 } : Region), { still 0 with reached := true, step := 2, tgt := 1 }].all (fun g =>
      let s := regionDev 64 400 g
      stateOk s && g.cause == 0 && g.stopAt == some 4400 && decide (4400 ≤ s.now11) && s.recs.scope == 0 && g.timersHeld.isEmpty && !g.changing)) = true ∧
    ([0, 1, 100].all (fun i => let s := regionDev 5 (1000 + i) (still 4)
      stateOk s && s.running && s.beacon % 100 == i % 100 && s.beacon % 1000 == i)) = true ∧
    (let s : State := { State.reset with pins := { Pins.reset with holdover := true } }
     stateOk s = true ∧ s.running = true ∧ (∀ j, s.job j = none) ∧ ∀ r, (s.region r).tgt = (s.region r).step) :=
  ⟨by decide +kernel, by decide +kernel, by decide +kernel, by decide +kernel, by decide +kernel, by decide +kernel,
    by decide +kernel, by decide +kernel, rfl, fun _ => rfl, fun _ => rfl⟩

/-- PowerAndReset: a device that runs and one in reset, with memories that a reset empties and ones that it leaves. -/
theorem witness_PowerAndReset :
    [true, false].all (fun run => let s : State := { dev running with
        nor := [(3, 4)], mem := { State.reset.mem with ddr := [(5, 5)], hbm := [(4, 4)] }, mgt := { Mgt.reset with leaseValid := true, holder := true },
        ready := true, pins := { Pins.reset with inReset := !run }, recs := { Records.reset with plim := 2000 } }
      stateOk s && s.running == run && s.pins.inReset == !run && s.pins.powered && s.jobs.isEmpty && s.holds true && s.pins.overTick.isNone &&
        decide ((2000 : BitVec 16).toNat ≤ s.recs.plim) && decide (s.recs.plim < (2001 : BitVec 16).toNat)) = true := by
  decide +kernel

/-- A booted device whose configuration memory is `nor`, with a management plane. -/
def booted (nor : SMap Byte) (m : Mgt) (b : Nat) : State :=
  { cold nor with ready := true, pins := { Pins.reset with i3cAddr := some 9 }, mgt := m, beacon := b }

theorem booted_canonical {nor : SMap Byte} (h : SMap.wf 0xFF nor = true) (m : Mgt) (b : Nat) : (booted nor m b).Canonical := by
  exact { cold_canonical nor h with }

/-- Two healthy halves; the north half holds the lease. -/
def halves : Mgt :=
  { Mgt.reset with leaseValid := true, bootStat := 0x0A, north := { Half.reset with health := true, role := 2 }, south := { Half.reset with health := true } }

/-- The memory with the object in the spare slot, and that slot staged with it. -/
def spareNor : SMap Byte := norStore bootNor (slotArea true) signed

theorem spareNor_wf : SMap.wf 0xFF spareNor = true := wf_norStore _ _ bootNor_wf

/-- The object of the spare slot is verified. -/
theorem spareNor_object (s : State) (hn : s.nor = spareNor) (hf : s.fuses = keyFuses) : (s.readObject true true).isSome = true := by
  have h := signed_verifies
  simp only [Bool.and_eq_true, beq_iff_eq] at h
  obtain ⟨⟨⟨⟨hv, -⟩, hlen⟩, hl⟩, -⟩ := h.1.1.1
  have e : norBytes s.nor (slotArea true) 512 = signed := by
    rw [hn, spareNor, norBytes_norStore_same _ _ _ bootNor_wf (by omega), List.take_of_length_le (by omega)]
  rw [readObject_empty (fw := true) (copy := true) e hl, hf]
  exact hv

set_option maxRecDepth 20000 in
/-- StagingAndUpdates: an object that fails and one that is verified, and an update in its first and second half, in time and late. -/
theorem witness_StagingAndUpdates :
    (let s := booted bootNor halves 1000
     s.Canonical ∧ s.ready = true ∧ s.mgt.leaseValid = true ∧ s.pins.i3cFault = false ∧ s.pins.i3cAddr ≠ none ∧ s.pins.xspiFault = false ∧
       s.mgt.bootStat.getLsbD 8 = false ∧ s.mgt.bootStat.getLsbD 9 = false ∧ s.mgt.update = none ∧ s.mgt.north.health = true ∧
       s.mgt.south.health = true ∧ s.mgt.north.reload = false ∧ s.mgt.south.reload = false ∧ (∃ d, readDirectory s.nor = some d)) ∧
    (((booted [] halves 1000).stageSlot []).readObject true true = none ∧ ((booted [] halves 1000).stageSlot signed).nor = norStore [] (slotArea true) signed ∧
      ((booted [] halves 1000).stageSlot signed).fuses = keyFuses) ∧
    (∀ b ∈ [200000006, 200000007], ∀ u ∈ [(⟨false, 7, 7, false⟩ : Update), ⟨true, 7, 7, false⟩, ⟨true, 7, 7, true⟩],
      let s := booted spareNor { halves with update := some u } b
      s.Canonical ∧ s.mgt.update = some u ∧ s.adm.current = none ∧ (s.readObject true true).isSome = true ∧
        (u.since + 200000000 ≤ s.beacon ↔ b = 200000007)) := by
  refine ⟨⟨booted_canonical bootNor_wf _ _, rfl, rfl, rfl, by decide, rfl, by decide, by decide, rfl, rfl, rfl, rfl, rfl, ?_⟩, ⟨by decide +kernel, ?_, rfl⟩, ?_⟩
  · obtain ⟨d, h, -⟩ := bootNor_directory
    exact ⟨d, h⟩
  · have hp : (booted [] halves 1000).spareSlot = true := by decide
    have he : norErase (booted [] halves 1000).nor (slotArea true) 0x1000000 = [] := by rw [norErase]; rfl
    have h := signed_verifies
    simp only [Bool.and_eq_true, beq_iff_eq] at h
    have hl : signed.length ≤ 0x1000000 := by have := h.1.1.1.1.1.2; omega
    simp only [State.stageSlot, hp, he, List.take_of_length_le hl]
  · intro b hb u hu
    refine ⟨booted_canonical spareNor_wf _ _, rfl, rfl, spareNor_object _ rfl rfl, ?_⟩
    simp only [List.mem_cons, List.not_mem_nil, or_false] at hb hu
    rcases hb with rfl | rfl <;> rcases hu with rfl | rfl | rfl <;> simp [booted]

/-- HalvesLead: a lease in time and out of it, with both halves able to claim; a hold before and at its end, and without a leader. -/
theorem witness_HalvesLead :
    (let s := booted [] halves 50000
     s.Canonical ∧ s.ready = true ∧ s.adm.current = none ∧ s.adm.waiting = [] ∧ s.adm.loading = none ∧ s.host.heldFrames = [] ∧
       s.mgt.leaseValid = true ∧ s.mgt.holder = false ∧ s.mgt.renewed + 50000 ≤ s.beacon ∧ s.canClaim false = true ∧ s.canClaim true = true ∧
       (s.mgt.half true).beat + 20000 ≤ s.beacon ∧ s.mgt.update = none) ∧
    (let s := booted [] halves 49999
     s.Canonical ∧ s.beacon < s.mgt.renewed + 50000 ∧ s.beacon ≤ s.mgt.disputeFrom + 1000000) ∧
    (let m : Mgt := { halves with hold := true, leaseValid := false, holdFrom := 1000001 }
     let s := booted [] m 1100001
     s.Canonical ∧ s.mgt.hold = true ∧ s.mgt.holdFrom + 100000 ≤ s.beacon ∧ (s.mgt.half s.fuses.seniorSouth).health = true ∧
       (∀ r, (s.region r).tgt = (s.region r).step) ∧ s.mgt.told = false ∧ s.mgt.disputeFrom + 1000000 < s.beacon ∧
       (booted [] m 1100000).beacon < s.mgt.holdFrom + 100000 ∧ (s.mgt.north.posted && s.mgt.south.posted) = false) :=
  ⟨⟨booted_canonical rfl _ _, rfl, rfl, rfl, rfl, rfl, rfl, rfl, by decide, by decide, by decide, by decide, rfl⟩,
    ⟨booted_canonical rfl _ _, by decide, by decide⟩,
    ⟨booted_canonical rfl _ _, rfl, by decide, by decide, fun _ => rfl, rfl, by decide, by decide, rfl⟩⟩

/-! ### Attestation, units and registers -/

/-- A ready device whose MCTP connection is in state `st`, with three bytes of certificates. -/
def spdmDev (st : BitVec 2) (life : BitVec 3) : State :=
  { hostDev 1 running none with
    ready := true, nor := [(certArea, 3), (certArea + 1, 0), (certArea + 2, 0), (certArea + 3, 0), (certArea + 4, 1), (certArea + 5, 2), (certArea + 6, 3)]
    fuses := { Fuses.reset with cores := 2, life := life }, pins := { Pins.reset with i3cAddr := some 9 }
    mgt := { Mgt.reset with mctpCon := { state := st, vca := [1, 2], certs := [3], meas := [4] } } }

/-- A certificate chain whose leaf holds public key `key`. -/
def chainOfKey (key : List Byte) : List Byte :=
  List.replicate 68 0 ++ derEnc 0x30 (derEnc 0x30 ((List.replicate 5 [5, 0]).flatten ++ derEnc 0x30 (derEnc 0x30 [] ++ derEnc 3 (0 :: key))))

set_option maxRecDepth 20000 in
/-- RequestsAreAnswered: a connection in every state, requests of each code, algorithms offered or not, a certificate of this part's key and one of none. -/
theorem witness_RequestsAreAnswered :
    ([0, 1, 2].all (fun st => [0, 1].all (fun life => let s := spdmDev st life
      stateOk s && s.ready && !s.pins.i3cFault && s.pins.i3cAddr.isSome && !s.mgt.hold && s.mgt.mctpCon.state == st && s.fuses.life == life &&
        certificate s.nor == some [1, 2, 3] && !s.pins.xspiFault))) = true ∧
    (let offer (v : Nat) : List Byte := [0x13, 0xE3, 0, 0, 48, 0, 1, 0] ++ natLe 4 v ++ natLe 4 4
     rdLe (offer 0x100) 0 1 = 0x13 ∧ rdLe (offer 0x100) 1 1 = 0xE3 ∧ (rdLe (offer 0x100) 8 4).testBit 8 = true ∧
       (rdLe (offer 0x100) 12 4).testBit 2 = true ∧ (rdLe (offer 0xFF) 8 4).testBit 8 = false) ∧
    (let m : List Byte := [0x13, 0x82, 0, 0, 2, 0, 9, 0]
     rdLe m 1 1 = 0x82 ∧ rdLe m 2 1 = 0 ∧ rdLe m 4 2 < ([1, 2, 3] : List Byte).length) ∧
    (let m : List Byte := [0x13, 0xE0, 0, 0xFF]
     rdLe m 1 1 = 0xE0 ∧ rdLe m 3 1 = 0xFF ∧ (byteAt m 2).getLsbD 0 = false) ∧
    (let c := chainOfKey (spdmDev 2 1).publicKey
     (leafKey c == some (spdmDev 2 1).publicKey && !c.isEmpty && decide (c.length ≤ 65532) && leafKey [1, 2, 3] != some (spdmDev 2 1).publicKey) = true) ∧
    (rdLe [0x13, 0x33] 1 1 ∉ [0x81, 0x82, 0x83, 0x84, 0xE0, 0xE1, 0xE3, 0xED, 0xEE]) ∧
    (FrameTaken (spdmDev 0 0) 9 0 (frame true 0xFF 0 [0x10, 0x84, 0, 0]) ∧ rdLe (frame true 0xFF 0 [0x10, 0x84, 0, 0]).body 1 1 = 0x84) :=
  ⟨by decide +kernel, by decide, by decide, by decide, by decide +kernel, by decide, taken_of (by decide +kernel), by decide⟩

/-- SidebandAndTestPort: a target with and without an address, a faulted line in the tick before its retry and in that of it. -/
theorem witness_SidebandAndTestPort :
    ([none, some (9 : BitVec 7)].all (fun a => let s : State := { dev running with ready := true, pins := { Pins.reset with i3cAddr := a } }
      stateOk s && s.running && s.ready && !s.pins.i3cFault && s.pins.i3cAddr == a && !s.pins.xspiFault && !s.pins.alertFault && s.pins.powered &&
        !s.pins.tapReset)) = true ∧
    ([9999999, 10000000].all (fun b => let s : State := { dev running with beacon := b, pins := { Pins.reset with i3cFault := true, tapReset := true } }
      stateOk s && s.running && s.pins.i3cFault && s.pins.tapReset && decide (s.pins.i3cTick + 10000000 ≤ s.beacon) == decide (b = 10000000))) = true := by
  decide +kernel

/-- UnitsFail: a core that fails and a failed core, with a tested spare; a table out of service; a job at its bound and past it. -/
theorem witness_UnitsFail :
    (let s := dev { Table.reset with trick := 1 }
     stateOk s && s.running && s.logCore 0 1 == 1 && field (s.pcore 0 1) 1 0 == 0 && !s.outOfService 0 && (s.table 0).failed.isEmpty && (s.table 0).job.isNone) = true ∧
    (let s := ((dev { Table.reset with failed := [1] }).setTblStat 0 1).setPcore 0 33 1
     stateOk s && field (s.tblStat (s.logTable 0)) 1 0 == 1 && (s.table 0).failed == [1] && s.physCore 0 1 == some 1 &&
       (List.range 34).filter (fun x => field (s.pcore 0 x) 1 0 == 1) == (List.range 32).map (· + 2) && field (s.pcore 0 33) 1 0 != 0) = true ∧
    (stateOk ((dev running).setTblStat 0 2) && ((dev running).setTblStat 0 2).outOfService 0) = true ∧
    ([999, 998].all (fun n => let b := { jobIn .running with bound := n }
      let s := hostDev 1 running (some b)
      stateOk s && s.job 63 == some b && !b.violated && (s.qp 319).state == 1 && s.host.link && !s.recs.boundAbort &&
        decide (s.beacon ≤ b.stamp + b.bound + s.hostTime b + s.pausedTime b) == decide (n = 999))) = true := by
  decide +kernel

/-- RegistersByAddress, LaneMasks: a ready device, a table whose dealer runs or not or that is out of service, the last register of each kind, and
granules that hold no error. -/
theorem witness_RegistersByAddress :
    (let s : State := { dev running with ready := true, mem := { State.reset.mem with population := [0, 15], msize := 2 ^ 42 } }
     stateOk s && s.ready && s.running && s.latch.isEmpty && !s.outOfService 0 && (s.table 0).run == 1 && (s.table 63).run != 1 &&
       !s.absent (.core 0) && !s.absent (.core (34 * 63 + 1)) && s.mem.bad.isEmpty &&
       [(0x13FFFFFFFFF, 0x3FFFFFFFFFF)].all (fun x => !s.mem.hbmGone x.1 && !s.mem.ddrGone x.2)) = true ∧
    (let s : State := { (dev running).setTblStat 0 2 with ready := true }
     stateOk s && s.ready && s.running && s.outOfService 0) = true := by
  decide +kernel

/-- HoldStateAdvances: a descriptor whose counts are the greatest that their fields hold, and a state at the end of every one. -/
theorem witness_HoldStateAdvances :
    let d : BitVec 256 := BitVec.ofNat 256 ((15 + 16 * 15) * 2 ^ 216)
    let st : Word := BitVec.ofNat 32 (31 + 2 ^ 5 * 14 + 2 ^ 9 * 14 + 2 ^ 13 * 4095)
    field d 235 224 = 0 ∧ field d 219 216 = 15 ∧ field d 223 220 = 15 ∧ field st 24 13 < 4096 ∧ field st 8 5 < 15 ∧ field st 12 9 < 15 ∧
      field st 4 0 = 31 ∧ field st 24 13 + 1 = 4096 ∧ field st 8 5 + 1 = 15 := by
  decide +kernel


/-- CanonicalNans: NaNs of two formats, and an overflow. -/
theorem witness_CanonicalNans : Fmt.f16.decode 0x7C01 = .nan ∧ Fmt.e5m2.decode 0xFF = .nan ∧
    (Fmt.e4m3.convert .rne false (Fmt.f32.decode 0x7F7FFFFF)).ovf = true := by decide +kernel

/-! ### Tests: every check of an operation's encoding refuses an ill-formed term -/

/-- Operations each of which breaks one rule: a predicate 0 that is written, a reserved mask, an odd register, a reserved format, an illegal pair
of formats, and so on. -/
def illFormedA : List Instr :=
  [.cmp hd 0 0 1 1, .cmpi hd 0 0 1 0, .plog hd 0 1 1 0, .mfr hd 1 0 2, .mfr hd 1 3 0, .mtr hd 1 0 0, .mtr hd 1 1 0, .vaddf hd 3 1 1 1,
   .vcmpf hd 0 1 1 1 6, .vtop hd 0 0 1, .vtop hd 3 1 1, .cvt hd 0 1 1 11 0 0 false false, .cvt hd 0 1 1 0 10 0 false false,
   .cvt hd 0 1 1 0 0 4 false false, .cvt hd 0 1 1 0 0 0 false true, .cvmx hd 1 2 3 2 0, .cvmx hd 1 2 3 9 0, .cvmx hd 1 2 1 3 0, .cvmx hd 1 2 3 3 4,
   .ard hd 1 0 0 5 0 false 0 0, .ard hd 1 0 0 0 5 false 0 0, .ard hd 1 0 0 0 4 false 0 1, .ard hd 1 0 0 0 0 false 1 0, .ard hd 1 0 0 0 0 false 0 2,
   .ardr hd 4 0 0, .gmx hd 0 1 1 0 1 2 1, .gmx hd 0 2 1 0 1 3 1, .gmx hd 3 2 1 0 1 2 1, .tkcfg hd true 0 false false, .tkcfg hd true 9 false false,
   .tkcfg hd false 17 false false, .tkrd hd true 0 3 3]

def illFormedB : List Instr :=
  [.mdot hd ⟨0, 0, 1, false, false, false, 0, 0, false, 0, false, false, false, 0⟩, .mdot hd ⟨0, 8, 3, false, false, false, 0, 0, false, 0, false, false, false, 0⟩,
   .mdot hd ⟨1, 9, 9, false, false, false, 0, 0, false, 0, false, false, false, 0⟩, .mdot hd ⟨5, 8, 9, false, false, false, 0, 0, false, 0, false, false, false, 0⟩,
   .mdot hd ⟨6, 0, 0, false, false, false, 0, 0, false, 0, false, false, false, 0⟩, .mdot hd ⟨0, 0, 0, false, true, true, 0, 0, false, 0, false, false, false, 0⟩,
   .mdot hd ⟨0, 0, 0, false, false, false, 0, 0, false, 3, false, false, false, 0⟩, .mdot hd ⟨0, 0, 0, false, false, false, 0, 0, false, 0, true, false, false, 0⟩,
   .mdot hd ⟨1, 3, 3, false, false, false, 0, 0, false, 0, false, true, false, 0⟩, .mdot hd ⟨0, 1, 1, false, false, false, 0, 0, false, 0, false, false, true, 0⟩,
   .mdot hd ⟨0, 0, 0, false, false, false, 0, 0, false, 0, false, false, false, 8⟩, .mdot hd ⟨0, 11, 11, false, false, false, 0, 0, false, 0, false, false, false, 0⟩,
   .mclr hd 3 0 0 1 0, .mclr hd 0 0 2 1 0, .mclr hd 0 0 1 1 3, .msetw hd 0 false 1, .mred hd 0 0 0 3 false 0, .mred hd 0 0 0 0 false 3, .minj hd 0 0 4 0,
   .minj hd 0 0 8 3]

def illFormedC : List Instr :=
  [.ctload hd 0 33 1 0, .ldv hd 1 6 0 1 0 0, .ldv hd 1 0 3 1 0 0, .ldv hd 1 0 0 1 1 0, .ldv hd 1 1 2 1 1 0, .stv hd 3 1 0 0 1 0 0, .gth hd 1 1 1 3 0,
   .gth hd 1 1 1 0 3, .qreq hd 0 1 0, .qrel hd 0 0, .setlc hd 0 true 32, .wait hd 1 0 1 0, .wait hd 0 0 0 0, .wait hd 2 64 1 0, .sig hd 3 0 1 0,
   .sig hd 1 0 0 0, .sig hd 2 64 1 0, .sig hd 0 0 1 1, .qwait hd 0 true 0, .hwin hd 0 0 1, .hwin hd 0 1 0]

/-- The operation is not well formed, and running it is refused. -/
def refusedIll (i : Instr) : Bool :=
  !i.wf && match exec i (dev running) with
    | .refused r => r == .illegalWord
    | _ => false

theorem test_illFormed : illFormedA.all refusedIll = true ∧ illFormedB.all refusedIll = true ∧ illFormedC.all refusedIll = true :=
  ⟨by decide +kernel, by decide +kernel, by decide +kernel⟩

/-- The neighbours of the refused fields are well formed. -/
def wellFormed : List Instr :=
  [.cmp hd 1 0 1 1, .mfr hd 1 0 0, .vcmpf hd 2 1 1 1 5, .cvt hd 0 1 1 10 0 3 false true, .cvmx hd 1 2 3 8 3, .ard hd 1 0 0 16 4 false 15 30,
    .ardr hd 8 0 0, .gmx hd 2 2 1 0 1 2 1, .tkcfg hd true 8 false false, .tkcfg hd false 16 false false,
    .mdot hd ⟨5, 9, 9, false, true, false, 0, 0, false, 0, false, false, false, 127⟩, .mdot hd ⟨0, 3, 6, false, false, true, 0, 0, false, 0, true, true, false, 63⟩,
    .mclr hd 2 0 1 1 2, .msetw hd 0 false 0, .minj hd 0 0 8 2, .ctload hd 0 32 1 0, .ldv hd 1 5 2 1 1 0, .setlc hd 0 true 31, .setlc hd 0 false 32,
    .wait hd 2 63 1 0, .sig hd 1 255 1 63]

theorem test_wellFormed : wellFormed.all Instr.wf = true := by decide +kernel

/-- No word of the table spells a command. -/
theorem test_no_table_word : decodeTableWord 128 0x1F = none ∧ (State.reset.withFetchWord 128 0x1F).pending = [] := by decide

/-! ### Tests: one step, with values from the specification's rules -/

/-- What an operation leaves owed to table 0. -/
def owedAfter (i : Instr) (s : State) : List (Nat × Eff) :=
  match exec i s with
  | .next t => t.owed 0
  | _ => []

/-- A device with one core whose scalar registers 1 and 2 hold `a` and `b`. -/
def two (a b : Word) : State := { dev running [(0, { Core.reset with sreg := [(1, a), (2, b)] })] with fuses := { Fuses.reset with cores := 1 } }

/-- R115, R116: ADD wraps, and its result is visible in the next cycle. -/
theorem test_add_wraps : owedAfter (.add hd 3 1 2) (two 0xFFFFFFFF 2) = [(1, .sreg 0 3 1)] := by decide +kernel

/-- R116: SAR repeats the sign. -/
theorem test_sar_keeps_sign : owedAfter (.sar hd 3 1 2) (two 0x80000000 31) = [(1, .sreg 0 3 0xFFFFFFFF)] := by decide +kernel

/-- R112: register 0 reads as zero whatever is written to it. -/
theorem test_s0_is_zero : ((dev running).applyEff 0 ⟨0, .sreg 0 0 7, 0, 0, 0, [], []⟩).sreg 0 0 = 0 := by decide +kernel

/-- R69, R81: the value 3 in binary32, and the tie between two values of binary16, which goes to the even one. -/
theorem test_round_to_nearest : (Fmt.f32.convert .rne false (.fin false 3 0)).bits = 0x40400000 ∧
    (Fmt.f16.convert .rne false (.fin false 4097 (-11))).bits = 0x4000 := by decide +kernel

/-- R71, R81: binary32 infinity converted to E4M3 without SAT is a NaN, and the greatest value with it. -/
theorem test_e4m3_overflow : (Fmt.e4m3.convert .rne false (Fmt.f32.decode 0x7F800000)).bits = 0x7F ∧
    (Fmt.e4m3.convert .rne true (Fmt.f32.decode 0xFF800000)).bits = 0xFE := by decide +kernel

/-- R324: the beacon counts from 0; an empty queue passes an eleventh of its tick. -/
theorem test_empty_queue : (match step State.reset with | .next t => t.sub == 1 && t.beacon == 0 | _ => false) = true := by decide +kernel

/-- R364: an event is recorded at the head, and the head moves on. -/
theorem test_event_log : (State.reset.raiseDev 0x4003 clsNote 5).log.head = 1 ∧ (State.reset.raiseDev 0x4003 clsNote 5).log.lost = 0 := by
  decide +kernel

end Sys2Proof.Tests
end

section
/-!
SUPPORT. Sparse maps: writes that change nothing, and bytes stored in parts.
-/
namespace Sys2Proof.SMap

variable {α : Type}

/-- Writing what is already there leaves a canonical map as it is. -/
theorem set_of_get [DecidableEq α] {d : α} {m : SMap α} (h : SMap.wf d m = true) {k : Nat} {v : α} (hv : SMap.get d m k = v) :
    SMap.set d m k v = m := by
  induction m with
  | nil => simp_all [SMap.get, SMap.set]
  | cons y m ih =>
    obtain ⟨j, w⟩ := y
    obtain ⟨hw, -, hm⟩ := wf_cons.1 h
    simp only [SMap.get] at hv
    simp only [SMap.set]
    split
    · next e => simp_all
    · next e =>
      split
      · next hl => simp_all
      · next hl => rw [ih hm (by simpa [e, hl] using hv)]

/-- Writing many times what is already there leaves a canonical map as it is. -/
theorem setAll_of_get [DecidableEq α] {d : α} {m : SMap α} (h : SMap.wf d m = true) (kvs : List (Nat × α))
    (hv : ∀ x ∈ kvs, SMap.get d m x.1 = x.2) : SMap.setAll d m kvs = m := by
  unfold SMap.setAll
  induction kvs with
  | nil => rfl
  | cons x kvs ih =>
    rw [List.foldl_cons, set_of_get h (hv x (by simp))]
    exact ih (fun y hy => hv y (List.mem_cons_of_mem _ hy))

/-- Bytes written under their numbered addresses are the bytes stored. -/
theorem setAll_zipIdx (m : SMap Byte) (a n : Nat) (bs : List Byte) :
    SMap.setAll 0 m ((bs.zipIdx n).map (fun b => (a + b.2, b.1))) = SMap.store m (a + n) bs := by
  induction bs generalizing m n with
  | nil => rfl
  | cons b bs ih => exact ih (SMap.set 0 m (a + n) b) (n + 1)

/-- Storing the first `k` bytes and then the rest stores them all. -/
theorem store_take_drop (m : SMap Byte) (a k : Nat) (bs : List Byte) :
    SMap.store (SMap.store m a (bs.take k)) (a + k) (bs.drop k) = SMap.store m a bs := by
  induction bs generalizing m a k with
  | nil => simp [SMap.store]
  | cons b bs ih =>
    cases k with
    | zero => rfl
    | succ k =>
      have := ih (SMap.set 0 m a b) (a + 1) k
      rwa [Nat.add_assoc, Nat.add_comm 1 k] at this

end Sys2Proof.SMap
end

section
/-!
SUPPORT. The block and offset of a register's physical address (R403), and the rules of a write and a read of a register by address
(R400, R401).
-/
namespace Sys2Proof.Machine

/-! ### Addresses -/

theorem blockOf_synReg {t off : Nat} (ht : t < 64) (ho : off < 0x1000) : blockOf (synReg t off) = some (.syn t, off) := by
  have hlo : ¬ coreBase 0 ≤ synReg t off := by simp only [coreBase, synReg, tblBase]; omega
  have hhi : tblBase 0 ≤ synReg t off := by simp only [synReg, tblBase]; omega
  have ho' : synReg t off - tblBase 0 = 0x100000 * t + (0x2000 + off) := by simp only [synReg, tblBase]; omega
  have hq : (0x100000 * t + (0x2000 + off)) / 0x100000 = t := by omega
  have hr : (0x100000 * t + (0x2000 + off)) % 0x100000 = 0x2000 + off := by omega
  have h2 : (0x2000 + off) / 0x1000 = 2 := by omega
  simp only [blockOf, hlo, hhi, ho', hq, hr, tableBlk, h2, if_true, if_false]
  rw [if_neg (by omega), Nat.add_sub_cancel_left]

theorem blockOf_portReg {q i : Nat} (hq : q < 16) (hi : i < 16) :
    blockOf (portReg q i) = some (.bxl (q / 8), 0x100 + 0x40 * (q % 8) + 4 * i) := by
  have hc : ¬ coreBase 0 ≤ portReg q i := by simp only [coreBase, portReg, bxlBase]; omega
  have ht : ¬ tblBase 0 ≤ portReg q i := by simp only [tblBase, portReg, bxlBase]; omega
  have hb : bxlBase 0 ≤ portReg q i := by simp only [portReg, bxlBase]; omega
  have ho : portReg q i - bxlBase 0 = 0x100000 * (q / 8) + (0x100 + 0x40 * (q % 8) + 4 * i) := by
    simp only [portReg, bxlBase]; omega
  have hd : (0x100000 * (q / 8) + (0x100 + 0x40 * (q % 8) + 4 * i)) / 0x100000 = q / 8 := by omega
  have hm : (0x100000 * (q / 8) + (0x100 + 0x40 * (q % 8) + 4 * i)) % 0x100000 = 0x100 + 0x40 * (q % 8) + 4 * i := by omega
  simp only [blockOf, hc, ht, hb, ho, hd, hm, if_true, if_false]
  rw [if_neg (by omega)]

/-- A core's registers lie at their offset in the core's range. -/
theorem coreReg_sub_coreBase (k off : Nat) : coreReg k off - coreBase 0 = 0x1000000 * (k / 34) + 0x40000 * (k % 34) + off := by
  simp only [coreReg, coreBase]; omega

theorem coreReg_offset {k off : Nat} (ho : off < 0x40000) : (coreReg k off - coreBase 0) % 0x40000 = off := by
  rw [coreReg_sub_coreBase]; omega

theorem blockOf_coreReg {k off : Nat} (hk : k < 2176) (ho : off < 0x20000) : blockOf (coreReg k off) = some (.core k, off) := by
  have hb : coreBase 0 ≤ coreReg k off := by simp only [coreReg, coreBase]; omega
  have ht : (0x1000000 * (k / 34) + 0x40000 * (k % 34) + off) / 0x1000000 = k / 34 := by omega
  have hc : (0x1000000 * (k / 34) + 0x40000 * (k % 34) + off) % 0x1000000 / 0x40000 = k % 34 := by omega
  have hr : (0x1000000 * (k / 34) + 0x40000 * (k % 34) + off) % 0x40000 = off := by omega
  simp only [blockOf, hb, coreReg_sub_coreBase, ht, hc, hr, ho, if_true, Nat.div_add_mod]
  rw [if_neg (by omega)]

/-! ### Writing and reading a register -/

/-- A write to the register at `off` of block `b` (R401). -/
theorem exec_registerWrite {s : State} {a off : Nat} {b : Blk} {v : BitVec 32} (hb : blockOf a = some (b, off)) (hr : s.ready = true)
    (ha : a < 2 ^ 52) (h4 : a % 4 = 0) :
    exec (.registerWrite (BitVec.ofNat 52 a) v) s = .next (if s.absent b then s.absentAccess a else s.writeBlock b off v) := by
  have hn : (BitVec.ofNat 52 a).toNat = a := Nat.mod_eq_of_lt ha
  change execRegisterWrite _ _ s = _
  simp [execRegisterWrite, hn, hb, hr, h4]

/-- What is absent is fixed by fuses (R401). -/
theorem State.absent_congr {s u : State} (h : u.fuses = s.fuses) (b : Blk) : u.absent b = s.absent b := by
  cases b <;> simp only [State.absent, State.outOfService, State.tblStat, State.logTable, State.physTable, State.pcore, h]

/-- A read of a register that is present and no latch, before any read latched it (R400). -/
theorem State.readWord_of_block {s : State} {a off : Nat} {b : Blk} (hb : blockOf a = some (b, off)) (h4 : a % 4 = 0)
    (habs : s.absent b = false) (hl : SMap.get none s.latch a = none) (hn : b.isLatch off = false) :
    s.readWord a = s.readBlock b off := by
  simp [State.readWord, hb, h4, habs, hl, hn]

/-- Element `i` of a group of registers. -/
theorem indexOf_at {base step n i : Nat} (hs : 0 < step) (hi : i < n) : indexOf (base + step * i) base step n = some i := by
  simp [indexOf, Nat.mul_div_cancel_left _ hs, hi]

theorem indexOf_zero {n m : Nat} (hn : n < m) : indexOf (4 * n) 0 4 m = some n := by
  simpa using indexOf_at (base := 0) (by decide : 0 < 4) hn

/-- An offset before a group of registers is none of them. -/
theorem indexOf_below {off base step n : Nat} (h : off < base) : indexOf off base step n = none := by
  simp [indexOf, Nat.not_le.2 h]

/-! ### Latching reads -/

theorem State.readWindow_latch (s : State) (l : SMap (Option Word)) (o n : Nat) :
    (({ s with latch := l } : State).readWindow o n).1 = (s.readWindow o n).1 := by
  have hc : ({ s with latch := l } : State).windowCore o = s.windowCore o := rfl
  unfold State.readWindow
  rw [hc]
  cases s.windowCore o <;> rfl

/-- A memory's bytes do not depend on what is latched. -/
theorem State.readUnit_latch (s : State) (l : SMap (Option Word)) (a n : Nat) :
    (({ s with latch := l } : State).readUnit a n).1 = (s.readUnit a n).1 := by
  simp only [State.readUnit, apply_ite Prod.fst, State.readWindow_latch]
  rfl

theorem State.readBlock_latch (s : State) (l : SMap (Option Word)) (b : Blk) (off : Nat) :
    ({ s with latch := l } : State).readBlock b off = s.readBlock b off := by
  cases b <;> rfl

theorem State.readWord_latch {s : State} {l : SMap (Option Word)} {a : Nat} (h : SMap.get none l a = SMap.get none s.latch a) :
    ({ s with latch := l } : State).readWord a = s.readWord a := by
  unfold State.readWord
  split
  · rw [State.readUnit_latch]
  · next b off _ =>
    have habs : ({ s with latch := l } : State).absent b = s.absent b := State.absent_congr rfl b
    simp only [habs, h, State.readBlock_latch]

end Sys2Proof.Machine
end

section
/-!
SUPPORT. Writes of single registers by address (R20, R180, R310, R402): the equation of each, and what the register then reads as.
-/
namespace Sys2Proof.Machine

/-- A table counter takes the low 24 bits of a write while no task runs on its table (R180). -/
theorem State.writeSyn_ctr {s : State} {t n : Nat} {v : Word} (hn : n < 256) :
    s.writeSyn t (4 * n) v = if (s.table t).run = 1 then s
      else s.modTable t (fun x => { x with ctr := SMap.set 0 x.ctr n (v.extractLsb' 0 24) }) := by
  simp only [State.writeSyn, indexOf_zero hn]

theorem State.readSyn_ctr {s : State} {t n : Nat} (hn : n < 256) :
    s.readSyn t (4 * n) = (SMap.get 0 (s.table t).ctr n).zeroExtend 32 := by
  simp only [State.readSyn, indexOf_zero hn]

/-- The retry count of a port takes what is written, with what the port counted in the same cycle on top (R402). -/
theorem State.writeBlock_retry {s : State} {q : Nat} {v : Word} :
    s.writeBlock (.bxl (q / 8)) (0x100 + 0x40 * (q % 8) + 4 * 3) v =
      s.modPort q (fun p => { p with retry := s.counted (portReg q 3) v }) := by
  have hi : indexOf (0x100 + 0x40 * (q % 8) + 4 * 3) 0x100 4 128 = some (16 * (q % 8) + 3) := by
    rw [show 0x100 + 0x40 * (q % 8) + 4 * 3 = 0x100 + 4 * (16 * (q % 8) + 3) by omega]
    exact indexOf_at (by decide) (by omega)
  have hq : 8 * (q / 8) + (16 * (q % 8) + 3) / 16 = q := by omega
  have h3 : (16 * (q % 8) + 3) % 16 = 3 := by omega
  simp only [State.writeBlock, hi, Option.elim_some, hq, h3]
  rfl

/-- Word `w` of hold descriptor `d` (R45). -/
theorem taskReg_hldDesc {d w : Nat} (hd : d < 4) (hw : w < 8) :
    taskReg 0 (BitVec.ofNat 12 (0x200 + 0x20 * d + 4 * w)) = some (.hldDesc d w) := by
  have hn : (BitVec.ofNat 12 (0x200 + 0x20 * d + 4 * w)).toNat = 0x200 + 0x20 * d + 4 * w := Nat.mod_eq_of_lt (by omega)
  have hd' : (0x200 + 0x20 * d + 4 * w - 0x200) / 0x20 = d := by omega
  have hw' : (0x200 + 0x20 * d + 4 * w) % 0x20 / 4 = w := by omega
  simp only [taskReg, hn, hd', hw']
  rw [if_neg (by omega), if_neg (by omega), if_neg (by omega), if_pos (by omega)]
  rfl

/-- A write to a hold descriptor clears its state when it is to the first 8 bytes (R46). -/
theorem State.taskRegWrite_hldDesc {s : State} {k d w : Nat} {v : Word} (hd : d < 4) (hw : w < 8) :
    s.taskRegWrite (coreReg k (0x200 + 0x20 * d + 4 * w)) v =
      if w < 2 then (s.setCsr (coreReg k (0x200 + 0x20 * d + 4 * w)) v).setCsr (coreReg k (0x280 + 4 * d)) 0
      else s.setCsr (coreReg k (0x200 + 0x20 * d + 4 * w)) v := by
  have ho : (coreReg k (0x200 + 0x20 * d + 4 * w) - coreBase 0) % 0x40000 = 0x200 + 0x20 * d + 4 * w := coreReg_offset (by omega)
  have hc : (0x200 ≤ 0x200 + 0x20 * d + 4 * w ∧ 0x200 + 0x20 * d + 4 * w < 0x280 ∧ (0x200 + 0x20 * d + 4 * w) % 0x20 < 8) ↔ w < 2 := by
    omega
  have ha : coreReg k (0x200 + 0x20 * d + 4 * w) - (0x200 + 0x20 * d + 4 * w) + 0x280 + 4 * ((0x200 + 0x20 * d + 4 * w - 0x200) / 0x20) =
      coreReg k (0x280 + 4 * d) := by
    simp only [coreReg]; omega
  simp only [State.taskRegWrite, ho, hc, ha]

theorem State.writeTaskReg_hldDesc (s : State) (k d w : Nat) (v : Word) :
    s.writeTaskReg k (.hldDesc d w) v = s.taskRegWrite (coreReg k (0x200 + 0x20 * d + 4 * w)) (v &&& taskRegMask (.hldDesc d w)) := by
  unfold State.writeTaskReg
  rw [if_neg (by simp [TaskReg.writable])]
  dsimp only
  rw [taskRegAddr]

theorem State.writeBlock_core {s : State} {k off : Nat} {v : Word} (h : off < 0x1000) :
    s.writeBlock (.core k) off v = (taskReg 0 (BitVec.ofNat 12 off)).elim s (s.writeTaskReg k · v) := if_neg (by omega)

theorem State.writeBlock_hldDesc {s : State} {k d w : Nat} {v : Word} (hd : d < 4) (hw : w < 8) :
    s.writeBlock (.core k) (0x200 + 0x20 * d + 4 * w) v =
      s.taskRegWrite (coreReg k (0x200 + 0x20 * d + 4 * w)) (v &&& taskRegMask (.hldDesc d w)) := by
  rw [State.writeBlock_core (by omega), taskReg_hldDesc hd hw, Option.elim_some, State.writeTaskReg_hldDesc]

/-- The registers of a core between its identity and its curve are those held by address. -/
theorem State.readCore_csr {s : State} {k off : Nat} (h0 : off ≠ 0) (h : off < 0x500) : s.readCore k off = s.csrAt (coreReg k off) := by
  simp only [State.readCore, h0, if_false, indexOf_below h, indexOf_below (lt_trans h (by decide : 0x500 < 0x800)),
    indexOf_below (lt_trans h (by decide : 0x500 < 0x10000))]

/-- A register after a write to a hold descriptor's word. -/
theorem State.csrAt_taskRegWrite_hldDesc {s : State} {k d w b : Nat} {v : Word} (hs : s.Canonical) (hd : d < 4) (hw : w < 8) :
    (s.taskRegWrite (coreReg k (0x200 + 0x20 * d + 4 * w)) v).csrAt b =
      if b = coreReg k (0x280 + 4 * d) ∧ w < 2 then 0 else if b = coreReg k (0x200 + 0x20 * d + 4 * w) then v else s.csrAt b := by
  rw [State.taskRegWrite_hldDesc hd hw]
  split
  · next h => rw [State.csrAt_setCsr (State.setCsr_ok hs.ok).csr_, State.csrAt_setCsr hs.csr]; simp [h]
  · next h => rw [State.csrAt_setCsr hs.csr]; simp [h]

end Sys2Proof.Machine
end

section
/-!
SUPPORT. Bytes of the external tiers written by physical address (R7, R225): where no granule holds an error they are stored, and
nothing else changes.
-/
namespace Sys2Proof.Machine

/-- The physical address at which a tier begins (R7). -/
def tierStart (tier : Tier) : Nat := match tier with | .hbm => 0 | .ddr => 0x100000000000

/-- The bytes of physical address space that a tier has (R7). -/
def tierSpan (tier : Tier) : Nat := match tier with | .hbm => hbmSize | .ddr => 0x40000000000

/-- The `n` bytes from address `a` of a tier lie in the tier, on memory that is there, in granules without an error. -/
def MemSys.CleanRange (m : MemSys) (tier : Tier) (a n : Nat) : Prop :=
  ∀ i < n, a + i < tierSpan tier ∧ m.gone tier (a + i) = false ∧ m.isBad tier ((a + i) / tierUnit tier) = false

/-- The bytes `bs` stored in a tier from address `a` on. -/
def MemSys.storeTier (m : MemSys) (tier : Tier) (a : Nat) (bs : List Byte) : MemSys := m.modTier tier (SMap.store · a bs)

theorem MemSys.storeTier_canonical {m : MemSys} (hm : m.Canonical) (tier : Tier) (a : Nat) (bs : List Byte) :
    (m.storeTier tier a bs).Canonical := by
  cases tier
  · exact { hm with hbm := SMap.wf_store bs a hm.hbm }
  · exact { hm with ddr := SMap.wf_store bs a hm.ddr }

/-- Storing bytes makes no memory come or go and no granule bad. -/
theorem MemSys.CleanRange.storeTier {m : MemSys} {tier : Tier} {a n b : Nat} {bs : List Byte} (h : m.CleanRange tier a n) :
    (m.storeTier tier b bs).CleanRange tier a n := by
  cases tier <;> exact h

theorem MemSys.storeTier_take_drop (m : MemSys) (tier : Tier) (a k : Nat) (bs : List Byte) :
    (m.storeTier tier a (bs.take k)).storeTier tier (a + k) (bs.drop k) = m.storeTier tier a bs := by
  cases tier <;> simp [MemSys.storeTier, MemSys.modTier, SMap.store_take_drop]

theorem MemSys.CleanRange.take {m : MemSys} {tier : Tier} {a : Nat} {bs : List Byte} (h : m.CleanRange tier a bs.length) (k : Nat) :
    m.CleanRange tier a (bs.take k).length := fun i hi => h i (by simp at hi; omega)

theorem MemSys.CleanRange.drop {m : MemSys} {tier : Tier} {a : Nat} {bs : List Byte} (h : m.CleanRange tier a bs.length) (k : Nat) :
    m.CleanRange tier (a + k) (bs.drop k).length := by
  intro i hi
  rw [Nat.add_assoc]
  exact h (k + i) (by simp at hi; omega)

/-- A granule that a range touches holds a byte of it. -/
theorem mem_unitsOf {u a n i : Nat} (h : i ∈ unitsOf u a n) : ∃ j < n, i = (a + j) / u := by
  obtain ⟨j, hj, rfl⟩ := List.mem_map.1 (List.mem_eraseDups.1 h)
  exact ⟨j, List.mem_range.1 hj, rfl⟩

/-- Marking good the granules that are good changes nothing. -/
theorem MemSys.markBad_false {m : MemSys} {tier : Tier} {us : List Nat} (hm : m.Canonical) (h : ∀ i ∈ us, m.isBad tier i = false) :
    m.markBad tier us false = m := by
  have hb : SMap.setAll false m.bad (us.map (fun i => (badKey tier i, false))) = m.bad := by
    refine SMap.setAll_of_get hm.bad _ fun x hx => ?_
    obtain ⟨i, hi, rfl⟩ := List.mem_map.1 hx
    exact h i hi
  simp only [MemSys.markBad, hb]

/-- A write to granules without an error stores its bytes (R225). -/
theorem MemSys.putTier_clean {m : MemSys} {tier : Tier} {a : Nat} {bs : List Byte} (hm : m.Canonical)
    (h : m.CleanRange tier a bs.length) : m.putTier tier a bs = (m.storeTier tier a bs, none) := by
  have hu : ∀ i ∈ unitsOf (tierUnit tier) a bs.length, m.isBad tier i = false := by
    intro i hi
    obtain ⟨j, hj, rfl⟩ := mem_unitsOf hi
    obtain ⟨-, -, hgood⟩ := h j hj
    exact hgood
  have hnone : (narrowUnits tier a bs.length).filter (m.isBad tier) = [] :=
    List.filter_eq_nil_iff.2 fun i hi => by simp [hu i (List.mem_of_mem_filter hi)]
  have hcells : ∀ f : SMap Byte, SMap.setAll 0 f (bs.zipIdx.map (fun b => (a + b.2, b.1))) = SMap.store f a bs :=
    fun f => SMap.setAll_zipIdx f a 0 bs
  have hstore := MemSys.storeTier_canonical hm tier a bs
  have hkeep : ∀ i, (m.storeTier tier a bs).isBad tier i = m.isBad tier i := by cases tier <;> exact fun _ => rfl
  simp only [MemSys.putTier, hnone, List.contains_nil, Bool.not_false, List.filter_true, hcells, List.head?_nil]
  exact congrArg (·, none) (MemSys.markBad_false hstore fun i hi => (hkeep i).trans (hu i (List.mem_of_mem_filter hi)))

/-- Firmware's bytes for a tier go to it (R7). -/
theorem State.writeUnit_tier {s : State} {tier : Tier} {a : Nat} {bs : List Byte} (ha : a < tierSpan tier)
    (hg : s.mem.gone tier a = false) : s.writeUnit (tierStart tier + a) bs = s.writeTierBytes tier a bs := by
  cases tier with
  | hbm =>
    simp only [tierSpan] at ha
    simp only [MemSys.gone] at hg
    simp [State.writeUnit, tierStart, ha, hg]
  | ddr =>
    simp only [tierSpan] at ha
    simp only [MemSys.gone] at hg
    have h1 : ¬ 0x100000000000 + a < hbmSize := by simp only [hbmSize]; omega
    have h2 : 0x100000000000 + a < 0x140000000000 := by omega
    simp [State.writeUnit, tierStart, h1, h2, hg]

theorem State.writeTierBytes_clean {s : State} {tier : Tier} {a : Nat} {bs : List Byte} (hm : s.mem.Canonical)
    (h : s.mem.CleanRange tier a bs.length) : s.writeTierBytes tier a bs = { s with mem := s.mem.storeTier tier a bs } := by
  simp [State.writeTierBytes, MemSys.putTier_clean hm h]

/-- Bytes written unit by unit to a clean range of a tier are stored, and nothing else changes. -/
theorem State.writeUnits_clean {s : State} {tier : Tier} {a fuel : Nat} {bs : List Byte} (hm : s.mem.Canonical)
    (hf : bs.length ≤ fuel) (h : s.mem.CleanRange tier a bs.length) :
    s.writeUnits fuel (tierStart tier + a) bs = { s with mem := s.mem.storeTier tier a bs } := by
  induction fuel generalizing s a bs with
  | zero =>
    obtain rfl : bs = [] := List.length_eq_zero_iff.1 (Nat.le_zero.1 hf)
    cases tier <;> rfl
  | succ fuel ih =>
    rcases eq_or_ne bs [] with rfl | hne
    · cases tier <;> rfl
    · obtain ⟨hin, hgone, -⟩ : a < tierSpan tier ∧ s.mem.gone tier a = false ∧ _ := h 0 (List.length_pos_iff.2 hne)
      generalize hk : 64 - (tierStart tier + a) % 64 = k
      have hpos : 0 < k := by omega
      have hstep : s.writeUnit (tierStart tier + a) (bs.take k) = { s with mem := s.mem.storeTier tier a (bs.take k) } := by
        rw [State.writeUnit_tier hin hgone, State.writeTierBytes_clean hm (h.take k)]
      have hrest := ih (s := { s with mem := s.mem.storeTier tier a (bs.take k) }) (a := a + k) (bs := bs.drop k)
        (MemSys.storeTier_canonical hm tier a _) (by simp; omega) (h.drop k).storeTier
      simp only [State.writeUnits, List.isEmpty_iff, hne, if_false, hk, hstep, Nat.add_assoc, hrest, MemSys.storeTier_take_drop]

/-- PHYSICAL_ADDRESS_WRITE of a ready device to a clean range of a tier (R7, R225). -/
theorem exec_physicalAddressWrite_clean {s : State} {tier : Tier} {a : Nat} {data : List Byte} (hs : s.Canonical)
    (hr : s.ready = true) (ha : tierStart tier + a < 2 ^ 52) (h : s.mem.CleanRange tier a data.length) :
    exec (.physicalAddressWrite (BitVec.ofNat 52 (tierStart tier + a)) data) s =
      .next { s with mem := s.mem.storeTier tier a data } := by
  have hn : (BitVec.ofNat 52 (tierStart tier + a)).toNat = tierStart tier + a := Nat.mod_eq_of_lt ha
  change execPhysicalAddressWrite _ _ s = _
  simp only [execPhysicalAddressWrite, hr, if_true, hn, State.writeUnits_clean hs.mem le_rfl h]

/-- A tier's byte after a store. -/
theorem MemSys.get_storeTier {m : MemSys} (hm : m.Canonical) (tier : Tier) (a x : Nat) (bs : List Byte) :
    SMap.get 0 ((m.storeTier tier a bs).tierMem tier) x =
      if a ≤ x ∧ x < a + bs.length then bs.getD (x - a) 0 else SMap.get 0 (m.tierMem tier) x := by
  have hwf : SMap.wf 0 (m.tierMem tier) = true := by cases tier; exacts [hm.hbm, hm.ddr]
  have hst : (m.storeTier tier a bs).tierMem tier = SMap.store (m.tierMem tier) a bs := by cases tier <;> rfl
  rw [hst, SMap.get_store bs a x hwf, List.headD_eq_head?_getD, List.head?_drop, List.getD_eq_getElem?_getD]

end Sys2Proof.Machine
end

section
/-!
Registers and memories by physical address: the clauses of the statement, and the statement.
-/
namespace Sys2Proof.Machine

/-- A read of the low half of the beacon latches the upper half into BCN_HI, and nothing else (R400). -/
theorem exec_latchingRead_beacon {s : State} (hs : s.Canonical) (hrun : s.running = true) :
    ∃ u, exec (.latchingRead (BitVec.ofNat 52 bcnBase)) s = .next u ∧ { u with latch := s.latch } = s ∧
      u.readWord (bcnBase + 4) = BitVec.ofNat 32 (s.beacon / 2 ^ 32) ∧ ∀ b, b ≠ bcnBase + 4 → u.readWord b = s.readWord b := by
  have hn : (BitVec.ofNat 52 bcnBase).toNat = bcnBase := rfl
  have hb : blockOf bcnBase = some (.bcn, 0) := rfl
  have hb' : blockOf (bcnBase + 4) = some (.bcn, 4) := rfl
  have h4 : bcnBase % 4 = 0 := rfl
  have h4' : (bcnBase + 4) % 4 = 0 := rfl
  refine ⟨{ s with latch := SMap.set none s.latch (bcnBase + 4) (some (BitVec.ofNat 32 (s.beacon >>> 32))) }, ?_, rfl, ?_, ?_⟩
  · change execLatchingRead _ s = _
    simp [execLatchingRead, hn, hrun, h4, hb, State.absent, State.latched]
  · simp [State.readWord, hb', h4', State.absent, SMap.get_set_same hs.latch, Nat.shiftRight_eq_div_pow]
  · intro b hb
    exact State.readWord_latch ((SMap.get_set hs.latch _ _ _).trans (if_neg hb))

/-- A read of BCN_PON, which is the low half of nothing, changes nothing (R400). -/
theorem exec_latchingRead_pon {s : State} : exec (.latchingRead (BitVec.ofNat 52 (bcnBase + 8))) s = .next s := by
  have hn : (BitVec.ofNat 52 (bcnBase + 8)).toNat = bcnBase + 8 := rfl
  have hb : blockOf (bcnBase + 8) = some (.bcn, 8) := rfl
  change execLatchingRead _ s = _
  simp [execLatchingRead, hn, hb, State.absent, State.latched]

theorem zeroExtend_extractLsb'_24 (v : Word) : (v.extractLsb' 0 24).zeroExtend 32 = v &&& 0xFFFFFF := by
  have hlow : v.toNat &&& 0xFFFFFF = v.toNat % 2 ^ 24 := Nat.and_two_pow_sub_one_eq_mod v.toNat 24
  apply BitVec.eq_of_toNat_eq
  rw [BitVec.toNat_and, show (0xFFFFFF : Word).toNat = 0xFFFFFF from rfl, hlow]
  simpa using show v.toNat % 2 ^ 24 < 2 ^ 32 by omega

/-- A write to a hold descriptor changes only registers held by address. -/
theorem State.taskRegWrite_hldDesc_frame {s : State} {k d w : Nat} (v : Word) (hd : d < 4) (hw : w < 8) :
    { s.taskRegWrite (coreReg k (0x200 + 0x20 * d + 4 * w)) v with csr := s.csr } = s := by
  rw [State.taskRegWrite_hldDesc hd hw]
  split <;> rfl

/-- States alike but for the registers held by address have the same fuses and the same latched halves. -/
theorem State.fuses_latch_of_alikeButCsr {s u : State} (h : { u with csr := s.csr } = s) : u.fuses = s.fuses ∧ u.latch = s.latch :=
  ⟨(congrArg State.fuses h :), (congrArg State.latch h :)⟩

/-- A register's address is far below the end of the address space. -/
theorem synReg_lt {t off : Nat} (ht : t < 64) (ho : off < 0x1000) : synReg t off < 2 ^ 52 := by
  simp only [synReg, tblBase]; omega

theorem coreReg_lt {k off : Nat} (hk : k < 2176) (ho : off < 0x40000) : coreReg k off < 2 ^ 52 := by
  simp only [coreReg, coreBase]; omega

/-- A table counter holds what is written to it while no task runs on its table, and keeps its value while one does (R180). -/
theorem exec_registerWrite_counter {s : State} {t n : Nat} (v : Word) (hs : s.Canonical) (hr : s.ready = true) (ht : t < 64) (hn : n < 256)
    (ho : s.outOfService t = false) :
    ((s.table t).run ≠ 1 → SMap.get none s.latch (synReg t (4 * n)) = none →
      ∃ u, exec (.registerWrite (BitVec.ofNat 52 (synReg t (4 * n))) v) s = .next u ∧
        u.readWord (synReg t (4 * n)) = v &&& 0xFFFFFF ∧ { u with tables := s.tables } = s ∧ (∀ i, i ≠ t → u.table i = s.table i)) ∧
    ((s.table t).run = 1 → exec (.registerWrite (BitVec.ofNat 52 (synReg t (4 * n))) v) s = .next s) := by
  have hb : blockOf (synReg t (4 * n)) = some (.syn t, 4 * n) := blockOf_synReg ht (by omega)
  have h4 : synReg t (4 * n) % 4 = 0 := by simp only [synReg, tblBase]; omega
  have habs : s.absent (.syn t) = false := ho
  have hexec := exec_registerWrite (v := v) hb hr (synReg_lt ht (by omega)) h4
  rw [habs, if_neg Bool.false_ne_true, State.writeBlock, State.writeSyn_ctr hn] at hexec
  refine ⟨fun hrun hl => ?_, fun hrun => by rw [hexec, if_pos hrun]⟩
  rw [if_neg hrun] at hexec
  have htab := State.table_modTable hs.tables.1 t (f := fun x => { x with ctr := SMap.set 0 x.ctr n (v.extractLsb' 0 24) })
  refine ⟨_, hexec, ?_, rfl, fun i hi => by rw [htab, if_neg hi]⟩
  refine Eq.trans (State.readWord_of_block hb h4 habs hl rfl) ?_
  rw [State.readBlock, State.readSyn_ctr hn, htab, if_pos rfl]
  exact (congrArg (BitVec.zeroExtend 32) (SMap.get_set_same (hs.tables.2 t).ctr n _)).trans (zeroExtend_extractLsb'_24 v)

/-- A register of a table out of service is absent (R401). -/
theorem exec_registerWrite_outOfService {s : State} {t n : Nat} (v : Word) (hr : s.ready = true) (ht : t < 64) (hn : n < 1024)
    (ho : s.outOfService t = true) : exec (.registerWrite (BitVec.ofNat 52 (synReg t (4 * n))) v) s =
      .next (s.raise ⟨0x1040, clsNote, none, none, none, synReg t (4 * n) + 2 ^ 63⟩) := by
  have hlt : synReg t (4 * n) < 2 ^ 52 := synReg_lt ht (by omega)
  have h4 : synReg t (4 * n) % 4 = 0 := by simp only [synReg, tblBase]; omega
  have habs : s.absent (.syn t) = true := ho
  rw [exec_registerWrite (blockOf_synReg ht (by omega)) hr hlt h4, if_pos habs, State.absentAccess, Nat.mod_eq_of_lt hlt, State.raiseDev]

/-- The retry count of a port holds what is written, with what the port counted up in the same cycle on top (R310, R402). -/
theorem exec_registerWrite_retry {s : State} {q : Nat} (v : Word) (hs : s.Canonical) (hr : s.ready = true) (hq : q < 16) :
    ∃ u, exec (.registerWrite (BitVec.ofNat 52 (bxlBase (q / 8) + 0x100 + 0x40 * (q % 8) + 0xC)) v) s = .next u ∧
      u.port q = { s.port q with retry := BitVec.ofNat 32 (min 0xFFFFFFFF (v.toNat + s.marked (portReg q 3))) } ∧
      { u with ports := s.ports } = s ∧ ∀ i, i ≠ q → u.port i = s.port i := by
  have hlt : portReg q 3 < 2 ^ 52 := by simp only [portReg, bxlBase]; omega
  have h4 : portReg q 3 % 4 = 0 := by simp only [portReg, bxlBase]; omega
  have hexec := exec_registerWrite (v := v) (blockOf_portReg hq (by decide : 3 < 16)) hr hlt h4
  have habs : s.absent (.bxl (q / 8)) = false := rfl
  rw [habs, if_neg Bool.false_ne_true, State.writeBlock_retry] at hexec
  have hport := State.port_modPort hs.ports q (f := fun p => { p with retry := s.counted (portReg q 3) v })
  refine ⟨_, hexec, ?_, rfl, fun i hi => by rw [hport, if_neg hi]⟩
  rw [hport, if_pos rfl, State.counted, satAdd, min_comm]

/-- A word of a hold descriptor holds what is written but for its reserved bits; of the other registers only the descriptor's state may
change, on a write to the first 8 bytes (R45, R46). -/
theorem exec_registerWrite_hldDesc {s : State} {k d w : Nat} (v : Word) (hs : s.Canonical) (hr : s.ready = true) (hk : k < 2176)
    (hd : d < 4) (hw : w < 8) (habs : s.absent (.core k) = false)
    (hl : SMap.get none s.latch (coreReg k (0x200 + 0x20 * d + 4 * w)) = none) :
    ∃ u, exec (.registerWrite (BitVec.ofNat 52 (coreReg k (0x200 + 0x20 * d + 4 * w))) v) s = .next u ∧ { u with csr := s.csr } = s ∧
      u.readWord (coreReg k (0x200 + 0x20 * d + 4 * w)) = v &&& taskRegMask (.hldDesc d w) ∧
      ∀ b, b ≠ coreReg k (0x200 + 0x20 * d + 4 * w) → (b ≠ coreReg k (0x280 + 4 * d) ∨ 2 ≤ w) → u.csrAt b = s.csrAt b := by
  have hb : blockOf (coreReg k (0x200 + 0x20 * d + 4 * w)) = some (.core k, 0x200 + 0x20 * d + 4 * w) := blockOf_coreReg hk (by omega)
  have h4 : coreReg k (0x200 + 0x20 * d + 4 * w) % 4 = 0 := by simp only [coreReg, coreBase]; omega
  have hne : coreReg k (0x200 + 0x20 * d + 4 * w) ≠ coreReg k (0x280 + 4 * d) := by simp only [coreReg]; omega
  have hexec := exec_registerWrite (v := v) hb hr (coreReg_lt hk (by omega)) h4
  rw [habs, if_neg Bool.false_ne_true, State.writeBlock_hldDesc hd hw] at hexec
  have hframe := State.taskRegWrite_hldDesc_frame (s := s) (k := k) (v &&& taskRegMask (.hldDesc d w)) hd hw
  have hcsr := fun b => State.csrAt_taskRegWrite_hldDesc (k := k) (b := b) (v := v &&& taskRegMask (.hldDesc d w)) hs hd hw
  generalize s.taskRegWrite _ _ = u at hexec hframe hcsr
  obtain ⟨hfuses, hlatch⟩ := State.fuses_latch_of_alikeButCsr hframe
  have habs' : u.absent (.core k) = false := by rw [State.absent_congr hfuses, habs]
  refine ⟨u, hexec, hframe, ?_, fun b hb1 hb2 => ?_⟩
  · rw [State.readWord_of_block hb h4 habs' (by rw [hlatch, hl]) rfl, State.readBlock, State.readCore_csr (by omega) (by omega), hcsr,
      if_neg (fun h => hne h.1), if_pos rfl]
  · rw [hcsr, if_neg (fun h => hb2.elim (· h.1) (by omega)), if_neg hb1]

/-- Settles O56: each clause is one of the rules above; the bytes of a tier by `exec_physicalAddressWrite_clean`. -/
theorem registersByAddress : Obligations.RegistersByAddress := by
  intro s a v t q n data hs hr hrun ht hq
  refine ⟨?_, exec_latchingRead_beacon hs hrun, exec_latchingRead_pon, fun ho hn => exec_registerWrite_counter v hs hr ht hn ho,
    fun ho hn => exec_registerWrite_outOfService v hr ht hn ho, exec_registerWrite_retry v hs hr hq,
    fun k d w hk hd hw habs hl => exec_registerWrite_hldDesc v hs hr hk hd hw habs hl, fun ha hc => ?_, fun ha hc => ?_⟩
  · change execEvtTailWrite v s = _
    rw [execEvtTailWrite, if_pos hr]
  · have hclean : s.mem.CleanRange .hbm a data.length := fun i hi => ⟨by simp only [tierSpan, hbmSize]; omega, hc i hi⟩
    have hexec := exec_physicalAddressWrite_clean hs hr (by simp only [tierStart]; omega) hclean
    rw [tierStart, Nat.zero_add] at hexec
    exact ⟨_, hexec, rfl, rfl, fun x => MemSys.get_storeTier hs.mem .hbm a x data⟩
  · have hclean : s.mem.CleanRange .ddr a data.length := fun i hi => ⟨by simp only [tierSpan]; omega, hc i hi⟩
    exact ⟨_, exec_physicalAddressWrite_clean hs hr (by simp only [tierStart]; omega) hclean, rfl, rfl,
      fun x => MemSys.get_storeTier hs.mem .ddr a x data⟩

end Sys2Proof.Machine
end

section
/-!
The values at reset (R20, R133, R181, R208, R237, R266, R285, R310, R319, R324, R330, R364).
-/
namespace Sys2Proof.Machine

/-- Nothing is listed at reset, so that every part reads as its own reset value. -/
@[simp] theorem State.region_reset (r : Nat) : State.reset.region r = Region.reset := rfl
@[simp] theorem State.table_reset (t : Nat) : State.reset.table t = Table.reset := rfl
@[simp] theorem State.core_reset (k : Nat) : State.reset.core k = Core.reset := rfl
@[simp] theorem State.dmaCh_reset (k : Nat) : State.reset.dmaCh k = DmaChan.reset := rfl
@[simp] theorem State.qp_reset (n : Nat) : State.reset.qp n = QueuePair.reset := rfl
@[simp] theorem State.port_reset (q : Nat) : State.reset.port q = Port.reset := rfl
@[simp] theorem State.job_reset (j : Nat) : State.reset.job j = none := rfl
@[simp] theorem State.counter_reset (t n : Nat) : State.reset.counter t n = 0 := rfl
@[simp] theorem State.snd_reset (t n : Nat) : State.reset.snd t n = SndChan.reset := rfl

/-- Every scalar register reads as zero at reset (R112). -/
@[simp] theorem State.sreg_reset (k : Nat) (r : BitVec 5) : State.reset.sreg k r = 0 := by
  unfold State.sreg
  split <;> rfl

/-- Settles O60: every part of the state at reset is the reset value of its kind. -/
theorem resetValues : Obligations.ResetValues := by
  refine ⟨rfl, rfl, rfl, rfl, rfl, rfl, fun r _ => ?_, fun t _ => ?_, fun k => ?_, fun n => ?_, fun q => ?_, ?_, fun k n => ?_⟩
  · simp [Region.reset]
  · simp [Table.reset]
  · simp [DmaChan.reset]
  · simp [QueuePair.reset]
  · simp [Port.reset]
  · exact State.job_reset
  · exact State.sreg_reset k _

end Sys2Proof.Machine
end

section
/-!
SEND (R18, R124, R134, R195, R196): what its reading of the address register leaves alone, and the statement.
-/
namespace Sys2Proof.Machine

variable {cmds : List Instr}

/-! ### What an operation that only owes effects leaves alone -/

theorem State.OwesOnly.cores {s t : State} {n : Nat} (h : s.OwesOnly t n) : t.cores = s.cores :=
  (congrArg State.cores h.rest :)

theorem State.OwesOnly.fuses {s t : State} {n : Nat} (h : s.OwesOnly t n) : t.fuses = s.fuses :=
  (congrArg State.fuses h.rest :)

theorem State.OwesOnly.snd {s t : State} {n : Nat} (h : s.OwesOnly t n) (chn : Nat) : t.snd n chn = s.snd n chn :=
  congrArg (SMap.get SndChan.reset · chn) (congrArg Table.snd h.own :)

/-- Scalar registers read as before. -/
theorem State.OwesOnly.sreg {s t : State} {n : Nat} (h : s.OwesOnly t n) (k : Nat) (r : BitVec 5) : t.sreg k r = s.sreg k r := by
  simp only [State.sreg, State.core, h.cores]

/-- The far end of a channel is in service as before. -/
theorem State.OwesOnly.sendGone {s t : State} {n : Nat} (h : s.OwesOnly t n) (chn : Nat) : t.sendGone n chn = s.sendGone n chn := by
  simp only [State.sendGone, h.snd, State.outOfService, State.tblStat, State.logTable, State.physTable, h.fuses]

/-! ### SEND -/

/-- Nothing read, nothing noted. -/
@[simp] theorem State.noteReads_nil (s : State) (n slot : Nat) (pc : BitVec 17) : s.noteReads n slot pc [] = s := by
  simp [State.noteReads]

/-- SEND in the three cases: no acting core; the far table out of service; a message. -/
theorem execSend_of_issue {s s1 : State} {h : Hdr} (chn hidx : BitVec 6) (sa : BitVec 5) (off : BitVec 19) (f1 : BitVec 4)
    (hi : s.issue h slotT = .go s1) {u : State} (hu : u = s1.noteReads h.table slotT h.pc ((s1.actors h).map (fun x => locS x.2 sa))) :
    execSend h chn hidx sa off f1 s = .next (if (s1.actors h).isEmpty then u.addWait h .absent
      else if u.sendGone h.table chn.toNat then (u.absentUnit h.table slotT 6 1 (u.snd h.table chn.toNat).dlt h.pc).addWait h .absent
      else (((u.modSnd h.table chn.toNat (fun c => { c with seq := c.seq + 1 })).tryOpen h.table chn.toNat).modTable h.table (fun b =>
        { b with sends := b.sends ++ [{ chn := chn.toNat, seq := (u.snd h.table chn.toNat).seq.toNat, hidx := hidx.toNat, started := false,
                                        parts := [], signal := none, ready := 0, pc := h.pc }] })).addWait h
          (.credit chn.toNat hidx.toNat (u.snd h.table chn.toNat).seq.toNat (f1.toNat + 1)
            ((s1.actors h).map (fun x => (x.1, spdAddr ((u.sreg x.2 sa).toNat + off.toNat)))))) := by
  subst hu
  exact slotOp_go rfl hi

/-- Settles O25: before SEND does anything it notes its reads of the address register, which owes effects only, so that channel, far table
and addresses are those of the issue. -/
theorem messageSends : Obligations.MessageSends := by
  intro s s1 h chn hidx sa off f1 hs hi
  have howes := (State.noteReads_owes (State.issue_go_ok hs.ok hi) h.table slotT h.pc ((s1.actors h).map (fun x => locS x.2 sa))).1
  have hexec := execSend_of_issue chn hidx sa off f1 hi rfl
  simp only [howes.sendGone, howes.snd, howes.sreg] at hexec
  refine ⟨fun hnone => ?_, fun hact hgone => ⟨_, howes, ?_⟩, fun hact hgone => ⟨_, howes, ?_⟩⟩
  · change execSend h chn hidx sa off f1 s = _
    rw [hexec, hnone]
    simp
  · change execSend h chn hidx sa off f1 s = _
    rw [hexec, if_neg (by simpa using hact), if_pos hgone]
  · change execSend h chn hidx sa off f1 s = _
    rw [hexec, if_neg (by simpa using hact), if_neg (by simp [hgone])]
    rfl

end Sys2Proof.Machine
end

section
/-!
Tasks that begin and end (R27, R132, R249, R253, R275): what opening a job's channels and running a task's DMA channels do, and the statement.
-/
namespace Sys2Proof.SMap

/-- A value that is not the default is listed. -/
theorem mem_of_get_ne {α : Type} {d : α} {m : SMap α} {k : Nat} (h : SMap.get d m k ≠ d) : (k, SMap.get d m k) ∈ m := by
  induction m with
  | nil => exact absurd rfl h
  | cons y m ih =>
    obtain ⟨j, v⟩ := y
    simp only [SMap.get] at h ⊢
    split
    · next e => simp [e]
    · next e =>
      rw [if_neg e] at h
      split
      · next hl => rw [if_pos hl] at h; exact absurd rfl h
      · next hl => rw [if_neg hl] at h; exact List.mem_cons_of_mem _ (ih h)

end Sys2Proof.SMap

namespace Sys2Proof.Machine

variable {cmds : List Instr}

/-! ### Channels that open (R194) -/

/-- A channel with OPEN set. -/
def SndChan.opened (c : SndChan) : SndChan := { c with cfg := c.cfg ||| 0x1000000 }

@[simp] theorem SndChan.isOpen_opened (c : SndChan) : c.opened.isOpen = true := by
  simp [SndChan.isOpen, SndChan.opened]

theorem State.snd_modSnd {s : State} (hs : Ok cmds s) (t n u m : Nat) (f : SndChan → SndChan) :
    (s.modSnd t n f).snd u m = if u = t ∧ m = n then f (s.snd t n) else s.snd u m := by
  have htab := State.table_modTable hs.tables_.1 t u (fun b => { b with snd := SMap.modify SndChan.reset b.snd n f })
  simp only [State.modSnd, State.snd, htab]
  by_cases hu : u = t
  · subst hu
    simp only [if_true, true_and]
    exact SMap.get_set (hs.tables_.2 u).snd n m (f (s.snd u n))
  · simp [hu]

/-- The channels `l` of the tables opened. -/
def State.openAll (s : State) (l : List (Nat × Nat)) : State := l.foldl (fun acc x => acc.modSnd x.1 x.2 SndChan.opened) s

theorem State.openAll_ok {s : State} (hs : Ok cmds s) (l : List (Nat × Nat)) : Ok cmds (s.openAll l) :=
  ok_foldl hs fun _ _ h => State.modSnd_ok h

theorem State.openAll_frame (s : State) (l : List (Nat × Nat)) : { s.openAll l with tables := s.tables } = s :=
  foldl_keeps (P := fun u : State => { u with tables := s.tables } = s) rfl fun _ _ h => h

/-- Of the tables only send channels change. -/
theorem State.table_openAll {s : State} (hs : Ok cmds s) (l : List (Nat × Nat)) (n : Nat) :
    { (s.openAll l).table n with snd := (s.table n).snd } = s.table n := by
  refine (foldl_keeps (P := fun u => Ok cmds u ∧ { u.table n with snd := (s.table n).snd } = s.table n) ⟨hs, rfl⟩ ?_).2
  rintro u x ⟨hu, heq⟩
  refine ⟨State.modSnd_ok hu, ?_⟩
  rw [State.modSnd, State.table_modTable hu.tables_.1]
  split
  · next e => subst e; exact heq
  · exact heq

/-- Opening channels leaves an open one open. -/
theorem State.isOpen_openAll_of_isOpen {s : State} (hs : Ok cmds s) (l : List (Nat × Nat)) {t n : Nat} (h : (s.snd t n).isOpen = true) :
    ((s.openAll l).snd t n).isOpen = true := by
  refine (foldl_keeps (P := fun u => Ok cmds u ∧ (u.snd t n).isOpen = true) ⟨hs, h⟩ ?_).2
  rintro u x ⟨hu, hopen⟩
  refine ⟨State.modSnd_ok hu, ?_⟩
  rw [State.snd_modSnd hu]
  split
  · exact SndChan.isOpen_opened _
  · exact hopen

theorem State.isOpen_openAll {s : State} (hs : Ok cmds s) {l : List (Nat × Nat)} {x : Nat × Nat} (hx : x ∈ l) :
    ((s.openAll l).snd x.1 x.2).isOpen = true := by
  induction l generalizing s with
  | nil => cases hx
  | cons y l ih =>
    have hy : Ok cmds (s.modSnd y.1 y.2 SndChan.opened) := State.modSnd_ok hs
    rcases List.mem_cons.1 hx with rfl | hx
    · refine State.isOpen_openAll_of_isOpen hy l ?_
      rw [State.snd_modSnd hs, if_pos ⟨rfl, rfl⟩]
      exact SndChan.isOpen_opened _
    · exact ih hy hx

/-- Job `b` once its static channels are open. -/
def Job.released (b : Job) : Job := { b with opens := [], state := if b.state = .admitted then .running else b.state }

theorem State.openChannels_eq (s : State) (j : Nat) (b : Job) : s.openChannels j b = (s.openAll b.opens).modJob j Job.released := rfl

theorem State.openChannels_frame (s : State) (j : Nat) (b : Job) :
    { s.openChannels j b with tables := s.tables, jobs := s.jobs } = s :=
  (congrArg (fun u : State => { u with jobs := s.jobs }) (s.openAll_frame b.opens) :)

theorem State.job_openChannels {s : State} (hs : Ok cmds s) {j : Nat} {b : Job} (hb : s.job j = some b) :
    (s.openChannels j b).job j = some b.released := by
  have hjobs : (s.openAll b.opens).jobs = s.jobs := (congrArg State.jobs (s.openAll_frame b.opens) :)
  rw [State.openChannels_eq, State.job_modJob (State.openAll_ok hs _).jobs_, if_pos rfl, State.job, hjobs]
  exact congrArg (Option.map Job.released) hb

/-! ### DMA channels that run (R232, R235, R237) -/

/-- A channel that awaits a repetition: RUN is set and STOP is not. -/
def DmaChan.awaits (c : DmaChan) : Prop := c.ctl.getLsbD 10 = true ∧ c.ctl.getLsbD 11 = false

/-- A firing that counts as it is taken changes one channel, and never RUN or STOP. -/
theorem State.headEvent_cases (s : State) (blk ch : Nat) :
    s.headEvent blk ch = s ∨ ∃ f : DmaChan → DmaChan, (∀ c, (f c).ctl = c.ctl) ∧ s.headEvent blk ch = s.modDma (dmaKey blk ch) f := by
  dsimp only [State.headEvent]
  split
  · exact .inl rfl
  · split
    · unfold State.takeFiring
      split
      · exact .inr ⟨fun c => { c with evSeen := true }, fun _ => rfl, rfl⟩
      · exact .inr ⟨fun c => { c with miss := if c.miss = 0xFF then c.miss else c.miss + 1 }, fun _ => rfl, rfl⟩
    · exact .inl rfl

theorem State.headEvent_ctl {s : State} (hs : Ok cmds s) (blk ch k : Nat) : ((s.headEvent blk ch).dmaCh k).ctl = (s.dmaCh k).ctl := by
  obtain h | ⟨f, hf, h⟩ := s.headEvent_cases blk ch
  · rw [h]
  · rw [h, State.dmaCh_modDma hs.dma_]
    split
    · next e => rw [hf, e]
    · rfl

theorem State.headEvent_frame (s : State) (blk ch : Nat) : { s.headEvent blk ch with dma := s.dma } = s := by
  obtain h | ⟨f, -, h⟩ := s.headEvent_cases blk ch <;> rw [h]
  rfl

theorem State.runDma_frame (s : State) (k : Nat) : { s.runDma k with dma := s.dma } = s :=
  (congrArg (fun u : State => { u with dma := s.dma }) (State.headEvent_frame _ (k / 128) (k % 128)) :)

/-- RUN set and STOP cleared in the channel that runs; the other channels keep theirs. -/
theorem State.runDma_ctl {s : State} (hs : Ok cmds s) (i k : Nat) :
    ((s.runDma i).dmaCh k).ctl = if k = i then ((s.dmaCh i).ctl ||| 0x400) &&& 0xFFFFF7FF else (s.dmaCh k).ctl := by
  unfold State.runDma
  rw [State.headEvent_ctl (State.modDma_ok hs), State.dmaCh_modDma hs.dma_]
  split <;> rfl

theorem DmaChan.awaits_of_ctl {c d : DmaChan} (h : c.ctl = (d.ctl ||| 0x400) &&& 0xFFFFF7FF) : c.awaits := by
  constructor <;> simp [h]

theorem State.awaits_runDma_same {s : State} (hs : Ok cmds s) (k : Nat) : ((s.runDma k).dmaCh k).awaits :=
  DmaChan.awaits_of_ctl ((State.runDma_ctl hs k k).trans (if_pos rfl))

theorem State.awaits_runDma {s : State} (hs : Ok cmds s) (i : Nat) {k : Nat} (h : (s.dmaCh k).awaits) : ((s.runDma i).dmaCh k).awaits := by
  by_cases hk : k = i
  · subst hk; exact State.awaits_runDma_same hs k
  · have hctl := (State.runDma_ctl hs i k).trans (if_neg hk)
    rw [DmaChan.awaits, hctl]
    exact h

/-- Every channel of a list runs once each has been told to. -/
theorem State.awaits_foldl_runDma {s : State} (hs : Ok cmds s) {l : List (Nat × DmaChan)} {k : Nat}
    (h : (∃ c, (k, c) ∈ l) ∨ (s.dmaCh k).awaits) : ((l.foldl (fun acc kv => acc.runDma kv.1) s).dmaCh k).awaits := by
  induction l generalizing s with
  | nil => simpa using h
  | cons x l ih =>
    refine ih (State.runDma_ok hs) ?_
    rcases h with ⟨c, hc⟩ | h
    · rcases List.mem_cons.1 hc with rfl | hc
      · exact .inr (State.awaits_runDma_same hs k)
      · exact .inl ⟨c, hc⟩
    · exact .inr (State.awaits_runDma hs x.1 h)

theorem State.runHome_frame (s : State) (n : Nat) : { s.runHome n with dma := s.dma } = s := by
  unfold State.runHome
  refine foldl_keeps (P := fun u : State => { u with dma := s.dma } = s) rfl fun u x h => ?_
  exact (congrArg (fun v : State => { v with dma := s.dma }) (u.runDma_frame x.1)).trans h

theorem State.runHome_tables (s : State) (n : Nat) : (s.runHome n).tables = s.tables := (congrArg State.tables (s.runHome_frame n) :)

theorem State.runHome_jobs (s : State) (n : Nat) : (s.runHome n).jobs = s.jobs := (congrArg State.jobs (s.runHome_frame n) :)

/-- The channels whose home is the task of the table run. -/
theorem State.awaits_runHome {s : State} (hs : Ok cmds s) {n j k : Nat} (hj : (s.table n).job = some j) (hk : (s.dmaCh k).job = some j)
    (hhome : (s.dmaCh k).home = (s.table n).jobTable) : ((s.runHome n).dmaCh k).awaits := by
  have hmem : (k, s.dmaCh k) ∈ s.dma := SMap.mem_of_get_ne fun e => by
    have : (DmaChan.reset).job = some j := e ▸ hk
    cases this
  exact State.awaits_foldl_runDma hs (.inl ⟨s.dmaCh k, List.mem_filter.2 ⟨hmem, by simp [hj, hk, hhome]⟩⟩)

/-! ### The start of a task -/

/-- A table whose dealer begins or resumes. -/
def Table.running (b : Table) : Table := { b with run := 1, release := none, started := true }

/-- DMA channels and static channels of a task whose dealer begins: nothing but DMA channels, send channels and the job changes. -/
theorem State.startTask_spec {s : State} (hs : Ok cmds s) {n j : Nat} {b : Job} (hj : (s.table n).job = some j) (hb : s.job j = some b) :
    { (s.runHome n).openChannels j b with tables := s.tables, dma := s.dma, jobs := s.jobs } = s ∧
      (∀ m, { ((s.runHome n).openChannels j b).table m with snd := (s.table m).snd } = s.table m) ∧
      (∀ x ∈ b.opens, (((s.runHome n).openChannels j b).snd x.1 x.2).isOpen = true) ∧
      ((s.runHome n).openChannels j b).job j = some b.released ∧
      ∀ k, (s.dmaCh k).job = some j → (s.dmaCh k).home = (s.table n).jobTable → (((s.runHome n).openChannels j b).dmaCh k).awaits := by
  have hrun : Ok cmds (s.runHome n) := State.runHome_ok hs
  have hframe := s.runHome_frame n
  have htables := s.runHome_tables n
  have hjobs := s.runHome_jobs n
  have hopen := (s.runHome n).openChannels_frame j b
  refine ⟨?_, fun m => ?_, fun x hx => ?_, ?_, fun k hk hhome => ?_⟩
  · calc { (s.runHome n).openChannels j b with tables := s.tables, dma := s.dma, jobs := s.jobs }
      _ = { s.runHome n with tables := s.tables, dma := s.dma, jobs := s.jobs } :=
        (congrArg (fun u : State => { u with tables := s.tables, dma := s.dma, jobs := s.jobs }) hopen :)
      _ = s := by rw [← htables, ← hjobs]; exact hframe
  · have htab : (s.runHome n).table m = s.table m := by rw [State.table, htables]; rfl
    have := State.table_openAll hrun b.opens m
    rwa [htab] at this
  · exact State.isOpen_openAll hrun hx
  · exact State.job_openChannels hrun (by rw [State.job, hjobs]; exact hb)
  · have hdma : ((s.runHome n).openChannels j b).dma = (s.runHome n).dma := (congrArg State.dma hopen :)
    rw [State.dmaCh, hdma]
    exact State.awaits_runHome hs hj hk hhome

/-- TASK_RELEASE of a job's task that has not begun, at its tick or later (R249). -/
theorem execTaskRelease_due {s : State} {n j r : Nat} {b : Job} (hs : Ok cmds s) (hr : (s.table n).release = some r)
    (hj : (s.table n).job = some j) (hb : s.job j = some b) (hstop : s.stopped n = false) (hrun : (s.table n).run = 0) (hd : r ≤ s.beacon) :
    execTaskRelease n s = .next (((s.modTable n Table.running).runHome n).openChannels j b) := by
  have hjob : ((s.modTable n Table.running).runHome n).job j = some b := by rw [State.job, State.runHome_jobs]; exact hb
  have htab : (((s.modTable n Table.running).runHome n).table n).job = some j := by
    rw [State.table, State.runHome_tables, ← State.table, State.table_modTable hs.tables_.1, if_pos rfl]
    exact hj
  unfold execTaskRelease
  simp only [hr]
  rw [if_pos ⟨hrun, hd, by simp [hstop]⟩]
  change Host.Outcome.next (match (((s.modTable n Table.running).runHome n).table n).job with
    | none => _
    | some j => match ((s.modTable n Table.running).runHome n).job j with
      | none => _
      | some b => ((s.modTable n Table.running).runHome n).openChannels j b) = _
  simp only [htab, hjob]

/-- The sequencers of table `n` in the first cycle after a pause. -/
def State.enterSeqs (s : State) (n : Nat) : State := (s.seqs n).foldl (fun acc q => acc.modSeq n q (fun x => x.enter false)) s

theorem State.enterSeqs_ok {s : State} (hs : Ok cmds s) (n : Nat) : Ok cmds (s.enterSeqs n) :=
  ok_foldl hs fun _ _ h => State.modSeq_ok h

theorem State.modSeq_frame (s : State) (n : Nat) (q : Option Nat) (f : Seq → Seq) :
    { s.modSeq n q f with tables := s.tables, cores := s.cores } = s := by
  cases q <;> rfl

theorem State.table_modSeq {s : State} (hs : Ok cmds s) (n m : Nat) (q : Option Nat) (f : Seq → Seq) :
    { (s.modSeq n q f).table m with seq := (s.table m).seq } = s.table m := by
  cases q with
  | none =>
    simp only [State.modSeq, State.table_modTable hs.tables_.1]
    split
    · next e => rw [e]
    · rfl
  | some k => rfl

theorem State.enterSeqs_frame (s : State) (n : Nat) : { s.enterSeqs n with tables := s.tables, cores := s.cores } = s := by
  refine foldl_keeps (P := fun u : State => { u with tables := s.tables, cores := s.cores } = s) rfl fun u q h => ?_
  exact (congrArg (fun v : State => { v with tables := s.tables, cores := s.cores }) (u.modSeq_frame n q _)).trans h

/-- Of the tables only sequencers change. -/
theorem State.table_enterSeqs {s : State} (hs : Ok cmds s) (n m : Nat) :
    { (s.enterSeqs n).table m with seq := (s.table m).seq } = s.table m := by
  refine (foldl_keeps (P := fun u => Ok cmds u ∧ { u.table m with seq := (s.table m).seq } = s.table m) ⟨hs, rfl⟩ ?_).2
  rintro u q ⟨hu, heq⟩
  refine ⟨State.modSeq_ok hu, ?_⟩
  exact (congrArg (fun b : Table => { b with seq := (s.table m).seq }) (State.table_modSeq hu n m q _)).trans heq

/-- Outside Taper mode the table has one sequencer. -/
theorem State.enterSeqs_dealer {s : State} {n : Nat} (ht : (s.table n).taper = false) :
    s.enterSeqs n = s.modTable n (fun b => { b with seq := b.seq.enter false }) := by
  simp [State.enterSeqs, State.seqs, ht, State.modSeq]

/-- TASK_RESUME of a job's paused task, at its tick and phase or later (R253). -/
theorem execTaskResume_due {s : State} {n j r : Nat} {b : Job} (hs : Ok cmds s) (hr : (s.table n).release = some r)
    (hj : (s.table n).job = some j) (hb : s.job j = some b) (hstop : s.stopped n = false) (hrun : (s.table n).run = 2)
    (hd : 16 * r + (s.table n).phase ≤ est16 s.now11) :
    execTaskResume n s = .next ((((s.modTable n Table.running).enterSeqs n).runHome n).openChannels j b) := by
  have hok : Ok cmds (s.modTable n Table.running) := State.modTable_ok hs (fun _ h => h)
  generalize hu : (s.modTable n Table.running).enterSeqs n = u
  have henter := State.enterSeqs_frame (s.modTable n Table.running) n
  have hseq := State.table_enterSeqs hok n n
  rw [hu] at henter hseq
  have hjob : (u.runHome n).job j = some b := by
    rw [State.job, State.runHome_jobs]
    exact (congrArg (SMap.get none · j) (congrArg State.jobs henter :)).trans hb
  have htab : ((u.runHome n).table n).job = some j := by
    rw [State.table, State.runHome_tables]
    refine (congrArg Table.job hseq :).trans ?_
    rw [State.table_modTable hs.tables_.1, if_pos rfl]
    exact hj
  unfold execTaskResume
  simp only [hr]
  rw [if_pos ⟨hrun, hd, by simp [hstop]⟩]
  change Host.Outcome.next (match ((((s.modTable n Table.running).enterSeqs n).runHome n).table n).job with
    | none => _
    | some j => match (((s.modTable n Table.running).enterSeqs n).runHome n).job j with
      | none => _
      | some b => (((s.modTable n Table.running).enterSeqs n).runHome n).openChannels j b) = _
  simp only [hu, htab, hjob]

/-! ### The end of a task -/

/-- A job no receive channel of which is declared has no channel to close (R194). -/
theorem State.closeChannels_undeclared {s : State} (h : ∀ u, ∀ kv ∈ (s.table u).rcv, kv.2.rsize = 0) (j : Nat) (b : Job) :
    s.closeChannels j b = s := by
  have hnone : s.closing b = [] := by
    refine List.flatMap_eq_nil_iff.2 fun t _ => List.map_eq_nil_iff.2 (List.filter_eq_nil_iff.2 fun kv hkv => ?_)
    simp [h t kv hkv]
  simp [State.closeChannels, hnone]

/-- A table whose task has ended. -/
def Table.over (b : Table) : Table := { b with run := 3, hostHeld := 0 }

/-- A job with what the task of table `b` leaves for its completion record, its accumulator flags in `sum` (R275). -/
def Job.withTask (b : Table) (sum : BitVec 5) (x : Job) : Job := { x with
  tasks := SMap.set ⟨0, 0, 0⟩ x.tasks b.jobTable ⟨b.tcc, b.late, b.lateCc⟩
  summary := x.summary ||| sum, hostTicks := x.hostTicks + b.hostHeld }

/-- The end of a task of a job that neither pauses nor has discarded messages, and whose channels are not declared (R132, R275). -/
theorem State.endTask_eq {s : State} (hs : Ok cmds s) {n j : Nat} {b : Job} (hb : s.job j = some b) (hp : b.state ≠ .pausing)
    (hund : b.undelivered = 0) (hrcv : ∀ u, ∀ kv ∈ (s.table u).rcv, kv.2.rsize = 0) :
    s.endTask n j = (s.modTable n Table.over).modJob j (Job.withTask (s.table n) (s.summary n)) := by
  have hok : Ok cmds (s.modTable n Table.over) := State.modTable_ok hs (fun _ h => h)
  have hjob : ((s.modTable n Table.over).modJob j (Job.withTask (s.table n) (s.summary n))).job j =
      some (Job.withTask (s.table n) (s.summary n) b) := by
    rw [State.job_modJob hok.jobs_, if_pos rfl]
    exact congrArg (Option.map _) hb
  have hdecl : ∀ u, ∀ kv ∈ (((s.modTable n Table.over).modJob j (Job.withTask (s.table n) (s.summary n))).table u).rcv, kv.2.rsize = 0 := by
    intro u
    have htab : ((s.modTable n Table.over).table u).rcv = (s.table u).rcv := by
      rw [State.table_modTable hs.tables_.1]
      split
      · next e => rw [e]; rfl
      · rfl
    exact htab ▸ hrcv u
  generalize hu : (s.modTable n Table.over).modJob j (Job.withTask (s.table n) (s.summary n)) = u at hjob hdecl ⊢
  have hgoesOn : decide ((Job.withTask (s.table n) (s.summary n) b).state = .pausing) = false := decide_eq_false hp
  have hkept : (Job.withTask (s.table n) (s.summary n) b).undelivered = 0 := hund
  unfold Table.over Job.withTask at hu
  simp only [State.endTask, hu, hjob, Option.any_some, hgoesOn, Bool.false_eq_true, if_false, State.closeChannels_undeclared hdecl, hkept,
    Nat.lt_irrefl, and_false]

/-- TASK_END of a task that goes on (R132). -/
theorem execTaskEnd_goesOn {s : State} {n : Nat} (ho : s.taskOver n (s.cyc n) = false) : execTaskEnd n s = .next s := by
  simp [execTaskEnd, ho]

/-- TASK_END of a job's task that is over (R132). -/
theorem execTaskEnd_over {s : State} {n j : Nat} (hrun : (s.table n).run = 1) (hstop : s.stopped n = false)
    (hj : (s.table n).job = some j) (ho : s.taskOver n (s.cyc n) = true) : execTaskEnd n s = .next (s.endTask n j) := by
  simp [execTaskEnd, ho, hrun, hstop, hj]

/-- Settles O30: TASK_RELEASE and TASK_RESUME by `State.startTask_spec` from the state in which the dealer has begun; TASK_END by
`State.endTask_eq`. -/
theorem tasksBeginAndEnd : Obligations.TasksBeginAndEnd := by
  refine ⟨fun s n j r b hs hr hj hb hstop => ⟨fun hrun hd => ?_, fun hrun hd => ?_, fun hrun hd => ?_, fun hrun hd => ?_⟩,
    fun s n j b hs hrun hstop hj hb hp hund hrcv => ⟨fun ho => execTaskEnd_goesOn ho, fun ho => ?_⟩⟩
  · have hgo := State.table_modTable hs.tables.1 n n Table.running
    rw [if_pos rfl] at hgo
    have hok : Ok s.pending (s.modTable n Table.running) := State.modTable_ok hs.ok (fun _ h => h)
    obtain ⟨hframe, htab, hopen, hjob, hdma⟩ := State.startTask_spec hok (n := n) (by rw [hgo]; exact hj) (b := b) hb
    have hn := htab n
    rw [hgo] at hn
    refine ⟨_, execTaskRelease_due hs.ok hr hj hb hstop hrun hd, ?_, (congrArg Table.run hn :), (congrArg Table.release hn :),
      (congrArg Table.started hn :), (congrArg Table.seq hn :), hopen, hjob, fun k hk hhome => hdma k hk (by rw [hgo]; exact hhome)⟩
    exact (congrArg (fun u : State => { u with tables := s.tables }) hframe :)
  · generalize hu : (s.modTable n Table.running).enterSeqs n = u
    have hgo := State.table_modTable hs.tables.1 n n Table.running
    rw [if_pos rfl] at hgo
    have hok : Ok s.pending (s.modTable n Table.running) := State.modTable_ok hs.ok (fun _ h => h)
    have hseq := State.table_enterSeqs hok n n
    rw [hgo, hu] at hseq
    have henter := State.enterSeqs_frame (s.modTable n Table.running) n
    rw [hu] at henter
    have hjobs : u.jobs = s.jobs := (congrArg State.jobs henter :)
    have huj : (u.table n).job = some j := (congrArg Table.job hseq :).trans hj
    obtain ⟨hframe, htab, -, -, -⟩ := State.startTask_spec (hu ▸ State.enterSeqs_ok hok n) huj (b := b) (by rw [State.job, hjobs]; exact hb)
    have hn := htab n
    refine ⟨_, hu ▸ execTaskResume_due hs.ok hr hj hb hstop hrun hd, ?_, ?_, ?_, ?_, fun htaper => ?_⟩
    · refine (congrArg (fun v : State => { v with tables := s.tables, jobs := s.jobs, dma := s.dma, cores := s.cores }) hframe :).trans ?_
      exact (congrArg (fun v : State => { v with tables := s.tables, jobs := s.jobs, dma := s.dma }) henter :)
    · exact (congrArg Table.run hn :).trans (congrArg Table.run hseq :)
    · exact (congrArg Table.release hn :).trans (congrArg Table.release hseq :)
    · exact (congrArg Table.tcc hn :).trans (congrArg Table.tcc hseq :)
    · refine (congrArg Table.seq hn :).trans ?_
      rw [← hu, State.enterSeqs_dealer (by rw [hgo]; exact htaper), State.table_modTable hok.tables_.1, if_pos rfl, hgo]
      rfl
  · change execTaskRelease n s = _
    simp [execTaskRelease, hr, Nat.not_le.2 hd]
  · change execTaskResume n s = _
    simp [execTaskResume, hr, Nat.not_le.2 hd]
  · change execTaskEnd n s = _
    rw [execTaskEnd_over hrun hstop hj ho, State.endTask_eq hs.ok hb hp hund hrcv]
    rfl

end Sys2Proof.Machine
end

section
/-!
Units that fail (R34, R362, R366 to R370, R374): what the fused maps, FAULT and the containment of a table come to, and the statement.
-/
namespace Sys2Proof.Machine

variable {cmds : List Instr}

/-! ### The fused maps (R404) -/

theorem State.pcore_setPcore {s : State} (hs : Ok cmds s) (t c d : Nat) (v : Byte) :
    (s.setPcore t c v).pcore t d = if d = c then v else s.pcore t d := by
  have hkey : 34 * t + d = 34 * t + c ↔ d = c := by omega
  simp only [State.pcore, State.setPcore, SMap.get_set hs.pcore_, hkey]
  split
  · next e => subst e; exact (BitVec.xor_assoc v _ _).trans ((congrArg (v ^^^ ·) BitVec.xor_self).trans BitVec.xor_zero)
  · rfl

theorem State.tblStat_setTblStat {s : State} (hs : Ok cmds s) (n m : Nat) (v : BitVec 9) :
    (s.setTblStat n v).tblStat m = if m = n then v else s.tblStat m := by
  simp only [State.tblStat, State.setTblStat, SMap.get_set hs.tblStat_]
  split
  · next e => rw [BitVec.xor_assoc, BitVec.xor_self, BitVec.xor_zero]
  · rfl

/-- STATE and DLR of MGT_TBLn_STAT as the fields are packed. -/
theorem field_statWord (st spares repairs : Nat) (dlr : Bool) (hst : st < 4) :
    field (BitVec.ofNat 9 (packBits [(2, st), (3, spares), (3, repairs), (1, b2n dlr)])) 1 0 = st := by
  simp only [field, fieldN, packBits, BitVec.toNat_ofNat, Nat.shiftLeft_eq, Nat.shiftRight_zero]
  omega

theorem getLsbD_statWord (st spares repairs : Nat) :
    (BitVec.ofNat 9 (packBits [(2, st), (3, spares), (3, repairs), (1, b2n true)])).getLsbD 8 = true := by
  simp only [packBits, b2n, BitVec.getLsbD_ofNat, Nat.shiftLeft_eq, Nat.testBit, Nat.shiftRight_eq_div_pow]
  simp
  omega

/-- The table's status word as it is set, and every other table's as it was. -/
theorem State.tblStat_setStat {s : State} (hs : Ok cmds s) (t st spares repairs : Nat) (dlr : Bool) (n : Nat) :
    (s.setStat t st spares repairs dlr).tblStat n =
      if n = s.logTable t then BitVec.ofNat 9 (packBits [(2, st), (3, spares), (3, repairs), (1, b2n dlr)]) else s.tblStat n :=
  State.tblStat_setTblStat hs _ _ _

/-! ### FAULT (R314) -/

/-- Bringing a region's counts up to now changes that region alone, and not its causes. -/
theorem State.syncRegion_cases (s : State) (r : Nat) :
    s.syncRegion r = s ∨ ∃ f : Region → Region, (∀ g, (f g).cause = g.cause) ∧ s.syncRegion r = s.modRegion r f := by
  dsimp only [State.syncRegion]
  split
  · exact .inl rfl
  · refine .inr ⟨_, ?_, rfl⟩
    exact fun _ => rfl

/-- From `s` to `u` only region `r` changes, and its causes become `v`. -/
structure State.OnlyCause (cmds : List Instr) (s u : State) (r : Nat) (v : BitVec 5) : Prop where
  ok     : Ok cmds u
  rest   : { u with regions := s.regions } = s
  others : ∀ i, i ≠ r → u.region i = s.region i
  cause  : (u.region r).cause = v

theorem State.OnlyCause.refl {s : State} (hs : Ok cmds s) (r : Nat) : s.OnlyCause cmds s r (s.region r).cause :=
  ⟨hs, rfl, fun _ _ => rfl, rfl⟩

theorem State.OnlyCause.modRegion {s u : State} {r : Nat} {v w : BitVec 5} (h : s.OnlyCause cmds u r v) {f : Region → Region}
    (hf : ∀ g, RegionOk g → RegionOk (f g)) (hw : (f (u.region r)).cause = w) : s.OnlyCause cmds (u.modRegion r f) r w := by
  have hreg := fun i => State.region_modRegion h.ok.regions_.1 r i f
  refine ⟨State.modRegion_ok h.ok hf, h.rest, fun i hi => ?_, ?_⟩
  · rw [hreg, if_neg hi, h.others i hi]
  · rw [hreg, if_pos rfl, hw]

theorem State.OnlyCause.syncRegion {s u : State} {r : Nat} {v : BitVec 5} (h : s.OnlyCause cmds u r v) :
    s.OnlyCause cmds (u.syncRegion r) r v := by
  have hok := State.syncRegion_ok (r := r) h.ok
  obtain he | ⟨f, hf, he⟩ := u.syncRegion_cases r
  · rw [he]; exact h
  · have hreg := fun i => State.region_modRegion h.ok.regions_.1 r i f
    rw [he] at hok ⊢
    refine ⟨hok, h.rest, fun i hi => ?_, ?_⟩
    · rw [hreg, if_neg hi, h.others i hi]
    · rw [hreg, if_pos rfl, hf, h.cause]

theorem Region.countHeld_cause (g : Region) (now : Nat) (on : Bool) : (g.countHeld now on).cause = g.cause := rfl

/-- FAULT set: bit 4 of the causes of that region, and nothing else but its clock and its stop. -/
theorem State.setCause_fault {s : State} (hs : Ok cmds s) (r : Nat) :
    s.OnlyCause cmds (s.setCause r causeFault) r ((s.region r).cause ||| 0x10) := by
  have h0 := State.OnlyCause.refl hs r
  have hstop : s.OnlyCause cmds (if (s.region r).stopAt.isSome then s
      else (s.syncRegion r).modRegion r (fun g => { g with stopAt := some (s.cycleEnd r) })) r (s.region r).cause := by
    split
    · exact h0
    · exact h0.syncRegion.modRegion (fun _ hg => hg) h0.syncRegion.cause
  unfold State.setCause
  rw [if_neg (by simp)]
  refine hstop.modRegion (fun _ hg => Region.countHeld_ok hg) ?_
  rw [Region.countHeld_cause]
  exact congrArg (· ||| BitVec.ofNat 5 (1 <<< causeFault)) hstop.cause

/-- FAULT cleared. -/
theorem State.clearCause_fault {s : State} (hs : Ok cmds s) (r : Nat) :
    s.OnlyCause cmds (s.clearCause r causeFault) r ((s.region r).cause &&& 0x0F) := by
  unfold State.clearCause
  refine (State.OnlyCause.refl hs r).modRegion (fun g hg => ?_) ?_
  · dsimp only
    split <;> exact ⟨hg.step_, hg.tgt_, hg.goal_⟩
  · dsimp only
    split <;> rfl

/-! ### Containment (R366) -/

/-- From `s` to `u` table `t` has been contained: FAULT is set for its region, what was on its way to it is dropped, and no memory
loses a byte. -/
structure State.Contained (s u : State) (t : Nat) : Prop where
  rest   : { u with tables := s.tables, cores := s.cores, regions := s.regions, mem := s.mem } = s
  cause  : (u.region t).cause = (s.region t).cause ||| 0x10
  region : ∀ i, i ≠ t → u.region i = s.region i
  hbm    : u.mem.hbm = s.mem.hbm
  ddr    : u.mem.ddr = s.mem.ddr
  shelf  : u.mem.shelf = s.mem.shelf
  spd    : ∀ k, (u.core k).spd = (s.core k).spd
  own    : u.table t = { s.table t with landing := [] }
  others : ∀ i, i ≠ t → u.table i = s.table i

theorem State.Contained.fuses {s u : State} {t : Nat} (h : s.Contained u t) : u.fuses = s.fuses := (congrArg State.fuses h.rest :)

theorem State.Contained.log {s u : State} {t : Nat} (h : s.Contained u t) : u.log = s.log := (congrArg State.log h.rest :)

theorem State.Contained.tblStat {s u : State} {t : Nat} (h : s.Contained u t) (n : Nat) : u.tblStat n = s.tblStat n := by
  simp only [State.tblStat, h.fuses]

theorem State.Contained.logTable {s u : State} {t : Nat} (h : s.Contained u t) (n : Nat) : u.logTable n = s.logTable n := by
  simp only [State.logTable, State.physTable, h.fuses]

/-- The fills of cores dropped. -/
def State.dropFills (s : State) (l : List (Nat × Nat)) : State :=
  l.foldl (fun acc x => acc.modCore x.2 (fun c => { c with fills := [] })) s

theorem State.dropFills_frame (s : State) (l : List (Nat × Nat)) : { s.dropFills l with cores := s.cores } = s :=
  foldl_keeps (P := fun u : State => { u with cores := s.cores } = s) rfl fun _ _ h => h

theorem State.spd_dropFills {s : State} (hs : Ok cmds s) (l : List (Nat × Nat)) (k : Nat) : ((s.dropFills l).core k).spd = (s.core k).spd := by
  refine (foldl_keeps (P := fun u => Ok cmds u ∧ (u.core k).spd = (s.core k).spd) ⟨hs, rfl⟩ ?_).2
  rintro u x ⟨hu, hspd⟩
  refine ⟨State.modCore_ok hu (fun _ h => h), ?_⟩
  rw [State.core_modCore hu.cores_.1]
  split
  · next e => exact e ▸ hspd
  · exact hspd

theorem State.contain_contained {s : State} (hs : Ok cmds s) (t : Nat) : s.Contained (s.contain t) t := by
  have hcause := State.setCause_fault hs t
  generalize hu : s.setCause t causeFault = u at hcause
  have hdrop := u.dropFills_frame (u.tableCores t)
  have hspd := fun k => State.spd_dropFills hcause.ok (u.tableCores t) k
  generalize hv : u.dropFills (u.tableCores t) = v at hdrop hspd
  have hrest : { v with cores := s.cores, regions := s.regions } = s :=
    (congrArg (fun x : State => { x with cores := s.cores, regions := s.regions }) hdrop :).trans
      ((congrArg (fun x : State => { x with cores := s.cores }) hcause.rest :))
  have htables : v.tables = s.tables := (congrArg State.tables hrest :)
  have hmem : v.mem = s.mem := (congrArg State.mem hrest :)
  have hregion : ∀ i, v.region i = u.region i := fun i => congrArg (SMap.get Region.reset · i) (congrArg State.regions hdrop :)
  have hcores : ∀ k, u.core k = s.core k := fun k => congrArg (SMap.get Core.reset · k) (congrArg State.cores hcause.rest :)
  have heq : s.contain t = { v.modTable t (fun b => { b with landing := [] }) with
      mem := { v.mem with granules := v.mem.granules.filter (fun g => !g.bound t) } } := by rw [← hv, ← hu]; rfl
  have htable : ∀ i, (s.contain t).table i = if i = t then { s.table t with landing := [] } else s.table i := by
    intro i
    rw [heq]
    refine (State.table_modTable (s := v) (by rw [htables]; exact hs.tables_.1) t i (fun b => { b with landing := [] })).trans ?_
    simp only [State.table, htables]
  refine ⟨?_, ?_, fun i hi => ?_, ?_, ?_, ?_, fun k => ?_, ?_, fun i hi => ?_⟩
  · rw [heq]
    exact (congrArg (fun x : State => { x with tables := s.tables, mem := s.mem }) hrest :)
  · rw [← hcause.cause, ← hregion, heq]; rfl
  · rw [← hcause.others i hi, ← hregion, heq]; rfl
  · rw [← hmem, heq]
  · rw [← hmem, heq]
  · rw [← hmem, heq]
  · rw [← hcores, ← hspd, heq]; rfl
  · rw [htable, if_pos rfl]
  · rw [htable, if_neg hi]

end Sys2Proof.Machine
end

section
/-!
Cores, dealers and jobs that fail: the rules of each command, and the statement.
-/
namespace Sys2Proof.Machine

variable {cmds : List Instr}

/-! ### Cores and dealers that fail (R366 to R368) -/

/-- A table of which core `lc` has failed. -/
def Table.withFailed (lc : Nat) (b : Table) : Table := { b with failed := b.failed ++ [lc] }

/-- A table whose failed cores no longer count. -/
def Table.repaired (b : Table) : Table := { b with failed := [] }

/-- CORE_FAILED raised by a table that runs no job, and its core noted. -/
def State.coreLost (s : State) (t c : Nat) (chk : BitVec 2) : State :=
  (s.raise ⟨0x2001, clsContained, none, some t, some (s.logTable t), s.logCore t c + 2 ^ 6 * c + 2 ^ 12 * chk.toNat⟩).modTable t
    (Table.withFailed (s.logCore t c))

theorem State.coreLost_ok {s : State} (hs : Ok cmds s) (t c : Nat) (chk : BitVec 2) : Ok cmds (s.coreLost t c chk) :=
  State.modTable_ok (State.raise_ok hs) (fun _ h => h)

theorem State.table_coreLost {s : State} (hs : Ok cmds s) (t c : Nat) (chk : BitVec 2) (i : Nat) :
    (s.coreLost t c chk).table i = if i = t then Table.withFailed (s.logCore t c) (s.table t) else s.table i :=
  State.table_modTable (s := s.raise _) hs.tables_.1 t i _

/-- CORE_FAILED of a core in use, on a table in service that runs no job: it goes to repair (R366, R368). -/
theorem execCoreFailed_idle {s : State} (hs : Ok cmds s) {t c : Nat} (chk : BitVec 2) (ht : t < 64) (hc : c < 34)
    (hrun : s.running = true) (hcore : field (s.pcore t c) 1 0 = 0) (hserv : s.outOfService t = false)
    (hnew : s.logCore t c ∉ (s.table t).failed) (hjob : (s.table t).job = none) :
    execCoreFailed t c chk s = .next (((s.coreLost t c chk).setStat t 1 (field (s.tblStat (s.logTable t)) 4 2)
      (field (s.tblStat (s.logTable t)) 7 5) false).contain t) := by
  have hraise : s.raiseTable t 0x2001 clsContained (s.logCore t c + c <<< 6 + chk.toNat <<< 12) =
      s.raise ⟨0x2001, clsContained, none, some t, some (s.logTable t), s.logCore t c + 2 ^ 6 * c + 2 ^ 12 * chk.toNat⟩ := by
    rw [State.raiseTable, hjob, Nat.shiftLeft_eq, Nat.shiftLeft_eq, Nat.mul_comm c, Nat.mul_comm chk.toNat]
  have hlost : (s.raiseTable t 0x2001 clsContained (s.logCore t c + c <<< 6 + chk.toNat <<< 12)).modTable t
      (fun b => { b with failed := b.failed ++ [s.logCore t c] }) = s.coreLost t c chk := by rw [hraise]; rfl
  have hnone : ((s.coreLost t c chk).table t).job = none := by rw [State.table_coreLost hs, if_pos rfl]; exact hjob
  dsimp only [execCoreFailed]
  rw [if_neg (by simp [Nat.not_le.2 ht, Nat.not_le.2 hc, hrun, hcore, hserv, hnew]), hlost, hnone]
  rfl

/-- `u` with the parts of `s` that the failure of a unit may change. -/
def State.unitsAs (u s : State) : State :=
  { u with tables := s.tables, cores := s.cores, regions := s.regions, mem := s.mem, fuses := s.fuses, log := s.log }

theorem State.unitsAs_self (s : State) : s.unitsAs s = s := rfl

theorem State.unitsAs_modTable (u s : State) (t : Nat) (f : Table → Table) : (u.modTable t f).unitsAs s = u.unitsAs s := rfl

theorem State.unitsAs_setStat (u s : State) (t st spares repairs : Nat) (dlr : Bool) :
    (u.setStat t st spares repairs dlr).unitsAs s = u.unitsAs s := rfl

theorem State.unitsAs_log (u s : State) (l : EventLog) : ({ u with log := l } : State).unitsAs s = u.unitsAs s := rfl

theorem State.Contained.unitsAs {v u : State} {t : Nat} (h : v.Contained u t) (s : State) : u.unitsAs s = v.unitsAs s :=
  (congrArg (State.unitsAs · s) h.rest :)

/-- What CORE_FAILED changes on such a table, and what it leaves. -/
theorem exec_coreFailed_idle {s : State} (hs : Ok cmds s) {t c : Nat} (chk : BitVec 2) (ht : t < 64) (hc : c < 34)
    (hrun : s.running = true) (hcore : field (s.pcore t c) 1 0 = 0) (hserv : s.outOfService t = false)
    (hnew : s.logCore t c ∉ (s.table t).failed) (hjob : (s.table t).job = none) :
    ∃ u, exec (.coreFailed t c chk) s = .next u ∧
        { u with tables := s.tables, cores := s.cores, regions := s.regions, mem := s.mem, fuses := s.fuses, log := s.log } = s ∧
        (u.region t).cause = (s.region t).cause ||| 0x10 ∧ (∀ i, i ≠ t → u.region i = s.region i) ∧ u.mem.hbm = s.mem.hbm ∧
        u.mem.ddr = s.mem.ddr ∧ u.mem.shelf = s.mem.shelf ∧ (∀ k, (u.core k).spd = (s.core k).spd) ∧
        u.table t = { s.table t with failed := (s.table t).failed ++ [s.logCore t c], landing := [] } ∧ (∀ i, i ≠ t → u.table i = s.table i) ∧
        field (u.tblStat (s.logTable t)) 1 0 = 1 ∧ (∀ n, n ≠ s.logTable t → u.tblStat n = s.tblStat n) ∧
        u.log = s.log.raise s.now11 (s.evRecord ⟨0x2001, clsContained, none, some t, some (s.logTable t),
          s.logCore t c + 2 ^ 6 * c + 2 ^ 12 * chk.toNat⟩) := by
  have hlost := State.coreLost_ok hs t c chk
  have htab := State.table_coreLost hs t c chk
  have hlog : (s.coreLost t c chk).logTable t = s.logTable t := rfl
  have hstat := State.tblStat_setStat hlost t 1 (field (s.tblStat (s.logTable t)) 4 2) (field (s.tblStat (s.logTable t)) 7 5) false
  rw [hlog] at hstat
  have h := State.contain_contained (State.setStat_ok (t := t) (st := 1) (spares := field (s.tblStat (s.logTable t)) 4 2)
    (repairs := field (s.tblStat (s.logTable t)) 7 5) (dlr := false) hlost) t
  refine ⟨_, execCoreFailed_idle hs chk ht hc hrun hcore hserv hnew hjob, ?_, h.cause, h.region, h.hbm, h.ddr, h.shelf, h.spd, ?_, fun i hi => ?_,
    ?_, fun n hn => ?_, h.log⟩
  · exact (h.unitsAs s).trans (by rw [State.unitsAs_setStat, State.coreLost, State.unitsAs_modTable, State.raise, State.unitsAs_log,
      State.unitsAs_self])
  · exact h.own.trans (congrArg (fun b : Table => { b with landing := [] }) ((htab t).trans (if_pos rfl)))
  · exact (h.others i hi).trans ((htab i).trans (if_neg hi))
  · rw [h.tblStat, hstat, if_pos rfl]
    exact field_statWord 1 _ _ false (by decide)
  · rw [h.tblStat, hstat]
    exact if_neg hn

/-- A core in repair, or a spare, fails to no effect. -/
theorem execCoreFailed_unused {s : State} {t c : Nat} (chk : BitVec 2) (h : field (s.pcore t c) 1 0 ≠ 0) :
    execCoreFailed t c chk s = .next s := by
  simp [execCoreFailed, h]

/-- DLR_FAILED raised by a table that runs no job, in place of a core failure of the same cycle (R367, R368). -/
def State.dealerLost (s : State) (t : Nat) (chk : BitVec 2) : State :=
  { s with log := (s.log.unraise s.now11 (fun r => field r 15 0 == 0x2001 && field r 38 32 == t)).raise s.now11 (s.evRecord
    ⟨0x1001, clsTable, none, some t, some (s.logTable t), chk.toNat + 2 ^ 2 * (s.shownSeq t).pc.toNat⟩) }

theorem State.dealerLost_ok {s : State} (hs : Ok cmds s) (t : Nat) (chk : BitVec 2) : Ok cmds (s.dealerLost t chk) :=
  ok_log hs (EventLog.raise_recs _ _ (EventLog.unraise_recs hs.logRecs_))

/-- The same with the table marked as out of service. -/
def State.retiring (s : State) (t : Nat) (chk : BitVec 2) : State :=
  ((s.dealerLost t chk).setStat t 2 (field (s.tblStat (s.logTable t)) 4 2) (field (s.tblStat (s.logTable t)) 7 5) true).modTable t Table.repaired

theorem State.retiring_ok {s : State} (hs : Ok cmds s) (t : Nat) (chk : BitVec 2) : Ok cmds (s.retiring t chk) :=
  State.modTable_ok (State.setStat_ok (State.dealerLost_ok hs t chk)) (fun _ h => h)

theorem State.table_retiring {s : State} (hs : Ok cmds s) (t : Nat) (chk : BitVec 2) (i : Nat) :
    (s.retiring t chk).table i = if i = t then Table.repaired (s.table t) else s.table i :=
  State.table_modTable (s := (s.dealerLost t chk).setStat t 2 (field (s.tblStat (s.logTable t)) 4 2)
    (field (s.tblStat (s.logTable t)) 7 5) true) hs.tables_.1 t i _

theorem State.tblStat_retiring {s : State} (hs : Ok cmds s) (t : Nat) (chk : BitVec 2) :
    (s.retiring t chk).tblStat (s.logTable t) = BitVec.ofNat 9 (packBits [(2, 2), (3, field (s.tblStat (s.logTable t)) 4 2),
      (3, field (s.tblStat (s.logTable t)) 7 5), (1, b2n true)]) :=
  (State.tblStat_setStat (State.dealerLost_ok hs t chk) t 2 _ _ true (s.logTable t)).trans (if_pos rfl)

/-- DLR_FAILED of a table in service that runs no job: it goes out of service (R367). -/
theorem execDlrFailed_idle {s : State} {t : Nat} (chk : BitVec 2) (ht : t < 64) (hrun : s.running = true) (hserv : s.outOfService t = false)
    (hjob : (s.table t).job = none) : execDlrFailed t chk s = .next ((s.retiring t chk).contain t) := by
  have hraise : ∀ w : State, w = { s with log := s.log.unraise s.now11 (fun r => field r 15 0 == 0x2001 && field r 38 32 == t) } →
      w.raiseTable t 0x1001 clsTable (chk.toNat + (w.shownSeq t).pc.toNat <<< 2) = s.dealerLost t chk := by
    rintro w rfl
    rw [Nat.shiftLeft_eq, Nat.mul_comm _ (2 ^ 2), State.dealerLost, ← hjob]
    rfl
  have hnone : ((s.dealerLost t chk).table t).job = none := hjob
  unfold execDlrFailed
  rw [if_neg (by simp [Nat.not_le.2 ht, hrun, hserv])]
  dsimp only
  rw [hraise _ rfl]
  simp only [hnone]
  rfl

/-- What DLR_FAILED changes on such a table, and what it leaves. -/
theorem exec_dlrFailed_idle {s : State} (hs : Ok cmds s) {t : Nat} (chk : BitVec 2) (ht : t < 64) (hrun : s.running = true)
    (hserv : s.outOfService t = false) (hjob : (s.table t).job = none) :
    ∃ u, exec (.dlrFailed t chk) s = .next u ∧
      { u with tables := s.tables, cores := s.cores, regions := s.regions, mem := s.mem, fuses := s.fuses, log := s.log } = s ∧
      field (u.tblStat (s.logTable t)) 1 0 = 2 ∧ (u.tblStat (s.logTable t)).getLsbD 8 = true ∧ (u.region t).cause.getLsbD 4 = true ∧
      (u.table t).failed = [] ∧ (∀ i, i ≠ t → u.table i = s.table i) ∧
      u.log = (s.log.unraise s.now11 (fun r => field r 15 0 == 0x2001 && field r 38 32 == t)).raise s.now11 (s.evRecord
        ⟨0x1001, clsTable, none, some t, some (s.logTable t), chk.toNat + 2 ^ 2 * (s.shownSeq t).pc.toNat⟩) := by
  have htab := State.table_retiring hs t chk
  have hstat := State.tblStat_retiring hs t chk
  have h := State.contain_contained (State.retiring_ok hs t chk) t
  refine ⟨_, execDlrFailed_idle chk ht hrun hserv hjob, ?_, ?_, ?_, ?_, ?_, fun i hi => ?_, h.log⟩
  · exact (h.unitsAs s).trans (by rw [State.retiring, State.unitsAs_modTable, State.unitsAs_setStat, State.dealerLost, State.unitsAs_log,
      State.unitsAs_self])
  · rw [h.tblStat, hstat]
    exact field_statWord 2 _ _ true (by decide)
  · rw [h.tblStat, hstat]
    exact getLsbD_statWord 2 _ _
  · rw [h.cause]
    simp
  · exact (congrArg Table.failed h.own).trans (congrArg Table.failed ((htab t).trans (if_pos rfl)))
  · exact (h.others i hi).trans ((htab i).trans (if_neg hi))

/-- A dealer that fails again does so to no effect. -/
theorem execDlrFailed_retired {s : State} {t : Nat} (chk : BitVec 2) (h : s.outOfService t = true) : execDlrFailed t chk s = .next s := by
  simp [execDlrFailed, h]

/-! ### Spare cores (R370) -/

theorem State.logTable_clearCause (s : State) (r c t : Nat) : (s.clearCause r c).logTable t = s.logTable t := rfl

theorem State.logTable_setPcore (s : State) (t c : Nat) (v : Byte) (n : Nat) : (s.setPcore t c v).logTable n = s.logTable n := rfl

theorem State.logTable_setStat (s : State) (t st spares repairs : Nat) (dlr : Bool) (n : Nat) :
    (s.setStat t st spares repairs dlr).logTable n = s.logTable n := rfl

theorem State.logTable_modTable (s : State) (t : Nat) (f : Table → Table) (n : Nat) : (s.modTable t f).logTable n = s.logTable n := rfl

/-- Functions that agree on a table change it alike. -/
theorem State.modTable_congr {s : State} {t : Nat} {f g : Table → Table} (h : f (s.table t) = g (s.table t)) :
    s.modTable t f = s.modTable t g := by
  simp only [State.modTable, SMap.modify]
  rw [show f (SMap.get Table.reset s.tables t) = g (SMap.get Table.reset s.tables t) from h]

/-- What an event's record says rests on the log, the beacon and fabric time alone (R361). -/
theorem State.raise_log_congr {s u : State} (hl : u.log = s.log) (hb : u.beacon = s.beacon) (hsub : u.sub = s.sub) (hf : u.ftime = s.ftime)
    (e : Ev) : (u.raise e).log = s.log.raise s.now11 (s.evRecord e) := by
  simp only [State.raise, State.evRecord, State.fabricTime, State.now11, hl, hb, hsub, hf]

/-- Table `t` back in service: spare `sp` is logical core `lc` in the place of core `old`. -/
def State.spareIn (s : State) (t lc old sp : Nat) : State :=
  (((s.setPcore t old 2).setPcore t sp (BitVec.ofNat 8 (4 * lc))).modTable t Table.repaired).setStat t 0
    (field (s.tblStat (s.logTable t)) 4 2 - 1) (min 6 (field (s.tblStat (s.logTable t)) 7 5 + 1)) false

theorem State.logTable_spareIn (s : State) (t lc old sp n : Nat) : (s.spareIn t lc old sp).logTable n = s.logTable n := by
  rw [State.spareIn, State.logTable_setStat, State.logTable_modTable, State.logTable_setPcore, State.logTable_setPcore]

/-- SPARE_SUBSTITUTION of the one failed core of a table in repair that has a tested spare. -/
theorem execSpareSubstitution_repair {s : State} (hs : Ok cmds s) {t lc old sp : Nat} {rest : List Nat} (ht : t < 64)
    (hstat : field (s.tblStat (s.logTable t)) 1 0 = 1) (hfailed : (s.table t).failed = [lc]) (hold : s.physCore t lc = some old)
    (hsp : s.spares t = sp :: rest) :
    execSpareSubstitution t lc [] s = .next ((if (s.table t).job = none ∧ s.hasCause t causeFault
      then (s.spareIn t lc old sp).clearCause t causeFault else s.spareIn t lc old sp).raise
        ⟨0x1003, clsNote, none, some t, some (s.logTable t), lc + 2 ^ 6 * sp⟩) := by
  have htab : (((s.setPcore t old 2).setPcore t sp (BitVec.ofNat 8 (4 * lc))).modTable t Table.repaired).table t = (s.table t).repaired :=
    (State.table_modTable (s := (s.setPcore t old 2).setPcore t sp (BitVec.ofNat 8 (4 * lc))) hs.tables_.1 t t _).trans (if_pos rfl)
  have hrepair : ((s.setPcore t old 2).setPcore t sp (BitVec.ofNat 8 (4 * lc))).modTable t
      (fun b => { b with failed := b.failed.filter (· != lc) }) =
        ((s.setPcore t old 2).setPcore t sp (BitVec.ofNat 8 (4 * lc))).modTable t Table.repaired := by
    refine State.modTable_congr ?_
    change { s.table t with failed := (s.table t).failed.filter (· != lc) } = (s.table t).repaired
    rw [hfailed]
    simp [Table.repaired]
  have hspare : (((s.setPcore t old 2).setPcore t sp (BitVec.ofNat 8 (4 * lc))).modTable t Table.repaired).setStat t 0
      (field (s.tblStat (s.logTable t)) 4 2 - 1) (min 6 (field (s.tblStat (s.logTable t)) 7 5 + 1)) false = s.spareIn t lc old sp := rfl
  have hjob : ((s.spareIn t lc old sp).table t).job = (s.table t).job := (congrArg Table.job htab :)
  have hcause : (s.spareIn t lc old sp).hasCause t causeFault = s.hasCause t causeFault := rfl
  have hlog : (if (s.table t).job = none ∧ s.hasCause t causeFault then (s.spareIn t lc old sp).clearCause t causeFault
      else s.spareIn t lc old sp).logTable t = s.logTable t := by
    split
    · rw [State.logTable_clearCause, State.logTable_spareIn]
    · rw [State.logTable_spareIn]
  have htried : (sp :: rest).takeWhile ([] : List Nat).contains = [] := by simp
  unfold execSpareSubstitution
  rw [if_pos ⟨ht, hstat, by simp [hfailed]⟩]
  simp only [State.substitute, hsp, hold, htried, List.foldl_nil, Option.getD_some, List.length_nil, Nat.sub_zero, List.head?_cons, hrepair,
    htab, Table.repaired, List.isEmpty_nil, if_true, true_and, Nat.shiftLeft_eq, Nat.mul_comm sp, hspare, hjob, hcause, hlog]

/-- A logical core's own physical core is in use and so no spare. -/
theorem State.physCore_ne_spare {s : State} {t lc old sp : Nat} {rest : List Nat} (hold : s.physCore t lc = some old)
    (hsp : s.spares t = sp :: rest) : old ≠ sp := by
  rintro rfl
  have hused : s.pcore t old = BitVec.ofNat 8 (4 * lc) := by
    simpa using List.find?_some hold
  have hspare : field (s.pcore t old) 1 0 = 1 := by
    have hmem : old ∈ s.spares t := hsp ▸ List.mem_cons_self
    simpa using (List.mem_filter.1 hmem).2
  rw [hused] at hspare
  simp only [field, fieldN, BitVec.toNat_ofNat, Nat.shiftRight_zero] at hspare
  omega

theorem and_low_of_not_fault : ∀ c : BitVec 5, c.getLsbD causeFault = false → c &&& 0x0F = c := by decide

theorem State.spareIn_ok {s : State} (hs : Ok cmds s) (t lc old sp : Nat) : Ok cmds (s.spareIn t lc old sp) :=
  State.setStat_ok (State.modTable_ok (State.setPcore_ok (State.setPcore_ok hs)) (fun _ h => h))

theorem State.tblStat_spareIn {s : State} (hs : Ok cmds s) (t lc old sp : Nat) :
    (s.spareIn t lc old sp).tblStat (s.logTable t) = BitVec.ofNat 9 (packBits [(2, 0), (3, field (s.tblStat (s.logTable t)) 4 2 - 1),
      (3, min 6 (field (s.tblStat (s.logTable t)) 7 5 + 1)), (1, b2n false)]) :=
  (State.tblStat_setStat (State.modTable_ok (t := t) (f := Table.repaired) (State.setPcore_ok (State.setPcore_ok hs)) (fun _ h => h)) t 0 _ _ false
    (s.logTable t)).trans (if_pos rfl)

/-- The region of a table back in service that runs no job no longer has cause FAULT. -/
theorem State.spareIn_onlyCause {s : State} (hs : Ok cmds s) (t lc old sp : Nat) :
    (s.spareIn t lc old sp).OnlyCause cmds (if (s.table t).job = none ∧ s.hasCause t causeFault
      then (s.spareIn t lc old sp).clearCause t causeFault else s.spareIn t lc old sp) t
        (if (s.table t).job = none then (s.region t).cause &&& 0x0F else (s.region t).cause) := by
  have hok := State.spareIn_ok hs t lc old sp
  by_cases hj : (s.table t).job = none
  · rw [if_pos hj]
    by_cases hc : s.hasCause t causeFault = true
    · rw [if_pos ⟨hj, hc⟩]
      exact State.clearCause_fault hok t
    · rw [if_neg (fun h => hc h.2), and_low_of_not_fault _ (by simpa [State.hasCause] using hc)]
      exact State.OnlyCause.refl hok t
  · rw [if_neg hj, if_neg (fun h => hj h.1)]
    exact State.OnlyCause.refl hok t

/-- `u` with the parts of `s` that a substitution may change. -/
def State.mapsAs (u s : State) : State := { u with tables := s.tables, regions := s.regions, fuses := s.fuses, log := s.log }

theorem State.mapsAs_setStat (u s : State) (t st spares repairs : Nat) (dlr : Bool) :
    (u.setStat t st spares repairs dlr).mapsAs s = u.mapsAs s := rfl

theorem State.mapsAs_modTable (u s : State) (t : Nat) (f : Table → Table) : (u.modTable t f).mapsAs s = u.mapsAs s := rfl

theorem State.mapsAs_setPcore (u s : State) (t c : Nat) (v : Byte) : (u.setPcore t c v).mapsAs s = u.mapsAs s := rfl

theorem State.mapsAs_spareIn (s : State) (t lc old sp : Nat) : (s.spareIn t lc old sp).mapsAs s = s := by
  rw [State.spareIn, State.mapsAs_setStat, State.mapsAs_modTable, State.mapsAs_setPcore, State.mapsAs_setPcore]
  rfl

/-- What SPARE_SUBSTITUTION changes on such a table, and what it leaves. -/
theorem exec_spareSubstitution_repair {s : State} (hs : Ok cmds s) {t lc old sp : Nat} {rest : List Nat} (ht : t < 64)
    (hstat : field (s.tblStat (s.logTable t)) 1 0 = 1) (hfailed : (s.table t).failed = [lc]) (hold : s.physCore t lc = some old)
    (hsp : s.spares t = sp :: rest) :
    ∃ u, exec (.spareSubstitution t lc []) s = .next u ∧
      { u with tables := s.tables, regions := s.regions, fuses := s.fuses, log := s.log } = s ∧
      (∀ i, i ≠ t → u.region i = s.region i) ∧
      (u.region t).cause = (if (s.table t).job = none then (s.region t).cause &&& 0x0F else (s.region t).cause) ∧
      u.pcore t old = 2 ∧ u.pcore t sp = BitVec.ofNat 8 (4 * lc) ∧ (∀ x, x ≠ old → x ≠ sp → u.pcore t x = s.pcore t x) ∧
      field (u.tblStat (s.logTable t)) 1 0 = 0 ∧ (u.table t).failed = [] ∧
      u.log = s.log.raise s.now11 (s.evRecord ⟨0x1003, clsNote, none, some t, some (s.logTable t), lc + 2 ^ 6 * sp⟩) := by
  have hexec := execSpareSubstitution_repair hs ht hstat hfailed hold hsp
  have hne := State.physCore_ne_spare hold hsp
  have hcause := State.spareIn_onlyCause hs t lc old sp
  generalize hu : (if (s.table t).job = none ∧ s.hasCause t causeFault then (s.spareIn t lc old sp).clearCause t causeFault
    else s.spareIn t lc old sp) = u at hexec hcause
  have hfuses : u.fuses = (s.spareIn t lc old sp).fuses := (congrArg State.fuses hcause.rest :)
  have hpcore : ∀ x, u.pcore t x = if x = sp then BitVec.ofNat 8 (4 * lc) else if x = old then 2 else s.pcore t x := by
    intro x
    rw [State.pcore, hfuses]
    refine (State.pcore_setPcore (s := s.setPcore t old 2) (State.setPcore_ok hs) t sp x _).trans ?_
    rw [State.pcore_setPcore hs]
  have hlog : u.log = s.log := (congrArg State.log hcause.rest :)
  have hbeacon : u.beacon = s.beacon := (congrArg State.beacon hcause.rest :)
  have hsub : u.sub = s.sub := (congrArg State.sub hcause.rest :)
  have hftime : u.ftime = s.ftime := (congrArg State.ftime hcause.rest :)
  have htables : u.tables = (s.spareIn t lc old sp).tables := (congrArg State.tables hcause.rest :)
  have hserv : u.tblStat (s.logTable t) = (s.spareIn t lc old sp).tblStat (s.logTable t) := by simp only [State.tblStat, hfuses]
  rw [State.tblStat_spareIn hs] at hserv
  have hrepaired : u.table t = (s.table t).repaired := by
    rw [State.table, htables]
    exact (State.table_modTable (s := (s.setPcore t old 2).setPcore t sp (BitVec.ofNat 8 (4 * lc))) hs.tables_.1 t t _).trans (if_pos rfl)
  refine ⟨_, hexec, ?_, hcause.others, hcause.cause, ?_, ?_, fun x ho hx => ?_, ?_, ?_, ?_⟩
  · exact (congrArg (State.mapsAs · s) hcause.rest :).trans (State.mapsAs_spareIn s t lc old sp)
  · exact (hpcore old).trans ((if_neg hne).trans (if_pos rfl))
  · exact (hpcore sp).trans (if_pos rfl)
  · exact (hpcore x).trans ((if_neg hx).trans (if_neg ho))
  · exact (congrArg (field · 1 0) hserv).trans (field_statWord 0 _ _ false (by decide))
  · exact congrArg Table.failed hrepaired
  · exact State.raise_log_congr hlog hbeacon hsub hftime _

/-! ### Bound violations (R34, R374) -/

/-- BOUND_VIOLATION within the job's bound. -/
theorem execBoundViolation_within {s : State} {j : Nat} {b : Job} (hb : s.job j = some b)
    (h : s.beacon ≤ b.stamp + b.bound + s.hostTime b + s.pausedTime b) : execBoundViolation j s = .next s := by
  simp [execBoundViolation, hb, State.passBound, h]

/-- What is sent on a queue pair in order, with a link, goes out. -/
theorem State.send_ready {s : State} {x : HostTx} (hq : (s.qp x.qpn.toNat).state = 1) (hl : s.host.link = true) :
    s.send x = { s with host := { s.host with tx := s.host.tx ++ [x] } } := by
  rw [State.send, if_neg (by simp [hq, hl])]

/-- The violation of job `j`'s bound raised, and the job's host told (R34, R278). -/
def State.tellViolation (s : State) (j : Nat) (b : Job) : State :=
  { s.raise ⟨0x1201, clsContained, some j, none, none, b.bound⟩ with host := { s.host with
      tx := s.host.tx ++ [.frame (BitVec.ofNat 24 (256 + j)) 0xC3 0 (BitVec.ofNat 8 j) 0 (natLe 8 0x1201 ++ natLe 8 s.beacon)] } }

/-- BOUND_VIOLATION of a running job past its bound, where the fault policy asks for no abort (R34). -/
theorem execBoundViolation_past {s : State} {j : Nat} {b : Job} (hj : j < 64) (hb : s.job j = some b)
    (hstate : b.state = .running) (hviol : b.violated = false) (hq : (s.qp (256 + j)).state = 1) (hl : s.host.link = true)
    (h : b.stamp + b.bound + s.hostTime b + s.pausedTime b < s.beacon) (habort : s.recs.boundAbort = false) :
    execBoundViolation j s = .next ((s.tellViolation j b).modJob j (fun b => { b with violated := true })) := by
  have hqpn : (BitVec.ofNat 24 (256 + j)).toNat = 256 + j := Nat.mod_eq_of_lt (by omega)
  have hsend : (s.raise ⟨0x1201, clsContained, some j, none, none, b.bound⟩).send
      (.frame (BitVec.ofNat 24 (256 + j)) 0xC3 0 (BitVec.ofNat 8 j) 0 (natLe 8 0x1201 ++ natLe 8 s.beacon)) = s.tellViolation j b :=
    State.send_ready (by rw [HostTx.qpn, hqpn]; exact hq) hl
  have hrecs : (s.tellViolation j b).recs.boundAbort = false := habort
  simp only [execBoundViolation, hb, State.passBound]
  rw [if_neg (by simp [hstate, hviol, h])]
  refine congrArg Host.Outcome.next ((if_neg ?_).trans ?_)
  · change ¬ (State.recs (State.send _ _)).boundAbort = true
    rw [State.raise_beacon, hsend, hrecs]
    exact Bool.false_ne_true
  · exact congrArg (State.modJob · j (fun b => { b with violated := true })) hsend

/-- What such a violation changes, and what it leaves. -/
theorem exec_boundViolation_past {s : State} (hs : Ok cmds s) {j : Nat} {b : Job} (hj : j < 64) (hb : s.job j = some b)
    (hstate : b.state = .running) (hviol : b.violated = false) (hq : (s.qp (256 + j)).state = 1) (hl : s.host.link = true)
    (h : b.stamp + b.bound + s.hostTime b + s.pausedTime b < s.beacon) (habort : s.recs.boundAbort = false) :
    ∃ u, exec (.boundViolation j) s = .next u ∧ { u with jobs := s.jobs, log := s.log, host := s.host } = s ∧
      u.job j = some { b with violated := true } ∧ (∀ i, i ≠ j → u.job i = s.job i) ∧
      u.host = { s.host with tx := s.host.tx ++ [.frame (BitVec.ofNat 24 (256 + j)) 0xC3 0 (BitVec.ofNat 8 j) 0
        (natLe 8 0x1201 ++ natLe 8 s.beacon)] } ∧
      u.log = s.log.raise s.now11 (s.evRecord ⟨0x1201, clsContained, some j, none, none, b.bound⟩) := by
  have hjob := fun i => State.job_modJob (s := s.tellViolation j b) hs.jobs_ j i (fun b => { b with violated := true })
  have hframe : { s.tellViolation j b with log := s.log, host := s.host } = s := rfl
  refine ⟨_, execBoundViolation_past hj hb hstate hviol hq hl h habort, ?_, ?_, fun i hi => ?_, ?_, ?_⟩
  · exact hframe
  · exact (hjob j).trans ((if_pos rfl).trans (congrArg (Option.map _) hb))
  · exact (hjob i).trans (if_neg hi)
  · rw [State.modJob_host, State.tellViolation]
  · rw [State.modJob_log, State.tellViolation, State.raise]

/-- Settles O55: each clause is one of the rules above. -/
theorem unitsFail : Obligations.UnitsFail := by
  rintro s t c lc chk hs ht hc hrun rfl
  refine ⟨fun hcore hserv hnew hjob => exec_coreFailed_idle hs.ok chk ht hc hrun hcore hserv hnew hjob, execCoreFailed_unused chk,
    fun hserv hjob => exec_dlrFailed_idle hs.ok chk ht hrun hserv hjob, execDlrFailed_retired chk,
    fun old sp rest hstat hfailed _ hold hsp => exec_spareSubstitution_repair hs.ok ht hstat hfailed hold hsp, fun hnone => ?_,
    fun j b hj hb hstate hviol hq hl => ⟨execBoundViolation_within hb,
      fun h habort => exec_boundViolation_past hs.ok hj hb hstate hviol hq hl h habort⟩⟩
  change execSpareSubstitution t (s.logCore t c) [] s = _
  simp [execSpareSubstitution, hnone]

end Sys2Proof.Machine
end

section
/-!
What operations leave of cores and tables: the scalar registers, predicates and vector registers, and the effects owed.
-/
namespace Sys2Proof.Machine

variable {cmds : List Instr}

/-! ### Operations that change no core and no table -/

/-- `t` has the cores and the tables of `s`. -/
structure State.SameUnits (s t : State) : Prop where
  cores  : t.cores = s.cores
  tables : t.tables = s.tables

theorem State.SameUnits.refl (s : State) : s.SameUnits s := ⟨rfl, rfl⟩

theorem State.SameUnits.trans {s t u : State} (h : s.SameUnits t) (g : t.SameUnits u) : s.SameUnits u :=
  ⟨g.cores.trans h.cores, g.tables.trans h.tables⟩

theorem State.SameUnits.foldl {β : Type} {s : State} {f : State → β → State} (l : List β)
    (hf : ∀ (u : State) (x : β), u.SameUnits (f u x)) : s.SameUnits (l.foldl f s) :=
  foldl_keeps (P := s.SameUnits) (.refl s) fun u x h => h.trans (hf u x)

theorem State.setCsr_sameUnits (s : State) (a : Nat) (v : Word) : s.SameUnits (s.setCsr a v) := ⟨rfl, rfl⟩

theorem State.modCsr_sameUnits (s : State) (a : Nat) (f : Word → Word) : s.SameUnits (s.modCsr a f) := ⟨rfl, rfl⟩

theorem State.modJob_sameUnits (s : State) (j : Nat) (f : Job → Job) : s.SameUnits (s.modJob j f) := ⟨rfl, rfl⟩

theorem State.raiseTable_sameUnits (s : State) (t code cls d : Nat) : s.SameUnits (s.raiseTable t code cls d) := ⟨rfl, rfl⟩

theorem State.mark_sameUnits (s : State) (a v : Nat) : s.SameUnits (s.mark a v) := by
  unfold State.mark
  split <;> exact ⟨rfl, rfl⟩

theorem State.setFlags_sameUnits (s : State) (a : Nat) (v : Word) : s.SameUnits (s.setFlags a v) :=
  (s.modCsr_sameUnits a _).trans (State.mark_sameUnits _ _ _)

theorem State.countCe_sameUnits (s : State) (a n : Nat) : s.SameUnits (s.countCe a n) := by
  unfold State.countCe
  split
  · exact .refl s
  · exact (s.modCsr_sameUnits a _).trans (State.mark_sameUnits _ _ _)

theorem State.recordFault_sameUnits (s : State) (a : Nat) (v : Word) : s.SameUnits (s.recordFault a v) := by
  unfold State.recordFault
  split
  · exact .refl s
  · exact (s.setCsr_sameUnits a _).trans (State.mark_sameUnits _ _ _)

theorem State.setCsrs_sameUnits (s : State) (a : Nat) (ws : List Word) : s.SameUnits (s.setCsrs a ws) := by
  induction ws generalizing s a with
  | nil => exact .refl s
  | cons w ws ih => exact (s.setCsr_sameUnits a w).trans (ih _ _)

theorem State.hazard_sameUnits (s : State) (n : Nat) (z : Hazard) : s.SameUnits (s.hazard n z) := by
  dsimp only [State.hazard]
  split
  · exact .refl s
  · exact (s.setCsrs_sameUnits _ _).trans (State.mark_sameUnits _ _ _)

theorem State.send_sameUnits (s : State) (x : HostTx) : s.SameUnits (s.send x) := by
  unfold State.send
  split <;> exact ⟨rfl, rfl⟩

theorem State.answer_sameUnits (s : State) (q : BitVec 24) (typ : BitVec 8) (tag : BitVec 32) (job : BitVec 8) (st : BitVec 16)
    (body : List Byte) : s.SameUnits (s.answer q typ tag job st body) := by
  unfold State.answer State.settle
  refine State.SameUnits.trans (t := s.modQp _ _) ⟨rfl, rfl⟩ (.foldl _ fun u a => ?_)
  cases a.tx with
  | none => exact .refl u
  | some x => exact u.send_sameUnits x

theorem State.failPause_sameUnits (s : State) (j : Nat) (b : Job) : s.SameUnits (s.failPause j b) :=
  .foldl b.waiters fun u w => by
    split
    · exact u.answer_sameUnits ..
    · exact .refl u

theorem State.endWaiters_sameUnits (s : State) (j : Nat) (b : Job) : s.SameUnits (s.endWaiters j b) :=
  (s.failPause_sameUnits j b).trans (.foldl b.waiters fun u w => by
    split
    · exact u.answer_sameUnits ..
    · exact .refl u)

theorem State.setMem_sameUnits (s : State) (m : MemSys) : s.SameUnits { s with mem := m } := ⟨rfl, rfl⟩

theorem State.setQst_sameUnits (s : State) (k q : Nat) (v : QState) : s.SameUnits (s.setQst k q v) := ⟨rfl, rfl⟩

theorem State.taskRegWrite_sameUnits (s : State) (a : Nat) (v : Word) : s.SameUnits (s.taskRegWrite a v) := by
  dsimp only [State.taskRegWrite]
  split <;> exact ⟨rfl, rfl⟩

theorem State.setAccFlags_sameUnits (s : State) (k : Nat) (fs : List (Nat × BitVec 5)) : s.SameUnits (s.setAccFlags k fs) :=
  .foldl fs fun _ x => (State.SameUnits.foldl (bitsOf 5 x.2.toNat) fun v _ => v.setFlags_sameUnits _ _).trans (State.modCsr_sameUnits _ _ _)

/-! ### Operations that keep the registers and what is owed -/

/-- The scalar registers, predicates and vector registers of every core and what every table owes are in `t` as in `s`. -/
structure State.SameRegs (s t : State) : Prop where
  sreg : ∀ k, (t.core k).sreg = (s.core k).sreg
  pred : ∀ k, (t.core k).pred = (s.core k).pred
  vreg : ∀ k, (t.core k).vreg = (s.core k).vreg
  pend : ∀ n, (t.table n).pend = (s.table n).pend

theorem State.SameRegs.refl (s : State) : s.SameRegs s := ⟨fun _ => rfl, fun _ => rfl, fun _ => rfl, fun _ => rfl⟩

theorem State.SameRegs.trans {s t u : State} (h : s.SameRegs t) (g : t.SameRegs u) : s.SameRegs u :=
  ⟨fun k => (g.sreg k).trans (h.sreg k), fun k => (g.pred k).trans (h.pred k), fun k => (g.vreg k).trans (h.vreg k),
    fun n => (g.pend n).trans (h.pend n)⟩

theorem State.SameUnits.sameRegs {s t : State} (h : s.SameUnits t) : s.SameRegs t := by
  have hcore : ∀ k, t.core k = s.core k := fun k => congrArg (SMap.get Core.reset · k) h.cores
  have htable : ∀ n, t.table n = s.table n := fun n => congrArg (SMap.get Table.reset · n) h.tables
  exact ⟨fun k => by rw [hcore], fun k => by rw [hcore], fun k => by rw [hcore], fun n => by rw [htable]⟩

/-- A fold keeps them if each of its steps does, from a canonical state. -/
theorem State.SameRegs.foldl {β : Type} {s : State} {f : State → β → State} (l : List β) (hs : Ok cmds s)
    (hok : ∀ u x, Ok cmds u → Ok cmds (f u x)) (hf : ∀ u x, Ok cmds u → u.SameRegs (f u x)) : s.SameRegs (l.foldl f s) :=
  (foldl_keeps (P := fun u => Ok cmds u ∧ s.SameRegs u) ⟨hs, .refl s⟩ fun u x h => ⟨hok u x h.1, h.2.trans (hf u x h.1)⟩).2

theorem State.modCore_sameRegs {s : State} (hs : Ok cmds s) (k : Nat) {f : Core → Core}
    (hf : (f (s.core k)).sreg = (s.core k).sreg ∧ (f (s.core k)).pred = (s.core k).pred ∧ (f (s.core k)).vreg = (s.core k).vreg) :
    s.SameRegs (s.modCore k f) := by
  obtain ⟨hsreg, hpred, hvreg⟩ := hf
  have hcore := fun j => State.core_modCore hs.cores_.1 k j f
  refine ⟨fun j => ?_, fun j => ?_, fun j => ?_, fun _ => rfl⟩ <;> rw [hcore] <;> split
  · next e => rw [e, hsreg]
  · rfl
  · next e => rw [e, hpred]
  · rfl
  · next e => rw [e, hvreg]
  · rfl

theorem State.modTable_sameRegs {s : State} (hs : Ok cmds s) (n : Nat) {f : Table → Table} (hf : (f (s.table n)).pend = (s.table n).pend) :
    s.SameRegs (s.modTable n f) := by
  refine ⟨fun _ => rfl, fun _ => rfl, fun _ => rfl, fun m => ?_⟩
  rw [State.table_modTable hs.tables_.1]
  split
  · next e => rw [e, hf]
  · rfl

/-- An abort stops dealers and drops what waits; registers stay, and operations in flight complete (R259). -/
theorem State.abortJob_sameRegs {s : State} (hs : Ok cmds s) (j code : Nat) : s.SameRegs (s.abortJob j code) := by
  unfold State.abortJob
  split
  · exact .refl s
  · next b _ =>
    split
    · exact .refl s
    · split
      · exact (s.modJob_sameUnits j _).sameRegs
      · exact .refl s
    · have hstop : (s.endWaiters j b).SameRegs (b.tables.foldl (fun acc t => acc.modTable t Table.stop) (s.endWaiters j b)) :=
        .foldl b.tables (State.endWaiters_ok hs) (fun u t h => State.modTable_ok h (fun x hx => Table.stop_ok hx))
          (fun u t h => State.modTable_sameRegs h t rfl)
      exact ((s.endWaiters_sameUnits j b).sameRegs.trans hstop).trans (State.SameUnits.sameRegs ⟨rfl, rfl⟩)

theorem State.faultTable_sameRegs {s : State} (hs : Ok cmds s) (t code d : Nat) : s.SameRegs (s.faultTable t code d) := by
  have hraise := (s.raiseTable_sameUnits t code clsContained d).sameRegs
  dsimp only [State.faultTable]
  split
  · exact hraise.trans (State.abortJob_sameRegs (State.raiseTable_ok hs) _ code)
  · exact hraise

theorem State.accFault_sameRegs {s : State} (hs : Ok cmds s) (t : Nat) (streamer : Bool) (f : AccFault) :
    s.SameRegs (s.accFault t streamer f) := by
  have hrecord : ∀ (u : State) (a : Nat) (v : Word) (code d : Nat), Ok cmds u → u.SameRegs ((u.recordFault a v).faultTable t code d) :=
    fun u a v code d hu => (u.recordFault_sameUnits a v).sameRegs.trans (State.faultTable_sameRegs (State.recordFault_ok hu) t code d)
  have hplace : ∀ (p : Prop) [Decidable p] (a : Nat) (v : Word), Ok cmds (if p then s else s.setCsr a v) ∧
      s.SameRegs (if p then s else s.setCsr a v) := by
    intro p _ a v
    split
    · exact ⟨hs, .refl s⟩
    · exact ⟨State.setCsr_ok hs, (s.setCsr_sameUnits a v).sameRegs⟩
  cases f with
  | bound lc a => exact hrecord s _ _ _ _ hs
  | ue lc a => exact hrecord s _ _ _ _ hs
  | shelfBound lc o =>
    obtain ⟨hok, hsame⟩ := hplace ((s.csrAt (shfReg t 8)).getLsbD 31) (shfReg t 0xC) (BitVec.ofNat 32 o)
    exact hsame.trans (hrecord _ _ _ _ _ hok)
  | shelfUe lc o =>
    obtain ⟨hok, hsame⟩ := hplace ((s.csrAt (shfReg t 8)).getLsbD 31) (shfReg t 0xC) (BitVec.ofNat 32 o)
    exact hsame.trans (hrecord _ _ _ _ _ hok)
  | misuse lc q a cause =>
    obtain ⟨hok, hsame⟩ := hplace ((s.csrAt (tblReg t 0x500)).getLsbD 31) (tblReg t 0x504) (BitVec.ofNat 32 a)
    exact hsame.trans (hrecord _ _ _ _ _ hok)

theorem State.accFaults_sameRegs {s : State} (hs : Ok cmds s) (t : Nat) (streamer : Bool) (fs : List AccFault) :
    s.SameRegs (s.accFaults t streamer fs) := by
  refine State.SameRegs.foldl [0, 1, 2, 3, 4] hs (fun u k hu => ?_) fun u k hu => ?_
  · split
    · exact State.accFault_ok hu
    · exact hu
  · split
    · exact State.accFault_sameRegs hu t streamer _
    · exact .refl u

/-! ### Bytes, counters and queues -/

/-- A core's registers are no part of its scratchpad. -/
structure Core.SameRegs (c d : Core) : Prop where
  sreg : d.sreg = c.sreg
  pred : d.pred = c.pred
  vreg : d.vreg = c.vreg

theorem Core.SameRegs.refl (c : Core) : c.SameRegs c := ⟨rfl, rfl, rfl⟩

theorem Core.SameRegs.trans {c d e : Core} (h : c.SameRegs d) (g : d.SameRegs e) : c.SameRegs e :=
  ⟨g.sreg.trans h.sreg, g.pred.trans h.pred, g.vreg.trans h.vreg⟩

theorem Core.putWord_sameRegs (c : Core) (w : Nat) (bs : List (Nat × Byte × Byte)) : c.SameRegs (c.putWord w bs).1 := by
  have hput : c.SameRegs (bs.foldl (fun c b => c.putBits b.1 b.2.1 b.2.2) { c with spdErr := SMap.set none c.spdErr w none }) :=
    foldl_keeps (P := c.SameRegs) ⟨rfl, rfl, rfl⟩ fun d b h => h.trans ⟨rfl, rfl, rfl⟩
  dsimp only [Core.putWord]
  split
  · exact hput
  · split
    · exact hput
    · split
      · exact .refl c
      · exact hput

theorem Core.putAll_sameRegs (c : Core) (bs : List (Nat × Byte × Byte)) : c.SameRegs (c.putAll bs).1 :=
  foldl_keeps (P := fun x : Core × Option Nat × Nat => c.SameRegs x.1) (.refl c) fun x w h => h.trans (x.1.putWord_sameRegs w _)

theorem State.spdWrites_sameRegs {s : State} (hs : Ok cmds s) (t : Nat) (ws : List SpdWrite) : s.SameRegs (s.spdWrites t ws) := by
  obtain ⟨hok, hsame⟩ := foldl_keeps (P := fun x : State × List AccFault => Ok cmds x.1 ∧ s.SameRegs x.1) (l := ws) (a := (s, []))
    (f := fun acc w =>
      let p := (acc.1.core w.core).putAll w.bits
      ((acc.1.modCore w.core (fun _ => p.1)).countCe (spdReg t 0xC) p.2.2, acc.2 ++ p.2.1.toList.map (.ue w.lcore ·)))
    ⟨hs, .refl s⟩ fun x w h => by
      have hput := (x.1.core w.core).putAll_sameRegs w.bits
      refine ⟨State.countCe_ok (State.modCore_ok h.1 fun _ _ => Core.putAll_ok (State.core_ok h.1)), h.2.trans ?_⟩
      exact (State.modCore_sameRegs h.1 w.core ⟨hput.sreg, hput.pred, hput.vreg⟩).trans (State.countCe_sameUnits _ _ _).sameRegs
  exact hsame.trans (State.accFaults_sameRegs hok t false _)

theorem State.shelfWrites_sameRegs {s : State} (hs : Ok cmds s) (t : Nat) (ws : List (Nat × Nat × List Byte)) :
    s.SameRegs (s.shelfWrites t ws) := by
  obtain ⟨hok, hsame⟩ := foldl_keeps (P := fun x : State × List AccFault => Ok cmds x.1 ∧ s.SameUnits x.1) (l := ws) (a := (s, []))
    (f := fun acc w =>
      let p := acc.1.mem.shelfWrite (shareBase t + s.shfBase t + w.2.1) w.2.2
      (({ acc.1 with mem := p.1 }).countCe (shfReg t 0x10) p.2.2,
        acc.2 ++ p.2.1.toList.map (fun u => .shelfUe w.1 (u - (shareBase t + s.shfBase t)))))
    ⟨hs, .refl s⟩ fun x w h => by
      refine ⟨State.countCe_ok (ok_mem h.1 (MemSys.shelfWrite_ok h.1.mem)), h.2.trans ?_⟩
      exact (x.1.setMem_sameUnits _).trans (State.countCe_sameUnits _ _ _)
  exact hsame.sameRegs.trans (State.accFaults_sameRegs hok t false _)

theorem State.setCounter_sameRegs {s : State} (hs : Ok cmds s) (t n v : Nat) : s.SameRegs (s.setCounter t n v) :=
  State.modTable_sameRegs hs t rfl

/-- A signal that would overflow its counter records a fault and aborts the job. -/
theorem State.synFault_faultTable_sameRegs {s : State} (hs : Ok cmds s) (t n : Nat) (host : Bool) (cause code d : Nat) :
    s.SameRegs ((s.synFault t n host cause).faultTable t code d) :=
  (s.recordFault_sameUnits _ _).sameRegs.trans (State.faultTable_sameRegs (State.synFault_ok hs) t code d)

theorem State.addCounter_sameRegs {s : State} (hs : Ok cmds s) (t n a : Nat) : s.SameRegs (s.addCounter t n a) := by
  dsimp only [State.addCounter]
  split
  · exact State.setCounter_sameRegs hs t n _
  · refine (State.setCounter_sameRegs hs t n ctrMax).trans ?_
    exact State.synFault_faultTable_sameRegs (State.setCounter_ok hs) ..

theorem State.setHostCounter_sameUnits (s : State) (j n v : Nat) : s.SameUnits (s.setHostCounter j n v) := ⟨rfl, rfl⟩

theorem State.markSlot_sameUnits (s : State) (j n : Nat) : s.SameUnits (s.markSlot j n) := ⟨rfl, rfl⟩

theorem State.addHost_sameRegs {s : State} (hs : Ok cmds s) (t n a : Nat) : s.SameRegs (s.addHost t n a) := by
  have hslot (j v : Nat) : s.SameRegs ((s.setHostCounter j n v).markSlot j n) :=
    ((s.setHostCounter_sameUnits j n v).trans (State.markSlot_sameUnits _ j n)).sameRegs
  unfold State.addHost
  split
  · exact .refl s
  · next j _ =>
    dsimp only
    split
    · exact hslot j _
    · refine (hslot j ctrMax).trans ?_
      exact State.synFault_faultTable_sameRegs (State.markSlot_ok (State.setHostCounter_ok hs)) ..

theorem State.putCodebook_sameRegs {s : State} (hs : Ok cmds s) (k : Nat) (book : Bool) (q : Nat) (vals : List (BitVec 16)) (commit : Bool) :
    s.SameRegs (s.putCodebook k book q vals commit) := by
  unfold State.putCodebook
  exact (State.modCore_sameRegs hs k ⟨rfl, rfl, rfl⟩).trans (State.modCsr_sameUnits ..).sameRegs

theorem Core.offer_sameRegs (c : Core) (list : Nat) (cands : List (Nat × Word)) (idx : Word) : c.SameRegs (c.offer list cands idx) := by
  unfold Core.offer
  split <;> exact ⟨rfl, rfl, rfl⟩

/-- The hazard detector notes what becomes visible, and changes neither registers nor what is owed (R376). -/
theorem State.noteVisible_sameRegs {s : State} (hs : Ok cmds s) (t : Nat) (p : Pend) : s.SameRegs (s.noteVisible t p) := by
  have hdrain : ∀ (u : State) (l : Loc) (v : Option Word), Ok cmds u →
      Ok cmds (u.modTable t (fun b => { b with undrained := SMap.set none b.undrained l.key v })) ∧
      u.SameRegs (u.modTable t (fun b => { b with undrained := SMap.set none b.undrained l.key v })) := fun u l v hu =>
    ⟨State.modTable_ok hu fun x hx => tableOk_undrained hx (SMap.wf_set _ _ hx.undrained_), State.modTable_sameRegs hu t rfl⟩
  have hhazard : ∀ (u : State) (o : Option Word) (f : Word → Hazard), Ok cmds u →
      Ok cmds (match o with | some w => u.hazard t (f w) | none => u) ∧ u.SameRegs (match o with | some w => u.hazard t (f w) | none => u) := by
    intro u o f hu
    cases o with
    | none => exact ⟨hu, .refl u⟩
    | some w => exact ⟨State.hazard_ok hu, (u.hazard_sameUnits t _).sameRegs⟩
  unfold State.noteVisible
  split
  · exact .refl s
  · have hok := ok_foldl (l := p.drains) hs fun u l hu => (hdrain u l none hu).1
    refine (State.SameRegs.foldl p.drains hs (fun u l hu => (hdrain u l none hu).1) fun u l hu => (hdrain u l none hu).2).trans ?_
    refine State.SameRegs.foldl p.locs hok (fun u l hu => ?_) fun u l hu => ?_
    · exact (hdrain _ l _ (hhazard u _ (fun w => ⟨3, p.slot, l, p.pc, p.tcc, w⟩) hu).1).1
    · have hz := hhazard u (SMap.get none (u.table t).undrained l.key) (fun w => ⟨3, p.slot, l, p.pc, p.tcc, w⟩) hu
      exact hz.2.trans (hdrain _ l _ hz.1).2

end Sys2Proof.Machine
end

section
/-!
What becomes visible when it is due (R28, R113): the registers after one due effect, and after all of them in the order of issue.
-/
namespace Sys2Proof.SMap

/-- After several writes a key reads as the last of them that named it. -/
theorem get_setAll {α : Type} [DecidableEq α] {d : α} {m : SMap α} (h : SMap.wf d m = true) (kvs : List (Nat × α)) (j : Nat) :
    SMap.get d (SMap.setAll d m kvs) j = (kvs.reverse.lookup j).getD (SMap.get d m j) := by
  induction kvs generalizing m with
  | nil => rfl
  | cons x kvs ih =>
    obtain ⟨i, v⟩ := x
    have hset : SMap.setAll d m ((i, v) :: kvs) = SMap.setAll d (SMap.set d m i v) kvs := rfl
    rw [hset, ih (wf_set _ _ h), get_set h, List.reverse_cons, List.lookup_append]
    cases kvs.reverse.lookup j with
    | some w => rfl
    | none =>
      by_cases e : j = i
      · simp [e]
      · simp [List.lookup_cons, beq_false_of_ne e, e]

end Sys2Proof.SMap

namespace Sys2Proof.Machine

variable {cmds : List Instr}

/-! ### One effect -/

/-- The effects that write a scalar register, a predicate or lanes of a vector register. -/
def Eff.register : Eff → Bool
  | .sreg .. | .pred .. | .lanes .. => true
  | _ => false

/-- Every other effect leaves these registers and what is owed as they are, but for a store, which owes its data anew (R146). -/
theorem State.applyEff_sameRegs {s : State} (hs : Ok cmds s) (t : Nat) {p : Pend} (hp : p.eff.register = false) (hx : p.eff.extra = 0) :
    s.SameRegs (s.applyEff t p) := by
  obtain ⟨due, eff, tcc, pc, slot, locs, drains⟩ := p
  cases eff with
  | sreg | pred | lanes => cases hp
  | spdTouch => cases hx
  | lmask k n v => exact ((s.setCsr_sameUnits _ _).trans (State.setCsr_sameUnits ..)).sameRegs
  | regWrite a v => exact (s.taskRegWrite_sameUnits a v).sameRegs
  | cvtFlags k nv ovf =>
    dsimp only [State.applyEff]
    split
    · exact (s.setFlags_sameUnits ..).sameRegs
    · exact .refl s
  | setBits k off v => exact (s.modCsr_sameUnits (coreReg k off) (· ||| v)).sameRegs
  | clearBits k off v => exact (s.modCsr_sameUnits (coreReg k off) (· &&& ~~~v)).sameRegs
  | accFlagReg k n f hi v =>
    dsimp only [State.applyEff]
    split
    · exact (s.setCsr_sameUnits ..).sameRegs
    · exact ((s.setCsr_sameUnits ..).trans (State.modCsr_sameUnits ..)).sameRegs
  | acc k | hold k | curve k | tkcfg k => exact State.modCore_sameRegs hs k ⟨rfl, rfl, rfl⟩
  | accFlags k fs => exact (s.setAccFlags_sameUnits k fs).sameRegs
  | accClear k n cfg =>
    dsimp only [State.applyEff]
    have hclear : s.SameRegs (s.modCore k fun c => { c with accV := c.accV.filter fun kv => !(kv.1 / 64 % 8 == n) }) :=
      State.modCore_sameRegs hs k ⟨rfl, rfl, rfl⟩
    refine hclear.trans (State.SameUnits.sameRegs ?_)
    exact (State.SameUnits.foldl _ fun u _ => u.setCsr_sameUnits ..).trans (State.setCsr_sameUnits ..)
  | codebook k book q vals commit => exact State.putCodebook_sameRegs hs k book q vals commit
  | tkins k list cands idx =>
    obtain ⟨hsreg, hpred, hvreg⟩ := (s.core k).offer_sameRegs list cands idx
    exact State.modCore_sameRegs hs k ⟨hsreg, hpred, hvreg⟩
  | spdWrite ws => exact State.spdWrites_sameRegs hs t ws
  | shelf ws => exact State.shelfWrites_sameRegs hs t ws
  | counterAdd n a => exact State.addCounter_sameRegs hs t n a
  | hostAdd n a => exact State.addHost_sameRegs hs t n a
  | loopPending core lvl v =>
    cases core with
    | none => exact State.modTable_sameRegs hs t rfl
    | some k => exact State.modCore_sameRegs hs k ⟨rfl, rfl, rfl⟩
  | qmove k q => exact (s.setQst_sameUnits k q _).sameRegs
  | request k q n gs =>
    have hmem := (s.setMem_sameUnits { s.mem with granules := s.mem.granules ++ gs }).sameRegs
    dsimp only [State.applyEff]
    split
    · exact hmem
    · exact hmem.trans (State.modCore_sameRegs (s := { s with mem := { s.mem with granules := s.mem.granules ++ gs } }) hs k ⟨rfl, rfl, rfl⟩)
  | zeroFill k as =>
    obtain ⟨hsreg, hpred, hvreg⟩ := (s.core k).putAll_sameRegs (as.map fun a => (a, 0xFF, 0))
    exact State.modCore_sameRegs hs k ⟨hsreg, hpred, hvreg⟩

/-- A store that touches its banks owes its data for the next cycle, and changes no register (R146). -/
theorem State.applyEff_core_sameRegs {s : State} (hs : Ok cmds s) (t : Nat) {p : Pend} (hp : p.eff.register = false) (k : Nat) :
    (s.core k).SameRegs ((s.applyEff t p).core k) := by
  obtain ⟨due, eff, tcc, pc, slot, locs, drains⟩ := p
  cases eff with
  | spdTouch ws =>
    have hok : Ok cmds (s.modTable t fun b => { b with pend := b.pend ++ [⟨due + 1, .spdWrite (ws.map fun w =>
      if (s.touchFault t w).isNone then w else { w with bits := [] }), tcc, pc, slot, locs, drains⟩] }) :=
      State.modTable_ok hs fun _ hx => hx
    have hfaults := State.accFaults_sameRegs hok t false (ws.filterMap (s.touchFault t ·))
    exact ⟨hfaults.sreg k, hfaults.pred k, hfaults.vreg k⟩
  | _ =>
    have h := State.applyEff_sameRegs hs t hp rfl
    exact ⟨h.sreg k, h.pred k, h.vreg k⟩

/-- Core `k` with what an effect writes into its registers; s0 and p0 are not written (R28). -/
def Core.afterEff (c : Core) (k : Nat) : Eff → Core
  | .sreg k' r v => if k' = k ∧ r ≠ 0 then { c with sreg := SMap.set 0 c.sreg r v } else c
  | .pred k' i v => if k' = k ∧ i ≠ 0
    then { c with pred := if v then c.pred ||| BitVec.ofNat 8 (1 <<< i) else c.pred &&& ~~~(BitVec.ofNat 8 (1 <<< i)) } else c
  | .lanes k' r vs => if k' = k then { c with vreg := SMap.setAll 0 c.vreg (vs.map (fun x => (64 * r + x.1, x.2))) } else c
  | _ => c

/-- What an effect leaves in the registers of a core. -/
theorem State.applyEff_core {s : State} (hs : Ok cmds s) (t : Nat) (p : Pend) (k : Nat) :
    ((s.core k).afterEff k p.eff).SameRegs ((s.applyEff t p).core k) := by
  obtain ⟨due, eff, tcc, pc, slot, locs, drains⟩ := p
  cases eff with
  | sreg k' r | pred k' r =>
    dsimp only [State.applyEff, Core.afterEff]
    rw [State.core_modCore hs.cores_.1]
    by_cases hk : k = k'
    · by_cases hr : r = 0 <;> simp [hk, hr, Core.SameRegs.refl]
    · simp [hk, Ne.symm hk, Core.SameRegs.refl]
  | lanes k' =>
    dsimp only [State.applyEff, Core.afterEff]
    rw [State.core_modCore hs.cores_.1]
    by_cases hk : k = k'
    · simp [hk, Core.SameRegs.refl]
    · simp [hk, Ne.symm hk, Core.SameRegs.refl]
  | _ => exact State.applyEff_core_sameRegs hs t rfl k

/-- The value that an effect gives to scalar register `r` of core `k`. -/
def Eff.sregValue (k r : Nat) : Eff → Option Word
  | .sreg k' r' v => if k' = k ∧ r' = r then some v else none
  | _ => none

/-- The value that an effect gives to predicate `i` of core `k`. -/
def Eff.predValue (k i : Nat) : Eff → Option Bool
  | .pred k' i' v => if k' = k ∧ i' = i then some v else none
  | _ => none

/-- The value that an effect gives to lane `l` of vector register `r` of core `k`. -/
def Eff.laneValue (k r l : Nat) : Eff → Option Word
  | .lanes k' r' vs => if k' = k ∧ r' = r then vs.reverse.lookup l else none
  | _ => none

theorem Eff.sregValue_of_not_register {e : Eff} (h : e.register = false) (k r : Nat) : e.sregValue k r = none := by
  cases e with
  | sreg => cases h
  | _ => rfl

theorem Eff.predValue_of_not_register {e : Eff} (h : e.register = false) (k i : Nat) : e.predValue k i = none := by
  cases e with
  | pred => cases h
  | _ => rfl

theorem Eff.laneValue_of_not_register {e : Eff} (h : e.register = false) (k r l : Nat) : e.laneValue k r l = none := by
  cases e with
  | lanes => cases h
  | _ => rfl

theorem Core.afterEff_sreg {c : Core} (hc : CoreOk c) (k : Nat) (e : Eff) {r : Nat} (hr : r ≠ 0) :
    SMap.get 0 (c.afterEff k e).sreg r = (e.sregValue k r).getD (SMap.get 0 c.sreg r) := by
  cases e with
  | sreg k' r' v =>
    dsimp only [Core.afterEff, Eff.sregValue]
    by_cases hw : k' = k ∧ r' ≠ 0
    · rw [if_pos hw, SMap.get_set hc.sreg_]
      by_cases e : r' = r
      · simp [hw.1, e]
      · simp [e, Ne.symm e]
    · have hno : ¬(k' = k ∧ r' = r) := fun h => hw ⟨h.1, h.2 ▸ hr⟩
      simp [hw, hno]
  | pred | lanes => dsimp only [Core.afterEff]; split <;> rfl
  | _ => rfl

theorem Core.afterEff_sreg_zero {c : Core} (hc : CoreOk c) (k : Nat) (e : Eff) :
    SMap.get 0 (c.afterEff k e).sreg 0 = SMap.get 0 c.sreg 0 := by
  cases e with
  | sreg k' r v =>
    dsimp only [Core.afterEff]
    split
    · next h => rw [SMap.get_set hc.sreg_, if_neg (Ne.symm h.2)]
    · rfl
  | pred | lanes => dsimp only [Core.afterEff]; split <;> rfl
  | _ => rfl

theorem getLsbD_one_shiftLeft {j : Nat} (i : Nat) (hj : j < 8) : (BitVec.ofNat 8 (1 <<< i)).getLsbD j = decide (i = j) := by
  rw [BitVec.getLsbD_ofNat, Nat.one_shiftLeft, Nat.testBit_two_pow]
  simp [hj]

/-- A predicate bit after the write of bit `i`. -/
theorem getLsbD_putBit (c : BitVec 8) (i : Nat) (v : Bool) {j : Nat} (hj : j < 8) :
    (if v then c ||| BitVec.ofNat 8 (1 <<< i) else c &&& ~~~(BitVec.ofNat 8 (1 <<< i))).getLsbD j = if i = j then v else c.getLsbD j := by
  cases v with
  | true =>
    rw [if_pos rfl, BitVec.getLsbD_or, getLsbD_one_shiftLeft i hj]
    by_cases e : i = j <;> simp [e]
  | false =>
    rw [if_neg Bool.false_ne_true, BitVec.getLsbD_and, BitVec.getLsbD_not, getLsbD_one_shiftLeft i hj]
    by_cases e : i = j <;> simp [e, hj]

theorem Core.afterEff_pred (c : Core) (k : Nat) (e : Eff) {i : Nat} (hi : i ≠ 0) (hlt : i < 8) :
    (c.afterEff k e).pred.getLsbD i = (e.predValue k i).getD (c.pred.getLsbD i) := by
  cases e with
  | pred k' i' v =>
    dsimp only [Core.afterEff, Eff.predValue]
    by_cases hw : k' = k ∧ i' ≠ 0
    · rw [if_pos hw, getLsbD_putBit c.pred i' v hlt]
      by_cases e : i' = i <;> simp [hw.1, e]
    · have hno : ¬(k' = k ∧ i' = i) := fun h => hw ⟨h.1, h.2 ▸ hi⟩
      rw [if_neg hw, if_neg hno]
      rfl
  | sreg | lanes => dsimp only [Core.afterEff]; split <;> rfl
  | _ => rfl

theorem Core.afterEff_pred_zero (c : Core) (k : Nat) (e : Eff) : (c.afterEff k e).pred.getLsbD 0 = c.pred.getLsbD 0 := by
  cases e with
  | pred k' i v =>
    dsimp only [Core.afterEff]
    split
    · next h => rw [getLsbD_putBit c.pred i v (by decide), if_neg h.2]
    · rfl
  | sreg | lanes => dsimp only [Core.afterEff]; split <;> rfl
  | _ => rfl

/-- Lanes of different registers stand at different keys. -/
theorem lookup_lanes (vs : List (Nat × Word)) (r' : Nat) {r l : Nat} (hl : l < 64) (hvs : ∀ x ∈ vs, x.1 < 64) :
    (vs.map (fun x => (64 * r' + x.1, x.2))).lookup (64 * r + l) = if r' = r then vs.lookup l else none := by
  induction vs with
  | nil => simp
  | cons x vs ih =>
    obtain ⟨i, v⟩ := x
    have hi : i < 64 := hvs (i, v) (by simp)
    have hkey : (64 * r + l == 64 * r' + i) = (decide (r' = r) && (l == i)) := by
      rw [Bool.eq_iff_iff]
      simp
      omega
    rw [List.map_cons, List.lookup_cons, hkey, ih fun x hx => hvs x (by simp [hx]), List.lookup_cons]
    by_cases e : r' = r <;> simp [e]

theorem Core.afterEff_lanes {c : Core} (hc : CoreOk c) (k : Nat) {e : Eff} (r : Nat) {l : Nat} (hl : l < 64)
    (he : ∀ k' r' vs, e = .lanes k' r' vs → ∀ x ∈ vs, x.1 < 64) :
    SMap.get 0 (c.afterEff k e).vreg (64 * r + l) = (e.laneValue k r l).getD (SMap.get 0 c.vreg (64 * r + l)) := by
  cases e with
  | lanes k' r' vs =>
    have hlookup := lookup_lanes vs.reverse r' (r := r) hl fun x hx => he k' r' vs rfl x (List.mem_reverse.1 hx)
    dsimp only [Core.afterEff, Eff.laneValue]
    by_cases hk : k' = k
    · rw [if_pos hk, SMap.get_setAll hc.vreg_, ← List.map_reverse, hlookup]
      simp [hk]
    · simp [hk]
  | sreg | pred => dsimp only [Core.afterEff]; split <;> rfl
  | _ => rfl

/-! ### One due effect after the other -/

/-- A due effect becomes visible; a store that has only touched its banks does not yet (R146). -/
def State.makeVisible (s : State) (t : Nat) (p : Pend) : State :=
  match p.eff with
  | .spdTouch _ => s.applyEff t p
  | _ => (s.applyEff t p).noteVisible t p

theorem State.makeVisible_eq (s : State) (t : Nat) (p : Pend) :
    s.makeVisible t p = s.applyEff t p ∨ s.makeVisible t p = (s.applyEff t p).noteVisible t p := by
  unfold State.makeVisible
  split
  · exact .inl rfl
  · exact .inr rfl

theorem State.makeVisible_ok {s : State} (hs : Ok cmds s) (t : Nat) (p : Pend) : Ok cmds (s.makeVisible t p) := by
  obtain h | h := s.makeVisible_eq t p <;> rw [h]
  · exact State.applyEff_ok hs
  · exact State.noteVisible_ok (State.applyEff_ok hs)

theorem State.applyEff_sameRegs_makeVisible {s : State} (hs : Ok cmds s) (t : Nat) (p : Pend) :
    (s.applyEff t p).SameRegs (s.makeVisible t p) := by
  obtain h | h := s.makeVisible_eq t p <;> rw [h]
  · exact .refl _
  · exact State.noteVisible_sameRegs (State.applyEff_ok hs) t p

theorem State.makeVisible_core {s : State} (hs : Ok cmds s) (t : Nat) (p : Pend) (k : Nat) :
    ((s.core k).afterEff k p.eff).SameRegs ((s.makeVisible t p).core k) := by
  have h := State.applyEff_sameRegs_makeVisible hs t p
  exact (State.applyEff_core hs t p k).trans ⟨h.sreg k, h.pred k, h.vreg k⟩

theorem State.applyEff_pend {s : State} (hs : Ok cmds s) (t : Nat) {p : Pend} (hp : p.eff.extra = 0) (n : Nat) :
    ((s.applyEff t p).table n).pend = (s.table n).pend := by
  cases hr : p.eff.register with
  | false => exact (State.applyEff_sameRegs hs t hr hp).pend n
  | true =>
    obtain ⟨due, eff, tcc, pc, slot, locs, drains⟩ := p
    cases eff with
    | sreg | pred | lanes => rfl
    | _ => cases hr

theorem State.makeVisible_pend {s : State} (hs : Ok cmds s) (t : Nat) {p : Pend} (hp : p.eff.extra = 0) (n : Nat) :
    ((s.makeVisible t p).table n).pend = (s.table n).pend :=
  ((State.applyEff_sameRegs_makeVisible hs t p).pend n).trans (State.applyEff_pend hs t hp n)

/-! ### The order in which due effects are applied -/

/-- A write to the shelf. -/
def Eff.shelfWrite : Eff → Bool
  | .shelf _ => true
  | _ => false

/-- Writes of flag registers first, shelf writes last by core, the others in the order of issue (R91, R113, R151). -/
def dueOrder (due : List Pend) : List Pend :=
  due.filter (·.eff.flagWrite) ++ (due.filter (!·.eff.flagWrite)).filter (!·.eff.shelfWrite) ++
    ((due.filter (!·.eff.flagWrite)).filter (·.eff.shelfWrite)).foldl (fun l p => insertShelf p l) []

/-- The effects that table `n` owes and that are due by cycle `c`. -/
def State.dueBy (s : State) (n c : Nat) : List Pend := (s.table n).pend.filter (fun p => decide (p.due ≤ c))

/-- Table `n` with what is due by cycle `c` no longer owed. -/
def State.dropDue (s : State) (n c : Nat) : State :=
  s.modTable n (fun b => { b with pend := b.pend.filter (fun p => !decide (p.due ≤ c)) })

theorem State.applyDue_eq (s : State) (n c : Nat) :
    s.applyDue n c = (dueOrder (s.dueBy n c)).foldl (fun acc p => acc.makeVisible n p) (s.dropDue n c) := rfl

theorem State.dropDue_ok {s : State} (hs : Ok cmds s) (n c : Nat) : Ok cmds (s.dropDue n c) := State.modTable_ok hs fun _ hx => hx

theorem mem_insertShelf (x p : Pend) (ps : List Pend) : x ∈ insertShelf p ps ↔ x = p ∨ x ∈ ps := by
  induction ps with
  | nil => simp [insertShelf]
  | cons q ps ih =>
    rw [insertShelf]
    split
    · simp only [List.mem_cons, ih]
      exact or_left_comm
    · exact List.mem_cons

theorem mem_foldl_insertShelf (x : Pend) (ps qs : List Pend) : x ∈ ps.foldl (fun l p => insertShelf p l) qs ↔ x ∈ ps ∨ x ∈ qs := by
  induction ps generalizing qs with
  | nil => simp
  | cons p ps ih =>
    rw [List.foldl_cons, ih, mem_insertShelf, List.mem_cons, or_left_comm, or_assoc]

theorem mem_dueOrder (x : Pend) (due : List Pend) : x ∈ dueOrder due ↔ x ∈ due := by
  simp only [dueOrder, List.mem_append, mem_foldl_insertShelf, List.mem_filter]
  cases x.eff.flagWrite <;> cases x.eff.shelfWrite <;> simp

theorem Eff.not_register_of_flagWrite {e : Eff} (h : e.flagWrite = true) : e.register = false := by
  cases e with
  | accFlagReg | clearBits => rfl
  | _ => cases h

theorem Eff.not_register_of_shelfWrite {e : Eff} (h : e.shelfWrite = true) : e.register = false := by
  cases e with
  | shelf => rfl
  | _ => cases h

/-- Among the writes of registers the order of issue is kept. -/
theorem filterMap_dueOrder {α : Type} {w : Eff → Option α} (hw : ∀ e, e.register = false → w e = none) (due : List Pend) :
    (dueOrder due).filterMap (fun p => w p.eff) = due.filterMap (fun p => w p.eff) := by
  have hflag : ∀ e : Eff, e.flagWrite = true → w e = none := fun e he => hw e (Eff.not_register_of_flagWrite he)
  have hshelf : ∀ e : Eff, e.shelfWrite = true → w e = none := fun e he => hw e (Eff.not_register_of_shelfWrite he)
  have hfirst : (due.filter (·.eff.flagWrite)).filterMap (fun p => w p.eff) = [] :=
    List.filterMap_eq_nil_iff.2 fun p hp => hflag p.eff (List.mem_filter.1 hp).2
  have hlast : (((due.filter (!·.eff.flagWrite)).filter (·.eff.shelfWrite)).foldl (fun l p => insertShelf p l) []).filterMap
      (fun p => w p.eff) = [] := by
    refine List.filterMap_eq_nil_iff.2 fun p hp => ?_
    obtain hp | hp := (mem_foldl_insertShelf p _ []).1 hp
    · exact hshelf p.eff (List.mem_filter.1 hp).2
    · cases hp
  rw [dueOrder, List.filterMap_append, List.filterMap_append, hfirst, hlast, List.filterMap_filter, List.filterMap_filter,
    List.nil_append, List.append_nil]
  refine congrArg (List.filterMap · due) (funext fun p => ?_)
  cases hf : p.eff.flagWrite with
  | true => simp [hflag p.eff hf]
  | false =>
    cases hz : p.eff.shelfWrite with
    | true => simp [hshelf p.eff hz]
    | false => simp

/-! ### All that is due -/

/-- A reading that every step either sets or leaves is at the end what the last of the steps that set it gave. -/
theorem foldl_read_last {σ β α : Type} {P : σ → Prop} {step : σ → β → σ} {read : σ → α} {w : β → Option α} {l : List β} {s : σ}
    (hs : P s) (hP : ∀ s x, P s → P (step s x)) (hread : ∀ s, ∀ x ∈ l, P s → read (step s x) = (w x).getD (read s)) :
    read (l.foldl step s) = ((l.filterMap w).getLast?).getD (read s) := by
  induction l generalizing s with
  | nil => rfl
  | cons x l ih =>
    rw [List.foldl_cons, ih (hP s x hs) (fun s y hy => hread s y (List.mem_cons_of_mem x hy)), hread s x List.mem_cons_self hs]
    cases hw : w x with
    | none => rw [List.filterMap_cons_none hw]; rfl
    | some v => rw [List.filterMap_cons_some hw, List.getLast?_cons]; rfl

theorem State.lastDue_eq {α : Type} (s : State) (n c : Nat) (w : Eff → Option α) :
    s.lastDue n c w = ((s.dueBy n c).filterMap (fun p => w p.eff)).getLast? := by
  unfold State.lastDue State.owed
  rw [List.filter_map, List.filterMap_map]
  rfl

theorem State.mem_owed_of_mem_dueBy {s : State} {n c : Nat} {p : Pend} (h : p ∈ s.dueBy n c) : (p.due, p.eff) ∈ s.owed n ∧ p.due ≤ c := by
  obtain ⟨hmem, hdue⟩ := List.mem_filter.1 h
  exact ⟨List.mem_map.2 ⟨p, hmem, rfl⟩, of_decide_eq_true hdue⟩

/-- What the registers of a core hold once all that is due is visible: the last value in the order of issue (R113). -/
theorem State.applyDue_read {α : Type} {s : State} (hs : Ok cmds s) (n c k : Nat) {read : Core → α} {w : Eff → Option α}
    (hsame : ∀ c d : Core, c.SameRegs d → read d = read c) (hw : ∀ e, e.register = false → w e = none)
    (hread : ∀ b, CoreOk b → ∀ p ∈ s.dueBy n c, read (b.afterEff k p.eff) = (w p.eff).getD (read b)) :
    read ((s.applyDue n c).core k) = (s.lastDue n c w).getD (read (s.core k)) := by
  rw [State.lastDue_eq, ← filterMap_dueOrder hw, State.applyDue_eq]
  refine foldl_read_last (P := Ok cmds) (read := fun u => read (u.core k)) (State.dropDue_ok hs n c)
    (fun u p hu => State.makeVisible_ok hu n p) fun u p hp hu => ?_
  rw [hsame _ _ (State.makeVisible_core hu n p k), hread _ (State.core_ok hu) p ((mem_dueOrder p _).1 hp)]

/-- What no due effect writes stays. -/
theorem State.applyDue_keeps {α : Type} {s : State} (hs : Ok cmds s) (n c k : Nat) {read : Core → α}
    (hsame : ∀ c d : Core, c.SameRegs d → read d = read c) (hread : ∀ b, CoreOk b → ∀ e, read (b.afterEff k e) = read b) :
    read ((s.applyDue n c).core k) = read (s.core k) := by
  rw [State.applyDue_eq]
  exact (foldl_keeps (P := fun u => Ok cmds u ∧ read (u.core k) = read (s.core k)) ⟨State.dropDue_ok hs n c, rfl⟩ fun u p hu =>
    ⟨State.makeVisible_ok hu.1 n p, by rw [hsame _ _ (State.makeVisible_core hu.1 n p k), hread _ (State.core_ok hu.1), hu.2]⟩).2

theorem State.applyDue_pend {s : State} (hs : Ok cmds s) (n c : Nat) (hx : ∀ p ∈ s.dueBy n c, p.eff.extra = 0) :
    ((s.applyDue n c).table n).pend = (s.table n).pend.filter (fun p => !decide (p.due ≤ c)) := by
  have hfold : ∀ (l : List Pend) (u : State), Ok cmds u → (∀ p ∈ l, p.eff.extra = 0) →
      ((l.foldl (fun acc p => acc.makeVisible n p) u).table n).pend = (u.table n).pend := by
    intro l
    induction l with
    | nil => exact fun _ _ _ => rfl
    | cons p l ih =>
      intro u hu hl
      rw [List.foldl_cons, ih _ (State.makeVisible_ok hu n p) fun q hq => hl q (List.mem_cons_of_mem p hq),
        State.makeVisible_pend hu n (hl p List.mem_cons_self)]
  rw [State.applyDue_eq, hfold _ _ (State.dropDue_ok hs n c) fun p hp => hx p ((mem_dueOrder p _).1 hp), State.dropDue,
    State.table_modTable hs.tables_.1, if_pos rfl]

/-- Settles O12: every due effect sets or leaves the register that is read, and among the writes of registers the order of issue is kept. -/
theorem writesBecomeVisible : Obligations.WritesBecomeVisible := by
  unfold Obligations.WritesBecomeVisible
  intro s n c hcan
  have hs := hcan.ok
  refine ⟨fun k r => ?_, fun k i hi => ?_, fun k r l hl hlanes => ?_, fun hx => ?_⟩
  · split
    · next hr =>
      subst hr
      exact State.applyDue_keeps hs n c k (read := fun b => SMap.get 0 b.sreg 0) (fun b d h => by rw [h.sreg])
        fun b hb e => Core.afterEff_sreg_zero hb k e
    · next hr =>
      exact State.applyDue_read hs n c k (read := fun b => SMap.get 0 b.sreg r) (w := Eff.sregValue k r) (fun b d h => by rw [h.sreg])
        (fun e he => Eff.sregValue_of_not_register he k r) fun b hb p _ => Core.afterEff_sreg hb k p.eff hr
  · split
    · next h0 =>
      subst h0
      exact State.applyDue_keeps hs n c k (read := fun b => b.pred.getLsbD 0) (fun b d h => by rw [h.pred])
        fun b _ e => Core.afterEff_pred_zero b k e
    · next h0 =>
      exact State.applyDue_read hs n c k (read := fun b => b.pred.getLsbD i) (w := Eff.predValue k i) (fun b d h => by rw [h.pred])
        (fun e he => Eff.predValue_of_not_register he k i) fun b _ p _ => Core.afterEff_pred b k p.eff h0 hi
  · exact State.applyDue_read hs n c k (read := fun b => SMap.get 0 b.vreg (64 * r + l)) (w := Eff.laneValue k r l)
      (fun b d h => by rw [h.vreg]) (fun e he => Eff.laneValue_of_not_register he k r l)
      fun b hb p hp => Core.afterEff_lanes hb k r hl (hlanes _ (State.mem_owed_of_mem_dueBy hp).1)
  · have hpend := State.applyDue_pend hs n c fun p hp => hx _ (State.mem_owed_of_mem_dueBy hp).1 (State.mem_owed_of_mem_dueBy hp).2
    rw [State.owed, hpend, State.owed, List.filter_map]
    refine congrArg (List.map _) (List.filter_congr fun p _ => ?_)
    rw [Function.comp_apply, ← decide_not]
    exact decide_eq_decide.2 Nat.not_le

end Sys2Proof.Machine
end

section
/-!
The lane mask registers (R61): which lanes a mask leaves unmasked, their reset value, and what a write by address leaves there.
-/
namespace Sys2Proof.Machine

/-- A bit of a pair of registers is one of the low or of the high register. -/
theorem State.getLsbD_csr64 (s : State) (a : Nat) {l : Nat} (hl : l < 64) :
    (s.csr64 a).getLsbD l = (s.csrAt (a + 4 * (l / 32))).getLsbD (l % 32) := by
  unfold State.csr64
  rw [BitVec.getLsbD_append]
  split
  · next h => rw [Nat.div_eq_of_lt h, Nat.mod_eq_of_lt h]; rfl
  · next h => rw [show l / 32 = 1 by omega, show l % 32 = l - 32 by omega]

/-- Mask `n + 1` leaves unmasked the lanes whose bit in register CORE_LMASKn is 1. -/
theorem State.mem_maskLanes_register (s : State) (k : Nat) {n l : Nat} (hn : n < 2) (hl : l < 64) :
    l ∈ s.maskLanes k (BitVec.ofNat 2 (n + 1)) ↔ (s.csr64 (coreReg k (0x100 + 8 * n))).getLsbD l = true := by
  obtain rfl | rfl : n = 0 ∨ n = 1 := by omega
  all_goals simp [State.maskLanes, bitsOf, hl, BitVec.getLsbD]

/-- The half of a lane mask register at its offset (R61). -/
theorem taskReg_lmask {n hi : Nat} (hn : n < 2) (hh : hi < 2) :
    taskReg 0 (BitVec.ofNat 12 (0x100 + 8 * n + 4 * hi)) = some (.lmask n (decide (hi = 1))) := by
  obtain rfl | rfl : n = 0 ∨ n = 1 := by omega
  all_goals obtain rfl | rfl : hi = 0 ∨ hi = 1 := by omega
  all_goals rfl

/-- A lane mask is no part of a hold descriptor. -/
theorem State.taskRegWrite_lmask {s : State} {k n hi : Nat} (v : Word) (hn : n < 2) (hh : hi < 2) :
    s.taskRegWrite (coreReg k (0x100 + 8 * n + 4 * hi)) v = s.setCsr (coreReg k (0x100 + 8 * n + 4 * hi)) v := by
  simp only [State.taskRegWrite, coreReg_offset (k := k) (show 0x100 + 8 * n + 4 * hi < 0x40000 by omega)]
  rw [if_neg (by omega)]

theorem State.writeTaskReg_lmask (s : State) (k n : Nat) (hi : Bool) (v : Word) :
    s.writeTaskReg k (.lmask n hi) v = s.taskRegWrite (coreReg k (0x100 + 8 * n + 4 * b2n hi)) v := by
  have hmask : taskRegMask (.lmask n hi) = BitVec.allOnes 32 := rfl
  unfold State.writeTaskReg
  rw [if_neg (by simp [TaskReg.writable])]
  dsimp only
  rw [taskRegAddr, hmask, BitVec.and_allOnes]

theorem b2n_decide_eq_one {i : Nat} (hi : i < 2) : b2n (decide (i = 1)) = i := by
  obtain rfl | rfl : i = 0 ∨ i = 1 := by omega
  all_goals rfl

theorem State.writeBlock_lmask {s : State} {k n hi : Nat} (v : Word) (hn : n < 2) (hh : hi < 2) :
    s.writeBlock (.core k) (0x100 + 8 * n + 4 * hi) v = s.setCsr (coreReg k (0x100 + 8 * n + 4 * hi)) v := by
  rw [State.writeBlock_core (by omega), taskReg_lmask hn hh, Option.elim_some, State.writeTaskReg_lmask, b2n_decide_eq_one hh,
    State.taskRegWrite_lmask v hn hh]

/-- A lane mask register reads as what has been written to it by address. -/
theorem exec_registerWrite_lmask {s : State} {k n hi : Nat} (v : Word) (hs : s.Canonical) (hr : s.ready = true) (hk : k < 2176)
    (hn : n < 2) (hh : hi < 2) (habs : s.absent (.core k) = false)
    (hl : SMap.get none s.latch (coreReg k (0x100 + 8 * n + 4 * hi)) = none) :
    ∃ u, exec (.registerWrite (BitVec.ofNat 52 (coreReg k (0x100 + 8 * n + 4 * hi))) v) s = .next u ∧
      u.readWord (coreReg k (0x100 + 8 * n + 4 * hi)) = v := by
  have hb : blockOf (coreReg k (0x100 + 8 * n + 4 * hi)) = some (.core k, 0x100 + 8 * n + 4 * hi) := blockOf_coreReg hk (by omega)
  have h4 : coreReg k (0x100 + 8 * n + 4 * hi) % 4 = 0 := by simp only [coreReg, coreBase]; omega
  have hexec := exec_registerWrite (v := v) hb hr (coreReg_lt hk (by omega)) h4
  rw [habs, if_neg Bool.false_ne_true, State.writeBlock_lmask v hn hh] at hexec
  refine ⟨_, hexec, ?_⟩
  rw [State.readWord_of_block hb h4 ((State.absent_congr (s.setCsr_fuses _ _) _).trans habs) hl rfl, State.readBlock,
    State.readCore_csr (by omega) (by omega), State.csrAt_setCsr hs.csr, if_pos rfl]

/-- Every bit of a lane mask is 1 at reset (R61). -/
theorem csrAt_reset_lmask {k n hi : Nat} (hn : n < 2) (hh : hi < 2) :
    State.reset.csrAt (coreReg k (0x100 + 8 * n + 4 * hi)) = 0xFFFFFFFF := by
  have hbase : coreBase 0 ≤ coreReg k (0x100 + 8 * n + 4 * hi) := by simp only [coreReg, coreBase]; omega
  have hcsr : State.reset.csrAt (coreReg k (0x100 + 8 * n + 4 * hi)) = csrReset (coreReg k (0x100 + 8 * n + 4 * hi)) := BitVec.zero_xor
  rw [hcsr, csrReset, if_pos hbase, coreReg_offset (by omega), coreReset, if_pos (by omega)]

/-- Settles O58: a mask's lane stands in the half that holds its bit. -/
theorem laneMasks : Obligations.LaneMasks := by
  refine ⟨fun s k n l hn hl => ?_, fun k n hi _ hn hh => csrAt_reset_lmask hn hh,
    fun s k n hi v hs hr hk hn hh habs hlatch => exec_registerWrite_lmask v hs hr hk hn hh habs hlatch⟩
  rw [s.mem_maskLanes_register k hn hl, s.getLsbD_csr64 _ hl, coreReg, coreReg, Nat.add_assoc]

end Sys2Proof.Machine
end

section
/-!
The state of a hold descriptor (R46): what a write to its first 8 bytes and what an advancing HLOAD make of it.
-/
namespace Sys2Proof.Machine

/-- The field maps of a hold state: pair counter, KX, KY and CC (R46). -/
theorem field_holdState {p kx ky cc : Nat} (hp : p < 32) (hx : kx < 16) (hy : ky < 16) (hc : cc < 4096) :
    let st := BitVec.ofNat 32 (packBits [(5, p), (4, kx), (4, ky), (12, cc)])
    field st 4 0 = p ∧ field st 8 5 = kx ∧ field st 12 9 = ky ∧ field st 24 13 = cc := by
  have hpack : packBits [(5, p), (4, kx), (4, ky), (12, cc)] = p + 2 ^ 5 * kx + 2 ^ 9 * ky + 2 ^ 13 * cc := by
    simp only [packBits, Nat.shiftLeft_eq]; omega
  simp only [field, fieldN, hpack, BitVec.toNat_ofNat, Nat.shiftRight_eq_div_pow]
  omega

/-- CC, KX and KY after an HLOAD: as they were, or moved on in that order when the pair counter wraps. -/
def holdCounts (d : BitVec 256) (st : Word) (adv : Bool) : Nat × Nat × Nat :=
  let p := (field st 4 0 + 1) % 32
  if ¬ adv ∨ p ≠ 0 then (field st 24 13, field st 8 5, field st 12 9)
  else if field st 24 13 + 1 < orElse0 (field d 235 224) 4096 then (field st 24 13 + 1, field st 8 5, field st 12 9)
  else if field st 8 5 + 1 < orElse0 (field d 219 216) 1 then (0, field st 8 5 + 1, field st 12 9)
  else if field st 12 9 + 1 < orElse0 (field d 223 220) 1 then (0, 0, field st 12 9 + 1)
  else (0, 0, 0)

theorem holdAdvance_eq (d : BitVec 256) (st : Word) (adv : Bool) :
    holdAdvance d st adv = BitVec.ofNat 32 (packBits [(5, (field st 4 0 + 1) % 32), (4, (holdCounts d st adv).2.1),
      (4, (holdCounts d st adv).2.2), (12, (holdCounts d st adv).1)]) := rfl

theorem field_lt {n : Nat} (v : BitVec n) (hi lo : Nat) : field v hi lo < 2 ^ (hi + 1 - lo) := Nat.mod_lt _ (by positivity)

/-- A count of zero stands for the greatest or for one. -/
theorem orElse0_le {v d m : Nat} (hv : v ≤ m) (hd : d ≤ m) : orElse0 v d ≤ m := by unfold orElse0; split <;> assumption

theorem holdCounts_lt (d : BitVec 256) (st : Word) (adv : Bool) :
    (holdCounts d st adv).1 < 4096 ∧ (holdCounts d st adv).2.1 < 16 ∧ (holdCounts d st adv).2.2 < 16 := by
  have hcc : field st 24 13 < 4096 := field_lt st 24 13
  have hkx : field st 8 5 < 16 := field_lt st 8 5
  have hky : field st 12 9 < 16 := field_lt st 12 9
  have hcn := orElse0_le (field_lt d 235 224).le (le_refl 4096)
  have hwx := orElse0_le (field_lt d 219 216).le (show 1 ≤ 2 ^ 4 by decide)
  have hwy := orElse0_le (field_lt d 223 220).le (show 1 ≤ 2 ^ 4 by decide)
  unfold holdCounts
  dsimp only
  split_ifs <;> simp only <;> omega

/-- The state after an HLOAD holds the moved pair counter and counts. -/
theorem field_holdAdvance (d : BitVec 256) (st : Word) (adv : Bool) :
    field (holdAdvance d st adv) 4 0 = (field st 4 0 + 1) % 32 ∧ field (holdAdvance d st adv) 8 5 = (holdCounts d st adv).2.1 ∧
      field (holdAdvance d st adv) 12 9 = (holdCounts d st adv).2.2 ∧ field (holdAdvance d st adv) 24 13 = (holdCounts d st adv).1 := by
  obtain ⟨hcc, hkx, hky⟩ := holdCounts_lt d st adv
  rw [holdAdvance_eq]
  exact field_holdState (Nat.mod_lt _ (by decide)) hkx hky hcc

/-- Where the pair counter does not wrap, or the HLOAD does not advance, the counts stay. -/
theorem holdCounts_stay (d : BitVec 256) {st : Word} {adv : Bool} (h : adv = false ∨ field st 4 0 ≠ 31) :
    holdCounts d st adv = (field st 24 13, field st 8 5, field st 12 9) := by
  have hp : field st 4 0 < 32 := field_lt st 4 0
  exact if_pos (h.imp (fun ha => by simp [ha]) fun hne => by omega)

/-- Where it wraps, CC moves on; KX when CC wraps; KY when both do. -/
theorem holdCounts_wrap {d : BitVec 256} {st : Word} (hp : field st 4 0 = 31) {cn wx wy : Nat} (hcn : orElse0 (field d 235 224) 4096 = cn)
    (hwx : orElse0 (field d 219 216) 1 = wx) (hwy : orElse0 (field d 223 220) 1 = wy) (hcc : field st 24 13 < cn) (hkx : field st 8 5 < wx)
    (hky : field st 12 9 < wy) : holdCounts d st true = ((field st 24 13 + 1) % cn,
      if field st 24 13 + 1 = cn then (field st 8 5 + 1) % wx else field st 8 5,
      if field st 24 13 + 1 = cn ∧ field st 8 5 + 1 = wx then (field st 12 9 + 1) % wy else field st 12 9) := by
  have hgo : ∀ {x m : Nat}, x < m → x + 1 ≠ m → x + 1 < m := by omega
  simp only [holdCounts, hp, hcn, hwx, hwy]
  by_cases hc : field st 24 13 + 1 = cn
  · by_cases hx : field st 8 5 + 1 = wx
    · by_cases hy : field st 12 9 + 1 = wy
      · simp [hc, hx, hy]
      · simp [hc, hx, hgo hky hy, Nat.mod_eq_of_lt]
    · simp [hc, hx, hgo hkx hx, Nat.mod_eq_of_lt]
  · simp [hc, hgo hcc hc, Nat.mod_eq_of_lt]

/-- Settles O59: the counts of the new state, field by field. -/
theorem holdStateAdvances : Obligations.HoldStateAdvances := by
  refine ⟨fun s k n j v hs hn hj => ?_, fun d st adv cn wx wy hcn hwx hwy hcc hkx hky => ?_⟩
  · rw [State.csrAt_taskRegWrite_hldDesc hs hn (by omega), if_pos ⟨rfl, hj⟩]
  · obtain ⟨hp, hx, hy, hc⟩ := field_holdAdvance d st adv
    rw [hx, hy, hc]
    refine ⟨hp, fun h => ?_, fun ha hw => ?_⟩
    · rw [holdCounts_stay d h]
      exact ⟨rfl, rfl, rfl⟩
    · rw [ha, holdCounts_wrap hw hcn.symm hwx.symm hwy.symm hcc hkx hky]
      exact ⟨rfl, rfl, rfl⟩

end Sys2Proof.Machine
end

section
/-!
ARD and ARDR (R59, R96 to R99): what they owe, and the event of an entry that does not exist.
-/
namespace Sys2Proof.Machine

variable {cmds : List Instr}

/-- Effects that agree in the acting cores are the same effects. -/
theorem State.inActors_congr {s : State} {h : Hdr} {f g : Nat → List (Nat × Eff)} (hfg : ∀ x ∈ s.actors h, f x.2 = g x.2) :
    s.inActors h f = s.inActors h g := List.flatMap_congr fun x hx => hfg x hx

/-- An event of no core is none (R362). -/
@[simp] theorem State.accEvent_nil (s : State) (h : Hdr) (code n e : Nat) : s.accEvent h code n e [] = s := rfl

/-- Of several cores the event names the first (R362). -/
theorem State.accEvent_cons (s : State) (h : Hdr) (code n e : Nat) (x : Nat × Nat) (xs : List (Nat × Nat)) :
    s.accEvent h code n e (x :: xs) = s.raiseTable h.table code clsNote (n + 2 ^ 3 * e + 2 ^ 9 * x.1 + 2 ^ 15 * h.pc.toNat) := by
  simp only [State.accEvent, Nat.shiftLeft_eq, Nat.mul_comm]

theorem convEffs_keeps (lat k vd : Nat) (cs : List (Nat × Conv)) : ∀ e ∈ convEffs lat k vd cs, e.2.keeps := by
  intro e he
  unfold convEffs at he
  split at he
  · simp only [List.mem_cons, List.not_mem_nil, or_false] at he
    obtain rfl | rfl := he <;> exact Eff.keeps_of trivial
  · simp only [List.mem_cons, List.not_mem_nil, or_false] at he
    exact he ▸ Eff.keeps_of trivial

/-- What ARD gives lane `l` of core `k`: the converted value of the entry, or zero for an entry that does not exist. -/
def State.ardLane (s : State) (k : Nat) (aset : BitVec 3) (entry : BitVec 6) (df : Fmt) (rm : BitVec 3) (spec : Bool) (j : BitVec 4)
    (rv : BitVec 5) (l : Nat) : Conv :=
  if entryAbsent (s.setCfg k aset.toNat) entry.toNat then ⟨0, false, false⟩ else
    df.convert (s.ardMode k rm j rv l) false (readoutVal spec (s.accFlags k aset.toNat l)
      (gridVal (SMap.get 0 (s.core k).accV (accKey l aset.toNat entry.toNat)) (cfgLsb (s.setCfg k aset.toNat))))

/-- What ARDR gives lane `l` of core `k` in its register `i`. -/
def State.ardrLane (s : State) (k : Nat) (aset : BitVec 3) (entry : BitVec 6) (i l : Nat) : Word :=
  if entryAbsent (s.setCfg k aset.toNat) entry.toNat then 0
  else rawWord (SMap.get 0 (s.core k).accV (accKey l aset.toNat entry.toNat)) i

/-- The acting cores in which the entry does not exist. -/
def State.absentIn (s : State) (h : Hdr) (aset : BitVec 3) (entry : BitVec 6) : List (Nat × Nat) :=
  (s.actors h).filter (fun x => entryAbsent (s.setCfg x.2 aset.toNat) entry.toNat)

/-- ARD owes its lanes and flags in every acting core, and reports the cores without the entry. -/
theorem exec_ard_owes {s s1 : State} {h : Hdr} {vd ofmt rv : BitVec 5} {aset rm : BitVec 3} {entry : BitVec 6} {spec : Bool} {j : BitVec 4}
    {df : Fmt} (hs : Ok cmds s) (hi : s.issue h slotV = .go s1) (hw : (Instr.ard h vd aset entry ofmt rm spec j rv).wf = true)
    (hf : Fmt.ofCode ofmt.toNat = some df) :
    ∃ u, s1.Owes u h.table (s1.inActors h (fun k => convEffs 8 k vd.toNat ((List.range 64).map (fun l =>
        (l, s1.ardLane k aset entry df rm spec j rv l))))) ∧
      exec (.ard h vd aset entry ofmt rm spec j rv) s = .next (u.accEvent h 0x2102 aset.toNat entry.toNat (s1.absentIn h aset entry)) := by
  refine ⟨_, State.eachCore_owes (State.issue_go_ok hs hi) h slotV (fun _ k =>
      { reads := Loc.acc k (64 * aset.toNat + entry.toNat) :: (if rm = 4 then [locV k rv, locV k (rv + 1)] else [])
        effs := convEffs 8 k vd.toNat ((List.range 64).map (fun l => (l, s1.ardLane k aset entry df rm spec j rv l))) }) _ rfl
    (State.inActors_keeps fun k => convEffs_keeps _ _ _ _), ?_⟩
  change execArd h vd aset entry ofmt rm spec j rv s = _
  unfold execArd
  rw [slotOp_go hw hi]
  simp only [hf]
  rfl

/-- ARDR owes its registers in every acting core, and reports the cores without the entry. -/
theorem exec_ardr_owes {s s1 : State} {h : Hdr} {vd : BitVec 5} {aset : BitVec 3} {entry : BitVec 6} (hs : Ok cmds s)
    (hi : s.issue h slotV = .go s1) (hw : (Instr.ardr h vd aset entry).wf = true) :
    ∃ u, s1.Owes u h.table (s1.inActors h (fun k => (List.range (if cfgWide (s1.setCfg k aset.toNat) then 8 else 4)).map (fun i =>
        (8, .lanes k (vd.toNat + i) ((List.range 64).map (fun l => (l, s1.ardrLane k aset entry i l))))))) ∧
      exec (.ardr h vd aset entry) s = .next (u.accEvent h 0x2102 aset.toNat entry.toNat (s1.absentIn h aset entry)) := by
  have hwidth : ∀ c : Word, cfgWidth c / 32 = if cfgWide c then 8 else 4 := fun c => by unfold cfgWidth; split <;> rfl
  refine ⟨_, State.eachCore_owes (State.issue_go_ok hs hi) h slotV (fun _ k =>
      { reads := [Loc.acc k (64 * aset.toNat + entry.toNat)]
        effs := (List.range (if cfgWide (s1.setCfg k aset.toNat) then 8 else 4)).map (fun i =>
          (8, .lanes k (vd.toNat + i) ((List.range 64).map (fun l => (l, s1.ardrLane k aset entry i l))))) }) _ rfl
    (State.inActors_keeps fun k e he => ?_), ?_⟩
  · obtain ⟨i, -, rfl⟩ := List.mem_map.1 he
    exact Eff.keeps_of trivial
  · change execArdr h vd aset entry s = _
    unfold execArdr
    rw [slotOp_go hw hi]
    simp only [hwidth]
    rfl

/-- An entry exists in a narrow set, and up to 31 in a wide one (R52). -/
theorem entryAbsent_eq_false {c : Word} {e : Nat} (h : cfgWide c = true → e ≤ 31) : entryAbsent c e = false := by
  unfold entryAbsent
  cases hc : cfgWide c with
  | false => rfl
  | true => simpa using h hc

theorem entryAbsent_of_lt {e : Nat} (h : 31 < e) (c : Word) : entryAbsent c e = cfgWide c := by simp [entryAbsent, h]

/-- Settles O16: where every acting core has the entry no event is raised; above 31 the cores without it are those whose set is wide. -/
theorem accumulatorReads : Obligations.AccumulatorReads := by
  refine ⟨fun s s1 h vd ofmt rv aset rm entry spec j df hs hi hhas => ?_,
    fun s s1 h vd ofmt rv aset rm entry spec j df x rest hs hi habove hwide => ?_⟩
  · have hin : ∀ x ∈ s1.actors h, entryAbsent (s1.setCfg x.2 aset.toNat) entry.toNat = false := fun x hx => entryAbsent_eq_false (hhas x hx)
    have hnone : s1.absentIn h aset entry = [] := List.filter_eq_nil_iff.2 fun x hx => by simp [hin x hx]
    refine ⟨fun hw hf => ?_, fun hw => ?_⟩
    · obtain ⟨u, hu, hexec⟩ := exec_ard_owes hs.ok hi hw hf
      rw [hnone, State.accEvent_nil] at hexec
      refine ⟨u, hexec, Eq.mp (congrArg (s1.Owes u h.table) (State.inActors_congr fun x hx => ?_)) hu⟩
      simp only [State.ardLane, hin x hx, Bool.false_eq_true, if_false]
    · obtain ⟨u, hu, hexec⟩ := exec_ardr_owes hs.ok hi hw
      rw [hnone, State.accEvent_nil] at hexec
      refine ⟨u, hexec, Eq.mp (congrArg (s1.Owes u h.table) (State.inActors_congr fun x hx => ?_)) hu⟩
      simp only [State.ardrLane, hin x hx, Bool.false_eq_true, if_false]
  · have hsome : s1.absentIn h aset entry = x :: rest := by
      simpa only [State.absentIn, entryAbsent_of_lt habove] using hwide
    refine ⟨fun hw hf => ?_, fun hw => ?_⟩
    · obtain ⟨u, hu, hexec⟩ := exec_ard_owes hs.ok hi hw hf
      rw [hsome, State.accEvent_cons] at hexec
      simp only [State.ardLane, entryAbsent_of_lt habove] at hu
      exact ⟨u, hu, hexec⟩
    · obtain ⟨u, hu, hexec⟩ := exec_ardr_owes hs.ok hi hw
      rw [hsome, State.accEvent_cons] at hexec
      simp only [State.ardrLane, entryAbsent_of_lt habove] at hu
      exact ⟨u, hu, hexec⟩

end Sys2Proof.Machine
end

section
/-!
SUPPORT. Operations that act on several cores, one core after the other: what each step leaves of cores and registers, and that the steps
add up.
-/
namespace Sys2Proof.Machine

variable {cmds : List Instr} {s t u : State} {n : Nat} {alike : Core → Core → Prop} {wr : List Nat} {es fs : List (Nat × Eff)}

/-! ### Induction along what has been done -/

/-- An invariant of what has been done holds when all is done. -/
theorem foldl_along {σ β : Type} {f : σ → β → σ} {M : List β → σ → Prop} {l : List β} {a : σ} (h0 : M [] a)
    (hstep : ∀ done x rest b, l = done ++ x :: rest → M done b → M (done ++ [x]) (f b x)) : M l (l.foldl f a) := by
  have key : ∀ rest done b, l = done ++ rest → M done b → M l (rest.foldl f b) := by
    intro rest
    induction rest with
    | nil => exact fun done b e h => by rwa [e, List.append_nil]
    | cons x rest ih => exact fun done b e h => ih (done ++ [x]) (f b x) (by rw [e, List.append_cons]) (hstep done x rest b e h)
  exact key l [] a rfl h0

/-- In a list without repetitions what comes next has not been done yet. -/
theorem ne_of_nodup_split {done rest : List (Nat × Nat)} {x y : Nat × Nat} (h : ((done ++ x :: rest).map (·.2)).Nodup) (hy : y ∈ done) :
    y.2 ≠ x.2 := by
  rw [List.map_append, List.map_cons] at h
  exact fun e => (List.nodup_append.1 h).2.2 y.2 (List.mem_map_of_mem hy) x.2 List.mem_cons_self e

/-! ### Likenesses of cores -/

/-- Two cores alike but for what a read of the scratchpad, an access of the shelf or an operation of the M slot changes at once. -/
def Core.AlikeButUnits (c d : Core) : Prop :=
  { d with accM := c.accM, cfgM := c.cfgM, streamer := c.streamer, outReg := c.outReg, touchCyc := c.touchCyc, touched := c.touched,
           portOwed := c.portOwed, shelfIn := c.shelfIn, shelfOut := c.shelfOut, shstCyc := c.shstCyc } = c

/-- A likeness of cores that holds along several steps, allows what a read of the scratchpad leaves, and goes no further than what a
read, the shelf and the M slot change. -/
structure Likeness (alike : Core → Core → Prop) : Prop where
  refl  : ∀ c, alike c c
  trans : ∀ {c d e}, alike c d → alike d e → alike c e
  read  : ∀ c o y b, alike c { c with outReg := o, touchCyc := y, touched := b }
  units : ∀ {c d}, alike c d → c.AlikeButUnits d

theorem likeness_alikeButReads : Likeness Core.AlikeButReads where
  refl _ := rfl
  trans {c _ _} h g := by
    unfold Core.AlikeButReads at h g ⊢
    exact (congrArg (fun x : Core => { x with
      outReg := c.outReg, touchCyc := c.touchCyc, touched := c.touched, portOwed := c.portOwed, shelfIn := c.shelfIn
      shelfOut := c.shelfOut, shstCyc := c.shstCyc }) g).trans h
  read _ _ _ _ := rfl
  units {c _} h := (congrArg (fun x : Core => { x with accM := c.accM, cfgM := c.cfgM, streamer := c.streamer }) h :)

theorem likeness_alikeButMatrix : Likeness Core.AlikeButMatrix where
  refl _ := rfl
  trans {c _ _} h g := by
    unfold Core.AlikeButMatrix at h g ⊢
    exact (congrArg (fun x : Core => { x with
      accM := c.accM, cfgM := c.cfgM, streamer := c.streamer, outReg := c.outReg, touchCyc := c.touchCyc, touched := c.touched }) g).trans h
  read _ _ _ _ := rfl
  units {c _} h := (congrArg (fun x : Core => { x with
    portOwed := c.portOwed, shelfIn := c.shelfIn, shelfOut := c.shelfOut, shstCyc := c.shstCyc }) h :)

theorem Core.AlikeButUnits.spd {c d : Core} (h : c.AlikeButUnits d) : d.spd = c.spd := (congrArg Core.spd h :)
theorem Core.AlikeButUnits.spdErr {c d : Core} (h : c.AlikeButUnits d) : d.spdErr = c.spdErr := (congrArg Core.spdErr h :)
theorem Core.AlikeButUnits.codebook {c d : Core} (h : c.AlikeButUnits d) : d.codebook = c.codebook := (congrArg Core.codebook h :)

/-! ### Steps that change cores no further than a likeness allows -/

theorem State.ActsOnly.recs (h : s.ActsOnly t n alike wr) : t.recs = s.recs := (congrArg State.recs h.rest :)

/-- The clock of a region does not depend on what an operation changes. -/
theorem State.ActsOnly.cyc (h : s.ActsOnly t n alike wr) (r : Nat) : t.cyc r = s.cyc r := by rw [← h.rest]; rfl

theorem State.ActsOnly.refl (L : Likeness alike) (s : State) (n : Nat) (wr : List Nat) : s.ActsOnly s n alike wr :=
  ⟨rfl, fun _ _ => rfl, rfl, fun _ _ _ => ⟨rfl, rfl⟩, fun _ => ⟨fun _ _ => ⟨rfl, rfl⟩, rfl⟩, fun _ => L.refl _⟩

theorem State.ActsOnly.trans (L : Likeness alike) (h : s.ActsOnly t n alike wr) (g : t.ActsOnly u n alike wr) : s.ActsOnly u n alike wr where
  rest := (congrArg (fun x : State => { x with tables := s.tables, csr := s.csr, marks := s.marks, cores := s.cores }) g.rest).trans h.rest
  others m hm := (g.others m hm).trans (h.others m hm)
  own := (congrArg (fun x : Table => { x with
    pend := (s.table n).pend, busyUntil := (s.table n).busyUntil, undrained := (s.table n).undrained }) g.own).trans h.own
  regs a ha hw := ⟨(g.regs a ha hw).1.trans (h.regs a ha hw).1, (g.regs a ha hw).2.trans (h.regs a ha hw).2⟩
  calm hd := by
    obtain ⟨hregs, hund⟩ := h.calm hd
    obtain ⟨gregs, gund⟩ := g.calm (by rw [h.recs, hd])
    exact ⟨fun a ha => ⟨(gregs a ha).1.trans (hregs a ha).1, (gregs a ha).2.trans (hregs a ha).2⟩, gund.trans hund⟩
  cores k := L.trans (h.cores k) (g.cores k)

/-- What only owes effects changes no core. -/
theorem State.OwesOnly.core (h : s.OwesOnly t n) (k : Nat) : t.core k = s.core k := by
  unfold State.core
  rw [show t.cores = s.cores from (congrArg State.cores h.rest :)]

theorem State.OwesOnly.actsOnly (L : Likeness alike) (h : s.OwesOnly t n) (wr : List Nat) : s.ActsOnly t n alike wr where
  rest := by
    have hcores : t.cores = s.cores := (congrArg State.cores h.rest :)
    rw [← hcores]
    exact h.rest
  others := h.others
  own := h.own
  regs a ha _ := h.regs a ha
  calm hd := by
    obtain ⟨hcsr, hmarks, hund⟩ := h.calm hd
    exact ⟨fun a _ => ⟨by unfold State.csrAt; rw [hcsr], by rw [hmarks]⟩, hund⟩
  cores k := by rw [h.core k]; exact L.refl _

/-- One core changed no further than the likeness allows. -/
theorem State.ActsOnly.modCore (L : Likeness alike) (hs : SMap.wf Core.reset s.cores = true) (n : Nat) (wr : List Nat) (k : Nat)
    {f : Core → Core} (hf : alike (s.core k) (f (s.core k))) : s.ActsOnly (s.modCore k f) n alike wr where
  rest := rfl
  others _ _ := rfl
  own := rfl
  regs _ _ _ := ⟨rfl, rfl⟩
  calm _ := ⟨fun _ _ => ⟨rfl, rfl⟩, rfl⟩
  cores j := by
    rw [State.core_modCore hs]
    split
    · next e => exact e ▸ hf
    · exact L.refl _

/-- One of the registers written that the operation writes. -/
theorem State.ActsOnly.setCsr (L : Likeness alike) (hs : SMap.wf 0 s.csr = true) (n : Nat) {a : Nat} (ha : a ∈ wr) (v : Word) :
    s.ActsOnly (s.setCsr a v) n alike wr where
  rest := rfl
  others _ _ := rfl
  own := rfl
  regs b _ hb := ⟨by rw [State.csrAt_setCsr hs, if_neg (ne_of_mem_of_not_mem ha hb).symm], rfl⟩
  calm _ := ⟨fun b hb => ⟨by rw [State.csrAt_setCsr hs, if_neg (ne_of_mem_of_not_mem ha hb).symm], rfl⟩, rfl⟩
  cores _ := L.refl _

/-- From `s` to `t` an operation of table `n` has owed no effect: at the most it has noted reads and kept the table busy longer. -/
structure State.OwesNothing (s t : State) (n : Nat) : Prop where
  only  : s.OwesOnly t n
  owed  : t.owed n = s.owed n
  later : (s.table n).busyUntil ≤ (t.table n).busyUntil

theorem State.OwesNothing.refl (s : State) (n : Nat) : s.OwesNothing s n := ⟨.refl s n, rfl, le_refl _⟩

theorem State.OwesNothing.trans (h : s.OwesNothing t n) (g : t.OwesNothing u n) : s.OwesNothing u n :=
  ⟨h.only.trans g.only, g.owed.trans h.owed, h.later.trans g.later⟩

theorem State.noteReads_owesNothing (hs : Ok cmds s) (n slot : Nat) (pc : BitVec 17) (ls : List Loc) :
    s.OwesNothing (s.noteReads n slot pc ls) n := by
  obtain ⟨honly, hpend, hbusy⟩ := State.noteReads_owes hs n slot pc ls
  exact ⟨honly, by unfold State.owed; rw [hpend], hbusy.ge⟩

/-- Noting a conflict of banks writes the detector's registers alone. -/
theorem State.noteConflict_owesNothing (hs : Ok cmds s) (n slot : Nat) (pc : BitVec 17) (k a : Nat) (w : Pend) :
    s.OwesNothing (s.noteConflict n slot pc k a w) n := by
  unfold State.noteConflict
  split
  · exact .refl s n
  · next hd =>
    have htables : ∀ z, (s.hazard n z).table n = s.table n := fun z => by unfold State.table; rw [State.hazard_tables]
    exact ⟨State.hazard_owes hs (by simpa using hd) n _, by unfold State.owed; rw [htables], by rw [htables]⟩

theorem State.noteSpdRead_owesNothing (hs : Ok cmds s) (n slot : Nat) (pc : BitVec 17) (k : Nat) (as : List Nat) :
    s.OwesNothing (s.noteSpdRead n slot pc k as) n := by
  unfold State.noteSpdRead
  split
  · exact .refl s n
  · dsimp only
    split
    · exact (State.noteConflict_owesNothing hs ..).trans (State.noteReads_owesNothing (State.noteConflict_ok hs) ..)
    · exact State.noteReads_owesNothing hs ..

/-- From `s` to `t` an operation of table `n` has acted and owes the effects `es`, and its table is busy no less long than before. -/
structure State.ActsFurther (s t : State) (n : Nat) (alike : Core → Core → Prop) (wr : List Nat) (es : List (Nat × Eff)) : Prop where
  acts  : s.ActsOwes t n alike wr es
  later : (s.table n).busyUntil ≤ (t.table n).busyUntil

theorem State.ActsFurther.only (h : s.ActsFurther t n alike wr es) : s.ActsOnly t n alike wr := h.acts.only

/-- Steps that owe nothing of their own. -/
theorem State.ActsOnly.further (h : s.ActsOnly t n alike wr) (ho : t.owed n = s.owed n) (hb : (s.table n).busyUntil ≤ (t.table n).busyUntil) :
    s.ActsFurther t n alike wr [] :=
  ⟨⟨h, by rw [ho, List.map_nil, List.append_nil], fun _ he => absurd he List.not_mem_nil⟩, hb⟩

theorem State.ActsFurther.refl (L : Likeness alike) (s : State) (n : Nat) (wr : List Nat) : s.ActsFurther s n alike wr [] :=
  (State.ActsOnly.refl L s n wr).further rfl (le_refl _)

theorem State.ActsFurther.trans (L : Likeness alike) (h : s.ActsFurther t n alike wr es) (g : t.ActsFurther u n alike wr fs) :
    s.ActsFurther u n alike wr (es ++ fs) := by
  refine ⟨⟨h.only.trans L g.only, ?_, fun e he => ?_⟩, h.later.trans g.later⟩
  · rw [g.acts.owed, h.acts.owed, h.only.cyc, List.map_append, List.append_assoc]
  · obtain he | he := List.mem_append.1 he
    · exact (h.acts.busy e he).trans g.later
    · rw [← h.only.cyc n]
      exact g.acts.busy e he

/-- A step that owes nothing of its own, after others. -/
theorem State.ActsFurther.then (L : Likeness alike) (h : s.ActsFurther t n alike wr es) (g : t.ActsFurther u n alike wr []) :
    s.ActsFurther u n alike wr es := by simpa using h.trans L g

theorem State.OwesNothing.further (L : Likeness alike) (h : s.OwesNothing t n) (wr : List Nat) : s.ActsFurther t n alike wr [] :=
  (h.only.actsOnly L wr).further h.owed h.later

theorem State.ActsFurther.modCore (L : Likeness alike) (hs : SMap.wf Core.reset s.cores = true) (n : Nat) (wr : List Nat) (k : Nat)
    {f : Core → Core} (hf : alike (s.core k) (f (s.core k))) : s.ActsFurther (s.modCore k f) n alike wr [] :=
  (State.ActsOnly.modCore L hs n wr k hf).further rfl (le_refl _)

theorem State.ActsFurther.setCsr (L : Likeness alike) (hs : SMap.wf 0 s.csr = true) (n : Nat) {a : Nat} (ha : a ∈ wr) (v : Word) :
    s.ActsFurther (s.setCsr a v) n alike wr [] := (State.ActsOnly.setCsr L hs n ha v).further rfl (le_refl _)

/-- A table kept busy longer. -/
theorem State.OwesNothing.busyUntil (hs : SMap.wf Table.reset s.tables = true) (n : Nat) {f : Nat → Nat} (hf : ∀ m, m ≤ f m) :
    s.OwesNothing (s.modTable n (fun b => { b with busyUntil := f b.busyUntil })) n := by
  have htab := State.table_modTable hs n n (fun b => { b with busyUntil := f b.busyUntil })
  rw [if_pos rfl] at htab
  refine ⟨.modTable hs n _ rfl fun _ => rfl, ?_, ?_⟩
  · unfold State.owed; rw [htab]
  · rw [htab]; exact hf _

theorem State.busyFor_owesNothing (hs : SMap.wf Table.reset s.tables = true) (n m : Nat) : s.OwesNothing (s.busyFor n m) n :=
  .busyUntil hs n fun _ => Nat.le_max_left _ _

theorem le_foldl_max {β : Type} (f : β → Nat) (l : List β) (m : Nat) : m ≤ l.foldl (fun m x => Nat.max m (f x)) m := by
  induction l generalizing m with
  | nil => exact le_refl m
  | cons x l ih => exact (Nat.le_max_left _ _).trans (ih _)

theorem State.busyWith_owesNothing (hs : SMap.wf Table.reset s.tables = true) (n : Nat) (fs : List (Nat × Eff)) :
    s.OwesNothing (s.busyWith n fs) n :=
  .busyUntil hs n fun m => le_foldl_max (fun e : Nat × Eff => s.cyc n + e.1 + e.2.extra) fs m

/-- Effects posted that leave those already owed as they are. -/
theorem State.ActsFurther.post (L : Likeness alike) (hs : SMap.wf Table.reset s.tables = true) (n slot : Nat) (pc : BitVec 17) (chk : Bool)
    (wr : List Nat) (hk : ∀ e ∈ es, e.2.keeps) : s.ActsFurther (s.post n slot pc chk es) n alike wr es := by
  have howes := State.post_owes hs n slot pc chk es hk
  refine ⟨⟨howes.only.actsOnly L wr, howes.owed, howes.busy⟩, ?_⟩
  unfold State.post
  rw [State.table_modTable hs, if_pos rfl]
  exact le_foldl_max _ es _

/-! ### Registers that a step leaves alone -/

/-- A core's registers lie at their offset in windows of 256 KiB, and the hazard detector's at offsets that no core register has. -/
theorem coreReg_mod {off : Nat} (k : Nat) (ho : off < 0x40000) : coreReg k off % 0x40000 = off := by
  simp only [coreReg, coreBase]; omega

theorem mod_of_mem_hazardRegs {a : Nat} (h : a ∈ hazardRegs n) : 0x10C0 ≤ a % 0x40000 ∧ a % 0x40000 ≤ 0x10D0 := by
  simp only [hazardRegs, List.mem_cons, List.not_mem_nil, or_false, dlrReg, tblBase] at h
  omega

theorem spdReg_mod {off : Nat} (n : Nat) (ho : off < 0x100) : spdReg n off % 0x40000 = 0x4000 + off := by
  simp only [spdReg, tblBase]; omega

/-- Only states of hold descriptors are written at once. -/
def HoldStates (wr : List Nat) : Prop := ∀ a ∈ wr, 0x280 ≤ a % 0x40000 ∧ a % 0x40000 < 0x290

theorem holdStates_nil : HoldStates [] := fun _ h => absurd h List.not_mem_nil

/-- Every other register keeps its value. -/
theorem State.ActsOnly.csrAt (h : s.ActsOnly t n alike wr) (hwr : HoldStates wr) {a : Nat} (ha : a % 0x40000 < 0x280 ∨ 0x290 ≤ a % 0x40000)
    (hz : a % 0x40000 < 0x10C0 ∨ 0x10D0 < a % 0x40000) : t.csrAt a = s.csrAt a := by
  refine (h.regs a (fun hm => ?_) fun hm => ?_).1
  · have := mod_of_mem_hazardRegs hm
    omega
  · have := hwr a hm
    omega

theorem State.ActsOnly.csrAt_coreReg (h : s.ActsOnly t n alike wr) (hwr : HoldStates wr) (k : Nat) {off : Nat}
    (ho : off < 0x280 ∨ 0x290 ≤ off ∧ off < 0x1000) : t.csrAt (coreReg k off) = s.csrAt (coreReg k off) := by
  have hm := coreReg_mod k (show off < 0x40000 by omega)
  exact h.csrAt hwr (by omega) (by omega)

/-- The lanes that a mask leaves unmasked stay the same. -/
theorem State.ActsOnly.maskLanes (h : s.ActsOnly t n alike wr) (hwr : HoldStates wr) (k : Nat) (msk : BitVec 2) :
    t.maskLanes k msk = s.maskLanes k msk := by
  have hreg : ∀ off, off < 0x110 → t.csrAt (coreReg k off) = s.csrAt (coreReg k off) := fun off ho => h.csrAt_coreReg hwr k (by omega)
  have hpair : ∀ off, off < 0x10C → t.csr64 (coreReg k off) = s.csr64 (coreReg k off) := fun off ho => by
    unfold State.csr64
    rw [hreg off (by omega), show coreReg k off + 4 = coreReg k (off + 4) from Nat.add_assoc .., hreg (off + 4) (by omega)]
  unfold State.maskLanes
  rw [hpair _ (by split <;> omega)]

/-! ### Reads that are served -/

/-- The banks of core `k` that a due effect writes in cycle `c`. -/
def bankWrites (c k : Nat) (m : BitVec 16) (p : Nat × Eff) : BitVec 16 :=
  match p.2 with
  | .spdWrite ws => if p.1 = c + 1 then ws.foldl (fun m w => if w.core = k then m ||| w.banks else m) m else m
  | _ => m

/-- An effect that writes a scratchpad. -/
def Eff.writesSpd : Eff → Bool
  | .spdWrite _ => true
  | _ => false

theorem bankWrites_of_not_writesSpd {p : Nat × Eff} (h : p.2.writesSpd = false) (c k : Nat) (m : BitVec 16) : bankWrites c k m p = m := by
  obtain ⟨d, e⟩ := p
  cases e with
  | spdWrite => cases h
  | _ => rfl

theorem State.writeBanks_eq (s : State) (n k : Nat) : s.writeBanks n k = (s.owed n).foldl (bankWrites (s.cyc n) k) 0 := by
  unfold State.owed
  rw [List.foldl_map]
  rfl

theorem State.ActsOwes.writeBanks (h : s.ActsOwes t n alike wr es) (he : ∀ e ∈ es, e.2.writesSpd = false) (k : Nat) :
    t.writeBanks n k = s.writeBanks n k := by
  have hkeep : ∀ (l : List (Nat × Eff)) (m : BitVec 16), (∀ e ∈ l, e.2.writesSpd = false) → l.foldl (bankWrites (s.cyc n) k) m = m := by
    intro l m
    induction l with
    | nil => exact fun _ => rfl
    | cons e l ih =>
      intro hl
      rw [List.foldl_cons, bankWrites_of_not_writesSpd (hl e List.mem_cons_self), ih fun x hx => hl x (List.mem_cons_of_mem e hx)]
  rw [State.writeBanks_eq, State.writeBanks_eq, h.owed, h.only.cyc, List.foldl_append, hkeep]
  intro e hmem
  obtain ⟨x, hx, rfl⟩ := List.mem_map.1 hmem
  exact he x hx

theorem findSome?_congr_left {α β : Type} {f g : α → Option β} {l : List α} (h : ∀ a ∈ l, f a = g a) : l.findSome? f = l.findSome? g := by
  rw [← List.head?_filterMap, ← List.head?_filterMap, List.filterMap_congr h]

/-- The queue that holds an address is one of the 16. -/
theorem State.queueAt_lt {k a : Nat} {q : Nat × Nat} (h : s.queueAt k a = some q) : q.1 < 16 := by
  obtain ⟨i, hi, hq⟩ := List.exists_of_findSome?_eq_some h
  dsimp only at hq
  split at hq
  · exact Option.some.inj hq ▸ List.mem_range.1 hi
  · cases hq

/-- The checks of an access do not depend on what an operation changes. -/
theorem State.ActsOnly.accessFault (h : s.ActsOnly t n alike wr) (hwr : HoldStates wr) (lc k : Nat) (as : List Nat) :
    t.accessFault n lc k as = s.accessFault n lc k as := by
  have hm := spdReg_mod n (show 4 < 0x100 by decide)
  have hbound : t.spdBound n = s.spdBound n := by unfold State.spdBound; rw [h.csrAt hwr (by omega) (by omega)]
  have hreg : ∀ off, 0x600 ≤ off → off < 0x700 → t.csrAt (coreReg k off) = s.csrAt (coreReg k off) := fun off h1 h2 =>
    h.csrAt_coreReg hwr k (by omega)
  have hcfg : ∀ q, q < 16 → t.qcfg k q = s.qcfg k q := fun q hq => by
    unfold State.qcfg qcfgA qcfgB
    rw [hreg _ (by omega) (by omega), hreg _ (by omega) (by omega)]
  have hqueue : ∀ a, t.queueAt k a = s.queueAt k a := fun a => by
    unfold State.queueAt
    refine findSome?_congr_left fun q hq => ?_
    rw [hcfg q (List.mem_range.1 hq)]
  have hheld : ∀ q e, q < 16 → t.entryHeld k q e = s.entryHeld k q e := fun q e hq => by
    unfold State.entryHeld qptr qstat
    rw [hcfg q hq, hreg _ (by omega) (by omega), hreg _ (by omega) (by omega)]
  have hmisuse : t.misuseOf k as = s.misuseOf k as := by
    unfold State.misuseOf
    refine findSome?_congr_left fun a _ => ?_
    rw [hqueue a]
    cases hq : s.queueAt k a with
    | none => rfl
    | some q => simp only [hheld q.1 q.2 (State.queueAt_lt hq)]
  unfold State.accessFault State.boundFault State.misuseFault
  rw [hbound, hmisuse]

/-- A read that is served at first is still served after an operation that schedules no write of a scratchpad. -/
theorem State.ActsOwes.serves {h : Hdr} (ha : s.ActsOwes t h.table alike wr es) (L : Likeness alike) (hwr : HoldStates wr)
    (he : ∀ e ∈ es, e.2.writesSpd = false) {lc k : Nat} {as : List Nat} (hserv : s.serves h lc k as) : t.serves h lc k as := by
  obtain ⟨hfault, hclear⟩ := hserv
  refine ⟨(ha.only.accessFault hwr lc k as).trans hfault, fun a hmem => ?_⟩
  rw [(L.units (ha.only.cores k)).spdErr, ha.writeBanks he]
  exact hclear a hmem

theorem State.ActsOnly.spdBytes (h : s.ActsOnly t n alike wr) (L : Likeness alike) (k : Nat) (as : List Nat) :
    t.spdBytes k as = s.spdBytes k as := by
  unfold State.spdBytes
  rw [(L.units (h.cores k)).spd]

/-- A byte of a word of the scratchpad. -/
theorem Core.byte_word (c : Core) (a : Nat) : BitVec.ofNat 8 ((c.word (a / 4)).toNat >>> (8 * (a % 4))) = SMap.get 0 c.spd a := by
  have hword : (c.word (a / 4)).toNat = leNat (SMap.bytes c.spd (4 * (a / 4)) 4) % 2 ^ 32 := BitVec.toNat_ofNat ..
  have hb : ∀ i, (SMap.get 0 c.spd (4 * (a / 4) + i)).toNat < 256 := fun i => (SMap.get 0 c.spd (4 * (a / 4) + i)).isLt
  have ha : a = 4 * (a / 4) + a % 4 := (Nat.div_add_mod a 4).symm
  have h4 : a % 4 < 4 := Nat.mod_lt _ (by decide)
  apply BitVec.eq_of_toNat_eq
  rw [hword, BitVec.toNat_ofNat, Nat.shiftRight_eq_div_pow]
  conv_rhs => rw [ha]
  simp only [SMap.bytes, List.range, List.range.loop, List.map_cons, List.map_nil, leNat]
  have h0 := hb 0; have h1 := hb 1; have h2 := hb 2; have h3 := hb 3
  generalize a / 4 = w at h0 h1 h2 h3 ⊢
  generalize a % 4 = i at h4 ⊢
  obtain rfl | rfl | rfl | rfl : i = 0 ∨ i = 1 ∨ i = 2 ∨ i = 3 := by omega
  all_goals omega

/-- What a read delivers whose banks are free and whose words have no errors. -/
theorem fetch_served {c : Core} {busy : BitVec 16} {as : List Nat}
    (h : ∀ a ∈ as, SMap.get none c.spdErr (a / 4) = none ∧ busy.getLsbD (bankOf a) = false) (cyc port : Nat) :
    (fetch c cyc port busy as).bytes = as.map (SMap.get 0 c.spd) ∧ (fetch c cyc port busy as).ue = none ∧
      (fetch c cyc port busy as).ce = 0 := by
  have hbank : ∀ a, a / 4 / 0x2000 = bankOf a := fun a => Nat.div_div_eq_div_mul a 4 0x2000
  have herr : ∀ w ∈ (as.map (· / 4)).eraseDups, SMap.get none c.spdErr w = none := fun w hw => by
    obtain ⟨a, ha, rfl⟩ := List.mem_map.1 (List.mem_eraseDups.1 hw)
    exact (h a ha).1
  refine ⟨List.map_congr_left fun a ha => ?_, ?_, ?_⟩
  · simp only [hbank, (h a ha).1, (h a ha).2, Bool.false_eq_true, if_false, reduceCtorEq]
    exact c.byte_word a
  · simp only [fetch, Option.map_eq_none_iff, List.find?_eq_none]
    exact fun w hw => by simp [herr w (List.mem_filter.1 hw).1]
  · simp only [fetch, List.length_eq_zero_iff, List.filter_eq_nil_iff]
    exact fun w hw => by simp [herr w (List.mem_filter.1 hw).1]

/-- What a read leaves of the core: output registers and the banks touched. -/
theorem fetch_core (c : Core) (cyc port : Nat) (busy : BitVec 16) (as : List Nat) :
    ∃ o y b, (fetch c cyc port busy as).core = { c with outReg := o, touchCyc := y, touched := b } := by
  unfold fetch Core.touch
  dsimp only
  split
  · exact ⟨_, _, _, rfl⟩
  · exact ⟨_, _, _, rfl⟩

/-- A read that is served: its bytes, no fault, and no more than reads leave, in the one core. -/
theorem State.spdFetch_served {h : Hdr} {lc k : Nat} {as : List Nat} (L : Likeness alike) (hs : Ok cmds s) (hserv : s.serves h lc k as)
    (slot : Nat) (pc : BitVec 17) (port : Nat) (wr : List Nat) :
    ∃ t, s.spdFetch h.table slot pc lc k port as = (s.spdBytes k as, t, []) ∧ Ok cmds t ∧ s.ActsFurther t h.table alike wr [] ∧
      (∃ o y b, t.core k = { s.core k with outReg := o, touchCyc := y, touched := b }) ∧ ∀ j, j ≠ k → t.core j = s.core j := by
  obtain ⟨hbytes, hue, hce⟩ := fetch_served hserv.2 (s.cyc h.table) port
  obtain ⟨o, y, b, hcore⟩ := fetch_core (s.core k) (s.cyc h.table) port (s.writeBanks h.table k) as
  have hnotes := State.noteSpdRead_owesNothing hs h.table slot pc k as
  have hnok := State.noteSpdRead_ok (t := h.table) (slot := slot) (pc := pc) (k := k) (as := as) hs
  have hok := State.spdFetch_ok (t := h.table) (slot := slot) (pc := pc) (lc := lc) (k := k) (port := port) (as := as) hs
  have hcores := State.core_modCore hnok.cores_.1 k (f := fun _ => { s.core k with outReg := o, touchCyc := y, touched := b })
  unfold State.spdFetch at hok ⊢
  simp only [hbytes, hue, hce, hcore, State.countCe, if_true] at hok ⊢
  refine ⟨_, rfl, hok, ?_, ⟨o, y, b, by rw [hcores, if_pos rfl]⟩, fun j hj => by rw [hcores, if_neg hj, hnotes.only.core]⟩
  refine (hnotes.further L wr).then L (.modCore L hnok.cores_.1 h.table wr k ?_)
  rw [hnotes.only.core]
  exact L.read _ o y b

/-- The same of a read under the checks of the window and of the queue areas. -/
theorem State.spdRead_served {h : Hdr} {lc k : Nat} {as : List Nat} (hserv : s.serves h lc k as) (slot : Nat) (pc : BitVec 17) (port : Nat) :
    s.spdRead h.table slot pc lc k port as = s.spdFetch h.table slot pc lc k port as := by
  unfold State.spdRead
  rw [hserv.1]

/-- An operation without faults raises none. -/
@[simp] theorem State.accFaults_nil (s : State) (n : Nat) (streamer : Bool) : s.accFaults n streamer [] = s := rfl

/-! ### The cores of an operation -/

/-- An operation acts on each core once. -/
theorem State.opCores_nodup (hs : Ok cmds s) (h : Hdr) : ((s.opCores h).map (·.2)).Nodup := by
  have hfew : s.fuses.cores ≤ 34 := hs.few_
  unfold State.opCores
  split
  · exact List.nodup_singleton _
  · unfold State.tableCores
    rw [List.map_filterMap, List.Nodup, List.pairwise_filterMap]
    refine List.Pairwise.imp_of_mem (fun {a b} ha hb hne => ?_) List.nodup_range
    have ha34 : a < 34 := (List.mem_range.1 ha).trans_le hfew
    have hb34 : b < 34 := (List.mem_range.1 hb).trans_le hfew
    rintro x hx _ hy rfl
    simp only [Option.map_map, Option.map_eq_some_iff, Function.comp_apply] at hx hy
    obtain ⟨c, hc, rfl⟩ := hx
    obtain ⟨d, hd, he⟩ := hy
    have hcd : d = c := Nat.add_left_cancel he
    have hpa := List.find?_some hc
    have hpb := List.find?_some hd
    rw [hcd] at hpb
    have heq : BitVec.ofNat 8 (4 * a) = BitVec.ofNat 8 (4 * b) := (beq_iff_eq.1 hpa).symm.trans (beq_iff_eq.1 hpb)
    have := congrArg BitVec.toNat heq
    simp only [BitVec.toNat_ofNat] at this
    omega

theorem State.actors_nodup (hs : Ok cmds s) (h : Hdr) : ((s.actors h).map (·.2)).Nodup :=
  (State.opCores_nodup hs h).sublist (List.filter_sublist.map _)

end Sys2Proof.Machine
end

section
/-!
The loads of the L slot (R42 to R47, R76, R120, R121, R143 to R146): LDV, LDS, CBLOAD and CTLOAD, and the fill of a hold half.
-/
namespace Sys2Proof.Machine

variable {cmds : List Instr}

/-! ### Loads of each acting core -/

/-- One core's load: its bytes are served, and it owes the effects that `eff` makes of them. -/
theorem State.load_step {s : State} {h : Hdr} {lc k : Nat} {as : List Nat} {es : List (Nat × Eff)} (hs : Ok cmds s) (hserv : s.serves h lc k as)
    (ls : List Loc) (hk : ∀ e ∈ es, e.2.keeps) :
    ∃ t, (s.noteReads h.table slotL h.pc ls).spdRead h.table slotL h.pc lc k 0 as = (s.spdBytes k as, t, []) ∧
      Ok cmds (t.post h.table slotL h.pc true es) ∧
      s.ActsFurther (t.post h.table slotL h.pc true es) h.table Core.AlikeButReads [] es := by
  have L := likeness_alikeButReads
  have hnotes := (State.noteReads_owesNothing hs h.table slotL h.pc ls).further L []
  have hserv' := hnotes.acts.serves L holdStates_nil (fun _ he => absurd he List.not_mem_nil) hserv
  obtain ⟨t, hfetch, hok, hfurther, -, -⟩ := State.spdFetch_served L (State.noteReads_ok hs) hserv' slotL h.pc 0 []
  rw [hnotes.only.spdBytes L] at hfetch
  have hall := (hnotes.then L hfurther).trans L (.post L hok.tables_.1 h.table slotL h.pc true [] hk)
  exact ⟨t, (State.spdRead_served hserv' ..).trans hfetch, State.post_ok hok, hall⟩

/-- The load of one core after those of others, with the faults met. -/
def State.loadNext (s : State) (h : Hdr) (reads : Nat → List Loc) (as : Nat → List Nat)
    (eff : State → Nat → List Byte → Option AccFault → List (Nat × Eff)) (acc : State × List AccFault) (x : Nat × Nat) : State × List AccFault :=
  let r := (acc.1.noteReads h.table slotL h.pc (reads x.2)).spdRead h.table slotL h.pc x.1 x.2 0 (as x.2)
  (r.2.1.post h.table slotL h.pc true (eff s x.2 r.1 (s.accessFault h.table x.1 x.2 (as x.2))), acc.2 ++ r.2.2)

theorem State.eachLoad_eq (s : State) (h : Hdr) (reads : Nat → List Loc) (as : Nat → List Nat)
    (eff : State → Nat → List Byte → Option AccFault → List (Nat × Eff)) :
    s.eachLoad h reads as eff = ((((s.actors h).foldl (s.loadNext h reads as eff) (s, [])).1).busyWith h.table
      ((s.opCores h).flatMap (fun x => eff s x.2 [] none))).accFaults h.table false ((s.actors h).foldl (s.loadNext h reads as eff) (s, [])).2 :=
  rfl

/-- Loads whose bytes are served owe their effects, and nothing else but what reads leave. -/
theorem State.eachLoad_acts {s : State} {h : Hdr} {as : Nat → List Nat} {eff : State → Nat → List Byte → Option AccFault → List (Nat × Eff)}
    (hs : Ok cmds s) (hserv : ∀ x ∈ s.actors h, s.serves h x.1 x.2 (as x.2)) (reads : Nat → List Loc)
    (hk : ∀ k, ∀ e ∈ eff s k (s.spdBytes k (as k)) none, e.2.keeps ∧ e.2.writesSpd = false) :
    s.ActsOwes (s.eachLoad h reads as eff) h.table Core.AlikeButReads [] (s.inActors h (fun k => eff s k (s.spdBytes k (as k)) none)) := by
  have L := likeness_alikeButReads
  obtain ⟨hok, hnone, hacts⟩ := foldl_along (l := s.actors h) (f := s.loadNext h reads as eff) (a := (s, []))
    (M := fun done acc => Ok cmds acc.1 ∧ acc.2 = [] ∧
      s.ActsFurther acc.1 h.table Core.AlikeButReads [] (done.flatMap (fun x => eff s x.2 (s.spdBytes x.2 (as x.2)) none)))
    ⟨hs, rfl, .refl L s h.table []⟩ (by
      rintro done x rest ⟨u, faults⟩ hl ⟨hu, rfl, hacts⟩
      have hx : x ∈ s.actors h := by rw [hl]; simp
      have hserv' := hacts.acts.serves L holdStates_nil (fun e he => by
        obtain ⟨y, -, hy⟩ := List.mem_flatMap.1 he
        exact (hk y.2 e hy).2) (hserv x hx)
      obtain ⟨t, hread, hok, hfurther⟩ := State.load_step hu hserv' (reads x.2) fun e he => (hk x.2 e he).1
      have hfault : s.accessFault h.table x.1 x.2 (as x.2) = none := (hserv x hx).1
      simp only [State.loadNext, hread, hfault, hacts.only.spdBytes L]
      exact ⟨hok, rfl, by simpa using hacts.trans L hfurther⟩)
  rw [State.eachLoad_eq, hnone, State.accFaults_nil]
  exact (hacts.then L ((State.busyWith_owesNothing hok.tables_.1 h.table _).further L [])).acts

/-- The frame of a load: its word issues, and its bytes are served. -/
theorem slotOp_eachLoad {s s1 : State} {h : Hdr} {wf : Bool} {as : Nat → List Nat}
    {eff : State → Nat → List Byte → Option AccFault → List (Nat × Eff)} {reads : Nat → List Loc} {body : State → State}
    (hs : Ok cmds s) (hw : wf = true) (hi : s.issue h slotL = .go s1) (hb : body s1 = s1.eachLoad h reads as eff)
    (hserv : ∀ x ∈ s1.actors h, s1.serves h x.1 x.2 (as x.2))
    (hk : ∀ k, ∀ e ∈ eff s1 k (s1.spdBytes k (as k)) none, e.2.keeps ∧ e.2.writesSpd = false) :
    ∃ t, slotOp wf h slotL body s = .next t ∧
      s1.ActsOwes t h.table Core.AlikeButReads [] (s1.inActors h (fun k => eff s1 k (s1.spdBytes k (as k)) none)) :=
  ⟨_, slotOp_go hw hi, hb ▸ State.eachLoad_acts (State.issue_go_ok hs hi) hserv reads hk⟩

/-- A load that owes one effect. -/
theorem single_effect_keeps {l : Nat} {f : Eff} (hf : f.keeps) (hw : f.writesSpd = false) :
    ∀ e ∈ [(l, f)], e.2.keeps ∧ e.2.writesSpd = false := by
  intro e he
  rw [List.mem_singleton.1 he]
  exact ⟨hf, hw⟩

theorem exec_ldv_served {s s1 : State} {h : Hdr} {vd sa sb : BitVec 5} {w : BitVec 3} {mode : BitVec 2} {off : BitVec 19} (hs : Ok cmds s)
    (hi : s.issue h slotL = .go s1) (hw : ldvOk w mode sb = true)
    (hserv : ∀ x ∈ s1.actors h, s1.serves h x.1 x.2 (s1.opVecAddrs x.2 w mode sa sb off)) :
    ∃ t, exec (.ldv h vd w mode sa sb off) s = .next t ∧
      s1.ActsOwes t h.table Core.AlikeButReads [] (s1.inActors h (fun k =>
        [(classLat (s1.opVecAddrs k w mode sa sb off), .lanes k vd.toNat
          (loadLanes w.toNat mode.toNat (s1.spdBytes k (s1.opVecAddrs k w mode sa sb off))))])) :=
  slotOp_eachLoad (as := fun k => s1.opVecAddrs k w mode sa sb off)
    (eff := fun _ k bs _ => [(classLat (s1.opVecAddrs k w mode sa sb off), .lanes k vd.toNat (loadLanes w.toNat mode.toNat bs))])
    hs hw hi rfl hserv fun _ => single_effect_keeps (Eff.keeps_of trivial) rfl

theorem exec_lds_served {s s1 : State} {h : Hdr} {sd sa : BitVec 5} {off : BitVec 19} (hs : Ok cmds s) (hi : s.issue h slotL = .go s1)
    (hserv : ∀ x ∈ s1.actors h, s1.serves h x.1 x.2 (spdSpan (s1.opAddr x.2 sa off 2) 4)) :
    ∃ t, exec (.lds h sd sa off) s = .next t ∧
      s1.ActsOwes t h.table Core.AlikeButReads [] (s1.inActors h (fun k =>
        [(classLat (spdSpan (s1.opAddr k sa off 2) 4), .sreg k sd.toNat
          (BitVec.ofNat 32 (leNat (s1.spdBytes k (spdSpan (s1.opAddr k sa off 2) 4)))))])) :=
  slotOp_eachLoad (as := fun k => spdSpan (s1.opAddr k sa off 2) 4)
    (eff := fun _ k bs _ => [(classLat (spdSpan (s1.opAddr k sa off 2) 4), .sreg k sd.toNat (BitVec.ofNat 32 (leNat bs)))])
    hs rfl hi rfl hserv fun _ => single_effect_keeps (Eff.keeps_of trivial) rfl

/-- What CBLOAD owes for the bytes it has read: nothing when the window check fails (R76). -/
def cbloadEffs (k : Nat) (book : Bool) (q : BitVec 2) (commit : Bool) (bs : List Byte) : Option AccFault → List (Nat × Eff)
  | some (.bound ..) => []
  | _ => [(5, .codebook k book q.toNat ((List.range 64).map (fun i => BitVec.ofNat 16 (rdLe bs (2 * i) 2))) commit)]

theorem exec_cbload_served {s s1 : State} {h : Hdr} {sa : BitVec 5} {off : BitVec 19} (book : Bool) (q : BitVec 2) (commit : Bool)
    (hs : Ok cmds s) (hi : s.issue h slotL = .go s1)
    (hserv : ∀ x ∈ s1.actors h, s1.serves h x.1 x.2 (spdSpan (s1.opAddr x.2 sa off 7) 128)) :
    ∃ t, exec (.cbload h book q commit sa off) s = .next t ∧
      s1.ActsOwes t h.table Core.AlikeButReads [] (s1.inActors h (fun k => [(5, .codebook k book q.toNat
        ((List.range 64).map (fun i => BitVec.ofNat 16 (rdLe (s1.spdBytes k (spdSpan (s1.opAddr k sa off 7) 128)) (2 * i) 2))) commit)])) :=
  slotOp_eachLoad (as := fun k => spdSpan (s1.opAddr k sa off 7) 128) (eff := fun _ k bs f => cbloadEffs k book q commit bs f)
    hs rfl hi rfl hserv fun _ => single_effect_keeps (Eff.keeps_of trivial) rfl

theorem exec_ctload_served {s s1 : State} {h : Hdr} {sa : BitVec 5} {off : BitVec 19} {tab : BitVec 3} {grp : BitVec 6} (hs : Ok cmds s)
    (hi : s.issue h slotL = .go s1) (hg : grp.toNat ≤ 32)
    (hserv : ∀ x ∈ s1.actors h, s1.serves h x.1 x.2 (spdSpan (s1.opAddr x.2 sa off 7) 128)) :
    ∃ t, exec (.ctload h tab grp sa off) s = .next t ∧
      s1.ActsOwes t h.table Core.AlikeButReads [] (s1.inActors h (fun k => [(5, .curve k (curveWords tab.toNat grp.toNat
        (s1.spdBytes k (spdSpan (s1.opAddr k sa off 7) 128))))])) :=
  slotOp_eachLoad (as := fun k => spdSpan (s1.opAddr k sa off 7) 128)
    (eff := fun _ k bs _ => [(5, .curve k (curveWords tab.toNat grp.toNat bs))])
    hs (decide_eq_true hg) hi rfl hserv fun _ => single_effect_keeps (Eff.keeps_of trivial) rfl

end Sys2Proof.Machine
end

section
/-!
HLOAD (R42 to R47, R154): the fill of one lane, of the two lanes of one core, and of the acting cores.
-/
namespace Sys2Proof.Machine

variable {cmds : List Instr} {s t u : State} {n : Nat} {alike : Core → Core → Prop} {wr wr' : List Nat} {es : List (Nat × Eff)}

/-! ### Reads of one address each -/

/-- An access passes its checks when each of its addresses does. -/
theorem State.accessFault_eq_none_iff {lc k : Nat} {as : List Nat} :
    s.accessFault n lc k as = none ↔ (∀ a ∈ as, ¬ s.spdBound n ≤ a) ∧ ∀ a ∈ as, s.misuseOf k [a] = none := by
  have hbound : s.boundFault n lc as = none ↔ ∀ a ∈ as, ¬ s.spdBound n ≤ a := by simp [State.boundFault, List.find?_eq_none]
  have hmisuse : s.misuseFault lc k as = none ↔ ∀ a ∈ as, s.misuseOf k [a] = none := by
    simp [State.misuseFault, State.misuseOf, List.findSome?_eq_none_iff]
  rw [State.accessFault, Option.or_eq_none_iff, hbound, hmisuse]

theorem State.misuseOf_eq_none {lc k : Nat} {as : List Nat} (h : s.accessFault n lc k as = none) : s.misuseOf k as = none := by
  simpa [State.accessFault, State.misuseFault] using (Option.or_eq_none_iff.1 h).2

theorem State.serves_of_each {h : Hdr} {lc k : Nat} {as : List Nat} (hall : ∀ a ∈ as, s.serves h lc k [a]) : s.serves h lc k as := by
  refine ⟨State.accessFault_eq_none_iff.2 ⟨fun a ha => ?_, fun a ha => ?_⟩, fun a ha => (hall a ha).2 a (List.mem_singleton_self a)⟩
  · exact (State.accessFault_eq_none_iff.1 (hall a ha).1).1 a (List.mem_singleton_self a)
  · exact (State.accessFault_eq_none_iff.1 (hall a ha).1).2 a (List.mem_singleton_self a)

/-! ### The bytes of one lane -/

/-- A fill of 48 bytes is of a 6-bit format, and one of 32 bytes of code8 (R39). -/
theorem holdChunk_of_laneFmt {c : Nat} {f : Fmt} (h : laneFmt c = some f) :
    holdChunk c = if f = .e3m2 ∨ f = .e2m3 then 48 else if f = .c8 then 32 else 64 := by
  unfold laneFmt at h
  split at h
  · interval_cases c
    all_goals
      cases h
      rfl
  · cases h

/-- A byte of a hold half is made of bytes of its fill. -/
theorem lt_holdChunk_of_mem_holdSources {c : Nat} {f : Fmt} (h : laneFmt c = some f) {b o : Nat} (hb : b < 64) (ho : o ∈ holdSources f b) :
    o < holdChunk c := by
  rw [holdChunk_of_laneFmt h]
  cases f <;> simp [holdSources, List.range_succ] at ho ⊢ <;> omega

/-- A byte of a hold half depends on its fill alone. -/
theorem State.holdByte_congr (s : State) (k : Nat) {c : Nat} {f : Fmt} (h : laneFmt c = some f) {get get' : Nat → Byte} {bad bad' : Nat → Bool}
    (hget : ∀ o < holdChunk c, get o = get' o) (hbad : ∀ o < holdChunk c, bad o = bad' o) {b : Nat} (hb : b < 64) :
    s.holdByte k f get bad b = s.holdByte k f get' bad' b := by
  have hany : (holdSources f b).any bad = (holdSources f b).any bad' := by
    rw [Bool.eq_iff_iff, List.any_eq_true, List.any_eq_true]
    exact exists_congr fun o => and_congr_right fun ho => by rw [hbad o (lt_holdChunk_of_mem_holdSources h hb ho)]
  have hchunk := holdChunk_of_laneFmt h
  unfold State.holdByte
  rw [hany]
  cases f <;> simp at hchunk <;> dsimp only
  case e3m2 | e2m3 => rw [hget _ (by omega), hget _ (by omega), hget _ (by omega)]
  all_goals rw [hget _ (by omega)]

/-- The byte of a hold half depends on the core's codebook alone. -/
theorem State.holdByte_core {k : Nat} (h : t.codeEntry k 0 = s.codeEntry k 0) (f : Fmt) (get : Nat → Byte) (bad : Nat → Bool) (b : Nat) :
    t.holdByte k f get bad b = s.holdByte k f get bad b := by
  unfold State.holdByte
  rw [h]

/-- The address of byte `o` of a lane's fill; offsets from 64 on stand for its scales. -/
def fillAddr (d : BitVec 256) (off : Int) (o : Nat) : Nat :=
  if o < 64 then spdOffset (field d 18 0) (off + o)
  else spdOffset (field d 37 19) (off / (4 * (blockScales (field d 51 48)).2 : Nat) + ((o - 64 : Nat) : Int))

/-- The bytes and scales that a fill of descriptor `d` reads for one lane. -/
def fillOffsets (d : BitVec 256) : List Nat :=
  List.range (holdChunk (field d 51 48)) ++ (List.range (blockScales (field d 51 48)).1).map (64 + ·)

/-- What a fill from byte offset `off` on gives one lane, all its bytes being served. -/
def State.laneFill (s : State) (k : Nat) (d : BitVec 256) (f : Fmt) (off : Int) : LaneFill :=
  ⟨(List.range 64).map (fun b =>
      s.holdByte k f (fun o => SMap.get 0 (s.core k).spd (spdOffset (field d 18 0) (off + o))) (fun _ => false) b),
    (List.range 4).map (fun b => if b < (blockScales (field d 51 48)).1 then SMap.get 0 (s.core k).spd
      (spdOffset (field d 37 19) (off / (4 * (blockScales (field d 51 48)).2 : Nat) + b)) else 0x7F)⟩

/-- The bytes and the scales of a lane's fill are served. -/
def State.servesFill (s : State) (h : Hdr) (lc k : Nat) (d : BitVec 256) (off : Int) : Prop :=
  (∀ o < holdChunk (field d 51 48), s.serves h lc k [spdOffset (field d 18 0) (off + o)]) ∧
    ∀ o < (blockScales (field d 51 48)).1, s.serves h lc k
      [spdOffset (field d 37 19) (off / (4 * (blockScales (field d 51 48)).2 : Nat) + o)]

theorem holdChunk_le (c : Nat) : holdChunk c ≤ 64 := by unfold holdChunk; split_ifs <;> omega

theorem fillAddr_scale (d : BitVec 256) (off : Int) (o : Nat) :
    fillAddr d off (64 + o) = spdOffset (field d 37 19) (off / (4 * (blockScales (field d 51 48)).2 : Nat) + o) := by
  rw [fillAddr, if_neg (by omega), Nat.add_sub_cancel_left]

theorem State.servesFill.each {h : Hdr} {lc k : Nat} {d : BitVec 256} {off : Int} (hserv : s.servesFill h lc k d off) {o : Nat}
    (ho : o ∈ fillOffsets d) : s.serves h lc k [fillAddr d off o] := by
  obtain ho | ho := List.mem_append.1 ho
  · have hlt := List.mem_range.1 ho
    rw [fillAddr, if_pos (hlt.trans_le (holdChunk_le _))]
    exact hserv.1 o hlt
  · obtain ⟨i, hi, rfl⟩ := List.mem_map.1 ho
    rw [fillAddr_scale]
    exact hserv.2 i (List.mem_range.1 hi)

theorem State.servesFill.all {h : Hdr} {lc k : Nat} {d : BitVec 256} {off : Int} (hserv : s.servesFill h lc k d off) :
    s.serves h lc k ((fillOffsets d).map (fillAddr d off)) := by
  refine State.serves_of_each fun a ha => ?_
  obtain ⟨o, ho, rfl⟩ := List.mem_map.1 ha
  exact hserv.each ho

theorem lookup_zip_map {β : Type} {l : List Nat} {g : Nat → β} {o : Nat} (ho : o ∈ l) : (l.zip (l.map g)).lookup o = some (g o) := by
  induction l with
  | nil => cases ho
  | cons x l ih =>
    rw [List.map_cons, List.zip_cons_cons, List.lookup_cons]
    by_cases e : o = x
    · simp [e]
    · simpa [beq_false_of_ne e] using ih ((List.mem_cons.1 ho).resolve_left e)

/-- The bytes of a fill that lie inside the window. -/
def State.fillInside (s : State) (t : Nat) (d : BitVec 256) (off : Int) : List Nat :=
  (fillOffsets d).filter (fun o => !decide (s.spdBound t ≤ fillAddr d off o))

/-- A lane's fill that touches no entry in use reads what lies inside the window. -/
theorem State.holdLane_eq {pc : BitVec 17} {lc k : Nat} {d : BitVec 256} {f : Fmt} {off : Int}
    (hm : s.misuseOf k ((s.fillInside n d off).map (fillAddr d off)) = none) :
    s.holdLane n pc lc k d f off =
      (let bad (o : Nat) : Bool := decide (s.spdBound n ≤ fillAddr d off o)
      let r := s.spdFetch n slotL pc lc k 0 ((s.fillInside n d off).map (fillAddr d off))
      let get (o : Nat) : Byte := (((s.fillInside n d off).zip r.1).lookup o).getD 0
      (⟨(List.range 64).map (s.holdByte k f get bad),
        (List.range 4).map (fun b => if (blockScales (field d 51 48)).1 ≤ b ∨ bad (64 + b) then 0x7F else get (64 + b))⟩, r.2.1,
        ((fillOffsets d).find? bad).toList.map (fun o => AccFault.bound lc (fillAddr d off o)) ++ r.2.2)) := by
  unfold State.holdLane
  dsimp only
  split
  · next m hsome => exact absurd (hm.symm.trans hsome) (by simp)
  · rfl

/-- A lane whose fill is served reads its bytes and scales, without a fault. -/
theorem State.holdLane_served {h : Hdr} {lc k : Nat} {d : BitVec 256} {f : Fmt} {off : Int} (hs : Ok cmds s) (hf : laneFmt (field d 51 48) = some f)
    (hserv : s.servesFill h lc k d off) (wr : List Nat) :
    ∃ t, s.holdLane h.table h.pc lc k d f off = (s.laneFill k d f off, t, []) ∧ Ok cmds t ∧ s.ActsFurther t h.table Core.AlikeButReads wr [] := by
  obtain ⟨t, hfetch, hok, hfurther, -, -⟩ := State.spdFetch_served likeness_alikeButReads hs hserv.all slotL h.pc 0 wr
  refine ⟨t, ?_, hok, hfurther⟩
  have hin : ∀ o ∈ fillOffsets d, ¬ s.spdBound h.table ≤ fillAddr d off o := fun o ho =>
    (State.accessFault_eq_none_iff.1 (hserv.each ho).1).1 _ (List.mem_singleton_self _)
  have hinside : s.fillInside h.table d off = fillOffsets d := List.filter_eq_self.2 fun o ho => by simpa using hin o ho
  have hbad : (fillOffsets d).find? (fun o => decide (s.spdBound h.table ≤ fillAddr d off o)) = none :=
    List.find?_eq_none.2 fun o ho => by simpa using hin o ho
  have hgot : ∀ o ∈ fillOffsets d, (((fillOffsets d).zip (s.spdBytes k ((fillOffsets d).map (fillAddr d off)))).lookup o).getD 0 =
      SMap.get 0 (s.core k).spd (fillAddr d off o) := fun o ho => by
    rw [State.spdBytes, List.map_map, lookup_zip_map ho]
    rfl
  have hdata : ∀ o < holdChunk (field d 51 48), o ∈ fillOffsets d := fun o ho => List.mem_append_left _ (List.mem_range.2 ho)
  have hscale : ∀ b < (blockScales (field d 51 48)).1, 64 + b ∈ fillOffsets d := fun b hb =>
    List.mem_append_right _ (List.mem_map.2 ⟨b, List.mem_range.2 hb, rfl⟩)
  rw [State.holdLane_eq (by rw [hinside]; exact State.misuseOf_eq_none hserv.all.1)]
  simp only [hinside, hfetch, hbad, Option.toList_none, List.map_nil, List.append_nil, State.laneFill, Prod.mk.injEq, and_true,
    LaneFill.mk.injEq]
  refine ⟨List.map_congr_left fun b hb => ?_, List.map_congr_left fun b _ => ?_⟩
  · refine s.holdByte_congr k hf (fun o ho => ?_) (fun o ho => decide_eq_false (hin o (hdata o ho))) (List.mem_range.1 hb)
    rw [hgot o (hdata o ho), fillAddr, if_pos (ho.trans_le (holdChunk_le _))]
  · by_cases hlt : b < (blockScales (field d 51 48)).1
    · rw [if_pos hlt, if_neg (by simp [hlt, hin _ (hscale b hlt)]), hgot _ (hscale b hlt), fillAddr_scale]
    · rw [if_neg hlt, if_pos (Or.inl (Nat.not_lt.1 hlt))]

/-! ### The effect of a fill -/

/-- What a fill puts in lane `l` of hold half `half` of core `k`. -/
def holdEff (k half l : Nat) (x : LaneFill) : Nat × Eff :=
  (5, .hold k (x.bytes.zipIdx.map (fun b => (4096 * half + 64 * l + b.2, b.1))) (x.scales.zipIdx.map (fun b => (256 * half + 4 * l + b.2, b.1))))

/-- What an HLOAD gives lane `l` of core `k`, from a descriptor in state `st`: its bytes and scales, or padding. -/
def State.holdFill (s : State) (k : Nat) (d : BitVec 256) (f : Fmt) (st : Word) (l : Nat) : LaneFill :=
  ((holdOff d st l).map (s.laneFill k d f)).getD LaneFill.pad

theorem zipIdx_map_range {β γ : Type} (g : Nat → β) (m : Nat) (e : Nat → β → γ) :
    ((List.range m).map g).zipIdx.map (fun b => e b.2 b.1) = (List.range m).map (fun b => e b (g b)) := by
  apply List.ext_getElem <;> simp

/-- A fill depends on what the core's scratchpad and codebook hold. -/
theorem State.holdFill_congr {c : Nat} (h : (s.core c).AlikeButUnits (t.core c)) (d : BitVec 256) (f : Fmt) (st : Word) (l : Nat) :
    t.holdFill c d f st l = s.holdFill c d f st l := by
  have hcode : ∀ i, t.codeEntry c 0 i = s.codeEntry c 0 i := fun i => by unfold State.codeEntry; rw [h.codebook]
  have hlane : t.laneFill c d f = s.laneFill c d f := by
    funext off
    simp only [State.laneFill, h.spd, State.holdByte_core (funext hcode)]
  rw [State.holdFill, State.holdFill, hlane]

/-! ### HLOAD in one core -/

/-- The fill of one lane after those of others, with the faults met. -/
def State.hloadLane (h : Hdr) (half lc k : Nat) (d : BitVec 256) (st : Word) (acc : State × List AccFault) (l : Nat) :
    State × List AccFault :=
  let r := match laneFmt (field d 51 48), holdOff d st l with
    | some f, some off => acc.1.holdLane h.table h.pc lc k d f off
    | _, _ => (LaneFill.pad, acc.1, [])
  (r.2.1.post h.table slotL h.pc true [holdEff k half l r.1], acc.2 ++ r.2.2)

theorem State.hloadCore_eq (s : State) (h : Hdr) (n half : Nat) (adv : Bool) (lc k : Nat) {d : BitVec 256} {st : Word}
    (hd : d = BitVec.ofNat 256 (s.csrWide (coreReg k (0x200 + 0x20 * n)) 8)) (hst : st = s.csrAt (coreReg k (0x280 + 4 * n))) :
    s.hloadCore h n half adv lc k =
      (let r := State.hloadLane h half lc k d st (State.hloadLane h half lc k d st (s, []) (2 * field st 4 0)) (2 * field st 4 0 + 1)
      (r.1.setCsr (coreReg k (0x280 + 4 * n)) (holdAdvance d st adv), r.2)) := by
  subst hd hst
  rfl

theorem holdEff_keeps {k half l : Nat} {x : LaneFill} : ∀ e ∈ [holdEff k half l x], e.2.keeps ∧ e.2.writesSpd = false :=
  single_effect_keeps (Eff.keeps_of trivial) rfl

/-- The fill of one lane: padding, or a read that is served. -/
theorem State.hloadLane_acts {h : Hdr} {half lc k l : Nat} {d : BitVec 256} {f : Fmt} {st : Word} (hs : Ok cmds s)
    (hf : laneFmt (field d 51 48) = some f) (hserv : ∀ off, holdOff d st l = some off → s.servesFill h lc k d off) (wr : List Nat) :
    ∃ t, State.hloadLane h half lc k d st (s, []) l = (t, []) ∧ Ok cmds t ∧
      s.ActsFurther t h.table Core.AlikeButReads wr [holdEff k half l (s.holdFill k d f st l)] := by
  have L := likeness_alikeButReads
  have hpost : ∀ {u : State} {x : LaneFill}, Ok cmds u → s.ActsFurther u h.table Core.AlikeButReads wr [] →
      s.ActsFurther (u.post h.table slotL h.pc true [holdEff k half l x]) h.table Core.AlikeButReads wr [holdEff k half l x] :=
    fun hu hacts => by simpa using hacts.trans L (.post L hu.tables_.1 h.table slotL h.pc true wr fun e he => (holdEff_keeps e he).1)
  unfold State.hloadLane State.holdFill
  cases hoff : holdOff d st l with
  | none =>
    simp only [hf, List.append_nil]
    exact ⟨_, rfl, State.post_ok hs, hpost hs (.refl L s h.table wr)⟩
  | some off =>
    obtain ⟨u, hlane, hu, hacts⟩ := State.holdLane_served hs hf (hserv off hoff) wr
    simp only [hf, hlane, List.append_nil]
    exact ⟨_, rfl, State.post_ok hu, hpost hu hacts⟩

/-- What an operation writes of registers it may also be said not to have written all of. -/
theorem State.ActsFurther.mono (h : s.ActsFurther t n alike wr es) (hw : wr ⊆ wr') : s.ActsFurther t n alike wr' es := by
  obtain ⟨⟨honly, howed, hbusy⟩, hlater⟩ := h
  refine ⟨⟨{ honly with regs := fun a ha hn => honly.regs a ha fun hm => hn (hw hm), calm := fun hd => ?_ }, howed, hbusy⟩, hlater⟩
  exact ⟨fun a ha => (honly.calm hd).1 a fun hm => ha (hw hm), (honly.calm hd).2⟩

theorem State.servesFill.after {h : Hdr} {lc k : Nat} {d : BitVec 256} {off : Int} (hserv : s.servesFill h lc k d off)
    (ha : s.ActsFurther t h.table alike wr es) (L : Likeness alike) (hwr : HoldStates wr) (he : ∀ e ∈ es, e.2.writesSpd = false) :
    t.servesFill h lc k d off :=
  ⟨fun o ho => ha.acts.serves L hwr he (hserv.1 o ho), fun o ho => ha.acts.serves L hwr he (hserv.2 o ho)⟩

/-- The states of hold descriptors lie at offsets of their own. -/
theorem holdState_mod {desc : Nat} (k : Nat) (hd : desc < 4) :
    0x280 ≤ coreReg k (0x280 + 4 * desc) % 0x40000 ∧ coreReg k (0x280 + 4 * desc) % 0x40000 < 0x290 := by
  rw [coreReg_mod k (by omega)]
  omega

/-- The two lanes of an HLOAD in core `k`, where descriptor `d` is in state `st`. -/
def State.holdEffs (s : State) (k half : Nat) (d : BitVec 256) (f : Fmt) (st : Word) : List (Nat × Eff) :=
  (List.range 2).map (fun i => holdEff k half (2 * field st 4 0 + i) (s.holdFill k d f st (2 * field st 4 0 + i)))

/-- HLOAD in one core: two lanes filled, and the state of the descriptor moved on. -/
theorem State.hloadCore_acts {h : Hdr} {desc half lc k : Nat} {adv : Bool} {d : BitVec 256} {f : Fmt} {st : Word} (hs : Ok cmds s) (hn : desc < 4)
    (hd : d = BitVec.ofNat 256 (s.csrWide (coreReg k (0x200 + 0x20 * desc)) 8)) (hst : st = s.csrAt (coreReg k (0x280 + 4 * desc)))
    (hf : laneFmt (field d 51 48) = some f)
    (hserv : ∀ i < 2, ∀ off, holdOff d st (2 * field st 4 0 + i) = some off → s.servesFill h lc k d off)
    (hw : coreReg k (0x280 + 4 * desc) ∈ wr) :
    ∃ t, s.hloadCore h desc half adv lc k = (t, []) ∧ Ok cmds t ∧ s.ActsFurther t h.table Core.AlikeButReads wr (s.holdEffs k half d f st) ∧
      t.csrAt (coreReg k (0x280 + 4 * desc)) = holdAdvance d st adv ∧
      ∀ j, coreReg j (0x280 + 4 * desc) ≠ coreReg k (0x280 + 4 * desc) →
        t.csrAt (coreReg j (0x280 + 4 * desc)) = s.csrAt (coreReg j (0x280 + 4 * desc)) := by
  have L := likeness_alikeButReads
  obtain ⟨u, hlane0, hu, hacts0⟩ := State.hloadLane_acts (half := half) (l := 2 * field st 4 0) hs hf (hserv 0 (by decide)) []
  obtain ⟨v, hlane1, hv, hacts1⟩ := State.hloadLane_acts (half := half) (l := 2 * field st 4 0 + 1) hu hf
    (fun off hoff => (hserv 1 (by decide) off hoff).after hacts0 L holdStates_nil fun e he => (holdEff_keeps e he).2) []
  rw [State.holdFill_congr (L.units (hacts0.only.cores k))] at hacts1
  have hacts : s.ActsFurther v h.table Core.AlikeButReads [] (s.holdEffs k half d f st) := hacts0.trans L hacts1
  have hcsr := fun b => State.csrAt_setCsr hv.csr_ (coreReg k (0x280 + 4 * desc)) b (holdAdvance d st adv)
  refine ⟨v.setCsr (coreReg k (0x280 + 4 * desc)) (holdAdvance d st adv), ?_, State.setCsr_ok hv,
    (hacts.mono (List.nil_subset wr)).then L (.setCsr L hv.csr_ h.table hw _), ?_, fun j hj => ?_⟩
  · rw [s.hloadCore_eq h desc half adv lc k hd hst, hlane0, hlane1]
  · rw [hcsr, if_pos rfl]
  · rw [hcsr, if_neg hj]
    have hm := holdState_mod j hn
    exact (hacts.only.regs _ (fun hmem => by have := mod_of_mem_hazardRegs hmem; omega) List.not_mem_nil).1

/-! ### HLOAD in every acting core -/

theorem coreReg_injective {j k off : Nat} (h : coreReg j off = coreReg k off) : j = k := by
  simp only [coreReg, coreBase] at h; omega

/-- Descriptors stand as they did before the operation. -/
theorem State.ActsOnly.holdDesc (h : s.ActsOnly t n alike wr) (hwr : HoldStates wr) (k : Nat) {desc : Nat} (hd : desc < 4) :
    t.csrWide (coreReg k (0x200 + 0x20 * desc)) 8 = s.csrWide (coreReg k (0x200 + 0x20 * desc)) 8 := by
  unfold State.csrWide
  refine congrArg (List.foldl (· + ·) 0) (List.map_congr_left fun j hj => ?_)
  have hj8 := List.mem_range.1 hj
  rw [show coreReg k (0x200 + 0x20 * desc) + 4 * j = coreReg k (0x200 + 0x20 * desc + 4 * j) from Nat.add_assoc ..,
    h.csrAt_coreReg hwr k (by omega)]

/-- HLOAD of one core after those of others, with the faults met. -/
def State.hloadNext (h : Hdr) (desc : BitVec 2) (half adv : Bool) (acc : State × List AccFault) (x : Nat × Nat) : State × List AccFault :=
  ((acc.1.hloadCore h desc.toNat (b2n half) adv x.1 x.2).1, acc.2 ++ (acc.1.hloadCore h desc.toNat (b2n half) adv x.1 x.2).2)

theorem execHload_go {s1 : State} {h : Hdr} {desc : BitVec 2} {half adv : Bool} (hi : s.issue h slotL = .go s1) :
    exec (.hload h desc half adv) s = .next
      (((((s1.actors h).foldl (State.hloadNext h desc half adv) (s1, [])).1.busyFor h.table 5).accFaults h.table false
        ((s1.actors h).foldl (State.hloadNext h desc half adv) (s1, [])).2)) :=
  slotOp_go (wf := true) rfl hi

theorem State.holdEffs_congr (h : s.ActsOnly t n alike wr) (L : Likeness alike) (k half : Nat) (d : BitVec 256) (f : Fmt) (st : Word) :
    t.holdEffs k half d f st = s.holdEffs k half d f st := by
  simp only [State.holdEffs, State.holdFill_congr (L.units (h.cores k))]

theorem State.holdEffs_keeps {k half : Nat} {d : BitVec 256} {f : Fmt} {st : Word} {e : Nat × Eff} (h : e ∈ s.holdEffs k half d f st) :
    e.2.writesSpd = false := by
  obtain ⟨i, -, rfl⟩ := List.mem_map.1 h
  exact (holdEff_keeps _ List.mem_cons_self).2

/-- The fills of an HLOAD in the cores of a list without repetitions: each core reads its own descriptor as it stood at first. -/
theorem State.foldl_hloadNext {h : Hdr} {desc : BitVec 2} {half adv : Bool} {d : Nat → BitVec 256} {f : Nat → Fmt} {st : Nat → Word}
    {l : List (Nat × Nat)} (hs : Ok cmds s) (hl : (l.map (·.2)).Nodup)
    (hd : ∀ k, d k = BitVec.ofNat 256 (s.csrWide (coreReg k (0x200 + 0x20 * desc.toNat)) 8))
    (hst : ∀ k, st k = s.csrAt (coreReg k (0x280 + 4 * desc.toNat))) (hf : ∀ x ∈ l, laneFmt (field (d x.2) 51 48) = some (f x.2))
    (hserv : ∀ x ∈ l, ∀ i < 2, ∀ off, holdOff (d x.2) (st x.2) (2 * field (st x.2) 4 0 + i) = some off →
      s.servesFill h x.1 x.2 (d x.2) off) :
    ∃ t, l.foldl (State.hloadNext h desc half adv) (s, []) = (t, []) ∧ Ok cmds t ∧
      s.ActsFurther t h.table Core.AlikeButReads (l.map (fun x => coreReg x.2 (0x280 + 4 * desc.toNat)))
        (l.flatMap (fun x => s.holdEffs x.2 (b2n half) (d x.2) (f x.2) (st x.2))) ∧
      ∀ x ∈ l, t.csrAt (coreReg x.2 (0x280 + 4 * desc.toNat)) = holdAdvance (d x.2) (st x.2) adv := by
  have L := likeness_alikeButReads
  have hdesc : desc.toNat < 4 := desc.isLt
  have hwr : HoldStates (l.map (fun x => coreReg x.2 (0x280 + 4 * desc.toNat))) := fun a ha => by
    obtain ⟨x, -, rfl⟩ := List.mem_map.1 ha
    exact holdState_mod x.2 hdesc
  obtain ⟨hok, hnone, hacts, hnew, -⟩ := foldl_along (l := l) (f := State.hloadNext h desc half adv) (a := (s, []))
    (M := fun done acc => Ok cmds acc.1 ∧ acc.2 = [] ∧
      s.ActsFurther acc.1 h.table Core.AlikeButReads (l.map (fun x => coreReg x.2 (0x280 + 4 * desc.toNat)))
        (done.flatMap (fun x => s.holdEffs x.2 (b2n half) (d x.2) (f x.2) (st x.2))) ∧
      (∀ x ∈ done, acc.1.csrAt (coreReg x.2 (0x280 + 4 * desc.toNat)) = holdAdvance (d x.2) (st x.2) adv) ∧
      ∀ k, (∀ x ∈ done, x.2 ≠ k) → acc.1.csrAt (coreReg k (0x280 + 4 * desc.toNat)) = st k)
    ⟨hs, rfl, .refl L s h.table _, fun x hx => absurd hx List.not_mem_nil, fun k _ => (hst k).symm⟩ (by
      rintro done x rest ⟨u, faults⟩ hsplit ⟨hu, rfl, hacts, hnew, hold⟩
      have hx : x ∈ l := by rw [hsplit]; simp
      have hne : ∀ y ∈ done, y.2 ≠ x.2 := fun y hy => ne_of_nodup_split (hsplit ▸ hl) hy
      have hno : ∀ e ∈ done.flatMap (fun x => s.holdEffs x.2 (b2n half) (d x.2) (f x.2) (st x.2)), e.2.writesSpd = false := fun e he => by
        obtain ⟨y, -, hy⟩ := List.mem_flatMap.1 he
        exact State.holdEffs_keeps hy
      obtain ⟨t, hcore, hok, hcacts, hcnew, hcold⟩ := State.hloadCore_acts (half := b2n half) (adv := adv) (lc := x.1)
        (wr := l.map (fun x => coreReg x.2 (0x280 + 4 * desc.toNat))) hu hdesc
        (by rw [hd, hacts.only.holdDesc hwr x.2 hdesc]) (hold x.2 hne).symm (hf x hx)
        (fun i hi off hoff => (hserv x hx i hi off hoff).after hacts L hwr hno) (List.mem_map.2 ⟨x, hx, rfl⟩)
      rw [State.holdEffs_congr hacts.only L] at hcacts
      simp only [State.hloadNext, hcore, List.append_nil]
      refine ⟨hok, trivial, by simpa using hacts.trans L hcacts, fun y hy => ?_, fun k hk => ?_⟩
      · obtain hy | hy := List.mem_append.1 hy
        · rw [hcold y.2 fun e => hne y hy (coreReg_injective e), hnew y hy]
        · rw [List.mem_singleton.1 hy, hcnew]
      · rw [hcold k fun e => hk x (by simp) (coreReg_injective e).symm, hold k fun y hy => hk y (by simp [hy])])
  exact ⟨_, Prod.ext rfl hnone, hok, hacts, hnew⟩

/-- HLOAD of descriptors whose fills are served. -/
theorem exec_hload_served {s1 : State} {h : Hdr} {desc : BitVec 2} {half adv : Bool} {d : Nat → BitVec 256} {f : Nat → Fmt} {st : Nat → Word}
    (hs : Ok cmds s) (hi : s.issue h slotL = .go s1)
    (hd : ∀ k, d k = BitVec.ofNat 256 (s1.csrWide (coreReg k (0x200 + 0x20 * desc.toNat)) 8))
    (hst : ∀ k, st k = s1.csrAt (coreReg k (0x280 + 4 * desc.toNat)))
    (hf : ∀ x ∈ s1.actors h, laneFmt (field (d x.2) 51 48) = some (f x.2))
    (hserv : ∀ x ∈ s1.actors h, ∀ i < 2, ∀ off, holdOff (d x.2) (st x.2) (2 * field (st x.2) 4 0 + i) = some off →
      s1.servesFill h x.1 x.2 (d x.2) off) :
    ∃ t, exec (.hload h desc half adv) s = .next t ∧
      s1.ActsOwes t h.table Core.AlikeButReads ((s1.actors h).map (fun x => coreReg x.2 (0x280 + 4 * desc.toNat)))
        (s1.inActors h (fun k => s1.holdEffs k (b2n half) (d k) (f k) (st k))) ∧
      ∀ x ∈ s1.actors h, t.csrAt (coreReg x.2 (0x280 + 4 * desc.toNat)) = holdAdvance (d x.2) (st x.2) adv := by
  have L := likeness_alikeButReads
  have hs1 := State.issue_go_ok hs hi
  obtain ⟨t, hfold, hok, hacts, hnew⟩ := State.foldl_hloadNext (half := half) (adv := adv) hs1 (State.actors_nodup hs1 h) hd hst hf hserv
  refine ⟨t.busyFor h.table 5, ?_, (hacts.then L ((State.busyFor_owesNothing hok.tables_.1 h.table 5).further L _)).acts, hnew⟩
  rw [execHload_go hi, hfold, State.accFaults_nil]

/-- What a fill puts in a lane, by the place that the descriptor gives it. -/
theorem holdEff_pad (k half l : Nat) : holdEff k half l LaneFill.pad =
    (5, .hold k ((List.range 64).map (fun b => (4096 * half + 64 * l + b, 0))) ((List.range 4).map (fun b => (256 * half + 4 * l + b, 0x7F)))) := rfl

theorem holdEff_laneFill (s : State) (k half l : Nat) (d : BitVec 256) (f : Fmt) (off : Int) :
    holdEff k half l (s.laneFill k d f off) =
      (5, .hold k
        ((List.range 64).map (fun b => (4096 * half + 64 * l + b,
          s.holdByte k f (fun o => SMap.get 0 (s.core k).spd (spdOffset (field d 18 0) (off + o))) (fun _ => false) b)))
        ((List.range 4).map (fun b => (256 * half + 4 * l + b, if b < (blockScales (field d 51 48)).1 then SMap.get 0 (s.core k).spd
          (spdOffset (field d 37 19) (off / (4 * (blockScales (field d 51 48)).2 : Nat) + b)) else 0x7F)))) := by
  rw [holdEff, State.laneFill, zipIdx_map_range _ 64 fun b v => (4096 * half + 64 * l + b, v),
    zipIdx_map_range _ 4 fun b v => (256 * half + 4 * l + b, v)]

/-- Settles O20: every core's loads are served whatever the cores before it have read; HLOAD by `exec_hload_served`. -/
theorem loads : Obligations.Loads := by
  refine ⟨fun s s1 h desc half adv d f hs hi hd hserv => ?_, fun s s1 h vd sd sa sb w mode q off book commit tab grp hs hi =>
    ⟨exec_ldv_served hs.ok hi, exec_lds_served hs.ok hi, fun hserv => ⟨exec_cbload_served book q commit hs.ok hi hserv,
      fun hg => exec_ctload_served hs.ok hi hg hserv⟩⟩⟩
  obtain ⟨t, hexec, hacts, hnew⟩ := exec_hload_served (half := half) (adv := adv) hs.ok hi hd (fun _ => rfl) (fun x hx => (hserv x hx).1)
    fun x hx => (hserv x hx).2
  refine ⟨t, hexec, Eq.mp (congrArg (s1.ActsOwes t h.table _ _) (State.inActors_congr fun x _ => List.map_congr_left fun i _ => ?_)) hacts, hnew⟩
  dsimp only [State.holdFill]
  cases holdOff (d x.2) (s1.csrAt (coreReg x.2 (0x280 + 4 * desc.toNat)))
      (2 * field (s1.csrAt (coreReg x.2 (0x280 + 4 * desc.toNat))) 4 0 + i) with
  | none => exact holdEff_pad ..
  | some off => exact holdEff_laneFill ..

end Sys2Proof.Machine
end

section
/-!
SUPPORT. The M slot (R50 to R59): entries put in one core after the other, what the M slot then sees of them, and what is owed for the other
slots.
-/
namespace Sys2Proof.SMap

variable {α : Type}

theorem setAll_append [DecidableEq α] (d : α) (m : SMap α) (xs ys : List (Nat × α)) :
    SMap.setAll d m (xs ++ ys) = SMap.setAll d (SMap.setAll d m xs) ys := List.foldl_append

/-- Writes whose values follow from their keys: a key written reads as its value, any other as before. -/
theorem get_setAll_of_eq [DecidableEq α] {d : α} {m : SMap α} (h : SMap.wf d m = true) {g : Nat → α} {kvs : List (Nat × α)}
    (hg : ∀ x ∈ kvs, x.2 = g x.1) (j : Nat) : SMap.get d (SMap.setAll d m kvs) j = if j ∈ kvs.map (·.1) then g j else SMap.get d m j := by
  induction kvs generalizing m with
  | nil => rfl
  | cons x kvs ih =>
    have hset : SMap.setAll d m (x :: kvs) = SMap.setAll d (SMap.set d m x.1 x.2) kvs := rfl
    rw [hset, ih (wf_set _ _ h) fun y hy => hg y (List.mem_cons_of_mem x hy), get_set h, hg x List.mem_cons_self, List.map_cons]
    by_cases hj : j ∈ kvs.map (·.1)
    · rw [if_pos hj, if_pos (List.mem_cons_of_mem _ hj)]
    · by_cases e : j = x.1
      · simp [e]
      · rw [if_neg hj, if_neg e, if_neg fun hm => (List.mem_cons.1 hm).elim e hj]

/-- Of a map filtered by key only the keys that pass are left. -/
theorem get_filter_key [DecidableEq α] {d : α} {m : SMap α} (h : SMap.wf d m = true) (p : Nat → Bool) (j : Nat) :
    SMap.get d (m.filter (fun kv => p kv.1)) j = if p j then SMap.get d m j else d := by
  induction m with
  | nil => simp [SMap.get]
  | cons x m ih =>
    obtain ⟨i, v⟩ := x
    obtain ⟨-, hlt, hm⟩ := wf_cons.1 h
    rw [List.filter_cons]
    by_cases hp : p i = true
    · rw [if_pos hp]
      simp only [SMap.get, ih hm]
      split_ifs <;> simp_all
    · rw [if_neg hp, ih hm]
      simp only [SMap.get]
      by_cases e : j = i
      · rw [e, if_neg hp, if_neg hp]
      · by_cases hl : j < i
        · rw [get_of_lt d fun x hx => hl.trans (hlt x hx)]
          simp [e, hl]
        · simp [e, hl]

end Sys2Proof.SMap

namespace Sys2Proof.Machine

variable {cmds : List Instr} {s t u : State} {n k : Nat} {es fs : List (Nat × Eff)}

/-! ### Effects that other cores' updates leave alone -/

/-- An effect that is no update of core `k`'s accumulators. -/
def Eff.apart (k : Nat) : Eff → Prop
  | .acc j _ | .accFlags j _ => j ≠ k
  | _ => True

/-- An effect whose posting changes of what is owed no more than updates of core `k`'s accumulators. -/
def Eff.within (k : Nat) (e : Eff) : Prop := ∀ due p, p.eff.apart k → supersede e due p = p

theorem Eff.keeps.within {e : Eff} (h : e.keeps) (k : Nat) : e.within k := fun due p _ => h due p

theorem Eff.acc_within (k : Nat) (es : List (Nat × Int)) : (Eff.acc k es).within k := by
  rintro due ⟨d, eff, tcc, pc, slot, locs, drains⟩ hp
  unfold supersede
  split
  · rfl
  · cases eff with
    | acc j => exact if_neg (Ne.symm hp)
    | _ => rfl

theorem Eff.accClear_within (k n : Nat) (cfg : Word) : (Eff.accClear k n cfg).within k := by
  rintro due ⟨d, eff, tcc, pc, slot, locs, drains⟩ hp
  unfold supersede
  split
  · rfl
  · cases eff with
    | acc j | accFlags j => exact if_neg (Ne.symm hp)
    | _ => rfl

/-! ### A step of the M slot in one core -/

/-- From `s` to `t` an operation of the M slot of table `n` has acted on core `k` alone: what is owed for other cores stays owed, and the
effects `es` are owed. -/
structure State.CoreStep (s t : State) (n k : Nat) (es : List (Nat × Eff)) : Prop where
  only  : s.ActsOnly t n Core.AlikeButMatrix []
  cores : ∀ j, j ≠ k → t.core j = s.core j
  keeps : ∀ p ∈ s.owed n, p.2.apart k → p ∈ t.owed n
  owes  : ∀ e ∈ es, (s.cyc n + e.1, e.2) ∈ t.owed n

theorem State.OwesNothing.coreStep (h : s.OwesNothing t n) (k : Nat) : s.CoreStep t n k [] where
  only := h.only.actsOnly likeness_alikeButMatrix []
  cores j _ := h.only.core j
  keeps p hp _ := by rwa [h.owed]
  owes _ he := absurd he List.not_mem_nil

theorem State.CoreStep.modCore (hs : SMap.wf Core.reset s.cores = true) (n k : Nat) {f : Core → Core}
    (hf : (s.core k).AlikeButMatrix (f (s.core k))) : s.CoreStep (s.modCore k f) n k [] where
  only := .modCore likeness_alikeButMatrix hs n [] k hf
  cores j hj := by rw [State.core_modCore hs, if_neg hj]
  keeps _ hp _ := hp
  owes _ he := absurd he List.not_mem_nil

/-- A step that owes nothing, and then another. -/
theorem State.CoreStep.trans (h : s.CoreStep t n k []) (g : t.CoreStep u n k es) : s.CoreStep u n k es where
  only := h.only.trans likeness_alikeButMatrix g.only
  cores j hj := (g.cores j hj).trans (h.cores j hj)
  keeps p hp ha := g.keeps p (h.keeps p hp ha) ha
  owes e he := by rw [← h.only.cyc n]; exact g.owes e he

theorem State.CoreStep.then (h : s.CoreStep t n k es) (g : t.OwesNothing u n) : s.CoreStep u n k es where
  only := h.only.trans likeness_alikeButMatrix (g.only.actsOnly likeness_alikeButMatrix [])
  cores j hj := (g.only.core j).trans (h.cores j hj)
  keeps p hp ha := by rw [g.owed]; exact h.keeps p hp ha
  owes e he := by rw [g.owed]; exact h.owes e he

/-- The effects that a table owes after posting, one effect at a time. -/
theorem State.owed_post (hs : SMap.wf Table.reset s.tables = true) (n slot : Nat) (pc : BitVec 17) (chk : Bool) (es : List (Nat × Eff)) :
    ∃ mk : Nat × Eff → Pend, (∀ e, (mk e).due = s.cyc n + e.1 ∧ (mk e).eff = e.2) ∧
      ((s.post n slot pc chk es).table n).pend =
        es.foldl (fun ps e => ps.map (supersede e.2 (s.cyc n + e.1)) ++ [mk e]) (s.table n).pend := by
  refine ⟨fun e => { due := s.cyc n + e.1, eff := e.2, tcc := (s.table n).tcc.truncate 32, pc := pc, slot := slot
                     locs := if chk then (if s.recs.debug then s.effLocs n e.2 else []) else []
                     drains := if chk then [] else (if s.recs.debug then s.effLocs n e.2 else []) }, fun e => ⟨rfl, rfl⟩, ?_⟩
  unfold State.post
  rw [State.table_modTable hs, if_pos rfl]

theorem mem_foldl_supersede {mk : Nat × Eff → Pend} {c : Nat} {es : List (Nat × Eff)} {ps : List Pend} {p : Pend} (hp : p ∈ ps)
    (h : ∀ e ∈ es, ∀ due, supersede e.2 due p = p) :
    p ∈ es.foldl (fun ps e => ps.map (supersede e.2 (c + e.1)) ++ [mk e]) ps := by
  induction es generalizing ps with
  | nil => exact hp
  | cons e es ih =>
    refine ih (List.mem_append_left _ ?_) fun x hx => h x (List.mem_cons_of_mem e hx)
    exact List.mem_map.2 ⟨p, hp, h e List.mem_cons_self _⟩

/-- Posting an update of core `k` and effects that change nothing owed. -/
theorem State.CoreStep.post (hs : SMap.wf Table.reset s.tables = true) (n slot : Nat) (pc : BitVec 17) (chk : Bool)
    (he : ∀ e ∈ es, e.2.within k) (hf : ∀ e ∈ fs, e.2.keeps) (hone : es.length ≤ 1) :
    s.CoreStep (s.post n slot pc chk (es ++ fs)) n k es := by
  obtain ⟨mk, hmk, hpend⟩ := State.owed_post hs n slot pc chk (es ++ fs)
  have hall : ∀ e ∈ es ++ fs, e.2.within k := fun e hm => (List.mem_append.1 hm).elim (he e) fun hm => (hf e hm).within k
  have honly : s.OwesOnly (s.post n slot pc chk (es ++ fs)) n := by
    unfold State.post
    exact .modTable hs n _ rfl fun _ => rfl
  refine ⟨honly.actsOnly likeness_alikeButMatrix [], fun j _ => honly.core j, fun p hp ha => ?_, fun e hm => ?_⟩
  · obtain ⟨q, hq, rfl⟩ := List.mem_map.1 hp
    unfold State.owed
    rw [hpend]
    exact List.mem_map_of_mem (mem_foldl_supersede hq fun e hm due => hall e hm due q ha)
  · obtain rfl : es = [e] := by
      match es, hone, hm with
      | [x], _, hm => rw [List.mem_singleton.1 hm]
    refine List.mem_map.2 ⟨mk e, ?_, Prod.ext (hmk e).1 (hmk e).2⟩
    rw [hpend, List.singleton_append, List.foldl_cons]
    exact mem_foldl_supersede (List.mem_append_right _ List.mem_cons_self) fun x hx due => hf x hx due _

/-! ### One core after the other -/

/-- Steps in the cores of a list without repetitions: each core is left as its own step leaves it, and what is owed for it stays owed. -/
theorem State.foldl_coreSteps {f : State → Nat × Nat → State} {R : Nat × Nat → Core → Prop} {es : Nat × Nat → List (Nat × Eff)}
    {l : List (Nat × Nat)} (hs : Ok cmds s) (hl : (l.map (·.2)).Nodup)
    (hstep : ∀ u, ∀ x ∈ l, Ok cmds u → s.ActsOnly u n Core.AlikeButMatrix [] → u.core x.2 = s.core x.2 →
      Ok cmds (f u x) ∧ u.CoreStep (f u x) n x.2 (es x) ∧ R x ((f u x).core x.2))
    (hes : ∀ x ∈ l, ∀ e ∈ es x, ∀ k, k ≠ x.2 → e.2.apart k) :
    Ok cmds (l.foldl f s) ∧ s.ActsOnly (l.foldl f s) n Core.AlikeButMatrix [] ∧
      (∀ x ∈ l, R x ((l.foldl f s).core x.2) ∧ ∀ e ∈ es x, (s.cyc n + e.1, e.2) ∈ (l.foldl f s).owed n) ∧
      ∀ k, (∀ x ∈ l, x.2 ≠ k) → (l.foldl f s).core k = s.core k := by
  refine foldl_along (M := fun done u => Ok cmds u ∧ s.ActsOnly u n Core.AlikeButMatrix [] ∧
    (∀ x ∈ done, R x (u.core x.2) ∧ ∀ e ∈ es x, (s.cyc n + e.1, e.2) ∈ u.owed n) ∧ ∀ k, (∀ x ∈ done, x.2 ≠ k) → u.core k = s.core k)
    ⟨hs, .refl likeness_alikeButMatrix s n [], fun x hx => absurd hx List.not_mem_nil, fun _ _ => rfl⟩ ?_
  rintro done x rest u hsplit ⟨hu, hacts, hdone, hrest⟩
  have hx : x ∈ l := by rw [hsplit]; simp
  have hne : ∀ y ∈ done, y.2 ≠ x.2 := fun y hy => ne_of_nodup_split (hsplit ▸ hl) hy
  obtain ⟨hok, hcore, hR⟩ := hstep u x hx hu hacts (hrest x.2 hne)
  refine ⟨hok, hacts.trans likeness_alikeButMatrix hcore.only, fun y hy => ?_, fun k hk => ?_⟩
  · obtain hy | hy := List.mem_append.1 hy
    · have hyl : y ∈ l := by rw [hsplit]; exact List.mem_append_left _ hy
      obtain ⟨hRy, howed⟩ := hdone y hy
      exact ⟨by rwa [hcore.cores y.2 (hne y hy)], fun e he => hcore.keeps _ (howed e he) (hes y hyl e he x.2 (hne y hy).symm)⟩
    · obtain rfl := List.mem_singleton.1 hy
      exact ⟨hR, fun e he => by rw [← hacts.cyc n]; exact hcore.owes e he⟩
  · rw [hcore.cores k (hk x (by simp)).symm, hrest k fun y hy => hk y (by simp [hy])]

/-! ### Entries -/

/-- Each entry has a key of its own. -/
theorem accKey_inj {l n e l' n' e' : Nat} (hn : n < 8) (he : e < 64) (hn' : n' < 8) (he' : e' < 64) :
    accKey l n e = accKey l' n' e' ↔ l = l' ∧ n = n' ∧ e = e' := by
  unfold accKey
  omega

/-- The update that is owed for the other slots, if entries are put at all. -/
def accEffs (lat k : Nat) (es : List (Nat × Int)) : List (Nat × Eff) := if es.isEmpty then [] else [(lat, .acc k es)]

theorem eq_of_mem_accEffs {lat k : Nat} {es : List (Nat × Int)} {e : Nat × Eff} (h : e ∈ accEffs lat k es) : e = (lat, .acc k es) := by
  unfold accEffs at h
  split at h
  · cases h
  · exact List.mem_singleton.1 h

theorem length_accEffs_le (lat k : Nat) (es : List (Nat × Int)) : (accEffs lat k es).length ≤ 1 := by unfold accEffs; split <;> simp

theorem mem_accEffs {lat k : Nat} {es : List (Nat × Int)} (h : es ≠ []) : (lat, .acc k es) ∈ accEffs lat k es := by
  rw [accEffs, if_neg (by simpa using h)]
  exact List.mem_singleton_self _

theorem accEffs_apart {lat k j : Nat} {es : List (Nat × Int)} (hj : j ≠ k) {e : Nat × Eff} (h : e ∈ accEffs lat k es) : e.2.apart j := by
  rw [eq_of_mem_accEffs h]
  exact hj.symm

/-- A core with new entries, as the M slot sees them. -/
def Core.withEntries (c : Core) (es : List (Nat × Int)) : Core := { c with accM := SMap.setAll 0 c.accM es }

/-- Entries put in core `k`: the M slot sees them at once, and the update is owed. -/
theorem State.putAcc_step {h : Hdr} (hs : Ok cmds s) (chk : Bool) (lat k : Nat) (es : List (Nat × Int)) (fs : List (Nat × BitVec 5)) :
    s.CoreStep (s.putAcc h chk lat k es fs) h.table k (accEffs lat k es) ∧
      (s.putAcc h chk lat k es fs).core k = (s.core k).withEntries es := by
  have hmod : Ok cmds (s.modCore k (Core.withEntries · es)) := State.modCore_ok hs fun c hc => coreOk_accM hc (SMap.wf_setAll _ hc.accM_)
  have hcore : (s.modCore k (Core.withEntries · es)).core k = (s.core k).withEntries es :=
    (State.core_modCore hs.cores_.1 k k _).trans (if_pos rfl)
  refine ⟨?_, hcore⟩
  refine ((State.CoreStep.modCore hs.cores_.1 h.table k (f := (Core.withEntries · es)) rfl).trans
    (.post hmod.tables_.1 h.table slotM h.pc chk (fun e he => ?_) (fun e he => ?_) (length_accEffs_le lat k es))).then
    (State.busyFor_owesNothing (State.post_ok hmod).tables_.1 h.table lat)
  · rw [eq_of_mem_accEffs he]
    exact Eff.acc_within k es
  · split at he
    · cases he
    · rw [List.mem_singleton.1 he]
      exact Eff.keeps_of trivial

/-- Reads of entries by the M slot owe nothing. -/
theorem State.noteMReads_owesNothing (hs : SMap.wf Table.reset s.tables = true) (n : Nat) (rewrites : Bool) (ls : List Loc) :
    s.OwesNothing (s.noteMReads n rewrites ls) n := by
  unfold State.noteMReads
  split
  · exact .refl s n
  · next hd =>
    refine ⟨.modTable hs n _ rfl fun hd' => absurd hd' (by simpa using hd), ?_, ?_⟩
    · unfold State.owed
      rw [State.table_modTable hs, if_pos rfl]
      dsimp only
      split
      · rw [List.map_map]
        rfl
      · rfl
    · rw [State.table_modTable hs, if_pos rfl]

end Sys2Proof.Machine
end

section
/-!
MCLR, MSETW, MRED, MINJ and WARM (R49, R57 to R59, R91): what the M slot sees at once in every core.
-/
namespace Sys2Proof.Machine

variable {cmds : List Instr} {s s1 t u : State} {h : Hdr} {n : Nat} {l : List (Nat × Nat)}

/-! ### Entries put in every core of an operation -/

/-- Entries `E` put in each core of a list without repetitions. -/
theorem State.foldl_withEntries {f : State → Nat × Nat → State} {E : Nat → List (Nat × Int)} {lat : Nat} (hs : Ok cmds s)
    (hl : (l.map (·.2)).Nodup) (hstep : ∀ u, ∀ x ∈ l, Ok cmds u → s.ActsOnly u n Core.AlikeButMatrix [] → u.core x.2 = s.core x.2 →
      Ok cmds (f u x) ∧ u.CoreStep (f u x) n x.2 (accEffs lat x.2 (E x.2)) ∧ (f u x).core x.2 = (u.core x.2).withEntries (E x.2)) :
    s.ActsOnly (l.foldl f s) n Core.AlikeButMatrix [] ∧
      (∀ x ∈ l, (l.foldl f s).core x.2 = (s.core x.2).withEntries (E x.2) ∧
        (E x.2 ≠ [] → (s.cyc n + lat, .acc x.2 (E x.2)) ∈ (l.foldl f s).owed n)) ∧
      ∀ k, (∀ x ∈ l, x.2 ≠ k) → (l.foldl f s).core k = s.core k := by
  obtain ⟨-, hacts, hdone, hrest⟩ := State.foldl_coreSteps (f := f) (R := fun x c => c = (s.core x.2).withEntries (E x.2))
    (es := fun x => accEffs lat x.2 (E x.2)) hs hl
    (fun u x hx hu ha hc => by
      obtain ⟨hok, hcore, hnew⟩ := hstep u x hx hu ha hc
      exact ⟨hok, hcore, by rw [hnew, hc]⟩)
    fun x _ e he k hk => accEffs_apart hk he
  exact ⟨hacts, fun x hx => ⟨(hdone x hx).1, fun hne => (hdone x hx).2 _ (mem_accEffs hne)⟩, hrest⟩

/-- An entry as the M slot sees it once entries have been put. -/
theorem State.accM_withEntries {k : Nat} {es : List (Nat × Int)} (hc : t.core k = (s.core k).withEntries es) (l n e : Nat) :
    t.accM k l n e = SMap.get 0 (SMap.setAll 0 (s.core k).accM es) (accKey l n e) := by
  unfold State.accM
  rw [hc]
  rfl

theorem State.setCfgM_withEntries {k : Nat} {es : List (Nat × Int)} (hc : t.core k = (s.core k).withEntries es) (n : Nat) :
    t.setCfgM k n = s.setCfgM k n := by
  unfold State.setCfgM
  rw [hc]
  rfl

/-- One entry put in each of the lanes `ls`. -/
theorem State.accM_of_lanes {k n e : Nat} {ls : List Nat} {v : Nat → Int} (hs : Ok cmds s)
    (hc : t.core k = (s.core k).withEntries (ls.map (fun l => (accKey l n e, v l)))) (hn : n < 8) (he : e < 64) {l n' e' : Nat}
    (hn' : n' < 8) (he' : e' < 64) : t.accM k l n' e' = if n' = n ∧ e' = e ∧ l ∈ ls then v l else s.accM k l n' e' := by
  have hlane : ∀ i, accKey i n e / 512 = i := fun i => by unfold accKey; omega
  rw [State.accM_withEntries hc, SMap.get_setAll_of_eq (State.core_ok hs).accM_ (g := fun j => v (j / 512)) fun x hx => by
    obtain ⟨i, -, rfl⟩ := List.mem_map.1 hx
    exact congrArg v (hlane i).symm]
  have hmem : accKey l n' e' ∈ (ls.map (fun l => (accKey l n e, v l))).map (·.1) ↔ n' = n ∧ e' = e ∧ l ∈ ls := by
    rw [List.map_map, List.mem_map]
    constructor
    · rintro ⟨i, hi, heq⟩
      obtain ⟨rfl, rfl, rfl⟩ := (accKey_inj hn he hn' he').1 heq
      exact ⟨rfl, rfl, hi⟩
    · rintro ⟨rfl, rfl, hl⟩
      exact ⟨l, hl, rfl⟩
  by_cases hh : n' = n ∧ e' = e ∧ l ∈ ls
  · rw [if_pos (hmem.2 hh), if_pos hh, hh.1, hh.2.1, hlane]
  · rw [if_neg fun hm => hh (hmem.1 hm), if_neg hh]
    rfl

/-! ### MCLR -/

/-- The entries that an MCLR gives core `k`: the start value to each existing entry of the range, in every unmasked lane. -/
def State.mclrEntries (s : State) (k : Nat) (val : BitVec 2) (aset : BitVec 3) (first last : BitVec 6) (msk : BitVec 2) : List (Nat × Int) :=
  (s.maskLanes k msk).flatMap (fun l => ((List.range 64).filter (fun e =>
    decide (first.toNat ≤ e) && decide (e ≤ last.toNat) && !entryAbsent (s.setCfgM k aset.toNat) e)).map (fun e =>
      (accKey l aset.toNat e, (gridOf (s.setCfgM k aset.toNat)).start val.toNat)))

theorem exec_mclr_go {val : BitVec 2} {aset : BitVec 3} {first last : BitVec 6} {msk : BitVec 2} (hi : s.issue h slotM = .go s1)
    (hw : (Instr.mclr h val aset first last msk).wf = true) : exec (.mclr h val aset first last msk) s =
      .next (((s1.opCores h).foldl (fun acc x => acc.putAcc h false 2 x.2 (s1.mclrEntries x.2 val aset first last msk) []) s1).accEvent
        h 0x2102 aset.toNat (max first.toNat 32) ((s1.opCores h).filter (fun x => entryAbsent (s1.setCfgM x.2 aset.toNat) last.toNat))) :=
  slotOp_go hw hi

/-- Where every core has the entries of a list no event is raised. -/
theorem State.accEvent_of_present {cs : List (Nat × Nat)} {p : Nat × Nat → Bool} (hp : ∀ x ∈ cs, p x = false) (s : State) (h : Hdr)
    (code n e : Nat) : s.accEvent h code n e (cs.filter p) = s := by
  rw [List.filter_eq_nil_iff.2 fun x hx => by simp [hp x hx], State.accEvent_nil]

/-- The keys that an MCLR writes are those of the range in the unmasked lanes. -/
theorem mem_mclrEntries {k : Nat} {val : BitVec 2} {aset : BitVec 3} {first last : BitVec 6} {msk : BitVec 2}
    (hw : cfgWide (s.setCfgM k aset.toNat) = true → last.toNat ≤ 31) {l n e : Nat} (hn : n < 8) (he : e < 64) :
    accKey l n e ∈ (s.mclrEntries k val aset first last msk).map (·.1) ↔
      n = aset.toNat ∧ first.toNat ≤ e ∧ e ≤ last.toNat ∧ l ∈ s.maskLanes k msk := by
  have hset : aset.toNat < 8 := aset.isLt
  simp only [State.mclrEntries, List.mem_map, List.mem_flatMap, List.mem_filter, List.mem_range, Bool.and_eq_true, decide_eq_true_eq,
    Bool.not_eq_true']
  constructor
  · rintro ⟨_, ⟨i, hi, j, ⟨hj, ⟨hfirst, hlast⟩, -⟩, rfl⟩, heq⟩
    obtain ⟨rfl, rfl, rfl⟩ := (accKey_inj hset hj hn he).1 heq
    exact ⟨rfl, hfirst, hlast, hi⟩
  · rintro ⟨rfl, hfirst, hlast, hl⟩
    exact ⟨_, ⟨l, hl, e, ⟨he, ⟨hfirst, hlast⟩, entryAbsent_eq_false fun hwide => hlast.trans (hw hwide)⟩, rfl⟩, rfl⟩

theorem exec_mclr_acts {val : BitVec 2} {aset : BitVec 3} {first last : BitVec 6} {msk : BitVec 2} (hs : Ok cmds s)
    (hi : s.issue h slotM = .go s1) (hwf : (Instr.mclr h val aset first last msk).wf = true)
    (hw : ∀ x ∈ s1.opCores h, cfgWide (s1.setCfgM x.2 aset.toNat) = true → last.toNat ≤ 31) :
    ∃ t, exec (.mclr h val aset first last msk) s = .next t ∧ s1.ActsOnly t h.table Core.AlikeButMatrix [] ∧
      ∀ x ∈ s1.opCores h, ∀ l n e, l < 64 → n < 8 → e < 64 → t.accM x.2 l n e =
        if n = aset.toNat ∧ first.toNat ≤ e ∧ e ≤ last.toNat ∧ l ∈ s1.maskLanes x.2 msk then
          (gridOf (s1.setCfgM x.2 n)).start val.toNat else s1.accM x.2 l n e := by
  have hs1 := State.issue_go_ok hs hi
  obtain ⟨hacts, hcores, -⟩ := State.foldl_withEntries (n := h.table) (lat := 2) (E := fun k => s1.mclrEntries k val aset first last msk)
    (f := fun acc x => acc.putAcc h false 2 x.2 (s1.mclrEntries x.2 val aset first last msk) []) hs1 (State.opCores_nodup hs1 h)
    fun u x _ hu _ _ => ⟨State.putAcc_ok hu, State.putAcc_step hu false 2 x.2 _ []⟩
  refine ⟨_, exec_mclr_go hi hwf, ?_⟩
  rw [State.accEvent_of_present fun x hx => entryAbsent_eq_false (hw x hx)]
  refine ⟨hacts, fun x hx l n e _ hn he => ?_⟩
  rw [State.accM_withEntries (hcores x hx).1, SMap.get_setAll_of_eq (State.core_ok hs1).accM_
    (g := fun _ => (gridOf (s1.setCfgM x.2 aset.toNat)).start val.toNat) fun y hy => by
      obtain ⟨i, -, hy⟩ := List.mem_flatMap.1 hy
      obtain ⟨j, -, rfl⟩ := List.mem_map.1 hy
      rfl]
  simp only [mem_mclrEntries (hw x hx) hn he]
  split
  · next hin => rw [hin.1]
  · rfl

/-! ### MSETW -/

/-- A core with set `n` configured anew and empty, as the M slot sees it. -/
def Core.withSet (c : Core) (n : Nat) (cfg : Word) : Core :=
  { c with cfgM := SMap.set 0 c.cfgM n cfg, accM := c.accM.filter (fun kv => !(kv.1 / 64 % 8 == n)) }

theorem exec_msetw_go {aset : BitVec 3} {wide : Bool} {anchor : BitVec 10} (hi : s.issue h slotM = .go s1)
    (hw : (Instr.msetw h aset wide anchor).wf = true) : exec (.msetw h aset wide anchor) s =
      .next ((s1.opCores h).foldl (fun acc x => (acc.modCore x.2 (Core.withSet · aset.toNat (setCfgWord wide anchor))).post
        h.table slotM h.pc false [(2, .accClear x.2 aset.toNat (setCfgWord wide anchor))]) s1) :=
  slotOp_go hw hi

theorem setCfgWord_eq (wide : Bool) (anchor : BitVec 10) : setCfgWord wide anchor = (if wide then 1 else 0) + 2 * anchor.zeroExtend 32 := by
  have ha := anchor.isLt
  apply BitVec.eq_of_toNat_eq
  cases wide <;> simp [setCfgWord, b2n]

theorem exec_msetw_acts {aset : BitVec 3} {wide : Bool} {anchor : BitVec 10} (hs : Ok cmds s) (hi : s.issue h slotM = .go s1)
    (hwf : (Instr.msetw h aset wide anchor).wf = true) :
    ∃ t, exec (.msetw h aset wide anchor) s = .next t ∧ s1.ActsOnly t h.table Core.AlikeButMatrix [] ∧
      ∀ x ∈ s1.opCores h, (∀ n, n < 8 → t.setCfgM x.2 n = if n = aset.toNat then setCfgWord wide anchor else s1.setCfgM x.2 n) ∧
        (∀ l n e, l < 64 → n < 8 → e < 64 → t.accM x.2 l n e = if n = aset.toNat then 0 else s1.accM x.2 l n e) ∧
        (s1.cyc h.table + 2, .accClear x.2 aset.toNat (setCfgWord wide anchor)) ∈ t.owed h.table := by
  have hs1 := State.issue_go_ok hs hi
  obtain ⟨-, hacts, hcores, -⟩ := State.foldl_coreSteps (n := h.table)
    (f := fun acc x => (acc.modCore x.2 (Core.withSet · aset.toNat (setCfgWord wide anchor))).post
        h.table slotM h.pc false [(2, .accClear x.2 aset.toNat (setCfgWord wide anchor))])
    (R := fun x c => c = (s1.core x.2).withSet aset.toNat (setCfgWord wide anchor))
    (es := fun x => [(2, .accClear x.2 aset.toNat (setCfgWord wide anchor))]) hs1 (State.opCores_nodup hs1 h)
    (fun u x _ hu _ hc => by
      have hmod : Ok cmds (u.modCore x.2 (Core.withSet · aset.toNat (setCfgWord wide anchor))) := State.modCore_ok hu fun c hc =>
        coreOk_accM_cfgM hc (SMap.wf_filter _ hc.accM_) (SMap.wf_set _ _ hc.cfgM_)
      refine ⟨State.post_ok hmod, ?_, ?_⟩
      · refine (State.CoreStep.modCore hu.cores_.1 h.table x.2 (f := (Core.withSet · aset.toNat (setCfgWord wide anchor))) rfl).trans
          (.post (es := [(2, .accClear x.2 aset.toNat (setCfgWord wide anchor))]) (fs := []) hmod.tables_.1 h.table slotM h.pc false
            (fun e he => ?_) (fun e he => absurd he List.not_mem_nil) (le_refl 1))
        rw [List.mem_singleton.1 he]
        exact Eff.accClear_within x.2 _ _
      · have hcore : (u.modCore x.2 (Core.withSet · aset.toNat (setCfgWord wide anchor))).core x.2 =
            (u.core x.2).withSet aset.toNat (setCfgWord wide anchor) := (State.core_modCore hu.cores_.1 x.2 x.2 _).trans (if_pos rfl)
        rw [← hc]
        exact hcore)
    fun x _ e he k _ => by rw [List.mem_singleton.1 he]; trivial
  refine ⟨_, exec_msetw_go hi hwf, hacts, fun x hx => ⟨fun n _ => ?_, fun l n e _ hn he => ?_, (hcores x hx).2 _ List.mem_cons_self⟩⟩
  · unfold State.setCfgM
    rw [(hcores x hx).1]
    exact SMap.get_set (State.core_ok hs1).cfgM_ ..
  · have hset : accKey l n e / 64 % 8 = n := by unfold accKey; omega
    unfold State.accM
    rw [(hcores x hx).1]
    refine (SMap.get_filter_key (State.core_ok hs1).accM_ (fun j => !(j / 64 % 8 == aset.toNat)) _).trans ?_
    rw [hset]
    by_cases e : n = aset.toNat <;> simp [e]

end Sys2Proof.Machine
end

section
/-!
MRED, MINJ and WARM (R49, R58, R59, R91), and the operations on accumulators together.
-/
namespace Sys2Proof.Machine

variable {cmds : List Instr} {s s1 t u : State} {h : Hdr} {n : Nat}

/-- Entries put after reads that owe nothing. -/
theorem State.OwesNothing.putAcc_step (hn : s.OwesNothing t h.table) (ht : Ok cmds t) (chk : Bool) (lat k : Nat) (es : List (Nat × Int))
    (fs : List (Nat × BitVec 5)) : s.CoreStep (t.putAcc h chk lat k es fs) h.table k (accEffs lat k es) ∧
      (t.putAcc h chk lat k es fs).core k = (s.core k).withEntries es := by
  obtain ⟨hstep, hcore⟩ := State.putAcc_step (h := h) ht chk lat k es fs
  exact ⟨(hn.coreStep k).trans hstep, by rw [hcore, hn.only.core]⟩

/-! ### MRED -/

theorem combine_eq (rop : BitVec 2) (a b : Int) : combine rop.toNat a b = if rop = 1 then min a b else if rop = 2 then max a b else a + b := by
  have hmin : (if b < a then b else a) = min a b := by rw [min_def]; split_ifs <;> omega
  have hmax : (if a < b then b else a) = max a b := by rw [max_def]; split_ifs <;> omega
  have hrop : rop = 0 ∨ rop = 1 ∨ rop = 2 ∨ rop = 3 := by revert rop; decide
  rw [← hmin, ← hmax]
  obtain rfl | rfl | rfl | rfl := hrop <;> rfl

/-- The entries that an MRED gives core `k`: none where every lane is masked. -/
def State.mredWrites (s : State) (k n e d : Nat) (keep : Bool) (rop : Nat) (msk : BitVec 2) : List (Nat × Int) :=
  match s.maskLanes k msk with
  | [] => []
  | dl :: ls => s.mredEntries k n e d keep rop dl ls

/-- MRED in core `x.2`, its lanes and entries read from `s`. -/
def State.mredCore (s : State) (h : Hdr) (n e d : Nat) (keep : Bool) (rop : Nat) (msk : BitVec 2) (acc : State) (x : Nat × Nat) : State :=
  match s.maskLanes x.2 msk with
  | [] => acc.busyFor h.table 10
  | dl :: ls =>
    (acc.noteMReads h.table (!keep) [.acc x.2 (64 * n + e)]).putAcc h true 10 x.2 (s.mredEntries x.2 n e d keep rop dl ls)
      [(64 * n + dl, ls.foldl (fun f l => f ||| s.accFlagsM h.table x.2 n l) 0)]

theorem exec_mred_go {aset : BitVec 3} {entry dentry : BitVec 6} {msk rop : BitVec 2} {keep : Bool} (hi : s.issue h slotM = .go s1)
    (hw : (Instr.mred h aset entry dentry msk keep rop).wf = true) : exec (.mred h aset entry dentry msk keep rop) s =
      .next (((s1.opCores h).foldl (s1.mredCore h aset.toNat entry.toNat dentry.toNat keep rop.toNat msk) s1).accEvent h 0x2102 aset.toNat
        (if 31 < entry.toNat then entry.toNat else dentry.toNat) ((s1.opCores h).filter (fun x =>
          entryAbsent (s1.setCfgM x.2 aset.toNat) entry.toNat || entryAbsent (s1.setCfgM x.2 aset.toNat) dentry.toNat))) := by
  change execMred h aset entry dentry msk keep rop s = _
  unfold execMred
  rw [slotOp_go hw hi]
  rfl

theorem State.mredCore_step (s1 : State) (hu : Ok cmds u) (n e d : Nat) (keep : Bool) (rop : Nat) (msk : BitVec 2) (x : Nat × Nat) :
    Ok cmds (s1.mredCore h n e d keep rop msk u x) ∧
      u.CoreStep (s1.mredCore h n e d keep rop msk u x) h.table x.2 (accEffs 10 x.2 (s1.mredWrites x.2 n e d keep rop msk)) ∧
      (s1.mredCore h n e d keep rop msk u x).core x.2 = (u.core x.2).withEntries (s1.mredWrites x.2 n e d keep rop msk) := by
  unfold State.mredCore State.mredWrites
  cases s1.maskLanes x.2 msk with
  | nil =>
    have hbusy := State.busyFor_owesNothing hu.tables_.1 h.table 10
    exact ⟨State.busyFor_ok hu, hbusy.coreStep x.2, hbusy.only.core x.2⟩
  | cons dl ls =>
    obtain ⟨hstep, hcore⟩ := (State.noteMReads_owesNothing hu.tables_.1 h.table (!keep) [.acc x.2 (64 * n + e)]).putAcc_step
      (State.noteMReads_ok hu) true 10 x.2 (s1.mredEntries x.2 n e d keep rop dl ls)
      [(64 * n + dl, ls.foldl (fun f l => f ||| s1.accFlagsM h.table x.2 n l) 0)]
    exact ⟨State.putAcc_ok (State.noteMReads_ok hu), hstep, hcore⟩

/-- An MRED in a set that has both entries gathers the lanes into the first, and gives the others the start value unless they keep theirs. -/
theorem State.accM_of_mred {k n e d : Nat} {keep : Bool} {rop dl : Nat} {ls : List Nat} (hs : Ok cmds s)
    (hc : t.core k = (s.core k).withEntries (s.mredEntries k n e d keep rop dl ls)) (hn : n < 8) (he : e < 64) (hd : d < 64)
    (hep : entryAbsent (s.setCfgM k n) e = false) (hdp : entryAbsent (s.setCfgM k n) d = false) {l n' e' : Nat} (hn' : n' < 8)
    (he' : e' < 64) : t.accM k l n' e' =
      if n' = n ∧ e' = d ∧ l = dl then
        wrapS (gridOf (s.setCfgM k n)).width (ls.foldl (fun a l => combine rop a (s.accM k l n e)) (s.accM k dl n e))
      else if n' = n ∧ e' = e ∧ l ∈ ls ∧ keep = false then (gridOf (s.setCfgM k n)).start rop else s.accM k l n' e' := by
  have hkey : accKey l n' e' = accKey dl n d ↔ n' = n ∧ e' = d ∧ l = dl := by
    rw [accKey_inj hn' he' hn hd]
    tauto
  rw [State.accM_withEntries hc]
  simp only [State.mredEntries, hep, hdp, Bool.false_eq_true, if_false]
  rw [SMap.setAll_append]
  refine (SMap.get_set (SMap.wf_setAll _ (State.core_ok hs).accM_) ..).trans ?_
  simp only [hkey]
  by_cases hsum : n' = n ∧ e' = d ∧ l = dl
  · rw [if_pos hsum, if_pos hsum]
  rw [if_neg hsum, if_neg hsum]
  cases keep with
  | true => rw [if_pos rfl, if_neg fun h => Bool.noConfusion h.2.2.2]; rfl
  | false =>
    have hput := State.accM_of_lanes (t := s.modCore k (Core.withEntries · (ls.map (fun l => (accKey l n e, (gridOf (s.setCfgM k n)).start rop)))))
      (v := fun _ => (gridOf (s.setCfgM k n)).start rop) hs ((State.core_modCore hs.cores_.1 k k _).trans (if_pos rfl)) hn he (l := l) hn' he'
    rw [State.accM_withEntries ((State.core_modCore hs.cores_.1 k k _).trans (if_pos rfl))] at hput
    simpa using hput

theorem exec_mred_acts {aset : BitVec 3} {entry dentry : BitVec 6} {msk rop : BitVec 2} {keep : Bool} (hs : Ok cmds s)
    (hi : s.issue h slotM = .go s1) (hwf : (Instr.mred h aset entry dentry msk keep rop).wf = true)
    (hw : ∀ x ∈ s1.opCores h, cfgWide (s1.setCfgM x.2 aset.toNat) = true → entry.toNat ≤ 31 ∧ dentry.toNat ≤ 31) :
    ∃ t, exec (.mred h aset entry dentry msk keep rop) s = .next t ∧ s1.ActsOnly t h.table Core.AlikeButMatrix [] ∧
      ∀ x ∈ s1.opCores h, ∀ dl ls, s1.maskLanes x.2 msk = dl :: ls → ∀ l n e, l < 64 → n < 8 → e < 64 → t.accM x.2 l n e =
        if n = aset.toNat ∧ e = dentry.toNat ∧ l = dl then
          wrapS (gridOf (s1.setCfgM x.2 n)).width
            (ls.foldl (fun a l => if rop = 1 then min a (s1.accM x.2 l n entry.toNat) else if rop = 2 then max a (s1.accM x.2 l n entry.toNat)
              else a + s1.accM x.2 l n entry.toNat) (s1.accM x.2 dl n entry.toNat))
        else if n = aset.toNat ∧ e = entry.toNat ∧ l ∈ ls ∧ keep = false then (gridOf (s1.setCfgM x.2 n)).start rop.toNat
        else s1.accM x.2 l n e := by
  have hs1 := State.issue_go_ok hs hi
  have he : ∀ x ∈ s1.opCores h, entryAbsent (s1.setCfgM x.2 aset.toNat) entry.toNat = false := fun x hx =>
    entryAbsent_eq_false fun hwide => (hw x hx hwide).1
  have hd : ∀ x ∈ s1.opCores h, entryAbsent (s1.setCfgM x.2 aset.toNat) dentry.toNat = false := fun x hx =>
    entryAbsent_eq_false fun hwide => (hw x hx hwide).2
  obtain ⟨hacts, hcores, -⟩ := State.foldl_withEntries (n := h.table) (lat := 10)
    (E := fun k => s1.mredWrites k aset.toNat entry.toNat dentry.toNat keep rop.toNat msk) hs1 (State.opCores_nodup hs1 h)
    fun u x _ hu _ _ => State.mredCore_step (h := h) s1 hu aset.toNat entry.toNat dentry.toNat keep rop.toNat msk x
  refine ⟨_, exec_mred_go hi hwf, ?_⟩
  rw [State.accEvent_of_present fun x hx => by rw [he x hx, hd x hx]; rfl]
  refine ⟨hacts, fun x hx dl ls hls l n e _ hn' he' => ?_⟩
  have hcore := (hcores x hx).1
  simp only [State.mredWrites, hls] at hcore
  rw [State.accM_of_mred hs1 hcore aset.isLt entry.isLt dentry.isLt (he x hx) (hd x hx) hn' he']
  by_cases hset : n = aset.toNat
  · simp only [hset, combine_eq]
  · simp only [hset, false_and, if_false]

/-! ### MINJ -/

/-- The entries that a MINJ gives core `k`: the raw bits added in every unmasked lane. -/
def State.minjEntries (s : State) (k n e : Nat) (vsrc : BitVec 5) (msk : BitVec 2) : List (Nat × Int) :=
  (s.maskLanes k msk).map (fun l => (accKey l n e,
    wrapS (gridOf (s.setCfgM k n)).width (s.accM k l n e + s.rawValue k vsrc ((gridOf (s.setCfgM k n)).width / 32) l)))

/-- MINJ in core `x.2`, its operands read from `s`. -/
def State.minjCore (s : State) (h : Hdr) (n e : Nat) (vsrc : BitVec 5) (msk : BitVec 2) (acc : State) (x : Nat × Nat) : State :=
  ((acc.noteReads h.table slotM h.pc ((List.range ((gridOf (s.setCfgM x.2 n)).width / 32)).map
      (fun j => locV x.2 (vsrc + BitVec.ofNat 5 j)))).noteMReads h.table true [.acc x.2 (64 * n + e)]).putAcc h true 6 x.2
    (s.minjEntries x.2 n e vsrc msk) []

theorem exec_minj_go {aset : BitVec 3} {entry : BitVec 6} {vsrc : BitVec 5} {msk : BitVec 2} (hi : s.issue h slotM = .go s1)
    (hw : (Instr.minj h aset entry vsrc msk).wf = true) : exec (.minj h aset entry vsrc msk) s =
      .next ((((s1.opCores h).filter (fun x => !entryAbsent (s1.setCfgM x.2 aset.toNat) entry.toNat)).foldl
        (s1.minjCore h aset.toNat entry.toNat vsrc msk) s1).accEvent h 0x2102 aset.toNat entry.toNat
        ((s1.opCores h).filter (fun x => entryAbsent (s1.setCfgM x.2 aset.toNat) entry.toNat))) := by
  change execMinj h aset entry vsrc msk s = _
  unfold execMinj
  rw [slotOp_go hw hi]
  rfl

theorem State.minjCore_step (s1 : State) (hu : Ok cmds u) (n e : Nat) (vsrc : BitVec 5) (msk : BitVec 2) (x : Nat × Nat) :
    Ok cmds (s1.minjCore h n e vsrc msk u x) ∧
      u.CoreStep (s1.minjCore h n e vsrc msk u x) h.table x.2 (accEffs 6 x.2 (s1.minjEntries x.2 n e vsrc msk)) ∧
      (s1.minjCore h n e vsrc msk u x).core x.2 = (u.core x.2).withEntries (s1.minjEntries x.2 n e vsrc msk) := by
  have hreads := State.noteReads_owesNothing hu h.table slotM h.pc
    ((List.range ((gridOf (s1.setCfgM x.2 n)).width / 32)).map (fun j => locV x.2 (vsrc + BitVec.ofNat 5 j)))
  have hok := State.noteReads_ok (t := h.table) (slot := slotM) (pc := h.pc)
    (ls := (List.range ((gridOf (s1.setCfgM x.2 n)).width / 32)).map (fun j => locV x.2 (vsrc + BitVec.ofNat 5 j))) hu
  obtain ⟨hstep, hcore⟩ := (hreads.trans (State.noteMReads_owesNothing hok.tables_.1 h.table true [.acc x.2 (64 * n + e)])).putAcc_step
    (State.noteMReads_ok hok) true 6 x.2 (s1.minjEntries x.2 n e vsrc msk) []
  exact ⟨State.putAcc_ok (State.noteMReads_ok hok), hstep, hcore⟩

theorem exec_minj_acts {aset : BitVec 3} {entry : BitVec 6} {vsrc : BitVec 5} {msk : BitVec 2} (hs : Ok cmds s)
    (hi : s.issue h slotM = .go s1) (hwf : (Instr.minj h aset entry vsrc msk).wf = true)
    (hw : ∀ x ∈ s1.opCores h, cfgWide (s1.setCfgM x.2 aset.toNat) = true → entry.toNat ≤ 31) :
    ∃ t, exec (.minj h aset entry vsrc msk) s = .next t ∧ s1.ActsOnly t h.table Core.AlikeButMatrix [] ∧
      ∀ x ∈ s1.opCores h, ∀ l n e, l < 64 → n < 8 → e < 64 → t.accM x.2 l n e =
        if n = aset.toNat ∧ e = entry.toNat ∧ l ∈ s1.maskLanes x.2 msk then
          wrapS (gridOf (s1.setCfgM x.2 n)).width (s1.accM x.2 l n e + s1.rawValue x.2 vsrc ((gridOf (s1.setCfgM x.2 n)).width / 32) l)
        else s1.accM x.2 l n e := by
  have hs1 := State.issue_go_ok hs hi
  have hp : ∀ x ∈ s1.opCores h, entryAbsent (s1.setCfgM x.2 aset.toNat) entry.toNat = false := fun x hx => entryAbsent_eq_false (hw x hx)
  obtain ⟨hacts, hcores, -⟩ := State.foldl_withEntries (n := h.table) (lat := 6)
    (E := fun k => s1.minjEntries k aset.toNat entry.toNat vsrc msk) hs1 (State.opCores_nodup hs1 h)
    fun u x _ hu _ _ => State.minjCore_step (h := h) s1 hu aset.toNat entry.toNat vsrc msk x
  refine ⟨_, exec_minj_go hi hwf, ?_⟩
  rw [State.accEvent_of_present hp, List.filter_eq_self.2 fun x hx => by rw [hp x hx]; rfl]
  refine ⟨hacts, fun x hx l n e _ hn he => ?_⟩
  rw [State.accM_of_lanes hs1 (hcores x hx).1 aset.isLt entry.isLt hn he]
  split
  · next hin => rw [hin.1, hin.2.1]
  · rfl

/-! ### WARM -/

/-- The streamer of core `k` after a WARM in state `s`. -/
def State.warmed (s : State) (n k : Nat) (desc : BitVec 2) (off : Bool) (w : Streamer) : Streamer :=
  if off then { w with armed := false, warming := false, land := [] }
  else { w with armed := true, desc := BitVec.ofNat 128 (s.csrWide (coreReg k (0x300 + 0x10 * desc.toNat)) 4), head := 0, nextN := 8,
                warming := true, warmCyc := s.cyc n, land := [] }

/-- The table of a WARM: busy until its vectors have been read. -/
def State.warmBusy (s : State) (n : Nat) (off : Bool) : State :=
  if off then s else s.modTable n (fun b => { b with busyUntil := Nat.max b.busyUntil (s.cyc n + 8) })

theorem exec_warm_go {desc : BitVec 2} {off : Bool} (hi : s.issue h slotM = .go s1) : exec (.warm h desc off) s =
    .next ((s1.opCores h).foldl (fun acc x => acc.modCore x.2 (fun c =>
      { c with streamer := s1.warmed h.table x.2 desc off c.streamer })) (s1.warmBusy h.table off)) :=
  slotOp_go rfl hi

/-- Cores changed one after the other: the rest of the state stays, and each core of the list is changed once. -/
theorem State.foldl_modCore {g : Nat → Core → Core} {l : List (Nat × Nat)} (hs : SMap.wf Core.reset s.cores = true) (hl : (l.map (·.2)).Nodup) :
    { l.foldl (fun acc x => acc.modCore x.2 (g x.2)) s with cores := s.cores } = s ∧
      ∀ k, (l.foldl (fun acc x => acc.modCore x.2 (g x.2)) s).core k = if l.any (fun x => x.2 == k) then g k (s.core k) else s.core k := by
  have h : SMap.wf Core.reset (l.foldl (fun acc x => acc.modCore x.2 (g x.2)) s).cores = true ∧
      { l.foldl (fun acc x => acc.modCore x.2 (g x.2)) s with cores := s.cores } = s ∧
      ∀ k, (l.foldl (fun acc x => acc.modCore x.2 (g x.2)) s).core k = if l.any (fun x => x.2 == k) then g k (s.core k) else s.core k := by
    refine foldl_along (M := fun (done : List (Nat × Nat)) (acc : State) =>
      SMap.wf Core.reset acc.cores = true ∧ { acc with cores := s.cores } = s ∧
      ∀ k, acc.core k = if done.any (fun x => x.2 == k) then g k (s.core k) else s.core k) ⟨hs, rfl, fun _ => rfl⟩ ?_
    rintro done x rest acc hsplit ⟨hwf, hrest, hcores⟩
    have hnew : done.any (fun y => y.2 == x.2) = false := List.any_eq_false.2 fun y hy => by
      simpa using ne_of_nodup_split (hsplit ▸ hl) hy
    refine ⟨SMap.wf_modify _ _ hwf, hrest, fun k => ?_⟩
    rw [State.core_modCore hwf, hcores x.2, hcores k, List.any_append, List.any_cons, List.any_nil, Bool.or_false]
    by_cases hk : k = x.2
    · simp [hk, hnew]
    · have hother : (x.2 == k) = false := by simpa using Ne.symm hk
      rw [if_neg hk, hother, Bool.or_false]
  exact h.2

theorem State.warmBusy_table (hs : SMap.wf Table.reset s.tables = true) (n m : Nat) (off : Bool) : (s.warmBusy n off).table m =
    if m = n then { s.table n with busyUntil := if off then (s.table n).busyUntil else Nat.max (s.table n).busyUntil (s.cyc n + 8) }
    else s.table m := by
  unfold State.warmBusy
  cases off with
  | true =>
    by_cases hm : m = n
    · rw [if_pos hm, hm]
      rfl
    · rw [if_neg hm]
      rfl
  | false => simp only [Bool.false_eq_true, if_false]; rw [State.table_modTable hs]

theorem exec_warm_steps {desc : BitVec 2} {off : Bool} (hs : Ok cmds s) (hi : s.issue h slotM = .go s1) :
    ∃ t, exec (.warm h desc off) s = .next t ∧
      { t with cores := s1.cores, tables := s1.tables } = s1 ∧ (∀ m, m ≠ h.table → t.table m = s1.table m) ∧
      t.table h.table = { s1.table h.table with busyUntil :=
        if off then (s1.table h.table).busyUntil else Nat.max (s1.table h.table).busyUntil (s1.cyc h.table + 8) } ∧
      ∀ k, t.core k = if (s1.opCores h).any (fun x => x.2 == k) then
          { s1.core k with streamer := s1.warmed h.table k desc off (s1.core k).streamer } else s1.core k := by
  have hs1 := State.issue_go_ok hs hi
  have hcores : (s1.warmBusy h.table off).cores = s1.cores := by unfold State.warmBusy; split <;> rfl
  have hcore : ∀ k, (s1.warmBusy h.table off).core k = s1.core k := fun k => by unfold State.core; rw [hcores]
  have hbusy : { s1.warmBusy h.table off with tables := s1.tables } = s1 := by unfold State.warmBusy; split <;> rfl
  obtain ⟨hrest, hdone⟩ := State.foldl_modCore (s := s1.warmBusy h.table off) (l := s1.opCores h)
    (g := fun k c => { c with streamer := s1.warmed h.table k desc off c.streamer }) (by rw [hcores]; exact hs1.cores_.1)
    (State.opCores_nodup hs1 h)
  have htable : ∀ m, ((s1.opCores h).foldl (fun acc x => acc.modCore x.2 (fun c =>
      { c with streamer := s1.warmed h.table x.2 desc off c.streamer })) (s1.warmBusy h.table off)).table m =
        (s1.warmBusy h.table off).table m := fun m => (congrArg (State.table · m) hrest :)
  refine ⟨_, exec_warm_go hi, ?_, fun m hm => ?_, ?_, fun k => ?_⟩
  · rw [← hcores]
    exact (congrArg (fun x : State => { x with tables := s1.tables }) hrest).trans hbusy
  · rw [htable, State.warmBusy_table hs1.tables_.1, if_neg hm]
  · rw [htable, State.warmBusy_table hs1.tables_.1, if_pos rfl]
  · rw [hdone k, hcore]

/-- Settles O19: MCLR, MSETW, MRED and MINJ one core after the other, each step seen by the M slot at once, and WARM in every core. -/
theorem accumulatorOperations : Obligations.AccumulatorOperations := by
  unfold Obligations.AccumulatorOperations
  refine ⟨fun s s1 h aset val msk rop first last entry dentry vsrc wide keep anchor hcan hi => ⟨?_, ?_, ?_, ?_⟩, ?_⟩
  · exact exec_mclr_acts hcan.ok hi
  · rw [← setCfgWord_eq]
    exact exec_msetw_acts hcan.ok hi
  · exact exec_mred_acts hcan.ok hi
  · exact exec_minj_acts hcan.ok hi
  · exact fun s s1 h desc off hcan hi => exec_warm_steps hcan.ok hi

end Sys2Proof.Machine
end

section
/-!
MDOT (R49, R52, R54 to R56, R87 to R90): first the weight operand of every core, then the step of the entry in every core.
-/
namespace Sys2Proof.Machine

variable {cmds : List Instr} {s s1 t u : State} {h : Hdr} {k lc : Nat} {o : MdotOp} {hf wf : Fmt}

/-! ### The weight operand -/

/-- From `c` to `d` a core has taken the vector `v` as its weight operand and its streamer has read `m` vectors. -/
structure Core.Consumed (c d : Core) (v : WVec) (m : Nat) : Prop where
  accM    : d.accM = c.accM
  cfgM    : d.cfgM = c.cfgM
  operand : d.streamer.operand = v
  nextN   : d.streamer.nextN = c.streamer.nextN + m

/-- The vector that a consuming MDOT of weight format `f` uses in core `k`. -/
def State.headVector (s : State) (f k : Nat) : WVec :=
  let v := if (s.core k).streamer.armed then SMap.get WVec.zero (s.core k).streamer.fifo (s.core k).streamer.head else WVec.zero
  if f = 10 then s.expand k v else v

/-- The vector depends on the core alone. -/
theorem State.headVector_congr (hc : t.core k = s.core k) (f : Nat) : t.headVector f k = s.headVector f k := by
  unfold State.headVector State.expand State.codeEntry
  rw [hc]

theorem mdotWeights_of_consuming (hu : (o.src || o.wrep) = false) : mdotWeights s o k = s.headVector o.wfmt.toNat k := by
  have hfmt : (o.wfmt.toNat = 10) = (o.wfmt = 10) := propext ⟨fun e => BitVec.eq_of_toNat_eq e, fun e => congrArg BitVec.toNat e⟩
  unfold mdotWeights State.headVector
  simp only [hu, hfmt, Bool.false_eq_true, if_false]

/-- A read of the streamer that is served. -/
theorem State.streamRead_served {n : Nat} {d : BitVec 128} (hs : Ok cmds s) (pc : BitVec 17)
    (hserv : s.serves h lc k ((wstAddrs d n).1 ++ (wstAddrs d n).2)) :
    ∃ v t, s.streamRead h.table pc lc k n d = (v, t, []) ∧ Ok cmds t ∧ s.ActsFurther t h.table Core.AlikeButMatrix [] [] ∧
      (∃ r y b, t.core k = { s.core k with outReg := r, touchCyc := y, touched := b }) ∧ ∀ j, j ≠ k → t.core j = s.core j := by
  obtain ⟨t, hfetch, ht⟩ := State.spdFetch_served likeness_alikeButMatrix hs hserv 5 pc 1 []
  have hread : s.streamRead h.table pc lc k n d = (WVec.of ((s.spdBytes k ((wstAddrs d n).1 ++ (wstAddrs d n).2)).take (wstAddrs d n).1.length)
      ((s.spdBytes k ((wstAddrs d n).1 ++ (wstAddrs d n).2)).drop (wstAddrs d n).1.length), t, []) := by
    unfold State.streamRead
    simp only [hserv.1, hfetch]
  exact ⟨_, t, hread, ht⟩

theorem State.consume_moving {f : Nat} (ha : (s.core k).streamer.armed = true) (hw : (s.core k).streamer.warming = false) :
    s.consume h f lc k =
      ((s.streamRead h.table h.pc lc k (s.core k).streamer.nextN (s.core k).streamer.desc).2.1.modCore k (fun c => { c with streamer :=
        { c.streamer with
          operand := s.headVector f k, head := (c.streamer.head + 1) % 8, nextN := c.streamer.nextN + 1
          fifo := SMap.set WVec.zero c.streamer.fifo c.streamer.head
            (s.streamRead h.table h.pc lc k (s.core k).streamer.nextN (s.core k).streamer.desc).1 } }),
        (s.streamRead h.table h.pc lc k (s.core k).streamer.nextN (s.core k).streamer.desc).2.2) := by
  unfold State.consume
  exact if_pos ⟨ha, by rw [hw]; exact Bool.false_ne_true⟩

theorem State.consume_resting {f : Nat} (hm : ¬ ((s.core k).streamer.armed = true ∧ (s.core k).streamer.warming = false)) :
    s.consume h f lc k = (s.modCore k (fun c => { c with streamer := { c.streamer with operand := s.headVector f k } }), []) := by
  unfold State.consume
  exact if_neg fun hm' => hm ⟨hm'.1, by simpa using hm'.2⟩

/-- A consuming MDOT in one core, its read served. -/
theorem State.consume_step {f : Nat} (hs : Ok cmds s)
    (hserv : (s.core k).streamer.armed = true → (s.core k).streamer.warming = false →
      s.serves h lc k ((wstAddrs (s.core k).streamer.desc (s.core k).streamer.nextN).1 ++
        (wstAddrs (s.core k).streamer.desc (s.core k).streamer.nextN).2)) :
    ∃ t, s.consume h f lc k = (t, []) ∧ s.ActsFurther t h.table Core.AlikeButMatrix [] [] ∧
      (s.core k).Consumed (t.core k) (s.headVector f k)
        (if (s.core k).streamer.armed = true ∧ (s.core k).streamer.warming = false then 1 else 0) ∧ ∀ j, j ≠ k → t.core j = s.core j := by
  by_cases hm : (s.core k).streamer.armed = true ∧ (s.core k).streamer.warming = false
  · obtain ⟨v, t, hread, ht, hacts, ⟨r, y, b, hcore⟩, hothers⟩ := State.streamRead_served hs h.pc (hserv hm.1 hm.2)
    rw [State.consume_moving hm.1 hm.2, hread, if_pos hm]
    refine ⟨_, rfl, hacts.then likeness_alikeButMatrix (.modCore likeness_alikeButMatrix ht.cores_.1 h.table [] k rfl), ?_, fun j hj => ?_⟩
    · rw [State.core_modCore ht.cores_.1, if_pos rfl, hcore]
      exact ⟨rfl, rfl, rfl, rfl⟩
    · rw [State.core_modCore ht.cores_.1, if_neg hj, hothers j hj]
  · rw [State.consume_resting hm, if_neg hm]
    refine ⟨_, rfl, .modCore likeness_alikeButMatrix hs.cores_.1 h.table [] k rfl, ?_, fun j hj => ?_⟩
    · rw [State.core_modCore hs.cores_.1, if_pos rfl]
      exact ⟨rfl, rfl, rfl, rfl⟩
    · rw [State.core_modCore hs.cores_.1, if_neg hj]

/-- A consuming MDOT in one core after another: each takes the vector that it had at first. -/
theorem State.foldl_consume {f : Nat} {l : List (Nat × Nat)} (hs : Ok cmds s) (hl : (l.map (·.2)).Nodup)
    (hserv : ∀ x ∈ l, (s.core x.2).streamer.armed = true → (s.core x.2).streamer.warming = false →
      s.serves h x.1 x.2 ((wstAddrs (s.core x.2).streamer.desc (s.core x.2).streamer.nextN).1 ++
        (wstAddrs (s.core x.2).streamer.desc (s.core x.2).streamer.nextN).2)) :
    ∃ t, l.foldl (fun acc x => ((acc.1.consume h f x.1 x.2).1, acc.2 ++ (acc.1.consume h f x.1 x.2).2)) (s, ([] : List AccFault)) = (t, []) ∧
      Ok cmds t ∧ s.ActsFurther t h.table Core.AlikeButMatrix [] [] ∧
      (∀ x ∈ l, (s.core x.2).Consumed (t.core x.2) (s.headVector f x.2)
        (if (s.core x.2).streamer.armed = true ∧ (s.core x.2).streamer.warming = false then 1 else 0)) ∧
      ∀ k, (∀ x ∈ l, x.2 ≠ k) → t.core k = s.core k := by
  refine foldl_along (M := fun (done : List (Nat × Nat)) (acc : State × List AccFault) => ∃ t, acc = (t, []) ∧
    Ok cmds t ∧ s.ActsFurther t h.table Core.AlikeButMatrix [] [] ∧
      (∀ x ∈ done, (s.core x.2).Consumed (t.core x.2) (s.headVector f x.2)
        (if (s.core x.2).streamer.armed = true ∧ (s.core x.2).streamer.warming = false then 1 else 0)) ∧
      ∀ k, (∀ x ∈ done, x.2 ≠ k) → t.core k = s.core k)
    ⟨s, rfl, hs, .refl likeness_alikeButMatrix s h.table [], fun x hx => absurd hx List.not_mem_nil, fun _ _ => rfl⟩ ?_
  rintro done x rest _ hsplit ⟨u, rfl, hu, hacts, hdone, hrest⟩
  have hx : x ∈ l := by rw [hsplit]; simp
  have hne : ∀ y ∈ done, y.2 ≠ x.2 := fun y hy => ne_of_nodup_split (hsplit ▸ hl) hy
  have hc : u.core x.2 = s.core x.2 := hrest x.2 hne
  obtain ⟨v, hv, hstep, hcons, hothers⟩ := State.consume_step (h := h) (lc := x.1) (k := x.2) (f := f) hu (by
    rw [hc]
    exact fun ha hw => hacts.acts.serves likeness_alikeButMatrix holdStates_nil (fun _ he => absurd he List.not_mem_nil) (hserv x hx ha hw))
  have hok : Ok cmds v := by simpa [hv] using State.consume_ok (h := h) (wf := f) (lc := x.1) (k := x.2) hu
  rw [hc, State.headVector_congr hc] at hcons
  refine ⟨v, by rw [hv]; rfl, hok, hacts.then likeness_alikeButMatrix hstep, fun y hy => ?_, fun k hk => ?_⟩
  · obtain hy | hy := List.mem_append.1 hy
    · rw [hothers y.2 (hne y hy)]
      exact hdone y hy
    · obtain rfl := List.mem_singleton.1 hy
      exact hcons
  · rw [hothers k (hk x (by simp)).symm, hrest k fun y hy => hk y (by simp [hy])]

/-- The weight operands of an MDOT, one core after the other, and the faults of the streamers' reads. -/
def State.mdotFetch (s : State) (h : Hdr) (o : MdotOp) : State × List AccFault :=
  if o.src || o.wrep then (s, []) else
    (s.opCores h).foldl (fun acc x =>
      ((acc.1.consume h o.wfmt.toNat x.1 x.2).1, acc.2 ++ (acc.1.consume h o.wfmt.toNat x.1 x.2).2)) (s, [])

/-- A streamer moves on where an MDOT consumes, it is armed and its first vectors have been read. -/
abbrev mdotMoves (o : MdotOp) (w : Streamer) : Prop := o.src = false ∧ o.wrep = false ∧ w.armed = true ∧ w.warming = false

/-- Each core takes its operand; no more than the M slot's part of the cores of the operation is changed. -/
theorem State.mdotFetch_acts (hs : Ok cmds s) (hserv : ∀ x ∈ s.opCores h, mdotMoves o (s.core x.2).streamer →
      s.serves h x.1 x.2 ((wstAddrs (s.core x.2).streamer.desc (s.core x.2).streamer.nextN).1 ++
        (wstAddrs (s.core x.2).streamer.desc (s.core x.2).streamer.nextN).2)) :
    ∃ t, s.mdotFetch h o = (t, []) ∧ Ok cmds t ∧ s.ActsOnly t h.table Core.AlikeButMatrix [] ∧
      (∀ x ∈ s.opCores h, (s.core x.2).Consumed (t.core x.2) (mdotWeights s o x.2) (if mdotMoves o (s.core x.2).streamer then 1 else 0)) ∧
      ∀ k, (∀ x ∈ s.opCores h, x.2 ≠ k) → t.core k = s.core k := by
  unfold State.mdotFetch
  by_cases hu : (o.src || o.wrep) = true
  · rw [if_pos hu]
    refine ⟨s, rfl, hs, .refl likeness_alikeButMatrix s h.table [], fun x _ => ⟨rfl, rfl, ?_, ?_⟩, fun _ _ => rfl⟩
    · unfold mdotWeights
      rw [if_pos hu]
    · rw [if_neg fun hm => by simp [hm.1, hm.2.1] at hu]
      rfl
  · rw [if_neg hu]
    rw [Bool.not_eq_true] at hu
    obtain ⟨hsrc, hwrep⟩ := Bool.or_eq_false_iff.1 hu
    have hmoves : ∀ w : Streamer, mdotMoves o w ↔ w.armed = true ∧ w.warming = false := fun w => by simp [mdotMoves, hsrc, hwrep]
    simp only [mdotWeights_of_consuming hu, hmoves]
    obtain ⟨t, hfold, ht, hacts, htaken⟩ := State.foldl_consume (f := o.wfmt.toNat) hs (State.opCores_nodup hs h) fun x hx ha hw =>
      hserv x hx ((hmoves _).2 ⟨ha, hw⟩)
    exact ⟨t, hfold, ht, hacts.only, htaken⟩

/-! ### The steps of the entry -/

/-- The step in a lane depends on the entry, the set's configuration, the held half and the weight operand. -/
theorem State.mdotLane_congr (hacc : (t.core k).accM = (s.core k).accM) (hcfg : (t.core k).cfgM = (s.core k).cfgM)
    (hhold : (t.core k).hold = (s.core k).hold) (hscale : (t.core k).scale = (s.core k).scale)
    (hop : (t.core k).streamer.operand = (s.core k).streamer.operand) (l : Nat) : t.mdotLane k o hf wf l = s.mdotLane k o hf wf l := by
  have hsc : ∀ half, t.holdScale k half l = s.holdScale k half l := fun half => funext fun b => by unfold State.holdScale; rw [hscale]
  have helems : ∀ i, t.mdotElems k o hf wf l i = s.mdotElems k o hf wf l i := fun i => by
    simp only [State.mdotElems, hsc, hhold, hop]
  simp only [State.mdotLane, State.setCfgM, State.accM, hacc, hcfg, helems]

/-- The entries that an MDOT gives core `k`. -/
def State.mdotEntries (s : State) (k : Nat) (o : MdotOp) (hf wf : Fmt) : List (Nat × Int) :=
  (s.maskLanes k o.msk).map (fun l => (accKey l o.aset.toNat o.entry.toNat, (s.mdotLane k o hf wf l).1))

/-- What an MDOT reads of the hold buffer in core `k`. -/
def State.mdotReads (s : State) (k : Nat) (o : MdotOp) : List Loc :=
  ((s.maskLanes k o.msk).map (· / 2)).eraseDups.map (.hold k · (b2n o.hsel)) ++
    if o.src then ((s.maskLanes k o.msk).map (· / 2)).eraseDups.map (.hold k · (1 - b2n o.hsel)) else []

theorem State.mdotCore_eq (s : State) (h : Hdr) (o : MdotOp) (hf wf : Fmt) (k : Nat) : s.mdotCore h o hf wf k =
    ((s.noteReads h.table slotM h.pc (s.mdotReads k o)).noteMReads h.table true
      (if o.zero then [] else [.acc k (64 * o.aset.toNat + o.entry.toNat)])).putAcc h true 6 k (s.mdotEntries k o hf wf)
      ((s.maskLanes k o.msk).map (fun l => (64 * o.aset.toNat + l, (s.mdotLane k o hf wf l).2))) := by
  unfold State.mdotCore State.mdotEntries State.mdotReads
  simp only [List.map_map, Function.comp_def]

theorem State.mdotCore_step (hu : Ok cmds u) (k : Nat) :
    u.CoreStep (u.mdotCore h o hf wf k) h.table k (accEffs 6 k (u.mdotEntries k o hf wf)) ∧
      (u.mdotCore h o hf wf k).core k = (u.core k).withEntries (u.mdotEntries k o hf wf) := by
  have hreads := State.noteReads_owesNothing hu h.table slotM h.pc (u.mdotReads k o)
  have hok := State.noteReads_ok (t := h.table) (slot := slotM) (pc := h.pc) (ls := u.mdotReads k o) hu
  rw [State.mdotCore_eq]
  exact (hreads.trans (State.noteMReads_owesNothing hok.tables_.1 h.table true _)).putAcc_step (State.noteMReads_ok hok) true 6 k _ _

/-- The steps of an MDOT in the cores `cs`, and the events of those that lack the width or the entry. -/
def State.mdotSteps (s : State) (h : Hdr) (o : MdotOp) (hf wf : Fmt) (cs : List (Nat × Nat)) : State :=
  (((cs.filter (fun x => !(pairWide o.hfmt.toNat o.wfmt.toNat != cfgWide (s.setCfgM x.2 o.aset.toNat)) &&
      !entryAbsent (s.setCfgM x.2 o.aset.toNat) o.entry.toNat)).foldl (fun acc x => acc.mdotCore h o hf wf x.2) s).accEvent h 0x2101
        o.aset.toNat o.entry.toNat (cs.filter (fun x => pairWide o.hfmt.toNat o.wfmt.toNat != cfgWide (s.setCfgM x.2 o.aset.toNat)))).accEvent
    h 0x2102 o.aset.toNat o.entry.toNat (cs.filter (fun x => entryAbsent (s.setCfgM x.2 o.aset.toNat) o.entry.toNat))

theorem exec_mdot_go (hi : s.issue h slotM = .go s1) (hw : o.wf = true) (hhf : laneFmt o.hfmt.toNat = some hf)
    (hwf : laneFmt o.wfmt.toNat = some wf) : exec (.mdot h o) s =
      .next (((s1.mdotFetch h o).1.accFaults h.table true (s1.mdotFetch h o).2).mdotSteps h o hf wf (s1.opCores h)) := by
  change execMdot h o s = _
  unfold execMdot
  rw [slotOp_go hw hi]
  simp only [hhf, hwf]
  rfl

/-- Where every core has the width and the entry, all step and no event is raised. -/
theorem State.mdotSteps_of_present {cs : List (Nat × Nat)}
    (hwide : ∀ x ∈ cs, cfgWide (s.setCfgM x.2 o.aset.toNat) = pairWide o.hfmt.toNat o.wfmt.toNat)
    (hentry : ∀ x ∈ cs, entryAbsent (s.setCfgM x.2 o.aset.toNat) o.entry.toNat = false) :
    s.mdotSteps h o hf wf cs = cs.foldl (fun acc x => acc.mdotCore h o hf wf x.2) s := by
  have hfits : ∀ x ∈ cs, (pairWide o.hfmt.toNat o.wfmt.toNat != cfgWide (s.setCfgM x.2 o.aset.toNat)) = false := fun x hx => by
    rw [hwide x hx, bne_self_eq_false]
  unfold State.mdotSteps
  rw [State.accEvent_of_present hfits, State.accEvent_of_present hentry, List.filter_eq_self.2 fun x hx => by rw [hfits x hx, hentry x hx]; rfl]

theorem State.mdotSteps_acts {cs : List (Nat × Nat)} (hs : Ok cmds s) (hcs : (cs.map (·.2)).Nodup)
    (hwide : ∀ x ∈ cs, cfgWide (s.setCfgM x.2 o.aset.toNat) = pairWide o.hfmt.toNat o.wfmt.toNat)
    (hentry : ∀ x ∈ cs, entryAbsent (s.setCfgM x.2 o.aset.toNat) o.entry.toNat = false) :
    s.ActsOnly (s.mdotSteps h o hf wf cs) h.table Core.AlikeButMatrix [] ∧
      (∀ x ∈ cs, (s.mdotSteps h o hf wf cs).core x.2 = (s.core x.2).withEntries (s.mdotEntries x.2 o hf wf) ∧
        (s.mdotEntries x.2 o hf wf ≠ [] → (s.cyc h.table + 6, .acc x.2 (s.mdotEntries x.2 o hf wf)) ∈
          (s.mdotSteps h o hf wf cs).owed h.table)) ∧
      ∀ k, (∀ x ∈ cs, x.2 ≠ k) → (s.mdotSteps h o hf wf cs).core k = s.core k := by
  rw [State.mdotSteps_of_present hwide hentry]
  refine State.foldl_withEntries (E := fun k => s.mdotEntries k o hf wf) hs hcs fun u x _ hu hacts hc => ?_
  have hentries : u.mdotEntries x.2 o hf wf = s.mdotEntries x.2 o hf wf := by
    unfold State.mdotEntries
    rw [hacts.maskLanes holdStates_nil]
    exact List.map_congr_left fun l _ => by
      rw [State.mdotLane_congr (congrArg Core.accM hc) (congrArg Core.cfgM hc) (congrArg Core.hold hc) (congrArg Core.scale hc)
        (congrArg (fun c : Core => c.streamer.operand) hc)]
  obtain ⟨hstep, hcore⟩ := State.mdotCore_step (h := h) (o := o) (hf := hf) (wf := wf) hu x.2
  rw [hentries] at hstep hcore
  exact ⟨State.mdotCore_ok hu, hstep, hcore⟩

/-- Settles O18: every core takes its weight operand, and then its step; neither depends on what another core does. -/
theorem matrixProduct : Obligations.MatrixProduct := by
  unfold Obligations.MatrixProduct
  intro s s1 h o hf wf hcan hw hhf hwf hi hcs
  have hs1 := State.issue_go_ok hcan.ok hi
  obtain ⟨u, hfetch, hu, hacts, htaken, hrest⟩ := State.mdotFetch_acts (h := h) (o := o) hs1 fun x hx hm => by
    obtain ⟨hsrc, hwrep, harmed, hwarming⟩ := hm
    exact (hcs x hx).2.2 hsrc hwrep harmed hwarming
  have hcfg : ∀ x ∈ s1.opCores h, ∀ n, u.setCfgM x.2 n = s1.setCfgM x.2 n := fun x hx n => by
    unfold State.setCfgM
    rw [(htaken x hx).cfgM]
  obtain ⟨gacts, hdone, gothers⟩ := State.mdotSteps_acts (h := h) (o := o) (hf := hf) (wf := wf) hu (State.opCores_nodup hs1 h)
    (fun x hx => by rw [hcfg x hx]; exact (hcs x hx).1) (fun x hx => by rw [hcfg x hx]; exact entryAbsent_eq_false (hcs x hx).2.1)
  refine ⟨u.mdotSteps h o hf wf (s1.opCores h), by rw [exec_mdot_go hi hw hhf hwf, hfetch]; rfl,
    hacts.trans likeness_alikeButMatrix gacts, fun x hx => ?_, fun k hk => (gothers k hk).trans (hrest k hk)⟩
  obtain ⟨hcore, howed⟩ := hdone x hx
  have hlane : ∀ l, u.mdotLane x.2 o hf wf l = (s1.modCore x.2 (fun c => { c with streamer :=
      { c.streamer with operand := mdotWeights s1 o x.2 } })).mdotLane x.2 o hf wf l := fun l => by
    have hmod := (State.core_modCore hs1.cores_.1 x.2 x.2 (fun c => { c with streamer :=
      { c.streamer with operand := mdotWeights s1 o x.2 } })).trans (if_pos rfl)
    refine State.mdotLane_congr ?_ ?_ ?_ ?_ ?_ l <;> rw [hmod]
    · exact (htaken x hx).accM
    · exact (htaken x hx).cfgM
    · exact (congrArg Core.hold (hacts.cores x.2) :)
    · exact (congrArg Core.scale (hacts.cores x.2) :)
    · exact (htaken x hx).operand
  have hmask := hacts.maskLanes holdStates_nil x.2 o.msk
  refine ⟨fun l n e _ hn he => ?_, ?_, ?_, ?_, fun hne => ⟨u.mdotEntries x.2 o hf wf, ?_, fun l hl => ?_⟩⟩
  · rw [State.accM_of_lanes hu hcore o.aset.isLt o.entry.isLt hn he, hmask, hlane]
    unfold State.accM
    rw [(htaken x hx).accM]
  · rw [hcore]
    exact (htaken x hx).cfgM
  · rw [hcore]
    exact (htaken x hx).operand
  · rw [hcore]
    exact (htaken x hx).nextN
  · rw [← hacts.cyc]
    refine howed ?_
    unfold State.mdotEntries
    rw [hmask]
    exact fun hnil => hne (List.map_eq_nil_iff.1 hnil)
  · rw [← hmask] at hl
    rw [State.accM_of_lanes hu hcore o.aset.isLt o.entry.isLt o.aset.isLt o.entry.isLt, if_pos ⟨rfl, rfl, hl⟩]
    exact List.mem_map.2 ⟨l, hl, rfl⟩

end Sys2Proof.Machine
end

section
/-!
Canonical NaNs (R69, R71, R79, R81): which encodings are NaNs, and the bits of a conversion that gives one.
-/
namespace Sys2Proof.Machine

/-! ### Encodings -/

/-- The magnitudes of a floating-point format stand below its sign bit, the finite ones before the infinity (R69). -/
def FloatFmt.Ordered (f : FloatFmt) : Prop :=
  f.maxEnc < 2 ^ (f.frac + f.exp) ∧ ∀ i, f.inf = some i → f.maxEnc < i ∧ i < 2 ^ (f.frac + f.exp)

/-- The layouts of R69: a sign bit above the magnitude, which is ordered. -/
theorem Fmt.float_layout {f : Fmt} {ff : FloatFmt} (hf : f.float = some ff) : f.bits = ff.frac + ff.exp + 1 ∧ ff.Ordered := by
  cases f <;> cases hf <;> simp [Fmt.bits, FloatFmt.Ordered]

/-- A NaN is a magnitude above the finite ones that is not the infinity. -/
theorem FloatFmt.decode_eq_nan_iff (f : FloatFmt) (x : Nat) :
    f.decode x = .nan ↔ f.maxEnc < x % 2 ^ (f.frac + f.exp) ∧ f.inf ≠ some (x % 2 ^ (f.frac + f.exp)) := by
  simp only [FloatFmt.decode]
  split_ifs <;> simp_all

theorem Fmt.decode_eq_nan_iff {f : Fmt} {ff : FloatFmt} (hf : f.float = some ff) (x : Nat) : f.decode x = .nan ↔ ff.decode x = .nan := by
  have hmod : x % 2 ^ f.bits % 2 ^ (ff.frac + ff.exp) = x % 2 ^ (ff.frac + ff.exp) :=
    Nat.mod_mod_of_dvd x (pow_dvd_pow 2 (by rw [(Fmt.float_layout hf).1]; omega))
  simp only [Fmt.decode, hf, FloatFmt.decode_eq_nan_iff, hmod]

/-- The magnitude stands below the sign. -/
theorem FloatFmt.signed_mod {f : FloatFmt} {mag : Nat} (h : mag < 2 ^ (f.frac + f.exp)) (neg : Bool) :
    f.signed neg mag % 2 ^ (f.frac + f.exp) = mag := by
  unfold FloatFmt.signed
  split_ifs <;> simp [Nat.mod_eq_of_lt h]

/-- A NaN is written without a sign (R71, R81). -/
theorem FloatFmt.signed_nan {f : FloatFmt} {n : Nat} (hn : f.nan = some n) (neg : Bool) : f.signed neg n = n := if_pos hn

/-! ### Conversions -/

section
variable {f : FloatFmt} {n : Nat} (hn : f.nan = some n)
include hn

theorem FloatFmt.convert_nan (rm : RMode) (sat : Bool) : (f.convert rm sat .nan).bits = n := by simp [FloatFmt.convert, hn]

/-- An overflow gives the greatest finite value, or the infinity or else the NaN (R81). -/
theorem FloatFmt.overflowEnc_cases (rm : RMode) (sat neg isInf : Bool) :
    f.overflowEnc rm sat neg isInf = f.maxEnc ∨ f.overflowEnc rm sat neg isInf = f.inf.getD n := by
  cases sat with
  | true => simp [FloatFmt.overflowEnc, hn]
  | false => cases isInf with
    | true => simp [FloatFmt.overflowEnc, hn]
    | false => cases rm <;> cases neg <;> simp [FloatFmt.overflowEnc, hn]

/-- A conversion of a number or an infinity gives a sign and a finite magnitude, or the infinity or else the NaN. -/
theorem FloatFmt.convert_magnitude (rm : RMode) (sat : Bool) {v : Val} (hv : v ≠ .nan) :
    ∃ neg mag, (f.convert rm sat v).bits = f.signed neg mag ∧ (mag ≤ f.maxEnc ∨ mag = f.inf.getD n) := by
  have hover : ∀ neg isInf, f.overflowEnc rm sat neg isInf ≤ f.maxEnc ∨ f.overflowEnc rm sat neg isInf = f.inf.getD n :=
    fun neg isInf => (FloatFmt.overflowEnc_cases hn rm sat neg isInf).imp_left Eq.le
  cases v with
  | nan => exact absurd rfl hv
  | inf neg => exact ⟨neg, _, rfl, hover neg true⟩
  | fin neg m e =>
    by_cases hfits : f.roundEnc rm neg m e ≤ f.maxEnc
    · exact ⟨neg, f.roundEnc rm neg m e, by simp [FloatFmt.convert, hfits], .inl hfits⟩
    · exact ⟨neg, f.overflowEnc rm sat neg false, by simp [FloatFmt.convert, hfits], hover neg false⟩

/-- Of a NaN, or to a NaN: in both cases the result is the canonical one. -/
theorem FloatFmt.convert_bits_of_nan (ho : f.Ordered) {rm : RMode} {sat : Bool} {v : Val}
    (h : v = .nan ∨ f.decode (f.convert rm sat v).bits = .nan) : (f.convert rm sat v).bits = n := by
  obtain ⟨hmax, hinf⟩ := ho
  by_cases hv : v = .nan
  · rw [hv, FloatFmt.convert_nan hn]
  · obtain ⟨neg, mag, hbits, hmag⟩ := FloatFmt.convert_magnitude hn rm sat hv
    obtain ⟨habove, hninf⟩ := (FloatFmt.decode_eq_nan_iff f _).1 (h.resolve_left hv)
    rw [hbits] at habove hninf ⊢
    obtain hle | htop := hmag
    · rw [FloatFmt.signed_mod (hle.trans_lt hmax)] at habove
      exact absurd hle habove.not_ge
    · cases hi : f.inf with
      | none => rw [htop, hi, Option.getD_none, FloatFmt.signed_nan hn]
      | some i =>
        rw [hi, Option.getD_some] at htop
        rw [htop, FloatFmt.signed_mod (hinf i hi).2] at hninf
        exact absurd hi hninf

/-- In a format without infinities an infinite source gives the NaN (R81). -/
theorem FloatFmt.convert_inf_of_no_inf (hi : f.inf = none) (rm : RMode) (neg : Bool) : (f.convert rm false (.inf neg)).bits = n := by
  have htop : f.overflowEnc rm false neg true = n := by simp [FloatFmt.overflowEnc, hn, hi]
  exact (congrArg (f.signed neg) htop).trans (FloatFmt.signed_nan hn neg)

/-- In a format without infinities an overflow rounded to nearest gives the NaN (R81). -/
theorem FloatFmt.convert_overflow_of_no_inf (hi : f.inf = none) {v : Val} (ho : (f.convert .rne false v).ovf = true) :
    (f.convert .rne false v).bits = n := by
  cases v with
  | nan => exact FloatFmt.convert_nan hn _ _
  | inf neg => exact FloatFmt.convert_inf_of_no_inf hn hi _ neg
  | fin neg m e =>
    have htop : f.overflowEnc .rne false neg false = n := by simp [FloatFmt.overflowEnc, hn, hi]
    by_cases hfits : f.roundEnc .rne neg m e ≤ f.maxEnc
    · simp [FloatFmt.convert, hfits] at ho
    · simpa only [FloatFmt.convert, if_neg hfits, htop] using FloatFmt.signed_nan hn neg

end

/-! ### The formats with a NaN -/

/-- The canonical NaN of a format that has one (R71). -/
def Fmt.canonicalNan (f : Fmt) : Option Nat := f.float.bind (·.nan)

theorem Fmt.canonicalNan_eq_some {f : Fmt} {n : Nat} (h : f.canonicalNan = some n) : ∃ ff, f.float = some ff ∧ ff.nan = some n :=
  Option.bind_eq_some_iff.1 h

theorem Fmt.convert_of_float {f : Fmt} {ff : FloatFmt} (hf : f.float = some ff) (rm : RMode) (sat : Bool) (v : Val) :
    f.convert rm sat v = ff.convert rm sat v := by simp only [Fmt.convert, hf]

theorem Fmt.convert_bits_of_nan {f : Fmt} {n : Nat} (hn : f.canonicalNan = some n) {rm : RMode} {sat : Bool} {v : Val}
    (h : v = .nan ∨ f.decode (f.convert rm sat v).bits = .nan) : (f.convert rm sat v).bits = n := by
  obtain ⟨ff, hf, hnan⟩ := Fmt.canonicalNan_eq_some hn
  rw [Fmt.convert_of_float hf] at h ⊢
  exact FloatFmt.convert_bits_of_nan hnan (Fmt.float_layout hf).2 (h.imp_right (Fmt.decode_eq_nan_iff hf _).1)

/-- The value of a source element (R75, R79): code8 stands for its codebook entry. -/
def Fmt.source (sf : Fmt) (entry : Nat → BitVec 16) (x : Nat) : Val :=
  if sf = .c8 then Fmt.f16.decode (entry (x % 256)).toNat else sf.decode (x % 2 ^ sf.bits)

/-- A lane whose formats are equal keeps its bits but for a NaN; every other one is converted (R79). -/
theorem cvtLane_eq (sf df : Fmt) (rm : RMode) (sat : Bool) (entry : Nat → BitVec 16) (x : Nat) :
    cvtLane sf df rm sat entry x =
      if sf = df ∧ sf.source entry x ≠ .nan then ⟨x % 2 ^ sf.bits, false, false⟩ else df.convert rm sat (sf.source entry x) := by
  cases sf <;> rfl

theorem cvtLane_bits_of_nan {sf df : Fmt} {n : Nat} (hn : df.canonicalNan = some n) {rm : RMode} {sat : Bool} {entry : Nat → BitVec 16} {x : Nat}
    (h : sf.source entry x = .nan ∨ df.decode (cvtLane sf df rm sat entry x).bits = .nan) :
    (cvtLane sf df rm sat entry x).bits = n := by
  rw [cvtLane_eq] at h ⊢
  split_ifs at h ⊢ with hsame
  · obtain ⟨rfl, hv⟩ := hsame
    have hc8 : sf ≠ .c8 := by rintro rfl; cases hn
    have hkept : sf.decode (x % 2 ^ sf.bits) = sf.source entry x := by rw [Fmt.source, if_neg hc8]
    exact absurd (h.elim id hkept.symm.trans) hv
  · exact Fmt.convert_bits_of_nan hn h

/-- Settles O57: a conversion gives a finite magnitude, the infinity, or the canonical NaN of its format. -/
theorem canonicalNans : Obligations.CanonicalNans := by
  unfold Obligations.CanonicalNans
  intro p hp m sat
  have hall : ∀ q ∈ ([(.f32, 0x7FC00000), (.f16, 0x7E00), (.bf16, 0x7FC0), (.e4m3, 0x7F), (.e5m2, 0x7E)] : List (Fmt × Nat)),
      q.1.canonicalNan = some q.2 := by decide
  exact ⟨fun v => Fmt.convert_bits_of_nan (hall p hp), fun sf entry x => cvtLane_bits_of_nan (hall p hp),
    FloatFmt.convert_inf_of_no_inf rfl rfl m, fun v => FloatFmt.convert_overflow_of_no_inf rfl rfl⟩

end Sys2Proof.Machine
end

section
/-!
MFR and MTR (R83, R117, R127): what they owe.
-/
namespace Sys2Proof.Machine

variable {cmds : List Instr} {s s1 t : State} {h : Hdr} {sr : BitVec 5} {blk : BitVec 2} {off : BitVec 12}

/-- MFR owes the value of the register that its address names. -/
theorem exec_mfr_owes {r : TaskReg} (hs : Ok cmds s) (hr : taskReg blk off = some r) (hi : s.issue h slotS = .go s1) :
    ∃ t, exec (.mfr h sr blk off) s = .next t ∧
      s1.Owes t h.table (s1.inActors h (fun k => [(2, .sreg k sr.toNat (s1.readTaskReg h.table (s1.issuer h) k r))])) :=
  slotOp_eachCore hs (by simp [Instr.wf, hr]) hi (by simp only [hr]; rfl) (fun _ _ => rfl)
    (fun _ _ he => List.mem_singleton.1 he ▸ Eff.keeps_of trivial)

theorem wf_mtr {r : TaskReg} (hr : taskReg blk off = some r) (hw : r.writable = true) : (Instr.mtr h sr blk off).wf = true := by
  simp [Instr.wf, hr, hw]

/-- No effect of MTR is an update of accumulators: flags are cleared and registers written. -/
theorem mtrEff_keeps (k : Nat) (r : TaskReg) (v : Word) : (mtrEff k r v).keeps := by
  cases r <;> exact Eff.keeps_of trivial

/-- MTR of a register that has an address owes its write in each acting core. -/
theorem exec_mtr_owes {r : TaskReg} (hs : Ok cmds s) (hr : taskReg blk off = some r) (hw : r.writable = true)
    (hcount : ∀ n, r ≠ .loopCount n) (hi : s.issue h slotS = .go s1) :
    ∃ t, exec (.mtr h sr blk off) s = .next t ∧ s1.Owes t h.table (s1.inActors h (fun k => [(2, mtrEff k r (s1.sreg k sr))])) := by
  refine slotOp_eachCore (f := fun _ k => { reads := [locS k sr], effs := [(2, mtrEff k r (s1.sreg k sr))] }) hs (wf_mtr hr hw) hi ?_
    (fun _ _ => rfl) (fun k e he => List.mem_singleton.1 he ▸ mtrEff_keeps _ _ _)
  -- `hcount` rules out the arm of the loop counts
  simp only [hr]

/-- What owes nothing owes the empty list. -/
theorem State.OwesNothing.owes {n : Nat} (hn : s.OwesNothing t n) : s.Owes t n [] :=
  ⟨hn.only, by rw [hn.owed, List.map_nil, List.append_nil], fun _ he => absurd he List.not_mem_nil⟩

/-- Effects posted after a step that owed nothing. -/
theorem State.OwesNothing.post {n slot : Nat} {pc : BitVec 17} {chk : Bool} {es : List (Nat × Eff)} (hn : s.OwesNothing t n)
    (ht : SMap.wf Table.reset t.tables = true) (hk : ∀ e ∈ es, e.2.keeps) : s.Owes (t.post n slot pc chk es) n es := by
  obtain ⟨honly, howed, hbusy⟩ := State.post_owes ht n slot pc chk es hk
  refine ⟨hn.only.trans honly, ?_, ?_⟩
  · rw [howed, hn.owed, hn.only.cyc]
  · rwa [hn.only.cyc] at hbusy

/-- The core whose register a loop count takes (R117, R137): logical core 0 of the table, or the core that issues for itself. -/
def State.loopCountCore (s : State) (h : Hdr) : Option (Nat × Nat) := (s.actors h).find? (fun x => x.1 == 0 || (s.issuer h).isSome)

theorem State.loopCountCore_eq (s : State) (h : Hdr) :
    ((s.actors h).filter (fun x => x.1 == 0 || (s.issuer h).isSome)).take 1 = (s.loopCountCore h).toList := by
  rw [List.take_one, List.head?_filter]
  rfl

/-- MTR of a loop count owes one write for the table, if its core acts. -/
theorem exec_mtr_loopCount_owes {n : Nat} (hs : Ok cmds s) (hr : taskReg blk off = some (.loopCount n)) (hi : s.issue h slotS = .go s1) :
    ∃ t, exec (.mtr h sr blk off) s = .next t ∧ s1.Owes t h.table
      ((s1.loopCountCore h).toList.map (fun x => (2, .loopPending (s1.issuer h) n (s1.sreg x.2 sr)))) := by
  have hs1 := State.issue_go_ok hs hi
  have hnoted := State.noteReads_ok (t := h.table) (slot := slotS) (pc := h.pc) (ls := (s1.actors h).map (fun x => locS x.2 sr)) hs1
  have hbusy : s1.OwesNothing ((s1.noteReads h.table slotS h.pc ((s1.actors h).map (fun x => locS x.2 sr))).busyFor h.table 2) h.table :=
    (State.noteReads_owesNothing hs1 _ _ _ _).trans (State.busyFor_owesNothing hnoted.tables_.1 _ _)
  refine ⟨_, slotOp_go (wf_mtr hr rfl) hi, ?_⟩
  cases hcore : s1.loopCountCore h with
  | none =>
    unfold State.loopCountCore at hcore
    simp only [hr, hcore]
    exact hbusy.owes
  | some x =>
    unfold State.loopCountCore at hcore
    simp only [hr, hcore]
    exact hbusy.post (State.busyFor_ok hnoted).tables_.1 (fun e he => List.mem_singleton.1 he ▸ Eff.keeps_of trivial)

/-- Settles O8: a loop count is read and written in the sequencer, every other register in each acting core. -/
theorem registerMoves : Obligations.RegisterMoves := by
  unfold Obligations.RegisterMoves
  refine ⟨fun s s1 h sr blk off r hs hr hi => ?_, fun s s1 h sr blk off r hs hr hw hi => ?_⟩
  · have howes := exec_mfr_owes (sr := sr) hs.ok hr hi
    cases r <;> exact howes
  · cases r with
    | loopCount n =>
      simp only [State.loopCountCore_eq]
      exact exec_mtr_loopCount_owes hs.ok hr hi
    | _ => exact exec_mtr_owes hs.ok hr hw (fun _ => by simp) hi

end Sys2Proof.Machine
end

section
/-!
CVT, CVMX, GMX and CURV (R79 to R84, R102, R120): what they owe.
-/
namespace Sys2Proof.Machine

variable {cmds : List Instr} {s s1 : State} {h : Hdr} {msk : BitVec 2} {vd vs vsc sfmt dfmt : BitVec 5} {rm : BitVec 3}
  {sat cb : Bool} {sf df : Fmt} {m : RMode}

/-- CVT owes the converted lanes and the flags that they set. -/
theorem exec_cvt_owes (hs : Ok cmds s) (hi : s.issue h slotV = .go s1) (hd : Fmt.ofCode dfmt.toNat = some df)
    (hm : RMode.ofCode rm.toNat = some m) (hw : (Instr.cvt h msk vd vs sfmt dfmt rm sat cb).wf = true)
    (hf : Fmt.ofCode sfmt.toNat = some sf) :
    ∃ t, exec (.cvt h msk vd vs sfmt dfmt rm sat cb) s = .next t ∧
      s1.Owes t h.table (s1.inActors h (fun k => convEffs 4 k vd.toNat ((s1.maskLanes k msk).map (fun l =>
        (l, cvtLane sf df m sat (s1.codeEntry k (b2n cb)) (s1.vlane k vs l).toNat))))) :=
  slotOp_eachCore hs hw hi (by simp only [hf, hd, hm]; rfl) (fun _ _ => rfl) (fun _ => convEffs_keeps _ _ _ _)

/-- Block `b` of the source register of a CVMX, converted (R84). -/
def State.cvmxPart (s : State) (k : Nat) (vs : BitVec 5) (df : Fmt) (m : RMode) (b : Nat) : Nat × List Conv :=
  cvmxBlock df m ((List.range 32).map (fun i => s.vlane k vs (32 * b + i)))

/-- CVMX owes the elements of its two blocks, the flags that they set, and the two scales. -/
theorem exec_cvmx_owes (hs : Ok cmds s) (hi : s.issue h slotV = .go s1) (hd : Fmt.ofCode dfmt.toNat = some df)
    (hm : RMode.ofCode rm.toNat = some m) (hw : (Instr.cvmx h vd vs vsc dfmt rm).wf = true) :
    ∃ t, exec (.cvmx h vd vs vsc dfmt rm) s = .next t ∧
      s1.Owes t h.table (s1.inActors h (fun k =>
        convEffs 4 k vd.toNat (((s1.cvmxPart k vs df m 0).2 ++ (s1.cvmxPart k vs df m 1).2).zipIdx.map (fun c => (c.2, c.1))) ++
          [(4, .lanes k vsc.toNat ((List.range 64).map (fun l =>
            (l, BitVec.ofNat 32 (if l = 0 then (s1.cvmxPart k vs df m 0).1 else if l = 32 then (s1.cvmxPart k vs df m 1).1 else 0)))))])) := by
  refine slotOp_eachCore hs hw hi (by simp only [hd, hm]; rfl) (fun _ _ => rfl) fun k e he => ?_
  obtain he | he := List.mem_append.1 he
  · exact convEffs_keeps _ _ _ _ e he
  · exact List.mem_singleton.1 he ▸ Eff.keeps_of trivial

/-- The draw of lane `l` of core `k` (R102). -/
def State.gmxDraw (s : State) (n : Nat) (seed : BitVec 4) (sstr seb suse vx : BitVec 5) (k l : Nat) : BitVec 64 :=
  glowmix (SMap.get 0 (s.table n).seeds seed.toNat) (s.sreg k sstr)
    (s.sreg k suse ++ ((s.sreg k (seb + 1) ++ s.sreg k seb : BitVec 64) + (s.vlane k vx l).zeroExtend 64))

/-- GMX owes the two words of each unmasked lane's draw. -/
theorem exec_gmx_owes {vx sstr seb suse : BitVec 5} {seed : BitVec 4} (hs : Ok cmds s) (hi : s.issue h slotV = .go s1)
    (hw : (Instr.gmx h msk vd vx seed sstr seb suse).wf = true) :
    ∃ t, exec (.gmx h msk vd vx seed sstr seb suse) s = .next t ∧
      s1.Owes t h.table (s1.inActors h (fun k =>
        [(6, s1.toLanes k msk vd (fun l => (s1.gmxDraw h.table seed sstr seb suse vx k l).truncate 32)),
         (6, .lanes k (vd.toNat + 1) ((s1.maskLanes k msk).map (fun l =>
           (l, ((s1.gmxDraw h.table seed sstr seb suse vx k l) >>> 32).truncate 32))))])) := by
  refine slotOp_eachCore hs hw hi rfl (fun _ k => ?_) fun k e he => ?_
  · simp only [BitVec.truncate_eq_setWidth, BitVec.setWidth_eq_extractLsb' (show 32 ≤ 64 by decide)]
    rfl
  · simp only [List.mem_cons, List.not_mem_nil, or_false] at he
    obtain rfl | rfl := he <;> exact Eff.keeps_of trivial

/-- An operation that writes the unmasked lanes of one register owes them. -/
theorem slotOp_opLanes {wf : Bool} {lat : Nat} {reads : State → Nat → List Loc} {f : State → Nat → Nat → Word} (hs : Ok cmds s)
    (hw : wf = true) (hi : s.issue h slotV = .go s1) :
    ∃ t, slotOp wf h slotV (fun s => opLanes h lat msk vd (reads s) (f s) s) s = .next t ∧
      s1.Owes t h.table (s1.inActors h (fun k => [(lat, s1.toLanes k msk vd (f s1 k))])) :=
  slotOp_eachCore hs hw hi rfl (fun _ _ => rfl) (fun _ _ he => List.mem_singleton.1 he ▸ Eff.keeps_of trivial)

/-- The value of curve table `tab` of core `k` at the word `x` (R120). -/
def State.curvAt (s : State) (k : Nat) (tab : BitVec 3) (x : Word) : Word :=
  curvLane (SMap.get 0 (s.core k).curveHdr (2 * tab.toNat)) ((SMap.get 0 (s.core k).curveHdr (2 * tab.toNat + 1)).truncate 8)
    (fun i j => SMap.get 0 (s.core k).curve (1024 * tab.toNat + 4 * i + j)) x

/-- CURV owes the table's value in each unmasked lane. -/
theorem exec_curv_owes {vx : BitVec 5} {tab : BitVec 3} (hs : Ok cmds s) (hi : s.issue h slotV = .go s1) (hmsk : msk ≠ 3) :
    ∃ t, exec (.curv h msk vd vx tab) s = .next t ∧
      s1.Owes t h.table (s1.inActors h (fun k => [(6, s1.toLanes k msk vd (fun l => s1.curvAt k tab (s1.vlane k vx l)))])) :=
  slotOp_opLanes (f := fun s k l => s.curvAt k tab (s.vlane k vx l)) hs (by simpa [mskOk] using hmsk) hi

/-- Settles O15: each of the four operations owes its lanes in every acting core; the blocks and the draws are those of the model. -/
theorem conversionsAndDraws : Obligations.ConversionsAndDraws := by
  unfold Obligations.ConversionsAndDraws
  refine ⟨fun s s1 h msk vd vs vsc sfmt dfmt rm sat cb sf df m hs hi hd hm => ⟨exec_cvt_owes hs.ok hi hd hm, fun hw => ?_⟩,
    fun s s1 h msk vd vx sstr seb suse seed tab hs hi => ⟨fun hw => ?_, exec_curv_owes hs.ok hi⟩⟩
  · obtain ⟨t, hexec, howes⟩ := exec_cvmx_owes hs.ok hi hd hm hw
    refine ⟨t, (s1.cvmxPart · vs df m 0), (s1.cvmxPart · vs df m 1), hexec, fun k => ⟨?_, rfl⟩, howes⟩
    simp only [State.cvmxPart, Nat.mul_zero, Nat.zero_add]
  · obtain ⟨t, hexec, howes⟩ := exec_gmx_owes hs.ok hi hw
    exact ⟨t, s1.gmxDraw h.table seed sstr seb suse vx, hexec, fun _ _ => rfl, howes⟩

end Sys2Proof.Machine
end

section
/-!
Accesses of a scratchpad outside the task's window (R154, R222): the load that gives zero, the store that writes nothing, and the record.
-/
namespace Sys2Proof.Machine

variable {cmds : List Instr} {s : State} {n c lc k a : Nat}

/-! ### What a fault leaves alone -/

/-- The hazard detector changes no core (R376). -/
@[simp] theorem State.noteVisible_cores (s : State) (n : Nat) (p : Pend) : (s.noteVisible n p).cores = s.cores := by
  unfold State.noteVisible
  split
  · rfl
  · refine foldl_keeps (P := fun u : State => u.cores = s.cores) (foldl_keeps (P := fun u : State => u.cores = s.cores) rfl fun u l h => h)
      fun u l h => ?_
    rw [State.modTable_cores]
    split
    · exact (u.hazard_sameUnits n _).cores.trans h
    · exact h

/-- An abort stops dealers; it reaches no core (R259). -/
@[simp] theorem State.abortJob_cores (s : State) (j code : Nat) : (s.abortJob j code).cores = s.cores := by
  unfold State.abortJob
  split
  · rfl
  · next b _ =>
    split
    · rfl
    · split <;> rfl
    · rw [State.modJob_cores]
      exact foldl_keeps (P := fun u : State => u.cores = s.cores) (s.endWaiters_sameUnits j b).cores fun u t h => h

@[simp] theorem State.faultTable_cores (s : State) (n code d : Nat) : (s.faultTable n code d).cores = s.cores := by
  dsimp only [State.faultTable]
  split
  · rw [State.abortJob_cores, State.raiseTable_cores]
  · rw [State.raiseTable_cores]

theorem State.accFault_bound_cores (s : State) (n : Nat) (streamer : Bool) (lc a : Nat) :
    (s.accFault n streamer (.bound lc a)).cores = s.cores :=
  (State.faultTable_cores _ n _ _).trans (s.recordFault_sameUnits _ _).cores

/-- The only fault of an operation is the one that it raises. -/
@[simp] theorem State.accFaults_singleton (s : State) (n : Nat) (streamer : Bool) (f : AccFault) :
    s.accFaults n streamer [f] = s.accFault n streamer f := by
  cases f <;> rfl

/-- An access whose first address lies outside the window fails there, whatever queue areas it touches. -/
theorem State.accessFault_outside (h : s.spdBound n ≤ a) (lc k : Nat) (as : List Nat) :
    s.accessFault n lc k (a :: as) = some (.bound lc a) := by
  simp [State.accessFault, State.boundFault, h]

/-! ### The record (R156) -/

/-- FAULT, the top bit of a fault register, above a record that leaves it free. -/
theorem ofNat_or_faultBit {v : Nat} (h : v < 2 ^ 31) : BitVec.ofNat 32 v ||| 0x80000000 = BitVec.ofNat 32 (v + 2 ^ 31) := by
  apply BitVec.eq_of_toNat_eq
  have hor : 2 ^ 31 * 1 + v = 2 ^ 31 * 1 ||| v := Nat.two_pow_add_eq_or_of_lt h 1
  simp only [BitVec.toNat_or, BitVec.toNat_ofNat]
  rw [Nat.mod_eq_of_lt (by omega), Nat.mod_eq_of_lt (by omega), Nat.lor_comm, Nat.add_comm]
  exact hor.symm

/-- A first window fault is recorded as address, core, cause and FAULT, and the same word is the event's detail. -/
theorem State.accFault_bound_first (h : (s.csrAt (spdReg n 8)).getLsbD 31 = false) (hlc : lc < 64) (ha : a < 2 ^ 19) :
    s.accFault n false (.bound lc a) =
      ((s.setCsr (spdReg n 8) (BitVec.ofNat 32 (a + 2 ^ 19 * lc + 2 ^ 25 + 2 ^ 31))).mark (spdReg n 8) 0x80000000).faultTable n 0x2201
        (a + 2 ^ 19 * lc + 2 ^ 25 + 2 ^ 31) := by
  have hsum : a + lc <<< 19 + 1 <<< 25 = a + 2 ^ 19 * lc + 2 ^ 25 := by rw [Nat.shiftLeft_eq, Nat.mul_comm]; rfl
  have hword : BitVec.ofNat 32 (a + lc <<< 19 + 1 <<< 25) ||| 0x80000000 = BitVec.ofNat 32 (a + 2 ^ 19 * lc + 2 ^ 25 + 2 ^ 31) := by
    rw [hsum]
    exact ofNat_or_faultBit (by omega)
  have hdetail : (BitVec.ofNat 32 (a + 2 ^ 19 * lc + 2 ^ 25 + 2 ^ 31)).toNat + (b2n false) <<< 32 = a + 2 ^ 19 * lc + 2 ^ 25 + 2 ^ 31 := by
    rw [BitVec.toNat_ofNat, Nat.mod_eq_of_lt (by omega)]
    rfl
  rw [State.accFault, State.recordFault, h, if_neg Bool.false_ne_true, hword, hdetail]

/-! ### A load outside the window -/

/-- An operand's address is one of the scratchpad's (R121). -/
theorem State.opAddr_lt (s : State) (k : Nat) (sa : BitVec 5) (off : BitVec 19) (low : Nat) : s.opAddr k sa off low < 0x80000 :=
  calc s.opAddr k sa off low ≤ spdAddr ((s.sreg k sa).toNat + off.toNat) := by
        unfold State.opAddr alignDown
        rw [Nat.shiftRight_eq_div_pow, Nat.shiftLeft_eq]
        exact Nat.div_mul_le_self _ _
    _ < 0x80000 := Nat.mod_lt _ (by decide)

theorem spdSpan_succ {a : Nat} (h : a < 0x80000) (m : Nat) : ∃ as, spdSpan a (m + 1) = a :: as :=
  ⟨_, by rw [spdSpan, List.range_succ_eq_map, List.map_cons, Nat.add_zero, spdAddr, Nat.mod_eq_of_lt h]⟩

/-- The load of the only acting core fails its window check: it reads zeros, and owes what its effect makes of them. -/
theorem State.eachLoad_outside {h : Hdr} {as : Nat → List Nat} {eff : State → Nat → List Byte → Option AccFault → List (Nat × Eff)}
    {x : Nat × Nat} {f : AccFault} (hs : Ok cmds s) (hx : s.actors h = [x]) (hf : s.accessFault h.table x.1 x.2 (as x.2) = some f)
    (reads : Nat → List Loc) (hk : ∀ e ∈ eff s x.2 ((as x.2).map fun _ => 0) (some f), e.2.keeps) :
    ∃ u, s.Owes u h.table (eff s x.2 ((as x.2).map fun _ => 0) (some f)) ∧
      s.eachLoad h reads as eff = u.accFault h.table false f := by
  have hnotes := State.noteReads_owesNothing hs h.table slotL h.pc (reads x.2)
  obtain ⟨honly, hpend, -⟩ := State.noteReads_owes hs h.table slotL h.pc (reads x.2)
  have hok := State.noteReads_ok (t := h.table) (slot := slotL) (pc := h.pc) (ls := reads x.2) hs
  have hread : (s.noteReads h.table slotL h.pc (reads x.2)).spdRead h.table slotL h.pc x.1 x.2 0 (as x.2) =
      ((as x.2).map (fun _ => 0), s.noteReads h.table slotL h.pc (reads x.2), [f]) := by
    have hf' := (honly.actsOnly likeness_alikeButReads []).accessFault holdStates_nil x.1 x.2 (as x.2)
    rw [State.spdRead, hf', hf]
  have hposted := (State.post_owes hok.tables_.1 h.table slotL h.pc true _ hk).busyWith (State.post_ok hok).tables_.1
    ((s.opCores h).flatMap (fun x => eff s x.2 [] none))
  refine ⟨_, hposted.after honly hpend, ?_⟩
  simp only [State.eachLoad_eq, hx, List.foldl_cons, List.foldl_nil, State.loadNext, hread, hf, List.nil_append, State.accFaults_singleton]

/-- LDS of the only acting core outside its window: its register is owed a zero, and its fault is raised. -/
theorem exec_lds_outside {s1 : State} {h : Hdr} {sd sa : BitVec 5} {off : BitVec 19} {x : Nat × Nat} (hs : Ok cmds s)
    (hi : s.issue h slotL = .go s1) (hx : s1.actors h = [x]) (hb : s1.spdBound h.table ≤ s1.opAddr x.2 sa off 2) :
    ∃ u, s1.Owes u h.table [(classLat (spdSpan (s1.opAddr x.2 sa off 2) 4), .sreg x.2 sd.toNat 0)] ∧
      exec (.lds h sd sa off) s = .next (u.accFault h.table false (.bound x.1 (s1.opAddr x.2 sa off 2))) := by
  obtain ⟨as, hspan⟩ := spdSpan_succ (s1.opAddr_lt x.2 sa off 2) 3
  have hfault : s1.accessFault h.table x.1 x.2 (spdSpan (s1.opAddr x.2 sa off 2) 4) = some (.bound x.1 (s1.opAddr x.2 sa off 2)) := by
    rw [hspan]
    exact State.accessFault_outside hb x.1 x.2 as
  obtain ⟨u, howes, hload⟩ := State.eachLoad_outside (as := fun k => spdSpan (s1.opAddr k sa off 2) 4)
    (eff := fun _ k bs _ => [(classLat (spdSpan (s1.opAddr k sa off 2) 4), .sreg k sd.toNat (BitVec.ofNat 32 (leNat bs)))])
    (State.issue_go_ok hs hi) hx hfault (fun k => [locS k sa])
    (fun e he => List.mem_singleton.1 he ▸ Eff.keeps_of trivial)
  exact ⟨u, howes, (slotOp_go rfl hi).trans (congrArg Host.Outcome.next hload)⟩

/-! ### A store outside the window -/

/-- The only effect that is due is applied, whatever its kind. -/
theorem State.applyDue_singleton {p : Pend} (hp : (s.table n).pend = [p]) (hc : p.due ≤ c) :
    s.applyDue n c = (s.dropDue n c).makeVisible n p := by
  have hdue : s.dueBy n c = [p] := by rw [State.dueBy, hp]; simp [hc]
  have horder : dueOrder [p] = [p] := by
    cases hf : p.eff.flagWrite with
    | true => simp [dueOrder, hf]
    | false => cases hw : p.eff.shelfWrite <;> simp [dueOrder, hf, hw, insertShelf]
  rw [State.applyDue_eq, hdue, horder]
  rfl

/-- Nothing is left owed where the only effect was due. -/
theorem State.table_dropDue_singleton {p : Pend} (hs : Ok cmds s) (hp : (s.table n).pend = [p]) (hc : p.due ≤ c) (m : Nat) :
    (s.dropDue n c).table m = if m = n then { s.table n with pend := [] } else s.table m := by
  rw [State.dropDue, State.table_modTable hs.tables_.1, hp]
  simp [hc]

theorem State.touchFault_outside {w : SpdWrite} {b : Nat × Byte × Byte} (hw : w.bits.head? = some b) (hb : s.spdBound n ≤ b.1) :
    s.touchFault n w = some (.bound w.lcore b.1) := by
  obtain ⟨bs, hbits⟩ := List.head?_eq_some_iff.1 hw
  rw [State.touchFault, hbits]
  exact State.accessFault_outside hb w.lcore w.core _

/-- A table that owes its banks an empty write, once a store has failed its check as it touched them (R146, R154). -/
def State.owesNoBytes (s : State) (n c : Nat) (w : SpdWrite) (p : Pend) : State :=
  (s.dropDue n c).modTable n fun b => { b with pend := b.pend ++ [{ p with due := p.due + 1, eff := .spdWrite [{ w with bits := [] }] }] }

/-- The store touches its banks, owes them no byte, and its fault is raised. -/
theorem State.applyDue_touch_outside {w : SpdWrite} {b : Nat × Byte × Byte} {p : Pend} (hp : (s.table n).pend = [p]) (hc : p.due ≤ c)
    (he : p.eff = .spdTouch [w]) (hw : w.bits.head? = some b) (hb : s.spdBound n ≤ b.1) :
    s.applyDue n c = (s.owesNoBytes n c w p).accFault n false (.bound w.lcore b.1) := by
  have hfault : (s.dropDue n c).touchFault n w = some (.bound w.lcore b.1) := State.touchFault_outside hw hb
  rw [State.applyDue_singleton hp hc, State.makeVisible, he]
  simp only [State.applyEff, he, List.map_cons, List.map_nil, List.filterMap_cons, List.filterMap_nil, hfault, Option.isNone_some,
    Bool.false_eq_true, if_false, State.accFaults_singleton]
  rfl

theorem State.table_owesNoBytes {w : SpdWrite} {p : Pend} (hs : Ok cmds s) (hp : (s.table n).pend = [p]) (hc : p.due ≤ c) (m : Nat) :
    (s.owesNoBytes n c w p).table m =
      if m = n then { s.table n with pend := [{ p with due := p.due + 1, eff := .spdWrite [{ w with bits := [] }] }] } else s.table m := by
  have hok := State.dropDue_ok hs n c
  rw [State.owesNoBytes, State.table_modTable hok.tables_.1, State.table_dropDue_singleton hs hp hc,
    State.table_dropDue_singleton hs hp hc, if_pos rfl]
  split <;> rfl

/-- A write of no bytes changes no core. -/
theorem State.core_spdWrites_nil (hs : Ok cmds s) (w : SpdWrite) (hw : w.bits = []) (k : Nat) : (s.spdWrites n [w]).core k = s.core k := by
  have hput : (s.core w.core).putAll w.bits = (s.core w.core, none, 0) := by rw [hw]; rfl
  have hsame := State.core_modCore hs.cores_.1 w.core k fun _ => s.core w.core
  simp only [State.spdWrites, List.foldl_cons, List.foldl_nil, hput, State.countCe, if_true, Option.toList_none, List.map_nil,
    List.append_nil, State.accFaults_nil, hsame]
  split
  · next e => rw [e]
  · rfl

/-- In the cycle after it has failed, the store writes nothing. -/
theorem State.core_applyDue_spdWrite_nil {w : SpdWrite} {p : Pend} (hs : Ok cmds s) (hp : (s.table n).pend = [p]) (hc : p.due ≤ c)
    (he : p.eff = .spdWrite [w]) (hw : w.bits = []) (k : Nat) : (s.applyDue n c).core k = s.core k := by
  have happly : (s.dropDue n c).applyEff n p = (s.dropDue n c).spdWrites n [w] := by simp only [State.applyEff, he]
  rw [State.applyDue_singleton hp hc, State.makeVisible, he]
  dsimp only
  rw [State.core, State.noteVisible_cores, happly]
  exact State.core_spdWrites_nil (State.dropDue_ok hs n c) w hw k

/-- Settles O23: the load by `exec_lds_outside`; the store by `State.applyDue_touch_outside`, and it owes no byte; the record by
`State.accFault_bound_first`. -/
theorem windowFaults : Obligations.WindowFaults := by
  unfold Obligations.WindowFaults
  intro s s1 h sd sa off x hcan
  have hs := hcan.ok
  refine ⟨fun hi hx hb => exec_lds_outside hs hi hx hb, fun w n c b howed hw hb => ?_, fun n lc a h hlc ha => State.accFault_bound_first h hlc ha⟩
  obtain ⟨p, hp, he⟩ := List.map_eq_singleton_iff.1 howed
  obtain ⟨hdue, heff⟩ := Prod.mk.inj he
  have hfirst := State.applyDue_touch_outside hp hdue.le heff hw hb
  have htable := State.table_owesNoBytes (w := w) hs hp hdue.le
  have hown := htable n
  rw [if_pos rfl] at hown
  have hok : Ok s.pending (s.owesNoBytes n c w p) := State.modTable_ok (State.dropDue_ok hs n c) fun _ hx => hx
  refine ⟨⟨_, hfirst, rfl, fun m hm => (htable m).trans (if_neg hm), by rw [hown], ?_⟩, fun k i => ?_⟩
  · rw [State.owed, hown, ← hdue]
    rfl
  · have hpend := (State.accFault_sameRegs hok n false (.bound w.lcore b.1)).pend n
    rw [hown] at hpend
    rw [hfirst, State.core_applyDue_spdWrite_nil (State.accFault_ok hok) hpend (Nat.succ_le_succ hdue.le) rfl rfl k, State.core,
      State.accFault_bound_cores]
    rfl

end Sys2Proof.Machine
end

section
/-!
Writes of a scratchpad whose words have no errors (R146, R155): every byte takes the bits of its mask, and nothing else of the core changes.
-/
namespace Sys2Proof.Machine

/-- A byte with the bits of a mask replaced by those of a value. -/
def mergeByte (v : Byte) (b : Nat × Byte × Byte) : Byte := (v &&& ~~~b.2.1) ||| (b.2.2 &&& b.2.1)

theorem mergeByte_whole (v : Byte) (a : Nat) (x : Byte) : mergeByte v (a, 0xFF, x) = x := by
  have hall : (255 : Byte) = BitVec.allOnes 8 := rfl
  simp only [mergeByte, hall, BitVec.not_allOnes, BitVec.and_zero, BitVec.zero_or, BitVec.and_allOnes]

theorem mergeByte_masked (v : Byte) {b : Nat × Byte × Byte} (h : b.2.1 = 0) : mergeByte v b = v := by
  have hnone : ~~~(0 : Byte) = BitVec.allOnes 8 := rfl
  rw [mergeByte, h, hnone, BitVec.and_allOnes]
  exact (congrArg (v ||| ·) BitVec.and_zero).trans BitVec.or_zero

/-- The bytes of a scratchpad after masked writes, one after the other. -/
def mergeBytes (m : SMap Byte) (bs : List (Nat × Byte × Byte)) : SMap Byte :=
  bs.foldl (fun m b => SMap.set 0 m b.1 (mergeByte (SMap.get 0 m b.1) b)) m

theorem wf_mergeBytes {m : SMap Byte} (hm : SMap.wf 0 m = true) (bs : List (Nat × Byte × Byte)) : SMap.wf 0 (mergeBytes m bs) = true :=
  SMap.wf_foldl hm fun _ _ h => SMap.wf_set _ _ h

/-- A byte takes, in order, the writes that name it. -/
theorem get_mergeBytes {m : SMap Byte} (hm : SMap.wf 0 m = true) (bs : List (Nat × Byte × Byte)) (a : Nat) :
    SMap.get 0 (mergeBytes m bs) a = (bs.filter (fun b => b.1 == a)).foldl mergeByte (SMap.get 0 m a) := by
  induction bs generalizing m with
  | nil => rfl
  | cons b bs ih =>
    have hstep : mergeBytes m (b :: bs) = mergeBytes (SMap.set 0 m b.1 (mergeByte (SMap.get 0 m b.1) b)) bs := rfl
    rw [hstep, ih (SMap.wf_set _ _ hm), SMap.get_set hm]
    by_cases e : b.1 = a
    · rw [if_pos e.symm, List.filter_cons_of_pos (by simpa using e), List.foldl_cons, e]
    · rw [if_neg (Ne.symm e), List.filter_cons_of_neg (by simpa using e)]

/-- The core with another scratchpad. -/
def Core.withSpd (c : Core) (m : SMap Byte) : Core := { c with spd := m }

theorem Core.foldl_putBits (c : Core) (bs : List (Nat × Byte × Byte)) :
    bs.foldl (fun c b => c.putBits b.1 b.2.1 b.2.2) c = c.withSpd (mergeBytes c.spd bs) := by
  induction bs generalizing c with
  | nil => rfl
  | cons b bs ih => exact ih (c.putBits b.1 b.2.1 b.2.2)

/-- A write of a word without an error changes its bytes, and meets none. -/
theorem Core.putWord_clean {c : Core} (hc : CoreOk c) {w : Nat} (hw : SMap.get none c.spdErr w = none) (bs : List (Nat × Byte × Byte)) :
    c.putWord w bs = (c.withSpd (mergeBytes c.spd bs), none, 0) := by
  simp only [Core.putWord, hw, SMap.set_of_get hc.spdErr_ hw, Core.foldl_putBits]

/-- The writes that `putAll` performs, in its order: those of a mask other than zero, word by word. -/
def spdWriteOrder (bs : List (Nat × Byte × Byte)) : List (Nat × Byte × Byte) :=
  let bs := bs.filter (fun b => b.2.1 != 0)
  ((bs.map (·.1 / 4)).eraseDups).flatMap (fun w => bs.filter (fun b => b.1 / 4 == w))

theorem Core.foldl_putWord_clean {bs : Nat → List (Nat × Byte × Byte)} {ws : List Nat} {c : Core} (hc : CoreOk c)
    (hw : ∀ w ∈ ws, SMap.get none c.spdErr w = none) :
    ws.foldl (fun (acc : Core × Option Nat × Nat) w =>
      ((acc.1.putWord w (bs w)).1, acc.2.1.or (acc.1.putWord w (bs w)).2.1, acc.2.2 + (acc.1.putWord w (bs w)).2.2)) (c, none, 0) =
      (c.withSpd (mergeBytes c.spd (ws.flatMap bs)), none, 0) := by
  induction ws generalizing c with
  | nil => rfl
  | cons w ws ih =>
    have hput := Core.putWord_clean hc (hw w List.mem_cons_self) (bs w)
    have hrest := ih (c := c.withSpd (mergeBytes c.spd (bs w))) (coreOk_spd hc (wf_mergeBytes hc.spd_ _))
      fun x hx => hw x (List.mem_cons_of_mem w hx)
    have hjoin : mergeBytes c.spd ((w :: ws).flatMap bs) = mergeBytes (mergeBytes c.spd (bs w)) (ws.flatMap bs) := by
      rw [List.flatMap_cons, mergeBytes, List.foldl_append]
      rfl
    rw [List.foldl_cons, hput, hjoin]
    exact hrest

/-- A write to words without errors changes the bytes of the scratchpad alone, and meets no error (R155). -/
theorem Core.putAll_clean {c : Core} (hc : CoreOk c) {bs : List (Nat × Byte × Byte)}
    (h : ∀ b ∈ bs, SMap.get none c.spdErr (b.1 / 4) = none) :
    c.putAll bs = (c.withSpd (mergeBytes c.spd (spdWriteOrder bs)), none, 0) := by
  refine Core.foldl_putWord_clean hc fun w hw => ?_
  obtain ⟨b, hb, rfl⟩ := List.mem_map.1 (List.mem_eraseDups.1 hw)
  exact h b (List.mem_of_mem_filter hb)

theorem nodup_eraseDups : ∀ l : List Nat, l.eraseDups.Nodup
  | [] => by simp
  | x :: l => by
    rw [List.eraseDups_cons, List.nodup_cons, List.mem_eraseDups]
    exact ⟨by simp, nodup_eraseDups (l.filter fun b => !b == x)⟩
termination_by l => l.length
decreasing_by exact Nat.lt_succ_of_le (List.length_filter_le _ l)

/-- Writing word by word keeps the order of the writes of one byte. -/
theorem filter_flatMap_words {ws : List Nat} (hws : ws.Nodup) (bs : List (Nat × Byte × Byte)) (a : Nat) :
    (ws.flatMap (fun w => bs.filter (fun b => b.1 / 4 == w))).filter (fun b => b.1 == a) =
      if a / 4 ∈ ws then bs.filter (fun b => b.1 == a) else [] := by
  induction ws with
  | nil => rfl
  | cons w ws ih =>
    obtain ⟨hw, hnd⟩ := List.nodup_cons.1 hws
    have hword : (bs.filter (fun b => b.1 / 4 == w)).filter (fun b => b.1 == a) = if a / 4 = w then bs.filter (fun b => b.1 == a) else [] := by
      rw [List.filter_filter]
      split
      · next e => exact List.filter_congr fun b _ => by by_cases hb : b.1 = a <;> simp [hb, e]
      · next e => exact List.filter_eq_nil_iff.2 fun b _ => by by_cases hb : b.1 = a <;> simp [hb, e]
    rw [List.flatMap_cons, List.filter_append, hword, ih hnd]
    by_cases e : a / 4 = w
    · simp [e, hw]
    · simp [e]

/-- What a byte reads after `putAll`: the writes that name it, in order. -/
theorem get_mergeBytes_spdWriteOrder {m : SMap Byte} (hm : SMap.wf 0 m = true) (bs : List (Nat × Byte × Byte)) (a : Nat) :
    SMap.get 0 (mergeBytes m (spdWriteOrder bs)) a = (bs.filter (fun b => b.1 == a)).foldl mergeByte (SMap.get 0 m a) := by
  have hdrop : ∀ (l : List (Nat × Byte × Byte)) (v : Byte), (l.filter (fun b => b.2.1 != 0)).foldl mergeByte v = l.foldl mergeByte v := by
    intro l
    induction l with
    | nil => exact fun _ => rfl
    | cons b l ih =>
      intro v
      by_cases e : b.2.1 = 0
      · rw [List.filter_cons_of_neg (by simp [e]), ih, List.foldl_cons, mergeByte_masked v e]
      · rw [List.filter_cons_of_pos (p := fun b : Nat × Byte × Byte => b.2.1 != 0) (bne_iff_ne.2 e), List.foldl_cons, List.foldl_cons, ih]
  have hcomm : (bs.filter (fun b => b.2.1 != 0)).filter (fun b => b.1 == a) = (bs.filter (fun b => b.1 == a)).filter (fun b => b.2.1 != 0) :=
    List.filter_comm ..
  rw [get_mergeBytes hm, spdWriteOrder, filter_flatMap_words (nodup_eraseDups _), ← hdrop (bs.filter fun b => b.1 == a), ← hcomm]
  split
  · rfl
  · next hnot =>
    have hnone : (bs.filter (fun b => b.2.1 != 0)).filter (fun b => b.1 == a) = [] := by
      refine List.filter_eq_nil_iff.2 fun b hb e => hnot ?_
      rw [← beq_iff_eq.1 e]
      exact List.mem_eraseDups.2 (List.mem_map_of_mem hb)
    rw [hnone]

end Sys2Proof.Machine
end

section
/-!
DECOUPLED_FILL (R141, R142, R146): the fill port of one core serves the one fill that waits there, and takes it whole.
-/
namespace Sys2Proof.Machine

variable {cmds : List Instr} {s : State} {n lc k : Nat} {f : Fill}

/-! ### The cores of a table -/

/-- The enabled cores of a table are different cores, as those of an operation of a dealer are. -/
theorem State.tableCores_nodup (hs : Ok cmds s) (n : Nat) : ((s.tableCores n).map (·.2)).Nodup := by
  have hnd := State.opCores_nodup (State.modTable_ok hs (t := n) (f := fun b => { b with taper := false }) fun _ hx => hx)
    ⟨n, 0, 0, 0, false, 0, false⟩
  unfold State.opCores State.issuer at hnd
  rw [State.table_modTable hs.tables_.1, if_pos rfl] at hnd
  exact hnd

/-- What one member of a list without repetitions has alone selects that member. -/
theorem filter_eq_singleton {l : List (Nat × Nat)} {x : Nat × Nat} {p : Nat × Nat → Bool} (hl : (l.map (·.2)).Nodup) (hx : x ∈ l)
    (hp : ∀ y ∈ l, p y = decide (y.2 = x.2)) : l.filter p = [x] := by
  have hsame : l.filter p = l.filter (· == x) := List.filter_congr fun y hy => by
    rw [hp y hy, ← beq_eq_decide, Bool.eq_iff_iff, beq_iff_eq, beq_iff_eq]
    exact ⟨fun e => List.inj_on_of_nodup_map hl hy hx e, congrArg Prod.snd⟩
  rw [hsame, List.filter_beq, List.count_eq_one_of_mem hl.of_map hx, List.replicate_one]

/-! ### One chunk -/

/-- At the fill port of core `k` one fill waits, of bytes of one bank, and the port takes it whole in the current cycle. -/
structure State.TakesWhole (s : State) (n k : Nat) (f : Fill) : Prop where
  only  : (s.core k).fills = [f]
  bytes : 0 < f.data.length
  room  : f.data.length ≤ s.fillRoom n k
  addr  : f.addr < 0x80000
  bank  : f.addr % 0x8000 + f.data.length ≤ 0x8000
  free  : (s.busyBanks n k).getLsbD (bankOf f.addr) = false
  clean : ∀ w, SMap.get none (s.core k).spdErr w = none

/-- The bytes of a fill as writes of whole bytes. -/
def Fill.bits (f : Fill) : List (Nat × Byte × Byte) := f.data.zipIdx.map (fun b => (f.addr + b.2, (0xFF : Byte), b.1))

/-- Of consecutive whole bytes the one that names an address replaces what is there. -/
theorem foldl_mergeByte_consecutive (data : List Byte) (o a i : Nat) (v : Byte) :
    (((data.zipIdx i).map (fun b => (o + b.2, (0xFF : Byte), b.1))).filter (fun b => b.1 == a)).foldl mergeByte v =
      if o + i ≤ a ∧ a < o + i + data.length then data.getD (a - (o + i)) 0 else v := by
  induction data generalizing i v with
  | nil => exact (if_neg (by simp)).symm
  | cons x data ih =>
    rw [List.zipIdx_cons, List.map_cons, List.length_cons]
    by_cases e : o + i = a
    · rw [List.filter_cons_of_pos (by simpa using e), List.foldl_cons, ih, mergeByte_whole, if_neg (by omega), if_pos (by omega), e, Nat.sub_self]
      rfl
    · rw [List.filter_cons_of_neg (by simpa using e), ih]
      by_cases h : o + (i + 1) ≤ a ∧ a < o + (i + 1) + data.length
      · rw [if_pos h, if_pos (by omega), show a - (o + i) = a - (o + (i + 1)) + 1 by omega]
        rfl
      · rw [if_neg h, if_neg (by omega)]

/-- The scratchpad of a core with a fill written. -/
def Core.filled (c : Core) (f : Fill) : SMap Byte := mergeBytes c.spd (spdWriteOrder f.bits)

theorem Core.get_filled {c : Core} (hc : CoreOk c) (f : Fill) (a : Nat) : SMap.get 0 (c.filled f) a =
    if f.addr ≤ a ∧ a < f.addr + f.data.length then f.data.getD (a - f.addr) 0 else SMap.get 0 c.spd a := by
  rw [Core.filled, get_mergeBytes_spdWriteOrder hc.spd_]
  exact foldl_mergeByte_consecutive f.data f.addr a 0 _

/-- The core with the fill written and none waiting. -/
def Core.afterFill (c : Core) (f : Fill) : Core := { c with spd := c.filled f, fills := [] }

/-- A port at work that finds no fill or no room goes on so. -/
theorem FillWork.run_of_chunk {w : FillWork} (h : w.chunk = w) (m : Nat) : w.run m = w := by
  induction m with
  | zero => rfl
  | succ m ih => rw [FillWork.run, h, ih]

theorem FillWork.chunk_of_fills {w : FillWork} (h : w.core.fills = []) : w.chunk = w := by
  simp [FillWork.chunk, Core.nextFill, h]

/-- The one fill that waits goes in one chunk. -/
theorem FillWork.chunk_whole {c : Core} {room : Nat} {busy : BitVec 16} (hc : CoreOk c) (hf : c.fills = [f]) (hpos : 0 < f.data.length)
    (hroom : f.data.length ≤ room) (haddr : f.addr < 0x80000) (hbank : f.addr % 0x8000 + f.data.length ≤ 0x8000)
    (hfree : busy.getLsbD (bankOf f.addr) = false) (hclean : ∀ w, SMap.get none c.spdErr w = none) :
    (⟨c, none, 0, room, busy⟩ : FillWork).chunk =
      ⟨c.afterFill f, none, 0, room - f.data.length, busy ||| (1 <<< bankOf f.addr)⟩ := by
  have hmod : ∀ i, f.addr + i < 0x80000 → spdAddr (f.addr + i) = f.addr + i := fun i => Nat.mod_eq_of_lt
  have hself : spdAddr f.addr = f.addr := Nat.mod_eq_of_lt haddr
  have hnext : c.nextFill busy = some (f, 0) := by simp [Core.nextFill, hf, hself, hfree]
  have hlen : min room (min f.data.length (0x8000 - f.addr % 0x8000)) = f.data.length := by omega
  have hbits : f.data.zipIdx.map (fun b => (spdAddr (f.addr + b.2), (0xFF : Byte), b.1)) = f.bits :=
    List.map_congr_left fun b hb => by
      have := List.snd_lt_of_mem_zipIdx hb
      rw [hmod b.2 (by omega)]
  have hput := Core.putAll_clean hc (bs := f.bits) fun b _ => hclean (b.1 / 4)
  unfold FillWork.chunk
  simp only [hnext, hself, hlen, List.take_length, List.drop_length, hbits, hput, List.isEmpty_nil, if_true, Option.or_none, Nat.add_zero,
    if_neg (show ¬ room = 0 by omega)]
  simp only [Core.withSpd, hf]
  rfl

/-- The port serves the fill in one cycle, without an error. -/
theorem State.serveFills_whole (hs : Ok cmds s) (h : s.TakesWhole n k f) (lc : Nat) :
    s.serveFills n lc k = (s.modCore k (fun _ => { s.core k with fillReq := false }.afterFill f), []) := by
  have hok : CoreOk { s.core k with fillReq := false } := State.core_ok hs
  have hchunk := FillWork.chunk_whole (busy := s.busyBanks n k) hok h.only h.bytes h.room h.addr h.bank h.free h.clean
  have hrun := FillWork.run_of_chunk (w := ⟨{ s.core k with fillReq := false }.afterFill f, none, 0, s.fillRoom n k - f.data.length,
    s.busyBanks n k ||| (1 <<< bankOf f.addr)⟩) (FillWork.chunk_of_fills rfl) 31
  unfold State.serveFills
  rw [FillWork.run, hchunk, hrun]
  rfl

/-- Where one port of the table serves, and takes its fill whole, that core has its bytes. -/
theorem State.serveTable_whole (hs : Ok cmds s) (h : s.TakesWhole n k f) (hk : (lc, k) ∈ s.tableCores n)
    (hreq : ∀ x ∈ s.tableCores n, (s.core x.2).fillReq = decide (x.2 = k)) :
    s.serveTable n = s.modCore k (fun _ => { s.core k with fillReq := false }.afterFill f) := by
  have hone : (s.tableCores n).filter (fun x => (s.core x.2).fillReq) = [(lc, k)] :=
    filter_eq_singleton (State.tableCores_nodup hs n) hk hreq
  simp only [State.serveTable, hone, List.foldl_cons, List.foldl_nil, State.serveFills_whole hs h, List.append_nil, State.accFaults_nil]

/-! ### The command -/

/-- The core asks its fill port to serve at the end of the cycle. -/
def State.askFill (s : State) (k : Nat) : State := s.modCore k (fun x => { x with fillReq := true })

theorem execDecoupledFill_runs {p c : Nat} (hp : s.physCore n c = some p) (hstop : s.stopped n = false) :
    exec (.decoupledFill n c) s = .next (s.askFill (34 * n + p)) := by
  have harm : exec (.decoupledFill n c) s = execDecoupledFill n c s := rfl
  simp only [harm, execDecoupledFill, hp, hstop, Bool.false_eq_true, if_false]
  rfl

theorem State.core_askFill (hs : Ok cmds s) (k j : Nat) :
    (s.askFill k).core j = if j = k then { s.core k with fillReq := true } else s.core j := State.core_modCore hs.cores_.1 k j _

/-- Asking changes neither the fill nor what else uses the port and the banks. -/
theorem State.TakesWhole.askFill (hs : Ok cmds s) (h : s.TakesWhole n k f) : (s.askFill k).TakesWhole n k f := by
  have hcore := State.core_askFill hs k k
  rw [if_pos rfl] at hcore
  have hbusy : (s.askFill k).busyBanks n k = s.busyBanks n k := by
    unfold State.busyBanks
    rw [hcore]
    rfl
  exact ⟨by rw [hcore, h.only], h.bytes, h.room, h.addr, h.bank, by rw [hbusy, h.free], by rw [hcore]; exact h.clean⟩

/-- DECOUPLED_FILL: the port asks, and at the cycle's end the fill is written, and nothing else changes. -/
theorem exec_decoupledFill_whole {p c : Nat} (hs : Ok cmds s) (hp : s.physCore n c = some p) (hk : (c, 34 * n + p) ∈ s.tableCores n)
    (hstop : s.stopped n = false) (hothers : ∀ x ∈ s.tableCores n, x.2 ≠ 34 * n + p → (s.core x.2).fillReq = false)
    (h : s.TakesWhole n (34 * n + p) f) (hreq : (s.core (34 * n + p)).fillReq = false) :
    ∃ u t, exec (.decoupledFill n c) s = .next u ∧ u = s.modCore (34 * n + p) (fun x => { x with fillReq := true }) ∧ t = u.serveTable n ∧
      { t with cores := s.cores } = s ∧ (∀ k, k ≠ 34 * n + p → t.core k = s.core k) ∧ t.core (34 * n + p) = (s.core (34 * n + p)).afterFill f := by
  have hask := fun j => State.core_askFill hs (34 * n + p) j
  have hok : Ok cmds (s.askFill (34 * n + p)) := State.modCore_ok hs fun _ hx => hx
  have hown := hask (34 * n + p)
  rw [if_pos rfl] at hown
  have hserve := State.serveTable_whole hok (h.askFill hs) hk fun x hx => by
    rw [hask]
    split
    · next e => simp [e]
    · next e => rw [hothers x hx e, decide_eq_false e]
  have hcore := fun j => State.core_modCore hok.cores_.1 (34 * n + p) j
    (fun _ => { (s.askFill (34 * n + p)).core (34 * n + p) with fillReq := false }.afterFill f)
  refine ⟨_, _, execDecoupledFill_runs hp hstop, rfl, rfl, by rw [hserve]; rfl, fun k hk => ?_, ?_⟩
  · rw [hserve, hcore, if_neg hk, hask, if_neg hk]
  · rw [hserve, hcore, if_pos rfl, hown]
    exact congrArg (·.afterFill f) (show ({ s.core (34 * n + p) with fillReq := false } : Core) = s.core (34 * n + p) by rw [← hreq])

end Sys2Proof.Machine
end

section
/-!
SHAPER_FORWARD (R215): the first granule that waits at a shaper goes on as soon as the shaper has credit for it.
-/
namespace Sys2Proof.Machine

variable {cmds : List Instr} {s : State} {n i : Nat} {tier : Tier} {g : Granule}

/-- The first granule that waits at a shaper. -/
theorem State.findIdx?_waiting {sh : ShaperId} (hg : s.mem.granules[i]? = some g) (hsh : shaperServes sh g = true) (hf : g.forwarded = false)
    (hfirst : ∀ x < i, ∀ y, s.mem.granules[x]? = some y → shaperServes sh y = false ∨ y.forwarded = true) :
    s.mem.granules.findIdx? (fun g => shaperServes sh g && !g.forwarded) = some i := by
  obtain ⟨hi, hget⟩ := List.getElem?_eq_some_iff.1 hg
  refine List.findIdx?_eq_some_iff_getElem.2 ⟨hi, by simp [hget, hsh, hf], fun x hx => ?_⟩
  obtain h | h := hfirst x hx _ (List.getElem?_eq_getElem (hx.trans hi)) <;> simp [h]

/-- Only the granule of a host window asks the host for its bytes (R269). -/
theorem State.askHost_of_not_host (h : ∀ e w o, g.src ≠ .host e w o) : s.askHost g = s := by
  unfold State.askHost
  split
  · next e w o hsrc => exact absurd hsrc (h e w o)
  · rfl

/-- The state with granule `i` forwarded. -/
def State.forwarding (s : State) (i : Nat) : State :=
  { s with mem := { s.mem with granules := s.mem.granules.modify i (fun g => { g with forwarded := true }) } }

theorem execShaperForward_credit (hg : s.mem.granules[i]? = some g) (hhost : ∀ e w o, g.src ≠ .host e w o) (hstop : s.stopped n = false)
    (hfind : s.mem.granules.findIdx? (fun g => shaperServes (.table n tier) g && !g.forwarded) = some i)
    (hc : creditGranule ≤ s.tableCredit n tier) :
    exec (.shaperForward (.table n tier)) s = .next ((s.spendCredit (.table n tier)).forwarding i) := by
  have hhead : (s.mem.granules.drop i).head? = some g := by rw [List.head?_drop, hg]
  have harm : exec (.shaperForward (.table n tier)) s = execShaperForward (.table n tier) s := rfl
  simp only [harm, execShaperForward, hfind, State.shaperCredit, hstop, Nat.not_lt.2 hc, Bool.false_eq_true, or_self, if_false, hhead,
    Option.map_some, Option.getD_some, State.askHost_of_not_host hhost]
  rfl

theorem execShaperForward_noCredit (hfind : s.mem.granules.findIdx? (fun g => shaperServes (.table n tier) g && !g.forwarded) = some i)
    (hc : s.tableCredit n tier < creditGranule) : exec (.shaperForward (.table n tier)) s = .next s := by
  have harm : exec (.shaperForward (.table n tier)) s = execShaperForward (.table n tier) s := rfl
  simp only [harm, execShaperForward, hfind, State.shaperCredit, hc, true_or, if_true]

/-- A forwarded granule costs its shaper the credit of one granule (R215). -/
theorem State.tableCredit_spendCredit (hs : Ok cmds s) (n : Nat) (tier : Tier) :
    (s.spendCredit (.table n tier)).tableCredit n tier = s.tableCredit n tier - creditGranule := by
  have hmax : s.tableCredit n tier ≤ creditMax := Nat.min_le_left _ _
  have hcyc : (s.spendCredit (.table n tier)).cyc n = s.cyc n := rfl
  have htable : (s.spendCredit (.table n tier)).table n = _ := State.table_modTable hs.tables_.1 n n _
  have hempty : SMap.wf 0 ([] : SMap Nat) = true := rfl
  rw [if_pos rfl] at htable
  unfold State.tableCredit at hmax ⊢
  rw [htable, hcyc]
  cases tier <;>
    simp only [SMap.get_set (SMap.wf_set _ _ hempty), SMap.get_set hempty, Nat.sub_self, Nat.mul_zero, Nat.add_zero, if_true, if_false,
      zero_ne_one, one_ne_zero] <;>
    exact Nat.min_eq_right ((Nat.sub_le _ _).trans hmax)

/-- SHAPER_FORWARD of a table's shaper: the granule goes on and costs credit, or nothing happens. -/
theorem exec_shaperForward_table (hs : Ok cmds s) (hg : s.mem.granules[i]? = some g) (hhost : ∀ e w o, g.src ≠ .host e w o)
    (hstop : s.stopped n = false)
    (hfind : s.mem.granules.findIdx? (fun g => shaperServes (.table n tier) g && !g.forwarded) = some i) :
    (1024 ≤ s.tableCredit n tier → ∃ t, exec (.shaperForward (.table n tier)) s = .next t ∧
      { t with mem := s.mem, tables := s.tables } = s ∧
      t.mem = { s.mem with granules := s.mem.granules.modify i (fun g => { g with forwarded := true }) } ∧
      t.tableCredit n tier = s.tableCredit n tier - 1024) ∧
    (s.tableCredit n tier < 1024 → exec (.shaperForward (.table n tier)) s = .next s) :=
  ⟨fun hc => ⟨_, execShaperForward_credit hg hhost hstop hfind hc, rfl, rfl, State.tableCredit_spendCredit hs n tier⟩,
    fun hc => execShaperForward_noCredit hfind hc⟩

end Sys2Proof.Machine
end

section
/-!
GRANULE_RETIRE of a granule from the near tier (R221, R225, R236): read at its source, it goes to a fill port or to the far tier.
-/
namespace Sys2Proof.Machine

variable {cmds : List Instr} {s : State} {a d k i : Nat} {g : Granule} {err : GranuleErr} {tier : Tier}

/-- The state with granule `i` no longer in progress. -/
def State.retired (s : State) (i : Nat) : State := { s with mem := { s.mem with granules := s.mem.granules.eraseIdx i } }

theorem State.retired_ok (hs : Ok cmds s) (i : Nat) : Ok cmds (s.retired i) :=
  ok_mem hs { hs.mem with }

/-- Granule `i`, which is `g`, comes from address `a` of the near tier, and it is its turn to retire. -/
structure State.RetiresFrom (s : State) (i : Nat) (g : Granule) (a : Nat) : Prop where
  place   : s.mem.granules[i]? = some g
  sent    : g.forwarded = true
  turn    : inOrder s.pinnedMode (s.mem.granules.take i) g = true
  free    : s.granuleFree g = true
  src     : g.src = .hbm a
  there   : s.mem.hbmGone a = false

/-- A granule of the near tier crosses no mesh and takes no port: it is read and written. -/
theorem exec_granuleRetire_hbm (h : s.RetiresFrom i g a) (hmsg : ∀ off, g.dst ≠ .msg off) (err : GranuleErr) (data : List Byte) :
    exec (.granuleRetire i err data) s =
      .next (((s.retired i).readTier .hbm g a err).2.writeGranule g err ((s.retired i).readTier .hbm g a err).1) := by
  obtain ⟨hg, hfwd, hord, hfree, hsrc, hgone⟩ := h
  have harm : exec (.granuleRetire i err data) s = execGranuleRetire i err data s := rfl
  have hhead : (s.mem.granules.drop i).head? = some g := by rw [List.head?_drop, hg]
  have hway : s.meshWay g = none := by
    unfold State.meshWay
    rw [hsrc]
    cases g.owner <;> rfl
  have hpath : g.path = none := by
    unfold Granule.path
    rw [hsrc]
  have hports : (s.retired i).takePorts g = s.retired i := by
    unfold State.takePorts
    rw [hsrc, hpath]
  have hread : (s.retired i).readGranule g err data = (s.retired i).readTier .hbm g a err := by
    have hplace : (s.retired i).placeGone (.hbm a) = false := hgone
    unfold State.readGranule
    rw [hsrc, hplace]
    rfl
  have hend : ∀ u : State, u.endMsg g = u := fun u => by
    unfold State.endMsg
    split
    · next off _ _ hdst _ => exact absurd hdst (hmsg off)
    · rfl
  simp only [harm, execGranuleRetire, hhead, hway, hfwd, hord, hfree, Option.isSome_none, Bool.false_eq_true, if_false, not_true_eq_false,
    or_self, hend]
  change Host.Outcome.next (((((s.retired i).takePorts g).readGranule g err data).2.writeGranule g err
    (((s.retired i).takePorts g).readGranule g err data).1)) = _
  rw [hports, hread]

/-! ### The read (R225) -/

theorem MemSys.tierBytes_clean {m : MemSys} {n : Nat} (h : ∀ o < n, m.isBad tier ((a + o) / tierUnit tier) = false) :
    m.tierBytes tier a n = SMap.bytes (m.tierMem tier) a n :=
  List.map_congr_left fun o ho => by rw [h o (List.mem_range.1 ho)]; rfl

/-- A read of granules without an error delivers their bytes. -/
theorem State.readTier_clean (h : ∀ o < g.len, s.mem.isBad tier ((a + o) / tierUnit tier) = false) :
    s.readTier tier g a .clean = (SMap.bytes (s.mem.tierMem tier) a g.len, s) := by
  have hnone : (unitsOf (tierUnit tier) a g.len).find? (s.mem.isBad tier ·) = none :=
    List.find?_eq_none.2 fun x hx => by
      obtain ⟨o, ho, rfl⟩ := mem_unitsOf hx
      rw [h o ho]
      exact Bool.false_ne_true
  simp only [State.readTier, reduceCtorEq, if_false, hnone, MemSys.tierBytes_clean h]

/-- Every granule that is marked bad is bad. -/
theorem MemSys.isBad_markBad {m : MemSys} (hm : m.Canonical) {us : List Nat} {x : Nat} (hx : x ∈ us) :
    (m.markBad tier us true).isBad tier x = true := by
  have hkey : badKey tier x ∈ (us.map (fun i => (badKey tier i, true))).map (·.1) :=
    List.mem_map.2 ⟨_, List.mem_map_of_mem hx, rfl⟩
  have hall : ∀ y ∈ us.map (fun i => (badKey tier i, true)), y.2 = true := fun y hy => by
    obtain ⟨i, -, rfl⟩ := List.mem_map.1 hy
    rfl
  exact (SMap.get_setAll_of_eq hm.bad (g := fun _ => true) hall (badKey tier x)).trans (if_pos hkey)

theorem unitsOf_pos {u n : Nat} (a : Nat) (hn : 0 < n) : ∃ us, unitsOf u a n = a / u :: us := by
  obtain ⟨m, rfl⟩ : ∃ m, n = m + 1 := ⟨n - 1, by omega⟩
  exact ⟨_, by rw [unitsOf, List.range_succ_eq_map, List.map_cons, List.eraseDups_cons, Nat.add_zero]⟩

/-- A read in which the controller finds an uncorrectable error delivers zeros; the error stays with its granules, and the requester
hears of the first. -/
theorem State.readTier_uncorrectable (hs : Ok cmds s) (hlen : 0 < g.len) (a : Nat) :
    s.readTier tier g a .uncorrectable = (List.replicate g.len 0,
      ({ s with mem := s.mem.markBad tier (unitsOf (tierUnit tier) a g.len) true } : State).memUe g (a / tierUnit tier * tierUnit tier)) := by
  have hbad : ∀ x ∈ unitsOf (tierUnit tier) a g.len, (s.mem.markBad tier (unitsOf (tierUnit tier) a g.len) true).isBad tier x = true :=
    fun x hx => MemSys.isBad_markBad hs.mem hx
  have hzeros : (s.mem.markBad tier (unitsOf (tierUnit tier) a g.len) true).tierBytes tier a g.len = List.replicate g.len 0 := by
    refine List.eq_replicate_iff.2 ⟨by simp [MemSys.tierBytes], fun b hb => ?_⟩
    obtain ⟨o, ho, rfl⟩ := List.mem_map.1 hb
    exact if_pos (hbad _ (List.mem_eraseDups.2 (List.mem_map.2 ⟨o, ho, rfl⟩)))
  obtain ⟨us, hus⟩ := unitsOf_pos (u := tierUnit tier) a hlen
  have hfirst : (unitsOf (tierUnit tier) a g.len).find?
      ((s.mem.markBad tier (unitsOf (tierUnit tier) a g.len) true).isBad tier ·) = some (a / tierUnit tier) := by
    have hhead := hbad (a / tierUnit tier) (by rw [hus]; exact List.mem_cons_self)
    conv_lhs => rw [hus]
    exact List.find?_cons_of_pos (by rw [← hus]; exact hhead)
  simp only [State.readTier, if_true, hzeros, hfirst]

/-! ### The write (R225, R236) -/

/-- A write to granules without an error stores its bytes. -/
theorem MemSys.putTier_good {m : MemSys} {bs : List Byte} (hm : m.Canonical)
    (h : ∀ o < bs.length, m.isBad tier ((a + o) / tierUnit tier) = false) : m.putTier tier a bs = (m.storeTier tier a bs, none) := by
  have hgood : ∀ x ∈ unitsOf (tierUnit tier) a bs.length, m.isBad tier x = false := fun x hx => by
    obtain ⟨o, ho, rfl⟩ := mem_unitsOf hx
    exact h o ho
  have hnarrow : (narrowUnits tier a bs.length).filter (m.isBad tier) = [] :=
    List.filter_eq_nil_iff.2 fun x hx => by simp [hgood x (List.mem_of_mem_filter hx)]
  have hstored : ∀ x, (m.storeTier tier a bs).isBad tier x = m.isBad tier x := by cases tier <;> exact fun _ => rfl
  have hmark : (m.storeTier tier a bs).markBad tier
      ((unitsOf (tierUnit tier) a bs.length).filter (fun x => !(narrowUnits tier a bs.length).contains x)) false = m.storeTier tier a bs :=
    MemSys.markBad_false (MemSys.storeTier_canonical hm tier a bs) fun x hx => (hstored x).trans (hgood x (List.mem_of_mem_filter hx))
  have hcells : (fun f => SMap.setAll 0 f (bs.zipIdx.map (fun b => (a + b.2, b.1)))) = (SMap.store · a bs) :=
    funext fun f => SMap.setAll_zipIdx f a 0 bs
  simp only [MemSys.putTier, hnarrow, List.contains_nil, Bool.not_false, List.filter_true, hcells, List.head?_nil]
  exact congrArg (·, none) hmark

/-- A clean write to good granules of the far tier stores its bytes. -/
theorem State.writeGranule_ddr {bs : List Byte} (hs : Ok cmds s) (hdst : g.dst = .ddr d) (hgone : s.mem.ddrGone d = false)
    (h : ∀ o < bs.length, s.mem.isBad .ddr ((d + o) / 64) = false) :
    s.writeGranule g .clean bs = { s with mem := s.mem.storeTier .ddr d bs } := by
  have hput := MemSys.putTier_good (tier := .ddr) hs.mem h
  have hplace : s.placeGone (.ddr d) = false := hgone
  simp only [State.writeGranule, hdst, hplace, Bool.false_eq_true, if_false]
  unfold State.writeTier
  dsimp only
  rw [if_neg (by decide), hput]
  cases narrowUnits .ddr d bs.length <;> rfl

theorem State.writeGranule_spd (hdst : g.dst = .spd k d) (err : GranuleErr) (bs : List Byte) :
    s.writeGranule g err bs = s.modCore k (fun c => { c with fills := c.fills ++ [⟨g.owner.fill, d, bs⟩] }) := by
  simp only [State.writeGranule, hdst]

/-! ### Retirement (R221) -/

/-- Bytes without an error wait at the fill port of their scratchpad. -/
theorem exec_granuleRetire_toSpd (h : s.RetiresFrom i g a) (hdst : g.dst = .spd k d)
    (hgood : ∀ o < g.len, s.mem.isBad .hbm ((a + o) / 32) = false) (data : List Byte) :
    exec (.granuleRetire i .clean data) s = .next ((s.retired i).modCore k (fun c => { c with
      fills := c.fills ++ [⟨g.owner.fill, d, SMap.bytes s.mem.hbm a g.len⟩] })) := by
  refine (exec_granuleRetire_hbm h (by simp [hdst]) .clean data).trans (congrArg Host.Outcome.next ?_)
  rw [State.readTier_clean (s := s.retired i) hgood, State.writeGranule_spd hdst]
  rfl

/-- Bytes without an error go from the near tier to the far one. -/
theorem exec_granuleRetire_toDdr (hs : Ok cmds s) (h : s.RetiresFrom i g a) (hdst : g.dst = .ddr d) (hthere : s.mem.ddrGone d = false)
    (hgood : ∀ o < g.len, s.mem.isBad .hbm ((a + o) / 32) = false ∧ s.mem.isBad .ddr ((d + o) / 64) = false) (data : List Byte) :
    exec (.granuleRetire i .clean data) s = .next { s with mem := { s.mem with
      granules := s.mem.granules.eraseIdx i, ddr := SMap.store s.mem.ddr d (SMap.bytes s.mem.hbm a g.len) } } := by
  have hlen : (SMap.bytes s.mem.hbm a g.len).length = g.len := by simp [SMap.bytes]
  refine (exec_granuleRetire_hbm h (by simp [hdst]) .clean data).trans (congrArg Host.Outcome.next ?_)
  rw [State.readTier_clean (s := s.retired i) fun o ho => (hgood o ho).1]
  exact State.writeGranule_ddr (State.retired_ok hs i) hdst hthere fun o ho => (hgood o (hlen ▸ ho)).2

/-- An uncorrectable error: zeros wait at the fill port, the granules read stay bad, and the requester hears of it. -/
theorem exec_granuleRetire_uncorrectable (hs : Ok cmds s) (h : s.RetiresFrom i g a) (hdst : g.dst = .spd k d) (hlen : 0 < g.len)
    (data : List Byte) : exec (.granuleRetire i .uncorrectable data) s =
      .next ((({ s with mem := (s.retired i).mem.markBad .hbm (unitsOf 32 a g.len) true } : State).memUe g (a / 32 * 32)).modCore k
        (fun c => { c with fills := c.fills ++ [⟨g.owner.fill, d, List.replicate g.len 0⟩] })) := by
  refine (exec_granuleRetire_hbm h (by simp [hdst]) .uncorrectable data).trans (congrArg Host.Outcome.next ?_)
  rw [State.readTier_uncorrectable (State.retired_ok hs i) hlen, State.writeGranule_spd hdst]
  rfl

end Sys2Proof.Machine
end

section
/-!
QUEUE_ENTRY_FULL and QUEUE_ENTRY_FREE (R171, R219, R220): the oldest PEND entry of a tier queue leaves PEND once its bytes have retired.
-/
namespace Sys2Proof.Machine

variable {cmds : List Instr} {s : State} {n c p q k m i : Nat} {rest : List (Nat × Nat)}

/-- A tier queue with a PEND entry none of whose bytes is on its way is ready. -/
theorem State.entryReady_of_tier (ht : (s.qcfg k q).tier.isSome = true) (hp : 0 < (s.qst k q).pend) :
    s.entryReady n k q = !s.entryBusy n k q (s.oldestPend k q) := by
  have hsrc : (s.qcfg k q).src = 1 ∨ (s.qcfg k q).src = 2 := by
    unfold QCfg.tier at ht
    split_ifs at ht with h1 h2
    · exact .inl h1
    · exact .inr h2
    · exact absurd ht Bool.false_ne_true
  have hone : ((s.qcfg k q).src == 1 || (s.qcfg k q).src == 2) = true := by simpa using hsrc
  simp only [State.entryReady, hone, hp, decide_true, Bool.true_and]

theorem execQueueEntryFull_inbound (hpc : s.physCore n c = some p) (hstop : s.stopped n = false)
    (ho : (s.qcfg (34 * n + p) q).out = false) : exec (.queueEntryFull n c q) s =
      .next (if s.entryReady n (34 * n + p) q then s.qmove (34 * n + p) q 0 (-1) 1 0 0 0 else s) := by
  have harm : exec (.queueEntryFull n c q) s = execQueueEntryFull n c q s := rfl
  cases hr : s.entryReady n (34 * n + p) q <;> simp [harm, execQueueEntryFull, hpc, hstop, ho, hr, State.endEntry]

theorem execQueueEntryFree_outbound (hpc : s.physCore n c = some p) (hstop : s.stopped n = false)
    (ho : (s.qcfg (34 * n + p) q).out = true) (hr : s.entryReady n (34 * n + p) q = true) :
    exec (.queueEntryFree n c q) s = .next (s.freeEntry n (34 * n + p) q) := by
  have harm : exec (.queueEntryFree n c q) s = execQueueEntryFree n c q s := rfl
  simp [harm, execQueueEntryFree, hpc, hstop, ho, hr, State.endEntry]

/-- What a queue is does not depend on its entries' states. -/
theorem State.qcfg_qmove (hs : Ok cmds s) (k q : Nat) (f p l h : Int) (x o : Nat) : (s.qmove k q f p l h x o).qcfg k q = s.qcfg k q := by
  have hkeep : ∀ a, a ≠ qstat k q → a ≠ qptr k q → (s.qmove k q f p l h x o).csrAt a = s.csrAt a := fun a h1 h2 => by
    unfold State.qmove State.setQst
    rw [State.csrAt_setCsr (State.setCsr_ok hs).csr_, if_neg h2, State.csrAt_setCsr hs.csr_, if_neg h1]
  unfold State.qcfg
  rw [hkeep (qcfgA k q) (by simp only [qcfgA, qstat, coreReg]; omega) (by simp only [qcfgA, qptr, coreReg]; omega),
    hkeep (qcfgB k q) (by simp only [qcfgB, qstat, coreReg]; omega) (by simp only [qcfgB, qptr, coreReg]; omega)]

/-- Functions that agree on a core change it alike. -/
theorem State.modCore_congr {f g : Core → Core} (h : f (s.core k) = g (s.core k)) : s.modCore k f = s.modCore k g := by
  simp only [State.modCore, SMap.modify]
  rw [show f (SMap.get Core.reset s.cores k) = g (SMap.get Core.reset s.cores k) from h]

/-- The oldest request of the core is that of the queue, and entries of it are left. -/
theorem State.freeEntry_left (hreqs : (s.core k).reqs = (q, m) :: rest) (hm : 2 ≤ m) : s.freeEntry n k q =
    (s.qmove k q 1 (-1) 0 0 0 0).modCore k (fun x => { x with reqs := (q, m - 1) :: rest }) := by
  have hcore : ((s.qmove k q 1 (-1) 0 0 0 0).core k).reqs = (q, m) :: rest := hreqs
  have hfirst : ((q, m) :: rest).findIdx? (fun r => r.1 == q) = some 0 := by simp [List.findIdx?_cons]
  unfold State.freeEntry
  simp only [hcore, hfirst, List.drop_zero, List.headD_cons, if_pos (show 0 < m - 1 by omega)]
  exact State.modCore_congr (by rw [hcore]; rfl)

/-- With the last entry of a request the queue's counter is signalled. -/
theorem State.freeEntry_last (hs : Ok cmds s) (hreqs : (s.core k).reqs = (q, 1) :: rest) (hctr : (s.qcfg k q).ctr = some i) :
    s.freeEntry n k q = ((s.qmove k q 1 (-1) 0 0 0 0).modCore k (fun x => { x with reqs := rest })).signalNext n i 1 := by
  have hcore : ((s.qmove k q 1 (-1) 0 0 0 0).core k).reqs = (q, 1) :: rest := hreqs
  have hfirst : ((q, 1) :: rest).findIdx? (fun r => r.1 == q) = some 0 := by simp [List.findIdx?_cons]
  have hmod : (s.qmove k q 1 (-1) 0 0 0 0).modCore k (fun c => { c with reqs := c.reqs.eraseIdx 0 }) =
      (s.qmove k q 1 (-1) 0 0 0 0).modCore k (fun x => { x with reqs := rest }) := State.modCore_congr (by rw [hcore]; rfl)
  have hcfg : (((s.qmove k q 1 (-1) 0 0 0 0).modCore k (fun x => { x with reqs := rest })).qcfg k q).ctr = some i :=
    (congrArg QCfg.ctr (State.qcfg_qmove hs k q 1 (-1) 0 0 0 0)).trans hctr
  unfold State.freeEntry
  simp only [hcore, hfirst, List.drop_zero, List.headD_cons, Nat.sub_self, Nat.lt_irrefl, if_false, hmod, hcfg]

/-- A signal of a queue or of a DMA channel is owed for the next cycle, and nothing else changes (R171). -/
theorem State.signalNext_owes (hs : Ok cmds s) (n i m : Nat) :
    (s.signalNext n i m).owed n = s.owed n ++ [(s.cyc n + 1, .counterAdd i m)] ∧
      (∀ x, x ≠ n → (s.signalNext n i m).table x = s.table x) ∧
      { (s.signalNext n i m).table n with pend := (s.table n).pend } = s.table n ∧ { s.signalNext n i m with tables := s.tables } = s := by
  have htable : ∀ x, (s.signalNext n i m).table x = _ := fun x => State.table_modTable hs.tables_.1 n x _
  have hown := htable n
  rw [if_pos rfl] at hown
  refine ⟨?_, fun x hx => (htable x).trans (if_neg hx), by rw [hown], rfl⟩
  rw [State.owed, hown, List.map_append]
  rfl

/-- QUEUE_ENTRY_FREE of the last entry of a request. -/
theorem State.freeEntry_last_owes (hs : Ok cmds s) (hreqs : (s.core k).reqs = (q, 1) :: rest) (hctr : (s.qcfg k q).ctr = some i) :
    (s.freeEntry n k q).owed n = s.owed n ++ [(s.cyc n + 1, .counterAdd i 1)] ∧ (∀ x, x ≠ n → (s.freeEntry n k q).table x = s.table x) ∧
      { (s.freeEntry n k q).table n with pend := (s.table n).pend } = s.table n ∧
      { s.freeEntry n k q with tables := s.tables } = (s.qmove k q 1 (-1) 0 0 0 0).modCore k (fun x => { x with reqs := rest }) := by
  have hok : Ok cmds ((s.qmove k q 1 (-1) 0 0 0 0).modCore k (fun x => { x with reqs := rest })) :=
    State.modCore_ok (State.qmove_ok hs) fun _ hx => hx
  rw [State.freeEntry_last hs hreqs hctr]
  exact State.signalNext_owes hok n i 1

/-! ### The statement -/

/-- Settles O35: the shaper by `exec_shaperForward_table`; a granule's read and its write, one after the other, by
`exec_granuleRetire_hbm`; the fill by `exec_decoupledFill_whole`; queue entries by what `State.freeEntry` does with the core's oldest request. -/
theorem granulesAndEntries : Obligations.GranulesAndEntries := by
  unfold Obligations.GranulesAndEntries
  refine ⟨⟨fun s i a d k g hcan hg => ⟨?_, ?_⟩, ?_⟩, ?_⟩
  · intro n tier howner htier hfwd hhost hstop hfirst
    exact exec_shaperForward_table hcan.ok hg hhost hstop
      (State.findIdx?_waiting hg (by simp [shaperServes, howner, htier]) hfwd hfirst)
  · intro hfwd hord hfree data hsrc hgone
    have h : s.RetiresFrom i g a := ⟨hg, hfwd, hord, hfree, hsrc, hgone⟩
    refine ⟨fun hdst hgood => exec_granuleRetire_toSpd h hdst hgood data,
      fun hdst hthere hgood => exec_granuleRetire_toDdr hcan.ok h hdst hthere hgood data, fun n q e howner hdst hlen => ?_⟩
    rw [exec_granuleRetire_uncorrectable hcan.ok h hdst hlen, howner]
    rfl
  · intro s n c p f hcan hpc hk hstop hothers hfills hpos hroom haddr hbank hfree hclean hreq
    obtain ⟨u, t, hexec, hu, ht, hrest, hcores, hown⟩ := exec_decoupledFill_whole hcan.ok hpc hk hstop hothers
      ⟨hfills, hpos, hroom, haddr, hbank, hfree, hclean⟩ hreq
    refine ⟨u, t, hexec, hu, ht, hrest, hcores, ?_, by rw [hown]; rfl, fun a => ?_⟩
    · rw [hown, ← hfills]
      rfl
    · rw [hown]
      exact Core.get_filled (State.core_ok hcan.ok) f a
  · rintro s n c p q k hcan hpc rfl hstop htier hpend
    have hready := State.entryReady_of_tier (n := n) htier hpend
    refine ⟨fun ho hb => ?_, fun ho hb => ?_, fun ho hb m rest hreqs => ⟨fun hm => ?_, ?_⟩⟩
    · rw [execQueueEntryFull_inbound hpc hstop ho, hready, hb]
      rfl
    · rw [execQueueEntryFull_inbound hpc hstop ho, hready, hb]
      rfl
    · rw [execQueueEntryFree_outbound hpc hstop ho (by rw [hready, hb]; rfl), State.freeEntry_left hreqs hm]
    · rintro rfl i hctr
      exact ⟨_, execQueueEntryFree_outbound hpc hstop ho (by rw [hready, hb]; rfl), State.freeEntry_last_owes hcan.ok hreqs hctr⟩

end Sys2Proof.Machine
end

section
/-!
SIGNAL_APPLY and SYN_RESIDUE (R161, R163, R169, R175): what a signal does to a table counter, when the oldest signal of a channel is applied, and
what the counter-residue report of a job leaves behind.
-/
namespace Sys2Proof.SMap

/-- A change of every entry that keeps the default is seen at every key. -/
theorem get_mapAll {α : Type} [DecidableEq α] {d : α} {m : SMap α} (h : SMap.wf d m = true) {f : Nat → α → α} (hf : ∀ k, f k d = d) (j : Nat) :
    SMap.get d (SMap.mapAll d m f) j = f j (SMap.get d m j) := by
  induction m with
  | nil => exact (hf j).symm
  | cons x m ih =>
    obtain ⟨i, v⟩ := x
    obtain ⟨-, hlt, hm⟩ := wf_cons.1 h
    have hbelow (hj : j ≤ i) : SMap.get d (SMap.mapAll d m f) j = d := by
      rw [ih hm, get_of_lt d fun y hy => hj.trans_lt (hlt y hy), hf]
    have hstep : SMap.mapAll d ((i, v) :: m) f = if f i v = d then SMap.mapAll d m f else (i, f i v) :: SMap.mapAll d m f := by
      simp only [SMap.mapAll, List.map_cons, List.filter_cons]
      split_ifs <;> simp_all
    rw [hstep]
    obtain hj | rfl | hj := Nat.lt_trichotomy j i
    · have hget : SMap.get d ((i, v) :: m) j = d := by simp [SMap.get, hj.ne, hj]
      rw [hget, hf]
      split_ifs
      · exact hbelow hj.le
      · simp [SMap.get, hj.ne, hj]
    · have hget : SMap.get d ((j, v) :: m) j = v := by simp [SMap.get]
      rw [hget]
      split_ifs with hv
      · rw [hbelow le_rfl, hv]
      · simp [SMap.get]
    · have hget (w : α) (l : SMap α) : SMap.get d ((i, w) :: l) j = SMap.get d l j := by simp [SMap.get, hj.ne', hj.not_gt]
      rw [hget, ← ih hm]
      split_ifs
      · rfl
      · exact hget _ _

end Sys2Proof.SMap

namespace Sys2Proof.Machine

variable {cmds : List Instr} {s : State} {n m c a v j : Nat} {b : Job} {tag : BitVec 64} {rest : List (BitVec 64)}

/-! ### Signals to table counters (R161, R163) -/

theorem State.counter_setCounter (hs : Ok cmds s) (hv : v ≤ ctrMax) (i : Nat) :
    (s.setCounter n c v).counter n i = if i = c then v else s.counter n i := by
  have htable := State.table_modTable hs.tables_.1 n n (fun x => { x with ctr := SMap.set 0 x.ctr c (BitVec.ofNat 24 v) })
  rw [if_pos rfl] at htable
  have hwf : SMap.wf 0 (s.table n).ctr = true := (hs.tables_.2 n).ctr
  have hctr : ((s.setCounter n c v).table n).ctr = SMap.set 0 (s.table n).ctr c (BitVec.ofNat 24 v) := congrArg Table.ctr htable
  rw [State.counter, hctr, SMap.get_set hwf]
  split_ifs
  · exact Nat.mod_eq_of_lt (Nat.lt_succ_of_le hv)
  · rfl

theorem State.addCounter_of_le (h : s.counter n c + a ≤ ctrMax) : s.addCounter n c a = s.setCounter n c (s.counter n c + a) := if_pos h

theorem State.addCounter_of_gt (h : ctrMax < s.counter n c + a) :
    s.addCounter n c a = ((s.setCounter n c ctrMax).synFault n c false 1).faultTable n 0x1101 c := if_neg h.not_ge

/-- The first fault of a table counter is recorded as counter, cause and FAULT (R163, R167). -/
theorem State.synFault_first (h : (s.csrAt (synReg n 0x840)).getLsbD 31 = false) (hc : c < 256) {cause : Nat} (hcause : cause < 4) :
    s.synFault n c false cause = (s.setCsr (synReg n 0x840) (BitVec.ofNat 32 (c + 2 ^ 9 * cause + 2 ^ 31))).mark (synReg n 0x840) 0x80000000 := by
  have hsum : c + b2n false <<< 8 + cause <<< 9 = c + 2 ^ 9 * cause := by
    rw [Nat.shiftLeft_eq cause, Nat.mul_comm]
    rfl
  rw [State.synFault, State.recordFault, h, if_neg Bool.false_ne_true, hsum, ofNat_or_faultBit (by omega)]

/-- A signal that would pass the largest value leaves the counter there, records the fault and aborts the job (R163). -/
theorem State.addCounter_overflow (h : ctrMax < s.counter n c + a) (hfree : (s.csrAt (synReg n 0x840)).getLsbD 31 = false) (hc : c < 256) :
    s.addCounter n c a = (((s.setCounter n c ctrMax).setCsr (synReg n 0x840) (BitVec.ofNat 32 (c + 2 ^ 9 + 2 ^ 31))).mark
      (synReg n 0x840) 0x80000000).faultTable n 0x1101 c := by
  have hfree' : ((s.setCounter n c ctrMax).csrAt (synReg n 0x840)).getLsbD 31 = false := hfree
  rw [State.addCounter_of_gt h, State.synFault_first hfree' hc (by decide), Nat.mul_one]

/-! ### The oldest signal of a channel (R169) -/

theorem field_eq_toNat_extractLsb' {w hi lo len : Nat} (v : BitVec w) (h : hi + 1 - lo = len) : field v hi lo = (v.extractLsb' lo len).toNat := by
  rw [field, fieldN, h, BitVec.extractLsb'_toNat]

/-- A signal is ready once the next message to be received is not before it, in the order of 21-bit numbers. -/
theorem RcvChan.signalReady_iff (c : RcvChan) (tag : BitVec 64) :
    c.signalReady tag = true ↔ (c.seq - tag.extractLsb' 14 21).toNat < 2 ^ 20 := by
  rw [RcvChan.signalReady, field_eq_toNat_extractLsb' tag rfl, BitVec.ofNat_toNat, BitVec.setWidth_eq, decide_eq_true_iff, show 0x100000 = 2 ^ 20 from rfl]

theorem exec_signalApply_applied (hsig : (s.rcv n m).signals = tag :: rest) (hstop : s.stopped n = false)
    (hready : (s.rcv n m).signalReady tag = true ∨ ((s.rcv n m).xdev = true ∧ (s.table n).run = 3)) :
    exec (.signalApply n m) s = .next
      ((s.modRcv n m (fun c => { c with signals := rest })).addCounter n (tag.extractLsb' 35 8).toNat (tag.extractLsb' 43 8).toNat) := by
  have harm : exec (.signalApply n m) s = execSignalApply n m s := rfl
  simp only [harm, execSignalApply, hsig]
  rw [if_pos ⟨hready, by simp [hstop]⟩, field_eq_toNat_extractLsb' tag rfl, field_eq_toNat_extractLsb' tag rfl]

theorem exec_signalApply_waits (hsig : (s.rcv n m).signals = tag :: rest)
    (hready : ¬ ((s.rcv n m).signalReady tag = true ∨ ((s.rcv n m).xdev = true ∧ (s.table n).run = 3))) :
    exec (.signalApply n m) s = .next s := by
  have harm : exec (.signalApply n m) s = execSignalApply n m s := rfl
  simp only [harm, execSignalApply, hsig]
  rw [if_neg fun h => hready h.1]

/-! ### The numbers of entries in the tables' registers (R175) -/

/-- Registers written for each of a list, at addresses of their own, hold what was written for them. -/
theorem State.csrAt_setEach {adr : Nat → Nat} (hadr : adr.Injective) (val : Nat → Word) (ts : List Nat) (hs : Ok cmds s) (u : Nat) :
    (ts.foldl (fun acc t => acc.setCsr (adr t) (val t)) s).csrAt (adr u) = if u ∈ ts then val u else s.csrAt (adr u) := by
  induction ts generalizing s with
  | nil => rfl
  | cons t ts ih =>
    rw [List.foldl_cons, ih (State.setCsr_ok hs), State.csrAt_setCsr hs.csr_]
    by_cases hu : u ∈ ts
    · rw [if_pos hu, if_pos (List.mem_cons_of_mem t hu)]
    · by_cases ht : u = t
      · subst ht
        simp
      · rw [if_neg hu, if_neg fun h => ht (hadr h), if_neg fun h => (List.mem_cons.1 h).elim ht hu]

theorem synReg_injective (off : Nat) : Function.Injective (synReg · off) := fun t u h => by
  simp only [synReg, tblBase] at h
  omega

/-- The state with each table's number of residue entries in its register. -/
def State.countResidue (s : State) (b : Job) : State :=
  b.tables.foldl (fun acc t => acc.setCsr (synReg t 0x844) (BitVec.ofNat 32 (s.tableResidue t).length)) s

theorem State.countResidue_frame (s : State) (b : Job) : { s.countResidue b with csr := s.csr } = s :=
  foldl_keeps (P := fun u : State => { u with csr := s.csr } = s) rfl fun _ _ h => h

theorem State.countResidue_eq (s : State) (b : Job) : s.countResidue b = { s with csr := (s.countResidue b).csr } :=
  (congrArg (fun u : State => { u with csr := (s.countResidue b).csr }) (s.countResidue_frame b) :)

theorem State.countResidue_ok (hs : Ok cmds s) (b : Job) : Ok cmds (s.countResidue b) := ok_foldl hs fun _ _ h => State.setCsr_ok h

/-! ### The report (R175) -/

/-- All residue entries of job `j`, by job table, then the host counters. -/
def State.residueOf (s : State) (j : Nat) (b : Job) : List (BitVec 64) := b.tables.flatMap s.tableResidue ++ s.hostResidue j b

/-- A job whose report holds the entries `all`. -/
def Job.reported (all : List (BitVec 64)) (x : Job) : Job := { x with residue := all.take 16, rcount := all.length, residueTaken := true }

/-- The report of job `j` taken, before its event. -/
def State.reportResidue (s : State) (j : Nat) (b : Job) : State := (s.countResidue b).modJob j (Job.reported (s.residueOf j b))

/-- SYN_RESIDUE's event (R175). -/
def residueEvent (j k : Nat) : Ev := ⟨0x1103, clsContained, some j, none, none, k⟩

theorem State.takeResidue_eq (s : State) (j : Nat) (b : Job) :
    s.takeResidue j b = if (s.residueOf j b).isEmpty then s.reportResidue j b
      else (s.reportResidue j b).raise (residueEvent j (s.residueOf j b).length) := rfl

/-- The report changes registers, the job and the log. -/
theorem State.takeResidue_frame (s : State) (j : Nat) (b : Job) :
    { s.takeResidue j b with csr := s.csr, jobs := s.jobs, log := s.log } = s := by
  have hcounts := congrArg (fun u : State => { u with jobs := s.jobs, log := s.log }) (s.countResidue_frame b)
  rw [State.takeResidue_eq]
  split <;> exact hcounts

@[simp] theorem State.table_takeResidue (s : State) (j : Nat) (b : Job) (u : Nat) : (s.takeResidue j b).table u = s.table u :=
  congrArg (SMap.get Table.reset · u) (congrArg State.tables (s.takeResidue_frame j b) :)

@[simp] theorem State.snd_takeResidue (s : State) (j : Nat) (b : Job) (u i : Nat) : (s.takeResidue j b).snd u i = s.snd u i := by
  rw [State.snd, State.table_takeResidue, State.snd]

theorem State.takeResidue_jobs (s : State) (j : Nat) (b : Job) : (s.takeResidue j b).jobs = (s.reportResidue j b).jobs := by
  rw [State.takeResidue_eq]
  split <;> rfl

theorem State.takeResidue_csr (s : State) (j : Nat) (b : Job) : (s.takeResidue j b).csr = (s.countResidue b).csr := by
  rw [State.takeResidue_eq]
  split <;> rfl

theorem State.job_takeResidue (hs : Ok cmds s) (hb : s.job j = some b) :
    (s.takeResidue j b).job j = some (b.reported (s.residueOf j b)) := by
  rw [State.job, State.takeResidue_jobs]
  refine (State.job_modJob (State.countResidue_ok hs b).jobs_ j j _).trans ?_
  rw [if_pos rfl, State.countResidue_eq]
  exact congrArg (Option.map _) hb

theorem State.csrAt_takeResidue (hs : Ok cmds s) {u : Nat} (hu : u ∈ b.tables) :
    (s.takeResidue j b).csrAt (synReg u 0x844) = BitVec.ofNat 32 (s.tableResidue u).length := by
  rw [State.csrAt, State.takeResidue_csr]
  exact (State.csrAt_setEach (synReg_injective 0x844) _ b.tables hs u).trans (if_pos hu)

theorem State.takeResidue_log_of_nil (h : s.residueOf j b = []) : (s.takeResidue j b).log = s.log := by
  rw [State.takeResidue_eq, if_pos (by simp [h]), State.reportResidue, State.countResidue_eq]
  rfl

theorem State.takeResidue_log_of_ne_nil (h : s.residueOf j b ≠ []) :
    (s.takeResidue j b).log = s.log.raise s.now11 (s.evRecord (residueEvent j (s.residueOf j b).length)) := by
  rw [State.takeResidue_eq, if_neg (by simpa using h), State.reportResidue, State.countResidue_eq]
  rfl

/-! ### Sending ends closed with the report (R194, assumption 54) -/

/-- A channel with OPEN clear. -/
def SndChan.shut (c : SndChan) : SndChan := { c with cfg := c.cfg &&& 0xFEFFFFFF }

theorem SndChan.shut_shut (c : SndChan) : c.shut.shut = c.shut := by
  simp only [SndChan.shut, BitVec.and_assoc, BitVec.and_self]

/-- A table with every send channel's OPEN clear. -/
def Table.shut (x : Table) : Table := { x with snd := SMap.mapAll SndChan.reset x.snd (fun _ c => c.shut) }

theorem Table.shut_ok {x : Table} (h : TableOk x) : TableOk x.shut := { h with snd_ := SMap.wf_mapAll (fun _ (c : SndChan) => c.shut) h.snd_ }

/-- The tables `ts` shut. -/
def State.shutAll (s : State) (ts : List Nat) : State := ts.foldl (fun acc t => acc.modTable t Table.shut) s

theorem State.shutSends_eq (s : State) (b : Job) : s.shutSends b = s.shutAll b.tables := rfl

theorem State.shutAll_frame (s : State) (ts : List Nat) : { s.shutAll ts with tables := s.tables } = s :=
  foldl_keeps (P := fun u : State => { u with tables := s.tables } = s) rfl fun _ _ h => h

@[simp] theorem State.shutAll_csr (s : State) (ts : List Nat) : (s.shutAll ts).csr = s.csr := (congrArg State.csr (s.shutAll_frame ts) :)

@[simp] theorem State.shutAll_jobs (s : State) (ts : List Nat) : (s.shutAll ts).jobs = s.jobs := (congrArg State.jobs (s.shutAll_frame ts) :)

@[simp] theorem State.shutAll_log (s : State) (ts : List Nat) : (s.shutAll ts).log = s.log := (congrArg State.log (s.shutAll_frame ts) :)

theorem State.modTable_shut_ok (hs : Ok cmds s) (t : Nat) : Ok cmds (s.modTable t Table.shut) := State.modTable_ok hs fun _ h => Table.shut_ok h

/-- Of the tables only send channels change. -/
theorem State.table_shutAll (hs : Ok cmds s) (ts : List Nat) (u : Nat) :
    { (s.shutAll ts).table u with snd := (s.table u).snd } = s.table u := by
  refine (foldl_keeps (P := fun v => Ok cmds v ∧ { v.table u with snd := (s.table u).snd } = s.table u) ⟨hs, rfl⟩ ?_).2
  rintro v t ⟨hv, heq⟩
  refine ⟨State.modTable_shut_ok hv t, ?_⟩
  rw [State.table_modTable hv.tables_.1]
  split
  · next e => subst e; exact heq
  · exact heq

theorem State.snd_modTable_shut (hs : Ok cmds s) (t u i : Nat) :
    (s.modTable t Table.shut).snd u i = if u = t then (s.snd u i).shut else s.snd u i := by
  rw [State.snd, State.table_modTable hs.tables_.1]
  split
  · next e =>
    subst e
    exact SMap.get_mapAll (hs.tables_.2 u).snd (f := fun _ c => c.shut) (fun _ => rfl) i
  · rfl

theorem State.snd_shutAll (hs : Ok cmds s) (ts : List Nat) (u i : Nat) :
    (s.shutAll ts).snd u i = if u ∈ ts then (s.snd u i).shut else s.snd u i := by
  induction ts generalizing s with
  | nil => rfl
  | cons t ts ih =>
    refine (ih (State.modTable_shut_ok hs t)).trans ?_
    rw [State.snd_modTable_shut hs]
    by_cases hu : u = t
    · subst hu
      simp [SndChan.shut_shut]
    · simp [hu]

/-! ### The command -/

theorem exec_synResidue_due (hb : s.job j = some b) (hst : b.state = .running ∨ b.state = .pausing) (htrap : b.trapped = false)
    (htaken : b.residueTaken = false) (hended : ∀ u ∈ b.tables, (s.table u).run = 3) (hfly : s.signalInFlight j b = false) :
    exec (.synResidue j) s = .next ((s.takeResidue j b).shutAll b.tables) := by
  have harm : exec (.synResidue j) s = execSynResidue j s := rfl
  simp only [harm, execSynResidue, hb]
  rw [if_pos ⟨hst, by simp [htrap], by simp [htaken], by simpa using hended, by simp [hfly]⟩, State.shutSends_eq]

/-! ### The statement -/

/-- Settles O32: a signal's conditions by `RcvChan.signalReady_iff`; the report by what `State.takeResidue` does to the registers, the job and the
log, and `State.shutAll` to the send channels after it; a counter by `State.addCounter_of_le` and `State.addCounter_overflow`. -/
theorem countersAndResidue : Obligations.CountersAndResidue := by
  unfold Obligations.CountersAndResidue
  refine ⟨fun s n m tag rest hcan => ⟨fun hsig hstop => ⟨fun hready => ?_, fun hlate hheld => ?_⟩, ?_⟩, fun s n c a hcan => ⟨fun hle => ?_, ?_⟩⟩
  · rw [← RcvChan.signalReady_iff] at hready
    exact exec_signalApply_applied hsig hstop hready
  · rw [← Nat.not_lt, ← RcvChan.signalReady_iff] at hlate
    refine exec_signalApply_waits hsig (not_or.2 ⟨hlate, fun ⟨hx, hrun⟩ => ?_⟩)
    exact hheld.elim (fun h => Bool.false_ne_true (h.symm.trans hx)) fun h => h hrun
  · rintro j b all hb hst htrap htaken hended hfly rfl
    have hok : Ok s.pending (s.takeResidue j b) := State.takeResidue_ok hcan.ok
    refine ⟨_, exec_synResidue_due hb hst htrap htaken hended hfly, ?_, fun u => ⟨?_, fun i => ?_⟩, ?_, fun u hu => ?_, fun hnil => ?_, fun hne => ?_⟩
    · have hshut := congrArg (fun v : State => { v with csr := s.csr, jobs := s.jobs, log := s.log, tables := s.tables })
        ((s.takeResidue j b).shutAll_frame b.tables)
      have htake := congrArg (fun v : State => { v with tables := s.tables }) (s.takeResidue_frame j b)
      exact hshut.trans htake
    · rw [← State.table_takeResidue s j b u]
      exact State.table_shutAll hok b.tables u
    · rw [State.snd_shutAll hok, State.snd_takeResidue]
      rfl
    · rw [State.job, State.shutAll_jobs]
      exact State.job_takeResidue hcan.ok hb
    · rw [State.csrAt, State.shutAll_csr]
      exact State.csrAt_takeResidue hcan.ok hu
    · rw [State.shutAll_log, State.takeResidue_log_of_nil hnil]
    · rw [State.shutAll_log, State.takeResidue_log_of_ne_nil hne]
      rfl
  · rw [State.addCounter_of_le hle]
    exact ⟨rfl, State.counter_setCounter hcan.ok hle⟩
  · exact fun hgt hfree hc => State.addCounter_overflow hgt hfree hc

end Sys2Proof.Machine
end

section
/-!
Flits (R183, R187, R191, R199, R206, R207): what a departure, an arrival and a landing change, and the statement.
-/
namespace Sys2Proof.Machine

variable {cmds : List Instr} {s t u : State} {r o i m n : Nat} {q : Bool × Nat × Nat} {f : Flit}

/-! ### Stops for full buffers (R191, R315) -/

/-- Two states alike but for the clock regions, the registers held by address and their marks: a stop asked for, withdrawn or counted. -/
def State.AlikeButStops (s t : State) : Prop := { t with regions := s.regions, csr := s.csr, marks := s.marks } = s

theorem State.AlikeButStops.refl (s : State) : s.AlikeButStops s := rfl

theorem State.AlikeButStops.trans (h : s.AlikeButStops t) (g : t.AlikeButStops u) : s.AlikeButStops u :=
  (congrArg (fun x : State => { x with regions := s.regions, csr := s.csr, marks := s.marks }) g :).trans h

theorem State.AlikeButStops.noc (h : s.AlikeButStops t) : t.noc = s.noc := (congrArg State.noc h :)

theorem State.AlikeButStops.tables (h : s.AlikeButStops t) : t.tables = s.tables := (congrArg State.tables h :)

theorem State.AlikeButStops.cores (h : s.AlikeButStops t) : t.cores = s.cores := (congrArg State.cores h :)

theorem State.AlikeButStops.mem (h : s.AlikeButStops t) : t.mem = s.mem := (congrArg State.mem h :)

theorem State.mark_frame (s : State) (a v : Nat) : { s.mark a v with marks := s.marks } = s := by
  unfold State.mark
  split
  · rfl
  · rfl

theorem State.countUp_frame (s : State) (a n : Nat) : { s.countUp a n with csr := s.csr, marks := s.marks } = s :=
  (congrArg (fun x : State => { x with csr := s.csr }) ((s.modCsr a (fun v => satAdd v n)).mark_frame a (s.marked a + n)) :)

theorem State.modRegion_alike (s : State) (r : Nat) (f : Region → Region) : s.AlikeButStops (s.modRegion r f) := rfl

theorem State.countUp_alike (s : State) (a n : Nat) : s.AlikeButStops (s.countUp a n) :=
  (congrArg (fun x : State => { x with regions := s.regions }) (s.countUp_frame a n) :)

theorem State.setCause_alike (s : State) (r c : Nat) : s.AlikeButStops (s.setCause r c) := by
  have hsync : s.AlikeButStops (s.syncRegion r) := by
    dsimp only [State.syncRegion]
    split
    · exact .refl s
    · exact s.modRegion_alike r _
  unfold State.setCause
  dsimp only
  split
  · exact .refl s
  · refine .trans ?_ (State.modRegion_alike _ _ _)
    split
    · exact .refl s
    · exact hsync.trans (State.modRegion_alike _ _ _)

theorem State.clearCause_alike (s : State) (r c : Nat) : s.AlikeButStops (s.clearCause r c) := s.modRegion_alike r _

theorem State.countStop_alike (s : State) (d : Nat) : s.AlikeButStops (s.countStop d) := by
  unfold State.countStop
  split
  · exact .refl s
  · split
    · exact (s.countUp_alike _ _).trans (State.modRegion_alike _ _ _)
    · exact .refl s

theorem State.checkFull_alike (s : State) (d : Nat) : s.AlikeButStops (s.checkFull d) := by
  unfold State.checkFull
  dsimp only
  split
  · exact ((s.setCause_alike _ _).trans (State.modRegion_alike _ _ _)).trans (State.countStop_alike _ _)
  · split
    · exact (s.clearCause_alike _ _).trans (State.modRegion_alike _ _ _)
    · exact .refl s

theorem State.checkFeeder_alike (s : State) (r i : Nat) : s.AlikeButStops (s.checkFeeder r i) := by
  unfold State.checkFeeder
  split
  · split
    · exact s.checkFull_alike _
    · exact .refl s
  · exact .refl s

/-- `u` with the network and what stops change as in `s`. -/
def State.nocAs (u s : State) : State := { u with noc := s.noc, regions := s.regions, csr := s.csr, marks := s.marks }

theorem State.AlikeButStops.nocAs (h : t.AlikeButStops u) (s : State) : u.nocAs s = t.nocAs s := (congrArg (State.nocAs · s) h :)

/-! ### Arrivals (R183, R191) -/

/-- The first flit of a link that has come all the way, behind those still on their way. -/
theorem State.takeArrived_append (post : List Flit) (hf : f.dueNet ≤ s.net f.dueReg) {pre : List Flit}
    (hpre : ∀ g ∈ pre, s.net g.dueReg < g.dueNet) : s.takeArrived (pre ++ f :: post) = some (f, pre ++ post) := by
  induction pre with
  | nil => exact if_pos hf
  | cons g pre ih =>
    have hg : ¬ g.dueNet ≤ s.net g.dueReg := Nat.not_le.2 (hpre g List.mem_cons_self)
    rw [List.cons_append, State.takeArrived, if_neg hg, ih fun x hx => hpre x (List.mem_cons_of_mem g hx)]
    rfl

theorem exec_flitArrive_joins {pre post : List Flit} (hr : r < 64) (hi : i < 5)
    (hmay : isCrossing r i = true ∨ s.stopped (dieRegion r) = false) (hlink : SMap.get [] s.noc.links (8 * r + i) = pre ++ f :: post)
    (hf : f.dueNet ≤ s.net f.dueReg) (hpre : ∀ g ∈ pre, s.net g.dueReg < g.dueNet) :
    ∃ t, exec (.flitArrive r i) s = .next t ∧ { t with noc := s.noc, regions := s.regions, csr := s.csr, marks := s.marks } = s ∧
      t.noc = { s.noc with
        links := SMap.set [] s.noc.links (8 * r + i) (pre ++ post)
        queues := SMap.modify [] s.noc.queues (queueKey r i (State.flitOut r f)) (· ++ [f]) } := by
  have hopen : ¬ (64 ≤ r ∨ 7 ≤ i ∨ (i < 6 ∧ ¬ isCrossing r i = true ∧ s.stopped (dieRegion r) = true)) := by
    rintro (h | h | ⟨-, hc, hs⟩)
    · omega
    · omega
    · exact hmay.elim hc fun hrun => Bool.false_ne_true (hrun.symm.trans hs)
  have hI : ¬ (i = portI ∧ 6160 ≤ s.inputUse r portI - ((pre ++ post).length + 1)) := fun h => by
    have : i = 5 := h.1
    omega
  have h6 : ¬ i = 6 := by omega
  have htake : s.takeArrived (SMap.get [] s.noc.links (linkKey r i)) = some (f, pre ++ post) := by
    rw [linkKey, hlink, State.takeArrived_append post hf hpre]
  have hcheck := State.checkFeeder_alike { s with noc := { s.noc with
    links := SMap.set [] s.noc.links (8 * r + i) (pre ++ post)
    queues := SMap.modify [] s.noc.queues (queueKey r i (State.flitOut r f)) (· ++ [f]) } } r i
  refine ⟨_, ?_, hcheck.nocAs s, hcheck.noc⟩
  change execFlitArrive r i s = _
  unfold execFlitArrive
  rw [if_neg hopen, htake]
  dsimp only
  rw [if_neg hI, if_neg h6]
  rfl

/-! ### Departures (R187, R191) -/

/-- A flit taken out of the queue `q` for output `o` of router `r`, which sends in network cycle `n`. -/
def State.takeOut (s : State) (r o n : Nat) (q : Bool × Nat × Nat) : State :=
  { s.popFlit q with noc := { (s.popFlit q).noc with sent := SMap.set 0 (s.popFlit q).noc.sent (8 * r + o) (n + 1) } }

theorem State.takeOut_eq (s : State) (r o n : Nat) (q : Bool × Nat × Nat) :
    s.takeOut r o n q = { s with noc := { (s.popFlit q).noc with sent := SMap.set 0 s.noc.sent (8 * r + o) (n + 1) } } := by
  unfold State.takeOut State.popFlit
  split
  · rfl
  · rfl

theorem State.freeSendBuf_frame (s : State) (r : Nat) (f : Flit) : { s.freeSendBuf r f with cores := s.cores } = s := by
  unfold State.freeSendBuf
  dsimp only
  split
  · rfl
  · split
    · rfl
    · rfl

theorem State.core_freeSendBuf (hs : SMap.wf Core.reset s.cores = true) (r : Nat) (f : Flit) (k : Nat) :
    { (s.freeSendBuf r f).core k with sendBuf := (s.core k).sendBuf } = s.core k := by
  unfold State.freeSendBuf
  dsimp only
  split
  · rfl
  · split
    · rfl
    · rw [State.core_modCore hs]
      split
      · next e => rw [e]
      · rfl

/-- From `s` to `u` a flit has left queue `q` by output `o` of router `r` in network cycle `n`: nothing else of the network has changed, and
beside it only a count and the room of a send buffer. -/
structure State.Departing (s u : State) (r o n : Nat) (q : Bool × Nat × Nat) : Prop where
  rest  : { u with noc := s.noc, csr := s.csr, marks := s.marks, cores := s.cores } = s
  noc   : u.noc = { (s.popFlit q).noc with sent := SMap.set 0 s.noc.sent (8 * r + o) (n + 1) }
  cores : ∀ k, { u.core k with sendBuf := (s.core k).sendBuf } = s.core k

/-- The state once flit `f` has left queue `q`: counted if it is late, and no more in its core's send buffer. -/
def State.leave (s : State) (r o n : Nat) (q : Bool × Nat × Nat) (f : Flit) : State :=
  let u := if isCrossing r q.2.2 && n % s.slots != f.slot then (s.takeOut r o n q).countUp (nocBase (r / 8) + 0x10) 1 else s.takeOut r o n q
  if q.1 then u.freeSendBuf r f else u

theorem State.leave_departing (hs : Ok cmds s) (r o n : Nat) (q : Bool × Nat × Nat) (f : Flit) : s.Departing (s.leave r o n q f) r o n q := by
  unfold State.leave
  dsimp only
  generalize hu : (if (isCrossing r q.2.2 && n % s.slots != f.slot) = true then (s.takeOut r o n q).countUp (nocBase (r / 8) + 0x10) 1
    else s.takeOut r o n q) = u
  have htaken : { u with csr := s.csr, marks := s.marks } = s.takeOut r o n q := by
    rw [← hu, State.takeOut_eq]
    split
    · exact State.countUp_frame _ _ _
    · rfl
  rw [State.takeOut_eq] at htaken
  have hrest : { u with noc := s.noc, csr := s.csr, marks := s.marks } = s := (congrArg (fun x : State => { x with noc := s.noc }) htaken :)
  have hnoc := (congrArg State.noc htaken :)
  have hcores : u.cores = s.cores := (congrArg State.cores htaken :)
  have hcore : ∀ k, u.core k = s.core k := fun k => congrArg (SMap.get Core.reset · k) hcores
  split
  · have hfree := u.freeSendBuf_frame r f
    refine ⟨?_, (congrArg State.noc hfree :).trans hnoc, fun k => ?_⟩
    · exact (congrArg (fun x : State => { x with noc := s.noc, csr := s.csr, marks := s.marks, cores := s.cores }) hfree :).trans
        (congrArg (fun x : State => { x with cores := s.cores }) hrest :)
    · rw [← hcore]
      exact State.core_freeSendBuf (hcores ▸ hs.cores_.1) r f k
  · exact ⟨(congrArg (fun x : State => { x with cores := s.cores }) hrest :), hnoc, fun k => by rw [hcore]⟩

/-- A departure: the flit is out of its queue, and goes on unless containment drops it. -/
theorem exec_flitDepart_departs (hr : r < 64) (ho : o < 6) (hrun : s.stopped (dieRegion r) = false)
    (hdep : s.departure r o = some (n, q, f)) (hfull : (s.outputFull r o (some f)).1 = false) (hgran : o = portL → f.gran = none) :
    exec (.flitDepart r o) s = .next (((if (s.leave r o n q f).dropsAt r o then s.leave r o n q f
      else (s.leave r o n q f).forward r o n (if q.1 then n % s.slots else f.slot) f).checkFeeder r q.2.2).checkFull (r / 8)) := by
  have hopen : ¬ (64 ≤ r ∨ 6 ≤ o ∨ s.stopped (dieRegion r) = true) := by
    rw [hrun]
    simp only [Bool.false_eq_true, or_false]
    omega
  have hheld : ¬ (o = portL ∧ f.gran.isSome = true ∧ s.stopped r = true) := fun ⟨hL, hsome, _⟩ => by
    rw [hgran hL] at hsome
    exact Bool.false_ne_true hsome
  have hroom : ¬ (s.outputFull r o (some f)).1 = true := by rw [hfull]; exact Bool.false_ne_true
  change execFlitDepart r o s = _
  unfold execFlitDepart
  rw [if_neg hopen, hdep]
  dsimp only
  rw [if_neg hroom, if_neg hheld]
  rfl

theorem State.Departing.recs (h : s.Departing u r o n q) : u.recs = s.recs := (congrArg State.recs h.rest :)

theorem State.Departing.tables (h : s.Departing u r o n q) : u.tables = s.tables := (congrArg State.tables h.rest :)

/-- Flit `f` on the link out of router `r` by output `o`, which it leaves in network cycle `n` and had `planned` as its slot. -/
def State.onLink (s : State) (r o n planned : Nat) (f : Flit) : Flit :=
  { f with slot := (planned + hopLat r o) % s.slots, dueReg := dieRegion r, dueNet := n + hopLat r o }

theorem State.forward_neighbour {planned : Nat} (ho : o < 4) (hnb : neighbour r o = some (m, i)) (n : Nat) (f : Flit) :
    s.forward r o n planned f = s.putLink m i (s.onLink r o n planned f) := by
  have hL : o ≠ portL := by simp only [portL]; omega
  have hI : o ≠ portI := by simp only [portI]; omega
  unfold State.forward
  rw [if_neg hL, if_neg hI, hnb]
  rfl

/-- Containment drops flits at L outputs alone. -/
theorem State.dropsAt_neighbour (ho : o < 4) (s : State) (r : Nat) : s.dropsAt r o = false := by
  have hL : (o == portL) = false := by simp only [portL, beq_eq_false_iff_ne]; omega
  rw [State.dropsAt, hL, Bool.false_and]

/-- A flit that leaves for a neighbour goes on the link to it. -/
theorem exec_flitDepart_link (hs : Ok cmds s) (hr : r < 64) (ho : o < 4) (hrun : s.stopped (dieRegion r) = false)
    (hnb : neighbour r o = some (m, i)) (hdep : s.departure r o = some (n, q, f)) (hfull : (s.outputFull r o (some f)).1 = false) :
    ∃ t, exec (.flitDepart r o) s = .next t ∧
      { t with noc := s.noc, regions := s.regions, csr := s.csr, marks := s.marks, cores := s.cores } = s ∧
      t.noc = { (s.popFlit q).noc with
        sent := SMap.set 0 s.noc.sent (8 * r + o) (n + 1)
        links := SMap.modify [] s.noc.links (8 * m + i) (· ++ [s.onLink r o n (if q.1 then n % s.slots else f.slot) f]) } ∧
      ∀ k, { t.core k with sendBuf := (s.core k).sendBuf } = s.core k := by
  have h := State.leave_departing hs r o n q f
  have hexec := exec_flitDepart_departs hr (by omega) hrun hdep hfull (fun hL => absurd hL (by simp only [portL]; omega))
  generalize s.leave r o n q f = u at h hexec
  have hgo : ∀ p, u.onLink r o n p f = s.onLink r o n p f := fun p => by simp only [State.onLink, State.slots, h.recs]
  have hlinks : u.noc.links = s.noc.links := by
    rw [h.noc]
    unfold State.popFlit
    split
    · rfl
    · rfl
  rw [State.dropsAt_neighbour ho, if_neg Bool.false_ne_true, State.forward_neighbour ho hnb, hgo] at hexec
  generalize s.onLink r o n _ f = g at hexec ⊢
  have hcheck := ((u.putLink m i g).checkFeeder_alike r q.2.2).trans (State.checkFull_alike _ (r / 8))
  refine ⟨_, hexec, ?_, ?_, fun k => ?_⟩
  · exact (congrArg (fun x : State => { x with cores := s.cores }) (hcheck.nocAs s) :).trans
      (congrArg (fun x : State => { x with regions := s.regions }) h.rest :)
  · rw [hcheck.noc, State.putLink, hlinks, h.noc]
    rfl
  · exact (congrArg (fun x : SMap Core => ({ SMap.get Core.reset x k with sendBuf := (s.core k).sendBuf } : Core)) hcheck.cores :).trans
      (h.cores k)

/-! ### What the L output hands to its table (R199, R206, R207) -/

/-- From `s` to `u` no more has changed than table `k`, cores and memories. -/
structure State.OnlyTable (s u : State) (k : Nat) : Prop where
  wf     : SMap.wf Table.reset u.tables = true
  rest   : { u with cores := s.cores, tables := s.tables, mem := s.mem } = s
  others : ∀ j, j ≠ k → u.table j = s.table j

theorem State.OnlyTable.refl (hs : SMap.wf Table.reset s.tables = true) (k : Nat) : s.OnlyTable s k := ⟨hs, rfl, fun _ _ => rfl⟩

theorem State.OnlyTable.modTable {k : Nat} (h : s.OnlyTable u k) (g : Table → Table) : s.OnlyTable (u.modTable k g) k :=
  ⟨SMap.wf_modify _ _ h.wf, h.rest, fun j hj => by rw [State.table_modTable h.wf, if_neg hj, h.others j hj]⟩

theorem State.OnlyTable.modCore {k : Nat} (h : s.OnlyTable u k) (c : Nat) (g : Core → Core) : s.OnlyTable (u.modCore c g) k :=
  ⟨h.wf, h.rest, h.others⟩

theorem State.OnlyTable.setMem {k : Nat} (h : s.OnlyTable u k) (mem : MemSys) : s.OnlyTable { u with mem := mem } k :=
  ⟨h.wf, h.rest, h.others⟩

theorem State.OnlyTable.placeRecord {k : Nat} (h : s.OnlyTable u k) (c : Nat) (p : Part) : s.OnlyTable (u.placeRecord k c p) k := by
  unfold State.placeRecord
  dsimp only
  split
  · exact h.modTable _
  · exact (h.modTable _).modCore _ _

theorem State.OnlyTable.completePart {k : Nat} (h : s.OnlyTable u k) (f : Flit) : s.OnlyTable (u.completePart k f) k := by
  unfold State.completePart
  dsimp only
  split
  · exact ((h.modTable _).setMem _).modTable _
  · exact (h.modTable _).placeRecord _ _

theorem State.land_signal (hg : f.gran = none) (hk : f.kind = 1) (t : Nat) :
    s.land t f = s.modRcv t f.rchn (fun c => { c with signals := c.signals ++ [f.tag] }) := by
  simp only [State.land, hg, hk]

theorem State.land_credit (hg : f.gran = none) (hk : f.kind = 2) (t : Nat) : s.land t f = s.applyCredit t f.rchn f := by
  simp only [State.land, hg, hk]

theorem State.land_part (hg : f.gran = none) (h1 : f.kind ≠ 1) (h2 : f.kind ≠ 2) (t : Nat) :
    s.land t f = if field f.tag 61 58 = field f.tag 57 54
      then (s.modTable t (fun b => { b with landing := b.landing ++ [f] })).completePart t f
      else s.modTable t (fun b => { b with landing := b.landing ++ [f] }) := by
  unfold State.land
  rw [hg]
  dsimp only
  split
  · exact absurd ‹f.kind = 1› h1
  · exact absurd ‹f.kind = 2› h2
  · rfl

theorem State.OnlyTable.land {k : Nat} (h : s.OnlyTable u k) (hg : f.gran = none) : s.OnlyTable (u.land k f) k := by
  by_cases h1 : f.kind = 1
  · rw [State.land_signal hg h1]
    exact h.modTable _
  · by_cases h2 : f.kind = 2
    · rw [State.land_credit hg h2]
      exact h.modTable _
    · rw [State.land_part hg h1 h2]
      split
      · exact (h.modTable _).completePart f
      · exact h.modTable _

/-- A flit that leaves by the L output of a table in service lands there. -/
theorem exec_flitDepart_lands (hs : Ok cmds s) (hr : r < 64) (hrun : s.stopped (dieRegion r) = false)
    (hdep : s.departure r portL = some (n, q, f)) (hfull : (s.outputFull r portL (some f)).1 = false) (hserv : s.outOfService r = false)
    (hcalm : s.hasCause r causeFault = false) (hgran : f.gran = none) :
    ∃ t u, exec (.flitDepart r portL) s = .next t ∧ s.Departing u r portL n q ∧ (u.land r f).AlikeButStops t := by
  have h := State.leave_departing hs r portL n q f
  have hexec := exec_flitDepart_departs hr (by decide) hrun hdep hfull (fun _ => hgran)
  generalize s.leave r portL n q f = u at h hexec
  have hkeep : u.dropsAt r portL = false := by
    have hfuses : u.fuses = s.fuses := (congrArg State.fuses h.rest :)
    have hregions : u.regions = s.regions := (congrArg State.regions h.rest :)
    have hserv' : u.outOfService r = s.outOfService r := by
      simp only [State.outOfService, State.tblStat, State.logTable, State.physTable, hfuses]
    have hcause : u.hasCause r causeFault = s.hasCause r causeFault := by simp only [State.hasCause, State.region, hregions]
    rw [State.dropsAt, hserv', hcause, hserv, hcalm, Bool.or_false, Bool.and_false]
  have hland : ∀ p, u.forward r portL n p f = u.land r f := fun p => by
    unfold State.forward
    exact if_pos rfl
  rw [hkeep, if_neg Bool.false_ne_true, hland] at hexec
  exact ⟨_, u, hexec, h, ((u.land r f).checkFeeder_alike r q.2.2).trans (State.checkFull_alike _ (r / 8))⟩

theorem State.Departing.table (h : s.Departing u r o n q) (k : Nat) : u.table k = s.table k :=
  congrArg (SMap.get Table.reset · k) h.tables

/-- What a sender knows of its receiver's rings rests on the tables and the fused maps alone. -/
theorem State.Departing.ringSize (h : s.Departing u r o n q) (c : SndChan) : u.ringSize c = s.ringSize c := by
  have hfuses : u.fuses = s.fuses := (congrArg State.fuses h.rest :)
  simp only [State.ringSize, State.rcv, State.physTable, h.table, hfuses]

/-! ### The statement -/

/-- A part's flit is its last where its number, counted from 0, is the number of flits less one (R198). -/
theorem field_tag_eq_iff (tag : BitVec 64) : field tag 61 58 = field tag 57 54 ↔ tag.extractLsb' 58 4 = tag.extractLsb' 54 4 := by
  rw [← BitVec.toNat_inj]
  simp only [field, fieldN, BitVec.extractLsb'_toNat]

/-- Settles O33: a departure comes to the link of the neighbour or to a landing, and an arrival to a queue; what else they do is to ask for,
withdraw or count stops. -/
theorem flitsMoveAndLand : Obligations.FlitsMoveAndLand := by
  unfold Obligations.FlitsMoveAndLand
  refine ⟨fun s r o m i n q f hcan hr => ⟨fun ho hrun hnb hdep hfull => ?_, fun ho hrun hdep => ?_, fun pre post hi hmay hlink hf hpre => ?_⟩,
    fun s r n q f hcan hr hrun hdep hfull hserv hcalm hgran => ?_⟩
  · exact exec_flitDepart_link hcan.ok hr ho hrun hnb hdep hfull
  · change execFlitDepart r o s = _
    unfold execFlitDepart
    rw [hdep]
    split <;> rfl
  · exact exec_flitArrive_joins hr hi hmay hlink hf hpre
  · obtain ⟨t, u, hexec, hdepart, hcheck⟩ := exec_flitDepart_lands hcan.ok hr hrun hdep hfull hserv hcalm hgran
    have hwf : SMap.wf Table.reset u.tables = true := hdepart.tables ▸ hcan.tables.1
    have hland := (State.OnlyTable.refl hwf r).land hgran
    have htable : ∀ k, t.table k = (u.land r f).table k := fun k => congrArg (SMap.get Table.reset · k) hcheck.tables
    refine ⟨t, hexec, ?_, ?_, fun k hk => ?_, fun hk => ?_, fun hk => ?_, fun hk hlast => ?_⟩
    · rw [hcheck.noc, (congrArg State.noc hland.rest :), hdepart.noc]
    · exact (congrArg (fun x : State => { x with cores := s.cores, tables := s.tables, mem := s.mem }) (hcheck.nocAs s) :).trans
        ((congrArg (fun x : State => { x.nocAs s with cores := s.cores, tables := s.tables, mem := s.mem }) hland.rest :).trans
          (congrArg (fun x : State => { x with regions := s.regions, tables := s.tables, mem := s.mem }) hdepart.rest :))
    · rw [htable, hland.others k hk, hdepart.table]
    · rw [htable, State.land_signal hgran hk, State.modRcv, State.table_modTable hwf, if_pos rfl, hdepart.table]
    · have hfuses : u.fuses = s.fuses := (congrArg State.fuses hdepart.rest :)
      rw [htable, State.land_credit hgran hk, State.applyCredit, State.modSnd, State.table_modTable hwf, if_pos rfl, hdepart.table, hfuses]
      simp only [hdepart.ringSize]
    · have hnot : ¬ field f.tag 61 58 = field f.tag 57 54 := fun h => hlast ((field_tag_eq_iff f.tag).1 h)
      have heq := State.land_part (s := u) hgran (by omega) (by omega) r
      rw [if_neg hnot] at heq
      rw [htable, hcheck.mem, heq, State.table_modTable hwf, if_pos rfl, hdepart.table]
      exact ⟨(congrArg State.mem hdepart.rest :), rfl⟩

end Sys2Proof.Machine
end

section
/-!
Parts and credit (R199, R200, R202, R206): what retires a part, moves a spilled record into its ring and sends a credit flit. The statement holds
of a channel whose own map of spilled records is canonical. The canonical form of a state says nothing about the maps inside a channel, and the
statement fails of one that lists a core twice. The model itself only empties that map or writes it by `SMap.set` and `SMap.modify`, which list
no core twice.
-/
namespace Sys2Proof.SMap

/-- A value that is not the default is read back where it was written, in a map of any form. -/
theorem get_set_of_ne {α : Type} [DecidableEq α] {d v : α} (hv : v ≠ d) (m : SMap α) (k : Nat) : SMap.get d (SMap.set d m k v) k = v := by
  induction m with
  | nil => simp [SMap.set, SMap.get, hv]
  | cons x m ih =>
    obtain ⟨j, w⟩ := x
    obtain hk | rfl | hk := Nat.lt_trichotomy k j
    · simp [SMap.set, SMap.get, hv, hk, hk.ne]
    · simp [SMap.set, SMap.get, hv]
    · simp [SMap.set, SMap.get, hk.ne', hk.not_gt, ih]

end Sys2Proof.SMap

namespace Sys2Proof.Machine

variable {cmds : List Instr} {s : State} {n m c k : Nat} {p : Part} {x : Spilled} {rest : List Spilled}

theorem State.rcv_modRcv (hs : Ok cmds s) (n m : Nat) (f : RcvChan → RcvChan) : (s.modRcv n m f).rcv n m = f (s.rcv n m) := by
  have htab := State.table_modTable hs.tables_.1 n n (fun b => { b with rcv := SMap.modify RcvChan.reset b.rcv m f })
  rw [if_pos rfl] at htab
  simp only [State.modRcv, State.rcv, htab]
  exact SMap.get_set_same (hs.tables_.2 n).rcv m _

/-! ### Parts that retire (R199, R200) -/

/-- Functions that agree on a receive channel change it alike. -/
theorem State.modRcv_congr {f g : RcvChan → RcvChan} (h : f (s.rcv n m) = g (s.rcv n m)) : s.modRcv n m f = s.modRcv n m g := by
  refine State.modTable_congr ?_
  simp only [SMap.modify]
  rw [show f (SMap.get RcvChan.reset (s.table n).rcv m) = g (SMap.get RcvChan.reset (s.table n).rcv m) from h]

theorem exec_partRetire_written {r : Record} (hrun : s.stopped n = false)
    (hp : (s.rcv n m).arriving.find? (fun p => field p.tag 40 35 == c) = some p) (hk : s.physCore n c = some k)
    (hr : (SMap.get [] (s.rcv n m).records c).find? (fun r => decide (r.tag = p.tag)) = some r)
    (hw : (s.core (34 * n + k)).written m (s.rcv n m).rbase r = true) :
    exec (.partRetire n m c) s = .next (s.modRcv n m (fun x => { x.retire (p.tag.extractLsb' 14 21) (field p.tag 53 48) (s.cyc n) with
      arriving := x.arriving.erase p })) := by
  change execPartRetire n m c s = _
  unfold execPartRetire
  simp only [hp, hk, hr, hw, hrun, Bool.not_false, Bool.and_self, if_true]
  refine congrArg Host.Outcome.next (State.modRcv_congr ?_)
  unfold RcvChan.retire
  split <;> rfl

theorem RcvChan.retire_eq (x : RcvChan) (q : BitVec 21) (parts cyc : Nat) : x.retire q parts cyc = { x with
    retired := if x.retired.any (fun r => decide (r.1 = q)) then x.retired.map (fun r => if r.1 = q then (r.1, r.2.1 - 1, cyc) else r)
      else x.retired ++ [(q, parts - 1, cyc)] } := by
  unfold RcvChan.retire
  split <;> simp [*]

/-! ### Spilled records (R202) -/

theorem MemSys.shelfRead_clean {mem : MemSys} {a l : Nat} (h : ∀ o < l, SMap.get none mem.shelfErr ((a + o) / 8) = none) :
    mem.shelfRead a l = ((List.range l).map (fun o => SMap.get 0 mem.shelf (a + o)), none, 0) := by
  have hunit : ∀ i ∈ units8 a l, SMap.get none mem.shelfErr i = none := fun i hi => by
    obtain ⟨o, ho, rfl⟩ := mem_unitsOf (u := 8) hi
    exact h o ho
  have hbytes : (List.range l).map (fun i => if SMap.get none mem.shelfErr ((a + i) / 8) = some true then 0 else SMap.get 0 mem.shelf (a + i)) =
      (List.range l).map (fun o => SMap.get 0 mem.shelf (a + o)) :=
    List.map_congr_left fun o ho => by rw [h o (List.mem_range.1 ho)]; rfl
  have hfind : (units8 a l).find? (fun u => SMap.get none mem.shelfErr u == some true) = none :=
    List.find?_eq_none.2 fun i hi => by simp [hunit i hi]
  have hfilter : (units8 a l).filter (fun u => SMap.get none mem.shelfErr u == some false) = [] :=
    List.filter_eq_nil_iff.2 fun i hi => by simp [hunit i hi]
  unfold MemSys.shelfRead
  dsimp only
  rw [hbytes, hfind, hfilter]
  rfl

/-- The granules of a spilled record as the shelf holds them. -/
def State.spilledBytes (s : State) (n m : Nat) (x : Spilled) : List (List Byte) :=
  x.cells.map (fun i => (List.range 64).map (fun o => SMap.get 0 s.mem.shelf ((s.rcv n m).cellAddr n i + o)))

/-- A spilled record without errors is read as the shelf holds it, and the read leaves no trace. -/
theorem State.readSpilled_clean (hgood : ∀ i ∈ x.cells, ∀ o < 64, SMap.get none s.mem.shelfErr (((s.rcv n m).cellAddr n i + o) / 8) = none)
    (c : Nat) : s.readSpilled n m c x = (s.spilledBytes n m x, s) := by
  have hread : x.cells.map (fun i => s.mem.shelfRead ((s.rcv n m).cellAddr n i) 64) =
      x.cells.map (fun i => ((List.range 64).map (fun o => SMap.get 0 s.mem.shelf ((s.rcv n m).cellAddr n i + o)), none, 0)) :=
    List.map_congr_left fun i hi => MemSys.shelfRead_clean (hgood i hi)
  have hnone : (x.cells.map (fun i => ((List.range 64).map (fun o => SMap.get 0 s.mem.shelf ((s.rcv n m).cellAddr n i + o)),
      (none : Option Nat), 0))).findSome? (·.2.1) = none := by simp [List.findSome?_map]
  have hsum : ((x.cells.map (fun i => ((List.range 64).map (fun o => SMap.get 0 s.mem.shelf ((s.rcv n m).cellAddr n i + o)),
      (none : Option Nat), 0))).map (·.2.2)).sum = 0 := by simp [Function.comp_def]
  unfold State.readSpilled
  dsimp only
  rw [hread, hnone, hsum, List.map_map]
  rfl

/-- The records that a part adds to a ring: its own, behind a pad record where it would wrap. -/
def RcvChan.newRecords (x : RcvChan) (p : Part) : List Record :=
  let pos := SMap.get 0 x.writePos (field p.tag 40 35) % x.rsize
  if x.rsize - pos < 1 + p.flits.length then [⟨pos, x.rsize - pos, 0⟩, ⟨0, 1 + p.flits.length, p.tag⟩] else [⟨pos, 1 + p.flits.length, p.tag⟩]

/-- The channel with a part's record placed in its ring (R200). -/
def RcvChan.placed (x : RcvChan) (p : Part) : RcvChan :=
  let w := SMap.get 0 x.writePos (field p.tag 40 35)
  { x with
    writePos := SMap.set 0 x.writePos (field p.tag 40 35) (w + ringTake x.rsize w (1 + p.flits.length))
    records := SMap.modify [] x.records (field p.tag 40 35) (· ++ x.newRecords p), arriving := x.arriving ++ [p] }

theorem State.placeRecord_spec (hs : Ok cmds s) (n m : Nat) (p : Part) :
    { s.placeRecord n m p with tables := s.tables, cores := s.cores } = s ∧ (s.placeRecord n m p).rcv n m = (s.rcv n m).placed p := by
  unfold State.placeRecord
  dsimp only
  split
  all_goals
    refine ⟨rfl, (State.rcv_modRcv hs n m _).trans ?_⟩
    unfold RcvChan.placed RcvChan.newRecords
    simp only [decide_eq_true_eq]
    split <;> rfl

theorem State.unspill_frame (s : State) (n m c : Nat) : { s.unspill n m c with tables := s.tables, host := s.host } = s := by
  unfold State.unspill
  split
  · rfl
  · split
    · rfl
    · rfl

theorem State.rcv_modSnd (hs : Ok cmds s) (t i n m : Nat) (f : SndChan → SndChan) : (s.modSnd t i f).rcv n m = s.rcv n m := by
  have htab := State.table_modTable hs.tables_.1 t n (fun b => { b with snd := SMap.modify SndChan.reset b.snd i f })
  simp only [State.modSnd, State.rcv, htab]
  split
  · next e => rw [e]
  · rfl

theorem State.rcv_unspill (hs : Ok cmds s) (n m c : Nat) : (s.unspill n m c).rcv n m = s.rcv n m := by
  unfold State.unspill
  split
  · exact State.rcv_modSnd hs _ _ _ _ _
  · split
    · rfl
    · rfl

/-- The channel whose oldest spilled record of core `c` moves into its ring, `rest` being those behind it. -/
def RcvChan.unspilled (x : RcvChan) (c : Nat) (rest : List Spilled) (p : Part) : RcvChan :=
  { x with spilled := SMap.set [] x.spilled c rest, creditDue := true }.placed p

/-- SPILL_MOVE of a record without errors for which the ring has room. -/
theorem exec_spillMove_moves (hs : Ok cmds s) (hrun : s.stopped n = false) (hx : SMap.get [] (s.rcv n m).spilled c = x :: rest)
    (hk : s.physCore n c = some k) (hpath : (s.core (34 * n + k)).pathFree true = true)
    (hgood : ∀ i ∈ x.cells, ∀ o < 64, SMap.get none s.mem.shelfErr (((s.rcv n m).cellAddr n i + o) / 8) = none)
    (hroom : SMap.get 0 (s.rcv n m).writePos c + ringTake (s.rcv n m).rsize (SMap.get 0 (s.rcv n m).writePos c) x.cells.length -
      SMap.get 0 (s.rcv n m).readPos c ≤ (s.rcv n m).rsize) :
    ∃ t, exec (.spillMove n m c) s = .next t ∧ { t with tables := s.tables, cores := s.cores, host := s.host } = s ∧
      t.rcv n m = (s.rcv n m).unspilled c rest ⟨x.tag, (s.spilledBytes n m x).drop 1⟩ := by
  obtain ⟨u, hu⟩ : ∃ u, u = (s.modCore (34 * n + k) (fun y => { y with shelfIn := y.shelfIn + 64 * x.cells.length })).modRcv n m
    (fun x => { x with spilled := SMap.set [] x.spilled c rest, creditDue := true }) := ⟨_, rfl⟩
  have hcore : Ok cmds (s.modCore (34 * n + k) (fun y => { y with shelfIn := y.shelfIn + 64 * x.cells.length })) :=
    State.modCore_ok hs fun _ h => h
  have hok : Ok cmds u := hu ▸ State.modRcv_ok hcore
  have hrcv : u.rcv n m = { s.rcv n m with spilled := SMap.set [] (s.rcv n m).spilled c rest, creditDue := true } := by
    rw [hu, State.rcv_modRcv hcore]
    rfl
  have hrest : { u with tables := s.tables, cores := s.cores } = s := by rw [hu]; rfl
  obtain ⟨hframe, hplaced⟩ := State.placeRecord_spec hok n m ⟨x.tag, (s.spilledBytes n m x).drop 1⟩
  refine ⟨(u.placeRecord n m ⟨x.tag, (s.spilledBytes n m x).drop 1⟩).unspill n m c, ?_, ?_, ?_⟩
  · change execSpillMove n m c s = _
    unfold execSpillMove
    simp only [hx, hk]
    rw [if_pos ⟨hroom, by simp [hrun], hpath⟩, State.readSpilled_clean hgood, hu]
  · exact (congrArg (fun y : State => { y with tables := s.tables, cores := s.cores, host := s.host }) (State.unspill_frame _ n m c) :).trans
      ((congrArg (fun y : State => { y with tables := s.tables, cores := s.cores, host := s.host }) hframe :).trans
        (congrArg (fun y : State => { y with host := s.host }) hrest :))
  · rw [State.rcv_unspill (State.placeRecord_ok hok), hplaced, hrcv]
    rfl

/-- A channel whose map of spilled records is canonical keeps, for that core, the records behind the one that moved. -/
theorem RcvChan.spilled_unspilled {x : RcvChan} (h : SMap.wf [] x.spilled = true) (c : Nat) (rest : List Spilled) (p : Part) :
    SMap.get [] (x.unspilled c rest p).spilled c = rest := SMap.get_set_same h c rest

theorem RcvChan.writePos_unspilled {x : RcvChan} (hc : field p.tag 40 35 = c) (rest : List Spilled) :
    SMap.get 0 (x.unspilled c rest p).writePos c =
      SMap.get 0 x.writePos c + ringTake x.rsize (SMap.get 0 x.writePos c) (1 + p.flits.length) := by
  subst hc
  refine SMap.get_set_of_ne (d := 0) ?_ x.writePos _
  unfold ringTake
  dsimp only
  split <;> omega

theorem RcvChan.newRecords_last (x : RcvChan) (p : Part) : (x.newRecords p).getLast?.map (·.tag) = some p.tag := by
  unfold RcvChan.newRecords
  dsimp only
  split <;> rfl

theorem RcvChan.records_unspilled {x : RcvChan} (hc : field p.tag 40 35 = c) (rest : List Spilled) :
    (SMap.get [] (x.unspilled c rest p).records c).getLast?.map (·.tag) = some p.tag := by
  subst hc
  have hlast := x.newRecords_last p
  have hne : x.newRecords p ≠ [] := fun h => by rw [h] at hlast; cases hlast
  have hget : SMap.get [] (x.unspilled (field p.tag 40 35) rest p).records (field p.tag 40 35) =
      SMap.get [] x.records (field p.tag 40 35) ++ x.newRecords p :=
    SMap.get_set_of_ne (d := []) (List.append_ne_nil_of_right_ne_nil _ hne) x.records _
  rw [hget, List.getLast?_append_of_ne_nil _ hne]
  exact hlast

/-! ### Credit flits (R206) -/

/-- The credit flit of channel `m` sent by output `o` in network cycle `cyc`, and no more due. -/
def State.creditSent (s : State) (n m o cyc : Nat) : State :=
  ({ s with noc := { s.noc with sent := SMap.set 0 s.noc.sent (8 * n + o) (cyc + 1) } } : State).modRcv n m (fun x => { x with creditDue := false })

theorem State.creditSent_frame (s : State) (n m o cyc : Nat) : { s.creditSent n m o cyc with noc := s.noc, tables := s.tables } = s := rfl

theorem State.rcv_creditSent (hs : Ok cmds s) (n m o cyc : Nat) : (s.creditSent n m o cyc).rcv n m = { s.rcv n m with creditDue := false } :=
  State.rcv_modRcv hs n m (fun x => { x with creditDue := false })

theorem exec_creditReturn_sends {cyc i j : Nat} (hs : Ok cmds s) (hn : n < 64) (hdue : (s.rcv n m).creditDue = true)
    (hrun : s.stopped (dieRegion n) = false)
    (hslot : (s.openCycles n ((s.rcvEnd n m).next n)).find? (fun x => s.creditSlot n ((s.rcvEnd n m).next n) m (x % s.slots)) = some cyc)
    (ho : (s.rcvEnd n m).next n < 4) (hnb : neighbour n ((s.rcvEnd n m).next n) = some (i, j))
    (hfull : (s.outputFull n ((s.rcvEnd n m).next n) (some (s.creditFlit n m))).1 = false) :
    ∃ t, exec (.creditReturn n m) s = .next t ∧
      { t with noc := s.noc, regions := s.regions, csr := s.csr, marks := s.marks, tables := s.tables } = s ∧
      t.noc = { s.noc with
        sent := SMap.set 0 s.noc.sent (8 * n + (s.rcvEnd n m).next n) (cyc + 1)
        links := SMap.modify [] s.noc.links (8 * i + j)
          (· ++ [s.onLink n ((s.rcvEnd n m).next n) cyc (cyc % s.slots) (s.creditFlit n m)]) } ∧
      t.rcv n m = { s.rcv n m with creditDue := false } := by
  generalize hout : (s.rcvEnd n m).next n = o at *
  have hopen : ¬ (64 ≤ n ∨ ¬ (s.rcv n m).creditDue = true ∨ s.stopped (dieRegion n) = true) := by
    simp only [hdue, hrun, not_true_eq_false, Bool.false_eq_true, or_false]
    omega
  have hroom : ¬ (s.outputFull n o (some (s.creditFlit n m))).1 = true := by rw [hfull]; exact Bool.false_ne_true
  have hgo : (s.creditSent n m o cyc).forward n o cyc (cyc % s.slots) (s.creditFlit n m) =
      (s.creditSent n m o cyc).putLink i j (s.onLink n o cyc (cyc % s.slots) (s.creditFlit n m)) := State.forward_neighbour ho hnb cyc _
  have hexec : exec (.creditReturn n m) s =
      .next (((s.creditSent n m o cyc).putLink i j (s.onLink n o cyc (cyc % s.slots) (s.creditFlit n m))).checkFull (n / 8)) := by
    change execCreditReturn n m s = _
    unfold execCreditReturn
    simp only [hout]
    rw [if_neg hopen, hslot]
    dsimp only
    rw [if_neg hroom, ← hgo]
    change Host.Outcome.next ((if (s.creditSent n m o cyc).dropsAt n o = true then s.creditSent n m o cyc
      else (s.creditSent n m o cyc).forward n o cyc (cyc % s.slots) (s.creditFlit n m)).checkFull (n / 8)) = _
    rw [State.dropsAt_neighbour ho, if_neg Bool.false_ne_true]
  have hcheck := ((s.creditSent n m o cyc).putLink i j (s.onLink n o cyc (cyc % s.slots) (s.creditFlit n m))).checkFull_alike (n / 8)
  refine ⟨_, hexec, ?_, ?_, ?_⟩
  · exact (congrArg (fun x : State => { x with tables := s.tables }) (hcheck.nocAs s) :).trans
      (congrArg (fun x : State => { x with regions := s.regions, csr := s.csr, marks := s.marks }) (s.creditSent_frame n m o cyc) :)
  · exact hcheck.noc
  · exact (congrArg (fun x : State => x.rcv n m) hcheck :).trans (State.rcv_creditSent hs n m o cyc)

/-! ### The statement -/

/-- All that the statement says of a channel whose map of spilled records is canonical. -/
theorem partsAndCredit_of_spilled_wf (s : State) (n m c : Nat) (hcan : s.Canonical) (hrun : s.stopped n = false)
    (hwf : SMap.wf [] (s.rcv n m).spilled = true) :
    (∀ p k r, (s.rcv n m).arriving.find? (fun p => field p.tag 40 35 == c) = some p → s.physCore n c = some k →
      (SMap.get [] (s.rcv n m).records c).find? (fun r => decide (r.tag = p.tag)) = some r →
      (s.core (34 * n + k)).written m (s.rcv n m).rbase r = true →
      exec (.partRetire n m c) s = .next (s.modRcv n m (fun x => { x with
        arriving := x.arriving.erase p
        retired := if x.retired.any (fun r => decide (r.1 = p.tag.extractLsb' 14 21)) then
          x.retired.map (fun r => if r.1 = p.tag.extractLsb' 14 21 then (r.1, r.2.1 - 1, s.cyc n) else r)
          else x.retired ++ [(p.tag.extractLsb' 14 21, field p.tag 53 48 - 1, s.cyc n)] }))) ∧
    (∀ p rest k, SMap.get [] (s.rcv n m).spilled c = p :: rest → field p.tag 40 35 = c → s.physCore n c = some k →
      (s.core (34 * n + k)).pathFree true = true → p.cells ≠ [] →
      (∀ i ∈ p.cells, ∀ o < 64, SMap.get none s.mem.shelfErr (((s.rcv n m).cellAddr n i + o) / 8) = none) →
      SMap.get 0 (s.rcv n m).writePos c + ringTake (s.rcv n m).rsize (SMap.get 0 (s.rcv n m).writePos c) p.cells.length -
        SMap.get 0 (s.rcv n m).readPos c ≤ (s.rcv n m).rsize →
      ∃ t, exec (.spillMove n m c) s = .next t ∧
        { t with tables := s.tables, cores := s.cores, host := s.host } = s ∧ SMap.get [] (t.rcv n m).spilled c = rest ∧
        (t.rcv n m).creditDue = true ∧ (t.rcv n m).arriving = (s.rcv n m).arriving ++ [⟨p.tag, (p.cells.map (fun i =>
          (List.range 64).map (fun o => SMap.get 0 s.mem.shelf ((s.rcv n m).cellAddr n i + o)))).drop 1⟩] ∧
        SMap.get 0 (t.rcv n m).writePos c = SMap.get 0 (s.rcv n m).writePos c +
          ringTake (s.rcv n m).rsize (SMap.get 0 (s.rcv n m).writePos c) p.cells.length ∧
        ((SMap.get [] (t.rcv n m).records c).getLast?.map (·.tag)) = some p.tag) ∧
    (∀ i j cyc, n < 64 → (s.rcv n m).creditDue = true → s.stopped (dieRegion n) = false →
      (s.openCycles n ((s.rcvEnd n m).next n)).find? (fun x => s.creditSlot n ((s.rcvEnd n m).next n) m (x % s.slots)) = some cyc →
      (s.rcvEnd n m).next n < 4 → neighbour n ((s.rcvEnd n m).next n) = some (i, j) →
      (s.outputFull n ((s.rcvEnd n m).next n) (some (s.creditFlit n m))).1 = false →
      ∃ t, exec (.creditReturn n m) s = .next t ∧
        { t with noc := s.noc, regions := s.regions, csr := s.csr, marks := s.marks, tables := s.tables } = s ∧
        t.noc = { s.noc with
          sent := SMap.set 0 s.noc.sent (8 * n + (s.rcvEnd n m).next n) (cyc + 1)
          links := SMap.modify [] s.noc.links (8 * i + j) (· ++ [{ s.creditFlit n m with
            slot := (cyc % s.slots + hopLat n ((s.rcvEnd n m).next n)) % s.slots, dueReg := dieRegion n
            dueNet := cyc + hopLat n ((s.rcvEnd n m).next n) }]) } ∧
        (t.rcv n m) = { s.rcv n m with creditDue := false }) := by
  refine ⟨fun p k r hp hk hr hw => ?_, fun x rest k hx hc hk hpath hne hgood hroom => ?_, fun i j cyc hn hdue hdie hslot ho hnb hfull => ?_⟩
  · rw [exec_partRetire_written hrun hp hk hr hw]
    simp only [RcvChan.retire_eq]
  · obtain ⟨t, hexec, hframe, hrcv⟩ := exec_spillMove_moves hcan.ok hrun hx hk hpath hgood hroom
    have hlen : 1 + ((s.spilledBytes n m x).drop 1).length = x.cells.length := by
      have := List.length_pos_iff.2 hne
      simp only [State.spilledBytes, List.length_drop, List.length_map]
      omega
    refine ⟨t, hexec, hframe, ?_, ?_, ?_, ?_, ?_⟩
    · rw [hrcv]
      exact RcvChan.spilled_unspilled hwf c rest _
    · rw [hrcv]
      rfl
    · rw [hrcv]
      rfl
    · rw [hrcv, RcvChan.writePos_unspilled (p := ⟨x.tag, _⟩) hc, hlen]
    · rw [hrcv]
      exact RcvChan.records_unspilled (p := ⟨x.tag, _⟩) hc rest
  · exact exec_creditReturn_sends hcan.ok hn hdue hdie hslot ho hnb hfull

/-- A record of one granule for core 1. -/
def staleRecord : Spilled := ⟨BitVec.ofNat 64 (2 ^ 35), [0]⟩

/-- A device with a receive channel whose map of spilled records lists core 1 twice, which the canonical form of the state allows. -/
def staleSpill : State := State.reset.modRcv 0 63 (fun x => { x with ring := 0x8000, spilled := [(1, [staleRecord]), (1, [staleRecord])] })

theorem staleSpill_ok : Ok [] staleSpill := State.modRcv_ok ok_reset

theorem rcv_staleSpill : staleSpill.rcv 0 63 =
    { RcvChan.reset with ring := 0x8000, spilled := [(1, [staleRecord]), (1, [staleRecord])] } := State.rcv_modRcv ok_reset 0 63 _

/-- Refutes O34: the record that `staleSpill` lists first moves into the ring, and what was listed behind it under the same core stands in its place,
so that the records left spilled are not those behind the one that moved. -/
theorem not_partsAndCredit : ¬ Obligations.PartsAndCredit := by
  unfold Obligations.PartsAndCredit
  intro h
  have hrun : staleSpill.stopped 0 = false := rfl
  have hx : SMap.get [] (staleSpill.rcv 0 63).spilled 1 = [staleRecord] := by rw [rcv_staleSpill]; rfl
  have hk : staleSpill.physCore 0 1 = some 1 := rfl
  have hpath : (staleSpill.core (34 * 0 + 1)).pathFree true = true := rfl
  have hroom : SMap.get 0 (staleSpill.rcv 0 63).writePos 1 + ringTake (staleSpill.rcv 0 63).rsize (SMap.get 0 (staleSpill.rcv 0 63).writePos 1)
      staleRecord.cells.length - SMap.get 0 (staleSpill.rcv 0 63).readPos 1 ≤ (staleSpill.rcv 0 63).rsize := by
    rw [rcv_staleSpill]
    decide
  obtain ⟨t, hexec, -, hleft⟩ := exec_spillMove_moves staleSpill_ok hrun hx hk hpath (fun _ _ _ _ => rfl) hroom
  obtain ⟨t', hexec', -, hgone, -⟩ := (h staleSpill 0 63 1 staleSpill_ok.canonical hrun).2.1 staleRecord [] 1 hx (by decide) hk hpath
    (by decide) (fun _ _ _ _ => rfl) hroom
  obtain rfl : t = t' := by simpa using hexec.symm.trans hexec'
  rw [hleft, rcv_staleSpill] at hgone
  exact absurd hgone (by decide)

end Sys2Proof.Machine
end

section
/-!
Clock regions (R186, R314 to R325, R329): what stop causes, steps, holds, restarts and samples change of a region, and the statement.
-/
namespace Sys2Proof.Machine

variable {cmds : List Instr} {s u : State} {r c : Nat} {tgt : BitVec 3} {v : BitVec 5}

/-! ### Stop causes (R314, R315) -/

/-- Two regions alike but for their causes, their stop, and the counts of cycles and of held ticks. -/
def Region.AlikeButStop (g h : Region) : Prop :=
  { h with cause := g.cause, stopAt := g.stopAt, held := g.held, heldFrom := g.heldFrom, heldWin := g.heldWin, cyc := g.cyc, frac := g.frac,
           net := g.net, nfrac := g.nfrac, since := g.since } = g

theorem Region.AlikeButStop.trans {g h k : Region} (hg : g.AlikeButStop h) (hh : h.AlikeButStop k) : g.AlikeButStop k :=
  (congrArg (fun x : Region => { x with
    cause := g.cause, stopAt := g.stopAt, held := g.held, heldFrom := g.heldFrom, heldWin := g.heldWin, cyc := g.cyc, frac := g.frac,
    net := g.net, nfrac := g.nfrac, since := g.since }) hh :).trans hg

/-- From `s` to `u` region `r` comes to have the causes `v`, and changes in nothing else but its stop and its counts. -/
structure State.Recaused (cmds : List Instr) (s u : State) (r : Nat) (v : BitVec 5) : Prop extends State.OnlyCause cmds s u r v where
  own : (s.region r).AlikeButStop (u.region r)

theorem State.Recaused.refl (hs : Ok cmds s) (r : Nat) : s.Recaused cmds s r (s.region r).cause := ⟨.refl hs r, rfl⟩

theorem State.Recaused.modRegion {w : BitVec 5} (h : s.Recaused cmds u r v) {f : Region → Region} (hok : ∀ g, RegionOk g → RegionOk (f g))
    (hf : ∀ g : Region, g.AlikeButStop (f g)) (hw : (f (u.region r)).cause = w) : s.Recaused cmds (u.modRegion r f) r w := by
  refine ⟨h.toOnlyCause.modRegion hok hw, ?_⟩
  rw [State.region_modRegion h.ok.regions_.1, if_pos rfl]
  exact h.own.trans (hf _)

/-- A cause set: its bit among the causes, and a stop asked for at the end of the region's cycle if none stands already. -/
theorem State.setCause_recaused (hs : Ok cmds s) (h : r < 72 ∨ c = causeFault) :
    s.Recaused cmds (s.setCause r c) r ((s.region r).cause ||| BitVec.ofNat 5 (1 <<< c)) ∧
      ((s.setCause r c).region r).stopAt = some ((s.region r).stopAt.getD (s.cycleEnd r)) := by
  have hstop : ∃ u, u = (if (s.region r).stopAt.isSome then s
      else (s.syncRegion r).modRegion r (fun g => { g with stopAt := some (s.cycleEnd r) })) ∧
      s.Recaused cmds u r (s.region r).cause ∧ (u.region r).stopAt = some ((s.region r).stopAt.getD (s.cycleEnd r)) := by
    refine ⟨_, rfl, ?_⟩
    cases hg : (s.region r).stopAt with
    | some b => exact ⟨.refl hs r, hg⟩
    | none =>
      have hsync : s.Recaused cmds (s.syncRegion r) r (s.region r).cause := by
        simp only [State.syncRegion, hg, Option.isSome_none, Bool.false_eq_true, if_false]
        exact (State.Recaused.refl hs r).modRegion (fun _ hg => hg) (fun _ => rfl) rfl
      refine ⟨hsync.modRegion (fun _ hg => hg) (fun _ => rfl) hsync.cause, ?_⟩
      exact congrArg Region.stopAt ((State.region_modRegion hsync.ok.regions_.1 r r _).trans (if_pos rfl))
  obtain ⟨u, hu, hre, hat⟩ := hstop
  unfold State.setCause
  rw [if_neg (by omega)]
  dsimp only
  rw [← hu]
  refine ⟨hre.modRegion (fun _ hg => Region.countHeld_ok hg) (fun _ => rfl) ?_, ?_⟩
  · rw [Region.countHeld_cause, hre.cause]
  · rw [State.region_modRegion hre.ok.regions_.1, if_pos rfl]
    exact hat

/-- A cause cleared: its bit no more among the causes. -/
theorem State.clearCause_recaused (hs : Ok cmds s) (r c : Nat) :
    s.Recaused cmds (s.clearCause r c) r ((s.region r).cause &&& ~~~BitVec.ofNat 5 (1 <<< c)) := by
  refine (State.Recaused.refl hs r).modRegion (fun g hg => ?_) (fun g => ?_) ?_ <;> dsimp only <;> split
  · exact hg
  · exact hg
  all_goals rfl

/-! ### Dimmer steps (R317, R318) -/

/-- From `s` to `t` region `r` begins a change to step `tgt`: it stops at the end of its cycle, or stands already. -/
structure State.BeginsStep (s t : State) (r : Nat) (tgt : BitVec 3) : Prop where
  rest     : { t with regions := s.regions } = s
  others   : ∀ i, i ≠ r → t.region i = s.region i
  changing : (t.region r).changing = true
  goal     : (t.region r).goal = tgt
  tgt      : (t.region r).tgt = (s.region r).tgt
  step     : (t.region r).step = (s.region r).step
  cause    : (t.region r).cause = (s.region r).cause ||| 1
  stopAt   : (t.region r).stopAt = some ((s.region r).stopAt.getD (s.cycleEnd r))

theorem State.beginStep_begins (hs : Ok cmds s) (hr : r < 72) (tgt : BitVec 3) : s.BeginsStep (s.beginStep r tgt) r tgt := by
  obtain ⟨h, hstop⟩ := State.setCause_recaused (c := causeStep) hs (.inl hr)
  have hreg := State.region_modRegion h.ok.regions_.1 r
  unfold State.beginStep
  refine ⟨h.rest, fun i hi => ?_, ?_, ?_, ?_, ?_, ?_, ?_⟩
  · rw [hreg, if_neg hi, h.others i hi]
  all_goals rw [hreg, if_pos rfl]
  · exact (congrArg Region.tgt h.own :)
  · exact (congrArg Region.step h.own :)
  · exact h.cause
  · exact hstop

/-- A step that the records permit is not refused outside HOLDOVER. -/
theorem State.stepRefusal_permitted (hr : r < 72) (ht : tgt.toNat ≤ 5) (hp : s.recs.permit.getLsbD tgt.toNat = true)
    (hpin : s.recs.scope = 0 ∨ tgt = s.recs.pin) (hh : s.pins.holdover = false) : s.stepRefusal r tgt = none := by
  have h6 : ¬ 6 ≤ tgt.toNat := by omega
  have hscope : ¬ (s.recs.scope ≠ 0 ∧ tgt ≠ s.recs.pin) := fun ⟨h0, h1⟩ => hpin.elim h0 h1
  simp only [State.stepRefusal, if_neg (Nat.not_le.2 hr), if_neg h6, hp, not_true_eq_false, if_false, if_neg hscope, hh, Bool.false_eq_true]

theorem State.stepRefusal_notPermitted (hr : r < 72) (ht : tgt.toNat ≤ 5) (hp : s.recs.permit.getLsbD tgt.toNat = false) :
    s.stepRefusal r tgt = some 1 := by
  have h6 : ¬ 6 ≤ tgt.toNat := by omega
  simp [State.stepRefusal, Nat.not_le.2 hr, h6, hp]

/-- The state with the target of region `r` written. -/
def State.aimed (s : State) (r : Nat) (tgt : BitVec 3) : State := s.modRegion r (fun g => { g with tgt := tgt })

theorem State.aimed_ok (hs : Ok cmds s) (r : Nat) (ht : tgt.toNat ≤ 5) : Ok cmds (s.aimed r tgt) :=
  State.modRegion_ok hs fun _ hg => regionOk_tgt hg (BitVec.le_def.2 ht)

theorem State.region_aimed (hs : Ok cmds s) (r i : Nat) (tgt : BitVec 3) :
    (s.aimed r tgt).region i = if i = r then { s.region r with tgt := tgt } else s.region i := State.region_modRegion hs.regions_.1 r i _

theorem State.cycleEnd_aimed (hs : Ok cmds s) (r : Nat) (tgt : BitVec 3) : (s.aimed r tgt).cycleEnd r = s.cycleEnd r := by
  simp only [State.cycleEnd, State.multiple, State.region_aimed hs, if_pos]
  rfl

/-- A step change that is not refused writes the target, and begins unless something holds it back. -/
theorem exec_stepChange_taken (hs : Ok cmds s) (hr : r < 72) (hready : s.ready = true) (hnone : s.stepRefusal r tgt = none) :
    exec (.stepChange r tgt) s = .next (if s.mgt.hold = true ∨ (s.region r).changing = true ∨ (s.region r).reached = true ∨
      (s.region r).step = tgt then s.aimed r tgt else (s.aimed r tgt).beginStep r tgt) := by
  change execStepChange r tgt s = _
  have hreg : (s.aimed r tgt).region r = { s.region r with tgt := tgt } := by rw [State.region_aimed hs, if_pos rfl]
  have hheld : ((s.aimed r tgt).mgt.hold = true ∨ ((s.aimed r tgt).region r).changing = true ∨ ((s.aimed r tgt).region r).reached = true ∨
      ((s.aimed r tgt).region r).step = tgt) ↔ (s.mgt.hold = true ∨ (s.region r).changing = true ∨ (s.region r).reached = true ∨
      (s.region r).step = tgt) := by rw [hreg]; rfl
  unfold execStepChange
  rw [if_neg (not_or.2 ⟨by omega, not_not.2 hready⟩), hnone]
  exact congrArg Host.Outcome.next (if_congr hheld rfl rfl)

theorem exec_stepChange_begins (hs : Ok cmds s) (hr : r < 72) (hready : s.ready = true) (ht : tgt.toNat ≤ 5)
    (hnone : s.stepRefusal r tgt = none) (hhold : s.mgt.hold = false) (hch : (s.region r).changing = false)
    (hrd : (s.region r).reached = false) (hst : (s.region r).step ≠ tgt) :
    ∃ t, exec (.stepChange r tgt) s = .next t ∧ { t with regions := s.regions } = s ∧
      (∀ i, i ≠ r → t.region i = s.region i) ∧ (t.region r).changing = true ∧ (t.region r).goal = tgt ∧ (t.region r).tgt = tgt ∧
      (t.region r).step = (s.region r).step ∧ (t.region r).cause = (s.region r).cause ||| 1 ∧
      (t.region r).stopAt = some ((s.region r).stopAt.getD (s.cycleEnd r)) := by
  have h := State.beginStep_begins (State.aimed_ok hs r ht) hr tgt
  have hreg : (s.aimed r tgt).region r = { s.region r with tgt := tgt } := by rw [State.region_aimed hs, if_pos rfl]
  refine ⟨(s.aimed r tgt).beginStep r tgt, ?_, (congrArg (fun u : State => { u with regions := s.regions }) h.rest :), fun i hi => ?_,
    h.changing, h.goal, ?_, ?_, ?_, ?_⟩
  · rw [exec_stepChange_taken hs hr hready hnone, if_neg (by simp [hhold, hch, hrd, hst])]
  · rw [h.others i hi, State.region_aimed hs, if_neg hi]
  · rw [h.tgt, hreg]
  · rw [h.step, hreg]
  · rw [h.cause, hreg]
  · rw [h.stopAt, hreg, State.cycleEnd_aimed hs]

/-- A step change that the records do not permit is counted and reported. -/
theorem exec_stepChange_notPermitted (hr : r < 72) (hready : s.ready = true) (ht : tgt.toNat ≤ 5)
    (hp : s.recs.permit.getLsbD tgt.toNat = false) :
    ∃ t, exec (.stepChange r tgt) s = .next t ∧ { t with stepsRef := s.stepsRef, marks := s.marks, log := s.log } = s ∧
      t.stepsRef = satIncr s.stepsRef ∧
      t.log = s.log.raise s.now11 (s.evRecord ⟨0x3104, clsNote, none, some r, none, r + 2 ^ 7 * tgt.toNat + 2 ^ 10⟩) := by
  have hmark (u : State) (a v : Nat) : ∃ m, u.mark a v = { u with marks := m } := by
    unfold State.mark
    split
    · exact ⟨_, rfl⟩
    · exact ⟨_, rfl⟩
  obtain ⟨m, hm⟩ := hmark { s with stepsRef := satIncr s.stepsRef } stepsRefReg (s.marked stepsRefReg + 1)
  refine ⟨State.raise { s with stepsRef := satIncr s.stepsRef, marks := m } ⟨0x3104, clsNote, none, some r, none, r + 2 ^ 7 * tgt.toNat + 2 ^ 10⟩,
    ?_, rfl, rfl, rfl⟩
  change execStepChange r tgt s = _
  unfold execStepChange
  rw [if_neg (not_or.2 ⟨by omega, not_not.2 hready⟩), State.stepRefusal_notPermitted hr ht hp]
  dsimp only
  rw [hm, Nat.shiftLeft_eq, Nat.mul_comm tgt.toNat]
  rfl

theorem toNat_satIncr (v : Word) : (satIncr v).toNat = min 0xFFFFFFFF (v.toNat + 1) := by
  unfold satIncr
  split
  · next h => subst h; rfl
  · next h =>
    have hv : v.toNat ≠ 0xFFFFFFFF := fun e => h (BitVec.eq_of_toNat_eq e)
    rw [BitVec.toNat_add]
    simp only [BitVec.reduceToNat]
    omega

/-- An event raised after a change of regions alone. -/
theorem State.raise_frame (h : { u with regions := s.regions } = s) (e : Ev) :
    { u.raise e with regions := s.regions, log := s.log } = s ∧ (u.raise e).log = s.log.raise s.now11 (s.evRecord e) :=
  ⟨(congrArg (fun u : State => { u with log := s.log }) h :), State.raise_log_congr (congrArg State.log h :) (congrArg State.beacon h :)
    (congrArg State.sub h :) (congrArg State.ftime h :) e⟩

/-- A region that has reached the step it moves to. -/
def Region.atGoal (g : Region) : Region :=
  { g with step := g.goal, changing := false, reached := true, steps := if g.steps = 0xFFFF then g.steps else g.steps + 1 }

theorem Region.atGoal_ok {g : Region} (h : RegionOk g) : RegionOk g.atGoal := ⟨h.goal_, h.tgt_, h.goal_⟩

theorem Region.toNat_steps_atGoal (g : Region) : g.atGoal.steps.toNat = min 0xFFFF (g.steps.toNat + 1) := by
  unfold Region.atGoal
  dsimp only
  split
  · next h => rw [h]; rfl
  · next h =>
    have hv : g.steps.toNat ≠ 0xFFFF := fun e => h (BitVec.eq_of_toNat_eq e)
    rw [BitVec.toNat_add]
    simp only [BitVec.reduceToNat]
    omega

theorem exec_dimmerStep_waits (h : 11 * s.beacon < (s.region r).stepFrom + 1650 ∨ s.pins.holdover = true) :
    exec (.dimmerStep r) s = .next s :=
  congrArg Host.Outcome.next (if_pos (.inr (.inr h.symm)))

/-- A region that has stood long enough comes to its step and no longer stands for that. -/
theorem exec_dimmerStep_due (hs : Ok cmds s) (hr : r < 72) (hch : (s.region r).changing = true) (hh : s.pins.holdover = false)
    (hdue : (s.region r).stepFrom + 1650 ≤ 11 * s.beacon) :
    ∃ t, exec (.dimmerStep r) s = .next t ∧ { t with regions := s.regions, log := s.log } = s ∧ (∀ i, i ≠ r → t.region i = s.region i) ∧
      (s.region r).atGoal.AlikeButStop (t.region r) ∧ (t.region r).cause = (s.region r).cause &&& 0x1E ∧
      t.log = s.log.raise s.now11 (s.evRecord ⟨0x3101, clsCorrected, none, some r, none,
        r + 2 ^ 7 * (s.region r).step.toNat + 2 ^ 10 * (s.region r).goal.toNat⟩) := by
  have hreg := State.region_modRegion hs.regions_.1 r (f := Region.atGoal)
  have h := State.clearCause_recaused (State.modRegion_ok (t := r) hs fun _ => Region.atGoal_ok) r causeStep
  have hrest : { (s.modRegion r Region.atGoal).clearCause r causeStep with regions := s.regions } = s :=
    (congrArg (fun u : State => { u with regions := s.regions }) h.rest :)
  obtain ⟨hframe, hlog⟩ := State.raise_frame hrest
    ⟨0x3101, clsCorrected, none, some r, none, r + 2 ^ 7 * (s.region r).step.toNat + 2 ^ 10 * (s.region r).goal.toNat⟩
  refine ⟨_, ?_, hframe, fun i hi => (h.others i hi).trans ((hreg i).trans (if_neg hi)), ?_, ?_, hlog⟩
  · change execDimmerStep r s = _
    unfold execDimmerStep
    dsimp only
    rw [if_neg (by simp [hch, hh]; omega), Nat.shiftLeft_eq, Nat.shiftLeft_eq, Nat.mul_comm (s.region r).step.toNat,
      Nat.mul_comm (s.region r).goal.toNat]
    rfl
  · have hown := h.own
    rwa [hreg, if_pos rfl] at hown
  · refine h.cause.trans ?_
    rw [hreg, if_pos rfl]
    rfl

/-! ### Thermal holds (R321, R322) -/

theorem exec_thermalHold_longer {us : BitVec 16} (hr : r < 72) (hready : s.ready = true) (hus : us ≠ 0)
    (hc : (s.region r).cause.getLsbD 1 = true) :
    exec (.thermalHold r us) s = .next (s.modRegion r (fun g => { g with holdEnd := s.now11 + 1100 * min us.toNat 1000 })) := by
  have hcause : s.hasCause r causeHold = true := hc
  change execThermalHold r us s = _
  unfold execThermalHold
  rw [if_neg (not_or.2 ⟨Nat.not_le.2 hr, not_or.2 ⟨hus, not_not.2 hready⟩⟩)]
  simp only [hcause, not_true_eq_false, if_false]

/-- A hold begun: HOLD is set for the region, until `till`. -/
def State.heldTill (s : State) (r till : Nat) : State := (s.setCause r causeHold).modRegion r (fun g => { g with holdEnd := till })

theorem exec_thermalHold_fresh {us : BitVec 16} (hs : Ok cmds s) (hr : r < 72) (hready : s.ready = true) (hus : us ≠ 0)
    (hc : (s.region r).cause.getLsbD 1 = false) :
    ∃ t, exec (.thermalHold r us) s = .next t ∧ { t with regions := s.regions, log := s.log } = s ∧ (∀ i, i ≠ r → t.region i = s.region i) ∧
      (t.region r).cause = (s.region r).cause ||| 2 ∧ (t.region r).holdEnd = s.now11 + 1100 * min us.toNat 1000 ∧
      (t.region r).stopAt = some ((s.region r).stopAt.getD (s.cycleEnd r)) ∧
      t.log = s.log.raise s.now11 (s.evRecord ⟨0x4101, clsCorrected, none, some r, none,
        r + 2 ^ 7 * (s.region r).temp.toNat + 2 ^ 15 * min us.toNat 1000⟩) := by
  have hfresh : ¬ s.hasCause r causeHold = true := by simpa [State.hasCause, causeHold] using hc
  obtain ⟨h, hstop⟩ := State.setCause_recaused (c := causeHold) hs (.inl hr)
  have hnow : (s.setCause r causeHold).now11 = s.now11 := (congrArg State.now11 h.rest :)
  have hreg := State.region_modRegion h.ok.regions_.1 r (f := fun g => { g with holdEnd := s.now11 + 1100 * min us.toNat 1000 })
  have hown : (s.heldTill r (s.now11 + 1100 * min us.toNat 1000)).region r =
      { (s.setCause r causeHold).region r with holdEnd := s.now11 + 1100 * min us.toNat 1000 } := (hreg r).trans (if_pos rfl)
  have hrest : { s.heldTill r (s.now11 + 1100 * min us.toNat 1000) with regions := s.regions } = s := h.rest
  obtain ⟨hframe, hlog⟩ := State.raise_frame hrest
    ⟨0x4101, clsCorrected, none, some r, none, r + 2 ^ 7 * (s.region r).temp.toNat + 2 ^ 15 * min us.toNat 1000⟩
  refine ⟨_, ?_, hframe, fun i hi => ((hreg i).trans (if_neg hi)).trans (h.others i hi), (congrArg Region.cause hown :).trans h.cause,
    (congrArg Region.holdEnd hown :), (congrArg Region.stopAt hown :).trans hstop, hlog⟩
  have htemp : ((s.heldTill r (s.now11 + 1100 * min us.toNat 1000)).region r).temp = (s.region r).temp :=
    (congrArg Region.temp hown :).trans (congrArg Region.temp h.own :)
  change execThermalHold r us s = _
  unfold execThermalHold
  rw [if_neg (not_or.2 ⟨Nat.not_le.2 hr, not_or.2 ⟨hus, not_not.2 hready⟩⟩)]
  simp only [hfresh, Bool.false_eq_true, not_false_eq_true, if_true, hnow]
  change Host.Outcome.next ((s.heldTill r _).raise ⟨_, _, _, _, _, r + ((s.heldTill r _).region r).temp.toNat <<< 7 + _⟩) = _
  rw [htemp, Nat.shiftLeft_eq, Nat.shiftLeft_eq, Nat.mul_comm (s.region r).temp.toNat, Nat.mul_comm (min us.toNat 1000)]

theorem exec_holdEnd_waits (h : s.now11 < (s.region r).holdEnd) : exec (.holdEnd r) s = .next s :=
  congrArg Host.Outcome.next (if_neg fun hc => absurd hc.2 (Nat.not_le.2 h))

theorem exec_holdEnd_over (hc : (s.region r).cause.getLsbD 1 = true) (h : (s.region r).holdEnd ≤ s.now11) :
    exec (.holdEnd r) s = .next (s.clearCause r causeHold) :=
  congrArg Host.Outcome.next (if_pos ⟨hc, h⟩)

theorem exec_holdBudget_left (h : (s.region r).heldNow s.beacon < 100 * s.recs.allow) : exec (.holdBudget r) s = .next s :=
  congrArg Host.Outcome.next (if_pos (.inr h))

theorem exec_holdBudget_cutsHold (hr : r < 72) (hc : (s.region r).cause.getLsbD 1 = true)
    (h : 100 * s.recs.allow ≤ (s.region r).heldNow s.beacon) :
    exec (.holdBudget r) s = .next ((s.clearCause r causeHold).raise ⟨0x3102, clsNote, none, some r, none, r⟩) := by
  change execHoldBudget r s = _
  unfold execHoldBudget
  rw [if_neg (by simp only [State.holdBudget]; omega), if_pos hc]
  rfl

theorem exec_holdBudget_reportsStep (hr : r < 72) (hhold : (s.region r).cause.getLsbD 1 = false) (hstep : (s.region r).cause.getLsbD 0 = true)
    (hwin : (s.region r).budgetWin = none) (h : 100 * s.recs.allow ≤ (s.region r).heldNow s.beacon) :
    exec (.holdBudget r) s = .next (State.raise (s.modRegion r (fun g => { g with budgetWin := some (s.beacon / 100000) }))
      ⟨0x3102, clsNote, none, some r, none, r + 2 ^ 7⟩) := by
  change execHoldBudget r s = _
  unfold execHoldBudget
  dsimp only
  rw [if_neg (by simp only [State.holdBudget]; omega), hhold, hwin, if_neg Bool.false_ne_true, if_pos ⟨hstep, rfl⟩]
  rfl

/-! ### Restart (R186, R314, R318) -/

theorem exec_regionRestart_stands (h : (s.region r).cause ≠ 0) : exec (.regionRestart r) s = .next s :=
  congrArg Host.Outcome.next (if_neg fun hc => h hc.1)

/-- A region in the first cycle after its stop at device time `b`, with no timer firing to make up for. -/
def Region.rerun (g : Region) (b now : Nat) : Region :=
  { g with stopAt := none, cyc := g.cyc + 1, frac := 0, net := g.net + 1, nfrac := 0, since := now
           total := satAdd g.total ((now - b) / 11), reached := false }

/-- Functions that agree on a region change it alike. -/
theorem State.modRegion_congr {f g : Region → Region} (h : f (s.region r) = g (s.region r)) : s.modRegion r f = s.modRegion r g := by
  simp only [State.modRegion, SMap.modify]
  rw [show f (SMap.get Region.reset s.regions r) = g (SMap.get Region.reset s.regions r) from h]

theorem exec_regionRestart_runs {b : Nat} (hr : 64 ≤ r) (hc : (s.region r).cause = 0) (hstop : (s.region r).stopAt = some b)
    (hb : b ≤ s.now11) (hscope : s.recs.scope = 0) (hheld : (s.region r).timersHeld = []) :
    exec (.regionRestart r) s = .next ((s.modRegion r (Region.rerun · b s.now11)).startDeferred r) := by
  have h64 : ¬ r < 64 := by omega
  have hrun : s.modRegion r (fun g => { g with
      stopAt := none, cyc := g.cyc + 1, frac := 0, net := g.net + 1, nfrac := 0, since := s.now11
      total := satAdd g.total ((s.now11 - (s.region r).stopAt.getD s.now11) / 11), timersHeld := [], reached := false }) =
        s.modRegion r (Region.rerun · b s.now11) := by
    refine State.modRegion_congr ?_
    rw [hstop, ← hheld]
    rfl
  have hrealign (u : State) (h : u.recs.scope = 0) : u.realign r = u := if_pos (.inl h)
  change execRegionRestart r s = _
  unfold execRegionRestart
  rw [if_pos ⟨hc, by simp [hstop, hb]⟩]
  unfold State.restart
  simp only [h64, if_false, hheld, List.foldl_nil, hrun]
  rw [hrealign (s.modRegion r _) hscope]

theorem State.region_rerun (hs : Ok cmds s) (r b i : Nat) :
    (s.modRegion r (Region.rerun · b s.now11)).region i = if i = r then (s.region r).rerun b s.now11 else s.region i :=
  State.region_modRegion hs.regions_.1 r i _

/-- The target of a step that could not begin when it was written is left, or begins. -/
theorem State.startDeferred_stays (h : (s.region r).tgt = (s.region r).step ∨ s.pins.holdover = true ∨ s.mgt.hold = true) :
    s.startDeferred r = s :=
  if_pos (by obtain h | h | h := h <;> simp [h])

theorem State.startDeferred_begins {g : Region} (hg : s.region r = g) (hr : r < 72) (hch : g.changing = false) (hrd : g.reached = false)
    (hst : g.tgt ≠ g.step) (hrun : g.stopAt = none) (hh : s.pins.holdover = false) (hhold : s.mgt.hold = false) :
    s.startDeferred r = s.beginStep r g.tgt := by
  subst hg
  exact if_neg (by simp [State.stopped, hch, hrd, hst, hrun, hh, hhold, hr])

theorem exec_regionRestart_begins {b : Nat} (hs : Ok cmds s) (hr : r < 72) (hlo : 64 ≤ r) (hc : (s.region r).cause = 0)
    (hstop : (s.region r).stopAt = some b) (hb : b ≤ s.now11) (hscope : s.recs.scope = 0) (hheld : (s.region r).timersHeld = [])
    (hch : (s.region r).changing = false) (hst : (s.region r).tgt ≠ (s.region r).step) (hh : s.pins.holdover = false)
    (hhold : s.mgt.hold = false) :
    ∃ t, exec (.regionRestart r) s = .next t ∧ { t with regions := s.regions } = s ∧ (∀ i, i ≠ r → t.region i = s.region i) ∧
      (t.region r).changing = true ∧ (t.region r).goal = (s.region r).tgt ∧ (t.region r).cause = 1 := by
  have hreg : (s.modRegion r (Region.rerun · b s.now11)).region r = (s.region r).rerun b s.now11 := by
    rw [State.region_rerun hs, if_pos rfl]
  have hok : Ok cmds (s.modRegion r (Region.rerun · b s.now11)) := State.modRegion_ok hs fun _ hg => hg
  have h := State.beginStep_begins hok hr (s.region r).tgt
  refine ⟨(s.modRegion r (Region.rerun · b s.now11)).beginStep r (s.region r).tgt, ?_,
    (congrArg (fun u : State => { u with regions := s.regions }) h.rest :), fun i hi => ?_, h.changing, h.goal, ?_⟩
  · rw [exec_regionRestart_runs hlo hc hstop hb hscope hheld, State.startDeferred_begins hreg hr hch rfl hst rfl hh hhold]
    rfl
  · rw [h.others i hi, State.region_rerun hs, if_neg hi]
  · rw [h.cause, hreg]
    exact congrArg (· ||| 1) hc

/-! ### Temperature samples (R320, R323) -/

/-- What a sample `x` makes of a region whose trip point is `trip`. -/
structure Region.Sampled (trip : Nat) (x : BitVec 8) (g h : Region) : Prop where
  temp  : h.temp = x
  step  : h.step = g.step
  cause : h.cause = if trip ≤ x.toNat then g.cause ||| 4 else if x.toNat + 5 < trip then g.cause &&& 0x1B else g.cause

theorem State.excursions_of_no_job (h : ∀ j, s.job j = none) (code : Nat) (p : Job → Bool) : s.excursions code p = s := by
  unfold State.excursions
  simp only [h]
  exact foldl_keeps (P := (· = s)) rfl fun _ _ h => h

theorem or_trip_of_mem : ∀ v : BitVec 5, v.getLsbD causeTrip = true → v ||| 4 = v := by decide

theorem and_trip_of_not_mem : ∀ v : BitVec 5, v.getLsbD causeTrip = false → v &&& 0x1B = v := by decide

/-- The sample of one region of a device without jobs. -/
theorem State.sample_sampled (hs : Ok cmds s) (hjobs : ∀ j, s.job j = none) (hr : r < 72) (x : BitVec 8) :
    { s.sample r x with regions := s.regions, log := s.log } = s ∧ (∀ i, i ≠ r → (s.sample r x).region i = s.region i) ∧
      (s.region r).Sampled s.recs.ttrip x ((s.sample r x).region r) := by
  have hreg := State.region_modRegion hs.regions_.1 r (f := fun g => { g with temp := x })
  have hok : Ok cmds (s.modRegion r (fun g => { g with temp := x })) := State.modRegion_ok hs fun _ hg => hg
  have hrest : { s.modRegion r (fun g => { g with temp := x }) with regions := s.regions } = s := rfl
  unfold State.sample
  generalize s.modRegion r (fun g => { g with temp := x }) = u at hreg hok hrest
  have hown : u.region r = { s.region r with temp := x } := by rw [hreg, if_pos rfl]
  have hrecs : u.recs = s.recs := (congrArg State.recs hrest :)
  have hcause : u.hasCause r causeTrip = (s.region r).cause.getLsbD causeTrip := by rw [State.hasCause, hown]
  have hfin {w : State} {v : BitVec 5} (l : EventLog) (h : u.Recaused cmds w r v) (hv : v = if s.recs.ttrip ≤ x.toNat
      then (s.region r).cause ||| 4 else if x.toNat + 5 < s.recs.ttrip then (s.region r).cause &&& 0x1B else (s.region r).cause) :
      { ({ w with log := l } : State) with regions := s.regions, log := s.log } = s ∧
        (∀ i, i ≠ r → ({ w with log := l } : State).region i = s.region i) ∧
        (s.region r).Sampled s.recs.ttrip x (({ w with log := l } : State).region r) := by
    refine ⟨?_, fun i hi => ?_, ?_, ?_, h.cause.trans hv⟩
    · exact (congrArg (fun y : State => { y with regions := s.regions, log := s.log }) h.rest :).trans
        (congrArg (fun y : State => { y with log := s.log }) hrest :)
    · exact (h.others i hi).trans ((hreg i).trans (if_neg hi))
    · exact (congrArg Region.temp h.own :).trans (congrArg Region.temp hown :)
    · exact (congrArg Region.step h.own :).trans (congrArg Region.step hown :)
  simp only [hcause, hrecs]
  split
  · next h =>
    obtain ⟨hset, -⟩ := State.setCause_recaused (c := causeTrip) hok (.inl hr)
    rw [State.excursions_of_no_job]
    · exact hfin _ hset (by rw [if_pos h.1, hown]; rfl)
    · exact fun j => (congrArg (fun y : State => y.job j) hset.rest :).trans ((congrArg (fun y : State => y.job j) hrest :).trans (hjobs j))
  · next h =>
    split
    · next h5 =>
      have hlo : ¬ s.recs.ttrip ≤ x.toNat := by omega
      exact hfin u.log (State.clearCause_recaused hok r causeTrip) (by rw [if_neg hlo, if_pos h5.1, hown]; rfl)
    · next h5 =>
      refine hfin u.log (.refl hok r) ?_
      have hc : (u.region r).cause = (s.region r).cause := (congrArg Region.cause hown :)
      rw [hc]
      split_ifs with htrip hlow
      · exact (or_trip_of_mem _ (by simpa [htrip] using h)).symm
      · exact (and_trip_of_not_mem _ (by simpa [hlow] using h5)).symm
      · rfl

/-- The samples of the regions from `k` on. -/
theorem State.foldl_sample (l : List (BitVec 8)) {k : Nat} (hs : Ok cmds s) (hjobs : ∀ j, s.job j = none) (hk : k + l.length ≤ 72) :
    ∃ t, (l.zipIdx k).foldl (fun acc x => acc.sample x.2 x.1) s = t ∧ { t with regions := s.regions, log := s.log } = s ∧
      (∀ r, r < k ∨ k + l.length ≤ r → t.region r = s.region r) ∧
      ∀ i x, l[i]? = some x → (s.region (k + i)).Sampled s.recs.ttrip x (t.region (k + i)) := by
  induction l generalizing s k with
  | nil => exact ⟨s, rfl, rfl, fun _ _ => rfl, fun i x h => by simp at h⟩
  | cons y l ih =>
    rw [List.length_cons] at hk
    obtain ⟨hrest, hothers, hown⟩ := State.sample_sampled hs hjobs (r := k) (by omega) y
    have hjob : ∀ j, (s.sample k y).job j = none := fun j => (congrArg (fun u : State => u.job j) hrest :).trans (hjobs j)
    obtain ⟨t, ht, hframe, hout, hin⟩ := ih (k := k + 1) (State.sample_ok (r := k) (temp := y) hs) hjob (by omega)
    have hrecs : (s.sample k y).recs = s.recs := (congrArg State.recs hrest :)
    refine ⟨t, ht, ?_, fun r hr => ?_, fun i x hi => ?_⟩
    · exact (congrArg (fun u : State => { u with regions := s.regions, log := s.log }) hframe :).trans hrest
    · rw [List.length_cons] at hr
      rw [hout r (by omega), hothers r (by omega)]
    · cases i with
      | zero =>
        obtain rfl : y = x := by simpa using hi
        rw [Nat.add_zero, hout k (by omega)]
        exact hown
      | succ i =>
        have h := hin i x (by simpa using hi)
        rw [hothers _ (by omega), hrecs, Nat.add_right_comm] at h
        exact h

theorem exec_temperatureSample_sampled (hs : Ok cmds s) (hjobs : ∀ j, s.job j = none) (hrun : s.running = true)
    (h : s.beacon % 1000 = 0) (temps : List (BitVec 8)) :
    ∃ t, exec (.temperatureSample temps) s = .next t ∧ { t with regions := s.regions, log := s.log } = s ∧
      (∀ r, 72 ≤ r ∨ temps.length ≤ r → t.region r = s.region r) ∧
      ∀ r x, r < 72 → temps[r]? = some x → (s.region r).Sampled s.recs.ttrip x (t.region r) := by
  have hlen : (temps.take 72).length = min 72 temps.length := List.length_take
  obtain ⟨t, ht, hrest, hout, hin⟩ := State.foldl_sample (temps.take 72) (k := 0) hs hjobs (by omega)
  refine ⟨t, ?_, hrest, fun r hr => hout r (by omega), fun r x hr hx => ?_⟩
  · rw [← ht]
    exact congrArg Host.Outcome.next (if_neg (not_or.2 ⟨not_not.2 h, not_not.2 hrun⟩))
  · have := hin r x (by rwa [List.getElem?_take_of_lt hr])
    rwa [Nat.zero_add] at this

/-! ### The beacon and the reference clock (R325, R329) -/

theorem exec_beaconPulse_aligns (hs : Ok cmds s) (hrun : s.running = true) (h : s.beacon % 100 = 0) :
    ∃ t, exec .beaconPulse s = .next t ∧ { t with ports := s.ports } = s ∧
      ∀ q, t.port q = if (s.port q).state = 0 then s.port q else { s.port q with alignDue := true } :=
  ⟨_, congrArg Host.Outcome.next (if_neg (not_or.2 ⟨not_not.2 h, not_not.2 hrun⟩)), rfl, fun q =>
    SMap.get_mapAll hs.ports_ (f := fun _ p => if p.state = 0 then p else { p with alignDue := true }) (fun _ => rfl) q⟩

theorem exec_refclkLost_holds (hrun : s.running = true) (hjobs : ∀ j, s.job j = none) (h : s.pins.holdover = false) :
    exec .refclkLost s = .next (State.raise { s with pins := { s.pins with refPresent := false, holdover := true } }
      ⟨0x4501, clsContained, none, none, none, 0⟩) := by
  change execRefclkLost s = _
  unfold execRefclkLost
  rw [if_neg (not_or.2 ⟨by simp [h], not_not.2 hrun⟩)]
  dsimp only
  rw [State.excursions_of_no_job (s := State.raiseDev { s with pins := { s.pins with refPresent := false, holdover := true } } _ _ _) hjobs,
    State.raiseDev]

theorem State.startAllDeferred_settled (h : ∀ r, (s.region r).tgt = (s.region r).step) : s.startAllDeferred = s := by
  refine foldl_keeps (P := (· = s)) rfl ?_
  rintro _ r rfl
  exact State.startDeferred_stays (.inl (h r))

theorem exec_refclkBack_settled (hrun : s.running = true) (h : s.pins.holdover = true) (hst : ∀ r, (s.region r).tgt = (s.region r).step) :
    exec .refclkBack s = .next (State.raise { s with pins := { s.pins with refPresent := true, holdover := false } }
      ⟨0x4502, clsNote, none, none, none, 0⟩) := by
  change execRefclkBack s = _
  unfold execRefclkBack
  rw [if_neg (not_or.2 ⟨not_not.2 h, not_not.2 hrun⟩), State.raiseDev]
  rw [State.startAllDeferred_settled]
  exact hst

/-! ### The statement -/

/-- Settles O48: each command is the change that its lemma above names, read off region by region. -/
theorem clockRegions : Obligations.ClockRegions := by
  unfold Obligations.ClockRegions
  refine ⟨?_, fun s temps hcan hrun hjobs => ⟨exec_beaconPulse_aligns hcan.ok hrun, fun h => ?_, fun h => ?_, fun h => ?_,
    exec_refclkLost_holds hrun hjobs, exec_refclkBack_settled hrun⟩⟩
  · rintro s r tgt us g hcan hr rfl
    refine ⟨fun hready ht hp hpin hh => ?_, fun hready ht hp => ?_, exec_dimmerStep_waits, fun hch hh hdue => ?_, fun hready hus => ?_,
      fun _ => exec_holdEnd_waits, fun hc h => ?_, exec_holdBudget_left, fun hc h => ?_, exec_holdBudget_reportsStep hr,
      exec_regionRestart_stands, fun b hlo hc hstop hb hscope hheld => ⟨fun hstay => ?_, fun hch hst hh hhold => ?_⟩⟩
    · have hnone := State.stepRefusal_permitted hr ht hp hpin hh
      refine ⟨fun hheld => ?_, exec_stepChange_begins hcan.ok hr hready ht hnone⟩
      rw [exec_stepChange_taken hcan.ok hr hready hnone, if_pos hheld]
      rfl
    · obtain ⟨t, ht', hrest, hcount, hlog⟩ := exec_stepChange_notPermitted hr hready ht hp
      exact ⟨t, ht', hrest, by rw [hcount, toNat_satIncr], hlog⟩
    · obtain ⟨t, ht, hrest, hothers, hown, hcause, hlog⟩ := exec_dimmerStep_due hcan.ok hr hch hh hdue
      exact ⟨t, ht, hrest, hothers, (congrArg Region.step hown :), (congrArg Region.changing hown :), (congrArg Region.reached hown :), hcause,
        (congrArg (fun g : Region => g.steps.toNat) hown :).trans (Region.toNat_steps_atGoal _), hlog⟩
    · exact ⟨exec_thermalHold_longer hr hready hus, exec_thermalHold_fresh hcan.ok hr hready hus⟩
    · have hclear := State.clearCause_recaused hcan.ok r causeHold
      exact ⟨_, exec_holdEnd_over hc h, rfl, hclear.others, hclear.cause⟩
    · have hclear := State.clearCause_recaused hcan.ok r causeHold
      obtain ⟨hframe, hlog⟩ := State.raise_frame hclear.rest ⟨0x3102, clsNote, none, some r, none, r⟩
      exact ⟨_, exec_holdBudget_cutsHold hr hc h, hframe, hclear.cause, hlog⟩
    · rw [exec_regionRestart_runs hlo hc hstop hb hscope hheld, State.startDeferred_stays]
      · rfl
      · rw [State.region_rerun hcan.ok, if_pos rfl]
        exact hstay
    · exact exec_regionRestart_begins hcan.ok hr hlo hc hstop hb hscope hheld hch hst hh hhold
  · exact congrArg Host.Outcome.next (if_pos (.inl h))
  · exact congrArg Host.Outcome.next (if_pos (.inl h))
  · obtain ⟨t, ht, hrest, hout, hin⟩ := exec_temperatureSample_sampled hcan.ok hjobs hrun h temps
    exact ⟨t, ht, hrest, hout, fun r x hr hx => ⟨(hin r x hr hx).temp, (hin r x hr hx).step, (hin r x hr hx).cause⟩⟩

end Sys2Proof.Machine
end

section
/-!
QREQ and QREL (R216, R219, R220, R222): what they owe in cores with entries enough, and the misuse of a core with too few.
-/
namespace Sys2Proof.Machine

variable {cmds : List Instr} {s s1 : State} {h : Hdr} {t k lc n : Nat} {q n1 : BitVec 4} {sp : BitVec 5} {m : BitVec 6} {x : Nat × Nat}

/-! ### Requests whose granules all reach memory -/

/-- Where a request reaches no absent channel and no hole, nothing of it is dropped (R134). -/
theorem State.dropGone_of_reaching {e : Nat × Eff} (hreach : ∀ k q n gs, e.2 = .request k q n gs → ∀ g ∈ gs, s.goneFar g = none) :
    s.dropGone e = [e] := by
  obtain ⟨lat, eff⟩ := e
  cases eff with
  | request k q n gs =>
    have hgran := hreach k q n gs rfl
    have hkept : gs.filter (fun g => (s.goneFar g).isNone) = gs := List.filter_eq_self.2 fun g hg => by simp [hgran g hg]
    have hdropped : gs.filter (fun g => (s.goneFar g).isSome) = [] := List.filter_eq_nil_iff.2 fun g hg => by simp [hgran g hg]
    simp [State.dropGone, hkept, hdropped]
  | _ => rfl

theorem State.flatMap_dropGone {es : List (Nat × Eff)} (hgone : s.goneUnit es = none) : es.flatMap s.dropGone = es := by
  have hreach := List.findSome?_eq_none_iff.1 hgone
  have hkept : ∀ e ∈ es, s.dropGone e = [e] := fun e he => State.dropGone_of_reaching fun k q n gs heff => by
    have hnone := hreach e he
    rw [heff] at hnone
    exact List.findSome?_eq_none_iff.1 hnone
  rw [List.flatMap_congr hkept, List.flatMap_singleton']

/-! ### One core -/

/-- The entries that a QREQ may ask for: those HELD of an outbound queue, those FREE of an inbound one (R219, R220). -/
def State.askable (s : State) (k q : Nat) : Nat := if (s.qcfg k q).out then (s.qst k q).held else (s.qst k q).free

/-- The task-relative tier address of a QREQ: the register pair from `sp` on, at a granule (R219). -/
def State.qreqAddr (s : State) (k : Nat) (sp : BitVec 5) : Nat :=
  alignDown 6 ((s.sreg k (sp + 1)).toNat * 2 ^ 32 + (s.sreg k sp).toNat)

/-- What a QREQ of `n` entries owes in core `k` of table `t`: the entries' move, and a cycle later their request. -/
def State.qreqEffs (s : State) (t k q : Nat) (sp : BitVec 5) (n : Nat) : List (Nat × Eff) :=
  let c := s.qcfg k q
  [(1, if c.out then .qmove k q 0 n 0 (-n) 0 n else .qmove k q (-n) n 0 0 n 0),
    (2, .request k q (if c.out then n else 0) (match c.tier with
      | none => []
      | some tier => requestGranules t k q (s.cyc t) c tier (s.winBase tier t) (if c.out then (s.qst k q).old else (s.qst k q).next) n
          (s.qreqAddr k sp)))]

theorem State.qreqEffs_keeps (s : State) (t k q : Nat) (sp : BitVec 5) (n : Nat) : ∀ e ∈ s.qreqEffs t k q sp n, e.2.keeps := by
  intro e he
  simp only [State.qreqEffs, List.mem_cons, List.not_mem_nil, or_false] at he
  obtain rfl | rfl := he
  · dsimp only
    split <;> exact Eff.keeps_of trivial
  · exact Eff.keeps_of trivial

/-- A QREQ with entries enough and all its bytes inside the task's window. -/
theorem State.qreqCore_served (henough : n ≤ s.askable k q.toNat)
    (hwin : ∀ tier, (s.qcfg k q.toNat).tier = some tier → s.qreqAddr k sp + n * (s.qcfg k q.toNat).esize ≤ s.winBound tier t) :
    s.qreqCore t q.toNat sp.toNat n lc k = .ok (s.qreqEffs t k q.toNat sp n) := by
  unfold State.askable at henough
  unfold State.qreqAddr at hwin
  unfold State.qreqCore State.qreqEffs
  simp only [BitVec.ofNat_toNat, BitVec.setWidth_eq, if_neg (not_lt.2 henough), State.qreqAddr]
  cases htier : (s.qcfg k q.toNat).tier with
  | none => rfl
  | some tier => exact if_neg (not_lt.2 (hwin tier htier))

/-- A QREQ with too few entries is misuse, wherever its bytes lie (R222). -/
theorem State.qreqCore_misused (hfew : s.askable k q.toNat < n) :
    s.qreqCore t q.toNat sp.toNat n lc k = .error (.misuse lc q.toNat (s.qcfg k q.toNat).base 2) := if_pos hfew

/-! ### The operations -/

@[simp] theorem State.queueFaults_nil (s : State) (t : Nat) : s.queueFaults t [] = s := rfl

/-- Too few entries are raised as QUE_MISUSE, not as QUE_BOUND (R216, R222). -/
theorem State.queueFaults_tooFew (s : State) (t lc q a : Nat) :
    s.queueFaults t [.misuse lc q a 2] = s.accFault t false (.misuse lc q a 2) := State.accFaults_singleton s t false _

/-- Effects posted after noted reads, in a table that then stays busy. -/
theorem State.OwesNothing.post_busyFor {u : State} {t slot m : Nat} {pc : BitVec 17} {chk : Bool} {es : List (Nat × Eff)}
    (hu : Ok cmds u) (hn : s.OwesNothing u t) (hk : ∀ e ∈ es, e.2.keeps) : s.Owes ((u.post t slot pc chk es).busyFor t m) t es := by
  have hpost := hn.post (slot := slot) (pc := pc) (chk := chk) hu.tables_.1 hk
  have hbusy := State.busyFor_owesNothing (State.post_ok (t := t) (slot := slot) (pc := pc) (checked := chk) (es := es) hu).tables_.1 t m
  exact ⟨hpost.only.trans hbusy.only, hbusy.owed.trans hpost.owed, fun e he => (hpost.busy e he).trans hbusy.later⟩

/-- QREQ where every acting core is served and every granule reaches memory. -/
theorem exec_qreq_owes (hs : Ok cmds s) (hi : s.issue h slotT = .go s1) (hw : (Instr.qreq h q sp n1).wf = true)
    {es : Nat → List (Nat × Eff)} (hk : ∀ e ∈ s1.inActors h es, e.2.keeps)
    (hserved : ∀ x ∈ s1.actors h, s1.qreqCore h.table q.toNat sp.toNat (n1.toNat + 1) x.1 x.2 = .ok (es x.2))
    (hgone : s1.goneUnit (s1.inActors h es) = none) :
    ∃ t, exec (.qreq h q sp n1) s = .next t ∧ s1.Owes t h.table (s1.inActors h es) := by
  have hs1 := State.issue_go_ok hs hi
  refine ⟨_, (slotOp_go hw hi :), ?_⟩
  unfold State.inActors at hgone hk ⊢
  simp only [List.map_congr_left hserved, List.flatMap_map, List.filterMap_map, Function.comp_def, List.filterMap_none, hgone,
    State.flatMap_dropGone hgone, State.queueFaults_nil]
  exact (State.noteReads_owesNothing hs1 _ _ _ _).post_busyFor (State.noteReads_ok hs1) hk

/-- QREQ of the only acting core, with too few entries. -/
theorem exec_qreq_misused (hs : Ok cmds s) (hi : s.issue h slotT = .go s1) (hw : (Instr.qreq h q sp n1).wf = true)
    (hx : s1.actors h = [x]) (hfew : s1.askable x.2 q.toNat < n1.toNat + 1) :
    ∃ u, s1.Owes u h.table [] ∧
      exec (.qreq h q sp n1) s = .next (u.accFault h.table false (.misuse x.1 q.toNat (s1.qcfg x.2 q.toNat).base 2)) := by
  have hs1 := State.issue_go_ok hs hi
  refine ⟨_, (State.noteReads_owesNothing hs1 h.table slotT h.pc [locS x.2 sp, locS x.2 (sp + 1)]).post_busyFor (slot := slotT) (m := 2)
    (pc := h.pc) (chk := true) (State.noteReads_ok hs1) (fun _ he => absurd he List.not_mem_nil), (slotOp_go hw hi).trans ?_⟩
  simp only [hx, List.map_cons, List.map_nil, State.qreqCore_misused hfew, ← State.queueFaults_tooFew]
  rfl

/-- QREL where every acting core holds the entries. -/
theorem exec_qrel_owes (hs : Ok cmds s) (hi : s.issue h slotT = .go s1) (hm : m ≠ 0)
    (hheld : ∀ x ∈ s1.actors h, m.toNat ≤ (s1.qst x.2 q.toNat).held) :
    ∃ t, exec (.qrel h q m) s = .next t ∧
      s1.Owes t h.table (s1.inActors h (fun k => [(1, .qmove k q.toNat m.toNat 0 0 (-m.toNat : Int) 0 m.toNat)])) := by
  have hs1 := State.issue_go_ok hs hi
  have hall : (s1.actors h).filter (fun x => decide (m.toNat ≤ (s1.qst x.2 q.toNat).held)) = s1.actors h :=
    List.filter_eq_self.2 fun x hx => decide_eq_true (hheld x hx)
  have hnone : (s1.actors h).filter (fun x => !decide (m.toNat ≤ (s1.qst x.2 q.toNat).held)) = [] :=
    List.filter_eq_nil_iff.2 fun x hx => by simp [hheld x hx]
  refine ⟨_, (slotOp_go (bne_iff_ne.2 hm) hi :), ?_⟩
  simp only [hall, hnone, List.map_nil, State.accFaults_nil, State.inActors, ← List.map_eq_flatMap]
  refine (State.OwesNothing.refl s1 h.table).post_busyFor hs1 fun e he => ?_
  obtain ⟨x, -, rfl⟩ := List.mem_map.1 he
  exact Eff.keeps_of trivial

/-- QREL of the only acting core, with too few entries held. -/
theorem exec_qrel_misused (hs : Ok cmds s) (hi : s.issue h slotT = .go s1) (hm : m ≠ 0) (hx : s1.actors h = [x])
    (hfew : (s1.qst x.2 q.toNat).held < m.toNat) :
    ∃ u, s1.Owes u h.table [] ∧
      exec (.qrel h q m) s = .next (u.accFault h.table false (.misuse x.1 q.toNat (s1.qcfg x.2 q.toNat).base 3)) := by
  refine ⟨_, (State.OwesNothing.refl s1 h.table).post_busyFor (slot := slotT) (m := 2) (pc := h.pc) (chk := true)
    (State.issue_go_ok hs hi) (fun _ he => absurd he List.not_mem_nil), (slotOp_go (bne_iff_ne.2 hm) hi).trans ?_⟩
  simp [hx, hfew]

/-- Settles O24: with entries enough every acting core is served by `State.qreqCore_served`; with too few the only core is refused. -/
theorem queueOperations : Obligations.QueueOperations := by
  unfold Obligations.QueueOperations
  refine ⟨fun s s1 h q sp n1 n es hcan hi => ⟨fun hw hes hgone => ?_, exec_qrel_owes hcan.ok hi⟩,
    fun s s1 h q sp n1 n x hcan hi hx => ⟨fun hw => exec_qreq_misused hcan.ok hi hw hx, fun hn => exec_qrel_misused hcan.ok hi hn hx⟩⟩
  have heffs : ∀ x ∈ s1.actors h, es x.2 = s1.qreqEffs h.table x.2 q.toNat sp (n1.toNat + 1) := fun x hx => (hes x hx).2.2
  refine exec_qreq_owes hcan.ok hi hw ?_ (fun x hx => ?_) hgone
  · rw [State.inActors_congr (g := fun k => s1.qreqEffs h.table k q.toNat sp (n1.toNat + 1)) heffs]
    exact State.inActors_keeps fun k => State.qreqEffs_keeps s1 h.table k q.toNat sp (n1.toNat + 1)
  · obtain ⟨henough, hwin, -⟩ := hes x hx
    rw [heffs x hx]
    exact State.qreqCore_served henough hwin

end Sys2Proof.Machine
end

section
/-!
DMA channels (R232 to R235): a timer that fires, a repetition that starts, one that completes, and STOP.
-/
namespace Sys2Proof.SMap

variable {α : Type} [DecidableEq α] {d : α} {m : SMap α} {k : Nat}

/-- A write below every listed key. -/
theorem set_of_lt (h : ∀ x ∈ m, k < x.1) (v : α) : SMap.set d m k v = if v = d then m else (k, v) :: m := by
  cases m with
  | nil => rfl
  | cons x m =>
    have hk : k < x.1 := h x List.mem_cons_self
    simp [SMap.set, hk, hk.ne]

/-- Of two writes of one key the second stands. -/
theorem set_set (h : SMap.wf d m = true) (v w : α) : SMap.set d (SMap.set d m k v) k w = SMap.set d m k w := by
  induction m with
  | nil => by_cases hv : v = d <;> simp [SMap.set, hv]
  | cons x m ih =>
    obtain ⟨j, u⟩ := x
    obtain ⟨-, hlt, hm⟩ := wf_cons.1 h
    obtain hk | rfl | hk := Nat.lt_trichotomy k j
    · by_cases hv : v = d <;> simp [SMap.set, hk, hk.ne, hv]
    · by_cases hv : v = d
      · simp [SMap.set, hv, set_of_lt hlt]
      · simp [SMap.set, hv]
    · simp [SMap.set, hk.ne', hk.not_gt, ih hm]

end Sys2Proof.SMap

namespace Sys2Proof.Machine

variable {s : State} {blk ch j n : Nat} {d : Desc}

/-- A fold in which only one element does anything is one step. -/
theorem foldl_eq_of_only {α β : Type} {f : α → β → α} {l : List β} {a : α} {b : β} (hl : l.Nodup) (hb : b ∈ l)
    (hbefore : ∀ x ∈ l, x ≠ b → f a x = a) (hafter : ∀ x ∈ l, x ≠ b → f (f a b) x = f a b) : l.foldl f a = f a b := by
  obtain ⟨l1, l2, rfl⟩ := List.append_of_mem hb
  obtain ⟨-, hl2, hdisj⟩ := List.nodup_append.1 hl
  have h1 : l1.foldl f a = a := List.foldlRecOn (motive := (· = a)) l1 f rfl fun u hu x hx => by
    rw [hu]
    exact hbefore x (List.mem_append_left _ hx) (hdisj x hx b List.mem_cons_self)
  have h2 : l2.foldl f (f a b) = f a b := List.foldlRecOn (motive := (· = f a b)) l2 f rfl fun u hu x hx => by
    rw [hu]
    exact hafter x (List.mem_append_right _ (List.mem_cons_of_mem _ hx)) fun e => (List.nodup_cons.1 hl2).1 (e ▸ hx)
  rw [List.foldl_append, h1, List.foldl_cons, h2]

/-! ### Channels and their descriptors -/

/-- Functions that agree on a channel change it alike. -/
theorem State.modDma_congr {k : Nat} {f g : DmaChan → DmaChan} (h : f (s.dmaCh k) = g (s.dmaCh k)) : s.modDma k f = s.modDma k g := by
  simp only [State.modDma, SMap.modify]
  rw [show f (SMap.get DmaChan.reset s.dma k) = g (SMap.get DmaChan.reset s.dma k) from h]

theorem State.modDma_wf (hs : SMap.wf DmaChan.reset s.dma = true) (k : Nat) (f : DmaChan → DmaChan) :
    SMap.wf DmaChan.reset (s.modDma k f).dma = true := SMap.wf_modify k f hs

/-- Two changes of one channel are one change. -/
theorem State.modDma_modDma (hs : SMap.wf DmaChan.reset s.dma = true) (k : Nat) (f g : DmaChan → DmaChan) :
    (s.modDma k f).modDma k g = s.modDma k (fun c => g (f c)) := by
  simp only [State.modDma, SMap.modify, SMap.get_set_same hs, SMap.set_set hs]

/-- A change that keeps the register of a channel keeps its head descriptor (R232). -/
theorem State.headDesc_modDma (hs : SMap.wf DmaChan.reset s.dma = true) {f : DmaChan → DmaChan}
    (hf : (f (s.dmaCh (dmaKey blk ch))).ctl = (s.dmaCh (dmaKey blk ch)).ctl) :
    (s.modDma (dmaKey blk ch) f).headDesc blk ch = s.headDesc blk ch := by
  simp only [State.headDesc, State.dmaCh_modDma hs, if_pos, hf, State.modDma_descs]

theorem dmaKey_ne {x : Nat} (h : x ≠ ch) : dmaKey blk x ≠ dmaKey blk ch := by
  unfold dmaKey
  omega

/-! ### Timers (R233) -/

/-- A timer's firing for one channel: nothing, unless it waits for the timer. -/
def State.fireChannel (s : State) (blk n ch : Nat) : State :=
  match (s.dmaCh (dmaKey blk ch)).job with
  | none => s
  | some j =>
    if (s.dmaCh (dmaKey blk ch)).state ≠ 1 ∨ ¬ (s.dmaCh (dmaKey blk ch)).ctl.getLsbD 10 ∨ (s.headDesc blk ch).start ≠ 1 ∨
      (s.headDesc blk ch).ev ≠ n then s else s.takeFiring blk ch j (s.headDesc blk ch)

/-- The network cycle of a firing noted. -/
def State.noteFiring (s : State) (blk n : Nat) : State :=
  { s with mem := { s.mem with firedNet := SMap.set 0 s.mem.firedNet (32 * blk + n) (s.net (dmaRegion blk) + 1) } }

theorem State.fireTimer_eq (s : State) (blk n : Nat) :
    s.fireTimer blk n = (List.range 128).foldl (fun acc ch => acc.fireChannel blk n ch) (s.noteFiring blk n) := rfl

theorem State.fireChannel_of_no_job (h : (s.dmaCh (dmaKey blk ch)).job = none) : s.fireChannel blk n ch = s := by
  simp only [State.fireChannel, h]

/-- A channel that waits for the timer that fires (R232). -/
structure State.WaitsTimer (s : State) (blk n ch j : Nat) : Prop where
  job   : (s.dmaCh (dmaKey blk ch)).job = some j
  await : (s.dmaCh (dmaKey blk ch)).state = 1
  run   : (s.dmaCh (dmaKey blk ch)).ctl.getLsbD 10 = true
  start : (s.headDesc blk ch).start = 1
  ev    : (s.headDesc blk ch).ev = n

theorem State.WaitsTimer.fireChannel (h : s.WaitsTimer blk n ch j) :
    s.fireChannel blk n ch = s.takeFiring blk ch j (s.headDesc blk ch) := by
  simp [State.fireChannel, h.job, h.await, h.run, h.start, h.ev]

/-- What a firing makes of the channel that waits for it. -/
theorem State.takeFiring_eq (s : State) (blk ch j : Nat) (d : Desc) :
    s.takeFiring blk ch j d = s.modDma (dmaKey blk ch) (fun c => if s.queueReady j d then { c with evSeen := true }
      else { c with miss := if c.miss = 0xFF then c.miss else c.miss + 1 }) := by
  unfold State.takeFiring
  cases s.queueReady j d <;> rfl

/-- Where only one channel has a job, a firing is that channel's. -/
theorem State.fireTimer_only (hs : SMap.wf DmaChan.reset s.dma = true) (hch : ch < 128) (h : s.WaitsTimer blk n ch j)
    (hothers : ∀ i, i ≠ dmaKey blk ch → (s.dmaCh i).job = none) :
    s.fireTimer blk n = (s.noteFiring blk n).takeFiring blk ch j (s.headDesc blk ch) := by
  have hown : (s.noteFiring blk n).fireChannel blk n ch = (s.noteFiring blk n).takeFiring blk ch j (s.headDesc blk ch) :=
    State.WaitsTimer.fireChannel (s := s.noteFiring blk n) ⟨h.job, h.await, h.run, h.start, h.ev⟩
  rw [State.fireTimer_eq, foldl_eq_of_only List.nodup_range (List.mem_range.2 hch) (fun x _ hx => ?_) (fun x _ hx => ?_), hown]
  · exact State.fireChannel_of_no_job (hothers _ (dmaKey_ne hx))
  · rw [hown, State.takeFiring_eq]
    refine State.fireChannel_of_no_job ?_
    rw [State.dmaCh_modDma (s := s.noteFiring blk n) hs, if_neg (dmaKey_ne hx)]
    exact hothers _ (dmaKey_ne hx)

/-- The tick of a firing noted, so that the timer fires once in it. -/
def State.noteTick (s : State) (blk n : Nat) : State :=
  { s with mem := { s.mem with fired := SMap.set 0 s.mem.fired (32 * blk + n) (s.beacon + 1) } }

/-- A timer fires in a tick of its period and phase, once, while the die's region runs. -/
theorem exec_dmaTimer_fires {period phase : Nat} (hblk : blk < 10) (hn : n < 32)
    (ht : SMap.get (0, 0) s.recs.timers (32 * blk + n) = (period, phase)) (hper : 0 < period) (hph : phase ≤ s.beacon)
    (htick : (s.beacon - phase) % period = 0) (honce : SMap.get 0 s.mem.fired (32 * blk + n) ≠ s.beacon + 1)
    (hstop : s.stopped (dmaRegion blk) = false) :
    exec (.dmaTimer blk n) s = .next ((s.noteTick blk n).fireTimer blk n) := by
  have hfires : ¬ (10 ≤ blk ∨ 32 ≤ n ∨ period = 0 ∨ s.beacon < phase ∨ (s.beacon - phase) % period ≠ 0 ∨
      SMap.get 0 s.mem.fired (32 * blk + n) = s.beacon + 1) := by
    simp only [not_or, not_le, not_lt, not_not]
    exact ⟨hblk, hn, hper.ne', hph, htick, honce⟩
  change execDmaTimer blk n s = _
  simp only [execDmaTimer, ht, if_neg hfires]
  exact congrArg Host.Outcome.next (if_pos (Bool.eq_false_iff.1 hstop))

/-! ### The start of a repetition (R232, R236) -/

/-- The head repetition of a channel of job `j` waits for nothing but its start event: the channel runs without STOP in a region that runs, and
the queues that it moves are ready (R232, R235). -/
structure State.Startable (s : State) (blk ch j : Nat) : Prop where
  job     : (s.dmaCh (dmaKey blk ch)).job = some j
  await   : (s.dmaCh (dmaKey blk ch)).state = 1
  run     : (s.dmaCh (dmaKey blk ch)).ctl.getLsbD 10 = true
  noStop  : (s.dmaCh (dmaKey blk ch)).ctl.getLsbD 11 = false
  running : s.stopped (dmaRegion blk) = false
  queues  : s.queueReady j (s.headDesc blk ch) = true

/-- A startable repetition that waits for no event starts: its granules, if it moves no queue entry and sends no message, are on their way. -/
theorem State.Startable.exec_moves {rows : List (Place × Place)} (h : s.Startable blk ch j) (hd : d = s.headDesc blk ch)
    (hstart : d.start = 0) (hlen : 0 < d.len) (hdsp : d.dsp ≠ 6) (hmsg : d.isMsg = false)
    (hrows : s.repRows j (s.dmaCh (dmaKey blk ch)).home d (s.dmaCh (dmaKey blk ch)) = some rows) :
    exec (.dmaRepetitionStart blk ch) s = .next { s.modDma (dmaKey blk ch) (fun c => { c with
        state := 2, evSeen := false, startNet := s.net (dmaRegion blk) + 1 }) with
      mem := { s.mem with granules := s.mem.granules ++ rows.flatMap (fun x =>
        rowGranules (.dma blk ch) none d.len x.1 x.2 (if d.ssp = 0 then some (s.dmaCh (dmaKey blk ch)).sAddr.toNat else none)) } } := by
  subst hd
  have hstarts : ¬ ((s.dmaCh (dmaKey blk ch)).state ≠ 1 ∨ ¬ (s.dmaCh (dmaKey blk ch)).ctl.getLsbD 10 = true ∨
      (s.dmaCh (dmaKey blk ch)).ctl.getLsbD 11 = true ∨ s.stopped (dmaRegion blk) = true ∨
      ¬ s.queueReady j (s.headDesc blk ch) = true) := by
    simp only [h.await, h.run, h.noStop, h.running, h.queues, ne_eq, not_true_eq_false, Bool.false_eq_true, or_self, not_false_eq_true]
  have hevent : s.startEvent blk ch j (s.headDesc blk ch) = some s := by simp only [State.startEvent, hstart]
  -- the rows are read off the state as it was: the start of the channel changes none of what they rest on
  have hrows' : ∀ f, (s.modDma (dmaKey blk ch) f).repRows j (s.dmaCh (dmaKey blk ch)).home (s.headDesc blk ch)
      (s.dmaCh (dmaKey blk ch)) = some rows := fun _ => hrows
  change execDmaRepetitionStart blk ch s = _
  simp only [execDmaRepetitionStart, h.job, if_neg hstarts, hevent, if_neg hlen.ne', hrows', State.takeEntries, if_pos hdsp, hmsg,
    Bool.false_eq_true, if_false, State.modDma_mem]

/-! ### Completion (R234) -/

theorem exec_dmaRepetitionComplete_of_job (hjob : (s.dmaCh (dmaKey blk ch)).job = some j) :
    exec (.dmaRepetitionComplete blk ch) s = .next (if (s.dmaCh (dmaKey blk ch)).state ≠ 2 ∨ s.repBusy blk ch = true ∨
      s.repStopped blk j (s.headDesc blk ch) = true then s else s.completeRep blk ch j (s.headDesc blk ch)) := by
  change execDmaRepetitionComplete blk ch s = _
  simp only [execDmaRepetitionComplete, hjob]

/-- A repetition of no queue and no signal completes where its own region runs (R315). -/
theorem State.repStopped_plain (hdsp : d.dsp ≠ 6) (hssp : d.ssp ≠ 6) (hsig : d.sig = false) (blk j : Nat) :
    s.repStopped blk j d = s.stopped (dmaRegion blk) := by
  simp only [State.repStopped, beq_false_of_ne hdsp, beq_false_of_ne hssp, hsig, Bool.false_and, Bool.or_false]

theorem State.completeRep_plain (hdsp : d.dsp ≠ 6) (hssp : d.ssp ≠ 6) (hsig : d.sig = false) (blk ch j : Nat) :
    s.completeRep blk ch j d = (s.countCompletion blk ch).nextRep blk ch d := by
  simp [State.completeRep, State.doneEntries, hdsp, hssp, hsig]

/-- A completion counted. -/
def DmaChan.counted (c : DmaChan) : DmaChan := { c with cmpTask := c.cmpTask + 1, cmpChan := c.cmpChan + 1 }

/-- The next repetition of a descriptor, unless STOP is set (R235). -/
def DmaChan.further (d : Desc) (c : DmaChan) : DmaChan :=
  { c with
    repN := c.repN + 1, evSeen := false
    sAddr := BitVec.ofNat 64 (stepAddr c.sAddr.toNat d.srstr), dAddr := BitVec.ofNat 64 (stepAddr c.dAddr.toNat d.drstr)
    state := if c.ctl.getLsbD 11 then 3 else 1 }

theorem State.countCompletion_below (htask : (s.dmaCh (dmaKey blk ch)).cmpTask.toNat < 0xFFFF)
    (hchan : (s.dmaCh (dmaKey blk ch)).cmpChan.toNat < 0xFFFF) :
    s.countCompletion blk ch = s.modDma (dmaKey blk ch) DmaChan.counted := by
  have ht : (s.dmaCh (dmaKey blk ch)).cmpTask ≠ 0xFFFF := fun e => absurd htask (by rw [e]; decide)
  have hc : (s.dmaCh (dmaKey blk ch)).cmpChan ≠ 0xFFFF := fun e => absurd hchan (by rw [e]; decide)
  unfold State.countCompletion
  simp only [ht, hc, or_self, if_false]
  exact State.modDma_congr (by simp only [ht, hc, if_false, DmaChan.counted])

/-- A head whose timer has not fired in its network cycle has no event yet (R232). -/
theorem State.headEvent_of_unfired
    (h : (s.headDesc blk ch).start ≠ 1 ∨ SMap.get 0 s.mem.firedNet (32 * blk + (s.headDesc blk ch).ev) ≠ s.net (dmaRegion blk) + 1) :
    s.headEvent blk ch = s := by
  unfold State.headEvent
  dsimp only
  split
  · rfl
  · exact if_neg fun ⟨_, hstart, hfired⟩ => h.elim (· hstart) (· hfired)

theorem State.nextRep_further (hs : SMap.wf DmaChan.reset s.dma = true) (hd : d = s.headDesc blk ch)
    (hmore : (s.dmaCh (dmaKey blk ch)).repN.toNat + 1 < d.rep)
    (hevent : d.start ≠ 1 ∨ SMap.get 0 s.mem.firedNet (32 * blk + d.ev) ≠ s.net (dmaRegion blk) + 1) :
    s.nextRep blk ch d = s.modDma (dmaKey blk ch) (DmaChan.further d) := by
  subst hd
  have hhead : (s.modDma (dmaKey blk ch) (DmaChan.further (s.headDesc blk ch))).headDesc blk ch = s.headDesc blk ch :=
    State.headDesc_modDma hs rfl
  have hone : s.nextRep blk ch (s.headDesc blk ch) =
      (s.modDma (dmaKey blk ch) (DmaChan.further (s.headDesc blk ch))).headEvent blk ch := by
    simp only [State.nextRep, hmore, decide_true, if_true, true_or, State.modDma_modDma hs]
    rfl
  rw [hone, State.headEvent_of_unfired]
  rw [hhead]
  exact hevent

/-- A completion of a repetition with one more to come. -/
theorem State.completeRep_further (hs : SMap.wf DmaChan.reset s.dma = true) (hd : d = s.headDesc blk ch) (hdsp : d.dsp ≠ 6) (hssp : d.ssp ≠ 6)
    (hsig : d.sig = false) (htask : (s.dmaCh (dmaKey blk ch)).cmpTask.toNat < 0xFFFF)
    (hchan : (s.dmaCh (dmaKey blk ch)).cmpChan.toNat < 0xFFFF) (hmore : (s.dmaCh (dmaKey blk ch)).repN.toNat + 1 < d.rep)
    (hevent : d.start ≠ 1 ∨ SMap.get 0 s.mem.firedNet (32 * blk + d.ev) ≠ s.net (dmaRegion blk) + 1) (j : Nat) :
    s.completeRep blk ch j d = s.modDma (dmaKey blk ch) (fun c => c.counted.further d) := by
  have hcounted : (s.modDma (dmaKey blk ch) DmaChan.counted).dmaCh (dmaKey blk ch) = (s.dmaCh (dmaKey blk ch)).counted := by
    rw [State.dmaCh_modDma hs, if_pos rfl]
  rw [State.completeRep_plain hdsp hssp hsig, State.countCompletion_below htask hchan, State.nextRep_further (State.modDma_wf hs _ _)
    (hd.trans (State.headDesc_modDma hs rfl).symm) (by rw [hcounted]; exact hmore) hevent, State.modDma_modDma hs]

/-! ### STOP (R235) -/

theorem exec_stop_of_job (hblk : blk < 10) (hch : ch < if blk < 8 then 128 else 16)
    (hjob : (s.dmaCh (dmaKey blk ch)).job = some j) : exec (.stop blk ch) s =
      .next ((if (s.dmaCh (dmaKey blk ch)).state = 2 ∧ (s.dmaCh (dmaKey blk ch)).startNet = s.net (dmaRegion blk) + 1
        then s.unstart blk ch j (s.headDesc blk ch) else s).modDma (dmaKey blk ch) DmaChan.stop) := by
  change execStop blk ch s = _
  simp only [execStop, if_neg (not_or.2 ⟨not_le.2 hblk, not_le.2 hch⟩), hjob]

/-- STOP of a channel of a job: bit 11 of its register, and its state unless it moves a repetition. -/
theorem State.modDma_stop {k : Nat} (hjob : (s.dmaCh k).job = some j) : s.modDma k DmaChan.stop =
    s.modDma k (fun c => { c with ctl := c.ctl ||| 0x800, state := if c.state = 2 then 2 else 3 }) :=
  State.modDma_congr (by simp [DmaChan.stop, hjob])

/-- The state without the granules of a channel. -/
def State.withoutGranules (s : State) (blk ch : Nat) : State :=
  { s with mem := { s.mem with granules := s.mem.granules.filter (fun g => !decide (g.owner = .dma blk ch)) } }

/-- The inbound entries that a repetition took as it started, FREE again. -/
def State.returnEntries (s : State) (j : Nat) (d : Desc) : State :=
  if d.dsp ≠ 6 then s else
    (s.sideCores j d.dtab d.dcore d.dcnt).foldl (fun acc x => acc.qmove x.2 d.dq 1 (-1) 0 0 ((acc.qcfg x.2 d.dq).nent - 1) 0) s

/-- The completion that a follower consumed as it started, given back. -/
def State.returnCompletion (s : State) (j : Nat) (d : Desc) : State :=
  if d.start < 2 then s else match s.jobChannel j d.ev with
    | none => s
    | some f => s.modDma f (fun x => { x with cmpChan := x.cmpChan + 1 })

/-- A channel whose repetition has not started after all. -/
def DmaChan.unstarted (d : Desc) (c : DmaChan) : DmaChan := { c with state := 1, evSeen := decide (d.start = 1), msgBuf := [], startNet := 0 }

/-- All that a repetition took as it started given back, but for the state of its channel. -/
def State.withdrawn (s : State) (blk ch j : Nat) (d : Desc) : State :=
  ((s.withoutGranules blk ch).returnEntries j d).returnCompletion j d

theorem State.unstart_eq (s : State) (blk ch j : Nat) (d : Desc) :
    s.unstart blk ch j d = (s.withdrawn blk ch j d).modDma (dmaKey blk ch) (DmaChan.unstarted d) := rfl

/-- Queue entries stand in registers. -/
theorem State.returnEntries_frame (s : State) (j : Nat) (d : Desc) : { s.returnEntries j d with csr := s.csr } = s := by
  unfold State.returnEntries
  split
  · rfl
  · exact foldl_keeps (P := fun u : State => { u with csr := s.csr } = s) rfl fun _ _ h => h

/-- Only a count of completions changes. -/
theorem State.returnCompletion_cases (s : State) (j : Nat) (d : Desc) : s.returnCompletion j d = s ∨
    ∃ f, s.returnCompletion j d = s.modDma f (fun x => { x with cmpChan := x.cmpChan + 1 }) := by
  unfold State.returnCompletion
  split
  · exact .inl rfl
  · split
    · exact .inl rfl
    · exact .inr ⟨_, rfl⟩

theorem State.returnCompletion_frame (s : State) (j : Nat) (d : Desc) : { s.returnCompletion j d with dma := s.dma } = s := by
  obtain h | ⟨f, h⟩ := s.returnCompletion_cases j d <;> rw [h]
  rfl

theorem State.returnCompletion_wf (hs : SMap.wf DmaChan.reset s.dma = true) (j : Nat) (d : Desc) :
    SMap.wf DmaChan.reset (s.returnCompletion j d).dma = true := by
  obtain h | ⟨f, h⟩ := s.returnCompletion_cases j d <;> rw [h]
  · exact hs
  · exact State.modDma_wf hs f _

theorem State.dmaCh_returnCompletion (hs : SMap.wf DmaChan.reset s.dma = true) (j : Nat) (d : Desc) (k : Nat) :
    { (s.returnCompletion j d).dmaCh k with cmpChan := (s.dmaCh k).cmpChan } = s.dmaCh k := by
  obtain h | ⟨f, h⟩ := s.returnCompletion_cases j d
  · rw [h]
  · rw [h, State.dmaCh_modDma hs]
    split
    · next e => rw [e]
    · rfl

theorem State.withdrawn_mem (s : State) (blk ch j : Nat) (d : Desc) : (s.withdrawn blk ch j d).mem = (s.withoutGranules blk ch).mem :=
  (congrArg State.mem (State.returnCompletion_frame _ j d) :).trans (congrArg State.mem (State.returnEntries_frame _ j d) :)

theorem State.returnEntries_dma (s : State) (j : Nat) (d : Desc) : (s.returnEntries j d).dma = s.dma :=
  (congrArg State.dma (s.returnEntries_frame j d) :)

theorem State.withdrawn_wf (hs : SMap.wf DmaChan.reset s.dma = true) (blk ch j : Nat) (d : Desc) :
    SMap.wf DmaChan.reset (s.withdrawn blk ch j d).dma = true :=
  State.returnCompletion_wf (((s.withoutGranules blk ch).returnEntries_dma j d).symm ▸ hs) j d

/-- What is given back changes no channel but in its count of completions. -/
theorem State.dmaCh_withdrawn (hs : SMap.wf DmaChan.reset s.dma = true) (blk ch j : Nat) (d : Desc) (k : Nat) :
    { (s.withdrawn blk ch j d).dmaCh k with cmpChan := (s.dmaCh k).cmpChan } = s.dmaCh k := by
  have hdma := (s.withoutGranules blk ch).returnEntries_dma j d
  have hold : ((s.withoutGranules blk ch).returnEntries j d).dmaCh k = s.dmaCh k := congrArg (SMap.get DmaChan.reset · k) hdma
  have hsame := State.dmaCh_returnCompletion (hdma.symm ▸ hs) j d k
  rwa [hold] at hsame

/-- A channel told to stop as its repetition starts has not started it, and none of its granules is left. -/
theorem State.stop_unstart (hs : SMap.wf DmaChan.reset s.dma = true) (hjob : (s.dmaCh (dmaKey blk ch)).job = some j) (d : Desc) :
    let t := (s.unstart blk ch j d).modDma (dmaKey blk ch) DmaChan.stop
    (t.dmaCh (dmaKey blk ch)).state = 3 ∧ (t.dmaCh (dmaKey blk ch)).ctl = (s.dmaCh (dmaKey blk ch)).ctl ||| 0x800 ∧
      t.mem = (s.withoutGranules blk ch).mem := by
  have hsame := State.dmaCh_withdrawn hs blk ch j d (dmaKey blk ch)
  have hjob' : ((s.withdrawn blk ch j d).dmaCh (dmaKey blk ch)).job = some j := (congrArg DmaChan.job hsame :).trans hjob
  have hctl : ((s.withdrawn blk ch j d).dmaCh (dmaKey blk ch)).ctl = (s.dmaCh (dmaKey blk ch)).ctl := (congrArg DmaChan.ctl hsame :)
  have hchan := State.dmaCh_modDma (State.withdrawn_wf hs blk ch j d) (dmaKey blk ch) (dmaKey blk ch) fun c => (c.unstarted d).stop
  rw [if_pos rfl] at hchan
  dsimp only
  rw [State.unstart_eq, State.modDma_modDma (State.withdrawn_wf hs blk ch j d), hchan]
  refine ⟨?_, congrArg (· ||| 0x800) hctl, s.withdrawn_mem blk ch j d⟩
  simp [DmaChan.stop, DmaChan.unstarted, hjob']

/-- Settles O37: the timer's one waiting channel takes the firing, by `State.fireTimer_only`; a start by `State.Startable.exec_moves`; a
completion by `State.completeRep_further`; and STOP leaves a repetition of its own cycle unstarted, by `State.stop_unstart`. -/
theorem dmaRuns : Obligations.DmaRuns := by
  unfold Obligations.DmaRuns
  rintro s blk ch j c d hcan hblk hch rfl rfl hjob
  have hwf := hcan.ok.dma_
  refine ⟨fun tmr period phase htmr ht hper hph htick honce hstop hst hrun hstart hev hothers => ?_,
    fun rows hst hrun hgo hstop hq hstart hlen hdsp hmsg hrows =>
      State.Startable.exec_moves ⟨hjob, hst, hrun, hgo, hstop, hq⟩ rfl hstart hlen hdsp hmsg hrows,
    fun hst hbusy hstop hevent hdsp hssp hsig htask hchan hmore => ?_, fun _ hbusy => ?_, fun hnot => ?_, fun hst hnet => ?_⟩
  · have hch128 : ch < 128 := hch.trans_le (by split <;> decide)
    rw [exec_dmaTimer_fires hblk htmr ht hper hph htick honce hstop,
      State.fireTimer_only (s := s.noteTick blk tmr) hwf hch128 ⟨hjob, hst, hrun, hstart, hev⟩ hothers, State.takeFiring_eq]
    rfl
  · rw [exec_dmaRepetitionComplete_of_job hjob, if_neg (by simp [hst, hbusy, State.repStopped_plain hdsp hssp hsig, hstop]),
      State.completeRep_further hwf rfl hdsp hssp hsig htask hchan hmore hevent]
    rfl
  · rw [exec_dmaRepetitionComplete_of_job hjob, if_pos (.inr (.inl hbusy))]
  · rw [exec_stop_of_job hblk hch hjob, if_neg (not_and_or.2 hnot), State.modDma_stop hjob]
  · rw [exec_stop_of_job hblk hch hjob, if_pos ⟨hst, hnet⟩]
    obtain ⟨hstate, hctl, hmem⟩ := State.stop_unstart hwf hjob (s.headDesc blk ch)
    refine ⟨_, rfl, hstate, hctl, fun g hg => ?_⟩
    rw [hmem] at hg
    simpa using (List.mem_filter.1 hg).2

end Sys2Proof.Machine
end

section
/-!
SUPPORT. Frames of the host and their replies (R264, R270, R271, R279): a frame taken at once on a queue pair on which no frame waits, the reply that
goes out behind it, and what sending and replying leave unchanged.
-/
namespace Sys2Proof.Machine

variable {cmds : List Instr} {s : State} {n : Nat} {typ : BitVec 8} {tag : BitVec 32} {f : HostFrame} {lead : Nat}

/-! ### Queue pairs -/

/-- Two changes of one queue pair are one change. -/
theorem State.modQp_modQp (hq : SMap.wf QueuePair.reset s.host.qps = true) (n : Nat) (g h : QueuePair → QueuePair) :
    (s.modQp n g).modQp n h = s.modQp n (fun q => h (g q)) := by
  simp only [State.modQp, SMap.modify, SMap.get_set_same hq, SMap.set_set hq]

/-- A change that leaves a queue pair as it is changes nothing. -/
theorem State.modQp_eq_self (hq : SMap.wf QueuePair.reset s.host.qps = true) {g : QueuePair → QueuePair} (h : g (s.qp n) = s.qp n) :
    s.modQp n g = s := by
  have hset : SMap.modify QueuePair.reset s.host.qps n g = s.host.qps := SMap.set_of_get hq h.symm
  simp only [State.modQp, hset]

/-! ### What sending and replying leave unchanged -/

theorem State.send_frame (s : State) (x : HostTx) : { s.send x with host := s.host } = s := by
  unfold State.send
  split <;> rfl

theorem State.settle_frame (s : State) (n : Nat) (typ : BitVec 8) (tag : BitVec 32) (x : Option HostTx) :
    { s.settle n typ tag x with host := s.host } = s := by
  refine foldl_keeps (P := fun u : State => { u with host := s.host } = s) rfl fun u a h => ?_
  cases a.tx with
  | none => exact h
  | some y => exact (congrArg (fun v : State => { v with host := s.host }) (u.send_frame y)).trans h

/-- A reply changes the host port alone. -/
theorem State.answer_frame (s : State) (qpn : BitVec 24) (typ : BitVec 8) (tag : BitVec 32) (job : BitVec 8) (status : BitVec 16)
    (body : List Byte) : { s.answer qpn typ tag job status body with host := s.host } = s := s.settle_frame ..

/-! ### The reply to the only frame of a queue pair (R271, R279) -/

/-- A queue pair on which the frames `l` await their replies. -/
def QueuePair.awaiting (l : List Awaited) (q : QueuePair) : QueuePair := { q with order := l }

/-- A queue pair on which one frame awaits its reply. -/
def QueuePair.Expects (q : QueuePair) (typ : BitVec 8) (tag : BitVec 32) : Prop := q.state = 1 ∧ q.order = [⟨typ, tag, false, none⟩]

theorem State.order_modQp_awaiting (hq : SMap.wf QueuePair.reset s.host.qps = true) (n : Nat) (l : List Awaited) :
    ((s.modQp n (QueuePair.awaiting l)).qp n).order = l := by
  rw [State.qp_modQp hq, if_pos rfl]
  rfl

/-- The state with `x` sent. -/
def State.sent (s : State) (x : HostTx) : State := { s with host := { s.host with tx := s.host.tx ++ [x] } }

/-- The reply to the one frame that awaits it goes out at once. -/
theorem State.answer_expected (hq : SMap.wf QueuePair.reset s.host.qps = true) {qpn : BitVec 24} (hl : s.host.link = true)
    (h : (s.qp qpn.toNat).Expects typ tag) (job : BitVec 8) (status : BitVec 16) (body : List Byte) :
    s.answer qpn typ tag job status body = (s.sent (.frame qpn typ tag job status body)).modQp qpn.toNat (QueuePair.awaiting []) := by
  obtain ⟨hst, ho⟩ := h
  have hst' : ((s.modQp qpn.toNat (QueuePair.awaiting [])).qp qpn.toNat).state = 1 := by
    rw [State.qp_modQp hq, if_pos rfl]
    exact hst
  have hgo : (s.modQp qpn.toNat (QueuePair.awaiting [])).send (.frame qpn typ tag job status body) =
    (s.modQp qpn.toNat (QueuePair.awaiting [])).sent (.frame qpn typ tag job status body) := State.send_ready hst' hl
  simp only [State.answer, State.settle, ho, fillReply, Bool.false_eq_true, not_false_eq_true, and_self, if_true, List.dropWhile_cons,
    List.dropWhile_nil, List.takeWhile_cons, List.takeWhile_nil, List.foldl_cons, List.foldl_nil]
  exact hgo

/-- A frame taken where none awaits a reply is the only one that does. -/
theorem State.expect_first (ho : (s.qp n).order = []) : s.expect n typ tag = s.modQp n (QueuePair.awaiting [⟨typ, tag, false, none⟩]) := by
  have h : (s.qp n).order ++ [⟨typ, tag, false, none⟩] = [⟨typ, tag, false, none⟩] := by rw [ho]; rfl
  simp only [State.expect, State.modQp, SMap.modify]
  rw [show SMap.get QueuePair.reset s.host.qps n = s.qp n from rfl, h]
  rfl

theorem State.qp_expect_first (hq : SMap.wf QueuePair.reset s.host.qps = true) (ho : (s.qp n).order = []) :
    (s.expect n typ tag).qp n = (s.qp n).awaiting [⟨typ, tag, false, none⟩] := by
  rw [State.expect_first ho, State.qp_modQp hq, if_pos rfl]

/-! ### A frame taken at once -/

/-- The device with frame `f` taken: it awaits its reply. -/
def State.taking (s : State) (typ : BitVec 8) (f : HostFrame) : State := s.expect f.qpn.toNat (typ ||| 0x80) f.tag

theorem State.taking_ok (hs : Ok cmds s) (typ : BitVec 8) (f : HostFrame) : Ok cmds (s.taking typ f) := State.expect_ok hs

/-- The control queue pair is number 16 (R266). -/
theorem qpn_toNat_eq_iff (q : BitVec 24) : q.toNat = 16 ↔ q = 0x10 := BitVec.toNat_inj (y := 0x10)

/-- A frame that is taken at once is handled, and then awaits its reply (R264, R270, R271). -/
theorem State.hostFrame_taken (h : FrameTaken s typ lead f) (i : Instr) (act : State → State) :
    s.hostFrame i typ lead f act = act (s.taking typ f) := by
  obtain ⟨hlink, hready, hcalm, -, hunheld, ⟨hlen, hver, hstatus, hrsv⟩, hfits, hpath⟩ := h
  have hfits' : frameSize f lead ≤ bufferSize f.qpn.toNat := by
    simp only [bufferSize, qpn_toNat_eq_iff]
    exact hfits
  have hlen' : f.len.toNat = frameSize f lead := hlen
  have hheader : headerOk f lead = true := by simp [headerOk, hfits', hlen', hver, hstatus, hrsv]
  have hhost : hostType typ = true := by
    simp only [hostType, Bool.and_eq_true, decide_eq_true_eq]
    obtain ⟨-, htyp⟩ | ⟨-, hlo, hhi⟩ := hpath
    · simp only [List.mem_cons, List.not_mem_nil, or_false] at htyp
      omega
    · omega
  have hcarried : (!carried typ (f.qpn.toNat == 16) || (f.qpn.toNat != 16 && f.job.toNat + 256 != f.qpn.toNat)) = false := by
    obtain ⟨hqpn, htyp⟩ | ⟨hqpn, hlo, hhi⟩ := hpath
    · have hcontrol : carried typ true = true := List.contains_iff_mem.2 htyp
      simp [(qpn_toNat_eq_iff _).2 hqpn, hcontrol]
    · have hjob : carried typ false = true := List.contains_iff_mem.2 (by simp; omega)
      simp [hqpn, hjob, Nat.add_comm]
  have harrived : s.hostFrame i typ lead f act = s.takeFrame typ lead f act := by
    simp [State.hostFrame, State.arrived, hlink, hready, hcalm, hunheld]
  rw [harrived, State.takeFrame]
  simp only [hheader, hhost, hcarried, Bool.not_true, Bool.false_eq_true, if_false]
  rfl

theorem State.qp_taking (hq : SMap.wf QueuePair.reset s.host.qps = true) (h : FrameTaken s typ lead f) :
    (s.taking typ f).qp f.qpn.toNat = (s.qp f.qpn.toNat).awaiting [⟨typ ||| 0x80, f.tag, false, none⟩] := State.qp_expect_first hq h.first

/-- A frame taken and refused leaves only its reply. -/
theorem State.refuse_taking (hs : Ok cmds s) (h : FrameTaken s typ lead f) (code : BitVec 16) :
    (s.taking typ f).refuse typ f code = replied s typ f code [] := by
  have hqp := State.qp_taking hs.qps_ h
  have hreply := State.answer_expected (s := s.taking typ f) (typ := typ ||| 0x80) (tag := f.tag) (State.taking_ok hs typ f).qps_
    (qpn := f.qpn) h.link ⟨by rw [hqp]; exact h.ready, by rw [hqp]; rfl⟩ f.job code []
  have hback : ((s.taking typ f).modQp f.qpn.toNat (QueuePair.awaiting [])) = s := by
    rw [State.taking, State.expect_first h.first, State.modQp_modQp hs.qps_]
    refine State.modQp_eq_self hs.qps_ ?_
    rw [QueuePair.awaiting, QueuePair.awaiting, ← h.first]
  exact hreply.trans (congrArg (fun u : State => u.sent (.frame f.qpn (typ ||| 0x80) f.tag f.job code [])) hback)

end Sys2Proof.Machine
end

section
/-!
PAUSE, RESUME, DETACH and ABORT of a job that can take them (R251 to R253, R259), and JOB_PAUSED: what each makes of the job and of its tables.
-/
namespace Sys2Proof.Machine

variable {cmds : List Instr} {s : State} {f : HostFrame} {typ : BitVec 8} {j u : Nat} {b : Job}

/-! ### A change of several tables -/

/-- Each of the tables `ts` changed by `g`. -/
def State.modTables (s : State) (ts : List Nat) (g : Table → Table) : State := ts.foldl (fun acc t => acc.modTable t g) s

theorem State.modTables_frame (s : State) (ts : List Nat) (g : Table → Table) : { s.modTables ts g with tables := s.tables } = s :=
  foldl_keeps (P := fun u : State => { u with tables := s.tables } = s) rfl fun _ _ h => h

@[simp] theorem State.modTables_jobs (s : State) (ts : List Nat) (g : Table → Table) : (s.modTables ts g).jobs = s.jobs :=
  (congrArg State.jobs (s.modTables_frame ts g) :)

@[simp] theorem State.modTables_host (s : State) (ts : List Nat) (g : Table → Table) : (s.modTables ts g).host = s.host :=
  (congrArg State.host (s.modTables_frame ts g) :)

/-- A table changes as often as it is named. -/
theorem State.table_modTables (hs : SMap.wf Table.reset s.tables = true) (ts : List Nat) (g : Table → Table) (u : Nat) :
    (s.modTables ts g).table u = g^[ts.count u] (s.table u) := by
  induction ts generalizing s with
  | nil => rfl
  | cons t ts ih =>
    refine (ih (SMap.wf_modify t g hs)).trans ?_
    rw [State.table_modTable hs]
    split
    · next e => rw [e, List.count_cons_self, Function.iterate_succ_apply]
    · next e => rw [List.count_cons_of_ne (Ne.symm e)]

/-- A change that does no more when it comes again. -/
theorem State.table_modTables_of_idempotent (hs : SMap.wf Table.reset s.tables = true) (ts : List Nat) {g : Table → Table}
    (hg : ∀ x, g (g x) = g x) (u : Nat) : (s.modTables ts g).table u = if u ∈ ts then g (s.table u) else s.table u := by
  rw [State.table_modTables hs]
  split
  · next hu =>
    obtain ⟨n, hn⟩ := Nat.exists_eq_add_one.2 (List.count_pos_iff.2 hu)
    rw [hn, Function.iterate_succ_apply]
    exact Function.Iterate.rec (fun x => x = g (s.table u)) rfl (fun x hx => by rw [hx, hg]) n
  · next hu => rw [List.count_eq_zero.2 hu]; rfl

/-! ### A frame that names a job (R273) -/

/-- A job that a frame may name: admitted, its abort not begun and its record not written. -/
def Job.mayBeNamed (b : Job) : Prop := b.state = .admitted ∨ b.state = .running ∨ b.state = .pausing ∨ b.state = .paused

theorem State.named_eq (hb : s.job f.job.toNat = some b) (h : b.mayBeNamed) : s.named f.job = some b := by
  rw [State.named, hb]
  obtain h | h | h | h := h <;> simp [Option.filter, h]

/-- A frame whose layout is right reaches the job that it names. -/
theorem State.forJob_named {layout : Bool} (hlay : layout = true) (hj : f.job.toNat < 64) (hb : s.job f.job.toNat = some b) (h : b.mayBeNamed)
    (act : Nat → Job → State) : s.forJob typ f layout act = act f.job.toNat b := by
  have hj' : decide (64 ≤ f.job.toNat) = false := decide_eq_false (by omega)
  simp only [State.forJob, hlay, hj', State.named_eq hb h, Bool.not_true, Bool.false_and, Bool.or_false, Bool.false_eq_true, if_false]

/-- A frame that needs a paused job reaches one that is not detaching. -/
theorem State.forPaused_paused (hbody : f.body = []) (hj : f.job.toNat < 64) (hb : s.job f.job.toNat = some b) (hst : b.state = .paused)
    (hdet : b.detaching = false) (act : Nat → Job → State) : s.forPaused typ f act = act f.job.toNat b := by
  rw [State.forPaused, State.forJob_named (by simp [hbody]) hj hb (.inr (.inr (.inr hst)))]
  simp [hst, hdet]

/-! ### PAUSE (R251, R252) -/

/-- A table whose dealer is armed with a trick and its occurrence. -/
def Table.armed (trick occ : Nat) (x : Table) : Table := { x with pause := BitVec.ofNat 13 (trick + 0x1000), pauseN := BitVec.ofNat 32 occ }

theorem Table.armed_armed (trick occ : Nat) (x : Table) : Table.armed trick occ (Table.armed trick occ x) = Table.armed trick occ x := by
  simp only [Table.armed]

/-- A job that pauses at a trick from beacon count `from_` on, at the request of a frame. -/
def Job.pausingAt (f : HostFrame) (trick from_ : Nat) (rcpt : List Byte) (x : Job) : Job :=
  { x with state := .pausing, pauseTrick := trick, pauseFrom := from_, recipient := rcpt, waiters := x.waiters ++ [⟨3, f.qpn, f.tag⟩] }

theorem exec_pause_taken (h : FrameTaken s 3 0 f) (hlen : f.body.length = 144) (htrick : rdLe f.body 0 2 ≤ 0xFFF)
    (hrcpt : (f.body.drop 8).take 133 = List.replicate 133 0) (hj : f.job.toNat < 64) (hb : s.job f.job.toNat = some b) (htaper : b.taper = false)
    (hst : b.state = .running ∨ b.state = .admitted) (hrun : ∀ u ∈ b.tables, (s.table u).run ≠ 3) :
    exec (.pause f) s = .next (((s.taking 3 f).modTables b.tables (Table.armed (rdLe f.body 0 2) (rdLe f.body 4 4))).modJob f.job.toNat
      (Job.pausingAt f (rdLe f.body 0 2) s.beacon (List.replicate 133 0))) := by
  have hlay : pauseLayout f = true := by simp [pauseLayout, hlen, htrick]
  have hname : b.mayBeNamed := hst.elim (fun h => .inr (.inl h)) .inl
  have hzero : (List.replicate 133 (0 : Byte)).all (· == 0) = true := by simp
  have hgo : ¬ (b.taper = true ∨ (b.state ≠ .running ∧ b.state ≠ .admitted) ∨
      b.tables.any (fun t => ((s.taking 3 f).table t).run == 3) = true ∨
      ¬ ((List.replicate 133 (0 : Byte)).all (· == 0) || onCurve (List.replicate 133 0)) = true) := by
    simp only [htaper, hzero, Bool.true_or, not_true, or_false, Bool.false_eq_true, false_or, List.any_eq_true, beq_iff_eq, not_or, not_exists,
      not_and]
    exact ⟨fun h1 h2 => hst.elim h1 h2, hrun⟩
  refine congrArg Host.Outcome.next ((State.hostFrame_taken h _ _).trans ?_)
  rw [State.pauseFrame, State.forJob_named (s := s.taking 3 f) hlay hj hb hname]
  simp only [hrcpt]
  exact if_neg hgo

/-! ### RESUME and DETACH (R253) -/

/-- A table that resumes at tick `r`. -/
def Table.resumed (r : Nat) (x : Table) : Table := { x with release := some r, pause := x.pause &&& 0xFFF }

/-- A job that resumes at tick `r`, at the request of a frame. -/
def Job.resumedAt (f : HostFrame) (r : Nat) (x : Job) : Job :=
  { x with state := .running, readOut := [], pauseTicks := x.pauseTicks + (r - x.pauseFrom), waiters := x.waiters ++ [⟨4, f.qpn, f.tag⟩] }

/-- A resume tick is the first multiple of 195 ticks at least 200 ticks away (R253). -/
theorem State.resumeTick_spec (s : State) : s.resumeTick % 195 = 0 ∧ s.beacon + 200 ≤ s.resumeTick ∧ s.resumeTick < s.beacon + 395 := by
  unfold State.resumeTick ceilDiv
  omega

theorem exec_resume_taken (h : FrameTaken s 4 0 f) (hbody : f.body = []) (hj : f.job.toNat < 64) (hb : s.job f.job.toNat = some b)
    (hst : b.state = .paused) (hdet : b.detaching = false) :
    exec (.resume f) s = .next (((s.taking 4 f).modTables b.tables (Table.resumed s.resumeTick)).modJob f.job.toNat
      (Job.resumedAt f s.resumeTick)) :=
  congrArg Host.Outcome.next ((State.hostFrame_taken h _ _).trans (State.forPaused_paused (s := s.taking 4 f) hbody hj hb hst hdet _))

/-- A RESUME of a job that is not paused is refused (R253, R273). -/
theorem exec_resume_notPaused (hs : Ok cmds s) (h : FrameTaken s 4 0 f) (hbody : f.body = []) (hj : f.job.toNat < 64)
    (hb : s.job f.job.toNat = some b) (hname : b.mayBeNamed) (hst : b.state ≠ .paused) :
    exec (.resume f) s = .next (replied s 4 f 0x0057 []) := by
  refine congrArg Host.Outcome.next ((State.hostFrame_taken h _ _).trans ?_)
  rw [State.resumeFrame, State.forPaused, State.forJob_named (s := s.taking 4 f) (by simp [hbody]) hj hb hname]
  exact (if_pos (.inl hst)).trans (State.refuse_taking hs h _)

/-- A job that a frame has asked to detach. -/
def Job.detachingFor (f : HostFrame) (x : Job) : Job := { x with detaching := true, waiters := x.waiters ++ [⟨5, f.qpn, f.tag⟩] }

/-- A paused job has no DETACH after its abort. -/
theorem State.lateDetach_paused (hbody : f.body = []) (hb : s.job f.job.toNat = some b) (hst : b.state = .paused) : s.lateDetach f = none := by
  simp [State.lateDetach, hbody, hb, Option.filter, hst]

theorem exec_detach_taken (h : FrameTaken s 5 0 f) (hbody : f.body = []) (hj : f.job.toNat < 64) (hb : s.job f.job.toNat = some b)
    (hst : b.state = .paused) (hdet : b.detaching = false) :
    exec (.detach f) s = .next ((s.taking 5 f).modJob f.job.toNat (Job.detachingFor f)) := by
  refine congrArg Host.Outcome.next ((State.hostFrame_taken h _ _).trans ?_)
  rw [State.detachFrame, State.lateDetach_paused (s := s.taking 5 f) hbody hb hst]
  exact State.forPaused_paused (s := s.taking 5 f) hbody hj hb hst hdet _

/-! ### ABORT (R259) -/

/-- Two changes of one job are one change. -/
theorem State.modJob_modJob (hs : SMap.wf none s.jobs = true) (j : Nat) (g h : Job → Job) :
    (s.modJob j g).modJob j h = s.modJob j (fun x => h (g x)) := by
  simp only [State.modJob, SMap.modify, SMap.get_set_same hs, SMap.set_set hs, Option.map_map]
  rfl

/-- Functions that agree on a job change it alike. -/
theorem State.modJob_congr {g h : Job → Job} (hb : s.job j = some b) (hgh : g b = h b) : s.modJob j g = s.modJob j h := by
  have hget : SMap.get none s.jobs j = some b := hb
  simp only [State.modJob, SMap.modify, hget, Option.map_some, hgh]

/-- The device with every dealer of job `j` stopped, and its DMA channels, flits and cells with them. -/
def State.stopJob (s : State) (j : Nat) (b : Job) : State :=
  let u := s.modTables b.tables Table.stop
  { u with dma := stopDma u.dma j, noc := u.noc.discard b.tables, ports := dropCells u.ports b.tables }

theorem State.stopJob_frame (s : State) (j : Nat) (b : Job) :
    { s.stopJob j b with tables := s.tables, dma := s.dma, noc := s.noc, ports := s.ports } = s :=
  (congrArg (fun u : State => { u with dma := s.dma, noc := s.noc, ports := s.ports }) (s.modTables_frame b.tables Table.stop) :)

theorem State.stopJob_jobs (s : State) (j : Nat) (b : Job) : (s.stopJob j b).jobs = s.jobs := (congrArg State.jobs (s.stopJob_frame j b) :)

theorem State.job_stopJob (s : State) (i j : Nat) (b : Job) : (s.stopJob j b).job i = s.job i :=
  congrArg (SMap.get none · i) (s.stopJob_jobs j b)

/-- A job that a frame aborts at device time `now`. -/
def Job.abortedBy (f : HostFrame) (now : Nat) (x : Job) : Job :=
  { x with state := .aborting, abortTick := now, firstEvent := 0, waiters := [⟨6, f.qpn, f.tag⟩] }

/-- An abort answers no frame of a job on which none waits. -/
theorem State.endWaiters_of_none (hwait : b.waiters = []) : s.endWaiters j b = s := by
  simp only [State.endWaiters, State.failPause, hwait, List.foldl_nil]

/-- The abort of a running job on which no frame waits. -/
theorem State.abortJob_running (hb : s.job j = some b) (hst : b.state = .running) (hwait : b.waiters = []) (htrap : b.trapped = false) :
    s.abortJob j 0 = (s.stopJob j b).modJob j (fun x => { x with
      state := .aborting, abortTick := s.now11, firstEvent := 0, waiters := [] }) := by
  have hb' : (s.stopJob j b).job j = some b := (s.job_stopJob j j b).trans hb
  have hnow : (s.stopJob j b).now11 = s.now11 := (congrArg State.now11 (s.stopJob_frame j b) :)
  rw [← hnow]
  simp only [State.abortJob, hb, hst, State.endWaiters_of_none hwait]
  refine State.modJob_congr hb' ?_
  simp only [hst, hwait, htrap, reduceCtorEq, or_self, if_false, Nat.add_zero, List.filter_nil, Bool.false_eq_true]
  rfl

theorem exec_abort_taken (hs : Ok cmds s) (h : FrameTaken s 6 0 f) (hbody : f.body = []) (hj : f.job.toNat < 64) (hb : s.job f.job.toNat = some b)
    (hst : b.state = .running) (hwait : b.waiters = []) (htrap : b.trapped = false) (hrun : ∃ u ∈ b.tables, (s.table u).run ≠ 3) :
    exec (.abort f) s = .next (((s.taking 6 f).stopJob f.job.toNat b).modJob f.job.toNat (Job.abortedBy f s.now11)) := by
  obtain ⟨u, hu, hu3⟩ := hrun
  have hgo : ¬ (b.tables.all (fun t => ((s.taking 6 f).table t).run == 3) && !b.trapped) = true := fun hall => by
    rw [Bool.and_eq_true, List.all_eq_true] at hall
    exact hu3 (beq_iff_eq.1 (hall.1 u hu))
  have hjobs : SMap.wf none ((s.taking 6 f).stopJob f.job.toNat b).jobs = true := by
    rw [State.stopJob_jobs]
    exact hs.jobs_
  refine congrArg Host.Outcome.next ((State.hostFrame_taken h _ _).trans ?_)
  rw [State.abortFrame, State.forJob_named (s := s.taking 6 f) (by simp [hbody]) hj hb (.inr (.inl hst)), if_neg hgo,
    State.abortJob_running (s := s.taking 6 f) hb hst hwait htrap, State.modJob_modJob hjobs]
  rfl

/-- What a stop makes of a table `x` (R259): its dealer stops, and what it owes stays owed. -/
structure Table.StoppedFrom (x y : Table) : Prop where
  run    : y.run = if x.run = 0 then 0 else 3
  ending : y.ending = true
  sends  : y.sends = []
  waits  : y.seq.waits = []
  pend   : y.pend = x.pend

theorem Table.stop_stopped (x : Table) : x.StoppedFrom x.stop := ⟨rfl, rfl, rfl, rfl, rfl⟩

/-- A table stopped twice is a stopped table. -/
theorem Table.StoppedFrom.stop {x y : Table} (h : x.StoppedFrom y) : x.StoppedFrom y.stop := by
  refine ⟨?_, rfl, rfl, rfl, h.pend⟩
  change (if y.run = 0 then 0 else 3) = _
  rw [h.run]
  split <;> rfl

/-- Every table of a stopped job has stopped; the others go on. -/
theorem State.table_stopJob (hs : SMap.wf Table.reset s.tables = true) (j : Nat) (b : Job) (u : Nat) :
    if u ∈ b.tables then (s.table u).StoppedFrom ((s.stopJob j b).table u) else (s.stopJob j b).table u = s.table u := by
  have htab : (s.stopJob j b).table u = Table.stop^[b.tables.count u] (s.table u) := State.table_modTables hs b.tables Table.stop u
  rw [htab]
  split
  · next hu =>
    obtain ⟨n, hn⟩ := Nat.exists_eq_add_one.2 (List.count_pos_iff.2 hu)
    rw [hn, Function.iterate_succ_apply]
    exact Function.Iterate.rec _ (s.table u).stop_stopped (fun _ h => h.stop) n
  · next hu => rw [List.count_eq_zero.2 hu]; rfl

/-! ### JOB_PAUSED (R253) -/

/-- The replies to the frames of one TYPE that wait on a job. -/
def State.tellWaiters (s : State) (j : Nat) (b : Job) (typ : Nat) (body : List Byte) : State :=
  b.waiters.foldl (fun acc w => if w.typ = typ
    then acc.answer w.qpn (BitVec.ofNat 8 (0x80 + typ)) w.tag (BitVec.ofNat 8 j) 0 body else acc) s

theorem State.tell_eq (s : State) (j : Nat) (b : Job) (typ : Nat) (body : List Byte) : s.tell j b typ body =
    (s.tellWaiters j b typ body).modJob j (fun x => { x with waiters := x.waiters.filter (fun w => w.typ != typ) }) := rfl

theorem State.tellWaiters_frame (s : State) (j : Nat) (b : Job) (typ : Nat) (body : List Byte) :
    { s.tellWaiters j b typ body with host := s.host } = s := by
  refine foldl_keeps (P := fun u : State => { u with host := s.host } = s) rfl fun u w h => ?_
  split
  · exact (congrArg (fun v : State => { v with host := s.host }) (u.answer_frame ..)).trans h
  · exact h

theorem State.tellWaiters_jobs (s : State) (j : Nat) (b : Job) (typ : Nat) (body : List Byte) : (s.tellWaiters j b typ body).jobs = s.jobs :=
  (congrArg State.jobs (s.tellWaiters_frame j b typ body) :)

/-- A reply to the frames that wait on a job leaves memory as it is. -/
theorem State.tell_mem (s : State) (j : Nat) (b : Job) (typ : Nat) (body : List Byte) : (s.tell j b typ body).mem = s.mem :=
  (congrArg State.mem (s.tellWaiters_frame j b typ body) :)

/-- A job whose waiting frames of one TYPE are told waits with the others alone. -/
theorem State.job_tell (hs : SMap.wf none s.jobs = true) (j : Nat) (b : Job) (typ : Nat) (body : List Byte) :
    (s.tell j b typ body).job j = (s.job j).map (fun x => { x with waiters := x.waiters.filter (fun w => w.typ != typ) }) := by
  rw [State.tell_eq, State.job_modJob (by rw [State.tellWaiters_jobs]; exact hs), if_pos rfl, State.job, State.tellWaiters_jobs]
  rfl

/-- A job whose context is `ctx`. -/
def Job.withContext (ctx out : List Byte) (repart : Bool) (x : Job) : Job :=
  { x with state := .paused, context := some ctx, readOut := out, pauseRepart := repart }

/-- The device with the context of job `j` written, as far as its context area reaches. -/
def State.storeContext (s : State) (j : Nat) (b : Job) (ctx out : List Byte) (repart : Bool) : State :=
  { s with mem := (s.mem.putTier .hbm b.ctxBase (ctx.take b.ctxSize)).1 }.modJob j (Job.withContext ctx out repart)

/-- Sealing a context takes free values and changes nothing else. -/
theorem State.sealContext_frame (s : State) (j : Nat) (b : Job) (v : VarDecl) (repart detach : Bool) :
    { (s.sealContext j b v repart detach).2 with free := s.free } = s := by
  have hfree : (s.sealContext j b v repart detach).2 = ((s.takeFrees 10).2.takeFrees 2).2 := by simp only [State.sealContext]
  rw [hfree]
  rfl

/-- Once all of a job has paused, its context is sealed with fresh free values and stored, and the PAUSE that waits is answered. -/
theorem State.writeContext_eq {img : Image × VarDecl} (hvar : b.varDecl = some img) (s : State) (j : Nat) :
    ∃ (u : State) (ctx out : List Byte) (repart : Bool), { u with free := s.free } = s ∧
      s.writeContext j b = (u.storeContext j b ctx out repart).tell j b 3 (natLe 8 ctx.length ++ natLe 1 (b2n repart)) := by
  obtain ⟨i, v⟩ := img
  generalize hrep : (v.tricks.any (fun x => x.id == b.pauseTrick && x.repart) && s.repartOk j b v) = repart
  have hout := s.sealContext_frame j b v repart true
  have hctx := (s.sealContext j b v repart true).2.sealContext_frame j b v repart false
  generalize ho : s.sealContext j b v repart true = o at hout hctx
  generalize hr : o.2.sealContext j b v repart false = r at hctx
  refine ⟨r.2, r.1, o.1, repart, (congrArg (fun u : State => { u with free := s.free }) hctx).trans hout, ?_⟩
  simp only [State.writeContext, hvar, hrep, ho, hr]
  rfl

/-- A write to a context area without an error stores its bytes there and nowhere else. -/
theorem MemSys.get_putTier_area {m : MemSys} (hm : m.Canonical) {a n : Nat} (bs : List Byte)
    (h : ∀ x, a ≤ x → x < a + n → m.isBad .hbm (x / 32) = false) (x : Nat) :
    SMap.get 0 (m.putTier .hbm a (bs.take n)).1.hbm x =
      if a ≤ x ∧ x < a + (bs.take n).length then (bs.take n).getD (x - a) 0 else SMap.get 0 m.hbm x := by
  have hgood : ∀ o < (bs.take n).length, m.isBad .hbm ((a + o) / tierUnit .hbm) = false := fun o ho =>
    h (a + o) (Nat.le_add_right a o) (by rw [List.length_take] at ho; omega)
  rw [MemSys.putTier_good hm hgood]
  exact MemSys.get_storeTier hm .hbm a x (bs.take n)

theorem exec_jobPaused_waits (hb : s.job j = some b) (h : s.allPaused j b = false) : exec (.jobPaused j) s = .next s := by
  have harm : exec (.jobPaused j) s = execJobPaused j s := rfl
  simp [harm, execJobPaused, hb, h]

/-- A job all of whose tasks have paused stands with its context in its context area (R253, R254). -/
theorem exec_jobPaused_stored (hs : Ok cmds s) {img : Image × VarDecl} (hb : s.job j = some b) (hst : b.state = .pausing)
    (hall : s.allPaused j b = true) (hvar : b.varDecl = some img)
    (hgood : ∀ a, b.ctxBase ≤ a → a < b.ctxBase + b.ctxSize → s.mem.isBad .hbm (a / 32) = false) :
    ∃ (t : State) (ctx out : List Byte) (repart : Bool), exec (.jobPaused j) s = .next t ∧
      t.job j = some { b.withContext ctx out repart with waiters := b.waiters.filter (fun w => w.typ != 3) } ∧
      ∀ a, SMap.get 0 t.mem.hbm a = if b.ctxBase ≤ a ∧ a < b.ctxBase + (ctx.take b.ctxSize).length
        then (ctx.take b.ctxSize).getD (a - b.ctxBase) 0 else SMap.get 0 s.mem.hbm a := by
  obtain ⟨u, ctx, out, repart, hframe, heq⟩ := State.writeContext_eq hvar s j
  have hjobs : u.jobs = s.jobs := (congrArg State.jobs hframe :)
  have hmem : u.mem = s.mem := (congrArg State.mem hframe :)
  have hwf : SMap.wf none u.jobs = true := hjobs ▸ hs.jobs_
  have hstored : (u.storeContext j b ctx out repart).job j = some (b.withContext ctx out repart) := by
    refine (State.job_modJob (s := { u with mem := (u.mem.putTier .hbm b.ctxBase (ctx.take b.ctxSize)).1 }) hwf j j _).trans ?_
    rw [if_pos rfl, State.job, hjobs]
    exact congrArg (Option.map _) hb
  have hexec : exec (.jobPaused j) s = .next (s.writeContext j b) := by
    have harm : exec (.jobPaused j) s = execJobPaused j s := rfl
    simp [harm, execJobPaused, hb, hst, hall]
  refine ⟨_, ctx, out, repart, hexec, ?_, fun a => ?_⟩
  · rw [heq, State.job_tell (SMap.wf_modify _ _ hwf), hstored]
    rfl
  · rw [heq, State.tell_mem, State.storeContext, State.modJob_mem, hmem]
    exact MemSys.get_putTier_area hs.mem ctx hgood a

/-! ### The statement -/

/-- What a change of a job and of its tables reaches. -/
theorem State.modJob_modTables_frame (s : State) (ts : List Nat) (g : Table → Table) (j : Nat) (h : Job → Job) :
    { (s.modTables ts g).modJob j h with tables := s.tables, jobs := s.jobs } = s :=
  (congrArg (fun u : State => { u with jobs := s.jobs }) (s.modTables_frame ts g) :)

theorem State.job_modJob_modTables (hs : SMap.wf none s.jobs = true) (hb : s.job j = some b) (ts : List Nat) (g : Table → Table) (h : Job → Job) :
    ((s.modTables ts g).modJob j h).job j = some (h b) := by
  rw [State.job_modJob (by rw [State.modTables_jobs]; exact hs), if_pos rfl, State.job, State.modTables_jobs]
  exact congrArg (Option.map h) hb

/-- Settles O39: a frame that is taken reaches the job that it names, by `State.forJob_named`; each table of the job changes by
`State.table_modTables`, and the context is stored by `exec_jobPaused_stored`. -/
theorem jobsPauseAndEnd : Obligations.JobsPauseAndEnd := by
  unfold Obligations.JobsPauseAndEnd
  rintro s f j b hcan rfl hj hb
  have hs := hcan.ok
  refine ⟨fun h hlen htrick hrcpt htaper hst hrun => ?_, fun _ hall => exec_jobPaused_waits hb hall, fun img hst hall hvar hgood => ?_,
    fun h hbody hst hdet => ?_, fun h hbody hst hdet => ?_,
    fun h hbody hst => exec_resume_notPaused hs h hbody hj hb (.inr (.inl hst)) (by simp [hst]), fun h hbody hst hwait htrap hrun => ?_⟩
  · have hframe := (s.taking 3 f).modJob_modTables_frame b.tables (Table.armed (rdLe f.body 0 2) (rdLe f.body 4 4)) f.job.toNat
      (Job.pausingAt f (rdLe f.body 0 2) s.beacon (List.replicate 133 0))
    refine ⟨_, exec_pause_taken h hlen htrick hrcpt hj hb htaper hst hrun, congrArg (fun u : State => { u with host := s.host }) hframe,
      congrArg (fun u : State => { u.host with qps := s.host.qps }) hframe, ?_,
      State.job_modJob_modTables (s := s.taking 3 f) hs.jobs_ hb _ _ _, fun u => ?_⟩
    · rw [State.qp, State.modJob_host, State.modTables_host]
      exact congrArg QueuePair.order (State.qp_taking hs.qps_ h)
    · exact State.table_modTables_of_idempotent (s := s.taking 3 f) hs.tables_.1 _ (Table.armed_armed _ _) u
  · obtain ⟨t, ctx, out, repart, hexec, hjob, hmem⟩ := exec_jobPaused_stored hs hb hst hall hvar hgood
    refine ⟨t, ctx, out, repart, hexec, hjob, fun i hi hsize => ?_, fun a ha => ?_⟩
    · rw [hmem, if_pos (by rw [List.length_take]; omega), Nat.add_sub_cancel_left]
      simp [hsize]
    · rw [hmem, if_neg (by rw [List.length_take]; omega)]
  · obtain ⟨hmul, hlo, hhi⟩ := s.resumeTick_spec
    have hframe := (s.taking 4 f).modJob_modTables_frame b.tables (Table.resumed s.resumeTick) f.job.toNat (Job.resumedAt f s.resumeTick)
    refine ⟨_, s.resumeTick, exec_resume_taken h hbody hj hb hst hdet, congrArg (fun u : State => { u with host := s.host }) hframe, hmul, hlo, hhi,
      State.job_modJob_modTables (s := s.taking 4 f) hs.jobs_ hb _ _ _, fun u => ?_⟩
    refine State.table_modTables_of_idempotent (s := s.taking 4 f) hs.tables_.1 _ (fun x => ?_) u
    simp only [Table.resumed, BitVec.and_assoc, BitVec.and_self]
  · refine ⟨_, exec_detach_taken h hbody hj hb hst hdet, rfl, rfl, ?_⟩
    rw [State.job_modJob (s := s.taking 5 f) hs.jobs_, if_pos rfl, show (s.taking 5 f).job f.job.toNat = some b from hb]
    rfl
  · refine ⟨_, exec_abort_taken hs h hbody hj hb hst hwait htrap hrun,
      (congrArg (fun u : State => { u with jobs := s.jobs, host := s.host }) ((s.taking 6 f).stopJob_frame f.job.toNat b) :), ?_, fun u => ?_⟩
    · rw [State.job_modJob (by rw [State.stopJob_jobs]; exact hs.jobs_), if_pos rfl, State.job_stopJob,
        show (s.taking 6 f).job f.job.toNat = some b from hb]
      rfl
    · have htab := State.table_stopJob (s := s.taking 6 f) hs.tables_.1 f.job.toNat b u
      split at htab
      · next hu =>
        rw [if_pos hu]
        exact ⟨htab.run, htab.ending, htab.sends, htab.waits, htab.pend⟩
      · next hu =>
        rw [if_neg hu]
        exact htab

end Sys2Proof.Machine
end

section
/-!
SUPPORT. A job placed by the loader (R245, R248): what loading writes, and that it leaves the other jobs, device time and what the host port has sent.
-/
namespace Sys2Proof.Machine

variable {cmds : List Instr} {s t u : State} {p : Plan}

/-! ### What loading writes -/

/-- From `s` to `t` the loader has written no more than registers, tables, cores, memory, DMA channels, descriptors and the channels that the host
feeds, and has taken free values. -/
def State.LoadedOnly (s t : State) : Prop :=
  { t with csr := s.csr, tables := s.tables, cores := s.cores, mem := s.mem, dma := s.dma, descs := s.descs, free := s.free
           host := { t.host with chans := s.host.chans } } = s

theorem State.LoadedOnly.refl (s : State) : s.LoadedOnly s := rfl

theorem State.LoadedOnly.trans (h : s.LoadedOnly t) (g : t.LoadedOnly u) : s.LoadedOnly u := by
  have hg := congrArg (fun x : State => { x with
    csr := s.csr, tables := s.tables, cores := s.cores, mem := s.mem, dma := s.dma, descs := s.descs, free := s.free
    host := { x.host with chans := s.host.chans } }) g
  exact hg.trans h

theorem State.LoadedOnly.setCsr (h : s.LoadedOnly t) (a : Nat) (v : Word) : s.LoadedOnly (t.setCsr a v) := h
theorem State.LoadedOnly.setWindow (h : s.LoadedOnly t) (tier : Tier) (n base bound rate : Nat) :
    s.LoadedOnly (t.setWindow tier n base bound rate) := by
  unfold State.setWindow State.setCsr64
  exact ((((h.setCsr _ _).setCsr _ _).setCsr _ _).setCsr _ _).setCsr _ _
theorem State.LoadedOnly.setQst (h : s.LoadedOnly t) (k q : Nat) (v : QState) : s.LoadedOnly (t.setQst k q v) := by
  unfold State.setQst
  exact (h.setCsr _ _).setCsr _ _

theorem State.LoadedOnly.modTable (h : s.LoadedOnly t) (n : Nat) (f : Table → Table) : s.LoadedOnly (t.modTable n f) := h
theorem State.LoadedOnly.setMem (h : s.LoadedOnly t) (m : MemSys) : s.LoadedOnly { t with mem := m } := h

theorem State.LoadedOnly.foldl {β : Type} {f : State → β → State} (l : List β) (hf : ∀ (u : State) (x : β), u.LoadedOnly (f u x))
    (s : State) : s.LoadedOnly (l.foldl f s) :=
  foldl_keeps (P := s.LoadedOnly) (.refl s) fun u x h => h.trans (hf u x)

theorem State.LoadedOnly.jobs (h : s.LoadedOnly t) : t.jobs = s.jobs := (congrArg State.jobs h :)
theorem State.LoadedOnly.adm (h : s.LoadedOnly t) : t.adm = s.adm := (congrArg State.adm h :)
theorem State.LoadedOnly.beacon (h : s.LoadedOnly t) : t.beacon = s.beacon := (congrArg State.beacon h :)
theorem State.LoadedOnly.tx (h : s.LoadedOnly t) : t.host.tx = s.host.tx := (congrArg (fun u : State => u.host.tx) h :)
theorem State.LoadedOnly.qps (h : s.LoadedOnly t) : t.host.qps = s.host.qps := (congrArg (fun u : State => u.host.qps) h :)

theorem State.setCsrs_loadedOnly (s : State) (a : Nat) (ws : List Word) : s.LoadedOnly (s.setCsrs a ws) := by
  induction ws generalizing s a with
  | nil => exact .refl s
  | cons w ws ih => exact State.LoadedOnly.trans (t := s.setCsr a w) rfl (ih ..)

theorem State.clearTaskFaults_loadedOnly (s : State) (n : Nat) : s.LoadedOnly (s.clearTaskFaults n) := by
  unfold State.clearTaskFaults
  exact (s.setCsrs_loadedOnly ..).trans <| (State.setCsrs_loadedOnly ..).trans <| (State.setCsrs_loadedOnly ..).trans <|
    (State.setCsrs_loadedOnly ..).trans <| (State.setCsrs_loadedOnly ..).trans (State.setCsrs_loadedOnly ..)

theorem State.startCore_loadedOnly (s : State) (v : VarDecl) (n : Nat) (curve : SMap Word × SMap Word) (k : Nat) :
    s.LoadedOnly (s.startCore v n curve k) := by
  unfold State.startCore
  exact foldl_keeps (P := s.LoadedOnly) rfl fun _ _ h => ((h.setCsr _ _).setCsr _ _).setQst ..

theorem State.startTable_loadedOnly (s : State) (p : Plan) (curve : SMap Word × SMap Word) (n : Nat) : s.LoadedOnly (s.startTable p curve n) := by
  have hclear := s.clearTaskFaults_loadedOnly ((p.tabs.drop n).headD 0)
  unfold State.startTable
  refine foldl_keeps (P := s.LoadedOnly) ?_ fun u x h => h.trans (u.startCore_loadedOnly ..)
  exact (((((hclear.modTable _ _).setMem _).setCsr _ _).setCsr _ _).setCsr _ _).setWindow .. |>.setWindow ..

theorem State.placeData_loadedOnly (s : State) (p : Plan) (r : DataRec) : s.LoadedOnly (s.placeData p r) := by
  unfold State.placeData
  split
  · rfl
  · rfl
  · rfl
  · refine .foldl _ (fun u i => ?_) s
    split <;> rfl

theorem State.placeCode_loadedOnly (s : State) (p : Plan) : s.LoadedOnly (s.placeCode p) := by
  unfold State.placeCode
  split
  · exact .refl s
  · exact foldl_keeps (P := s.LoadedOnly) (.refl s) fun _ _ h => h

theorem State.sendEnd_loadedOnly (s : State) (p : Plan) (c : ChanDecl) : s.LoadedOnly (s.sendEnd p c) := by
  unfold State.sendEnd
  cases c.xdev <;> rfl

theorem State.placeChannel_loadedOnly (s : State) (p : Plan) (c : ChanDecl) : s.LoadedOnly (s.placeChannel p c) := by
  have hsend : s.LoadedOnly (if c.sjt < 0xFE then s.sendEnd p c else if c.sjt = 0xFE then s.hostEnd p c else s) := by
    split
    · exact s.sendEnd_loadedOnly p c
    · split <;> rfl
  unfold State.placeChannel
  generalize (if c.sjt < 0xFE then s.sendEnd p c else if c.sjt = 0xFE then s.hostEnd p c else s) = u at hsend ⊢
  dsimp only
  split <;> exact hsend

theorem State.drawSeeds_loadedOnly (s : State) (img : Image) (b : SubmitBody) : s.LoadedOnly (s.drawSeeds img b).2 := by
  refine foldl_keeps (P := fun x : List (Nat × BitVec 64) × State => s.LoadedOnly x.2) (.refl s) fun x y h => ?_
  split
  · exact h
  · split <;> exact h

/-! ### The job placed (R245, R248) -/

theorem State.modTables_loadedOnly (s : State) (ts : List Nat) (g : Table → Table) : s.LoadedOnly (s.modTables ts g) :=
  foldl_keeps (P := s.LoadedOnly) (.refl s) fun _ _ h => h

theorem State.placeDesc_loadedOnly (s : State) (p : Plan) (x : Nat × Nat × Nat) : s.LoadedOnly (s.placeDesc p x) := rfl

theorem State.placeDma_loadedOnly (s : State) (p : Plan) (d : DmaDecl) (at_ : Nat × Nat) : s.LoadedOnly (s.placeDma p d at_) := rfl

/-- The device with one more admission counted. -/
def State.admitCounted (s : State) : State := { s with adm := { s.adm with count := s.adm.count + 1 } }

/-- The device with the job of plan `p` recorded, before anything is loaded. -/
def State.jobRecorded (s : State) (b : SubmitBody) (bytes : List Byte) (p : Plan) (readm : Option Nat) : State :=
  { s.admitCounted with jobs := SMap.set none s.jobs p.job (some (s.admitCounted.newJob p b bytes readm)) }

/-- The tier ranges of plan `p` zeroed. -/
def State.rangesZeroed (s : State) (p : Plan) : State :=
  { s with mem := ((s.mem.zeroTier .hbm p.hbm (p.hbm + 4096 * p.v.res.hbm)).zeroTier .hbm p.ctx
    (p.ctx + contextSize p.img p.v)).zeroTier .ddr p.ddr (p.ddr + 4096 * p.v.res.ddr) }

/-- A table with the seeds of its job. -/
def Table.withSeeds (seeds : List (Nat × BitVec 64)) (stat : Word) (x : Table) : Table :=
  { x with seeds := SMap.setAll 0 [] seeds, seedStat := stat }

/-- The seeds of a job drawn, and given to its tables (R106). -/
def State.seedsGiven (s : State) (p : Plan) (b : SubmitBody) : State :=
  (s.drawSeeds p.img b).2.modTables p.tabs (Table.withSeeds (s.drawSeeds p.img b).1 (seedStatOf p.img))

theorem State.seedsGiven_loadedOnly (s : State) (p : Plan) (b : SubmitBody) : s.LoadedOnly (s.seedsGiven p b) :=
  (s.drawSeeds_loadedOnly p.img b).trans (State.modTables_loadedOnly ..)

/-- The slots, cells and host counters of plan `p` given to its job. -/
def State.slotsGiven (s : State) (p : Plan) : State :=
  { s with
    noc := { s.noc with slots := SMap.setAll 0 s.noc.slots p.slots }
    fslots := SMap.setAll 0 s.fslots p.cells
    hctr := SMap.clearRange s.hctr (64 * p.job) (64 * p.job + 64) }

/-- Installing a plan records its job, loads it, gives it its slots and opens its queue pair. -/
theorem State.install_eq (s : State) (b : SubmitBody) (bytes : List Byte) (p : Plan) (readm : Option Nat) :
    ∃ u, (s.jobRecorded b bytes p readm).LoadedOnly u ∧ s.install b bytes p readm = (u.slotsGiven p).openQp p.job b := by
  have hzero : (s.jobRecorded b bytes p readm).LoadedOnly ((s.jobRecorded b bytes p readm).rangesZeroed p) := rfl
  have hcode := hzero.trans (State.placeCode_loadedOnly _ p)
  have htables := hcode.trans (.foldl (List.range p.v.key.t) (fun u n => u.startTable_loadedOnly p
    ((((s.jobRecorded b bytes p readm).rangesZeroed p).placeCode p).curveInEffect p.img) n) _)
  have hdata := htables.trans (.foldl p.v.data (fun u r => u.placeData_loadedOnly p r) _)
  have hseeds := hdata.trans (State.seedsGiven_loadedOnly _ p b)
  have hchans := hseeds.trans (.foldl p.v.chans (fun u c => u.placeChannel_loadedOnly p c) _)
  have hdescs := hchans.trans (.foldl p.store (fun u x => u.placeDesc_loadedOnly p x) _)
  exact ⟨_, hdescs.trans (.foldl (p.v.dma.zip p.dma) (fun u x => u.placeDma_loadedOnly p x.1 x.2) _), rfl⟩

/-- What placing the job of plan `p` leaves behind: the job in the books and being loaded, a queue pair of its own, and nothing sent. -/
structure State.Placed (s t : State) (b : SubmitBody) (bytes : List Byte) (p : Plan) (readm : Option Nat) : Prop where
  adm  : t.adm = { s.adm with current := some b, loading := some (p.job, s.beacon + p.load), count := s.adm.count + 1 }
  jobs : t.jobs = SMap.set none s.jobs p.job (some (s.admitCounted.newJob p b bytes readm))
  tx   : t.host.tx = s.host.tx
  qp   : (t.qp (256 + p.job)).state = 1 ∧ (t.qp (256 + p.job)).hqpn = b.hqpn

theorem State.qp_openQp (hq : SMap.wf QueuePair.reset s.host.qps = true) (j : Nat) (b : SubmitBody) :
    ((s.openQp j b).qp (256 + j)).state = 1 ∧ ((s.openQp j b).qp (256 + j)).hqpn = b.hqpn := by
  have hnew : (s.openQp j b).qp (256 + j) = _ := (State.qp_modQp (s := { s with free := s.free + 1 }) hq _ _ _).trans (if_pos rfl)
  exact ⟨congrArg QueuePair.state hnew, congrArg QueuePair.hqpn hnew⟩

/-- A plan that resumes no context is placed by the loader alone. -/
theorem State.placeJob_placed (hq : SMap.wf QueuePair.reset s.host.qps = true) (b : SubmitBody) (bytes : List Byte) (readm : Option Nat)
    (hres : p.resume = none) : s.Placed (s.placeJob b bytes p readm) b bytes p readm := by
  obtain ⟨u, hu, heq⟩ := s.install_eq b bytes p readm
  have hadm : { u.adm with current := some b, loading := some (p.job, u.beacon + p.load) } =
      { s.adm with current := some b, loading := some (p.job, s.beacon + p.load), count := s.adm.count + 1 } := by
    rw [hu.adm, hu.beacon]
    rfl
  simp only [State.placeJob, hres, heq]
  exact ⟨hadm, hu.jobs, hu.tx, State.qp_openQp (s := u.slotsGiven p) (by rw [State.slotsGiven, hu.qps]; exact hq) p.job b⟩

theorem State.Placed.job {b : SubmitBody} {bytes : List Byte} {readm : Option Nat} (hs : SMap.wf none s.jobs = true)
    (h : s.Placed t b bytes p readm) (i : Nat) :
    t.job i = if i = p.job then some (s.admitCounted.newJob p b bytes readm) else s.job i := by
  rw [State.job, h.jobs]
  exact SMap.get_set hs _ _ _

end Sys2Proof.Machine
end

section
/-!
Submissions (R246, R248, R249, R260, R272): the admission unit takes one or lets it wait, its plan is refused or placed, the loaded job gets its
reply, and a job that a failure ended is admitted again.
-/
namespace Sys2Proof.Machine

variable {cmds : List Instr} {s : State} {f : HostFrame} {b : SubmitBody} {inp : AdmissionInput} {j : Nat} {x : Job}

/-! ### The admission unit goes on (R272, R354) -/

/-- A busy admission unit lets what waits wait. -/
theorem State.startNext_busy {c : SubmitBody} (h : s.adm.current = some c) : s.startNext = s := by
  simp [State.startNext, h]

/-- A free admission unit goes on with what waits, where no handover is due. -/
theorem State.startNext_free (h : s.adm.current = none) (hlease : (s.mgt.handover && s.mgt.leaseValid) = false) :
    s.startNext = s.takeNext s.adm.waiting := by
  simp [State.startNext, h, State.passLease, hlease]

/-- A free admission unit for which nothing waits stays as it is. -/
theorem State.startNext_idle (h : s.adm.current = none) (hlease : (s.mgt.handover && s.mgt.leaseValid) = false) (hwait : s.adm.waiting = []) :
    s.startNext = s := by
  have hadm : { s.adm with waiting := [] } = s.adm := by rw [← hwait]
  rw [State.startNext_free h hlease, hwait, State.takeNext, hadm]

/-- A submission that passes the entry checks is in progress, and its image is read from the host (R246). -/
theorem State.takeNext_taken {rest : List SubmitBody} (hcalm : s.mgt.hold = false) (hfree : s.freeJob.isSome = true)
    (hq : (s.qp 0x10).state = 1) (hl : s.host.link = true) :
    s.takeNext (b :: rest) = { s with adm := { s.adm with waiting := rest, current := some b } }.sent (.read 0x10 b.imgRkey b.imgAddr b.imgLen) := by
  have hfree' : s.freeJob.isNone = false := by simp [Option.isNone_eq_false_iff, hfree]
  simp only [State.takeNext, hcalm, hfree', Bool.false_eq_true, if_false]
  exact State.send_ready hq hl

/-! ### SUBMIT (R272) -/

/-- A SUBMIT comes on the control queue pair (R267, R271). -/
theorem qpn_of_submit {lead : Nat} (h : FrameTaken s 1 lead f) : f.qpn = 0x10 := by
  obtain ⟨hqpn, -⟩ | ⟨-, hlo, -⟩ := h.path
  · exact hqpn
  · exact absurd hlo (by decide)

/-- A SUBMIT whose body has no SUBMIT's layout is malformed. -/
theorem exec_submit_malformed (hs : Ok cmds s) (h : FrameTaken s 1 0 f) (hread : readSubmit f = none) :
    exec (.submit f) s = .next (replied s 1 f 0x0053 []) := by
  refine congrArg Host.Outcome.next ((State.hostFrame_taken h _ _).trans ?_)
  simp only [State.submitFrame, hread]
  exact State.refuse_taking hs h _

/-- A submission joins those that wait. -/
def State.queued (s : State) (b : SubmitBody) : State := { s with adm := { s.adm with waiting := s.adm.waiting ++ [b] } }

theorem exec_submit_queued (h : FrameTaken s 1 0 f) (hread : readSubmit f = some b) :
    exec (.submit f) s = .next ((s.taking 1 f).queued b).startNext := by
  have hcalm : (s.taking 1 f).mgt.hold = false := h.calm
  refine congrArg Host.Outcome.next ((State.hostFrame_taken h _ _).trans ?_)
  simp only [State.submitFrame, hread, hcalm, Bool.false_eq_true, if_false]
  rfl

/-- The control queue pair of a SUBMIT that is taken awaits its reply alone, and is ready. -/
theorem State.qp_taking_submit (hs : Ok cmds s) (h : FrameTaken s 1 0 f) : ((s.taking 1 f).qp 0x10).Expects 0x81 f.tag := by
  have hqp := State.qp_taking hs.qps_ h
  have hready := h.ready
  rw [(qpn_toNat_eq_iff _).2 (qpn_of_submit h)] at hqp hready
  rw [hqp]
  exact ⟨hready, rfl⟩

/-- A free admission unit takes a submission at once. -/
theorem exec_submit_taken (hs : Ok cmds s) (h : FrameTaken s 1 0 f) (hread : readSubmit f = some b) (hcur : s.adm.current = none)
    (hwait : s.adm.waiting = []) (hlease : (s.mgt.handover && s.mgt.leaseValid) = false) (hfree : s.freeJob.isSome = true) :
    exec (.submit f) s = .next ({ s.taking 1 f with adm := { s.adm with current := some b } }.sent
      (.read 0x10 b.imgRkey b.imgAddr b.imgLen)) := by
  have hqueue : ((s.taking 1 f).queued b).adm.waiting = [b] := congrArg (· ++ [b]) hwait
  have hadm : { s.adm with waiting := [], current := some b } = { s.adm with current := some b } := by rw [← hwait]
  rw [exec_submit_queued h hread, State.startNext_free (s := (s.taking 1 f).queued b) hcur hlease, hqueue,
    State.takeNext_taken (s := (s.taking 1 f).queued b) h.calm hfree (State.qp_taking_submit hs h).1 h.link, ← hadm]
  rfl

/-! ### ADMISSION (R246, R248) -/

/-- The admission unit refuses a plan that fails a check, and is free again. -/
theorem exec_admission_refused {code : BitVec 16} (hs : Ok cmds s) (hcur : s.adm.current = some b) (hload : s.adm.loading = none)
    (hwait : s.adm.waiting = []) (hlease : (s.mgt.handover && s.mgt.leaseValid) = false)
    (hplan : s.plan b inp.image (inp.context.map s.openContext) = .error code) (hl : s.host.link = true) (hq : (s.qp 0x10).Expects 0x81 b.tag) :
    exec (.admission inp) s = .next (({ s with adm := s.adm.idle }.sent (.frame 0x10 0x81 b.tag 0xFF code [])).modQp 0x10
      (QueuePair.awaiting [])) := by
  have hreply := State.answer_expected (s := { s with adm := s.adm.idle }) (qpn := 0x10) hs.qps_ hl hq 0xFF code []
  have harm : exec (.admission inp) s = execAdmission inp s := rfl
  simp only [harm, execAdmission, hcur, hload, hplan, State.refuseSubmit, hreply]
  exact congrArg Host.Outcome.next (State.startNext_idle rfl hlease hwait)

/-- A plan that passes every check is placed. -/
theorem exec_admission_placed {pl : Plan} (hcur : s.adm.current = some b) (hload : s.adm.loading = none)
    (hplan : s.plan b inp.image (inp.context.map s.openContext) = .ok pl) :
    exec (.admission inp) s = .next (s.placeJob b (inp.image.getD []) pl none) := by
  have harm : exec (.admission inp) s = execAdmission inp s := rfl
  simp only [harm, execAdmission, hcur, hload, hplan]

theorem exec_admission_nothing (hcur : s.adm.current = none) : exec (.admission inp) s = .next s := by
  have harm : exec (.admission inp) s = execAdmission inp s := rfl
  simp only [harm, execAdmission, hcur]

/-! ### ADMISSION_REPLY (R248, R249) -/

/-- A table whose task is to be released at tick `r`. -/
def Table.releasedAt (r : Nat) (y : Table) : Table := { y with release := some r }

/-- A job whose reply has gone out, to be released at tick `r`. -/
def Job.admittedFor (r : Nat) (y : Job) : Job := { y with state := .admitted, release := r, replied := true }

/-- Every task is released 200 ticks or more from the reply, and within two multiples of 195 ticks (R27, R249). -/
theorem State.releaseTick_bounds (s : State) (x : Job) (resumed : Bool) :
    s.beacon + 200 ≤ s.releaseTick x resumed ∧ s.releaseTick x resumed < s.beacon + 395 := by
  obtain ⟨-, hlo, hhi⟩ := s.resumeTick_spec
  unfold State.releaseTick
  split <;> omega

@[simp] theorem length_natLe (n v : Nat) : (natLe n v).length = n := by simp [natLe]

/-- The reply's body begins with the admission stamp, the bound and the release tick (R248). -/
theorem State.take_admissionBody (s : State) (j : Nat) (x : Job) (r : Nat) :
    (s.admissionBody j x r).take 24 = natLe 8 x.stamp ++ natLe 8 x.bound ++ natLe 8 r := by
  obtain ⟨rest, hrest⟩ : ∃ rest, s.admissionBody j x r = (natLe 8 x.stamp ++ natLe 8 x.bound ++ natLe 8 r) ++ rest := by
    unfold State.admissionBody
    extract_lets tabs lanes img curve
    clear_value tabs lanes curve
    simp only [List.append_assoc]
    exact ⟨_, rfl⟩
  rw [hrest]
  exact List.take_left' (by simp)

/-- The tick at which the tasks of a job are released if its reply goes out now. -/
def State.jobRelease (s : State) (x : Job) : Nat := s.releaseTick x (x.tables.any (fun t => (s.table t).run == 2))

/-- The reply of a job that has been loaded for the first time. -/
def State.replySent (s : State) (j : Nat) (x : Job) : State :=
  (s.sent (.frame 0x10 0x81 x.body.tag (BitVec.ofNat 8 j) 0 (s.admissionBody j x (s.jobRelease x)))).modQp 0x10 (QueuePair.awaiting [])

/-- The reply of a job goes out, and its tasks are to be released. -/
theorem State.replyAdmission_eq (hs : Ok cmds s) (hst : x.state = .loading) (hfirst : x.readmitted = none) (hl : s.host.link = true)
    (hq : (s.qp 0x10).Expects 0x81 x.body.tag) :
    s.replyAdmission j x = ((s.replySent j x).modTables x.tables (Table.releasedAt (s.jobRelease x))).modJob j
      (Job.admittedFor (s.jobRelease x)) := by
  have hreply := State.answer_expected (s := s) (qpn := 0x10) hs.qps_ hl hq (BitVec.ofNat 8 j) 0 (s.admissionBody j x (s.jobRelease x))
  have hjobs : SMap.wf none ((s.replySent j x).modTables x.tables (Table.releasedAt (s.jobRelease x))).jobs = true := by
    rw [State.modTables_jobs]
    exact hs.jobs_
  refine Eq.trans ?_ (State.modJob_modJob hjobs j (fun y => { y with state := .admitted, release := s.jobRelease x })
    (fun y => { y with replied := true }))
  have hreply' : s.answer 0x10 0x81 x.body.tag (BitVec.ofNat 8 j) 0 (s.admissionBody j x
    (s.releaseTick x (x.tables.any (fun t => (s.table t).run == 2)))) = s.replySent j x := hreply
  simp only [State.replyAdmission, hfirst, hst, Option.isSome_none, Bool.false_eq_true, if_false, ne_eq, not_true, hreply']
  rfl

theorem exec_admissionReply_nothing (h : s.adm.loading = none) : exec .admissionReply s = .next s := by
  have harm : exec .admissionReply s = execAdmissionReply s := rfl
  simp only [harm, execAdmissionReply, h]

/-- The device with the job of a reply answered and its tasks to be released. -/
def State.admissionReplied (s : State) (j : Nat) (x : Job) : State :=
  ((s.replySent j x).modTables x.tables (Table.releasedAt (s.jobRelease x))).modJob j (Job.admittedFor (s.jobRelease x))

theorem exec_admissionReply_sent {due : Nat} (hs : Ok cmds s) (hload : s.adm.loading = some (j, due)) (hx : s.job j = some x)
    (hst : x.state = .loading) (hfirst : x.readmitted = none) (hwait : s.adm.waiting = [])
    (hlease : (s.mgt.handover && s.mgt.leaseValid) = false) (hl : s.host.link = true) (hq : (s.qp 0x10).Expects 0x81 x.body.tag) :
    exec .admissionReply s = .next { s.admissionReplied j x with adm := s.adm.idle } := by
  have hframe := (s.replySent j x).modJob_modTables_frame x.tables (Table.releasedAt (s.jobRelease x)) j (Job.admittedFor (s.jobRelease x))
  have hadm : (s.admissionReplied j x).adm = s.adm := (congrArg State.adm hframe :)
  have hmgt : (s.admissionReplied j x).mgt = s.mgt := (congrArg State.mgt hframe :)
  have hreply : s.replyAdmission j x = s.admissionReplied j x := State.replyAdmission_eq hs hst hfirst hl hq
  have harm : exec .admissionReply s = execAdmissionReply s := rfl
  simp only [harm, execAdmissionReply, hload, hx, hreply, hadm]
  exact congrArg Host.Outcome.next (State.startNext_idle rfl (by rw [hmgt]; exact hlease) hwait)

/-! ### READMISSION (R260) -/

/-- The device with the context of job `j` given up, and the job no longer asking to be admitted again. -/
def State.contextGivenUp (s : State) (j : Nat) : State :=
  s.modJob j (fun y => { y with context := none, body := { y.body with flags := y.body.flags &&& 0xFFFFFFFB } })

/-- A job whose table a dealer failure has taken away is refused. -/
theorem exec_readmission_gone (hx : s.job j = some x) (hdue : s.readmitDue x = true) (hcur : s.adm.current = none) (hcalm : s.mgt.hold = false)
    (hl : s.host.link = true) (hq : (s.qp 0x10).state = 1) (hgone : s.dealerGone x = true) :
    exec (.readmission j inp) s = .next ((s.contextGivenUp j).sent (.frame 0x10 0x81 x.body.tag (BitVec.ofNat 8 j) 0x0016 [])) := by
  have hgone' : (s.contextGivenUp j).dealerGone x = true := hgone
  have harm : exec (.readmission j inp) s = execReadmission j inp s := rfl
  have hgo : ¬ (¬ s.readmitDue x = true ∨ s.adm.current.isSome = true ∨ s.mgt.hold = true) := by simp [hdue, hcur, hcalm]
  have hsend := State.send_ready (s := s.contextGivenUp j) (x := .frame 0x10 0x81 x.body.tag (BitVec.ofNat 8 j) 0x0016 []) hq hl
  simp only [harm, execReadmission, hx]
  rw [if_neg hgo]
  exact congrArg Host.Outcome.next ((if_pos hgone').trans hsend)

/-- The image of a job to be admitted again is read from the host once more. -/
def State.imageAsked (s : State) (j : Nat) (x : Job) : State := (s.contextGivenUp j).sent (.read 0x10 x.body.imgRkey x.body.imgAddr x.body.imgLen)

/-- A job that is admitted again is placed, and keeps the number under which it was admitted first. -/
theorem exec_readmission_placed {pl : Plan} (hx : s.job j = some x) (hdue : s.readmitDue x = true) (hcur : s.adm.current = none)
    (hcalm : s.mgt.hold = false) (hl : s.host.link = true) (hq : (s.qp 0x10).state = 1) (hgone : s.dealerGone x = false)
    (hplan : (s.imageAsked j x).plan x.body inp.image (x.context.map (s.imageAsked j x).openContext) = .ok pl) :
    exec (.readmission j inp) s = .next ((s.imageAsked j x).placeJob x.body (inp.image.getD []) pl (some (x.readmitted.getD j))) := by
  have hgone' : ¬ (s.contextGivenUp j).dealerGone x = true := by
    change ¬ s.dealerGone x = true
    simp [hgone]
  have harm : exec (.readmission j inp) s = execReadmission j inp s := rfl
  have hgo : ¬ (¬ s.readmitDue x = true ∨ s.adm.current.isSome = true ∨ s.mgt.hold = true) := by simp [hdue, hcur, hcalm]
  have hsend : (s.contextGivenUp j).send (.read 0x10 x.body.imgRkey x.body.imgAddr x.body.imgLen) = s.imageAsked j x := State.send_ready hq hl
  simp only [harm, execReadmission, hx]
  rw [if_neg hgo]
  refine congrArg Host.Outcome.next ((if_neg hgone').trans ?_)
  unfold State.contextGivenUp at hsend
  simp only [hsend, hplan]

theorem exec_readmission_notDue (hx : s.job j = some x) (hdue : s.readmitDue x = false) : exec (.readmission j inp) s = .next s := by
  have harm : exec (.readmission j inp) s = execReadmission j inp s := rfl
  simp [harm, execReadmission, hx, hdue]

/-! ### The statement -/

/-- Settles O41: what the admission unit does with a submission is said by `exec_submit_taken` and `exec_submit_queued`, a placed job by
`State.placeJob_placed`, its reply by `exec_admissionReply_sent`, and its re-admission by `exec_readmission_placed`. -/
theorem jobsAreAdmitted : Obligations.JobsAreAdmitted := by
  unfold Obligations.JobsAreAdmitted
  rintro s f b inp hcan
  have hs := hcan.ok
  refine ⟨fun h hread hcur hwait hlease hfree => ?_, fun c h hread hcur => ?_, exec_submit_malformed hs, exec_admission_nothing,
    fun code hcur hload hwait hlease hplan hl hst ho => ?_, fun pl hcur hload hplan hres => ?_, exec_admissionReply_nothing,
    fun j due x hload hx hst hfirst hwait hlease hl hq ho => ?_, ?_, fun j x => exec_readmission_notDue⟩
  · exact ⟨_, exec_submit_taken hs h hread hcur hwait hlease hfree, rfl, rfl, rfl, (State.qp_taking_submit hs h).2⟩
  · refine ⟨_, exec_submit_queued h hread, ?_⟩
    rw [State.startNext_busy (s := (s.taking 1 f).queued b) hcur]
    exact ⟨rfl, rfl, rfl⟩
  · refine ⟨_, exec_admission_refused hs hcur hload hwait hlease hplan hl ⟨hst, ho⟩, rfl, rfl, rfl, ?_⟩
    exact State.order_modQp_awaiting (s := { s with adm := s.adm.idle }.sent _) hs.qps_ 0x10 []
  · have hplaced := s.placeJob_placed hs.qps_ b (inp.image.getD []) none hres
    have hjob := hplaced.job hs.jobs_
    exact ⟨_, _, exec_admission_placed hcur hload hplan, hplaced.adm, (hjob pl.job).trans (if_pos rfl), rfl, rfl, rfl, rfl, rfl,
      fun i hi => (hjob i).trans (if_neg hi), hplaced.qp.1, hplaced.qp.2⟩
  · obtain ⟨hlo, hhi⟩ := s.releaseTick_bounds x (x.tables.any (fun t => (s.table t).run == 2))
    have hframe := (s.replySent j x).modJob_modTables_frame x.tables (Table.releasedAt (s.jobRelease x)) j (Job.admittedFor (s.jobRelease x))
    refine ⟨_, s.jobRelease x, _, exec_admissionReply_sent hs hload hx hst hfirst hwait hlease hl ⟨hq, ho⟩, hlo, hhi, rfl,
      State.job_modJob_modTables (s := s.replySent j x) hs.jobs_ hx _ _ _, s.take_admissionBody j x (s.jobRelease x),
      (congrArg (fun u : State => u.host.tx) hframe :), fun u => ?_⟩
    exact State.table_modTables_of_idempotent (s := s.replySent j x) hs.tables_.1 _ (g := Table.releasedAt (s.jobRelease x)) (fun _ => rfl) u
  · rintro j x s1 hx hdue hcur hcalm hl hq rfl
    refine ⟨exec_readmission_gone hx hdue hcur hcalm hl hq, ?_⟩
    rintro s2 pl hgone rfl hplan hres
    have hs1 : Ok s.pending (s.imageAsked j x) := State.modJob_ok hs
    have hplaced := (s.imageAsked j x).placeJob_placed hs1.qps_ x.body (inp.image.getD []) (some (x.readmitted.getD j)) hres
    refine ⟨_, exec_readmission_placed hx hdue hcur hcalm hl hq hgone hplan, congrArg Admission.loading hplaced.adm, ?_, ?_⟩
    · rw [hplaced.tx]
      exact List.prefix_rfl
    · rw [hplaced.job hs1.jobs_, if_pos rfl]
      rfl

end Sys2Proof.Machine
end

section
/-!
Frames that are dropped, kept, refused or answered (R264, R270, R271, R279, R280, R356), and the QUERY frames (R273).
-/
namespace Sys2Proof.Machine

variable {cmds : List Instr} {s : State} {i : Instr} {typ : BitVec 8} {lead : Nat} {f : HostFrame} {act : State → State} {b : Job}

/-! ### Frames that are not taken (R264, R279, R280, R356) -/

theorem State.hostFrame_unlinked (hl : s.host.link = false) : s.hostFrame i typ lead f act = s := by
  simp [State.hostFrame, hl]

theorem State.hostFrame_closed (hl : s.host.link = true) (hq : (s.qp f.qpn.toNat).state = 0) :
    s.hostFrame i typ lead f act = s.dropPackets (packetsOf (frameSize f lead)) := by
  simp [State.hostFrame, State.arrived, hl, hq]

theorem State.dropPackets_frame (s : State) (k : Nat) : { s.dropPackets k with host := s.host, marks := s.marks } = s := by
  unfold State.dropPackets State.mark
  split <;> rfl

theorem State.dropPackets_host (s : State) (k : Nat) : (s.dropPackets k).host = { s.host with drop := satAdd s.host.drop k } := by
  unfold State.dropPackets State.mark
  split <;> rfl

/-- A frame other than SUBMIT waits for the end of an arbitration hold; every frame waits behind one that waits (R273, R356). -/
theorem State.hostFrame_waiting (hl : s.host.link = true) (hq : (s.qp f.qpn.toNat).state = 1) (htyp : typ ≠ 1)
    (hwait : s.mgt.hold = true ∨ s.qpBlocked f.qpn.toNat = true) : s.hostFrame i typ lead f act = s.keepFrame i f.qpn := by
  have hcond : (if s.mgt.hold then typ != 1 else s.qpBlocked f.qpn.toNat) = true := by
    split
    · exact bne_iff_ne.2 htyp
    · next hcalm => exact hwait.resolve_left hcalm
  simp only [State.hostFrame, State.arrived, hl, hq, hcond, Bool.not_true, Bool.false_eq_true, if_false, if_true]
  rfl

/-- A frame that waits takes a receive buffer of its queue pair, or is answered with RNR NAK where none is free (R280). -/
theorem State.keepFrame_eq {qpn : BitVec 24} (hl : s.host.link = true) (hq : (s.qp qpn.toNat).state = 1) :
    s.keepFrame i qpn = { s with host := if s.heldCount qpn.toNat < (if qpn = 0x10 then 16 else 4)
      then { s.host with heldFrames := s.host.heldFrames ++ [(s.beacon, i)] }
      else { s.host with tx := s.host.tx ++ [.rnrNak qpn] } } := by
  have hposted : postedBuffers qpn.toNat = if qpn = 0x10 then 16 else 4 := by simp only [postedBuffers, qpn_toNat_eq_iff]
  rw [State.keepFrame, hposted, State.send_ready (x := .rnrNak qpn) hq hl]
  obtain h | h := Nat.lt_or_ge (s.heldCount qpn.toNat) (if qpn = 0x10 then 16 else 4)
  · rw [if_neg (Nat.not_le.2 h), if_pos h]
  · rw [if_pos h, if_neg (Nat.not_lt.2 h)]

/-! ### The checks of a frame (R270, R271) -/

/-- The host port checks frame `f` at once: there is link, its queue pair is ready, no hold is on, and no frame there waits or awaits its
reply. -/
structure State.ChecksNow (s : State) (f : HostFrame) : Prop where
  link   : s.host.link = true
  ready  : (s.qp f.qpn.toNat).state = 1
  calm   : s.mgt.hold = false
  unheld : s.qpBlocked f.qpn.toNat = false
  first  : (s.qp f.qpn.toNat).order = []

theorem checksNow_of_taken (h : FrameTaken s typ lead f) : s.ChecksNow f := ⟨h.link, h.ready, h.calm, h.unheld, h.first⟩

theorem State.hostFrame_checked (h : s.ChecksNow f) : s.hostFrame i typ lead f act = s.takeFrame typ lead f act := by
  simp [State.hostFrame, State.arrived, h.link, h.ready, h.calm, h.unheld]

theorem headerOk_iff : headerOk f lead = true ↔ frameSize f lead ≤ (if f.qpn = 0x10 then 4096 else 16384) ∧
    f.len.toNat = frameSize f lead ∧ f.ver = 1 ∧ f.status = 0 ∧ f.rsv = 0 := by
  simp only [headerOk, bufferSize, qpn_toNat_eq_iff, Bool.and_eq_true, decide_eq_true_eq, beq_iff_eq, and_assoc]

theorem hostType_eq_false_iff : hostType typ = false ↔ typ.toNat = 0 ∨ 10 < typ.toNat := by
  simp only [hostType, Bool.and_eq_false_iff, decide_eq_false_iff_not]
  omega

theorem State.takeFrame_malformed (h : headerOk f lead = false) :
    s.takeFrame typ lead f act = (s.taking typ f).refuse typ f 0x0053 := by
  simp only [State.takeFrame, h, Bool.not_false, if_true]
  rfl

theorem State.takeFrame_unknown (h : headerOk f lead = true) (htyp : hostType typ = false) :
    s.takeFrame typ lead f act = (s.taking typ f).refuse typ f 0x0054 := by
  simp only [State.takeFrame, h, htyp, Bool.not_true, Bool.not_false, Bool.false_eq_true, if_true, if_false]
  rfl

theorem State.takeFrame_uncarried (h : headerOk f lead = true) (htyp : hostType typ = true) (hqp : carried typ (f.qpn.toNat == 16) = false) :
    s.takeFrame typ lead f act = (s.taking typ f).refuse typ f 0x0055 := by
  simp only [State.takeFrame, h, htyp, hqp, Bool.not_true, Bool.not_false, Bool.true_or, Bool.false_eq_true, if_true, if_false]
  rfl

/-- The reply to a frame that was checked at once is all that the frame leaves. -/
theorem State.answer_taking (hs : Ok cmds s) (h : s.ChecksNow f) (job : BitVec 8) (status : BitVec 16) (body : List Byte) :
    (s.taking typ f).answer f.qpn (typ ||| 0x80) f.tag job status body = s.sent (.frame f.qpn (typ ||| 0x80) f.tag job status body) := by
  have hqp : (s.taking typ f).qp f.qpn.toNat = (s.qp f.qpn.toNat).awaiting [⟨typ ||| 0x80, f.tag, false, none⟩] :=
    State.qp_expect_first hs.qps_ h.first
  have hreply := State.answer_expected (s := s.taking typ f) (typ := typ ||| 0x80) (tag := f.tag) (State.taking_ok hs typ f).qps_
    (qpn := f.qpn) h.link ⟨by rw [hqp]; exact h.ready, by rw [hqp]; rfl⟩ job status body
  have hback : (s.taking typ f).modQp f.qpn.toNat (QueuePair.awaiting []) = s := by
    rw [State.taking, State.expect_first h.first, State.modQp_modQp hs.qps_]
    refine State.modQp_eq_self hs.qps_ ?_
    rw [QueuePair.awaiting, QueuePair.awaiting, ← h.first]
  exact hreply.trans (congrArg (State.sent · (.frame f.qpn (typ ||| 0x80) f.tag job status body)) hback)

theorem State.refuse_checked (hs : Ok cmds s) (h : s.ChecksNow f) (code : BitVec 16) :
    (s.taking typ f).refuse typ f code = replied s typ f code [] := State.answer_taking hs h f.job code []

/-- A malformed frame is refused (R270). -/
theorem State.hostFrame_malformed (hs : Ok cmds s) (h : s.ChecksNow f) (hhead : headerOk f lead = false) :
    s.hostFrame i typ lead f act = replied s typ f 0x0053 [] := by
  rw [State.hostFrame_checked h, State.takeFrame_malformed hhead, State.refuse_checked hs h]

/-- A frame of a TYPE that no host sends is refused (R271). -/
theorem State.hostFrame_unknown (hs : Ok cmds s) (h : s.ChecksNow f) (hhead : headerOk f lead = true) (htyp : hostType typ = false) :
    s.hostFrame i typ lead f act = replied s typ f 0x0054 [] := by
  rw [State.hostFrame_checked h, State.takeFrame_unknown hhead htyp, State.refuse_checked hs h]

/-- A frame of a TYPE that its queue pair does not carry is refused (R271). -/
theorem State.hostFrame_uncarried (hs : Ok cmds s) (h : s.ChecksNow f) (hhead : headerOk f lead = true) (htyp : hostType typ = true)
    (hqp : carried typ (f.qpn.toNat == 16) = false) : s.hostFrame i typ lead f act = replied s typ f 0x0055 [] := by
  rw [State.hostFrame_checked h, State.takeFrame_uncarried hhead htyp hqp, State.refuse_checked hs h]

/-! ### UNKNOWN_TYPE (R270, R271, R273) -/

theorem exec_unknownType_unlinked (hl : s.host.link = false) : exec (.unknownType typ f) s = .next s := by
  have harm : exec (.unknownType typ f) s = execUnknownType typ f s := rfl
  simp only [harm, execUnknownType, State.hostFrame_unlinked hl, ite_self]

/-- A TYPE that no host sends is checked as it is. -/
theorem exec_unknownType_unlisted (htyp : hostType typ = false) :
    exec (.unknownType typ f) s = .next (s.hostFrame (.unknownType typ f) typ 0 f id) := by
  have harm : exec (.unknownType typ f) s = execUnknownType typ f s := rfl
  have hlisted : ¬ (typ = 2 ∨ typ = 7) := by
    rintro (rfl | rfl) <;> simp [hostType] at htyp
  simp only [harm, execUnknownType, if_neg hlisted, htyp, Bool.false_eq_true, if_false]

/-- A QUERY or SIGNAL whose byte 16 is missing or of no row, on a queue pair that carries it, is malformed. -/
theorem exec_unknownType_noRow (hs : Ok cmds s) (htyp : typ = 2 ∨ typ = 7) (h : FrameTaken s typ 0 f)
    (hbody : f.body = [] ∨ ∃ b rest, f.body = b :: rest ∧ 2 ≤ b.toNat) :
    exec (.unknownType typ f) s = .next (replied s typ f 0x0053 []) := by
  have harm : exec (.unknownType typ f) s = execUnknownType typ f s := rfl
  have hrow : f.body.head?.any (fun b => decide (b.toNat < 2)) = false := by
    obtain hnil | ⟨b, rest, hcons, hb⟩ := hbody
    · rw [hnil]; rfl
    · rw [hcons]; exact decide_eq_false (by omega)
  simp only [harm, execUnknownType, if_pos htyp, hrow, Bool.false_eq_true, if_false]
  exact congrArg Host.Outcome.next ((State.hostFrame_taken h _ _).trans (State.refuse_taking hs h stMalformed))

/-! ### QUERY (R273) -/

theorem queryLayout_zeros (h : f.body = List.replicate 15 0) : queryLayout f = true := by
  rw [queryLayout, h]
  decide

theorem code_eq_queryState (b : Job) : b.state.code = queryState b := by
  unfold queryState JobState.code
  cases b.state <;> rfl

/-- A QUERY finds a job that is loaded and whose abort has not begun, and one that has ended (R273, R283). -/
theorem State.known_eq (hb : s.job f.job.toNat = some b) :
    (s.named f.job).or ((s.job f.job.toNat).filter (fun b => decide (b.state = .ended))) =
      if b.state = .loading ∨ b.state = .aborting then none else some b := by
  cases h : b.state <;> simp [State.named, hb, Option.filter, h]

/-- A device QUERY tells the part, the tables and the beacon. -/
theorem exec_queryDevice_taken (hs : Ok cmds s) (h : FrameTaken s 2 1 f) (hbody : f.body = List.replicate 15 0) (hjob : f.job = 0xFF) :
    exec (.queryDevice f) s = .next (replied s 2 f 0 (wordLe s.partId ++ natLe 1 s.inService.length ++ natLe 1 s.freeTables.length ++
      natLe 8 s.beacon ++ natLe 1 (b2n s.host.mode))) := by
  refine congrArg Host.Outcome.next ((State.hostFrame_taken h _ _).trans ?_)
  simp only [State.queryDeviceFrame, queryLayout_zeros hbody, hjob, Bool.not_true, Bool.false_or, bne_self_eq_false, Bool.false_eq_true, if_false]
  rw [replied, hjob]
  exact State.answer_taking (typ := 2) hs (checksNow_of_taken h) 0xFF 0 _

/-- A job QUERY tells the state of the job, or that there is no such job. -/
theorem exec_queryJob_taken (hs : Ok cmds s) (h : FrameTaken s 2 1 f) (hbody : f.body = List.replicate 15 0) (hj : f.job.toNat < 64)
    (hb : s.job f.job.toNat = some b) :
    exec (.queryJob f) s = .next (if b.state = .loading ∨ b.state = .aborting then replied s 2 f 0x0056 []
      else replied s 2 f 0 (natLe 1 (queryState b) ++ natLe 8 s.beacon ++ b.record)) := by
  have hnumber : decide (64 ≤ f.job.toNat) = false := decide_eq_false (by omega)
  refine congrArg Host.Outcome.next ((State.hostFrame_taken h _ _).trans ?_)
  simp only [State.queryJobFrame, queryLayout_zeros hbody, hnumber, State.known_eq (s := s.taking 2 f) hb, Bool.not_true, Bool.false_and,
    Bool.or_false, Bool.false_eq_true, if_false]
  split_ifs
  · exact State.refuse_taking hs h stNoJob
  · rw [← code_eq_queryState]
    exact State.answer_taking (typ := 2) hs (checksNow_of_taken h) f.job 0 _

/-! ### The statement -/

/-- Settles O38: where a frame goes by link, queue pair and hold, by `State.hostFrame_closed`, `State.hostFrame_waiting` and
`State.hostFrame_checked`; its refusals in the order of the checks; and what the QUERY frames tell. -/
theorem framesAreChecked : Obligations.FramesAreChecked := by
  unfold Obligations.FramesAreChecked
  intro s typ f hcan
  have hs := hcan.ok
  refine ⟨fun hl => ⟨congrArg Host.Outcome.next (State.hostFrame_unlinked hl), exec_unknownType_unlinked hl⟩,
    fun hl hq => ⟨_, congrArg Host.Outcome.next (State.hostFrame_closed hl hq), State.dropPackets_frame .., State.dropPackets_host ..⟩,
    fun hl hq hwait => congrArg Host.Outcome.next ((State.hostFrame_waiting hl hq (by decide) hwait).trans (State.keepFrame_eq hl hq)),
    fun hl hq hcalm hunheld hfirst => ?_, exec_queryDevice_taken hs,
    fun b h hbody hj hb => exec_queryJob_taken hs h hbody hj hb⟩
  have hnow : s.ChecksNow f := ⟨hl, hq, hcalm, hunheld, hfirst⟩
  refine ⟨fun htyp hver hstatus hrsv hlen hfits hqpn hbody => ?_, fun hbad => ?_, fun hver hstatus hrsv hlen hfits htyp => ?_,
    fun hver hstatus hrsv hlen hfits hqpn => ?_⟩
  · refine exec_unknownType_noRow hs htyp ⟨hl, hq, hcalm, hfirst, hunheld, ⟨hlen, hver, hstatus, hrsv⟩, hfits, ?_⟩ hbody
    obtain rfl | rfl := htyp
    · exact .inl ⟨hqpn, by decide⟩
    · exact .inr ⟨hqpn, by decide, by decide⟩
  · refine congrArg Host.Outcome.next (State.hostFrame_malformed hs hnow (Bool.eq_false_iff.2 fun hhead => ?_))
    obtain ⟨-, hlen, hver, -, -⟩ := headerOk_iff.1 hhead
    exact hbad.elim (· hver) (· hlen)
  · have hhost := hostType_eq_false_iff.2 htyp
    rw [exec_unknownType_unlisted hhost, State.hostFrame_unknown (lead := 0) hs hnow (headerOk_iff.2 ⟨hfits, hlen, hver, hstatus, hrsv⟩) hhost]
  · have hhead : headerOk f 1 = true := headerOk_iff.2 ⟨by rw [if_neg hqpn]; exact hfits, hlen, hver, hstatus, hrsv⟩
    have hcontrol : (f.qpn.toNat == 16) = false := beq_eq_false_iff_ne.2 (mt (qpn_toNat_eq_iff _).1 hqpn)
    exact congrArg Host.Outcome.next (State.hostFrame_uncarried hs hnow hhead rfl (by rw [hcontrol]; rfl))

end Sys2Proof.Machine
end

section
/-!
COMPLETION_RECORD (R275): the fields of the record, the writes that carry it to the host, and what the end of a job frees.
-/
namespace Sys2Proof.Machine

variable {cmds : List Instr} {s : State} {j : Nat} {b : Job}

/-! ### Packed fields -/

/-- Without its first `k` fields a packed number holds the others. -/
theorem packBits_shiftRight (k : Nat) (fs : List (Nat × Nat)) : packBits fs >>> ((fs.take k).map (·.1)).sum = packBits (fs.drop k) := by
  induction k generalizing fs with
  | zero => rfl
  | succ k ih =>
    cases fs with
    | nil => rfl
    | cons x rest =>
      obtain ⟨w, v⟩ := x
      have hfirst : packBits ((w, v) :: rest) >>> w = packBits rest := by
        rw [packBits, Nat.shiftLeft_eq, Nat.shiftRight_eq_div_pow, Nat.add_mul_div_right _ _ (Nat.two_pow_pos w),
          Nat.div_eq_of_lt (Nat.mod_lt _ (Nat.two_pow_pos w)), Nat.zero_add]
      simp only [List.take_succ_cons, List.map_cons, List.sum_cons, List.drop_succ_cons, Nat.shiftRight_add, hfirst, ih]

/-- Bytes within the first field of a packed number are those of that field. -/
theorem natLe_packBits_cons {m w : Nat} (h : 8 * m ≤ w) (v : Nat) (rest : List (Nat × Nat)) :
    natLe m (packBits ((w, v) :: rest)) = natLe m v := by
  refine List.map_congr_left fun i hi => BitVec.eq_of_getLsbD_eq fun o ho => ?_
  have hlow : 8 * i + o < w := by
    have := List.mem_range.1 hi
    omega
  simp only [BitVec.getLsbD_ofNat, Nat.testBit_shiftRight, packBits, Nat.shiftLeft_eq, Nat.mul_comm _ (2 ^ w), Nat.add_comm (v % 2 ^ w),
    Nat.testBit_two_pow_mul_add _ (Nat.mod_lt v (Nat.two_pow_pos w)), Nat.testBit_mod_two_pow, hlow, decide_true, Bool.true_and, if_true]

/-- Some of the bytes of a number. -/
theorem take_drop_natLe {n o m : Nat} (h : o + m ≤ n) (v : Nat) : ((natLe n v).drop o).take m = natLe m (v >>> (8 * o)) := by
  refine List.ext_getElem (by simp; omega) fun i hi hi' => ?_
  simp only [natLe, List.getElem_take, List.getElem_drop, List.getElem_map, List.getElem_range, ← Nat.shiftRight_add, Nat.mul_add]

/-- A field of a packed number that begins at byte `o` and fills `m` bytes. -/
theorem take_drop_natLe_packBits {n o m v : Nat} {fs rest : List (Nat × Nat)} (k : Nat) (hfs : fs.drop k = (8 * m, v) :: rest)
    (ho : ((fs.take k).map (·.1)).sum = 8 * o) (h : o + m ≤ n) : ((natLe n (packBits fs)).drop o).take m = natLe m v := by
  rw [take_drop_natLe h, ← ho, packBits_shiftRight, hfs, natLe_packBits_cons le_rfl]

/-! ### The record -/

theorem State.length_completionRecord (s : State) (j : Nat) (b : Job) (status : Nat) : (s.completionRecord j b status).length = 1280 :=
  length_natLe ..

theorem State.completionRecord_status (s : State) (j : Nat) (b : Job) (status : Nat) : (s.completionRecord j b status).take 1 = natLe 1 status :=
  take_drop_natLe_packBits (o := 0) 0 rfl rfl (by decide)

theorem State.completionRecord_stamp (s : State) (j : Nat) (b : Job) (status : Nat) :
    ((s.completionRecord j b status).drop 8).take 8 = natLe 8 b.stamp :=
  take_drop_natLe_packBits (o := 8) 11 rfl rfl (by decide)

theorem State.completionRecord_end (s : State) (j : Nat) (b : Job) (status : Nat) :
    ((s.completionRecord j b status).drop 16).take 8 = natLe 8 s.beacon :=
  take_drop_natLe_packBits (o := 16) 12 rfl rfl (by decide)

/-- What carries a record to the host: its first 8 bytes go last, and a frame only where the submission asks for one. -/
def recordTx (j : Nat) (b : Job) (record : List Byte) : List HostTx :=
  [.write (BitVec.ofNat 24 (256 + j)) b.body.cmplRkey (b.body.cmplAddr + 8) (record.drop 8),
    .write (BitVec.ofNat 24 (256 + j)) b.body.cmplRkey b.body.cmplAddr (record.take 8)] ++
  if b.body.flags.getLsbD 3 then [.frame (BitVec.ofNat 24 (256 + j)) 0xC1 0 (BitVec.ofNat 8 j) 0 record] else []

/-- The state with all of `l` sent. -/
def State.sentAll (s : State) (l : List HostTx) : State := { s with host := { s.host with tx := s.host.tx ++ l } }

theorem State.sendRecord_eq (hj : j < 64) (hq : (s.qp (256 + j)).state = 1) (hl : s.host.link = true) (b : Job) (record : List Byte) :
    s.sendRecord j b record = s.sentAll (recordTx j b record) := by
  have hqpn : (BitVec.ofNat 24 (256 + j)).toNat = 256 + j := Nat.mod_eq_of_lt (by omega)
  have hsend (u : State) (x : HostTx) (hx : x.qpn = BitVec.ofNat 24 (256 + j)) (hu : (u.qp (256 + j)).state = 1) (hul : u.host.link = true) :
      u.send x = u.sent x := State.send_ready (by rw [hx, hqpn]; exact hu) hul
  unfold State.sendRecord
  dsimp only
  rw [hsend s _ rfl hq hl, hsend (s.sent _) _ rfl hq hl, hsend ((s.sent _).sent _) _ rfl hq hl]
  unfold recordTx
  split <;> simp [State.sent, State.sentAll]

/-! ### What the end of a job frees (R259) -/

/-- A table that holds no job and is to release none. -/
def Table.Freed (x : Table) : Prop := x.job = none ∧ x.release = none

/-- A table without its job: its channels closed and empty. -/
def Table.withoutJob (x : Table) : Table :=
  { x with
    job := none, pend := [], release := none
    snd := SMap.mapAll SndChan.reset x.snd (fun _ c => c.close), rcv := SMap.mapAll RcvChan.reset x.rcv (fun _ c => c.discard) }

/-- A table whose counters are zero. -/
def Table.withoutCounters (x : Table) : Table := { x with ctr := [], ctrInit := [] }

/-- A table whose dealer is not to pause. -/
def Table.unarmed (x : Table) : Table := { x with pause := x.pause &&& 0xFFF }

/-- The counter faults of table `t` cleared. -/
def State.clearSynFaults (s : State) (t : Nat) : State := (s.setCsr (synReg t 0x840) 0).setCsr (synReg t 0x844) 0

/-- Table `t` without its job, and without its counters once they are reported. -/
def State.withoutTask (s : State) (t : Nat) : Bool → State
  | false => (s.modTable t Table.withoutJob).modTable t Table.unarmed
  | true => (((s.modTable t Table.withoutJob).clearSynFaults t).modTable t Table.withoutCounters).modTable t Table.unarmed

/-- Table `t` after its job: FAULT cleared and a repair begun, unless it is out of service. -/
def State.backInService (s : State) (t : Nat) : State :=
  if s.outOfService t then s else
  let s := if s.hasCause t causeFault then s.clearCause t causeFault else s
  if (s.table t).failed.isEmpty then s
  else s.setTblStat (s.logTable t) ((s.tblStat (s.logTable t) &&& 0x1FC) ||| 1)

theorem State.freeTable_eq (reported : Bool) (s : State) (t : Nat) :
    s.freeTable reported t = (s.withoutTask t reported).backInService t := by
  cases reported <;> rfl

theorem State.clearSynFaults_frame (s : State) (t : Nat) : { s.clearSynFaults t with csr := s.csr } = s := rfl

/-- From a state that differs from `s` without its job on table `t` in registers alone. -/
theorem State.unarmed_frame {u : State} {t : Nat} (h : { u with csr := s.csr } = s.modTable t Table.withoutJob) :
    { (u.modTable t Table.withoutCounters).modTable t Table.unarmed with tables := s.tables, csr := s.csr } = s :=
  congrArg (fun v : State => { v with tables := s.tables }) h

theorem State.withoutTask_frame (s : State) (t : Nat) (reported : Bool) :
    { s.withoutTask t reported with tables := s.tables, csr := s.csr } = s := by
  cases reported with
  | false => rfl
  | true => exact State.unarmed_frame (State.clearSynFaults_frame _ t)

theorem State.backInService_frame (s : State) (t : Nat) : { s.backInService t with fuses := s.fuses, regions := s.regions } = s := by
  unfold State.backInService
  split
  · rfl
  · dsimp only
    split <;> split <;> rfl

/-- What freeing a table reaches. -/
theorem State.freeTable_frame (reported : Bool) (s : State) (t : Nat) :
    { s.freeTable reported t with tables := s.tables, csr := s.csr, fuses := s.fuses, regions := s.regions } = s := by
  rw [State.freeTable_eq]
  have htask := s.withoutTask_frame t reported
  have hback := (s.withoutTask t reported).backInService_frame t
  generalize (s.withoutTask t reported).backInService t = v at hback ⊢
  generalize s.withoutTask t reported = u at htask hback
  exact (congrArg (fun w : State => { w with tables := s.tables, csr := s.csr, fuses := s.fuses, regions := s.regions }) hback).trans
    (congrArg (fun w : State => { w with fuses := s.fuses, regions := s.regions }) htask)

/-- Two changes of one table are one change. -/
theorem State.modTable_modTable (hs : SMap.wf Table.reset s.tables = true) (t : Nat) (g h : Table → Table) :
    (s.modTable t g).modTable t h = s.modTable t (fun x => h (g x)) := by
  simp only [State.modTable, SMap.modify, SMap.get_set_same hs, SMap.set_set hs]

theorem State.withoutTask_tables (hs : SMap.wf Table.reset s.tables = true) (t : Nat) (reported : Bool) :
    ∃ g : Table → Table, (s.withoutTask t reported).tables = (s.modTable t g).tables ∧ ∀ x, (g x).Freed := by
  cases reported with
  | false =>
    refine ⟨fun x => x.withoutJob.unarmed, ?_, fun _ => ⟨rfl, rfl⟩⟩
    rw [State.withoutTask, State.modTable_modTable hs]
  | true =>
    refine ⟨fun x => x.withoutJob.withoutCounters.unarmed, ?_, fun _ => ⟨rfl, rfl⟩⟩
    rw [← State.modTable_modTable hs, ← State.modTable_modTable hs]
    rfl

/-- Freeing table `t` changes that table alone, and leaves it free. -/
theorem State.freeTable_tables (hs : SMap.wf Table.reset s.tables = true) (reported : Bool) (t : Nat) :
    ∃ g : Table → Table, (s.freeTable reported t).tables = (s.modTable t g).tables ∧ ∀ x, (g x).Freed := by
  have hback : (s.freeTable reported t).tables = (s.withoutTask t reported).tables := by
    rw [State.freeTable_eq]
    exact (congrArg State.tables ((s.withoutTask t reported).backInService_frame t) :)
  rw [hback]
  exact State.withoutTask_tables hs t reported

/-- Once the tables `ts` are freed, each of them is free. -/
theorem State.table_foldl_freeTable (hs : SMap.wf Table.reset s.tables = true) (reported : Bool) {ts : List Nat} {u : Nat}
    (h : u ∈ ts ∨ (s.table u).Freed) : ((ts.foldl (State.freeTable reported) s).table u).Freed := by
  induction ts generalizing s with
  | nil => exact h.resolve_left List.not_mem_nil
  | cons t ts ih =>
    obtain ⟨g, htab, hg⟩ := State.freeTable_tables hs reported t
    have hu : (s.freeTable reported t).table u = if u = t then g (s.table t) else s.table u :=
      (congrArg (SMap.get Table.reset · u) htab).trans (State.table_modTable hs t u g)
    refine ih (by rw [htab]; exact SMap.wf_modify t g hs) ?_
    rw [hu]
    split
    · exact .inr (hg _)
    · next hne => exact h.imp_left fun hmem => (List.mem_cons.1 hmem).resolve_left hne

theorem State.freeTables_frame (reported : Bool) (s : State) (ts : List Nat) :
    { ts.foldl (State.freeTable reported) s with tables := s.tables, csr := s.csr, fuses := s.fuses, regions := s.regions } = s :=
  foldl_keeps (P := fun u : State => { u with tables := s.tables, csr := s.csr, fuses := s.fuses, regions := s.regions } = s) rfl
    fun u t h => (congrArg (fun v : State => { v with tables := s.tables, csr := s.csr, fuses := s.fuses, regions := s.regions })
      (u.freeTable_frame reported t)).trans h

/-- What stands when the reservations of job `j` are freed: the jobs, what was sent, its tables free and its queue pair closed. -/
structure State.Released (s t : State) (j : Nat) (b : Job) : Prop where
  jobs   : t.jobs = s.jobs
  tx     : t.host.tx = s.host.tx
  qp     : t.qp (256 + j) = QueuePair.reset
  tables : ∀ u ∈ b.tables, (t.table u).Freed

theorem State.freeReservations_released (hs : Ok cmds s) (j : Nat) (b : Job) : s.Released (s.freeReservations j b) j b := by
  unfold State.freeReservations
  extract_lets mesh s0 s1
  have hframe : { s1 with tables := s.tables, csr := s.csr, fuses := s.fuses, regions := s.regions } = s0 :=
    s0.freeTables_frame b.residueTaken b.tables
  have hhost : s1.host = s.host := (congrArg State.host hframe :)
  refine ⟨(congrArg State.jobs hframe :), (congrArg HostPort.tx hhost :), ?_, fun u hu =>
    State.table_foldl_freeTable (s := s0) hs.tables_.1 b.residueTaken (.inl hu)⟩
  exact SMap.get_set_same (by rw [hhost]; exact hs.qps_) _ _

/-! ### The end of a job whose tasks have ended -/

theorem State.hostGone_of_ready (hq : (s.qp (256 + j)).state = 1) : s.hostGone j = false := by
  simp [State.hostGone, hq]

/-- A running job can end, with STATUS 1, once its residue is taken and nothing of it moves (R275). -/
theorem State.endStatus_running (hq : (s.qp (256 + j)).state = 1) (hl : s.host.link = true) (hst : b.state = .running)
    (hslots : b.slotDirty = []) (hopen : s.requestsOpen j b = false) (hdma : s.dmaStill j = true) :
    s.endStatus j b = if b.residueTaken then some 1 else none := by
  simp [State.endStatus, hq, hl, hst, hslots, hopen, hdma]

/-- A running job cannot end while its residue has not been taken. -/
theorem State.endStatus_unreported (hst : b.state = .running) (hres : b.residueTaken = false) : s.endStatus j b = none := by
  simp [State.endStatus, hst, hres]

/-- A job within its bound, or whose violation has been told, raises no violation (R34). -/
theorem State.passBound_told (h : b.violated = true ∨ s.beacon ≤ b.stamp + b.bound + s.hostTime b + s.pausedTime b) : s.passBound j b = s := by
  rw [State.passBound, if_pos (.inr h)]

/-- A change that leaves a job as it is changes nothing. -/
theorem State.modJob_eq_self (hs : SMap.wf none s.jobs = true) {g : Job → Job} (hb : s.job j = some b) (h : g b = b) : s.modJob j g = s := by
  have hset : SMap.modify none s.jobs j (Option.map g) = s.jobs := SMap.set_of_get hs (hb.trans (by rw [show SMap.get none s.jobs j = some b from hb, Option.map_some, h]))
  simp only [State.modJob, hset]

/-- Where no frame waits none is told. -/
theorem State.tell_of_none (hs : SMap.wf none s.jobs = true) (hb : s.job j = some b) (hwait : b.waiters = []) (typ : Nat) (body : List Byte) :
    s.tell j b typ body = s := by
  rw [State.tell_eq, State.tellWaiters, hwait]
  refine State.modJob_eq_self hs hb ?_
  rw [show b.waiters.filter (fun w => w.typ != typ) = b.waiters by rw [hwait]; rfl]

/-- A job that has ended with STATUS 1 and the record `record`. -/
def Job.endedWith (record : List Byte) (x : Job) : Job := { x with state := .ended, record := record, waiters := [], context := none }

/-- The device with job `j` ended and its record on its way to the host. -/
def State.ended (s : State) (j : Nat) (b : Job) : State :=
  ((s.sentAll (recordTx j b (s.completionRecord j b 1))).freeReservations j b).modJob j (Job.endedWith (s.completionRecord j b 1))

theorem State.endJob_eq (hs : Ok cmds s) (hj : j < 64) (hb : s.job j = some b) (hq : (s.qp (256 + j)).state = 1) (hl : s.host.link = true)
    (hwait : b.waiters = []) : s.endJob j b 1 = s.ended j b := by
  have htell (u : State) (hu : u.jobs = s.jobs) (typ : Nat) : u.tell j b typ [] = u :=
    State.tell_of_none (by rw [hu]; exact hs.jobs_) (by rw [State.job, hu]; exact hb) hwait typ []
  simp only [State.endJob, State.hostGone_of_ready hq, Bool.false_eq_true, if_false, State.sendRecord_eq hj hq hl]
  rw [htell (s.sentAll _) rfl, htell (s.sentAll _) rfl]
  rfl

theorem exec_completionRecord_ends (hs : Ok cmds s) (hj : j < 64) (hb : s.job j = some b) (hq : (s.qp (256 + j)).state = 1)
    (hl : s.host.link = true) (hend : s.endStatus j b = some 1)
    (hbound : b.violated = true ∨ s.beacon ≤ b.stamp + b.bound + s.hostTime b + s.pausedTime b) (hwait : b.waiters = []) :
    exec (.completionRecord j) s = .next (s.ended j b) := by
  have harm : exec (.completionRecord j) s = execCompletionRecord j s := rfl
  simp only [harm, execCompletionRecord, hb, hend, Option.isSome_some, if_true, State.passBound_told hbound, State.complete]
  rw [State.endJob_eq hs hj hb hq hl hwait]

theorem exec_completionRecord_waits (hb : s.job j = some b) (hend : s.endStatus j b = none) : exec (.completionRecord j) s = .next s := by
  have harm : exec (.completionRecord j) s = execCompletionRecord j s := rfl
  simp [harm, execCompletionRecord, hb, hend]

/-- Settles O40: the job ends by `exec_completionRecord_ends`; the record's fields are read by `take_drop_natLe_packBits`, and what its
end frees is `State.freeReservations_released`. -/
theorem recordsAreSent : Obligations.RecordsAreSent := by
  unfold Obligations.RecordsAreSent
  intro s j b hcan hj hb hq hl
  have hs := hcan.ok
  refine ⟨fun hst hres hbound hslots hopen hdma hwait => ?_, fun hst hres => exec_completionRecord_waits hb (State.endStatus_unreported hst hres)⟩
  have hend : s.endStatus j b = some 1 := by rw [State.endStatus_running hq hl hst hslots hopen hdma, hres, if_pos rfl]
  have hsent : Ok s.pending (s.sentAll (recordTx j b (s.completionRecord j b 1))) := { hs with }
  obtain ⟨hjobs, htx, hqp, htables⟩ := State.freeReservations_released hsent j b
  refine ⟨_, s.completionRecord j b 1, exec_completionRecord_ends hs hj hb hq hl hend hbound hwait, s.length_completionRecord .., ?_,
    s.completionRecord_stamp .., s.completionRecord_end .., ?_, ?_, htables, congrArg QueuePair.state hqp⟩
  · rw [State.completionRecord_status]
    decide
  · rw [State.ended, State.job_modJob (by rw [hjobs]; exact hs.jobs_), if_pos rfl, State.job, hjobs]
    refine (congrArg (Option.map _) hb).trans ?_
    rw [Option.map_some, Job.endedWith, ← hwait]
  · rw [State.ended, State.modJob_host, htx, List.append_assoc]
    rfl

end Sys2Proof.Machine
end

section
/-!
Queue pairs and the link of the host port (R262, R265, R267, R278, R282 to R284): rates, timeouts, errors and recovery; lanes lost, and the
link down and up.
-/
namespace Sys2Proof.Machine

variable {cmds : List Instr} {s t u : State} {qpn : BitVec 24} {j n : Nat}

/-! ### Sending after a change of the queue pair -/

/-- What is sent on a ready queue pair right after a change of it that leaves it ready. -/
theorem State.send_modQp (hs : Ok cmds s) {g : QueuePair → QueuePair} {x : HostTx} (hq : (g (s.qp x.qpn.toNat)).state = 1)
    (hl : s.host.link = true) : (s.modQp x.qpn.toNat g).send x = (s.modQp x.qpn.toNat g).sent x :=
  State.send_ready (by rw [State.qp_modQp hs.qps_, if_pos rfl]; exact hq) hl

/-- What such a change and sending leave: one queue pair changed, and `x` sent. -/
theorem State.sent_modQp_spec (hs : Ok cmds s) (n : Nat) (g : QueuePair → QueuePair) (x : HostTx) :
    { (s.modQp n g).sent x with host := s.host } = s ∧ ((s.modQp n g).sent x).host.tx = s.host.tx ++ [x] ∧
      ((s.modQp n g).sent x).qp n = g (s.qp n) :=
  ⟨rfl, rfl, (State.qp_modQp hs.qps_ n n g).trans (if_pos rfl)⟩

/-! ### Congestion notification (R265) -/

/-- A queue pair whose last CNP went out at tick `now`. -/
def QueuePair.notified (now : Nat) (q : QueuePair) : QueuePair := { q with cnpTick := some now }

theorem exec_cnpSend_due (hs : Ok cmds s) (hq : (s.qp qpn.toNat).state = 1) (hl : s.host.link = true)
    (hdue : (s.qp qpn.toNat).cnpTick = none ∨ ∃ c, (s.qp qpn.toNat).cnpTick = some c ∧ c + 5000 ≤ s.beacon) :
    exec (.cnpSend qpn) s = .next ((s.modQp qpn.toNat (QueuePair.notified s.beacon)).sent (.cnp qpn)) := by
  have harm : exec (.cnpSend qpn) s = execCnpSend qpn s := rfl
  have hrest : (s.qp qpn.toNat).cnpTick.all (fun t => decide (t + 5000 ≤ s.beacon)) = true := by
    obtain hnone | ⟨c, hsome, hc⟩ := hdue
    · rw [hnone]; rfl
    · rw [hsome]; exact decide_eq_true hc
  simp only [harm, execCnpSend, hq, hl, hrest, and_self, if_true]
  exact congrArg Host.Outcome.next (State.send_modQp (x := .cnp qpn) (g := QueuePair.notified s.beacon) hs hq hl)

/-- A second CNP within 50 us does not go out. -/
theorem exec_cnpSend_early {c : Nat} (hc : (s.qp qpn.toNat).cnpTick = some c) (h : s.beacon < c + 5000) : exec (.cnpSend qpn) s = .next s := by
  have harm : exec (.cnpSend qpn) s = execCnpSend qpn s := rfl
  simp [harm, execCnpSend, hc, h]

theorem exec_cnpReceive_ready (hq : (s.qp qpn.toNat).state = 1) (hl : s.host.link = true) : exec (.cnpReceive qpn) s =
    .next (s.modQp qpn.toNat (fun q => { q with rate := q.rate / 2, rateTick := s.beacon })) := by
  have harm : exec (.cnpReceive qpn) s = execCnpReceive qpn s := rfl
  simp [harm, execCnpReceive, State.arrived, hq, hl]

theorem exec_rateRecovery_due (hq : (s.qp qpn.toNat).state = 1) (hrate : (s.qp qpn.toNat).rate < 0x100000)
    (hdue : (s.qp qpn.toNat).rateTick + 5500 ≤ s.beacon) : exec (.rateRecovery qpn) s =
    .next (s.modQp qpn.toNat (fun q => { q with rate := min 0x100000 (q.rate + 0x10000), rateTick := s.beacon })) := by
  have harm : exec (.rateRecovery qpn) s = execRateRecovery qpn s := rfl
  rw [harm, execRateRecovery, if_pos ⟨hq, hrate, hdue⟩]
  rfl

/-! ### Timeouts and errors (R267, R278, R283, R284) -/

/-- A queue pair that has timed out once more, at tick `now`. -/
def QueuePair.retried (now : Nat) (q : QueuePair) : QueuePair := { q with retries := q.retries + 1, retryTick := now }

/-- A queue pair in error since tick `now`. -/
def QueuePair.failed (now : Nat) (q : QueuePair) : QueuePair := { q with state := 2, errTick := now }

theorem exec_localAckTimeout_early (h : s.beacon < (s.qp qpn.toNat).retryTick + 6710887) : exec (.localAckTimeout qpn) s = .next s := by
  have harm : exec (.localAckTimeout qpn) s = execLocalAckTimeout qpn s := rfl
  exact harm.trans (congrArg Host.Outcome.next (if_pos (.inr h)))

/-- A timeout that follows the last one: the retries so far count (R267). -/
theorem exec_localAckTimeout_due (hq : (s.qp qpn.toNat).state = 1) (hdue : (s.qp qpn.toNat).retryTick + 6710887 ≤ s.beacon)
    (hnear : s.beacon ≤ (s.qp qpn.toNat).retryTick + 4 * 6710887) : exec (.localAckTimeout qpn) s =
    .next (if 7 ≤ (s.qp qpn.toNat).retries then s.qpError qpn.toNat else (s.modQp qpn.toNat (fun q =>
      { q with retries := (s.qp qpn.toNat).retries + 1, retryTick := s.beacon })).send (.retransmit qpn)) := by
  have harm : exec (.localAckTimeout qpn) s = execLocalAckTimeout qpn s := rfl
  have hstay : ¬ ((s.qp qpn.toNat).state ≠ 1 ∨ s.beacon < (s.qp qpn.toNat).retryTick + ackTimeout) := by
    rw [not_or, not_not, Nat.not_lt]
    exact ⟨hq, hdue⟩
  simp only [harm, execLocalAckTimeout]
  rw [if_neg hstay, if_neg (show ¬ (s.qp qpn.toNat).retryTick + 4 * ackTimeout < s.beacon from Nat.not_lt.2 hnear)]

theorem exec_localAckTimeout_retries (hs : Ok cmds s) (hq : (s.qp qpn.toNat).state = 1) (hl : s.host.link = true)
    (hdue : (s.qp qpn.toNat).retryTick + 6710887 ≤ s.beacon) (hnear : s.beacon ≤ (s.qp qpn.toNat).retryTick + 4 * 6710887)
    (hleft : (s.qp qpn.toNat).retries < 7) :
    exec (.localAckTimeout qpn) s = .next ((s.modQp qpn.toNat (QueuePair.retried s.beacon)).sent (.retransmit qpn)) := by
  rw [exec_localAckTimeout_due hq hdue hnear, if_neg (Nat.not_le.2 hleft)]
  exact congrArg Host.Outcome.next (State.send_modQp (x := .retransmit qpn) (g := QueuePair.retried s.beacon) hs hq hl)

/-- The queue pair of a job enters the error state (R283). -/
theorem State.qpError_job (hs : Ok cmds s) (hq : (s.qp (256 + j)).state = 1) : s.qpError (256 + j) =
    (s.modQp (256 + j) (QueuePair.failed s.beacon)).raise ⟨0x2503, clsNote, some j, none, none, (s.qp (256 + j)).hqpn.toNat⟩ := by
  have hqp : (s.modQp (256 + j) (QueuePair.failed s.beacon)).qp (256 + j) = (s.qp (256 + j)).failed s.beacon :=
    (State.qp_modQp hs.qps_ ..).trans (if_pos rfl)
  have hhqpn : ((s.modQp (256 + j) (QueuePair.failed s.beacon)).qp (256 + j)).hqpn = (s.qp (256 + j)).hqpn := by rw [hqp]; rfl
  have hjob : 256 + j - 256 = j := Nat.add_sub_cancel_left 256 j
  rw [State.qpError, if_neg (not_not.2 hq)]
  dsimp only
  rw [if_neg (by omega), hjob, ← hhqpn]
  rfl

theorem exec_hstQpError_job (hs : Ok cmds s) (hj : j < 64) (hq : (s.qp (256 + j)).state = 1) : exec (.hstQpError j) s =
    .next ((s.modQp (256 + j) (QueuePair.failed s.beacon)).raise ⟨0x2503, clsNote, some j, none, none, (s.qp (256 + j)).hqpn.toNat⟩) := by
  have harm : exec (.hstQpError j) s = execHstQpError j s := rfl
  rw [harm, execHstQpError, if_pos hj, State.qpError_job hs hq]

/-- The eighth timeout puts the queue pair of a job in error, as HST_QP_ERROR does. -/
theorem exec_localAckTimeout_fails (hn : qpn.toNat = 256 + j) (hj : j < 64) (hq : (s.qp qpn.toNat).state = 1)
    (hdue : (s.qp qpn.toNat).retryTick + 6710887 ≤ s.beacon) (hnear : s.beacon ≤ (s.qp qpn.toNat).retryTick + 4 * 6710887)
    (hused : 7 ≤ (s.qp qpn.toNat).retries) : exec (.localAckTimeout qpn) s = exec (.hstQpError j) s := by
  have harm : exec (.hstQpError j) s = execHstQpError j s := rfl
  rw [exec_localAckTimeout_due hq hdue hnear, if_pos hused, harm, execHstQpError, if_pos hj, hn]

theorem exec_rnrNak_ready (hq : (s.qp qpn.toNat).state = 1) (hl : s.host.link = true) :
    exec (.rnrNak qpn) s = .next (s.sent (.retransmit qpn)) := by
  have harm : exec (.rnrNak qpn) s = execRnrNak qpn s := rfl
  rw [harm, execRnrNak, if_pos ⟨hq, hl⟩, State.send_ready (x := .retransmit qpn) hq hl]
  rfl

theorem exec_controlQpRecovery_due (hq : (s.qp 16).state = 2) (hdue : (s.qp 16).errTick + 100000000 ≤ s.beacon) :
    exec .controlQpRecovery s = .next (s.modQp 16 (fun q =>
      { q with state := 1, retries := 0, retryTick := s.beacon, txBase := s.host.tx.length, kept := [], order := [] })) := by
  have harm : exec .controlQpRecovery s = execControlQpRecovery s := rfl
  rw [harm, execControlQpRecovery, if_pos ⟨hq, hdue⟩]

/-- A running job whose host stays away is aborted (R283). -/
theorem exec_hostLost_running {b : Job} (hb : s.job j = some b) (hst : b.state = .running) (hq : (s.qp (256 + j)).state = 2)
    (hdue : (s.qp (256 + j)).errTick + 100000000 * s.recs.hostLoss ≤ s.beacon) : exec (.hostLost j) s =
    .next ((s.raise ⟨0x2505, clsContained, some j, none, none, (s.qp (256 + j)).hqpn.toNat⟩).abortJob j 0x2505) := by
  have harm : exec (.hostLost j) s = execHostLost j s := rfl
  have hgone : s.hostGone j = true := by simp [State.hostGone, hq, hdue]
  simp only [harm, execHostLost, hb, hgone, hst, not_true, reduceCtorEq, or_self, if_false]

/-! ### The link (R282) -/

/-- From `s` to `t` things were sent or kept to be sent, events raised, and records of the jobs' ratings changed, and nothing else. -/
def State.PostsOnly (s t : State) : Prop :=
  { t with jobs := s.jobs, log := s.log, host := { t.host with qps := s.host.qps, tx := s.host.tx } } = s

theorem State.PostsOnly.refl (s : State) : s.PostsOnly s := rfl

theorem State.PostsOnly.trans (h : s.PostsOnly t) (g : t.PostsOnly u) : s.PostsOnly u :=
  (congrArg (fun v : State => { v with jobs := s.jobs, log := s.log, host := { v.host with qps := s.host.qps, tx := s.host.tx } }) g :).trans h

theorem State.PostsOnly.free (h : s.PostsOnly t) : t.free = s.free := (congrArg State.free h :)
theorem State.PostsOnly.link (h : s.PostsOnly t) : t.host.link = s.host.link := (congrArg (fun u : State => u.host.link) h :)
theorem State.PostsOnly.lanes (h : s.PostsOnly t) : t.host.lanes = s.host.lanes := (congrArg (fun u : State => u.host.lanes) h :)
theorem State.PostsOnly.mode (h : s.PostsOnly t) : t.host.mode = s.host.mode := (congrArg (fun u : State => u.host.mode) h :)

theorem State.PostsOnly.modQp (s : State) (n : Nat) (g : QueuePair → QueuePair) : s.PostsOnly (s.modQp n g) := rfl
theorem State.PostsOnly.raise (s : State) (e : Ev) : s.PostsOnly (s.raise e) := rfl
theorem State.PostsOnly.modJob (s : State) (j : Nat) (g : Job → Job) : s.PostsOnly (s.modJob j g) := rfl

theorem State.PostsOnly.send (s : State) (x : HostTx) : s.PostsOnly (s.send x) := by
  unfold State.send
  split <;> rfl

theorem State.PostsOnly.foldl {β : Type} {f : State → β → State} (l : List β) (hf : ∀ (u : State) (x : β), u.PostsOnly (f u x)) (s : State) :
    s.PostsOnly (l.foldl f s) :=
  foldl_keeps (P := s.PostsOnly) (.refl s) fun u x h => h.trans (hf u x)

theorem State.PostsOnly.sendKept (s : State) (n : Nat) : s.PostsOnly (s.sendKept n) := by
  unfold State.sendKept
  split
  · exact .refl s
  · exact (State.PostsOnly.modQp s n _).trans (.foldl _ .send _)

/-- Where nothing was kept nothing is sent when the link comes up. -/
theorem State.sendKept_of_none (h : (s.qp n).kept = []) : s.sendKept n = s := by
  rw [State.sendKept, if_pos (.inr (by rw [h]; rfl))]

theorem exec_hstLinkDown_up (hl : s.host.link = true) : exec .hstLinkDown s =
    .next (State.raise { s with host := { s.host with link := false } } ⟨0x2501, clsNote, none, none, none, 0⟩) := by
  have harm : exec .hstLinkDown s = execHstLinkDown s := rfl
  rw [harm, execHstLinkDown, if_pos hl]
  rfl

/-- The device with its host link up. -/
def State.linked (s : State) : State :=
  State.raise { s with host := { s.host with link := true } } ⟨0x2502, clsNote, none, none, none, 0⟩

/-- The device with its host link up, and all that was kept sent. -/
def State.relinked (s : State) : State := (s.host.qps.map (·.1)).foldl State.sendKept s.linked

theorem State.relinked_posts (s : State) : s.linked.PostsOnly s.relinked := .foldl _ .sendKept _

theorem exec_hstLinkUp_down (hready : s.ready = true) (hl : s.host.link = false) :
    exec .hstLinkUp s = .next (if s.findLanes.host.healthy < 4 then s.findLanes else s.findLanes.relinked) := by
  have harm : exec .hstLinkUp s = execHstLinkUp s := rfl
  rw [harm, execHstLinkUp, if_neg (by simp [hready, hl])]
  rfl

/-- A port with fewer than four healthy lanes is healed by a free value (R394). -/
theorem exec_hstLinkUp_heals (hready : s.ready = true) (hl : s.host.link = false) (hfew : s.host.healthy < 4) :
    ∃ (t : State) (heal : BitVec 8), exec .hstLinkUp s = .next t ∧ t.free = s.free + 1 ∧ t.host.lanes = s.host.lanes ||| heal ∧
      t.host.link = decide (4 ≤ t.host.healthy) := by
  have hfind : s.findLanes = { s with free := s.free + 1, host := { s.host with
      lanes := s.host.lanes ||| (Config.freeValue s.free).extractLsb' 0 8 } } := by
    rw [State.findLanes, if_neg (Nat.not_le.2 hfew)]
  refine ⟨_, (Config.freeValue s.free).extractLsb' 0 8, exec_hstLinkUp_down hready hl, ?_⟩
  split
  · next hdown =>
    have hlink : s.findLanes.host.link = false := by rw [hfind]; exact hl
    exact ⟨by rw [hfind], by rw [hfind], hlink.trans (decide_eq_false (Nat.not_le.2 hdown)).symm⟩
  · next hup =>
    have hposts := s.findLanes.relinked_posts
    have hlanes : s.findLanes.relinked.host.lanes = s.findLanes.host.lanes := hposts.lanes
    refine ⟨hposts.free.trans (by rw [hfind]; rfl), hlanes.trans (by rw [hfind]), hposts.link.trans (decide_eq_true ?_).symm⟩
    rw [HostPort.healthy, hlanes]
    exact Nat.not_lt.1 hup

/-- A port with four healthy lanes comes up on them. -/
theorem exec_hstLinkUp_healthy (hready : s.ready = true) (hl : s.host.link = false) (hmany : 4 ≤ s.host.healthy)
    (hkept : ∀ m, (s.qp m).kept = []) : exec .hstLinkUp s = .next s.linked := by
  have hfind : s.findLanes = s := by rw [State.findLanes, if_pos hmany]
  rw [exec_hstLinkUp_down hready hl, hfind, if_neg (Nat.not_lt.2 hmany)]
  exact congrArg Host.Outcome.next (foldl_keeps (P := (· = s.linked)) rfl fun u m h => by
    rw [h]
    exact State.sendKept_of_none (hkept m))

/-! ### Lanes (R262) -/

/-- Taking one of the 1 bits of a number from it leaves one fewer. -/
theorem popCount_clear {k i v w : Nat} (hi : i < k) (hv : v.testBit i = true) (hw : ∀ o, w.testBit o = (v.testBit o && decide (o ≠ i))) :
    popCount k w + 1 = popCount k v := by
  have hmem : i ∈ bitsOf k v := List.mem_filter.2 ⟨List.mem_range.2 hi, hv⟩
  have herase : bitsOf k w = (bitsOf k v).erase i := by
    have hnodup : (bitsOf k v).Nodup := List.nodup_range.filter _
    rw [hnodup.erase_eq_filter, bitsOf, bitsOf, List.filter_filter]
    refine List.filter_congr fun o _ => ?_
    rw [hw, Bool.and_comm]
    by_cases ho : o = i <;> simp [ho]
  rw [popCount, herase, List.length_erase_of_mem hmem, popCount]
  exact Nat.sub_add_cancel (List.length_pos_of_mem hmem)

/-- The lanes without lane `i`. -/
theorem getLsbD_clear (v : BitVec 8) (i o : Nat) : (v &&& ~~~(1#8 <<< i)).getLsbD o = (v.getLsbD o && decide (o ≠ i)) := by
  by_cases ho : o < 8
  · simp only [BitVec.getLsbD_and, BitVec.getLsbD_not, BitVec.getLsbD_shiftLeft, BitVec.getLsbD_one, ho, decide_true, Bool.true_and]
    congr 1
    by_cases h : o = i
    · simp [h]
    · simp only [h, ne_eq, not_false_eq_true, decide_true, Bool.not_eq_true', Bool.and_eq_false_iff, Bool.not_eq_false', decide_eq_true_eq, decide_eq_false_iff_not]
      omega
  · rw [BitVec.getLsbD_of_ge _ _ (Nat.not_lt.1 ho), BitVec.getLsbD_of_ge _ _ (Nat.not_lt.1 ho), Bool.false_and]

/-- The host port without lane `lane`. -/
def HostPort.withoutLane (h : HostPort) (lane : BitVec 3) : HostPort := { h with lanes := h.lanes &&& ~~~(1#8 <<< lane.toNat) }

theorem HostPort.healthy_withoutLane {h : HostPort} {lane : BitVec 3} (hl : h.lanes.getLsbD lane.toNat = true) :
    (h.withoutLane lane).healthy + 1 = h.healthy :=
  popCount_clear lane.isLt hl fun o => getLsbD_clear h.lanes lane.toNat o

/-! ### What a condition outside rating leaves (R34) -/

/-- The share of every job is in `t` as in `s`. -/
def State.SameShares (s t : State) : Prop := ∀ j, (t.job j).map (·.share) = (s.job j).map (·.share)

theorem State.excursion_posts (s : State) (code j : Nat) : s.PostsOnly (s.excursion code j) := by
  unfold State.excursion
  split
  · exact .refl s
  · split
    · exact .refl s
    · exact ((State.PostsOnly.raise s _).trans (.send _ _)).trans (.modJob _ _ _)

theorem State.excursion_shares (hs : Ok cmds s) (code j : Nat) : s.SameShares (s.excursion code j) := by
  unfold State.excursion
  split
  · exact fun _ => rfl
  · next b hb =>
    split
    · exact fun _ => rfl
    · intro i
      have hjobs (u : State) (x : HostTx) : (u.send x).jobs = u.jobs := (congrArg State.jobs (u.send_frame x) :)
      dsimp only
      rw [State.job_modJob (by rw [hjobs]; exact hs.jobs_), State.job, State.job, hjobs]
      split
      · next e =>
        subst e
        exact Option.map_map ..
      · rfl

/-- Conditions outside rating are told, and the jobs keep their shares. -/
theorem State.excursions_spec (hs : Ok cmds s) (code : Nat) (p : Job → Bool) :
    Ok cmds (s.excursions code p) ∧ s.PostsOnly (s.excursions code p) ∧ s.SameShares (s.excursions code p) := by
  refine foldl_keeps (P := fun u => Ok cmds u ∧ s.PostsOnly u ∧ s.SameShares u) ⟨hs, .refl s, fun _ => rfl⟩ fun u j h => ?_
  obtain ⟨hok, hposts, hshares⟩ := h
  split
  · split
    · exact ⟨State.excursion_ok hok, hposts.trans (u.excursion_posts code j), fun i => (State.excursion_shares hok code j i).trans (hshares i)⟩
    · exact ⟨hok, hposts, hshares⟩
  · exact ⟨hok, hposts, hshares⟩

/-- A port at half its rate: the link and the lanes stay, and every share is halved unless it was before. -/
theorem State.halvePort_spec (hs : Ok cmds s) : s.halvePort.host.link = s.host.link ∧ s.halvePort.host.lanes = s.host.lanes ∧
    s.halvePort.host.mode = true ∧
    ∀ j, (s.halvePort.job j).map (·.share) = (s.job j).map (fun b => if s.host.mode then b.share else b.share / 2) := by
  unfold State.halvePort
  split
  · next hmode => exact ⟨rfl, rfl, hmode, fun _ => rfl⟩
  · next hmode =>
    obtain ⟨hok, hposts, hshares⟩ := State.excursions_spec (s := { s with host := { s.host with mode := true } }) { hs with } 0x4401
      (fun b => decide (0 < b.share))
    refine ⟨hposts.link, hposts.lanes, hposts.mode, fun j => ?_⟩
    simp only [State.job]
    rw [SMap.get_mapAll hok.jobs_ fun _ => rfl]
    have hj := congrArg (Option.map (· / 2)) (hshares j)
    rw [Option.map_map, Option.map_map] at hj
    exact (Option.map_map ..).trans hj

/-- The device without lane `lane` of its host port, the loss told. -/
def State.laneLost (s : State) (lane : BitVec 3) (cause : BitVec 2) : State :=
  { s with host := s.host.withoutLane lane }.raiseDev 0x4401 clsDevice (lane.toNat + cause.toNat <<< 3)

theorem exec_hstLaneLost_again {lane : BitVec 3} {cause : BitVec 2} (h : s.host.lanes.getLsbD lane.toNat = false) :
    exec (.hstLaneLost lane cause) s = .next s := by
  have harm : exec (.hstLaneLost lane cause) s = execHstLaneLost lane cause s := rfl
  rw [harm, execHstLaneLost, State.loseHostLane, if_pos (by simp [h])]

theorem exec_hstLaneLost_healthy {lane : BitVec 3} {cause : BitVec 2} (h : s.host.lanes.getLsbD lane.toNat = true) :
    exec (.hstLaneLost lane cause) s = .next (
      if 4 ≤ (s.laneLost lane cause).host.healthy then (s.laneLost lane cause).halvePort
      else if s.host.link then { s.laneLost lane cause with host := { (s.laneLost lane cause).host with link := false } }.raiseDev 0x2501 clsNote 0
      else s.laneLost lane cause) := by
  have harm : exec (.hstLaneLost lane cause) s = execHstLaneLost lane cause s := rfl
  rw [harm, execHstLaneLost, State.loseHostLane, if_neg (not_not.2 h)]
  rfl

/-! ### The statement -/

/-- Settles O44: each row of a queue pair by its own lemma; what goes out when the link comes up changes neither lanes nor link, by
`State.relinked_posts`; and a port that keeps four lanes, counted by `HostPort.healthy_withoutLane`, halves the shares by
`State.halvePort_spec`. -/
theorem queuePairsAndLink : Obligations.QueuePairsAndLink := by
  unfold Obligations.QueuePairsAndLink
  rintro s qpn n q lane cause hcan rfl rfl
  have hs := hcan.ok
  refine ⟨fun hq hl hdue => ⟨_, exec_cnpSend_due hs hq hl hdue, State.sent_modQp_spec hs _ (QueuePair.notified s.beacon) _⟩,
    fun c hc h => exec_cnpSend_early hc h, exec_cnpReceive_ready, exec_rateRecovery_due, exec_localAckTimeout_early,
    fun hq hl hdue hnear hleft => ⟨_, exec_localAckTimeout_retries hs hq hl hdue hnear hleft,
      State.sent_modQp_spec hs _ (QueuePair.retried s.beacon) _⟩,
    fun j hn hj hq hdue hnear hused => ⟨exec_localAckTimeout_fails hn hj hq hdue hnear hused, ?_⟩, exec_rnrNak_ready,
    fun hn hq hdue => ?_, fun j b hn hb hst hq hdue => ?_, exec_hstLinkDown_up, exec_hstLinkUp_heals, exec_hstLinkUp_healthy,
    exec_hstLaneLost_again, fun hlane => ⟨_, exec_hstLaneLost_healthy hlane, ?_⟩⟩
  · rw [hn] at hq ⊢
    exact exec_hstQpError_job hs hj hq
  · rw [hn] at hq hdue
    exact exec_controlQpRecovery_due hq hdue
  · rw [hn] at hq hdue ⊢
    exact exec_hostLost_running hb hst hq hdue
  · have hcount := HostPort.healthy_withoutLane hlane
    have hclear (i : Nat) : (s.laneLost lane cause).host.lanes.getLsbD i = (s.host.lanes.getLsbD i && decide (i ≠ lane.toNat)) :=
      getLsbD_clear s.host.lanes lane.toNat i
    have hhealthy : (s.laneLost lane cause).host.healthy = (s.host.withoutLane lane).healthy := rfl
    split
    · obtain ⟨hlink, hlanes, hmode, hshare⟩ := State.halvePort_spec (s := s.laneLost lane cause) (State.raiseDev_ok { hs with })
      exact ⟨fun i _ => by rw [hlanes]; exact hclear i, fun _ => ⟨hlink, hmode, hshare⟩, fun _ => by omega⟩
    · split
      · exact ⟨fun i _ => hclear i, fun _ => by omega, fun _ => ⟨rfl, rfl⟩⟩
      · next hdown => exact ⟨fun i _ => hclear i, fun _ => by omega, fun _ => ⟨Bool.eq_false_iff.2 hdown, rfl⟩⟩

end Sys2Proof.Machine
end

section
/-!
The device as a whole (log entry 6): a step runs the front command or lets time pass, and either keeps the canonical form and the queue.
-/
namespace Sys2Proof.Machine

variable {s t : State}

/-! ### What a step is -/

theorem step_cons {c : Instr} {rest : List Instr} (h : s.pending = c :: rest) : step s = exec c { s with pending := rest } := by
  simp only [step, h]

theorem step_nil (h : s.pending = []) : step s = .next s.tick.takeHeld := by
  simp only [step, h]

/-- Dropping commands from the queue keeps the canonical form of everything else. -/
theorem Ok.withPending {cmds : List Instr} (hs : Ok cmds s) (rest : List Instr) : Ok rest { s with pending := rest } :=
  { hs with pending_ := rfl }

/-- A step leaves the rest of the queue, and everything in canonical form. -/
theorem step_ok (hs : Ok s.pending s) : Keeps s.pending.tail (step s) := by
  cases h : s.pending with
  | nil =>
    rw [h] at hs
    rw [step_nil h]
    exact keeps_next (State.takeHeld_ok (State.tick_ok hs))
  | cons c rest =>
    rw [step_cons h]
    exact exec_ok c (hs.withPending rest)

/-! ### The statements -/

/-- Settles O4: every command keeps the canonical form by `exec_ok`, and so does the passing of time, by `State.tick_ok` and
`State.takeHeld_ok`. -/
theorem stepKeepsCanonicalForm : Obligations.StepKeepsCanonicalForm := by
  unfold Obligations.StepKeepsCanonicalForm
  exact fun s t hcan hstep => ((step_ok hcan.ok).go t hstep).canonical

/-- Settles O5: at reset no memory and no register file lists anything. -/
theorem resetIsCanonical : Obligations.ResetIsCanonical := canonical_reset

/-- Settles O1. -/
theorem stepRunsFrontCommand : Obligations.StepRunsFrontCommand := by
  unfold Obligations.StepRunsFrontCommand
  exact fun _ _ _ => step_cons

/-- Settles O3: what `exec_ok` keeps of a command names the queue. -/
theorem commandsLeaveTheQueue : Obligations.CommandsLeaveTheQueue := by
  unfold Obligations.CommandsLeaveTheQueue
  exact fun s t c hcan hexec => ((exec_ok c hcan.ok).go t hexec).pending_

/-! ### The passing of time -/

theorem State.tick_of_not_running (h : s.running = false) : s.tick = s := by
  simp [State.tick, h]

/-- Outside a hold nothing is left of what waited, but what comes to wait again. -/
theorem State.takeHeld_singleton {x : Nat × Instr} (hcalm : s.mgt.hold = false) (hx : s.host.heldFrames = [x]) :
    s.takeHeld = State.takeHeldOne { s with host := { s.host with heldFrames := [] } } x := by
  simp [State.takeHeld, hcalm, hx]

/-- A device held in reset, in which a request for the SPDM version, come at tick 0, still waits. A reset empties what waits
(`State.enterReset`), so that no run leads here; but the canonical form does not rule it out. -/
def heldInReset : State :=
  { State.reset with
    pins := { Pins.reset with inReset := true }
    host := { State.reset.host with heldFrames := [(0, .getVersion (.mctp [0x10, 0x84, 0, 0]))] } }

theorem heldInReset_canonical : heldInReset.Canonical :=
  Ok.canonical (cmds := []) { ok_reset with }

/-- The passing of no time answers the request that waits. -/
theorem step_heldInReset : ∃ t, step heldInReset = .next t ∧ t.host.heldFrames = [] := by
  refine ⟨_, step_nil rfl, ?_⟩
  rw [State.tick_of_not_running rfl, State.takeHeld_singleton rfl rfl]
  rfl

/-- Refutes O2: in reset a step on an empty queue is not idle. No time passes, but a request that still waits there is handled, as
`heldInReset` shows. -/
theorem not_emptyQueuePassesTime : ¬ Obligations.EmptyQueuePassesTime := by
  unfold Obligations.EmptyQueuePassesTime
  intro h
  obtain ⟨t, hstep, -, hidle⟩ := h heldInReset heldInReset_canonical rfl
  obtain ⟨u, hstep', hhandled⟩ := step_heldInReset
  obtain rfl : t = u := Host.Outcome.next.inj (hstep.symm.trans hstep')
  obtain rfl : t = heldInReset := hidle
  exact absurd hhandled (List.cons_ne_nil _ _)

end Sys2Proof.Machine
end

section
/-!
The sideband pins (R373, R389) and the test port (R391).
-/
namespace Sys2Proof.Machine

variable {s : State}

/-! ### I3C (R373, R389) -/

theorem State.i3cServes_of (hrun : s.running = true) (hbus : s.pins.i3cFault = false) : s.i3cServes = true := by
  simp [State.i3cServes, hrun, hbus]

theorem exec_entdaa_free (h : s.i3cServes = true) (hfree : s.pins.i3cAddr = none) (addr : BitVec 7) :
    exec (.entdaa addr) s = .next (s.setI3cAddr addr) :=
  congrArg Host.Outcome.next (if_pos ⟨h, hfree⟩)

theorem exec_entdaa_taken (h : s.pins.i3cAddr ≠ none) (addr : BitVec 7) : exec (.entdaa addr) s = .next s :=
  congrArg Host.Outcome.next (if_neg fun hc => h hc.2)

theorem exec_setdasa_free (h : s.i3cServes = true) (hfree : s.pins.i3cAddr = none) (addr : BitVec 7) :
    exec (.setdasa 0x3A addr) s = .next (s.setI3cAddr addr) :=
  congrArg Host.Outcome.next (if_pos ⟨h, hfree, rfl⟩)

theorem exec_setdasa_ignored {stat : BitVec 7} (h : s.pins.i3cAddr ≠ none ∨ stat ≠ 0x3A) (addr : BitVec 7) :
    exec (.setdasa stat addr) s = .next s :=
  congrArg Host.Outcome.next (if_neg fun hc => h.elim (· hc.2.1) (· hc.2.2))

theorem exec_i3cFault_serving (h : s.i3cServes = true) (sda high : Bool) :
    exec (.i3cFault sda high) s = .next (State.raise { s with pins := { s.pins with i3cFault := true, i3cTick := s.beacon } }
      ⟨0x4601, clsNote, none, none, none, b2n sda + 2 ^ 4 * b2n high⟩) :=
  congrArg Host.Outcome.next (if_neg (not_not.2 h))

theorem exec_i3cBusRetry_due (hrun : s.running = true) (hbus : s.pins.i3cFault = true) (hdue : s.pins.i3cTick + 10000000 ≤ s.beacon)
    (cleared : Bool) :
    exec (.i3cBusRetry cleared) s = .next { s with pins := { s.pins with
      i3cFault := !cleared, i3cTick := if cleared then s.pins.i3cTick else s.beacon } } := by
  have hgo : ¬ (¬ s.running ∨ ¬ s.pins.i3cFault ∨ s.beacon < s.pins.i3cTick + 10000000) := by simp [hrun, hbus, hdue]
  refine congrArg Host.Outcome.next ((if_neg hgo).trans ?_)
  cases cleared with
  | true => rfl
  | false =>
    have hstays : { s.pins with i3cTick := s.beacon } = { s.pins with i3cFault := true, i3cTick := s.beacon } := by rw [← hbus]
    exact congrArg (fun p : Pins => { s with pins := p }) hstays

theorem exec_i3cBusRetry_early (h : s.beacon < s.pins.i3cTick + 10000000) (cleared : Bool) :
    exec (.i3cBusRetry cleared) s = .next s :=
  congrArg Host.Outcome.next (if_pos (.inr (.inr h)))

/-! ### Other lines (R373) -/

/-- A failed line of the configuration memory does not stop a device that is ready. -/
theorem exec_xspiFault_ready {line : BitVec 4} (hrun : s.running = true) (hready : s.ready = true) (hfirst : s.pins.xspiFault = false)
    (hline : line.toNat ≤ 11) (high : Bool) :
    exec (.xspiFault line high) s = .next (State.raise { s with pins := { s.pins with xspiFault := true } }
      ⟨0x4602, clsNote, none, none, none, line.toNat + 2 ^ 4 * b2n high⟩) := by
  have hgo : ¬ (¬ s.running ∨ s.pins.xspiFault ∨ 11 < line.toNat) := by simp [hrun, hfirst, hline]
  exact congrArg Host.Outcome.next ((if_neg hgo).trans (if_pos (.inl hready)))

theorem exec_alertFault_first (hrun : s.running = true) (hfirst : s.pins.alertFault = false) (high : Bool) :
    exec (.alertFault high) s = .next (State.raise { s with pins := { s.pins with alertFault := true } }
      ⟨0x4603, clsNote, none, none, none, 2 ^ 4 * b2n high⟩) :=
  congrArg Host.Outcome.next (if_neg (by simp [hrun, hfirst]))

/-! ### The test port (R391) -/

theorem State.tapOpen_of (hpower : s.pins.powered = true) (hreset : s.pins.tapReset = false) : s.tapOpen = true := by
  simp [State.tapOpen, hpower, hreset]

theorem State.tapOpen_eq_false_of_reset (h : s.pins.tapReset = true) : s.tapOpen = false := by
  simp [State.tapOpen, h]

theorem exec_bypass_open (h : s.tapOpen = true) :
    exec .bypass s = .next { s with pins := { s.pins with tapInstr := 15, tapData := [false], driven := [] } } :=
  congrArg Host.Outcome.next (if_pos h)

theorem exec_idcode_open (h : s.tapOpen = true) :
    exec .idcode s = .next { s with pins := { s.pins with
      tapInstr := 1, tapData := wordBits (idcodeValue s.fuses.stepping), driven := [] } } :=
  congrArg Host.Outcome.next (if_pos h)

theorem exec_samplePreload_open (h : s.tapOpen = true) (balls load : List Bool) :
    exec (.samplePreload balls load) s = .next { s with pins := { s.pins with
      tapInstr := 2, tapData := chainOf balls, driven := [], boundary := chainOf load } } := by
  change execSamplePreload balls load s = _
  rw [execSamplePreload, if_pos h, Pins.tap]

/-- EXTEST captures free values: one level for each cell of the chain. -/
theorem exec_extest_open (h : s.tapOpen = true) :
    ∃ (n : Nat) (levels : List Bool), levels.length = chainLength ∧ exec .extest s = .next { s with
      free := n, pins := { s.pins with tapInstr := 0, tapData := levels, driven := s.pins.boundary } } :=
  ⟨_, _, (List.length_map _).trans List.length_range, congrArg Host.Outcome.next (if_pos h)⟩

/-- A test port held in reset takes none. -/
theorem exec_tap_reset (h : s.pins.tapReset = true) (balls load : List Bool) :
    exec .bypass s = .next s ∧ exec .idcode s = .next s ∧ exec .extest s = .next s ∧ exec (.samplePreload balls load) s = .next s := by
  have hclosed : ¬ s.tapOpen = true := by simp [State.tapOpen_eq_false_of_reset h]
  exact ⟨congrArg Host.Outcome.next (if_neg hclosed), congrArg Host.Outcome.next (if_neg hclosed),
    congrArg Host.Outcome.next (if_neg hclosed), congrArg Host.Outcome.next (if_neg hclosed)⟩

/-- The fields of the IDCODE: VERSION is the fused stepping, and the others are those of R391. -/
theorem idcodeValue_fields : ∀ v : BitVec 4, (idcodeValue v).extractLsb' 28 4 = v ∧ (idcodeValue v).extractLsb' 12 16 = 0x58A8 ∧
    (idcodeValue v).extractLsb' 1 11 = 0x2D7 ∧ (idcodeValue v).getLsbD 0 = true := by decide

/-! ### The statement -/

/-- Settles O54: the address, the faults and the retry of the sideband and the instructions of a test port that is open, each by the
lemma on its row; `exec_tap_reset` for a port held in reset. -/
theorem sidebandAndTestPort : Obligations.SidebandAndTestPort := by
  unfold Obligations.SidebandAndTestPort
  rintro s addr stat line sda high cleared balls load -
  refine ⟨fun hrun hbus => ?_, fun hrun hbus => ⟨fun hdue => exec_i3cBusRetry_due hrun hbus hdue cleared,
      fun hearly => exec_i3cBusRetry_early hearly cleared⟩,
    fun hrun hready hfirst hline => exec_xspiFault_ready hrun hready hfirst hline high,
    fun hrun hfirst => exec_alertFault_first hrun hfirst high, fun hpower hreset => ?_, fun h => exec_tap_reset h balls load, rfl, rfl⟩
  · have hserves := State.i3cServes_of hrun hbus
    exact ⟨fun hfree => exec_entdaa_free hserves hfree addr, fun hfree => exec_setdasa_free hserves hfree addr,
      fun h => exec_setdasa_ignored h addr, fun h => exec_entdaa_taken h addr, exec_i3cFault_serving hserves sda high⟩
  · have hopen := State.tapOpen_of hpower hreset
    obtain ⟨hstep, hpart, hmaker, hone⟩ := idcodeValue_fields s.fuses.stepping
    exact ⟨exec_bypass_open hopen, ⟨_, exec_idcode_open hopen, hstep, hpart, hmaker, hone⟩, exec_samplePreload_open hopen balls load,
      exec_extest_open hopen⟩

end Sys2Proof.Machine
end

section
/-!
The two management halves (R353 to R355): health, the lease, its handover and its claims, and the hold that a dispute begins.
-/
namespace Sys2Proof.Machine

variable {s : State}

/-! ### The lease (R353, R354) -/

theorem State.role_lead (s : State) (h : Bool) : ((s.lead h).mgt.half h).role = 2 := by
  cases h <;> rfl

theorem State.holds_holder (hready : s.ready = true) (hvalid : s.mgt.leaseValid = true) : s.holds s.mgt.holder = true := by
  simp [State.holds, hready, hvalid]

theorem State.leaseExpired_iff : s.leaseExpired = true ↔ s.mgt.leaseValid = true ∧ s.mgt.renewed + 50000 ≤ s.beacon := by
  simp [State.leaseExpired]

/-- The holder hands the lease over at once where no submission is in progress. -/
theorem exec_leaseHandover_other (hready : s.ready = true) (hvalid : s.mgt.leaseValid = true) (hcur : s.adm.current = none) :
    exec (.leaseHandover s.mgt.holder (!s.mgt.holder)) s = .next (s.lead (!s.mgt.holder)) := by
  change execLeaseHandover s.mgt.holder (!s.mgt.holder) s = _
  have hother : (!s.mgt.holder) ≠ s.mgt.holder := Bool.not_ne_self _
  rw [execLeaseHandover, if_pos (State.holds_holder hready hvalid), State.writeHolder, if_neg hother]
  simp only [hcur, Option.isSome_none, Bool.false_eq_true, if_false, State.passLease, hvalid, Bool.and_self, if_true]
  rfl

theorem exec_leaseHandover_self (hready : s.ready = true) (hvalid : s.mgt.leaseValid = true) :
    exec (.leaseHandover s.mgt.holder s.mgt.holder) s = .next { s with mgt := { s.mgt with renewed := s.beacon } } :=
  congrArg Host.Outcome.next ((if_pos (State.holds_holder hready hvalid)).trans (if_pos rfl))

theorem exec_leaseHandover_follower {h : Bool} (hholder : s.mgt.holder = !h) (target : Bool) :
    exec (.leaseHandover h target) s = .next s :=
  congrArg Host.Outcome.next (if_neg (by simp [State.holds, hholder]))

theorem exec_leaseClaim_early (h : s.beacon < s.mgt.renewed + 50000) (north south : Bool) :
    exec (.leaseClaim north south) s = .next s :=
  congrArg Host.Outcome.next (if_pos (.inr fun he => absurd (State.leaseExpired_iff.1 he).2 (by omega)))

/-- Of the halves that can claim an expired lease one leads, the senior of two. -/
theorem exec_leaseClaim_expired {north south : Bool} (hready : s.ready = true) (hexp : s.leaseExpired = true) (hn : north = s.canClaim false)
    (hs : south = s.canClaim true) (hany : (north || south) = true) :
    exec (.leaseClaim north south) s = .next (s.lead (if north && south then s.fuses.seniorSouth else south)) := by
  have hgo : ¬ (¬ s.ready ∨ ¬ s.leaseExpired) := by simp [hready, hexp]
  refine congrArg Host.Outcome.next ((if_neg hgo).trans ?_)
  dsimp only
  rw [← hn, ← hs, Bool.and_self, Bool.and_self]
  cases north with
  | true => cases south <;> rfl
  | false =>
    obtain rfl : south = true := hany
    rfl

theorem exec_halfUnhealthy_told {h wd : Bool} (hready : s.ready = true) (hhealth : (s.mgt.half h).health = true)
    (hlate : wd = true → (s.mgt.half h).beat + 20000 ≤ s.beacon) :
    exec (.halfUnhealthy h wd) s =
      .next (State.raise (s.modHalf h (fun x => { x with health := false })) ⟨0x3403, clsDevice, none, none, none, b2n h⟩) := by
  refine congrArg Host.Outcome.next (if_neg ?_)
  rintro (hr | hh | ⟨hwd, hbeat⟩)
  · exact hr hready
  · exact hh hhealth
  · exact absurd (hlate hwd) (Nat.not_le.2 hbeat)

theorem exec_halfUnhealthy_beats {h : Bool} (hbeat : s.beacon < (s.mgt.half h).beat + 20000) :
    exec (.halfUnhealthy h true) s = .next s :=
  congrArg Host.Outcome.next (if_pos (.inr (.inr ⟨rfl, hbeat⟩)))

/-! ### Disputes and holds (R355) -/

theorem State.refuseCurrent_idle (h : s.adm.current = none) : s.refuseCurrent = s := by
  simp [State.refuseCurrent, h]

/-- A half as an arbitration hold finds it: it leads nothing and has posted nothing. -/
def Half.held (h : Half) : Half := { h with posted := false, role := 0 }

/-- A hold that begins with no submission in progress and none waiting refuses nothing. -/
theorem State.beginHold_idle (hcur : s.adm.current = none) (hwait : s.adm.waiting = []) :
    s.beginHold = State.raise { s with mgt := { s.mgt with
      leaseValid := false, handover := false, hold := true, holdFrom := s.beacon, north := s.mgt.north.held, south := s.mgt.south.held } }
      ⟨0x3401, clsNote, none, none, none, 0⟩ := by
  rw [State.beginHold, State.refuseCurrent_idle (by exact hcur), State.startNext_idle (by exact hcur) rfl (by exact hwait)]
  rfl

theorem exec_leaseDispute_begins {both : Bool} (hready : s.ready = true) (hvalid : s.mgt.leaseValid = true) (hupd : s.mgt.update = none)
    (hwhy : both = true ∨ s.mgt.renewed + 50000 ≤ s.beacon) (hcur : s.adm.current = none) (hwait : s.adm.waiting = []) :
    exec (.leaseDispute both) s = .next (State.raise { s with mgt := { s.mgt with
      disputeFrom := s.beacon, told := false, leaseValid := false, handover := false, hold := true, holdFrom := s.beacon
      north := s.mgt.north.held, south := s.mgt.south.held } } ⟨0x3401, clsNote, none, none, none, 0⟩) := by
  change execLeaseDispute both s = _
  have hupdate : s.disputeUpdate = s := by simp [State.disputeUpdate, hupd]
  have hgo : s.ready = true ∧ s.mgt.leaseValid = true ∧ (both = true ∨ s.leaseExpired = true) :=
    ⟨hready, hvalid, hwhy.imp_right fun h => State.leaseExpired_iff.2 ⟨hvalid, h⟩⟩
  rw [execLeaseDispute, if_pos hgo, hupdate]
  exact congrArg Host.Outcome.next (State.beginHold_idle hcur hwait)

theorem State.holdOver_iff : s.holdOver = true ↔
    s.mgt.hold = true ∧ (s.mgt.holdFrom + 100000 ≤ s.beacon ∨ (s.mgt.north.posted = true ∧ s.mgt.south.posted = true)) := by
  simp [State.holdOver]

theorem exec_leaderChange_early (hlen : s.beacon < s.mgt.holdFrom + 100000)
    (hposted : (s.mgt.north.posted && s.mgt.south.posted) = false) : exec .leaderChange s = .next s := by
  refine congrArg Host.Outcome.next (if_pos fun hover => ?_)
  obtain ⟨-, hlong | ⟨hn, hs⟩⟩ := State.holdOver_iff.1 hover
  · omega
  · simp [hn, hs] at hposted

theorem State.takeHeld_none (h : s.host.heldFrames = []) : s.takeHeld = s := by
  simp [State.takeHeld, h]

/-- The lease granted where nothing waits, and every region is at its target. -/
theorem State.grant_idle (hcur : s.adm.current = none) (hwait : s.adm.waiting = []) (hheld : s.host.heldFrames = [])
    (hst : ∀ r, (s.region r).tgt = (s.region r).step) (h : Bool) :
    s.grant h = (State.lead { s with mgt := { s.mgt with hold := false, told := false } } h).raiseDev 0x3402 clsNote (b2n h) := by
  rw [State.grant, State.takeHeld_none (by exact hheld), State.startNext_idle (by exact hcur) rfl (by exact hwait),
    State.startAllDeferred_settled (by exact hst)]

/-- At the end of a hold the senior half is granted the lease if it is healthy, else the other if that is. -/
theorem exec_leaderChange_grants (hover : s.holdOver = true)
    (hsome : (s.mgt.half s.fuses.seniorSouth).health = true ∨ (s.mgt.half (!s.fuses.seniorSouth)).health = true) :
    exec .leaderChange s =
      .next (s.grant (if (s.mgt.half s.fuses.seniorSouth).health then s.fuses.seniorSouth else !s.fuses.seniorSouth)) := by
  refine congrArg Host.Outcome.next ((if_neg (not_not.2 hover)).trans ?_)
  dsimp only
  split
  · rfl
  · next hsenior => exact if_pos (hsome.resolve_left hsenior)

theorem exec_noLeader_first (hhold : s.mgt.hold = true) (htold : s.mgt.told = false) (hlong : s.mgt.disputeFrom + 1000000 < s.beacon) :
    exec .noLeader s = .next (State.raise { s with mgt := { s.mgt with told := true } } ⟨0x3404, clsDevice, none, none, none, 0⟩) :=
  congrArg Host.Outcome.next (if_neg (by simp [hhold, htold, hlong]))

theorem exec_noLeader_early (h : s.beacon ≤ s.mgt.disputeFrom + 1000000) : exec .noLeader s = .next s :=
  congrArg Host.Outcome.next (if_pos (.inr (.inr h)))

/-! ### The statement -/

/-- Settles O52: each row by its own lemma; the lease granted at the end of a hold is that of `State.grant_idle`. -/
theorem halvesLead : Obligations.HalvesLead := by
  unfold Obligations.HalvesLead
  rintro s h wd north south both senior - hready rfl hcur hwait - hheld
  refine ⟨fun hvalid hh => ?_, fun hvalid hh => ?_, fun hh => exec_leaseHandover_follower hh wd,
    fun _ hearly => exec_leaseClaim_early hearly north south, fun hvalid hlate hn hs hany => ?_,
    exec_halfUnhealthy_told hready, fun _ => exec_halfUnhealthy_beats,
    fun hvalid hupd hwhy => exec_leaseDispute_begins hready hvalid hupd hwhy hcur hwait,
    fun _ => exec_leaderChange_early, fun hhold hover hsome hst => ?_, exec_noLeader_first, exec_noLeader_early⟩
  · subst hh
    exact ⟨_, exec_leaseHandover_other hready hvalid hcur, rfl, rfl, rfl, rfl, rfl, s.role_lead _⟩
  · subst hh
    exact exec_leaseHandover_self hready hvalid
  · exact ⟨_, exec_leaseClaim_expired hready (State.leaseExpired_iff.2 ⟨hvalid, hlate⟩) hn hs hany, rfl, rfl, rfl, rfl⟩
  · have hgrant := exec_leaderChange_grants (State.holdOver_iff.2 ⟨hhold, hover⟩) hsome
    rw [State.grant_idle hcur hwait hheld hst] at hgrant
    exact ⟨_, _, hgrant, rfl, rfl, rfl, rfl, rfl, rfl⟩

end Sys2Proof.Machine
end

section
/-!
The SPDM responder (R349 to R351): how a request reaches it, what each request code is answered where the connection allows it, and
the errors.
-/
namespace Sys2Proof.Machine

variable {s : State} {m : List Byte} {host : Bool}

/-! ### Numbers in messages -/

/-- Bytes spelled and read again. -/
theorem leNat_natLe (n v : Nat) : leNat (natLe n v) = v % 256 ^ n := by
  induction n generalizing v with
  | zero => simp [natLe, leNat, Nat.mod_one]
  | succ n ih =>
    have hbyte (i : Nat) : v >>> (8 * (i + 1)) = (v / 256) >>> (8 * i) := by
      rw [Nat.mul_succ, Nat.add_comm, Nat.shiftRight_add, Nat.shiftRight_eq_div_pow v 8]
    have hcons : natLe (n + 1) v = BitVec.ofNat 8 v :: natLe n (v / 256) := by
      rw [natLe, List.range_succ_eq_map, List.map_cons, List.map_map, natLe]
      exact congrArg₂ _ rfl (List.map_congr_left fun i _ => congrArg (BitVec.ofNat 8) (hbyte i))
    calc leNat (natLe (n + 1) v) = v % 256 + 256 * (v / 256 % 256 ^ n) := by rw [hcons, leNat, ih, BitVec.toNat_ofNat]
      _ = v % 256 ^ (n + 1) := by rw [Nat.pow_succ (m := n), Nat.mul_comm (256 ^ n), Nat.mod_mul]

/-- A read of the later part of what has just been programmed. -/
theorem norBytes_norStore_within {m : SMap Byte} (bs : List Byte) (a o n : Nat) (h : SMap.wf 0xFF m = true) (hn : o + n ≤ bs.length) :
    norBytes (norStore m a bs) (a + o) n = (bs.drop o).take n := by
  refine List.ext_getElem (by simp [norBytes]; omega) fun i h1 h2 => ?_
  have hi : i < n := by simpa [norBytes] using h1
  simp only [norBytes, List.getElem_map, List.getElem_range, List.getElem_take, List.getElem_drop]
  rw [norGet_norStore _ _ _ h, if_pos (by omega), List.getD_eq_getElem _ _ (by omega)]
  congr 1
  omega

/-- A chain programmed into the certificate area with its length is the certificate (log entry 42). -/
theorem certificate_norStore {m : SMap Byte} {c : List Byte} (h : SMap.wf 0xFF m = true) (hne : c ≠ []) (hlen : c.length ≤ 65532) :
    certificate (norStore m certArea (natLe 4 c.length ++ c)) = some c := by
  have hpos : 0 < c.length := List.length_pos_iff.2 hne
  have hlen4 : (natLe 4 c.length ++ c).length = 4 + c.length := by simp
  have hhead : leNat (norBytes (norStore m certArea (natLe 4 c.length ++ c)) certArea 4) = c.length := by
    rw [norBytes_norStore_same _ _ _ h (by omega), List.take_left' (length_natLe 4 _), leNat_natLe, Nat.mod_eq_of_lt (by omega)]
  simp only [certificate, hhead]
  rw [if_neg (by omega), norBytes_norStore_within _ _ _ _ h (by omega), List.drop_left' (length_natLe 4 _), List.take_length]

/-! ### How a request is taken (R349, R350) -/

/-- The device answers requests over MCTP: it is ready, its I3C target serves and has an address, and no hold is on. -/
structure State.HearsMctp (s : State) : Prop where
  ready : s.ready = true
  bus   : s.pins.i3cFault = false
  addr  : s.pins.i3cAddr.isSome = true
  calm  : s.mgt.hold = false

theorem State.spdm_mctp (h : s.HearsMctp) (i : Instr) (m : List Byte) : s.spdm i (.mctp m) = s.mctpRequest m := by
  have haddr : s.pins.i3cAddr.isNone = false := by simpa [Option.isNone_eq_false_iff] using h.addr
  simp [State.spdm, h.ready, h.bus, haddr, h.calm]

/-- A row whose request code the message has hands it to the responder. -/
theorem State.spdmRow_mctp (h : s.HearsMctp) {code : Nat} (hc : rdLe m 1 1 = code) (i : Instr) :
    s.spdmRow i (.mctp m) code = s.mctpRequest m :=
  (if_pos hc).trans (State.spdm_mctp h i m)

/-- A response goes out over MCTP behind those before it. -/
theorem State.mctpRequest_of {t : State} {r : List Byte} (h : s.spdmRespond false m = (t, r)) :
    s.mctpRequest m = { t with mgt := { t.mgt with spdmOut := t.mgt.spdmOut ++ [r] } } := by
  rw [State.mctpRequest, h]

/-! ### The responder (R350) -/

/-- The codes that are answered on every path and in every life-cycle state. -/
def openCodes : List Nat := [rqVersion, rqCapabilities, rqAlgorithms, rqDigests, rqCertificate, rqChallenge, rqMeasurements]

theorem State.spdmAnswers_open {code : Nat} (h : code ∈ openCodes) : s.spdmAnswers host code = true := by
  have hc : openCodes.contains code = true := List.contains_iff_mem.2 h
  unfold State.spdmAnswers
  rw [show [rqVersion, rqCapabilities, rqAlgorithms, rqDigests, rqCertificate, rqChallenge, rqMeasurements] = openCodes from rfl, hc,
    Bool.true_or]

/-- GET_CSR and SET_CERTIFICATE are answered over MCTP in PROVISIONED (R349). -/
theorem State.spdmAnswers_provisioning {code : Nat} (hlife : s.fuses.life = 1) (h : code ∈ [rqCsr, rqSetCertificate]) :
    s.spdmAnswers false code = true := by
  have hc : [rqCsr, rqSetCertificate].contains code = true := List.contains_iff_mem.2 h
  simp only [State.spdmAnswers, hc, hlife, Bool.not_false, beq_self_eq_true, Bool.and_self, Bool.or_true]

theorem State.spdmAnswers_unknown {code : Nat} (hopen : code ∉ openCodes)
    (hprov : code ∈ [rqCsr, rqSetCertificate] → s.fuses.life ≠ 1) : s.spdmAnswers false code = false := by
  have hc : openCodes.contains code = false := by simpa using hopen
  unfold State.spdmAnswers
  rw [show [rqVersion, rqCapabilities, rqAlgorithms, rqDigests, rqCertificate, rqChallenge, rqMeasurements] = openCodes from rfl, hc,
    Bool.false_or, Bool.not_false, Bool.and_true, Bool.and_eq_false_imp]
  exact fun hp => beq_eq_false_iff_ne.2 (hprov (List.contains_iff_mem.1 hp))

theorem State.spdmRespond_unsupported (h : s.spdmAnswers host (rdLe m 1 1) = false) :
    s.spdmRespond host m = (s, spdmError errUnsupported (rdLe m 1 1)) := by
  simp [State.spdmRespond, h]

theorem State.spdmRespond_version (hc : rdLe m 1 1 = rqVersion) : s.spdmRespond host m = s.spdmVersion host m := by
  have hans : s.spdmAnswers host (rdLe m 1 1) = true := State.spdmAnswers_open (by rw [hc]; decide)
  exact (if_neg (not_not.2 hans)).trans (if_pos hc)

/-- Every request but GET_VERSION must be of version 1.3. -/
theorem State.spdmRespond_badVersion (hans : s.spdmAnswers host (rdLe m 1 1) = true) (hc : rdLe m 1 1 ≠ rqVersion)
    (hv : rdLe m 0 1 ≠ 0x13) : s.spdmRespond host m = (s, spdmError errVersion 0) :=
  (if_neg (not_not.2 hans)).trans ((if_neg hc).trans (if_pos hv))

/-- GET_CAPABILITIES and NEGOTIATE_ALGORITHMS come once the version is negotiated. -/
theorem State.spdmRespond_begun (hv : rdLe m 0 1 = 0x13) (hcon : (s.mgt.con host).state ≠ 0) :
    (rdLe m 1 1 = rqCapabilities → s.spdmRespond host m = s.spdmCapabilities host m) ∧
    (rdLe m 1 1 = rqAlgorithms → s.spdmRespond host m = s.spdmAlgorithms host m) := by
  have hcon' : (s.mgt.con host).state.toNat ≠ 0 := fun h => hcon (BitVec.eq_of_toNat_eq h)
  have hgo (hans : rdLe m 1 1 ∈ openCodes) (hc : rdLe m 1 1 ≠ rqVersion) : s.spdmRespond host m = _ :=
    (if_neg (not_not.2 (State.spdmAnswers_open hans))).trans ((if_neg hc).trans ((if_neg (not_not.2 hv)).trans (if_neg hcon')))
  refine ⟨fun hc => ?_, fun hc => ?_⟩
  · exact (hgo (by rw [hc]; decide) (by rw [hc]; decide)).trans (if_pos hc)
  · exact (hgo (by rw [hc]; decide) (by rw [hc]; decide)).trans ((if_neg (by rw [hc]; decide)).trans (if_pos hc))

/-- A request that is answered and needs negotiated algorithms comes too early. -/
theorem State.spdmRespond_early (hans : s.spdmAnswers host (rdLe m 1 1) = true)
    (hc : rdLe m 1 1 ∉ [rqVersion, rqCapabilities, rqAlgorithms]) (hv : rdLe m 0 1 = 0x13) (hcon : (s.mgt.con host).state.toNat ≤ 1) :
    s.spdmRespond host m = (s, spdmError errUnexpected 0) := by
  simp only [List.mem_cons, List.not_mem_nil, or_false, not_or] at hc
  obtain ⟨hversion, hcapabilities, halgorithms⟩ := hc
  simp only [State.spdmRespond, hans, not_true, if_false, hversion, hv, ne_eq, hcapabilities, halgorithms]
  split
  · rfl
  · exact if_pos (by omega)

/-- A request that needs negotiated algorithms, and has them. -/
theorem State.spdmRespond_negotiated (hans : s.spdmAnswers host (rdLe m 1 1) = true)
    (hc : rdLe m 1 1 ∉ [rqVersion, rqCapabilities, rqAlgorithms]) (hv : rdLe m 0 1 = 0x13) (hcon : 2 ≤ (s.mgt.con host).state.toNat) :
    s.spdmRespond host m =
      if rdLe m 1 1 = rqDigests then s.spdmDigests host m
      else if rdLe m 1 1 = rqCertificate then s.spdmCertificate host m
      else if rdLe m 1 1 = rqChallenge then s.spdmChallenge host m
      else if rdLe m 1 1 = rqMeasurements then s.spdmMeasurements host m
      else if rdLe m 1 1 = rqCsr then s.spdmCsr
      else s.spdmSetCertificate m := by
  simp only [List.mem_cons, List.not_mem_nil, or_false, not_or] at hc
  obtain ⟨hversion, hcapabilities, halgorithms⟩ := hc
  have h0 : (s.mgt.con host).state.toNat ≠ 0 := by omega
  have h1 : (s.mgt.con host).state.toNat ≠ 1 := by omega
  simp only [State.spdmRespond, hans, not_true, if_false, hversion, hv, ne_eq, hcapabilities, halgorithms, h0, h1]

end Sys2Proof.Machine
end

section
/-!
What the responder answers to each request over MCTP, and to GET_VERSION in an ATTEST frame (R349 to R351).
-/
namespace Sys2Proof.Machine

variable {cmds : List Instr} {s : State} {m r cert : List Byte} {f : HostFrame}

/-! ### A response over MCTP -/

/-- A response that changes the connection of the path alone. -/
theorem State.mctpRequest_con {g : SpdmCon → SpdmCon} (h : s.spdmRespond false m = (s.modCon false g, r)) :
    s.mctpRequest m = mctpAnswered s (g s.mgt.mctpCon) r := State.mctpRequest_of h

/-- A response that changes nothing else: an error. -/
theorem State.mctpRequest_error (h : s.spdmRespond false m = (s, r)) : s.mctpRequest m = mctpAnswered s s.mgt.mctpCon r :=
  State.mctpRequest_of h

/-! ### Version, capabilities, algorithms -/

theorem exec_getVersion_mctp (h : s.HearsMctp) (hc : rdLe m 1 1 = 0x84) :
    exec (.getVersion (.mctp m)) s = .next (mctpAnswered s
      { state := 1, vca := m ++ [0x10, 4, 0, 0, 0, 1, 0, 0x13], certs := [], meas := [] } [0x10, 4, 0, 0, 0, 1, 0, 0x13]) :=
  congrArg Host.Outcome.next ((State.spdmRow_mctp h hc _).trans (State.mctpRequest_con (State.spdmRespond_version hc)))

theorem exec_getCapabilities_mctp (h : s.HearsMctp) (hc : rdLe m 1 1 = 0xE1) (hv : rdLe m 0 1 = 0x13) (hcon : s.mgt.mctpCon.state ≠ 0) :
    ∃ r, exec (.getCapabilities (.mctp m)) s =
      .next (mctpAnswered s { s.mgt.mctpCon with vca := s.mgt.mctpCon.vca ++ m ++ r } r) ∧ r.take 2 = [0x13, 0x61] :=
  ⟨_, congrArg Host.Outcome.next ((State.spdmRow_mctp h hc _).trans
    (State.mctpRequest_con ((State.spdmRespond_begun (host := false) hv hcon).1 hc))), rfl⟩

theorem exec_negotiateAlgorithms_offered (h : s.HearsMctp) (hc : rdLe m 1 1 = 0xE3) (hv : rdLe m 0 1 = 0x13)
    (hcon : s.mgt.mctpCon.state ≠ 0) (hcurve : (rdLe m 8 4).testBit 8 = true) (hhash : (rdLe m 12 4).testBit 2 = true) :
    ∃ r, exec (.negotiateAlgorithms (.mctp m)) s =
      .next (mctpAnswered s { s.mgt.mctpCon with state := 2, vca := s.mgt.mctpCon.vca ++ m ++ r } r) ∧
        r.length = 36 ∧ r.take 2 = [0x13, 0x63] := by
  have hgo : ¬ (¬ (rdLe m 8 4).testBit 8 ∨ ¬ (rdLe m 12 4).testBit 2) := by simp [hcurve, hhash]
  have hresp := ((State.spdmRespond_begun (s := s) (host := false) hv hcon).2 hc).trans (if_neg hgo)
  exact ⟨_, congrArg Host.Outcome.next ((State.spdmRow_mctp h hc _).trans (State.mctpRequest_con hresp)), rfl, rfl⟩

theorem exec_negotiateAlgorithms_noCurve (h : s.HearsMctp) (hc : rdLe m 1 1 = 0xE3) (hv : rdLe m 0 1 = 0x13)
    (hcon : s.mgt.mctpCon.state ≠ 0) (hcurve : (rdLe m 8 4).testBit 8 = false) :
    exec (.negotiateAlgorithms (.mctp m)) s = .next (mctpAnswered s s.mgt.mctpCon [0x13, 0x7F, 1, 0]) := by
  have hresp := ((State.spdmRespond_begun (s := s) (host := false) hv hcon).2 hc).trans (if_pos (.inl (by simp [hcurve])))
  exact congrArg Host.Outcome.next ((State.spdmRow_mctp h hc _).trans (State.mctpRequest_error hresp))

theorem exec_negotiateAlgorithms_badVersion (h : s.HearsMctp) (hc : rdLe m 1 1 = 0xE3) (hv : rdLe m 0 1 = 0x12) :
    exec (.negotiateAlgorithms (.mctp m)) s = .next (mctpAnswered s s.mgt.mctpCon [0x13, 0x7F, 0x41, 0]) := by
  have hresp := State.spdmRespond_badVersion (s := s) (host := false) (State.spdmAnswers_open (by rw [hc]; decide))
    (by rw [hc]; decide) (by rw [hv]; decide)
  exact congrArg Host.Outcome.next ((State.spdmRow_mctp h hc _).trans (State.mctpRequest_error hresp))

/-! ### Certificates, CHALLENGE and measurements -/

theorem exec_getDigests_early (h : s.HearsMctp) (hc : rdLe m 1 1 = 0x81) (hv : rdLe m 0 1 = 0x13)
    (hcon : s.mgt.mctpCon.state.toNat ≤ 1) :
    exec (.getDigests (.mctp m)) s = .next (mctpAnswered s s.mgt.mctpCon [0x13, 0x7F, 4, 0]) := by
  have hresp := State.spdmRespond_early (s := s) (host := false) (State.spdmAnswers_open (by rw [hc]; decide))
    (by rw [hc]; decide) hv hcon
  exact congrArg Host.Outcome.next ((State.spdmRow_mctp h hc _).trans (State.mctpRequest_error hresp))

theorem exec_getDigests_mctp (h : s.HearsMctp) (hc : rdLe m 1 1 = 0x81) (hv : rdLe m 0 1 = 0x13)
    (hcon : 2 ≤ s.mgt.mctpCon.state.toNat) (hcert : certificate s.nor = some cert) :
    ∃ r, exec (.getDigests (.mctp m)) s =
      .next (mctpAnswered s { s.mgt.mctpCon with certs := s.mgt.mctpCon.certs ++ m ++ r } r) ∧
        r = [0x13, 0x01, 1, 1] ++ natLe 64 (sha512 cert).toNat := by
  have hresp := (State.spdmRespond_negotiated (s := s) (host := false) (State.spdmAnswers_open (by rw [hc]; decide))
    (by rw [hc]; decide) hv hcon).trans (if_pos hc)
  simp only [State.spdmDigests, hcert] at hresp
  exact ⟨_, congrArg Host.Outcome.next ((State.spdmRow_mctp h hc _).trans (State.mctpRequest_con hresp)), rfl⟩

theorem exec_getCertificate_mctp (h : s.HearsMctp) (hc : rdLe m 1 1 = 0x82) (hv : rdLe m 0 1 = 0x13)
    (hcon : 2 ≤ s.mgt.mctpCon.state.toNat) (hcert : certificate s.nor = some cert) (hslot : rdLe m 2 1 = 0)
    (hoff : rdLe m 4 2 < cert.length) :
    ∃ r, exec (.getCertificate (.mctp m)) s =
      .next (mctpAnswered s { s.mgt.mctpCon with certs := s.mgt.mctpCon.certs ++ m ++ r } r) ∧
        r.drop 8 = (cert.drop (rdLe m 4 2)).take (rdLe m 6 2) := by
  have hgo : ¬ (rdLe m 2 1 ≠ 0 ∨ cert.length ≤ rdLe m 4 2) := by omega
  have hresp := (State.spdmRespond_negotiated (s := s) (host := false) (State.spdmAnswers_open (by rw [hc]; decide))
    (by rw [hc]; decide) hv hcon).trans ((if_neg (by rw [hc]; decide)).trans (if_pos hc))
  simp only [State.spdmCertificate, hcert, if_neg hgo] at hresp
  exact ⟨_, congrArg Host.Outcome.next ((State.spdmRow_mctp h hc _).trans (State.mctpRequest_con hresp)), List.drop_left' rfl⟩

/-- The response to a CHALLENGE of slot 0, and the signature behind it, which covers the messages of the connection. -/
theorem State.spdmChallenge_signed (hcert : certificate s.nor = some cert) (hslot : rdLe m 2 1 = 0) :
    ∃ (r : List Byte) (k : Nat), s.spdmChallenge false m =
      ({ s with
          free := s.free + 14
          mgt := { s.mgt with mctpCon := { s.mgt.mctpCon with certs := [] }, sigCount := satIncr s.mgt.sigCount } },
        r ++ ecdsaSign s.fuses.scalar k (sha512 (signedMessage useChallenge (s.mgt.mctpCon.vca ++ s.mgt.mctpCon.certs ++ m ++ r)))) ∧
      r.take 68 = [0x13, 0x03, 0, 1] ++ natLe 64 (sha512 cert).toNat := by
  simp only [State.spdmChallenge, hcert, if_neg (not_not.2 hslot), State.sign, State.takeFrees, State.modCon, Mgt.con,
    Bool.false_eq_true, if_false]
  refine ⟨_, _, rfl, ?_⟩
  rw [List.append_assoc, List.append_assoc, List.append_assoc]
  exact List.take_left' rfl

theorem exec_challenge_mctp (h : s.HearsMctp) (hc : rdLe m 1 1 = 0x83) (hv : rdLe m 0 1 = 0x13)
    (hcon : 2 ≤ s.mgt.mctpCon.state.toNat) (hcert : certificate s.nor = some cert) (hslot : rdLe m 2 1 = 0) :
    ∃ (r sig : List Byte), exec (.challenge (.mctp m)) s = .next
      { mctpAnswered s { s.mgt.mctpCon with certs := [] } (r ++ sig) with
        free := s.free + 14, mgt := { s.mgt with mctpCon := { s.mgt.mctpCon with certs := [] }, spdmOut := s.mgt.spdmOut ++ [r ++ sig]
                                                 sigCount := satIncr s.mgt.sigCount } } ∧
      (∃ k, sig = ecdsaSign s.fuses.scalar k
        (sha512 (signedMessage useChallenge (s.mgt.mctpCon.vca ++ s.mgt.mctpCon.certs ++ m ++ r)))) ∧
      r.take 68 = [0x13, 0x03, 0, 1] ++ natLe 64 (sha512 cert).toNat := by
  obtain ⟨r, k, hsigned, htake⟩ := State.spdmChallenge_signed hcert hslot
  have hresp := (State.spdmRespond_negotiated (s := s) (host := false) (State.spdmAnswers_open (by rw [hc]; decide))
    (by rw [hc]; decide) hv hcon).trans ((if_neg (by rw [hc]; decide)).trans ((if_neg (by rw [hc]; decide)).trans (if_pos hc)))
  exact ⟨r, _, congrArg Host.Outcome.next ((State.spdmRow_mctp h hc _).trans (State.mctpRequest_of (hresp.trans hsigned))), ⟨k, rfl⟩, htake⟩

/-- All eleven blocks, unsigned. -/
theorem State.spdmMeasurements_all (hop : rdLe m 3 1 = 0xFF) (hsign : (byteAt m 2).getLsbD 0 = false) :
    ∃ r, s.spdmMeasurements false m = (State.modCon { s with free := s.free + 4 } false (fun c => { c with meas := c.meas ++ m ++ r }), r) ∧
      r.take 5 = [0x13, 0x60, 0, 0, 11] ∧ (r.drop 8).take s.measurements.flatten.length = s.measurements.flatten := by
  have hasked : s.asked 0xFF = some s.measurements := rfl
  simp only [State.spdmMeasurements, hop, hasked, hsign, Bool.false_eq_true, if_false]
  refine ⟨_, rfl, rfl, ?_⟩
  simp only [List.append_assoc]
  exact List.take_left

theorem exec_getMeasurements_mctp (h : s.HearsMctp) (hc : rdLe m 1 1 = 0xE0) (hv : rdLe m 0 1 = 0x13)
    (hcon : 2 ≤ s.mgt.mctpCon.state.toNat) (hop : rdLe m 3 1 = 0xFF) (hsign : (byteAt m 2).getLsbD 0 = false) :
    ∃ r, exec (.getMeasurements (.mctp m)) s = .next
      { mctpAnswered s { s.mgt.mctpCon with meas := s.mgt.mctpCon.meas ++ m ++ r } r with free := s.free + 4 } ∧
      r.take 5 = [0x13, 0x60, 0, 0, 11] ∧ (r.drop 8).take s.measurements.flatten.length = s.measurements.flatten := by
  obtain ⟨r, hmeas, hhead, hbody⟩ := State.spdmMeasurements_all (s := s) hop hsign
  have hresp := (State.spdmRespond_negotiated (s := s) (host := false) (State.spdmAnswers_open (by rw [hc]; decide))
    (by rw [hc]; decide) hv hcon).trans ((if_neg (by rw [hc]; decide)).trans ((if_neg (by rw [hc]; decide)).trans
      ((if_neg (by rw [hc]; decide)).trans (if_pos hc))))
  exact ⟨r, congrArg Host.Outcome.next ((State.spdmRow_mctp h hc _).trans (State.mctpRequest_of (hresp.trans hmeas))), hhead, hbody⟩

/-! ### Provisioning (R349) -/

theorem exec_getCsr_mctp (h : s.HearsMctp) (hlife : s.fuses.life = 1) (hc : rdLe m 1 1 = 0xED) (hv : rdLe m 0 1 = 0x13)
    (hcon : 2 ≤ s.mgt.mctpCon.state.toNat) :
    ∃ (r : List Byte) (k : Nat), exec (.getCsr (.mctp m)) s = .next { mctpAnswered s s.mgt.mctpCon r with
      free := s.free + 10, mgt := { s.mgt with spdmOut := s.mgt.spdmOut ++ [r], sigCount := satIncr s.mgt.sigCount } } ∧
      r.drop 8 = signedRequest s.fuses.scalar k Config.csrSubject Config.csrAttributes := by
  have hresp := (State.spdmRespond_negotiated (s := s) (host := false) (State.spdmAnswers_provisioning hlife (by rw [hc]; decide))
    (by rw [hc]; decide) hv hcon).trans ((if_neg (by rw [hc]; decide)).trans ((if_neg (by rw [hc]; decide)).trans
      ((if_neg (by rw [hc]; decide)).trans ((if_neg (by rw [hc]; decide)).trans (if_pos hc)))))
  exact ⟨_, _, congrArg Host.Outcome.next ((State.spdmRow_mctp h hc _).trans (State.mctpRequest_of hresp)), List.drop_left' rfl⟩

/-- SET_CERTIFICATE with negotiated algorithms is handled. -/
theorem exec_setCertificate_handled (h : s.HearsMctp) (hlife : s.fuses.life = 1) (hc : rdLe m 1 1 = 0xEE) (hv : rdLe m 0 1 = 0x13)
    (hcon : 2 ≤ s.mgt.mctpCon.state.toNat) {t : State} (hset : s.spdmSetCertificate m = (t, r)) :
    exec (.setCertificate (.mctp m)) s = .next { t with mgt := { t.mgt with spdmOut := t.mgt.spdmOut ++ [r] } } := by
  have hresp := (State.spdmRespond_negotiated (s := s) (host := false) (State.spdmAnswers_provisioning hlife (by rw [hc]; decide))
    (by rw [hc]; decide) hv hcon).trans ((if_neg (by rw [hc]; decide)).trans ((if_neg (by rw [hc]; decide)).trans
      ((if_neg (by rw [hc]; decide)).trans ((if_neg (by rw [hc]; decide)).trans (if_neg (by rw [hc]; decide))))))
  exact congrArg Host.Outcome.next ((State.spdmRow_mctp h hc _).trans (State.mctpRequest_of (hresp.trans hset)))

/-- A chain of the identity key is written into the certificate area. -/
theorem State.spdmSetCertificate_written (hslot : rdLe m 2 1 % 16 = 0) (hne : m.drop 4 ≠ []) (hlen : m.length ≤ 65536)
    (hkey : leafKey (m.drop 4) = some s.publicKey) (hx : s.pins.xspiFault = false) :
    s.spdmSetCertificate m = ({ s with
      nor := norStore (norErase s.nor certArea 0x10000) certArea (natLe 4 (m.drop 4).length ++ m.drop 4)
      mgt := { s.mgt with certOk := true } }, [0x13, 0x6E, 0, 0]) := by
  have hfit : ¬ (rdLe m 2 1 % 16 ≠ 0 ∨ m.drop 4 = [] ∨ 65532 < (m.drop 4).length ∨ leafKey (m.drop 4) ≠ some s.publicKey) := by
    simp only [hslot, hne, hkey, List.length_drop, ne_eq, not_true, false_or, or_false]
    omega
  exact (if_neg hfit).trans (if_neg (by simp [hx]))

theorem exec_setCertificate_written (hs : Ok cmds s) (h : s.HearsMctp) (hlife : s.fuses.life = 1) (hc : rdLe m 1 1 = 0xEE)
    (hv : rdLe m 0 1 = 0x13) (hcon : 2 ≤ s.mgt.mctpCon.state.toNat) (hslot : rdLe m 2 1 % 16 = 0) (hne : m.drop 4 ≠ [])
    (hlen : m.length ≤ 65536) (hkey : leafKey (m.drop 4) = some s.publicKey) (hx : s.pins.xspiFault = false) :
    ∃ t, exec (.setCertificate (.mctp m)) s = .next t ∧ { t with nor := s.nor, mgt := s.mgt } = s ∧
      certificate t.nor = some (m.drop 4) ∧ t.mgt.certOk = true ∧ t.mgt.spdmOut = s.mgt.spdmOut ++ [[0x13, 0x6E, 0, 0]] := by
  have hset := State.spdmSetCertificate_written hslot hne hlen hkey hx
  refine ⟨_, exec_setCertificate_handled h hlife hc hv hcon hset, rfl, ?_, rfl, rfl⟩
  exact certificate_norStore (SMap.wf_clearRange _ _ hs.nor_) hne (by rw [List.length_drop]; omega)

theorem exec_setCertificate_wrongKey (h : s.HearsMctp) (hlife : s.fuses.life = 1) (hc : rdLe m 1 1 = 0xEE) (hv : rdLe m 0 1 = 0x13)
    (hcon : 2 ≤ s.mgt.mctpCon.state.toNat) (hkey : leafKey (m.drop 4) ≠ some s.publicKey) :
    exec (.setCertificate (.mctp m)) s = .next (mctpAnswered s s.mgt.mctpCon [0x13, 0x7F, 1, 0]) :=
  exec_setCertificate_handled h hlife hc hv hcon (if_pos (.inr (.inr (.inr hkey))))

theorem exec_getCsr_unprovisioned (h : s.HearsMctp) (hlife : s.fuses.life ≠ 1) (hc : rdLe m 1 1 = 0xED) :
    exec (.getCsr (.mctp m)) s = .next (mctpAnswered s s.mgt.mctpCon [0x13, 0x7F, 7, 0xED]) := by
  have hresp := State.spdmRespond_unsupported (s := s) (host := false) (m := m)
    (State.spdmAnswers_unknown (by rw [hc]; decide) fun _ => hlife)
  rw [hc] at hresp
  exact congrArg Host.Outcome.next ((State.spdmRow_mctp h hc _).trans (State.mctpRequest_error hresp))

/-- A code that no row has is unsupported. -/
theorem exec_unsupportedRequest_mctp (h : s.HearsMctp) (hc : rdLe m 1 1 ∉ [0x81, 0x82, 0x83, 0x84, 0xE0, 0xE1, 0xE3, 0xED, 0xEE]) :
    exec (.unsupportedRequest (.mctp m)) s = .next (mctpAnswered s s.mgt.mctpCon [0x13, 0x7F, 7, BitVec.ofNat 8 (rdLe m 1 1)]) := by
  have hrow {l : List Nat} (hl : ∀ c ∈ l, c ∈ [0x81, 0x82, 0x83, 0x84, 0xE0, 0xE1, 0xE3, 0xED, 0xEE]) : rdLe m 1 1 ∉ l :=
    fun hm => hc (hl _ hm)
  have hnone : ¬ [rqVersion, rqCapabilities, rqAlgorithms, rqDigests, rqCertificate, rqChallenge, rqMeasurements, rqCsr,
      rqSetCertificate].contains (rdLe m 1 1) = true := fun hm => hrow (by decide) (List.contains_iff_mem.1 hm)
  have hresp := State.spdmRespond_unsupported (s := s) (host := false) (m := m)
    (State.spdmAnswers_unknown (hrow (by decide)) fun hm => absurd hm (hrow (by decide)))
  exact congrArg Host.Outcome.next ((if_neg hnone).trans ((State.spdm_mctp h _ m).trans (State.mctpRequest_error hresp)))

/-! ### Over the host port -/

/-- GET_VERSION in an ATTEST frame that is taken begins the connection of the host port anew, and its response is the frame's reply. -/
theorem exec_getVersion_host (hs : Ok cmds s) (h : FrameTaken s 9 0 f) (hjob : f.job = 0xFF) (hc : rdLe f.body 1 1 = 0x84) :
    exec (.getVersion (.host f)) s = .next (replied { s with mgt := { s.mgt with hostCon :=
      { state := 1, vca := f.body ++ [0x10, 4, 0, 0, 0, 1, 0, 0x13], certs := [], meas := [] } } } 9 f 0 [0x10, 4, 0, 0, 0, 1, 0, 0x13]) := by
  have hbody : f.body ≠ [] := by
    intro hnil
    rw [hnil] at hc
    exact absurd hc (by decide)
  have hrow : (State.spdmRow s (.getVersion (.host f)) (.host f) rqVersion) = (s.taking 9 f).attestFrame f :=
    (if_pos hc).trans (State.hostFrame_taken h _ _)
  have hgo : ¬ ((f.job != 0xFF || f.body == []) = true) := by simp [hjob, hbody]
  refine congrArg Host.Outcome.next (hrow.trans ((if_neg hgo).trans ?_))
  dsimp only
  rw [State.spdmRespond_version (s := s.taking 9 f) (host := true) hc]
  have hreply := State.answer_taking (cmds := cmds) (typ := 9) (s := s.modCon true fun _ =>
    { SpdmCon.reset with state := 1, vca := f.body ++ [0x10, 4, 0, 0, 0, 1, 0, 0x13] }) { hs with }
    ⟨h.link, h.ready, h.calm, h.unheld, h.first⟩ f.job 0 [0x10, 4, 0, 0, 0, 1, 0, 0x13]
  rw [hjob] at hreply
  refine hreply.trans ?_
  rw [replied, hjob]
  rfl

/-! ### The statement -/

/-- Settles O53: each request code by the lemma on its row. -/
theorem requestsAreAnswered : Obligations.RequestsAreAnswered := by
  unfold Obligations.RequestsAreAnswered
  rintro s m c cert hcan hready hbus haddr hcalm rfl
  have h : s.HearsMctp := ⟨hready, hbus, haddr, hcalm⟩
  exact ⟨exec_getVersion_mctp h, exec_getCapabilities_mctp h,
    fun hc hv hcon => ⟨exec_negotiateAlgorithms_offered h hc hv hcon, exec_negotiateAlgorithms_noCurve h hc hv hcon⟩,
    exec_negotiateAlgorithms_badVersion h, exec_getDigests_early h,
    fun hv hcon hcert => ⟨fun hc => exec_getDigests_mctp h hc hv hcon hcert,
      fun hc hslot hoff => exec_getCertificate_mctp h hc hv hcon hcert hslot hoff,
      fun hc hslot => exec_challenge_mctp h hc hv hcon hcert hslot,
      fun hc hop hsign => exec_getMeasurements_mctp h hc hv hcon hop hsign⟩,
    fun hlife hv hcon => ⟨fun hc => exec_getCsr_mctp h hlife hc hv hcon,
      fun hc hslot hne hlen hkey hx => exec_setCertificate_written hcan.ok h hlife hc hv hcon hslot hne hlen hkey hx,
      fun hc _ hkey => exec_setCertificate_wrongKey h hlife hc hv hcon hkey⟩,
    exec_getCsr_unprovisioned h, exec_unsupportedRequest_mctp h, fun f => exec_getVersion_host hcan.ok⟩

end Sys2Proof.Machine
end

section
/-!
SUPPORT. Sparse maps with the same contents, and fabric ports changed one after another.
-/
namespace Sys2Proof.SMap

variable {α : Type} [DecidableEq α] {d : α}

/-- Canonical maps that read alike are the same. -/
theorem eq_of_get {m n : SMap α} (hm : SMap.wf d m = true) (hn : SMap.wf d n = true) (h : ∀ k, SMap.get d m k = SMap.get d n k) : m = n := by
  have hhead {k : Nat} {v : α} {l : SMap α} : SMap.get d ((k, v) :: l) k = v := by simp [SMap.get]
  have hbelow {j k : Nat} {v : α} {l : SMap α} (hjk : j < k) : SMap.get d ((k, v) :: l) j = d := by simp [SMap.get, hjk.ne, hjk]
  induction m generalizing n with
  | nil =>
    cases n with
    | nil => rfl
    | cons y n =>
      obtain ⟨k, w⟩ := y
      exact absurd ((h k).trans hhead).symm (wf_cons.1 hn).1
  | cons x m ih =>
    obtain ⟨j, v⟩ := x
    obtain ⟨hv, hlt, hm'⟩ := wf_cons.1 hm
    cases n with
    | nil => exact absurd (hhead.symm.trans (h j)) hv
    | cons y n =>
      obtain ⟨k, w⟩ := y
      obtain ⟨hw, hlt', hn'⟩ := wf_cons.1 hn
      obtain hjk | rfl | hjk := Nat.lt_trichotomy j k
      · exact absurd (hhead.symm.trans ((h j).trans (hbelow hjk))) hv
      · have hvw : v = w := hhead.symm.trans ((h j).trans hhead)
        rw [hvw, ih hm' hn' fun i => ?_]
        obtain hij | hij := Nat.lt_or_ge j i
        · have hi := h i
          simpa [SMap.get, hij.ne', hij.not_gt] using hi
        · rw [get_of_lt d fun x hx => Nat.lt_of_le_of_lt hij (hlt x hx), get_of_lt d fun x hx => Nat.lt_of_le_of_lt hij (hlt' x hx)]
      · exact absurd (hhead.symm.trans ((h k).symm.trans (hbelow hjk))) hw

end Sys2Proof.SMap

namespace Sys2Proof.Machine

variable {s : State} {q : Nat} {f g : Port → Port}

/-- Functions that agree on a port change it alike. -/
theorem State.modPort_congr (h : f (s.port q) = g (s.port q)) : s.modPort q f = s.modPort q g := by
  simp only [State.modPort, SMap.modify]
  rw [show f (SMap.get Port.reset s.ports q) = g (SMap.get Port.reset s.ports q) from h]

theorem State.modPort_modPort (hp : SMap.wf Port.reset s.ports = true) (q : Nat) (f g : Port → Port) :
    (s.modPort q f).modPort q g = s.modPort q (fun p => g (f p)) := by
  simp only [State.modPort, SMap.modify, SMap.get_set_same hp, SMap.set_set hp]

end Sys2Proof.Machine
end

section
/-!
What is written into the configuration memory (R340, R344), and a firmware update half by half (R357, R358).
-/
namespace Sys2Proof.Machine

variable {cmds : List Instr} {s t : State} {img cmd : List Byte} {o : Signed} {u : Update} {d : Directory}

/-! ### The configuration memory -/

theorem norGet_norErase {m : SMap Byte} (h : SMap.wf 0xFF m = true) (a n j : Nat) :
    norGet (norErase m a n) j = if a ≤ j ∧ j < a + n then 0xFF else norGet m j := by
  refine (SMap.get_filter_key h (fun i => !(decide (a ≤ i) && decide (i < a + n))) j).trans ?_
  by_cases hj : a ≤ j ∧ j < a + n
  · rw [if_pos hj, if_neg (by simp [hj])]
  · have hpass : (!(decide (a ≤ j) && decide (j < a + n))) = true := by
      rw [Bool.not_eq_true', ← Bool.decide_and, decide_eq_false hj]
    rw [if_neg hj, if_pos hpass]
    rfl

/-- An area erased and then programmed with at most `k` bytes holds those, and is erased behind them. -/
theorem norGet_reprogrammed {m : SMap Byte} (h : SMap.wf 0xFF m = true) {n k : Nat} (hk : k ≤ n) (a j : Nat) (bs : List Byte) :
    norGet (norStore (norErase m a n) a (bs.take k)) j =
      if a ≤ j ∧ j < a + n then (if j - a < k then (bs[j - a]?).getD 0xFF else 0xFF) else norGet m j := by
  rw [norGet_norStore _ _ _ (wf_norErase _ _ h), norGet_norErase h, List.getD_eq_getElem?_getD, List.getElem?_take, List.length_take]
  by_cases hlo : a ≤ j
  · by_cases hin : j < a + min k bs.length
    · have hj : j - a < k := by omega
      have hjn : j < a + n := by omega
      simp only [hlo, hin, hj, hjn, and_self, if_true]
    · rw [if_neg fun hc => hin hc.2]
      by_cases hn : j < a + n
      · rw [if_pos ⟨hlo, hn⟩, if_pos ⟨hlo, hn⟩]
        split
        · rw [List.getElem?_eq_none (by omega), Option.getD_none]
        · rfl
      · rw [if_neg fun hc => hn hc.2, if_neg fun hc => hn hc.2]
  · rw [if_neg fun hc => hlo hc.1, if_neg fun hc => hlo hc.1, if_neg fun hc => hlo hc.1]

theorem State.led_of (hready : s.ready = true) (hvalid : s.mgt.leaseValid = true) : s.led = true := by
  simp [State.led, hready, hvalid]

/-- A life-cycle command is written to the command area. -/
theorem exec_lifeCycleCommand_staged (hled : s.led = true) (hbus : s.pins.i3cFault = false) (haddr : s.pins.i3cAddr ≠ none)
    (hx : s.pins.xspiFault = false) (cmd : List Byte) :
    exec (.lifeCycleCommand cmd) s =
      .next { s with nor := norStore (norErase s.nor commandArea 0x1000) commandArea (cmd.take 484) } :=
  congrArg Host.Outcome.next (if_neg (by simp [hled, hbus, haddr, hx]))

/-- The record copy that is not in force. -/
def State.spareCopy (s : State) : Bool := !s.mgt.bootStat.getLsbD 9

/-- An image written into the record copy that is not in force. -/
def State.stageRecords (s : State) (img : List Byte) : State :=
  { s with nor := norStore (norErase s.nor (recordArea s.spareCopy) 0x800000) (recordArea s.spareCopy) (img.take 0x800000) }

theorem exec_recordStaging_staged (hled : s.led = true) (hx : s.pins.xspiFault = false) (img : List Byte) :
    exec (.recordStaging img) s = .next (if ((s.stageRecords img).readRecordCopy s.spareCopy).isSome
      then (s.stageRecords img).rewriteDirectory (selBit · 1 s.spareCopy) else s.stageRecords img) :=
  congrArg Host.Outcome.next (if_neg (by simp [hled, hx]))

/-- A device that differs from `s` in its configuration memory alone, which reads as that with the image staged, is that with the image
staged. -/
theorem State.eq_stageRecords (hs : Ok cmds s) (hrest : { t with nor := s.nor } = s) (hwf : SMap.wf 0xFF t.nor = true)
    (hget : ∀ a, norGet t.nor a = if recordArea s.spareCopy ≤ a ∧ a < recordArea s.spareCopy + 0x800000
      then (img[a - recordArea s.spareCopy]?).getD 0xFF else norGet s.nor a) : s.stageRecords img = t := by
  have hnor : (s.stageRecords img).nor = t.nor := by
    refine SMap.eq_of_get (wf_norStore _ _ (wf_norErase _ _ hs.nor_)) hwf fun a => ?_
    refine (norGet_reprogrammed hs.nor_ (Nat.le_refl _) _ a img).trans (Eq.trans ?_ (hget a).symm)
    by_cases ha : recordArea s.spareCopy ≤ a ∧ a < recordArea s.spareCopy + 0x800000
    · rw [if_pos ha, if_pos ha, if_pos (by omega)]
    · rw [if_neg ha, if_neg ha]
  calc s.stageRecords img = { s with nor := (s.stageRecords img).nor } := rfl
    _ = { t with nor := (s.stageRecords img).nor } := congrArg (fun v : State => { v with nor := (s.stageRecords img).nor }) hrest.symm
    _ = t := by rw [hnor]

/-- The directory is rewritten in its other copy, with SEQ one higher (R332). -/
theorem State.rewriteDirectory_of (h : readDirectory s.nor = some d) (f : BitVec 8 → BitVec 8) :
    s.rewriteDirectory f = { s with nor := writeDirectory s.nor ⟨!d.copy, d.seq + 1, f d.sel⟩ } := by
  simp only [State.rewriteDirectory, h]
  rfl

/-! ### The halves -/

/-- The lease changes what a half's ROLE says, and nothing else of it. -/
theorem State.half_lead (s : State) (h k : Bool) :
    (s.lead h).mgt.half k = { s.mgt.half k with role := if k == h then 2 else if (s.mgt.half k).health then 1 else 0 } := by
  cases k <;> rfl

/-- A change that leaves a half as it is changes nothing. -/
theorem State.modHalf_eq_self {h : Bool} {f : Half → Half} (hf : f (s.mgt.half h) = s.mgt.half h) : s.modHalf h f = s := by
  cases h with
  | false => exact congrArg (fun x : Half => { s with mgt := { s.mgt with north := x } }) hf
  | true => exact congrArg (fun x : Half => { s with mgt := { s.mgt with south := x } }) hf

theorem State.endReload_running {h : Bool} (hr : (s.mgt.half h).reload = false) : s.endReload h = s :=
  State.modHalf_eq_self (if_neg (by simp [hr]))

/-- A half that was reloading, back in the slot in force. -/
def Half.restarted (h : Half) (now : Nat) : Half := if h.reload then { h with health := true, reload := false, beat := now } else h

/-- The rewritten directory depends on the configuration memory alone. -/
theorem State.rewriteDirectory_exists (s : State) (f : BitVec 8 → BitVec 8) :
    ∃ n, (∀ m : Mgt, ({ s with mgt := m } : State).rewriteDirectory f = { s with mgt := m, nor := n }) ∧
      ∀ d, readDirectory s.nor = some d → n = writeDirectory s.nor ⟨!d.copy, d.seq + 1, f d.sel⟩ := by
  cases hd : readDirectory s.nor with
  | none => exact ⟨s.nor, fun m => by simp only [State.rewriteDirectory, hd], fun d h => nomatch h⟩
  | some x =>
    exact ⟨writeDirectory s.nor ⟨!x.copy, x.seq + 1, f x.sel⟩, fun m => State.rewriteDirectory_of (s := { s with mgt := m }) hd f,
      fun d h => by rw [Option.some.inj h]⟩

/-- A configuration memory and management registers written, and an event after it. -/
theorem State.raise_of_nor (s : State) (m : Mgt) (n : SMap Byte) (e : Ev) :
    { ({ s with mgt := m, nor := n } : State).raise e with mgt := s.mgt, nor := s.nor, log := s.log } = s ∧
    (({ s with mgt := m, nor := n } : State).raise e).mgt = m ∧ (({ s with mgt := m, nor := n } : State).raise e).nor = n ∧
    (({ s with mgt := m, nor := n } : State).raise e).log = s.log.raise s.now11 (s.evRecord e) :=
  ⟨rfl, rfl, rfl, rfl⟩

/-- The device without its update, both halves running the slot in force. -/
def State.reverted (s : State) : State :=
  { s with mgt := { s.mgt with update := none, north := s.mgt.north.restarted s.beacon, south := s.mgt.south.restarted s.beacon } }

/-- An update that is abandoned leaves both halves running the slot in force, marks the staged slot, and is told. -/
theorem State.abandonUpdate_eq (s : State) (version : Nat) (half : Bool) : s.abandonUpdate version half =
    (s.reverted.rewriteDirectory (selBit · (2 + b2n s.spareSlot) true)).raise
      ⟨0x3305, clsNote, none, none, none, version + 2 ^ 32 * b2n half⟩ := by
  rw [Nat.mul_comm, ← Nat.shiftLeft_eq]
  rfl

/-- An update that is abandoned changes the halves, the directory and the log, and nothing else. -/
theorem State.abandonUpdate_spec (s : State) (version : Nat) (half : Bool) :
    { s.abandonUpdate version half with mgt := s.mgt, nor := s.nor, log := s.log } = s ∧
    (s.abandonUpdate version half).mgt = s.reverted.mgt ∧
    (s.abandonUpdate version half).log = s.log.raise s.now11 (s.evRecord ⟨0x3305, clsNote, none, none, none, version + 2 ^ 32 * b2n half⟩) ∧
    ∀ d, readDirectory s.nor = some d →
      (s.abandonUpdate version half).nor = writeDirectory s.nor ⟨!d.copy, d.seq + 1, selBit d.sel (2 + b2n s.spareSlot) true⟩ := by
  obtain ⟨n, hwrite, hn⟩ := s.rewriteDirectory_exists (selBit · (2 + b2n s.spareSlot) true)
  rw [State.abandonUpdate_eq, State.reverted, hwrite]
  obtain ⟨hrest, hmgt, hnor, hlog⟩ := s.raise_of_nor s.reverted.mgt n ⟨0x3305, clsNote, none, none, none, version + 2 ^ 32 * b2n half⟩
  exact ⟨hrest, hmgt, hlog, fun d hd => hnor.trans (hn d hd)⟩

/-- With no update and no half reloading there is nothing to revert. -/
theorem State.reverted_eq_self (hup : s.mgt.update = none) (hn : s.mgt.north.reload = false) (hs : s.mgt.south.reload = false) :
    s.reverted = s :=
  calc s.reverted = { (s.endReload false).endReload true with mgt := { ((s.endReload false).endReload true).mgt with update := none } } := rfl
    _ = { s with mgt := { s.mgt with update := none } } := by rw [State.endReload_running (h := false) hn, State.endReload_running (h := true) hs]
    _ = s := congrArg (fun u : Option Update => { s with mgt := { s.mgt with update := u } }) hup.symm

/-- A half that reloads goes back to the firmware it ran. -/
theorem State.reverted_half (hr : (s.mgt.half h).reload = true) :
    (s.reverted.mgt.half h).health = true ∧ (s.reverted.mgt.half h).fwver = (s.mgt.half h).fwver := by
  have hhalf : s.reverted.mgt.half h = (s.mgt.half h).restarted s.beacon := by cases h <;> rfl
  rw [hhalf, Half.restarted, if_pos hr]
  exact ⟨rfl, rfl⟩

/-! ### Updates -/

theorem State.canUpdate_of (hled : s.led = true) (hx : s.pins.xspiFault = false) (hn : s.mgt.north.health = true)
    (hs : s.mgt.south.health = true) : s.canUpdate = true := by
  simp [State.canUpdate, hled, hx, hn, hs]

/-- An image that fails its verification begins no update. -/
theorem exec_firmwareUpdate_bad (hup : s.mgt.update = none) (hcan : s.canUpdate = true)
    (hbad : (s.stageSlot img).readObject true s.spareSlot = none) :
    exec (.firmwareUpdate img) s = .next ((s.stageSlot img).abandonUpdate (rdLe img 8 4) false) := by
  change execFirmwareUpdate img s = _
  have hbad' : (s.stageSlot img).readObject true (s.stageSlot img).spareSlot = none := hbad
  simp only [execFirmwareUpdate, hup, hcan, hbad', not_true_eq_false, if_false]

theorem exec_updateFailed_bad (hup : s.mgt.update = none) (hcan : s.canUpdate = true)
    (hbad : (s.stageSlot img).readObject true s.spareSlot = none) :
    exec (.updateFailed img false) s = .next ((s.stageSlot img).abandonUpdate (rdLe img 8 4) false) := by
  change execUpdateFailed img false s = _
  simp [execUpdateFailed, hup, hcan, hbad]

/-- A verified image: the half that follows reloads. -/
theorem exec_firmwareUpdate_begin (hup : s.mgt.update = none) (hcan : s.canUpdate = true)
    (hgood : (s.stageSlot img).readObject true s.spareSlot = some o) :
    exec (.firmwareUpdate img) s = .next ((s.stageSlot img).enterReload (!s.mgt.holder) false o.version.toNat) := by
  change execFirmwareUpdate img s = _
  have hgood' : (s.stageSlot img).readObject true (s.stageSlot img).spareSlot = some o := hgood
  simp only [execFirmwareUpdate, hup, hcan, hgood', not_true_eq_false, if_false]
  rfl

theorem exec_updateFailed_good (hup : s.mgt.update = none) (hgood : (s.stageSlot img).readObject true s.spareSlot = some o) :
    exec (.updateFailed img false) s = .next s := by
  change execUpdateFailed img false s = _
  simp [execUpdateFailed, hup, hgood]

/-- The half that reloads is healthy: the update goes on with the other, or ends. -/
theorem exec_firmwareUpdate_goesOn (hup : s.mgt.update = some u) (hled : s.led = true) (hcur : s.adm.current = none)
    (hx : s.pins.xspiFault = false) (hgood : s.readObject true s.spareSlot = some o) :
    exec (.firmwareUpdate img) s = .next (if u.second then (s.reload (!s.mgt.holder) o).endUpdate (!s.mgt.holder) u.version
      else ((s.reload (!s.mgt.holder) o).lead (!s.mgt.holder)).enterReload s.mgt.holder true u.version) := by
  change execFirmwareUpdate img s = _
  simp [execFirmwareUpdate, hup, hled, hcur, hx, hgood]

/-- Before 2 s are over no half is late. -/
theorem exec_updateFailed_early (hup : s.mgt.update = some u) (hearly : s.beacon < u.since + 200000000) :
    exec (.updateFailed img u.second) s = .next s := by
  change execUpdateFailed img u.second s = _
  simp [execUpdateFailed, hup, reloadTimeout, hearly]

/-- A half is late: the update is abandoned at the first; the second tries once more, and then the update ends without it. -/
theorem exec_updateFailed_late (hup : s.mgt.update = some u) (hled : s.led = true) (hlate : u.since + 200000000 ≤ s.beacon) :
    exec (.updateFailed img u.second) s = .next (if ¬ u.second then s.abandonUpdate u.version (!s.mgt.holder)
      else if ¬ u.retried then { s with mgt := { s.mgt with update := some { u with since := s.beacon, retried := true } } }
      else (s.modHalf (!s.mgt.holder) (fun x => { x with reload := false })).endUpdate s.mgt.holder u.version) := by
  change execUpdateFailed img u.second s = _
  simp only [execUpdateFailed, hup]
  rw [if_neg (by simp [hled, reloadTimeout, Nat.not_lt.2 hlate])]

/-- A half enters RELOAD, and nothing else changes but the update's step. -/
theorem State.enterReload_spec (s : State) (h second : Bool) (version : Nat) :
    { s.enterReload h second version with mgt := s.mgt } = s ∧ (s.enterReload h second version).mgt.holder = s.mgt.holder ∧
    (∀ k, (s.enterReload h second version).mgt.half k =
      if k = h then { s.mgt.half h with reload := true, health := false } else s.mgt.half k) ∧
    (s.enterReload h second version).mgt.update = some ⟨second, version, s.beacon, false⟩ := by
  cases h with
  | false => exact ⟨rfl, rfl, fun k => by cases k <;> rfl, rfl⟩
  | true => exact ⟨rfl, rfl, fun k => by cases k <;> rfl, rfl⟩

/-- Half `h` runs `o`, and nothing else changes. -/
theorem State.reload_spec (s : State) (h : Bool) (o : Signed) :
    { s.reload h o with mgt := s.mgt } = s ∧ (s.reload h o).mgt.bootStat = s.mgt.bootStat ∧
    ∀ k, (s.reload h o).mgt.half k = if k = h
      then { s.mgt.half h with fwver := o.version, digest := o.digest, health := true, reload := false, beat := s.beacon } else s.mgt.half k := by
  cases h with
  | false => exact ⟨rfl, rfl, fun k => by cases k <;> rfl⟩
  | true => exact ⟨rfl, rfl, fun k => by cases k <;> rfl⟩

/-- Half `h` is no longer reloading, and nothing else changes. -/
theorem State.stopReload_spec (s : State) (h : Bool) :
    { s.modHalf h (fun x => { x with reload := false }) with mgt := s.mgt } = s ∧
    (s.modHalf h (fun x => { x with reload := false })).mgt.bootStat = s.mgt.bootStat ∧
    ((s.modHalf h (fun x => { x with reload := false })).mgt.half h).health = (s.mgt.half h).health := by
  cases h with
  | false => exact ⟨rfl, rfl, rfl⟩
  | true => exact ⟨rfl, rfl, rfl⟩

/-- BOOT_STAT after an update names the slot that was spare. -/
theorem bootStat_slot (x : BitVec 32) (b : Bool) : ((x &&& 0xFFFFFEFF) ||| (if b then 0x100 else 0)).getLsbD 8 = b := by
  cases b <;> simp

/-- The management registers without an update, when half `h` is given the lease. -/
def State.ledMgt (s : State) (h : Bool) : Mgt :=
  { Mgt.roles { s.mgt with update := none } h with holder := h, leaseValid := true, renewed := s.beacon, handover := false }

/-- The management registers at the end of an update: half `h` leads, and the slot that was spare is in force. -/
def State.endedMgt (s : State) (h : Bool) : Mgt :=
  { s.ledMgt h with bootStat := (s.mgt.bootStat &&& 0xFFFFFEFF) ||| (if s.spareSlot then 0x100 else 0) }

/-- An update that ends: half `h` leads, the slot that was spare is in force and no longer marked, and it is told. -/
theorem State.endUpdate_spec (s : State) (h : Bool) (version : Nat) :
    { s.endUpdate h version with mgt := s.mgt, nor := s.nor, log := s.log } = s ∧ (s.endUpdate h version).mgt.holder = h ∧
    (s.endUpdate h version).mgt.update = none ∧
    (∀ k, (s.endUpdate h version).mgt.half k = { s.mgt.half k with role := if k == h then 2 else if (s.mgt.half k).health then 1 else 0 }) ∧
    (s.endUpdate h version).mgt.bootStat.getLsbD 8 = s.spareSlot ∧
    (∀ d, readDirectory s.nor = some d → (s.endUpdate h version).nor = writeDirectory s.nor
      ⟨!d.copy, d.seq + 1, selBit (selBit d.sel 0 s.spareSlot) (2 + b2n s.spareSlot) false⟩) ∧
    (s.endUpdate h version).log = s.log.raise s.now11 (s.evRecord ⟨0x3304, clsNote, none, none, none, version⟩) := by
  obtain ⟨n, hwrite, hn⟩ := s.rewriteDirectory_exists (fun sel => selBit (selBit sel 0 s.spareSlot) (2 + b2n s.spareSlot) false)
  have hlead : ({ s with mgt := { s.mgt with update := none } } : State).lead h = { s with mgt := s.ledMgt h } := rfl
  have hspare : ({ s with mgt := s.ledMgt h } : State).spareSlot = s.spareSlot := rfl
  have heq : s.endUpdate h version = ({ s with mgt := s.endedMgt h, nor := n } : State).raise ⟨0x3304, clsNote, none, none, none, version⟩ := by
    rw [State.endUpdate, hlead, State.completeUpdate, hspare, hwrite]
    rfl
  rw [heq]
  obtain ⟨hrest, hmgt, hnor, hlog⟩ := s.raise_of_nor (s.endedMgt h) n ⟨0x3304, clsNote, none, none, none, version⟩
  rw [hmgt]
  exact ⟨hrest, rfl, rfl, fun k => by cases k <;> rfl, bootStat_slot _ _, fun d hd => hnor.trans (hn d hd), hlog⟩

/-- An update that ends after a change of the halves alone. -/
theorem State.endUpdate_after {r : State} (hr : { r with mgt := s.mgt } = s) (hboot : r.mgt.bootStat = s.mgt.bootStat) (h : Bool)
    (version : Nat) : { r.endUpdate h version with mgt := s.mgt, nor := s.nor, log := s.log } = s ∧ (r.endUpdate h version).mgt.holder = h ∧
    (r.endUpdate h version).mgt.update = none ∧
    (∀ k, (r.endUpdate h version).mgt.half k = { r.mgt.half k with role := if k == h then 2 else if (r.mgt.half k).health then 1 else 0 }) ∧
    (r.endUpdate h version).mgt.bootStat.getLsbD 8 = s.spareSlot ∧
    (∀ d, readDirectory s.nor = some d → (r.endUpdate h version).nor = writeDirectory s.nor
      ⟨!d.copy, d.seq + 1, selBit (selBit d.sel 0 s.spareSlot) (2 + b2n s.spareSlot) false⟩) ∧
    (r.endUpdate h version).log = s.log.raise s.now11 (s.evRecord ⟨0x3304, clsNote, none, none, none, version⟩) := by
  have heq : r = { s with mgt := r.mgt } := congrArg (fun v : State => { v with mgt := r.mgt }) hr
  generalize r.mgt = m at heq hboot
  subst heq
  have hspare : ({ s with mgt := m } : State).spareSlot = s.spareSlot := congrArg (fun b : BitVec 32 => !b.getLsbD 8) hboot
  obtain ⟨hrest, hholder, hupdate, hhalf, hslot, hnor, hlog⟩ := ({ s with mgt := m } : State).endUpdate_spec h version
  rw [hspare] at hslot hnor
  exact ⟨(congrArg (fun v : State => { v with mgt := s.mgt }) hrest :), hholder, hupdate, hhalf, hslot, hnor, hlog⟩

/-! ### The clauses of R340, R344, R357 and R358 -/

theorem lifeCycleCommand_writes (hs : Ok cmds s) (hled : s.led = true) (hbus : s.pins.i3cFault = false) (haddr : s.pins.i3cAddr ≠ none)
    (hx : s.pins.xspiFault = false) (cmd : List Byte) : ∃ t, exec (.lifeCycleCommand cmd) s = .next t ∧ { t with nor := s.nor } = s ∧
      ∀ a, norGet t.nor a = if 0x30000 ≤ a ∧ a < 0x31000 then (if a - 0x30000 < 484 then (cmd[a - 0x30000]?).getD 0xFF else 0xFF)
        else norGet s.nor a :=
  ⟨_, exec_lifeCycleCommand_staged hled hbus haddr hx cmd, rfl, fun a => norGet_reprogrammed hs.nor_ (by omega) 0x30000 a cmd⟩

theorem recordStaging_writes (hs : Ok cmds s) (hled : s.led = true) (hx : s.pins.xspiFault = false) {s1 : State}
    (hrest : { s1 with nor := s.nor } = s) (hget : ∀ a, norGet s1.nor a = if recordArea s.spareCopy ≤ a ∧ a < recordArea s.spareCopy + 0x800000
      then (img[a - recordArea s.spareCopy]?).getD 0xFF else norGet s.nor a) (hwf : SMap.wf 0xFF s1.nor = true) :
    (s1.readRecordCopy s.spareCopy = none → exec (.recordStaging img) s = .next s1) ∧
    (∀ x d, s1.readRecordCopy s.spareCopy = some x → readDirectory s1.nor = some d → exec (.recordStaging img) s = .next { s1 with
      nor := writeDirectory s1.nor ⟨!d.copy, d.seq + 1, selBit d.sel 1 s.spareCopy⟩ }) := by
  have hexec := exec_recordStaging_staged hled hx img
  rw [State.eq_stageRecords hs hrest hwf hget] at hexec
  refine ⟨fun hbad => ?_, fun x d hgood hd => ?_⟩
  · rw [hexec, hbad]
    rfl
  · rw [hexec, hgood, Option.isSome_some, if_pos rfl, State.rewriteDirectory_of hd]

theorem firmwareUpdate_rejects (hled : s.led = true) (hx : s.pins.xspiFault = false) (hup : s.mgt.update = none)
    (hn : s.mgt.north = { s.mgt.north with health := true, reload := false })
    (hs : s.mgt.south = { s.mgt.south with health := true, reload := false })
    (hbad : (s.stageSlot img).readObject true s.spareSlot = none) (hd : readDirectory (s.stageSlot img).nor = some d) :
    exec (.firmwareUpdate img) s = exec (.updateFailed img false) s ∧ ∃ t, exec (.firmwareUpdate img) s = .next t ∧
      { t with nor := s.nor, log := s.log } = s ∧
      t.nor = writeDirectory (s.stageSlot img).nor ⟨!d.copy, d.seq + 1, selBit d.sel (2 + b2n s.spareSlot) true⟩ ∧
      t.log = s.log.raise s.now11 (s.evRecord ⟨0x3305, clsNote, none, none, none, rdLe img 8 4⟩) := by
  have hcan := State.canUpdate_of hled hx (congrArg Half.health hn) (congrArg Half.health hs)
  have hup' : (s.stageSlot img).mgt.update = none := hup
  have hself := State.reverted_eq_self hup' (congrArg Half.reload hn) (congrArg Half.reload hs)
  obtain ⟨hrest, hmgt, hlog, hnor⟩ := (s.stageSlot img).abandonUpdate_spec (rdLe img 8 4) false
  rw [hself] at hmgt
  refine ⟨(exec_firmwareUpdate_bad hup hcan hbad).trans (exec_updateFailed_bad hup hcan hbad).symm, _,
    exec_firmwareUpdate_bad hup hcan hbad, ?_, hnor d hd, hlog⟩
  generalize (s.stageSlot img).abandonUpdate (rdLe img 8 4) false = t at hrest hmgt
  calc ({ t with nor := s.nor, log := s.log } : State)
      = { ({ t with mgt := t.mgt, nor := (s.stageSlot img).nor, log := (s.stageSlot img).log } : State) with nor := s.nor } := rfl
    _ = { s.stageSlot img with nor := s.nor } := by rw [hmgt, hrest]
    _ = s := rfl

theorem firmwareUpdate_begins (hled : s.led = true) (hx : s.pins.xspiFault = false) (hup : s.mgt.update = none)
    (hn : s.mgt.north.health = true) (hs : s.mgt.south.health = true)
    (hgood : (s.stageSlot img).readObject true s.spareSlot = some o) : exec (.updateFailed img false) s = .next s ∧
      ∃ t, exec (.firmwareUpdate img) s = .next t ∧ { t with mgt := s.mgt } = s.stageSlot img ∧ t.mgt.holder = s.mgt.holder ∧
        t.mgt.half s.mgt.holder = s.mgt.half s.mgt.holder ∧ (t.mgt.half !s.mgt.holder).health = false ∧
        (t.mgt.half !s.mgt.holder).reload = true ∧ t.mgt.update = some ⟨false, o.version.toNat, s.beacon, false⟩ := by
  obtain ⟨hrest, hholder, hhalf, hupdate⟩ := (s.stageSlot img).enterReload_spec (!s.mgt.holder) false o.version.toNat
  refine ⟨exec_updateFailed_good hup hgood, _, exec_firmwareUpdate_begin hup (State.canUpdate_of hled hx hn hs) hgood, hrest, hholder,
    (hhalf _).trans (if_neg (by simp)), ?_, ?_, hupdate⟩
  · rw [hhalf, if_pos rfl]
  · rw [hhalf, if_pos rfl]

/-- The first half to reload is healthy: it is given the lease, and the other enters RELOAD. -/
theorem firmwareUpdate_swaps (hled : s.led = true) (hx : s.pins.xspiFault = false) (hup : s.mgt.update = some u)
    (hcur : s.adm.current = none) (hgood : s.readObject true s.spareSlot = some o) (hsecond : u.second = false) :
    ∃ t, exec (.firmwareUpdate img) s = .next t ∧ { t with mgt := s.mgt } = s ∧ t.mgt.holder = (!s.mgt.holder) ∧
      (t.mgt.half !s.mgt.holder).fwver = o.version ∧ (t.mgt.half !s.mgt.holder).digest = o.digest ∧
      (t.mgt.half !s.mgt.holder).health = true ∧ (t.mgt.half !s.mgt.holder).reload = false ∧
      (t.mgt.half s.mgt.holder).health = false ∧ (t.mgt.half s.mgt.holder).reload = true ∧
      t.mgt.update = some ⟨true, u.version, s.beacon, false⟩ := by
  have hexec := exec_firmwareUpdate_goesOn (img := img) hup hled hcur hx hgood
  rw [hsecond, if_neg Bool.false_ne_true] at hexec
  obtain ⟨hreload, _, hran⟩ := s.reload_spec (!s.mgt.holder) o
  obtain ⟨hrest, hholder, hhalf, hupdate⟩ :=
    ((s.reload (!s.mgt.holder) o).lead (!s.mgt.holder)).enterReload_spec s.mgt.holder true u.version
  have hbeacon : (s.reload (!s.mgt.holder) o).beacon = s.beacon := (congrArg State.beacon hreload :)
  have hnew := (hhalf (!s.mgt.holder)).trans (if_neg (by simp))
  rw [State.half_lead, hran, if_pos rfl] at hnew
  refine ⟨_, hexec, ?_, hholder, ?_, ?_, ?_, ?_, ?_, ?_, hupdate.trans ?_⟩
  · exact (congrArg (fun v : State => { v with mgt := s.mgt }) hrest).trans hreload
  · rw [hnew]
  · rw [hnew]
  · rw [hnew]
  · rw [hnew]
  · rw [hhalf, if_pos rfl]
  · rw [hhalf, if_pos rfl]
  · exact congrArg (fun b => some (⟨true, u.version, b, false⟩ : Update)) hbeacon

/-- The second half to reload is healthy: it is handed the lease back, and the new slot is in force. -/
theorem firmwareUpdate_completes (hled : s.led = true) (hx : s.pins.xspiFault = false) (hup : s.mgt.update = some u)
    (hcur : s.adm.current = none) (hgood : s.readObject true s.spareSlot = some o) (hsecond : u.second = true) :
    ∃ t, exec (.firmwareUpdate img) s = .next t ∧ { t with mgt := s.mgt, nor := s.nor, log := s.log } = s ∧
      t.mgt.holder = (!s.mgt.holder) ∧ t.mgt.update = none ∧ (t.mgt.half !s.mgt.holder).fwver = o.version ∧
      (t.mgt.half !s.mgt.holder).health = true ∧ t.mgt.bootStat.getLsbD 8 = s.spareSlot ∧
      (∀ d, readDirectory s.nor = some d → t.nor = writeDirectory s.nor
        ⟨!d.copy, d.seq + 1, selBit (selBit d.sel 0 s.spareSlot) (2 + b2n s.spareSlot) false⟩) ∧
      t.log = s.log.raise s.now11 (s.evRecord ⟨0x3304, clsNote, none, none, none, u.version⟩) := by
  have hexec := exec_firmwareUpdate_goesOn (img := img) hup hled hcur hx hgood
  rw [hsecond, if_pos rfl] at hexec
  obtain ⟨hreload, hboot, hran⟩ := s.reload_spec (!s.mgt.holder) o
  obtain ⟨hrest, hholder, hupdate, hhalf, hslot, hnor, hlog⟩ := State.endUpdate_after hreload hboot (!s.mgt.holder) u.version
  have hnew := hhalf (!s.mgt.holder)
  rw [hran, if_pos rfl] at hnew
  refine ⟨_, hexec, hrest, hholder, hupdate, ?_, ?_, hslot, hnor, hlog⟩
  · rw [hnew]
  · rw [hnew]

/-- The first half is late: it runs the slot in force again, and the update is abandoned. -/
theorem updateFailed_abandons (hled : s.led = true) (hup : s.mgt.update = some u) (hlate : u.since + 200000000 ≤ s.beacon)
    (hsecond : u.second = false) : ∃ t, exec (.updateFailed img false) s = .next t ∧
      { t with mgt := s.mgt, nor := s.nor, log := s.log } = s ∧ t.mgt.update = none ∧
      ((s.mgt.half !s.mgt.holder).reload = true →
        (t.mgt.half !s.mgt.holder).health = true ∧ (t.mgt.half !s.mgt.holder).fwver = (s.mgt.half !s.mgt.holder).fwver) ∧
      t.log = s.log.raise s.now11 (s.evRecord ⟨0x3305, clsNote, none, none, none, u.version + 2 ^ 32 * b2n (!s.mgt.holder)⟩) := by
  have hexec := exec_updateFailed_late (img := img) hup hled hlate
  rw [hsecond, if_pos (by decide)] at hexec
  obtain ⟨hrest, hmgt, hlog, -⟩ := s.abandonUpdate_spec u.version (!s.mgt.holder)
  refine ⟨_, hexec, hrest, ?_, fun hr => ?_, hlog⟩
  · rw [hmgt]
    rfl
  · rw [hmgt]
    exact State.reverted_half hr

/-- The second half is late for the first time: it tries once more. -/
theorem updateFailed_retries (hled : s.led = true) (hup : s.mgt.update = some u) (hlate : u.since + 200000000 ≤ s.beacon)
    (hsecond : u.second = true) (hretried : u.retried = false) : exec (.updateFailed img true) s =
      .next { s with mgt := { s.mgt with update := some ⟨true, u.version, s.beacon, true⟩ } } := by
  have hexec := exec_updateFailed_late (img := img) hup hled hlate
  rw [hsecond, if_neg (by decide), hretried, if_pos (by decide)] at hexec
  exact hexec

/-- The second half is late again: the update ends without it. -/
theorem updateFailed_ends (hled : s.led = true) (hup : s.mgt.update = some u) (hlate : u.since + 200000000 ≤ s.beacon)
    (hsecond : u.second = true) (hretried : u.retried = true) : ∃ t, exec (.updateFailed img true) s = .next t ∧
      { t with mgt := s.mgt, nor := s.nor, log := s.log } = s ∧ t.mgt.update = none ∧ t.mgt.holder = s.mgt.holder ∧
      (t.mgt.half !s.mgt.holder).health = (s.mgt.half !s.mgt.holder).health ∧ t.mgt.bootStat.getLsbD 8 = s.spareSlot ∧
      t.log = s.log.raise s.now11 (s.evRecord ⟨0x3304, clsNote, none, none, none, u.version⟩) := by
  have hexec := exec_updateFailed_late (img := img) hup hled hlate
  rw [hsecond, if_neg (by decide), hretried, if_neg (by decide)] at hexec
  obtain ⟨hlate', hboot, hran⟩ := s.stopReload_spec (!s.mgt.holder)
  obtain ⟨hrest, hholder, hupdate, hhalf, hslot, hnor, hlog⟩ := State.endUpdate_after hlate' hboot s.mgt.holder u.version
  refine ⟨_, hexec, hrest, hupdate, hholder, ?_, hslot, hlog⟩
  rw [hhalf]
  exact hran

/-- Settles O51: each command's own clause, on the bytes of the configuration memory, and on the halves of an update. -/
theorem stagingAndUpdates : Obligations.StagingAndUpdates := by
  intro s cmd img o copy spare hc hready hvalid hbus haddr hx hcopy hspare
  subst hcopy
  subst hspare
  have hs := hc.ok
  have hled := State.led_of hready hvalid
  refine ⟨lifeCycleCommand_writes hs hled hbus haddr hx cmd, fun s1 hrest hget hwf => recordStaging_writes hs hled hx hrest hget hwf,
    fun hup hn hsouth => ⟨fun d hbad hd => firmwareUpdate_rejects hled hx hup hn hsouth hbad hd,
      firmwareUpdate_begins hled hx hup (congrArg Half.health hn) (congrArg Half.health hsouth)⟩,
    fun u hup hcur hgood => ⟨firmwareUpdate_swaps hled hx hup hcur hgood, firmwareUpdate_completes hled hx hup hcur hgood⟩,
    fun u hup => ⟨exec_updateFailed_early hup, updateFailed_abandons hled hup, updateFailed_retries hled hup, updateFailed_ends hled hup⟩⟩

end Sys2Proof.Machine
end

section
/-!
What a fabric port sends in a position (R294, R300, R301, R306).
-/
namespace Sys2Proof.Machine

variable {cmds : List Instr} {s : State} {q pos : Nat} {c : Cell}

/-! ### Cells and counts -/

theorem cellOk_sealCell (c : Cell) : cellOk (sealCell c) = true := beq_self_eq_true (crc32 (cellBytes c))

theorem satAdd_one (v : Word) : satAdd v 1 = satIncr v := by
  refine BitVec.eq_of_toNat_eq ?_
  rw [toNat_satIncr, satAdd, BitVec.toNat_ofNat]
  omega

theorem State.port_modPort_same (hs : Ok cmds s) (q : Nat) (f : Port → Port) : (s.modPort q f).port q = f (s.port q) := by
  rw [State.port_modPort hs.ports_, if_pos rfl]

theorem State.port_modPort_other (hs : Ok cmds s) {q i : Nat} (h : i ≠ q) (f : Port → Port) : (s.modPort q f).port i = s.port i := by
  rw [State.port_modPort hs.ports_, if_neg h]

/-- A mark leaves the ports as they are. -/
theorem State.mark_ports (s : State) (a v : Nat) : (s.mark a v).ports = s.ports := (congrArg State.ports (s.mark_frame a v) :)

/-- A counted event of a port: its count and the mark of its register. -/
theorem State.countPort_spec (hs : Ok cmds s) (q i n : Nat) :
    { s.countPort q i n with ports := s.ports, marks := s.marks } = s ∧
    (s.countPort q i n).port q = (s.port q).setCount i (satAdd ((s.port q).count i) n) ∧
    ∀ j, j ≠ q → (s.countPort q i n).port j = s.port j := by
  have hport (j : Nat) : (s.countPort q i n).port j = (s.modPort q (fun p => p.setCount i (satAdd (p.count i) n))).port j :=
    congrArg (fun m => SMap.get Port.reset m j) (State.mark_ports _ _ _)
  refine ⟨?_, ?_, fun j hj => ?_⟩
  · exact congrArg (fun v : State => { v with ports := s.ports })
      (State.mark_frame (s.modPort q (fun p => p.setCount i (satAdd (p.count i) n))) (portReg q i) (s.marked (portReg q i) + n))
  · rw [hport, State.port_modPort_same hs]
  · rw [hport, State.port_modPort_other hs hj]

/-- A change of the ports after one of the ports and the marks. -/
theorem State.frame_marks {t u : State} (h1 : { t with ports := u.ports } = u) (h2 : { u with ports := s.ports, marks := s.marks } = s) :
    { t with ports := s.ports, marks := s.marks } = s :=
  (congrArg (fun v : State => { v with ports := s.ports, marks := s.marks }) h1).trans h2

/-! ### A cell on the link -/

/-- A port after a cell `x` in position `pos`. -/
def Port.after (p : Port) (pos : Nat) (x : Cell) : Port :=
  { p with position := pos + 1, nakDue := false, holdOut := x.hold, sent := some x }

/-- Cell `c` as port `q` puts it on the link. -/
def State.linkCell (s : State) (q : Nat) (c : Cell) : Cell :=
  sealCell { c with
    lack := (s.port q).recvSeq, nak := (s.port q).nakDue, hold := s.holdNow q
    nmask := if (s.port q).nakDue then (s.port q).nmask else 0 }

/-- A cell put on the link with what it carries for the other direction; its check holds. -/
theorem State.emit_spec (hs : Ok cmds s) (q pos : Nat) (c : Cell) : ∃ x, { s.emit q pos c with ports := s.ports } = s ∧
    (s.emit q pos c).port q = (s.port q).after pos x ∧ (∀ i, i ≠ q → (s.emit q pos c).port i = s.port i) ∧ cellOk x = true ∧
    { x with hold := c.hold, nmask := c.nmask, crc := c.crc } = { c with lack := (s.port q).recvSeq, nak := (s.port q).nakDue } :=
  ⟨s.linkCell q c, rfl, State.port_modPort_same hs q _, fun _ hi => State.port_modPort_other hs hi _, cellOk_sealCell _, rfl⟩

/-- A change of a port, and then a cell on its link. -/
theorem State.modPort_emit_spec (hs : Ok cmds s) (q pos : Nat) (f : Port → Port) (c : Cell) :
    ∃ x, { (s.modPort q f).emit q pos c with ports := s.ports } = s ∧ ((s.modPort q f).emit q pos c).port q = (f (s.port q)).after pos x ∧
    (∀ i, i ≠ q → ((s.modPort q f).emit q pos c).port i = s.port i) ∧ cellOk x = true ∧
    { x with hold := c.hold, nmask := c.nmask, crc := c.crc } =
      { c with lack := (f (s.port q)).recvSeq, nak := (f (s.port q)).nakDue } := by
  obtain ⟨x, hrest, hport, hother, hok, hx⟩ := State.emit_spec (State.modPort_ok (f := f) hs) q pos c
  rw [State.port_modPort_same hs] at hport hx
  exact ⟨x, (congrArg (fun v : State => { v with ports := s.ports }) hrest :), hport,
    fun i hi => (hother i hi).trans (State.port_modPort_other hs hi f), hok, hx⟩

/-! ### The choice of a position -/

theorem State.sendIf_none (hpos : s.portPos q = none) (f : CellChoice → Bool) : s.sendIf q f = s := by
  simp only [State.sendIf, hpos]

theorem State.sendIf_some (hq : q < 16) (hpos : s.portPos q = some pos) (f : CellChoice → Bool) :
    s.sendIf q f = if f (s.choose q pos) then s.sendCell q pos (s.choose q pos) else s := by
  simp [State.sendIf, hpos, hq]

/-- The only queued cell takes a position that names its source, and any position of a degraded port. -/
theorem State.choose_data {src r : Nat} (hout : (s.port q).outQ = [(src, r, c)]) (hr : r ≤ s.portNet q) (hhold : (s.port q).holdIn = false)
    (hbuf : (s.port q).replayBuf.length < 16384) (hdue : (s.port q).replayDue = [])
    (hname : (s.port q).degraded = true ∨ entryNames q (s.cellEntry q (pos % s.roundCells (s.port q).nact.toNat)) src = true) :
    s.choose q pos = .data 0 := by
  have hfind : (decide (r ≤ s.portNet q) &&
      ((s.port q).degraded || entryNames q (s.cellEntry q (pos % s.roundCells (s.port q).nact.toNat)) src)) = true := by
    simpa [hr] using hname
  simp [State.choose, hout, hhold, hbuf, hdue, hfind, List.findIdx?_cons]

/-- With nothing queued, a cell to be replayed takes the position. -/
theorem State.choose_replay {d m k : Nat} (hout : (s.port q).outQ = []) (hdue : (s.port q).replayDue = [(c.lseq, d)])
    (hbuf : (s.port q).replayBuf = [(c, m, k)]) (hd : d ≤ pos) : s.choose q pos = .replay c.lseq := by
  simp [State.choose, hout, hdue, hbuf, hd]

/-- With nothing queued and nothing to replay, the alignment cell or an idle cell. -/
theorem State.choose_rest (hout : (s.port q).outQ = []) (hdue : (s.port q).replayDue = []) :
    s.choose q pos = if (s.port q).alignDue then .align else .idle := by
  cases halign : (s.port q).alignDue <;> simp [State.choose, hout, hdue, halign]

/-! ### The clauses of R294, R300, R301 and R306 -/

theorem cellTransmit_data (hs : Ok cmds s) (hq : q < 16) (hpos : s.portPos q = some pos) {src r : Nat} (hout : (s.port q).outQ = [(src, r, c)])
    (hr : r ≤ s.portNet q) (hhold : (s.port q).holdIn = false) (hbuf : (s.port q).replayBuf.length < 16384)
    (hdue : (s.port q).replayDue = [])
    (hname : (s.port q).degraded = true ∨ entryNames q (s.cellEntry q (pos % s.roundCells (s.port q).nact.toNat)) src = true) :
    ∃ (t : State) (x : Cell), exec (.cellTransmit q) s = .next t ∧ { t with ports := s.ports } = s ∧
      (∀ i, i ≠ q → t.port i = s.port i) ∧
      cellOk x = true ∧ { x with hold := c.hold, nmask := c.nmask, crc := c.crc } =
        { c with ckind := 0, lseq := (s.port q).sendSeq, lack := (s.port q).recvSeq, nak := (s.port q).nakDue } ∧
      t.port q = { s.port q with
        outQ := [], sendSeq := (s.port q).sendSeq + 1, position := pos + 1, nakDue := false, holdOut := x.hold, sent := some x
        replayBuf := (s.port q).replayBuf ++ [({ c with ckind := 0, lseq := (s.port q).sendSeq }, s.portNet q, 0)] } := by
  have hsend : exec (.cellTransmit q) s = .next (s.sendData q pos 0) := by
    refine congrArg Host.Outcome.next ((State.sendIf_some hq hpos fun _ => true).trans ?_)
    rw [if_pos rfl, State.choose_data hout hr hhold hbuf hdue hname]
    rfl
  obtain ⟨x, hrest, hport, hother, hok, hx⟩ := State.modPort_emit_spec hs q pos (fun p => { p with
    outQ := p.outQ.eraseIdx 0, sendSeq := p.sendSeq + 1
    replayBuf := p.replayBuf ++ [({ c with ckind := 0, lseq := (s.port q).sendSeq }, s.portNet q, 0)] })
    { c with ckind := 0, lseq := (s.port q).sendSeq }
  refine ⟨_, x, hsend.trans (congrArg Host.Outcome.next ?_), hrest, hother, hok, hx, hport.trans ?_⟩
  · simp only [State.sendData, hout, List.drop_zero, List.head?_cons]
  · simp only [Port.after, hout, List.eraseIdx_cons_zero]

theorem sends_replay (hs : Ok cmds s) (hq : q < 16) (hpos : s.portPos q = some pos) {d m k : Nat} (hout : (s.port q).outQ = [])
    (hdue : (s.port q).replayDue = [(c.lseq, d)]) (hbuf : (s.port q).replayBuf = [(c, m, k)]) (hd : d ≤ pos) (hk : k < 14)
    (hkitty : pos ≤ d + (s.kint - 1 - d % s.kint)) :
    ∃ (t : State) (x : Cell), exec (.replay q) s = .next t ∧ exec (.cellTransmit q) s = .next t ∧
      { t with ports := s.ports, marks := s.marks } = s ∧ (∀ i, i ≠ q → t.port i = s.port i) ∧ cellOk x = true ∧
      { x with hold := c.hold, nmask := c.nmask, crc := c.crc } =
        { c with ckind := 3, lack := (s.port q).recvSeq, nak := (s.port q).nakDue } ∧
      t.port q = { s.port q with
        retry := satIncr (s.port q).retry, replayDue := [], replayBuf := [(c, s.portNet q, k + 1)], position := pos + 1
        nakDue := false, holdOut := x.hold, sent := some x } := by
  have hchoose := State.choose_replay (pos := pos) hout hdue hbuf hd
  obtain ⟨hcount, hcounted, hkept⟩ := State.countPort_spec hs q 3 1
  obtain ⟨x, hrest, hport, hother, hok, hx⟩ := State.modPort_emit_spec (State.countPort_ok hs) q pos (fun p => { p with
    replayDue := p.replayDue.filter (fun e => e.1 != c.lseq)
    replayBuf := p.replayBuf.map (fun y => if y.1.lseq == c.lseq then (y.1, s.portNet q, k + 1) else y) }) { c with ckind := 3 }
  have hsent : s.sendReplay q pos c.lseq = ((s.countPort q 3 1).modPort q (fun p => { p with
      replayDue := p.replayDue.filter (fun e => e.1 != c.lseq)
      replayBuf := p.replayBuf.map (fun y => if y.1.lseq == c.lseq then (y.1, s.portNet q, k + 1) else y) })).emit q pos
        { c with ckind := 3 } := by
    simp only [State.sendReplay, hbuf, hdue, List.find?_cons_of_pos, beq_self_eq_true, Option.map_some, Option.getD_some, hkitty, if_true]
    rw [if_neg (by omega)]
  rw [hcounted] at hport hx
  refine ⟨_, x, congrArg Host.Outcome.next ?_, congrArg Host.Outcome.next ?_, ?_, fun i hi => (hother i hi).trans (hkept i hi), hok, hx,
    hport.trans ?_⟩
  · refine (State.sendIf_some hq hpos _).trans ?_
    rw [hchoose, if_pos rfl]
    exact hsent
  · refine (State.sendIf_some hq hpos _).trans ?_
    rw [hchoose, if_pos rfl]
    exact hsent
  · exact State.frame_marks hrest hcount
  · simp [Port.after, Port.setCount, Port.count, satAdd_one, hdue, hbuf]

theorem sends_rest (hs : Ok cmds s) (hq : q < 16) (hpos : s.portPos q = some pos) (hout : (s.port q).outQ = [])
    (hdue : (s.port q).replayDue = []) : exec (.replay q) s = .next s ∧
    ∃ (t : State) (x : Cell), exec (.cellTransmit q) s = .next t ∧ { t with ports := s.ports } = s ∧
      (∀ i, i ≠ q → t.port i = s.port i) ∧
      cellOk x = true ∧ x.ckind = (if (s.port q).alignDue then 2 else 1) ∧ x.lack = (s.port q).recvSeq ∧ x.nak = (s.port q).nakDue ∧
      x.data = (if (s.port q).alignDue then s.alignData q else List.replicate 64 0) ∧
      t.port q = { s.port q with alignDue := false, position := pos + 1, nakDue := false, holdOut := x.hold, sent := some x } ∧
      ((s.port q).alignDue = true → exec (.alignmentCellSend q) s = .next t) ∧
      ((s.port q).alignDue = false → exec (.alignmentCellSend q) s = .next s) := by
  have hchoose := State.choose_rest (pos := pos) hout hdue
  cases halign : (s.port q).alignDue with
  | true =>
    rw [halign, if_pos rfl] at hchoose
    obtain ⟨x, hrest, hport, hother, hok, hx⟩ := State.modPort_emit_spec hs q pos (fun p => { p with alignDue := false })
      (blankCell 2 (s.alignData q))
    have hsend (f : CellChoice → Bool) (hf : f .align = true) : s.sendIf q f =
        (s.modPort q (fun p => { p with alignDue := false })).emit q pos (blankCell 2 (s.alignData q)) := by
      rw [State.sendIf_some hq hpos, hchoose, hf]
      rfl
    refine ⟨congrArg Host.Outcome.next ?_, _, x, congrArg Host.Outcome.next (hsend _ rfl), hrest, hother, hok, (congrArg Cell.ckind hx :),
      (congrArg Cell.lack hx :), (congrArg Cell.nak hx :), (congrArg Cell.data hx :), hport,
      fun _ => congrArg Host.Outcome.next (hsend _ rfl), nofun⟩
    rw [State.sendIf_some hq hpos, hchoose]
    rfl
  | false =>
    rw [halign, if_neg Bool.false_ne_true] at hchoose
    obtain ⟨x, hrest, hport, hother, hok, hx⟩ := State.emit_spec hs q pos (blankCell 1 (List.replicate 64 0))
    have hsend (f : CellChoice → Bool) : s.sendIf q f = if f .idle then s.emit q pos (blankCell 1 (List.replicate 64 0)) else s := by
      rw [State.sendIf_some hq hpos, hchoose]
      rfl
    refine ⟨congrArg Host.Outcome.next (hsend _), _, x, congrArg Host.Outcome.next (hsend _), hrest, hother, hok, (congrArg Cell.ckind hx :),
      (congrArg Cell.lack hx :), (congrArg Cell.nak hx :), (congrArg Cell.data hx :), hport.trans ?_, nofun,
      fun _ => congrArg Host.Outcome.next (hsend _)⟩
    rw [Port.after, ← halign]

theorem replayTimeout_names {m k : Nat} (hbuf : (s.port q).replayBuf = [(c, m, k)]) (hdue : (s.port q).replayDue = [])
    (hup : (s.port q).state = 2) :
    (m + 2 * (SMap.get (false, 0, 0, 0) s.recs.fabric.ports q).2.2.2.toNat + 64 ≤ s.portNet q →
      exec (.replayTimeout q c.lseq) s = .next (s.modPort q (fun p => { p with replayDue := [(c.lseq, p.positionAt (s.portNet q))] }))) ∧
    (s.portNet q < m + 2 * (SMap.get (false, 0, 0, 0) s.recs.fabric.ports q).2.2.2.toNat + 64 →
      exec (.replayTimeout q c.lseq) s = .next s) := by
  have hexec : exec (.replayTimeout q c.lseq) s = .next
      (if m + 2 * (SMap.get (false, 0, 0, 0) s.recs.fabric.ports q).2.2.2.toNat + 64 ≤ s.portNet q then
        s.modPort q (fun p => { p with replayDue := p.replayDue ++ [(c.lseq, p.positionAt (s.portNet q))] }) else s) := by
    change execReplayTimeout q c.lseq s = _
    simp [execReplayTimeout, hbuf, hdue, hup]
  rw [hexec]
  refine ⟨fun hlate => ?_, fun hearly => ?_⟩
  · rw [if_pos hlate]
    exact congrArg Host.Outcome.next (State.modPort_congr (by rw [hdue, List.nil_append]))
  · rw [if_neg (by omega)]

/-- Settles O45: what the position carries decides the cell, and a cell put on the link is sealed. -/
theorem cellsAreSent : Obligations.CellsAreSent := by
  intro s q pos p hc hq hp
  subst hp
  have hs := hc.ok
  refine ⟨fun hnone => congrArg Host.Outcome.next (State.sendIf_none hnone _), fun hpos => ⟨?_, ?_, sends_rest hs hq hpos⟩, ?_⟩
  · intro src r c hout hr hhold hbuf hdue hname
    exact cellTransmit_data hs hq hpos hout hr hhold hbuf hdue hname
  · intro c d m k hout hdue hbuf hd hk hkitty
    exact sends_replay hs hq hpos hout hdue hbuf hd hk hkitty
  · intro c m k hbuf hdue hup
    exact replayTimeout_names hbuf hdue hup

end Sys2Proof.Machine
end

section
/-!
What a fabric port does with a cell that it receives (R288, R291, R298, R300 to R302, R306, R307).
-/
namespace Sys2Proof.SMap

/-- What is gathered over the entries stays when one entry changes to one that gives the same, if the default gives nothing. -/
theorem flatMap_set {α β : Type} [DecidableEq α] {d : α} (g : Nat × α → List β) {k : Nat} {v : α} (hd : g (k, d) = []) :
    ∀ {m : SMap α}, SMap.wf d m = true → g (k, v) = g (k, SMap.get d m k) → (SMap.set d m k v).flatMap g = m.flatMap g
  | [], _, hv => by
    simp only [SMap.set]
    split
    · rfl
    · exact (List.append_nil _).trans (hv.trans hd)
  | (j, w) :: m, hm, hv => by
    simp only [SMap.get] at hv
    simp only [SMap.set]
    by_cases hkj : k = j
    · subst hkj
      rw [if_pos rfl] at hv ⊢
      split
      · next hvd => rw [List.flatMap_cons, ← hv, hvd, hd, List.nil_append]
      · rw [List.flatMap_cons, List.flatMap_cons, hv]
    · rw [if_neg hkj] at hv ⊢
      by_cases hlt : k < j
      · rw [if_pos hlt] at hv ⊢
        split
        · rfl
        · rw [List.flatMap_cons, hv, hd, List.nil_append]
      · rw [if_neg hlt] at hv ⊢
        rw [List.flatMap_cons, List.flatMap_cons, flatMap_set g hd (wf_tail hm) hv]

end Sys2Proof.SMap

namespace Sys2Proof.Machine

variable {cmds : List Instr} {s : State} {q : Nat} {c : Cell}

/-- A change that leaves a port as it is changes nothing. -/
theorem State.modPort_eq_self (hs : Ok cmds s) {f : Port → Port} (hf : f (s.port q) = s.port q) : s.modPort q f = s :=
  congrArg (fun m => { s with ports := m }) ((congrArg (SMap.set Port.reset s.ports q) hf).trans (SMap.set_of_get hs.ports_ rfl))

/-! ### A cell in its place in the sequence -/

/-- A cell seen before is dropped. -/
theorem State.takeCell_seen (h : c.lseq = (s.port q).recvSeq ∨ 0x8000 ≤ (c.lseq - (s.port q).recvSeq).toNat) : s.takeCell q c = s := by
  refine if_pos ?_
  obtain heq | hfar := h
  · exact Or.inl (by simp [heq])
  · exact Or.inr (Or.inl hfar)

/-- The sequence numbers missing below a single cell held after a gap. -/
theorem Port.mem_missing {p : Port} (hd : (c.lseq - p.recvSeq).toNat < 0x8000) (l : BitVec 16) :
    l ∈ ({ p with ahead := [c] } : Port).missing ↔ 0 < (l - p.recvSeq).toNat ∧ (l - p.recvSeq).toNat < (c.lseq - p.recvSeq).toNat := by
  simp only [Port.missing, List.map_cons, List.map_nil, List.foldl_cons, List.foldl_nil, Nat.zero_max, List.any_cons, List.any_nil,
    Bool.or_false, List.mem_filter, List.mem_map, List.mem_range, Bool.not_eq_true', beq_eq_false_iff_ne]
  constructor
  · rintro ⟨⟨i, hi, rfl⟩, hne⟩
    bv_omega
  · rintro ⟨hlo, hhi⟩
    refine ⟨⟨(l - p.recvSeq).toNat - 1, ?_, ?_⟩, ?_⟩
    · bv_omega
    · bv_omega
    · bv_omega

/-- A cell after the last one in sequence is held, and what follows on from there is drained. -/
theorem State.takeCell_held (hahead : (s.port q).ahead = []) (hlo : 1 ≤ (c.lseq - (s.port q).recvSeq).toNat)
    (hhi : (c.lseq - (s.port q).recvSeq).toNat < 0x8000) {t : State}
    (ht : (s.modPort q (fun p => { p with ahead := p.ahead ++ [c] })).drainAhead q 1 = t) : s.takeCell q c =
      t.modPort q (fun p => { p with
        lost := (t.port q).missing, nakDue := p.nakDue || (t.port q).missing.any (fun l => !(s.port q).lost.contains l) }) := by
  have hnew : ¬ ((c.lseq - (s.port q).recvSeq).toNat = 0 ∨ 0x8000 ≤ (c.lseq - (s.port q).recvSeq).toNat ∨
      (s.port q).ahead.any (fun x => x.lseq == c.lseq) = true) := by
    rw [hahead, List.any_nil]
    simp only [Bool.false_eq_true, or_false]
    omega
  have hlen : (s.port q).ahead.length + 1 = 1 := by rw [hahead, List.length_nil]
  simp only [State.takeCell, hnew, if_false, hlen, ht]

/-- A cell after a gap is held, and the gap is to be named. -/
theorem State.takeCell_gap (hs : Ok cmds s) (hahead : (s.port q).ahead = []) (hlost : (s.port q).lost = [])
    (hlo : 2 ≤ (c.lseq - (s.port q).recvSeq).toNat) (hhi : (c.lseq - (s.port q).recvSeq).toNat < 0x8000) :
    s.takeCell q c = s.modPort q (fun p => { p with ahead := [c], lost := ({ p with ahead := [c] } : Port).missing, nakDue := true }) := by
  have hport := State.port_modPort_same hs q (fun p => { p with ahead := p.ahead ++ [c] })
  have hgap : (c.lseq == (s.port q).recvSeq + 1) = false := by
    rw [beq_eq_false_iff_ne]
    bv_omega
  have hdrain : (s.modPort q (fun p => { p with ahead := p.ahead ++ [c] })).drainAhead q 1 =
      s.modPort q (fun p => { p with ahead := p.ahead ++ [c] }) := by
    simp only [State.drainAhead, hport, hahead, List.nil_append, List.find?_cons, hgap, List.find?_nil]
  have hnamed : ({ s.port q with ahead := [c] } : Port).missing.any (fun l => !(s.port q).lost.contains l) = true := by
    rw [List.any_eq_true]
    refine ⟨(s.port q).recvSeq + 1, (Port.mem_missing hhi _).2 ?_, ?_⟩
    · bv_omega
    · rw [hlost]
      rfl
  rw [State.takeCell_held hahead (by omega) hhi hdrain, State.modPort_modPort hs.ports_]
  refine State.modPort_congr ?_
  rw [hport, hahead, List.nil_append, hnamed, Bool.or_true]

/-- The next cell in the sequence goes to the router, which leaves nothing to name. -/
theorem State.takeCell_next (hs : Ok cmds s) (hahead : (s.port q).ahead = []) (hnext : c.lseq = (s.port q).recvSeq + 1)
    {t : State} (ht : (s.modPort q (fun p => { p with recvSeq := c.lseq })).routeCell q c = t) (hahead' : (t.port q).ahead = [])
    (hlost' : (t.port q).lost = []) : s.takeCell q c = t := by
  have hone : (c.lseq - (s.port q).recvSeq).toNat = 1 := by bv_omega
  have hport := State.port_modPort_same hs q (fun p => { p with ahead := p.ahead ++ [c] })
  have hdrain : (s.modPort q (fun p => { p with ahead := p.ahead ++ [c] })).drainAhead q 1 = t := by
    rw [← ht]
    simp only [State.drainAhead, hport, hahead, List.nil_append, List.find?_cons, hnext, beq_self_eq_true]
    rw [State.modPort_modPort hs.ports_]
    refine congrArg (State.routeCell · q c) (State.modPort_congr ?_)
    simp [hahead, hnext]
  have hmissing : (t.port q).missing = [] := by simp [Port.missing, hahead']
  have ht' : Ok cmds t := ht ▸ State.routeCell_ok (State.modPort_ok hs)
  rw [State.takeCell_held hahead hone.ge (by omega) hdrain, hmissing]
  refine State.modPort_eq_self ht' ?_
  rw [← hlost', List.any_eq_false.2 (by simp [hlost']), Bool.or_false]

/-! ### The router -/

/-- Queued cells alone decide when the transit link is free. -/
theorem State.transitCycle_modPort (hs : Ok cmds s) {f : Port → Port} (hf : (f (s.port q)).outQ = (s.port q).outQ) (edge n : Nat) :
    (s.modPort q f).transitCycle edge n = s.transitCycle edge n := by
  have hready : (s.modPort q f).ports.flatMap (fun kv => if portEdge kv.1 = edge
        then (kv.2.outQ.filter (fun c => decide (0x8010 ≤ c.1))).map (·.2.1) else []) =
      s.ports.flatMap (fun kv => if portEdge kv.1 = edge
        then (kv.2.outQ.filter (fun c => decide (0x8010 ≤ c.1))).map (·.2.1) else []) := by
    refine SMap.flatMap_set _ (ite_self _) hs.ports_ ?_
    simp only [State.port] at hf
    simp only [hf]
  simp only [State.transitCycle, hready]

/-- A cell for another port waits there until it can leave. -/
theorem State.routeCell_port {o : Nat} (hforeign : c.ddev ≠ s.recs.fabric.addr) (hroute : s.routePort c.ddev.toNat = o) (ho : o < 16)
    (hkeep : (s.port o).discard = false) : s.routeCell q c = s.modPort o (fun x => { x with
      outQ := x.outQ ++ [((if portEdge o = portEdge q then 0x8000 else 0x8010) + q,
        if portEdge o = portEdge q then s.portNet o + 8 else s.transitCycle (portEdge o) (s.portNet o + 32), c)] }) := by
  have hhere : ¬ (c.ddev = s.recs.fabric.addr ∨ o = 0x10) := fun h => h.elim hforeign (by omega)
  simp only [State.routeCell, hroute, hhere, Nat.not_le.2 ho, hkeep, if_false, Bool.false_eq_true]
  by_cases hedge : portEdge o = portEdge q
  · simp only [hedge, bne_self_eq_false, Bool.false_eq_true, if_false, if_true]
  · simp only [bne_iff_ne, ne_eq, hedge, not_false_eq_true, if_true, if_false]

/-- A cell for a device that no port leads to is rejected. -/
theorem State.routeCell_nowhere (hforeign : c.ddev ≠ s.recs.fabric.addr) (hroute : 16 < s.routePort c.ddev.toNat) :
    s.routeCell q c = (s.countPort q 6 1).raise
      ⟨0x2603, clsNote, none, none, none, q + 2 ^ 4 * c.sdev.toNat + 2 ^ 16 * c.ddev.toNat⟩ := by
  have hhere : ¬ (c.ddev = s.recs.fabric.addr ∨ s.routePort c.ddev.toNat = 0x10) := fun h => h.elim hforeign (by omega)
  simp only [State.routeCell, hhere, hroute.le, if_false, if_true, State.reject, State.raiseDev, Nat.shiftLeft_eq, Nat.zero_mul, Nat.add_zero,
    Nat.mul_comm]

/-! ### Cells at a port that is up -/

theorem exec_cellReceive_lost (hq : q < 16) {fec : Bool} (h : (s.port q).state ≠ 2 ∨ fec = false ∨ cellOk c = false) :
    exec (.cellReceive q c fec) s = .next s :=
  congrArg Host.Outcome.next ((if_pos hq).trans (if_pos (by simpa using h)))

theorem State.receiveCell_up (hup : (s.port q).state = 2) (hok : cellOk c = true) : s.receiveCell q c true =
    match c.ckind.toNat with
    | 1 => s.takeLink q c
    | 2 => (s.takeLink q c).hearAlign q c.data
    | _ => (s.takeLink q c).takeCell q c :=
  if_neg (by simp [hup, hok])

theorem exec_cellReceive_idle (hq : q < 16) (hup : (s.port q).state = 2) (hok : cellOk c = true) (hkind : c.ckind = 1) :
    exec (.cellReceive q c true) s = .next (s.takeLink q c) := by
  refine congrArg Host.Outcome.next ((if_pos hq).trans ((State.receiveCell_up hup hok).trans ?_))
  rw [hkind]
  rfl

theorem exec_cellReceive_align (hq : q < 16) (hup : (s.port q).state = 2) (hok : cellOk c = true) (hkind : c.ckind = 2) :
    exec (.cellReceive q c true) s = .next ((s.takeLink q c).hearAlign q c.data) := by
  refine congrArg Host.Outcome.next ((if_pos hq).trans ((State.receiveCell_up hup hok).trans ?_))
  rw [hkind]
  rfl

theorem exec_cellReceive_data (hq : q < 16) (hup : (s.port q).state = 2) (hok : cellOk c = true) (hkind : c.ckind = 0 ∨ c.ckind = 3) :
    exec (.cellReceive q c true) s = .next ((s.takeLink q c).takeCell q c) := by
  refine congrArg Host.Outcome.next ((if_pos hq).trans ((State.receiveCell_up hup hok).trans ?_))
  obtain hkind | hkind := hkind
  · rw [hkind]
    rfl
  · rw [hkind]
    rfl

theorem exec_alignmentCellReceive (hq : q < 16) (hkind : c.ckind = 2) :
    exec (.alignmentCellReceive q c) s = exec (.cellReceive q c true) s :=
  congrArg Host.Outcome.next ((if_pos ⟨hq, hkind⟩).trans (if_pos hq).symm)

/-- The port with the cells freed that `c` acknowledges, and nothing named. -/
def Port.linked (p : Port) (c : Cell) : Port :=
  let buf := p.replayBuf.filter (fun x => decide (0 < (x.1.lseq - c.lack).toNat) && decide ((x.1.lseq - c.lack).toNat < 0x8000))
  { p with replayBuf := buf, replayDue := p.replayDue.filter (fun d => buf.any (fun x => x.1.lseq == d.1)), holdIn := c.hold }

theorem State.takeLink_of_no_nak (h : c.nak = false) : s.takeLink q c = s.modPort q (fun _ => (s.port q).linked c) := by
  refine State.modPort_congr ?_
  simp only [h, Bool.not_false, if_true, List.filter_nil, List.map_nil, List.append_nil]
  rfl

/-! ### The leader that an alignment cell names -/

/-- Without fabric time, an alignment cell sets it to its way to a leader among the candidates, at most 14 hops away, and changes nothing
else. -/
theorem State.hearLeader_spec (hinvalid : s.ftime.valid = false) (q : Nat) (bs : List Byte) : ∃ f, s.hearLeader q bs = { s with ftime := f } ∧
    (s.leadRank (BitVec.ofNat 12 (rdLe bs 24 2)) = none → f = s.ftime) ∧
    (∀ r, s.leadRank (BitVec.ofNat 12 (rdLe bs 24 2)) = some r → s.leadRank s.recs.fabric.addr = none → rdLe bs 23 1 < 14 →
      f.valid = true ∧ f.leader = BitVec.ofNat 12 (rdLe bs 24 2) ∧ f.hops.toNat = rdLe bs 23 1 + 1 ∧
      f.via = BitVec.ofNat 12 (rdLe bs 20 2) ∧ f.pon = BitVec.ofNat 32 (rdLe bs 26 4)) := by
  cases hlead : s.leadRank (BitVec.ofNat 12 (rdLe bs 24 2)) with
  | none =>
    refine ⟨s.ftime, ?_, fun _ => rfl, fun r h => nomatch h⟩
    simp only [State.hearLeader, hlead, hinvalid, Bool.false_and, Bool.false_eq_true, if_false]
  | some r =>
    by_cases hnear : 14 < rdLe bs 23 1 + 1 ∨ (s.leadRank s.recs.fabric.addr).any (fun o => decide (o ≤ r)) = true
    · refine ⟨s.ftime, ?_, nofun, fun r' _ hown hhops => ?_⟩
      · simp only [State.hearLeader, hlead, hinvalid, Bool.false_and, Bool.false_eq_true, if_false, hnear, if_true]
      · obtain hfar | hsenior := hnear
        · omega
        · rw [hown] at hsenior
          exact absurd hsenior Bool.false_ne_true
    · refine ⟨{ time := BitVec.ofNat 64 (rdLe bs 12 8 + (s.port q).plat.toNat * 32 / 33) - BitVec.ofNat 64 (est16 s.now11)
                leader := BitVec.ofNat 12 (rdLe bs 24 2), hops := BitVec.ofNat 4 (rdLe bs 23 1 + 1), valid := true
                pon := BitVec.ofNat 32 (rdLe bs 26 4), via := BitVec.ofNat 12 (rdLe bs 20 2) }, ?_, nofun,
        fun r' _ _ hhops => ⟨rfl, rfl, ?_, rfl, rfl⟩⟩
      · simp only [State.hearLeader, hlead, hinvalid, Bool.false_and, Bool.false_eq_true, if_false, hnear, not_false_eq_true, true_or,
          or_true, if_true]
      · rw [BitVec.toNat_ofNat]
        omega

/-- What an alignment cell tells port `q`. -/
def Port.aligned (p : Port) (now : Nat) (bs : List Byte) : Port :=
  { p with
    plat := if rdLe bs 32 8 = 0 then p.plat else BitVec.ofNat 16 ((now - rdLe bs 32 8 - rdLe bs 40 8) * 33 / 64)
    lastAlign := rdLe bs 0 8, alignTick := now }

/-- What a cell carries for the other direction leaves the latency as it is. -/
theorem State.takeLink_exists (s : State) (q : Nat) (c : Cell) : ∃ f, s.takeLink q c = s.modPort q f ∧ (f (s.port q)).plat = (s.port q).plat :=
  ⟨_, rfl, rfl⟩

/-- An alignment cell after what it carries for the other direction. -/
theorem State.align_spec (hs : Ok cmds s) (hinvalid : s.ftime.valid = false) (q : Nat) (c : Cell) : ∃ (g : Port) (f : FabricTime),
    (s.takeLink q c).hearAlign q c.data = { s.modPort q (fun _ => g.aligned (est16 s.now11) c.data) with ftime := f } ∧
    g.plat = (s.port q).plat ∧ (s.leadRank (BitVec.ofNat 12 (rdLe c.data 24 2)) = none → f = s.ftime) ∧
    (∀ r, s.leadRank (BitVec.ofNat 12 (rdLe c.data 24 2)) = some r → s.leadRank s.recs.fabric.addr = none → rdLe c.data 23 1 < 14 →
      f.valid = true ∧ f.leader = BitVec.ofNat 12 (rdLe c.data 24 2) ∧ f.hops.toNat = rdLe c.data 23 1 + 1 ∧
      f.via = BitVec.ofNat 12 (rdLe c.data 20 2) ∧ f.pon = BitVec.ofNat 32 (rdLe c.data 26 4)) := by
  obtain ⟨h, hlink, hplat⟩ := s.takeLink_exists q c
  obtain ⟨f, hf, hnone, hsome⟩ := State.hearLeader_spec (s := s.modPort q (fun p => (h p).aligned (est16 s.now11) c.data)) hinvalid q c.data
  refine ⟨h (s.port q), f, ?_, hplat, hnone, hsome⟩
  rw [hlink]
  refine Eq.trans (congrArg (State.hearLeader · q c.data) ?_) (hf.trans (congrArg (fun v : State => { v with ftime := f }) ?_))
  · exact State.modPort_modPort hs.ports_ q h (·.aligned (est16 s.now11) c.data)
  · exact State.modPort_congr rfl

/-! ### The clauses of R288, R291, R298, R300 to R302, R306 and R307 -/

theorem cellReceive_drops (hs : Ok cmds s) (hq : q < 16) (hup : (s.port q).state = 2) (hok : cellOk c = true) (hnak : c.nak = false)
    (hkind : c.ckind = 0 ∨ c.ckind = 3) (hseen : c.lseq = (s.port q).recvSeq ∨ 0x8000 ≤ (c.lseq - (s.port q).recvSeq).toNat) :
    exec (.cellReceive q c true) s = .next (s.modPort q (fun _ => (s.port q).linked c)) := by
  rw [exec_cellReceive_data hq hup hok hkind, State.takeLink_of_no_nak hnak, State.takeCell_seen]
  rw [State.port_modPort_same hs]
  exact hseen

theorem cellReceive_holds (hs : Ok cmds s) (hq : q < 16) (hup : (s.port q).state = 2) (hok : cellOk c = true) (hnak : c.nak = false)
    (hahead : (s.port q).ahead = []) (hlost : (s.port q).lost = []) (hkind : c.ckind = 0 ∨ c.ckind = 3)
    (hlo : 2 ≤ (c.lseq - (s.port q).recvSeq).toNat) (hhi : (c.lseq - (s.port q).recvSeq).toNat < 0x8000) :
    ∃ lost, exec (.cellReceive q c true) s =
        .next (s.modPort q (fun _ => { (s.port q).linked c with ahead := [c], lost := lost, nakDue := true })) ∧
      ∀ l : BitVec 16, l ∈ lost ↔ 0 < (l - (s.port q).recvSeq).toNat ∧
        (l - (s.port q).recvSeq).toNat < (c.lseq - (s.port q).recvSeq).toNat := by
  have hport := State.port_modPort_same hs q (fun _ => (s.port q).linked c)
  refine ⟨({ (s.port q).linked c with ahead := [c] } : Port).missing, ?_, Port.mem_missing (p := (s.port q).linked c) hhi⟩
  rw [exec_cellReceive_data hq hup hok hkind, State.takeLink_of_no_nak hnak, State.takeCell_gap (State.modPort_ok hs),
    State.modPort_modPort hs.ports_]
  · rw [hport]
    exact hahead
  · rw [hport]
    exact hlost
  · rw [hport]
    exact hlo
  · rw [hport]
    exact hhi

/-- The next cell in sequence, up to the router. -/
theorem exec_cellReceive_next (hs : Ok cmds s) (hq : q < 16) (hup : (s.port q).state = 2) (hok : cellOk c = true) (hnak : c.nak = false)
    (hahead : (s.port q).ahead = []) (hkind : c.ckind = 0 ∨ c.ckind = 3) (hnext : c.lseq = (s.port q).recvSeq + 1) {t : State}
    (ht : (s.modPort q (fun _ => { (s.port q).linked c with recvSeq := c.lseq })).routeCell q c = t) (hahead' : (t.port q).ahead = [])
    (hlost' : (t.port q).lost = []) : exec (.cellReceive q c true) s = .next t := by
  have hport := State.port_modPort_same hs q (fun _ => (s.port q).linked c)
  rw [exec_cellReceive_data hq hup hok hkind, State.takeLink_of_no_nak hnak]
  refine congrArg Host.Outcome.next (State.takeCell_next (State.modPort_ok hs) ?_ ?_ ?_ hahead' hlost')
  · rw [hport]
    exact hahead
  · rw [hport]
    exact hnext
  · rw [State.modPort_modPort hs.ports_]
    exact ht

theorem cellReceive_forwards (hs : Ok cmds s) (hq : q < 16) (hup : (s.port q).state = 2) (hok : cellOk c = true) (hnak : c.nak = false)
    (hahead : (s.port q).ahead = []) (hlost : (s.port q).lost = []) (hkind : c.ckind = 0 ∨ c.ckind = 3)
    (hnext : c.lseq = (s.port q).recvSeq + 1) (hforeign : c.ddev ≠ s.recs.fabric.addr) {o : Nat} (hroute : s.routePort c.ddev.toNat = o)
    (ho : o < 16) (hne : o ≠ q) (hkeep : (s.port o).discard = false) :
    exec (.cellReceive q c true) s = .next ((s.modPort q (fun _ => { (s.port q).linked c with recvSeq := c.lseq })).modPort o (fun x =>
      { x with outQ := x.outQ ++ [((if portEdge o = portEdge q then 0x8000 else 0x8010) + q,
        if portEdge o = portEdge q then s.portNet o + 8 else s.transitCycle (portEdge o) (s.portNet o + 32), c)] })) := by
  have hs' : Ok cmds (s.modPort q (fun _ => { (s.port q).linked c with recvSeq := c.lseq })) := State.modPort_ok hs
  have hport := State.port_modPort_same hs q (fun _ => { (s.port q).linked c with recvSeq := c.lseq })
  have hcycle := State.transitCycle_modPort (q := q) (f := fun _ => { (s.port q).linked c with recvSeq := c.lseq }) hs rfl
  have hrouted := State.routeCell_port (s := s.modPort q (fun _ => { (s.port q).linked c with recvSeq := c.lseq })) (q := q) hforeign hroute ho
    ((congrArg Port.discard (State.port_modPort_other hs hne _)).trans hkeep)
  rw [hcycle] at hrouted
  refine exec_cellReceive_next hs hq hup hok hnak hahead hkind hnext hrouted ?_ ?_
  · rw [State.port_modPort_other hs' hne.symm, hport]
    exact hahead
  · rw [State.port_modPort_other hs' hne.symm, hport]
    exact hlost

theorem cellReceive_rejects (hs : Ok cmds s) (hq : q < 16) (hup : (s.port q).state = 2) (hok : cellOk c = true) (hnak : c.nak = false)
    (hahead : (s.port q).ahead = []) (hlost : (s.port q).lost = []) (hkind : c.ckind = 0 ∨ c.ckind = 3)
    (hnext : c.lseq = (s.port q).recvSeq + 1) (hforeign : c.ddev ≠ s.recs.fabric.addr) (hroute : 16 < s.routePort c.ddev.toNat) :
    exec (.cellReceive q c true) s = .next (State.raise
      ((s.modPort q (fun _ => { (s.port q).linked c with recvSeq := c.lseq, rej := satIncr (s.port q).rej })).mark
        (portReg q 6) (s.marked (portReg q 6) + 1))
      ⟨0x2603, clsNote, none, none, none, q + 2 ^ 4 * c.sdev.toNat + 2 ^ 16 * c.ddev.toNat⟩) := by
  have hport (v : Port) (a n : Nat) (e : Ev) : (State.raise ((s.modPort q (fun _ => v)).mark a n) e).port q = v :=
    (congrArg (fun m => SMap.get Port.reset m q) (State.mark_ports _ _ _)).trans (State.port_modPort_same hs q fun _ => v)
  have hcount : (s.modPort q (fun _ => { (s.port q).linked c with recvSeq := c.lseq })).countPort q 6 1 =
      (s.modPort q (fun _ => { (s.port q).linked c with recvSeq := c.lseq, rej := satIncr (s.port q).rej })).mark (portReg q 6)
        (s.marked (portReg q 6) + 1) := by
    refine congrArg (State.mark · (portReg q 6) (s.marked (portReg q 6) + 1)) ((State.modPort_modPort hs.ports_ q _ _).trans ?_)
    rw [← satAdd_one]
    rfl
  have hrouted := State.routeCell_nowhere (s := s.modPort q (fun _ => { (s.port q).linked c with recvSeq := c.lseq })) (q := q) hforeign hroute
  rw [hcount] at hrouted
  refine exec_cellReceive_next hs hq hup hok hnak hahead hkind hnext hrouted ?_ ?_
  · rw [hport]
    exact hahead
  · rw [hport]
    exact hlost

theorem alignmentCellReceive_hears (hs : Ok cmds s) (hq : q < 16) (hup : (s.port q).state = 2) (hok : cellOk c = true)
    (hkind : c.ckind = 2) (hinvalid : s.ftime.valid = false) :
    ∃ t, exec (.alignmentCellReceive q c) s = .next t ∧ exec (.cellReceive q c true) s = .next t ∧
      { t with ports := s.ports, ftime := s.ftime } = s ∧ (∀ i, i ≠ q → t.port i = s.port i) ∧
      (t.port q).lastAlign = rdLe c.data 0 8 ∧ (t.port q).alignTick = est16 s.now11 ∧
      (t.port q).plat = (if rdLe c.data 32 8 = 0 then (s.port q).plat
        else BitVec.ofNat 16 ((est16 s.now11 - rdLe c.data 32 8 - rdLe c.data 40 8) * 33 / 64)) ∧
      (s.leadRank (BitVec.ofNat 12 (rdLe c.data 24 2)) = none → t.ftime = s.ftime) ∧
      (∀ r, s.leadRank (BitVec.ofNat 12 (rdLe c.data 24 2)) = some r → s.leadRank s.recs.fabric.addr = none → rdLe c.data 23 1 < 14 →
        t.ftime.valid = true ∧ t.ftime.leader = BitVec.ofNat 12 (rdLe c.data 24 2) ∧ t.ftime.hops.toNat = rdLe c.data 23 1 + 1 ∧
        t.ftime.via = BitVec.ofNat 12 (rdLe c.data 20 2) ∧ t.ftime.pon = BitVec.ofNat 32 (rdLe c.data 26 4)) := by
  have hexec := exec_cellReceive_align hq hup hok hkind
  obtain ⟨g, f, heq, hplat, hnone, hsome⟩ := State.align_spec hs hinvalid q c
  rw [heq] at hexec
  have hport := State.port_modPort_same hs q (fun _ => g.aligned (est16 s.now11) c.data)
  refine ⟨_, (exec_alignmentCellReceive hq hkind).trans hexec, hexec, rfl,
    fun i hi => State.port_modPort_other hs hi (fun _ => g.aligned (est16 s.now11) c.data),
    (congrArg Port.lastAlign hport :), (congrArg Port.alignTick hport :), (congrArg Port.plat hport).trans ?_, hnone, hsome⟩
  rw [← hplat]
  rfl

/-- Settles O46: the link part of a good cell, and then its kind and its place in the sequence. -/
theorem cellsAreReceived : Obligations.CellsAreReceived := by
  intro s q c fec p p1 buf hc hq hp
  subst hp
  have hs := hc.ok
  refine ⟨exec_cellReceive_lost hq, fun hup hok hnak hahead hlost hbuf hp1 => ?_, alignmentCellReceive_hears hs hq⟩
  obtain rfl : p1 = (s.port q).linked c := by
    rw [hp1, hbuf]
    rfl
  refine ⟨fun hkind => ?_, cellReceive_drops hs hq hup hok hnak, cellReceive_holds hs hq hup hok hnak hahead hlost,
    fun hkind hnext hforeign => ⟨fun o => cellReceive_forwards hs hq hup hok hnak hahead hlost hkind hnext hforeign,
      cellReceive_rejects hs hq hup hok hnak hahead hlost hkind hnext hforeign⟩⟩
  rw [exec_cellReceive_idle hq hup hok hkind, State.takeLink_of_no_nak hnak]

end Sys2Proof.Machine
end

section
/-!
How a fabric port comes up, loses lanes and goes down (R303 to R305).
-/
namespace Sys2Proof.Machine

variable {cmds : List Instr} {s : State} {q n : Nat} {tr : TrainingResult} {lane : BitVec 4} {cause : BitVec 2}

/-! ### Lanes -/

/-- The eight configured lanes are healthy, all or not. -/
theorem popCount_configured (v : BitVec 9) : (popCount 8 v.toNat != 8) = decide (v.toNat % 256 ≠ 255) := by
  revert v
  decide

theorem Port.positionAt_eq (p : Port) (net : Nat) : p.positionAt net = (p.nact.toNat * net + 5) / 6 := rfl

/-- Conditions outside rating leave the ports as they are. -/
theorem State.excursions_ports (s : State) (code : Nat) (p : Job → Bool) : (s.excursions code p).ports = s.ports := by
  refine foldl_keeps (P := fun u : State => u.ports = s.ports) rfl fun u j h => ?_
  have hkeep : (u.excursion code j).ports = s.ports := ((congrArg State.ports (u.excursion_posts code j) :) : _ = u.ports).trans h
  split
  · split
    · exact hkeep
    · exact h
  · exact h

/-- A port that goes down is lost to the jobs on it and to fabric time. -/
theorem State.portDown_eq (hs : Ok cmds s) (q : Nat) : s.portDown q = portLost s q := by
  have hnbr : ((((s.modPort q (fun p => { p with state := 3, downTick := s.beacon, returning := false })).raiseDev 0x2604 clsDevice q).excursions
      0x2604 (Job.onPort q)).port q).nbr = (s.port q).nbr := by
    have hport := State.port_modPort_same hs q fun p => { p with state := 3, downTick := s.beacon, returning := false }
    exact (congrArg (fun m => (SMap.get Port.reset m q).nbr) (State.excursions_ports _ _ _)).trans (congrArg Port.nbr hport :)
  simp only [State.portDown, hnbr]
  rfl

theorem State.runLanes_full (hn : 8 ≤ popCount 9 (s.port q).lanes.toNat) {u : State}
    (hu : u = s.modPort q (fun p => { p with
      state := 2, nact := 8, spared := decide ((s.port q).lanes.toNat % 256 ≠ 255), degraded := false, returning := false, discard := false
      position := (8 * s.portNet q + 5) / 6 })) :
    s.runLanes q = if (s.port q).returning then u.raise ⟨0x2605, clsNote, none, none, none, q⟩ else u := by
  subst hu
  simp only [State.runLanes, hn, if_true, popCount_configured]
  rfl

theorem State.runLanes_reduced (hn : n = popCount 9 (s.port q).lanes.toNat) (hlo : 4 ≤ n) (hhi : n < 8) : s.runLanes q = portReduced s q n := by
  have hnact : (BitVec.ofNat 4 n).toNat = n := Nat.mod_eq_of_lt (by omega)
  simp only [State.runLanes, ← hn, hlo, Nat.not_le.2 hhi, if_true, if_false, Port.positionAt_eq, hnact, portReduced, State.raiseDev,
    Nat.shiftLeft_eq, Nat.mul_comm n (2 ^ 4)]
  rfl

theorem State.runLanes_none (hs : Ok cmds s) (hn : popCount 9 (s.port q).lanes.toNat < 4) : s.runLanes q = portLost s q := by
  have hfull : ¬ 8 ≤ popCount 9 (s.port q).lanes.toNat := by omega
  simp only [State.runLanes, hfull, Nat.not_le.2 hn, if_false, State.portDown_eq hs]

/-! ### Training -/

/-- Port `q` with what its training found. -/
def State.trained (s : State) (q : Nat) (tr : TrainingResult) : State :=
  s.modPort q (fun p => { p with nbr := tr.nport ++ tr.naddr, plat := tr.plat, lanes := tr.lanes })

/-- The port record: enabled, and the neighbour's address, its port and the latency at most. -/
def State.portRecord (s : State) (q : Nat) : Bool × BitVec 12 × BitVec 4 × BitVec 16 := SMap.get (false, 0, 0, 0) s.recs.fabric.ports q

theorem exec_portTraining_idle (hup : (s.port q).state ≠ 1) : exec (.portTraining q tr) s = .next s :=
  congrArg Host.Outcome.next (if_pos (Or.inr hup))

/-- The neighbour and the latency are as recorded: the port runs on its lanes. -/
theorem exec_portTraining_runs (hq : q < 16) (hup : (s.port q).state = 1) (haddr : tr.naddr = (s.portRecord q).2.1)
    (hport : tr.nport = (s.portRecord q).2.2.1) (hplat : tr.plat ≤ (s.portRecord q).2.2.2) :
    exec (.portTraining q tr) s = .next ((s.trained q tr).runLanes q) :=
  congrArg Host.Outcome.next ((if_neg (by simp [hup, Nat.not_le.2 hq])).trans
    ((if_neg (not_or.2 ⟨not_not.2 haddr, not_not.2 hport⟩)).trans (if_neg (BitVec.not_lt.2 hplat))))

theorem exec_portTraining_miswired (hs : Ok cmds s) (hq : q < 16) (hup : (s.port q).state = 1)
    (hwrong : tr.naddr ≠ (s.portRecord q).2.1 ∨ tr.nport ≠ (s.portRecord q).2.2.1) :
    exec (.portTraining q tr) s = .next (portLost (((s.trained q tr).raise
      ⟨0x4404, clsDevice, none, none, none, q + 2 ^ 4 * tr.naddr.toNat + 2 ^ 16 * tr.nport.toNat⟩).modPort q
        (fun p => { p with heldDown := true })) q) := by
  have hok : Ok cmds (s.trained q tr) := State.modPort_ok hs
  refine congrArg Host.Outcome.next ((if_neg (by simp [hup, Nat.not_le.2 hq])).trans ((if_pos hwrong).trans ?_))
  rw [← State.portDown_eq (State.modPort_ok (State.raise_ok hok)), Nat.mul_comm (2 ^ 4), Nat.mul_comm (2 ^ 16),
    ← Nat.shiftLeft_eq, ← Nat.shiftLeft_eq]
  rfl

theorem exec_portTraining_late (hs : Ok cmds s) (hq : q < 16) (hup : (s.port q).state = 1) (haddr : tr.naddr = (s.portRecord q).2.1)
    (hport : tr.nport = (s.portRecord q).2.2.1) (hlate : (s.portRecord q).2.2.2 < tr.plat) :
    exec (.portTraining q tr) s = .next (portLost (((s.trained q tr).raise
      ⟨0x4405, clsDevice, none, none, none, q + 2 ^ 16 * tr.plat.toNat⟩).modPort q (fun p => { p with heldDown := true })) q) := by
  have hok : Ok cmds (s.trained q tr) := State.modPort_ok hs
  refine congrArg Host.Outcome.next ((if_neg (by simp [hup, Nat.not_le.2 hq])).trans
    ((if_neg (not_or.2 ⟨not_not.2 haddr, not_not.2 hport⟩)).trans ((if_pos hlate).trans ?_)))
  rw [← State.portDown_eq (State.modPort_ok (State.raise_ok hok)), Nat.mul_comm (2 ^ 16), ← Nat.shiftLeft_eq]
  rfl

/-! ### Lost lanes, and ports that come back or stay down -/

/-- Port `q` without lane `lane`. -/
def State.withoutLane (s : State) (q : Nat) (lane : BitVec 4) : State :=
  s.modPort q (fun p => { p with lanes := p.lanes &&& ~~~(1#9 <<< lane.toNat) })

/-- What BXL_LANE_LOST says of the lane and the cause. -/
def laneDetail (q : Nat) (lane : BitVec 4) (cause : BitVec 2) : Nat := q + 2 ^ 4 * lane.toNat + 2 ^ 8 * cause.toNat

/-- A lost lane at a port that is up: the spare is taken and the port trains again, or a lost spare is told, or the port runs on what is
left. -/
theorem exec_bxlLaneLost_up (hq : q < 16) (hup : (s.port q).state = 2) (hheld : (s.port q).heldDown = false)
    (hlane : (s.port q).lanes.getLsbD lane.toNat = true) (h9 : lane.toNat < 9) :
    exec (.bxlLaneLost q lane cause) s = .next (
      if lane.toNat < 8 ∧ (s.port q).lanes = 0x1FF ∧ (s.port q).spared = false then
        ((s.withoutLane q lane).raise ⟨0x4402, clsCorrected, none, none, none, laneDetail q lane cause + 2 ^ 10⟩).modPort q
          (fun p => { p with state := 1, spared := true })
      else if lane.toNat = 8 ∧ (s.port q).spared = false ∧ (s.port q).degraded = false then
        (s.withoutLane q lane).raise ⟨0x4402, clsDevice, none, none, none, laneDetail q lane cause⟩
      else ((s.withoutLane q lane).raise ⟨0x4402, clsDevice, none, none, none, laneDetail q lane cause⟩).runLanes q) := by
  have hstart : ¬ (16 ≤ q ∨ (s.port q).state = 0 ∨ (s.port q).heldDown = true ∨ 9 ≤ lane.toNat ∨
      ¬ (s.port q).lanes.getLsbD lane.toNat = true) := by
    simp [hup, hheld, hlane, Nat.not_le.2 hq, Nat.not_le.2 h9]
  refine congrArg Host.Outcome.next ((if_neg hstart).trans ?_)
  by_cases hspare : lane.toNat < 8 ∧ (s.port q).lanes = 0x1FF ∧ (s.port q).spared = false
  · simp only [hspare, hup, laneDetail, Nat.mul_comm (2 ^ 4), Nat.mul_comm (2 ^ 8), ← Nat.shiftLeft_eq, and_self, Bool.false_eq_true,
      not_false_eq_true, if_true, ne_eq, not_true_eq_false, if_false]
    rfl
  · simp only [hspare, hup, laneDetail, Nat.mul_comm (2 ^ 4), Nat.mul_comm (2 ^ 8), ← Nat.shiftLeft_eq, if_false, ne_eq,
      not_true_eq_false, Bool.not_eq_true]
    rfl

theorem exec_bxlLaneLost_none (h : (s.port q).lanes.getLsbD lane.toNat = false ∨ (s.port q).heldDown = true) :
    exec (.bxlLaneLost q lane cause) s = .next s := by
  refine congrArg Host.Outcome.next (if_pos ?_)
  obtain hlane | hheld := h
  · simp [hlane]
  · simp [hheld]

theorem exec_bxlPortUp_returns (hq : q < 16) (hup : (s.port q).state = 2 ∨ (s.port q).state = 3) (hheld : (s.port q).heldDown = false)
    (hlanes : (s.port q).lanes ≠ 0x1FF) :
    exec (.bxlPortUp q) s = .next (s.modPort q (fun p => { p with state := 1, lanes := 0x1FF, returning := true })) := by
  have hidle : ¬ ((s.port q).state = 0 ∨ (s.port q).state = 1) := by
    obtain hup | hup := hup <;> rw [hup] <;> decide
  refine congrArg Host.Outcome.next (if_neg ?_)
  rintro (hrange | hheld' | hdown | hdown | hall)
  · omega
  · exact Bool.false_ne_true (hheld.symm.trans hheld')
  · exact hidle (Or.inl hdown)
  · exact hidle (Or.inr hdown)
  · exact hlanes hall

theorem exec_bxlPortUp_none (h : (s.port q).heldDown = true ∨ (s.port q).lanes = 0x1FF) : exec (.bxlPortUp q) s = .next s := by
  refine congrArg Host.Outcome.next (if_pos ?_)
  obtain hheld | hlanes := h
  · simp [hheld]
  · simp [hlanes]

theorem exec_bxlDiscard_early (hearly : s.beacon < (s.port q).downTick + 100000 * s.recs.portDown) : exec (.bxlDiscard q) s = .next s :=
  congrArg Host.Outcome.next (if_pos (Or.inr (Or.inr (Or.inr hearly))))

theorem bxlDiscard_discards (hs : Ok cmds s) (hq : q < 16) (hdown : (s.port q).state = 3) (hkeep : (s.port q).discard = false)
    (hlate : (s.port q).downTick + 100000 * s.recs.portDown ≤ s.beacon) : ∃ t, exec (.bxlDiscard q) s = .next t ∧
      { t with ports := s.ports, marks := s.marks, log := s.log } = s ∧ (∀ i, i ≠ q → t.port i = s.port i) ∧
      t.port q = { s.port q with rej := satAdd (s.port q).rej (s.port q).outQ.length, outQ := [], discard := true } ∧
      t.log = s.log.raise s.now11 (s.evRecord ⟨0x2606, clsDevice, none, none, none, q⟩) := by
  obtain ⟨hrest, hport, hother⟩ := State.countPort_spec hs q 6 (s.port q).outQ.length
  have hok : Ok cmds (s.countPort q 6 (s.port q).outQ.length) := State.countPort_ok hs
  have hexec : exec (.bxlDiscard q) s = .next (((s.countPort q 6 (s.port q).outQ.length).modPort q
      (fun p => { p with outQ := [], discard := true })).raise ⟨0x2606, clsDevice, none, none, none, q⟩) :=
    congrArg Host.Outcome.next (if_neg (by simp [hdown, hkeep, Nat.not_le.2 hq, hlate]))
  have hsame := State.port_modPort_same hok q (fun p => { p with outQ := [], discard := true })
  have hkept (i : Nat) (hi : i ≠ q) := (State.port_modPort_other hok hi (fun p => { p with outQ := [], discard := true })).trans (hother i hi)
  generalize s.countPort q 6 (s.port q).outQ.length = u at *
  have hlog : u.log = s.log := (congrArg State.log hrest :)
  refine ⟨_, hexec, (congrArg (fun v : State => { v with log := s.log }) hrest :), hkept, hsame.trans ?_, ?_⟩
  · rw [hport]
    rfl
  · exact (congrArg (fun v : State => v.log.raise v.now11 (v.evRecord ⟨0x2606, clsDevice, none, none, none, q⟩)) hrest :)

/-! ### The clauses of R303 to R305 -/

theorem portTraining_comesUp (hs : Ok cmds s) (hq : q < 16) (hup : (s.port q).state = 1) (haddr : tr.naddr = (s.portRecord q).2.1)
    (hport : tr.nport = (s.portRecord q).2.2.1) (hplat : tr.plat ≤ (s.portRecord q).2.2.2) (hn : n = popCount 9 tr.lanes.toNat) :
    (8 ≤ n → ∀ u, u = (s.trained q tr).modPort q (fun p => { p with
        state := 2, nact := 8, spared := decide (tr.lanes.toNat % 256 ≠ 255), degraded := false, returning := false, discard := false
        position := (8 * s.portNet q + 5) / 6 }) →
      exec (.portTraining q tr) s = .next (if (s.port q).returning then u.raise ⟨0x2605, clsNote, none, none, none, q⟩ else u)) ∧
    (4 ≤ n → n < 8 → exec (.portTraining q tr) s = .next (portReduced (s.trained q tr) q n)) ∧
    (n < 4 → exec (.portTraining q tr) s = .next (portLost (s.trained q tr) q)) := by
  have htrained := State.port_modPort_same hs q (fun p => { p with nbr := tr.nport ++ tr.naddr, plat := tr.plat, lanes := tr.lanes })
  have hlanes : ((s.trained q tr).port q).lanes = tr.lanes := (congrArg Port.lanes htrained :)
  have hreturning : ((s.trained q tr).port q).returning = (s.port q).returning := (congrArg Port.returning htrained :)
  have hok : Ok cmds (s.trained q tr) := State.modPort_ok hs
  rw [exec_portTraining_runs hq hup haddr hport hplat]
  refine ⟨fun hfull u hu => ?_, fun hlo hhi => ?_, fun hnone => ?_⟩
  · rw [← hlanes] at hu
    rw [State.runLanes_full (u := u) (by rw [hlanes, ← hn]; exact hfull) hu, hreturning]
  · rw [State.runLanes_reduced (by rw [hlanes, hn]) hlo hhi]
  · rw [State.runLanes_none hok (by rw [hlanes, ← hn]; exact hnone)]

theorem bxlLaneLost_clauses (hs : Ok cmds s) (hq : q < 16) (hup : (s.port q).state = 2) (hheld : (s.port q).heldDown = false)
    (hlane : (s.port q).lanes.getLsbD lane.toNat = true) (h9 : lane.toNat < 9) {m : Nat}
    (hm : m = popCount 9 ((s.port q).lanes &&& ~~~(1#9 <<< lane.toNat)).toNat) :
    (lane.toNat < 8 → (s.port q).lanes = 0x1FF → (s.port q).spared = false → exec (.bxlLaneLost q lane cause) s = .next
      (((s.withoutLane q lane).raise ⟨0x4402, clsCorrected, none, none, none, laneDetail q lane cause + 2 ^ 10⟩).modPort q
        (fun p => { p with state := 1, spared := true }))) ∧
    (lane.toNat = 8 → (s.port q).spared = false → (s.port q).degraded = false → exec (.bxlLaneLost q lane cause) s = .next
      ((s.withoutLane q lane).raise ⟨0x4402, clsDevice, none, none, none, laneDetail q lane cause⟩)) ∧
    ((lane.toNat < 8 ∧ (s.port q).lanes ≠ 0x1FF) ∨ (s.port q).spared = true ∨ (lane.toNat = 8 ∧ (s.port q).degraded = true) →
      (4 ≤ m → m < 8 → exec (.bxlLaneLost q lane cause) s = .next
        (portReduced ((s.withoutLane q lane).raise ⟨0x4402, clsDevice, none, none, none, laneDetail q lane cause⟩) q m)) ∧
      (m < 4 → exec (.bxlLaneLost q lane cause) s = .next
        (portLost ((s.withoutLane q lane).raise ⟨0x4402, clsDevice, none, none, none, laneDetail q lane cause⟩) q))) := by
  have hless := State.port_modPort_same hs q (fun p => { p with lanes := p.lanes &&& ~~~(1#9 <<< lane.toNat) })
  have hlanes (e : Ev) : (((s.withoutLane q lane).raise e).port q).lanes = (s.port q).lanes &&& ~~~(1#9 <<< lane.toNat) :=
    (congrArg Port.lanes hless :)
  have hok (e : Ev) : Ok cmds ((s.withoutLane q lane).raise e) := State.raise_ok (State.modPort_ok hs)
  rw [exec_bxlLaneLost_up hq hup hheld hlane h9]
  refine ⟨fun hlt hall hspared => ?_, fun h8 hspared hdegraded => ?_, fun hfurther => ?_⟩
  · rw [if_pos ⟨hlt, hall, hspared⟩]
  · rw [if_neg (by omega), if_pos ⟨h8, hspared, hdegraded⟩]
  · have hnospare : ¬ (lane.toNat < 8 ∧ (s.port q).lanes = 0x1FF ∧ (s.port q).spared = false) := by
      rintro ⟨hlt, hall, hspared⟩
      rw [hspared] at hfurther
      simp [hall, hlt.ne] at hfurther
    have hgoesOn : ¬ (lane.toNat = 8 ∧ (s.port q).spared = false ∧ (s.port q).degraded = false) := by
      rintro ⟨h8, hspared, hdegraded⟩
      rw [hspared, hdegraded] at hfurther
      simp [h8] at hfurther
    rw [if_neg hnospare, if_neg hgoesOn]
    refine ⟨fun hlo hhi => ?_, fun hnone => ?_⟩
    · rw [State.runLanes_reduced (by rw [hlanes, hm]) hlo hhi]
    · rw [State.runLanes_none (hok _) (by rw [hlanes, ← hm]; exact hnone)]

/-- Settles O47: what training and a lost lane leave of the lanes decides what the port does. -/
theorem portsTrain : Obligations.PortsTrain := by
  intro s s1 q n m p tr lane cause r hc hq hp hr
  subst hp
  subst hr
  have hs := hc.ok
  refine ⟨exec_portTraining_idle, fun hup hn hs1 => ?_, fun hup hheld hlane h9 ev hev hm hs1 => ?_, exec_bxlLaneLost_none,
    exec_bxlPortUp_returns hq, exec_bxlPortUp_none, fun hdown hkeep => ⟨exec_bxlDiscard_early, bxlDiscard_discards hs hq hdown hkeep⟩⟩
  · subst hs1
    exact ⟨fun haddr hport hplat => portTraining_comesUp hs hq hup haddr hport hplat hn, exec_portTraining_miswired hs hq hup,
      exec_portTraining_late hs hq hup⟩
  · subst hs1
    subst hev
    exact bxlLaneLost_clauses hs hq hup hheld hlane h9 hm

end Sys2Proof.Machine
end

section
/-!
A boot (R338 to R342): the steps in order, and what each of them leaves of the fields that its result is told by.
-/
namespace Sys2Proof.Machine

variable {s : State} {b : BootInput} {d : Directory} {f o : Signed} {r : RecordSet}

/-! ### What a boot is judged by -/

/-- The fields of a state that the result of a boot is told by. -/
structure BootView where
  ready    : Bool
  beacon   : Nat
  round0   : Nat
  pon      : Word
  bootStat : Word
  senior   : Bool
  warmBoot : Bool
  recs     : Records
  hbm      : SMap Byte
  shelf    : SMap Byte
  ddr      : SMap Byte

def State.bootView (s : State) : BootView :=
  ⟨s.ready, s.beacon, s.round0, s.pon, s.mgt.bootStat, s.fuses.seniorSouth, s.pins.warmBoot, s.recs, s.mem.hbm, s.mem.shelf, s.mem.ddr⟩

/-- What each step of a loop keeps, the loop keeps. -/
theorem State.bootView_foldl {β : Type} {g : State → β → State} (hg : ∀ (u : State) (x : β), (g u x).bootView = u.bootView) (l : List β)
    (s : State) : (l.foldl g s).bootView = s.bootView :=
  foldl_keeps (P := fun u : State => u.bootView = s.bootView) rfl fun u x h => (hg u x).trans h

theorem State.bootView_ite {p : Prop} [Decidable p] {u v : State} {w : BootView} (hu : u.bootView = w) (hv : v.bootView = w) :
    (if p then u else v).bootView = w := by
  split
  · exact hu
  · exact hv

@[simp] theorem State.bootView_raise (s : State) (e : Ev) : (s.raise e).bootView = s.bootView := rfl

@[simp] theorem State.bootView_modRegion (s : State) (i : Nat) (g : Region → Region) : (s.modRegion i g).bootView = s.bootView := rfl

@[simp] theorem State.bootView_setStage (s : State) (stage fail : Nat) : (s.setStage stage fail).bootView =
    { s.bootView with bootStat := (s.mgt.bootStat &&& 0x1F00) ||| BitVec.ofNat 32 (stage + 16 * fail) } := rfl

@[simp] theorem State.bootView_bootBit (s : State) (i : Nat) (v : Bool) : (s.bootBit i v).bootView =
    { s.bootView with bootStat := if v then s.mgt.bootStat ||| (1#32 <<< i) else s.mgt.bootStat } := by
  cases v <;> rfl

/-! ### The self test -/

@[simp] theorem State.bootView_setCause (s : State) (i c : Nat) : (s.setCause i c).bootView = s.bootView :=
  (congrArg State.bootView (s.setCause_alike i c) :)

@[simp] theorem State.bootView_contain (s : State) (t : Nat) : (s.contain t).bootView = s.bootView :=
  ((congrArg State.bootView (((s.setCause t causeFault).dropFills_frame ((s.setCause t causeFault).tableCores t))) :) :
    (s.contain t).bootView = (s.setCause t causeFault).bootView).trans (s.bootView_setCause t causeFault)

@[simp] theorem State.bootView_setPcore (s : State) (t c : Nat) (v : Byte) : (s.setPcore t c v).bootView = s.bootView := rfl

@[simp] theorem State.bootView_setStat (s : State) (t st spares repairs : Nat) (dlr : Bool) :
    (s.setStat t st spares repairs dlr).bootView = s.bootView := rfl

@[simp] theorem State.bootView_retire (s : State) (t : Nat) (dlr : Bool) : (s.retire t dlr).bootView = s.bootView :=
  State.bootView_contain _ t

@[simp] theorem State.bootView_modTable (s : State) (t : Nat) (g : Table → Table) : (s.modTable t g).bootView = s.bootView := rfl

@[simp] theorem State.bootView_clearCause (s : State) (i c : Nat) : (s.clearCause i c).bootView = s.bootView := rfl

@[simp] theorem State.bootView_setCsr (s : State) (a : Nat) (v : Word) : (s.setCsr a v).bootView = s.bootView := rfl

@[simp] theorem State.bootView_raiseDev (s : State) (code cls detail : Nat) : (s.raiseDev code cls detail).bootView = s.bootView := rfl

@[simp] theorem State.bootView_substitute (s : State) (t lc : Nat) (bad : List Nat) : (s.substitute t lc bad).bootView = s.bootView := by
  have htried := State.bootView_foldl (fun (u : State) c => u.bootView_setPcore t c 2) ((s.spares t).takeWhile bad.contains) s
  unfold State.substitute
  dsimp only
  split
  · simp only [State.bootView_raise, State.bootView_retire, State.bootView_setStat, State.bootView_setPcore, htried]
  · rw [State.bootView_raise]
    refine State.bootView_ite ?_ ?_ <;>
      simp only [State.bootView_clearCause, State.bootView_setStat, State.bootView_modTable, State.bootView_setPcore, htried]

@[simp] theorem State.bootView_selfTest (s : State) (bad : List (Nat × Nat)) : (s.selfTest bad).bootView = s.bootView := by
  unfold State.selfTest
  dsimp only
  refine (State.bootView_foldl (fun u t => ?_) _ _).trans
    ((State.bootView_foldl (fun u x => ?_) _ _).trans (State.bootView_foldl (fun u x => ?_) _ _))
  · exact State.bootView_ite (u.bootView_modRegion t _) rfl
  · exact State.bootView_ite (u.bootView_substitute _ _ _) rfl
  · refine State.bootView_ite rfl ?_
    simp only [State.bootView_setStat, State.bootView_setPcore]

/-! ### Steps 7 to 10 -/

/-- The records are applied, and nothing else of the view changes. -/
theorem State.bootView_applyRecords (s : State) (o : Signed) (r : RecordSet) :
    (s.applyRecords o r).bootView = { s.bootView with recs := r.recs } := by
  have hstall (u : State) : ((List.range 64).foldl (fun acc t => acc.setCsr (chnReg t 0x900) (BitVec.ofNat 32 r.recs.stallTo)) u).bootView =
      u.bootView := State.bootView_foldl (fun v t => v.bootView_setCsr _ _) _ u
  unfold State.applyRecords
  dsimp only
  refine State.bootView_ite ?_ ((State.bootView_foldl (fun u i => u.bootView_modRegion i _) _ _).trans ?_)
  · rw [hstall]
    rfl
  · rw [hstall]
    rfl

@[simp] theorem State.bootView_trainFar (s : State) (b : BootInput) : (s.trainFar b).bootView = s.bootView := by
  have hmem (u : State) (p : List Nat) (m : Nat) :
      ({ u with mem := { u.mem with population := p, msize := m } } : State).bootView = u.bootView := rfl
  have htold (l : List Nat) : (l.foldl (fun (acc : State) n =>
      if s.recs.ddrList.getLsbD n ∧ ¬ ((trainedPopulation s.recs.ddrList b.ddrFound).map (·.1)).contains n
      then acc.raiseDev 0x4301 clsDevice n else acc) s).bootView = s.bootView :=
    State.bootView_foldl (fun u x => State.bootView_ite (u.bootView_raiseDev _ _ _) rfl) l s
  unfold State.trainFar
  dsimp only
  refine State.bootView_ite ?_ ?_
  · rw [hmem]
    exact htold _
  · rw [State.bootView_raiseDev, hmem]
    exact htold _

/-- The near tier is wiped, and the far tier unless it is kept. -/
theorem State.bootView_wipe (s : State) (keep : Bool) : (s.wipe keep).bootView = { s.bootView with
    hbm := [], shelf := [], ddr := if keep then s.mem.ddr else []
    bootStat := if keep then s.mgt.bootStat ||| (1#32 <<< 12) else s.mgt.bootStat } := by
  cases keep <;> rfl

/-- Round 0 begins at the round origin. -/
theorem State.bootView_beginRounds (s : State) : s.beginRounds.bootView =
    { s.bootView with beacon := 100 * ceilDiv s.beacon 100, round0 := 100 * ceilDiv s.beacon 100 } := by
  unfold State.beginRounds
  dsimp only
  refine State.bootView_ite rfl ?_
  exact State.bootView_foldl (fun u i => u.bootView_modRegion i _) _ _

theorem State.bootView_leadAlone (s : State) : s.leadAlone.bootView = s.bootView := State.bootView_ite rfl rfl

theorem State.leadAlone_mgt (s : State) : s.leadAlone.mgt = s.mgt := by
  unfold State.leadAlone
  split <;> rfl

/-- The device is ready, at stage 10, and the senior half leads. -/
theorem State.becomeReady_spec (s : State) : s.becomeReady.bootView =
      { s.bootView with ready := true, bootStat := (s.mgt.bootStat &&& 0x1F00) ||| 10 } ∧
    s.becomeReady.mgt.holder = s.fuses.seniorSouth ∧ s.becomeReady.mgt.leaseValid = true := by
  have hqp (x : QueuePair) : (if s.fuses.life ≠ 2 then s else s.modQp 16 (fun _ => x)).bootView = s.bootView := State.bootView_ite rfl rfl
  unfold State.becomeReady
  dsimp only
  generalize hu : (if s.fuses.life ≠ 2 then s else s.modQp 16 _) = u
  replace hqp : u.bootView = s.bootView := hu ▸ hqp _
  have hsenior : u.fuses.seniorSouth = s.fuses.seniorSouth := congrArg BootView.senior hqp
  refine ⟨?_, ?_, ?_⟩
  · rw [State.bootView_setStage, State.leadAlone_mgt, State.bootView_leadAlone]
    exact congrArg (fun v : BootView => { v with ready := true, bootStat := (v.bootStat &&& 0x1F00) ||| 10 }) hqp
  · exact (congrArg Mgt.holder (State.leadAlone_mgt _)).trans hsenior
  · exact congrArg Mgt.leaseValid (State.leadAlone_mgt _)

/-- Without the near tier the boot stops at stage 7. -/
theorem State.bootRecords_stops (hlanes : b.hostLanes = 0xFF) (hhbm : b.hbmOk = false) (last : Option PonEntry) (place : Nat) :
    (s.bootRecords b f o r last place).bootView = { s.bootView with
      recs := r.recs, bootStat := (s.bootView.bootStat &&& 0x1F00) ||| 0x57 } := by
  have heq : s.bootRecords b f o r last place = (s.applyRecords o r).setStage 7 5 := by
    simp only [State.bootRecords, hlanes, hhbm, if_true, Bool.false_eq_true, not_false_eq_true]
  have happly := State.bootView_applyRecords s o r
  rw [heq, State.bootView_setStage, happly]
  exact congrArg (fun v : BootView => { s.bootView with recs := r.recs, bootStat := (v.bootStat &&& 0x1F00) ||| 0x57 }) happly

/-- What a boot shows when it is done: it is ready at stage 10, in round 0 at the round origin, with the records in force and the near
tier wiped. -/
def BootView.done (v : BootView) (recs : Records) (keep : Bool) : BootView :=
  { v with
    ready := true, beacon := 100 * ceilDiv v.beacon 100, round0 := 100 * ceilDiv v.beacon 100, recs := recs
    hbm := [], shelf := [], ddr := if keep then v.ddr else []
    bootStat := ((if keep then v.bootStat ||| (1#32 <<< 12) else v.bootStat) &&& 0x1F00) ||| 10 }

/-- Steps 9 and 10. -/
theorem State.finishBoot_spec (s : State) (keep : Bool) (bad : List (Nat × Nat)) :
    ((s.wipe keep).selfTest bad).beginRounds.becomeReady.bootView = s.bootView.done s.recs keep ∧
    ((s.wipe keep).selfTest bad).beginRounds.becomeReady.mgt.holder = s.fuses.seniorSouth ∧
    ((s.wipe keep).selfTest bad).beginRounds.becomeReady.mgt.leaseValid = true := by
  have htested := (State.bootView_selfTest (s.wipe keep) bad).trans (s.bootView_wipe keep)
  generalize (s.wipe keep).selfTest bad = u at htested
  have hbegun := u.bootView_beginRounds.trans
    (congrArg (fun v : BootView => { v with beacon := 100 * ceilDiv v.beacon 100, round0 := 100 * ceilDiv v.beacon 100 }) htested)
  generalize u.beginRounds = t at hbegun
  obtain ⟨hview, hholder, hvalid⟩ := t.becomeReady_spec
  exact ⟨hview.trans (congrArg (fun v : BootView => { v with ready := true, bootStat := (v.bootStat &&& 0x1F00) ||| 10 }) hbegun),
    hholder.trans (congrArg BootView.senior hbegun), hvalid⟩

/-- A boot goes through to the end; the far tier is kept at most after a warm reset. -/
theorem State.bootRecords_ready (hlanes : b.hostLanes = 0xFF) (hhbm : b.hbmOk = true) (last : Option PonEntry) (place : Nat) :
    ∃ keep, (keep = true → s.bootView.warmBoot = true) ∧ (s.bootRecords b f o r last place).bootView = s.bootView.done r.recs keep ∧
      (s.bootRecords b f o r last place).mgt.holder = s.bootView.senior ∧ (s.bootRecords b f o r last place).mgt.leaseValid = true := by
  have htrained := (State.bootView_trainFar (s.applyRecords o r) b).trans (State.bootView_applyRecords s o r)
  unfold State.bootRecords
  simp only [hlanes, hhbm, if_true, not_true_eq_false, if_false]
  generalize (s.applyRecords o r).trainFar b = u at htrained
  generalize hkeep : (u.fuses.life == 2 && _ && _ && u.pins.warmBoot) = keep
  have hwarm (h : keep = true) : s.pins.warmBoot = true :=
    (congrArg BootView.warmBoot htrained).symm.trans (Bool.and_eq_true_iff.1 (hkeep.trans h)).2
  refine ⟨keep, hwarm, ?_⟩
  generalize hv : ({ u with nor := _, mgt := _ } : State) = v
  have hview : v.bootView = { s.bootView with recs := r.recs } := hv ▸ htrained
  obtain ⟨hdone, hholder, hvalid⟩ := v.finishBoot_spec keep b.coresBad
  have hall := hdone.trans (congrArg (fun w : BootView => w.done w.recs keep) hview)
  have hsenior := hholder.trans (congrArg BootView.senior hview)
  split
  · exact ⟨hall, hsenior, hvalid⟩
  · exact ⟨hall, hsenior, hvalid⟩

/-! ### Steps 1 to 6 -/

theorem State.readRecordCopy_bootBit (s : State) (i : Nat) (v : Bool) : (s.bootBit i v).readRecordCopy = s.readRecordCopy := by
  cases v <;> rfl

theorem State.nor_bootBit (s : State) (i : Nat) (v : Bool) : (s.bootBit i v).nor = s.nor := by
  cases v <;> rfl

/-- The active object is good. -/
theorem State.pick_active {α : Type} {kind : Nat} {read : Bool → Option α} {x : α} (h : read (d.sel.getLsbD kind) = some x) :
    s.pick d kind read = some (x, d, [], s.bootBit (8 + kind) (d.sel.getLsbD kind)) := by
  simp only [State.pick, h]

/-- Neither object is good. -/
theorem State.pick_neither {α : Type} {kind : Nat} {read : Bool → Option α} (h0 : read false = none) (h1 : read true = none) :
    s.pick d kind read = none := by
  cases hsel : d.sel.getLsbD kind <;> simp [State.pick, hsel, h0, h1]

theorem State.countPowerOn_written (s : State) :
    s.countPowerOn true = some (s.recordPowerOn (nextCount s.nor) (nextEntry s.nor), (nextEntry s.nor).1) :=
  if_neg (by decide)

/-- The objects that a boot has chosen, as MGT_BOOTSTAT shows them. -/
def State.chosen (s : State) (d : Directory) : State := (s.bootBit 8 (d.sel.getLsbD 0)).bootBit 9 (d.sel.getLsbD 1)

/-- The power-on counted, and the firmware started. -/
def State.started (s : State) (f : Signed) : State := (s.recordPowerOn (nextCount s.nor) (nextEntry s.nor)).startFirmware f

theorem State.bootFrom_noFirmware (h0 : s.readObject true false = none) (h1 : s.readObject true true = none) :
    s.bootFrom b d [] = s.setStage 2 2 := by
  unfold State.bootFrom
  rw [State.pick_neither h0 h1]

theorem State.bootFrom_noRecords (hf : s.readObject true (d.sel.getLsbD 0) = some f) (h0 : s.readRecordCopy false = none)
    (h1 : s.readRecordCopy true = none) : s.bootFrom b d [] = (s.bootBit 8 (d.sel.getLsbD 0)).setStage 3 3 := by
  have hnone := State.pick_neither (s := s.bootBit 8 (d.sel.getLsbD 0)) (d := d) (kind := 1) (read := s.readRecordCopy) h0 h1
  unfold State.bootFrom
  rw [State.pick_active hf]
  dsimp only
  rw [State.readRecordCopy_bootBit, Nat.add_zero, hnone]

theorem State.bootFrom_noCount (hf : s.readObject true (d.sel.getLsbD 0) = some f) (hr : s.readRecordCopy (d.sel.getLsbD 1) = some (o, r))
    (hpon : b.ponOk = false) : s.bootFrom b d [] = (s.chosen d).setStage 4 4 := by
  have hpick := State.pick_active (s := s.bootBit 8 (d.sel.getLsbD 0)) (d := d) (kind := 1) (read := s.readRecordCopy) hr
  unfold State.bootFrom
  rw [State.pick_active hf]
  dsimp only
  rw [State.readRecordCopy_bootBit, Nat.add_zero, hpick, hpon]
  rfl

theorem State.bootFrom_records (hf : s.readObject true (d.sel.getLsbD 0) = some f) (hr : s.readRecordCopy (d.sel.getLsbD 1) = some (o, r))
    (hpon : b.ponOk = true) :
    ∃ last place, s.bootFrom b d [] = ((s.chosen d).started f).bootRecords b f o r last place := by
  have hpick := State.pick_active (s := s.bootBit 8 (d.sel.getLsbD 0)) (d := d) (kind := 1) (read := s.readRecordCopy) hr
  refine ⟨lastEntry (s.chosen d).nor, (nextEntry (s.chosen d).nor).1, ?_⟩
  unfold State.bootFrom
  rw [State.pick_active hf]
  dsimp only
  rw [State.readRecordCopy_bootBit, Nat.add_zero, hpick, hpon]
  dsimp only
  rw [State.countPowerOn_written, List.append_nil, List.append_nil]
  dsimp only
  rw [List.foldl_nil]
  rfl

/-- MGT_BOOTSTAT of a boot that has chosen its objects. -/
def chosenStat (d : Directory) : Word :=
  (if d.sel.getLsbD 0 then 1#32 <<< 8 else 0) ||| (if d.sel.getLsbD 1 then 1#32 <<< 9 else 0)

theorem State.bootView_chosen (h : s.mgt.bootStat = 0) (d : Directory) : (s.chosen d).bootView = { s.bootView with bootStat := chosenStat d } := by
  unfold State.chosen chosenStat State.bootBit
  cases d.sel.getLsbD 0 <;> cases d.sel.getLsbD 1 <;> simp [State.bootView, h]

theorem State.bootView_recordPowerOn (s : State) (count : Nat) (p : Nat × SMap Byte) : (s.recordPowerOn count p).bootView =
    { s.bootView with pon := BitVec.ofNat 32 count } := by
  unfold State.recordPowerOn
  dsimp only
  split
  · rfl
  · rfl

theorem State.bootView_startFirmware (s : State) (f : Signed) : (s.startFirmware f).bootView = s.bootView := rfl

theorem State.bootView_started (s : State) (f : Signed) : (s.started f).bootView =
    { s.bootView with pon := BitVec.ofNat 32 (nextCount s.nor) } :=
  (State.bootView_startFirmware (s.recordPowerOn (nextCount s.nor) (nextEntry s.nor)) f).trans
    (State.bootView_recordPowerOn s (nextCount s.nor) (nextEntry s.nor))

/-! ### BOOT -/

/-- The reference of a device that boots. -/
def State.referenced (s : State) : State := { s with pins := { s.pins with refPresent := !s.pins.holdover } }

theorem exec_boot_noDirectory (hrun : s.running = true) (hready : s.ready = false) (hboot : s.mgt.bootStat = 0)
    (hd : readDirectory s.nor = none) : exec (.boot b) s = .next (s.referenced.setStage 1 1) := by
  refine congrArg Host.Outcome.next ((if_neg (by simp [hrun, hready, hboot])).trans ?_)
  dsimp only
  rw [hd]
  rfl

theorem State.lifeCycle_erased (h : readCommand s.nor = none) : s.lifeCycle = (s, []) := by
  unfold State.lifeCycle
  rw [h]

theorem exec_boot_directory (hrun : s.running = true) (hready : s.ready = false) (hboot : s.mgt.bootStat = 0)
    (hd : readDirectory s.nor = some d) (hcmd : readCommand s.nor = none) : exec (.boot b) s =
      .next (if s.fuses.life = (4 : BitVec 3) then s.referenced.setStage 2 6 else s.referenced.bootFrom b d []) := by
  have hlife : s.referenced.lifeCycle = (s.referenced, []) := State.lifeCycle_erased hcmd
  refine congrArg Host.Outcome.next ((if_neg (by simp [hrun, hready, hboot])).trans ?_)
  dsimp only
  rw [hd]
  dsimp only
  unfold State.referenced at hlife ⊢
  rw [hlife]

theorem exec_boot_ready (hready : s.ready = true) : exec (.boot b) s = .next s :=
  congrArg Host.Outcome.next (if_pos (Or.inr (Or.inl hready)))

/-! ### MGT_BOOTSTAT -/

theorem State.referenced_setStage (h : s.mgt.bootStat = 0) {stage fail : Nat} {w : Word} (hw : BitVec.ofNat 32 (stage + 16 * fail) = w) :
    s.referenced.setStage stage fail = { s with
    mgt := { s.mgt with bootStat := w }, pins := { s.pins with refPresent := !s.pins.holdover } } := by
  have hstat : (s.referenced.mgt.bootStat &&& 0x1F00) ||| BitVec.ofNat 32 (stage + 16 * fail) = w := by
    rw [show s.referenced.mgt.bootStat = 0 from h, hw]
    simp
  unfold State.setStage
  rw [hstat]
  rfl

/-- STAGE and FAIL stand apart from the bits that a boot has set. -/
theorem field_stage (x : Word) {n : Nat} (hn : n < 256) : field ((x &&& 0x1F00) ||| BitVec.ofNat 32 n) 7 0 = n := by
  have hlow : x.toNat % 2 ^ 8 &&& 0x1F00 % 2 ^ 8 = 0 := Nat.and_zero _
  simp only [field, fieldN, BitVec.toNat_or, BitVec.toNat_and, BitVec.toNat_ofNat]
  rw [Nat.shiftRight_zero]
  change ((x.toNat &&& 0x1F00) ||| n % 2 ^ 32) % 2 ^ 8 = n
  rw [Nat.or_mod_two_pow, Nat.and_mod_two_pow, hlow, Nat.zero_or]
  omega

/-- The bits that name the objects in use stay when a boot is done. -/
theorem getLsbD_done (d : Directory) (keep : Bool) :
    (((if keep then chosenStat d ||| (1#32 <<< 12) else chosenStat d) &&& 0x1F00) ||| 10).getLsbD 8 = d.sel.getLsbD 0 ∧
    (((if keep then chosenStat d ||| (1#32 <<< 12) else chosenStat d) &&& 0x1F00) ||| 10).getLsbD 9 = d.sel.getLsbD 1 := by
  unfold chosenStat
  cases d.sel.getLsbD 0 <;> cases d.sel.getLsbD 1 <;> cases keep <;> decide

/-! ### The clauses of R338 to R342 -/

theorem boot_noFirmware (hrun : s.running = true) (hready : s.ready = false) (hboot : s.mgt.bootStat = 0)
    (hd : readDirectory s.nor = some d) (hcmd : readCommand s.nor = none) (hlife : s.fuses.life ≠ 4) (h0 : s.readObject true false = none)
    (h1 : s.readObject true true = none) : exec (.boot b) s = .next { s with
      mgt := { s.mgt with bootStat := 0x22 }, pins := { s.pins with refPresent := !s.pins.holdover } } := by
  rw [exec_boot_directory hrun hready hboot hd hcmd, if_neg hlife, State.bootFrom_noFirmware (s := s.referenced) h0 h1]
  exact congrArg Host.Outcome.next (State.referenced_setStage hboot (by decide))

theorem boot_noRecords (hrun : s.running = true) (hready : s.ready = false) (hboot : s.mgt.bootStat = 0)
    (hd : readDirectory s.nor = some d) (hcmd : readCommand s.nor = none) (hlife : s.fuses.life ≠ 4)
    (hf : s.readObject true (d.sel.getLsbD 0) = some f) (h0 : s.readRecordCopy false = none) (h1 : s.readRecordCopy true = none) :
    ∃ t, exec (.boot b) s = .next t ∧ t.ready = false ∧ field t.mgt.bootStat 7 0 = 0x33 := by
  refine ⟨(s.referenced.bootBit 8 (d.sel.getLsbD 0)).setStage 3 3, ?_, ?_, field_stage _ (by decide)⟩
  · rw [exec_boot_directory hrun hready hboot hd hcmd, if_neg hlife, State.bootFrom_noRecords (s := s.referenced) hf h0 h1]
  · exact (congrArg BootView.ready (s.referenced.bootView_bootBit 8 (d.sel.getLsbD 0))).trans hready

theorem boot_noCount (hrun : s.running = true) (hready : s.ready = false) (hboot : s.mgt.bootStat = 0)
    (hd : readDirectory s.nor = some d) (hcmd : readCommand s.nor = none) (hlife : s.fuses.life ≠ 4)
    (hf : s.readObject true (d.sel.getLsbD 0) = some f) (hr : s.readRecordCopy (d.sel.getLsbD 1) = some (o, r)) (hpon : b.ponOk = false) :
    ∃ t, exec (.boot b) s = .next t ∧ t.ready = false ∧ field t.mgt.bootStat 7 0 = 0x44 := by
  have hview := State.bootView_chosen (s := s.referenced) hboot d
  refine ⟨(s.referenced.chosen d).setStage 4 4, ?_, ?_, field_stage _ (by decide)⟩
  · rw [exec_boot_directory hrun hready hboot hd hcmd, if_neg hlife, State.bootFrom_noCount (s := s.referenced) hf hr hpon]
  · exact (congrArg BootView.ready hview).trans hready

/-- What a boot shows as it applies its records. -/
theorem State.bootView_before (hboot : s.mgt.bootStat = 0) (f : Signed) : ((s.referenced.chosen d).started f).bootView =
    { s.bootView with bootStat := chosenStat d, pon := BitVec.ofNat 32 (nextCount s.nor) } := by
  have hnor : (s.referenced.chosen d).nor = s.nor := (State.nor_bootBit _ 9 _).trans (State.nor_bootBit _ 8 _)
  rw [State.bootView_started, hnor, State.bootView_chosen (s := s.referenced) hboot]
  rfl

theorem boot_noNearTier (hrun : s.running = true) (hready : s.ready = false) (hboot : s.mgt.bootStat = 0)
    (hd : readDirectory s.nor = some d) (hcmd : readCommand s.nor = none) (hlife : s.fuses.life ≠ 4)
    (hf : s.readObject true (d.sel.getLsbD 0) = some f) (hr : s.readRecordCopy (d.sel.getLsbD 1) = some (o, r)) (hpon : b.ponOk = true)
    (hlanes : b.hostLanes = 0xFF) (hhbm : b.hbmOk = false) :
    ∃ t, exec (.boot b) s = .next t ∧ t.ready = false ∧ field t.mgt.bootStat 7 0 = 0x57 := by
  obtain ⟨last, place, heq⟩ := State.bootFrom_records (s := s.referenced) (b := b) hf hr hpon
  have hbefore := State.bootView_before (d := d) hboot f
  have hview := State.bootRecords_stops (s := (s.referenced.chosen d).started f) (f := f) (o := o) (r := r) hlanes hhbm last place
  have hexec := exec_boot_directory (b := b) hrun hready hboot hd hcmd
  rw [if_neg hlife, heq] at hexec
  rw [hbefore] at hview
  refine ⟨_, hexec, ?_, ?_⟩
  · exact (congrArg BootView.ready hview).trans hready
  · exact (congrArg (fun v : BootView => field v.bootStat 7 0) hview).trans (field_stage _ (by decide))

/-- Round origins are 100 ticks apart. -/
theorem roundOrigin_spec (n : Nat) : 100 * ceilDiv n 100 % 100 = 0 ∧ n ≤ 100 * ceilDiv n 100 ∧ 100 * ceilDiv n 100 < n + 100 := by
  unfold ceilDiv
  omega

theorem boot_comesUp (hrun : s.running = true) (hready : s.ready = false) (hboot : s.mgt.bootStat = 0)
    (hd : readDirectory s.nor = some d) (hcmd : readCommand s.nor = none) (hlife : s.fuses.life ≠ 4)
    (hf : s.readObject true (d.sel.getLsbD 0) = some f) (hr : s.readRecordCopy (d.sel.getLsbD 1) = some (o, r)) (hpon : b.ponOk = true)
    (hlanes : b.hostLanes = 0xFF) (hhbm : b.hbmOk = true) :
    ∃ t, exec (.boot b) s = .next t ∧ t.ready = true ∧ field t.mgt.bootStat 7 0 = 0x0A ∧
      t.mgt.bootStat.getLsbD 8 = d.sel.getLsbD 0 ∧ t.mgt.bootStat.getLsbD 9 = d.sel.getLsbD 1 ∧
      t.beacon % 100 = 0 ∧ s.beacon ≤ t.beacon ∧ t.beacon < s.beacon + 100 ∧ t.round0 = t.beacon ∧ t.recs = r.recs ∧
      t.pon = BitVec.ofNat 32 (nextCount s.nor) ∧ t.mgt.holder = s.fuses.seniorSouth ∧ t.mgt.leaseValid = true ∧
      t.mem.hbm = [] ∧ t.mem.shelf = [] ∧ (s.pins.warmBoot = false → t.mem.ddr = []) := by
  obtain ⟨last, place, heq⟩ := State.bootFrom_records (s := s.referenced) (b := b) hf hr hpon
  have hbefore := State.bootView_before (d := d) hboot f
  obtain ⟨keep, hkeep, hview, hholder, hvalid⟩ :=
    State.bootRecords_ready (s := (s.referenced.chosen d).started f) (f := f) (o := o) (r := r) hlanes hhbm last place
  have hexec := exec_boot_directory (b := b) hrun hready hboot hd hcmd
  rw [if_neg hlife, heq] at hexec
  rw [hbefore] at hkeep hview hholder
  generalize ((s.referenced.chosen d).started f).bootRecords b f o r last place = t at hexec hview hholder hvalid
  have hbeacon : t.beacon = 100 * ceilDiv s.beacon 100 := congrArg BootView.beacon hview
  have hround : t.round0 = 100 * ceilDiv s.beacon 100 := congrArg BootView.round0 hview
  have hstat : t.mgt.bootStat = ((if keep then chosenStat d ||| (1#32 <<< 12) else chosenStat d) &&& 0x1F00) ||| 10 :=
    congrArg BootView.bootStat hview
  have hddr : t.mem.ddr = if keep then s.mem.ddr else [] := congrArg BootView.ddr hview
  obtain ⟨hmult, hge, hlt⟩ := roundOrigin_spec s.beacon
  refine ⟨t, hexec, congrArg BootView.ready hview, ?_, ?_, ?_, ?_, ?_, ?_, hround.trans hbeacon.symm, congrArg BootView.recs hview,
    congrArg BootView.pon hview, hholder, hvalid, congrArg BootView.hbm hview, congrArg BootView.shelf hview, fun hcold => ?_⟩
  · rw [hstat]
    exact field_stage _ (by decide)
  · rw [hstat, (getLsbD_done d keep).1]
  · rw [hstat, (getLsbD_done d keep).2]
  · rw [hbeacon, hmult]
  · rw [hbeacon]
    exact hge
  · rw [hbeacon]
    exact hlt
  · rw [hddr, if_neg fun h => Bool.false_ne_true (hcold.symm.trans (hkeep h))]

/-- Settles O50: each step stops the boot, or leaves the fields that the result is told by to the next. -/
theorem bootsRunOrStop : Obligations.BootsRunOrStop := by
  intro s b d f o r _ hrun hready hboot
  refine ⟨fun hd => ?_, fun hd hcmd => ⟨fun hlife => ?_, ?_, ?_, ?_⟩, fun s' hready' => exec_boot_ready hready'⟩
  · rw [exec_boot_noDirectory hrun hready hboot hd]
    exact congrArg Host.Outcome.next (State.referenced_setStage hboot (by decide))
  · rw [exec_boot_directory hrun hready hboot hd hcmd, if_pos hlife]
    exact congrArg Host.Outcome.next (State.referenced_setStage hboot (by decide))
  · exact boot_noFirmware hrun hready hboot hd hcmd
  · exact boot_noRecords hrun hready hboot hd hcmd
  · exact fun hlife hf hr => ⟨boot_noCount hrun hready hboot hd hcmd hlife hf hr, fun hpon hlanes =>
      ⟨boot_noNearTier hrun hready hboot hd hcmd hlife hf hr hpon hlanes, boot_comesUp hrun hready hboot hd hcmd hlife hf hr hpon hlanes⟩⟩

end Sys2Proof.Machine
end
